-- ==== Sys2Proof/Word.lean ====
section
/-!
DEFINITION. Word.lean: the words of the CZ3-1152 (R6: direct registers are 32 bits wide; R452: memory is bytes).
-/

namespace Sys2Proof

/-- A byte of memory. -/
abbrev Byte := BitVec 8

/-- A 32-bit register or command word (R6, R105). -/
abbrev Word := BitVec 32

/-- A 64-bit value: two consecutive registers, low half first (R6). -/
abbrev DWord := BitVec 64

end Sys2Proof
end

