-- ==== Sys2Proof/Syntax.lean ====
section
/-!
DEFINITION. Syntax.lean: the commands and events of the CZ3-1152, one constructor of `Instr` per row of
spec/opcode_table.json, in the table's order, with the operands the row's rule names.
-/

namespace Sys2Proof

/-- Who makes a register access (R9, R106, R111, R298, R299, R418). -/
inductive Agent
  | pf                     -- the host, through the physical function's BAR0
  | vf (n : Nat)           -- the host, through virtual function n's BAR0
  | core (t : Nat)         -- the scalar core of tile t, through its local register port
  | service (n : Nat)      -- Ittan Service, holding partition n's window set
  | root                   -- Ittan Root
  deriving DecidableEq, Repr

/-- What a neighbour sends at step 5 of link training (R233, R234), with what it asks at step 6 (R235). -/
structure PartnerInfo where
  chipId  : Nat
  port    : Nat
  dims    : Word
  stratum : Nat
  asks    : Bool
  deriving DecidableEq, Repr

/-- A heartbeat's contents (R237, R406). -/
structure Heartbeat where
  seq     : Nat
  stratum : Nat
  leader  : Bool
  tTx     : Int
  tRx     : Int
  echo    : Int
  deriving DecidableEq, Repr

/-- A Ladle packet (Table 9.3) with the DEST of its routing header. -/
structure Packet where
  op    : Nat
  src   : Nat
  tag   : Nat
  part  : Nat
  issue : Nat
  addr  : Nat
  len   : Nat
  dest  : Nat
  data  : List Byte
  deriving DecidableEq, Repr

/-- A collective's signature (R278) with the job flags ORed along it (R282). -/
structure Signature where
  op     : Nat
  rfn    : Nat
  wfmt   : Nat
  pad    : Bool
  dense  : Bool
  root   : Nat
  count  : Nat
  dstCap : Nat
  smode  : Nat
  km1    : Nat
  vfmt   : Nat
  origin : Nat
  modes  : Nat
  key    : Nat
  seq    : Nat
  jflags : Nat
  deriving DecidableEq, Repr

/-- A fragment header (Table 10.3). -/
structure FragHdr where
  step   : Nat
  axis   : Nat
  ring   : Nat
  offset : Nat
  len    : Nat
  jflags : Nat
  scount : Nat
  deriving DecidableEq, Repr

/-- Which transfer of the schedule a fragment belongs to: the step, axis and ring of its header (Table 10.3). -/
structure FragPlace where
  step : Nat
  axis : Nat
  ring : Nat
  deriving DecidableEq, Repr

/-- What a counts message and a barrier arrival carry of their sender: the sequence number, the rank it speaks of, and job
flags (R270, R280, R282). -/
structure CollMsg where
  seq    : Nat
  rank   : Nat
  jflags : Nat
  deriving DecidableEq, Repr

/-- Fragment slots that a ring neighbour grants (R273, R274). -/
structure SlotGrant where
  nb    : Nat
  slots : List Nat
  deriving DecidableEq, Repr

/-- How the expansion of a seed ends (R76): the pattern is stored and good; it is stored and loses a bit later, which the
next command that takes it finds; or its parity check fails. -/
inductive SeedEnd
  | good | spoiled | failed
  deriving DecidableEq, Repr

/-- The messages that travel one hop on VC 0 (R235, R239, R243). -/
inductive CtrlMsg
  | leadReq | leadAck | leadNak | downNotice
  | signature (part group : Nat) (s : Signature) (tag : Option DWord)
  | counts (part group seq rank count jflags : Nat)
  | barrier (part group seq rank jflags : Nat)
  | abort (part group seq code origin : Nat) (tag : Option DWord)
  | grant (part group : Nat) (slots : List Nat)
  deriving DecidableEq, Repr

/-- A flit's body (R228, R229, R273). -/
inductive FlitBody
  | empty
  | ctrl (m : CtrlMsg)
  | heartbeat (hb : Heartbeat)
  | packets (ps : List Packet)
  | frag (hdr : Option FragHdr) (data : List Byte)
  deriving DecidableEq, Repr

/-- A flit: its routing header (Table 9.2) and its body. `dirNeg` and `spent` carry the original direction of a
detoured hop and the 2-hop surplus of R251 and R252, for which Table 9.2 names no bits (log 79). -/
structure Flit where
  typ    : Nat
  seq    : Nat
  ack    : Nat
  vc     : Nat
  dclass : Bool
  detour : Bool
  dax    : Nat
  dirNeg : Bool
  spent  : Bool
  dest   : Nat
  cvc    : Nat
  ccnt   : Nat
  stream : Nat
  units  : Nat
  body   : FlitBody
  deriving DecidableEq, Repr

/-- How a received RS(544,514) codeword decodes (R228, R238). -/
inductive CodewordResult
  | clean | corrected | uncorrectable
  deriving DecidableEq, Repr

/-- What one sensor of a cooling reading answers (R426, R428). -/
inductive SensorResult
  | data (b0 b1 : Byte) (pecOk : Bool)
  | nack
  | arbLost
  deriving DecidableEq, Repr

/-- The tile's critical-path monitors against their margin (R367). -/
inductive Margin
  | short | ok | above     -- short; within target; more than twice the target
  deriving DecidableEq, Repr

/-- The JTAG instructions R432 tells apart. -/
inductive JtagIr
  | extest | extestPulse | extestTrain | clamp | highz | bypass | idcode | sample | unpublished
  deriving DecidableEq, Repr

/-- The commands and events of the device: one constructor per row of spec/opcode_table.json.
Tiles are `t`, quarters `q`, gangs `g`, engines `e`, partitions `n`, mailbox pairs and ports `p`,
the position of a request among a pair's outstanding ones `k`. -/
inductive Instr
  -- register access (R6, R8)
  | registerWrite (a : Agent) (addr size : Nat) (val : DWord)
  | rcRead (a : Agent) (addr size : Nat)
  | lowHalfRead (a : Agent) (addr : Nat)
  -- matrix engine
  | matrixPass (t g : Nat)
  | weightLoad (t g : Nat)
  | modeChange (t : Nat)
  | matrixPassComplete (t g : Nat)
  | drainRow (t q : Nat)
  | rowLinkHold (t g i0 n0 d : Nat)
  | columnLinkRefuse (t g j0 n0 d : Nat)
  -- Rennet
  | seedExpansion (a : Agent) (t n : Nat) (hi : Word)
  | seedExpansionDone (t n : Nat) (how : SeedEnd)
  | srSeedWrite (a : Agent) (t : Nat) (hi : Word)
  | srReseedTake (t q : Nat)
  | rennetPartClear (a : Agent) (n : Nat) (val : Word)
  | drainPush (a : Agent) (t g : Nat) (val : Word)
  -- queues and synchronisation
  | queuePush (a : Agent) (t queue : Nat) (w7 : Word)
  | qOpcodeReject (t e : Nat)
  | semWait (t e : Nat)
  | semSignal (t e : Nat)
  | semSignalArrive (t sem count : Nat)
  | barSync (t e : Nat)
  | barArrive (t e : Nat)
  | fence (t e : Nat)
  | syncTimeout (t e : Nat)
  | faultRecordClear (a : Agent) (t : Nat) (val : Word)
  -- scalar core
  | scalarInstruction (t : Nat)
  | ecall (t : Nat)
  | ebreak (t : Nat)
  | svcReqClear (a : Agent) (t : Nat) (val : Word)
  | qctlStopWrite (a : Agent) (t : Nat) (val : Word)
  -- vector unit
  | vload (t : Nat)
  | vstore (t : Nat)
  | vop (t : Nat)
  | vsum (t : Nat)
  | vnarrow (t : Nat)
  -- Ladle
  | copy (t : Nat)
  | gather (t : Nat)
  | scatter (t : Nat)
  | zero (t : Nat)
  | pailInv (t : Nat)
  | ladleTxnIssue (t : Nat)
  | fabTagTake
  | ladleTxnComplete (t k : Nat)
  | ladleFabricTimeout (t k : Nat)
  -- Vat
  | vatEntryStart (c : Nat) (eligible : List Nat) (upsets : List (Nat × Byte))
  | vatRefresh (c : Nat)
  | vatLaneCal (c : Nat) (ok : Bool)
  | senseLineTest (c : Nat) (raw : List Bool)
  | vatScrubRow (c : Nat) (upsets : List (Nat × Nat × Byte))
  | scrubForce (c : Nat)
  | repairCopyRow (c : Nat)
  -- Pail
  | pailModeWrite (a : Agent) (n k : Nat) (val : Word)
  | pailZeroingDone (k : Nat)
  | pailSliceAccess (t : Nat)
  | pailFill (t k : Nat)
  | invAll (a : Agent) (t : Nat) (val : Word)
  | invAllDone (t : Nat)
  -- Churn
  | churnGo (a : Agent) (t : Nat) (val : Word)
  | churnJobStart (t : Nat)
  | churnJobFault (t : Nat)
  | churnJobComplete (t : Nat)
  | churnPartClear (a : Agent) (n : Nat) (val : Word)
  | stepStatsClear (a : Agent) (n : Nat) (val : Word)
  -- Skimmer
  | skimGo (a : Agent) (t : Nat) (val : Word)
  | skimJobFault (t : Nat)
  | skimJobComplete (t : Nat)
  | skimPartClear (a : Agent) (n : Nat) (val : Word)
  -- fabric ports
  | portEnable (a : Agent) (p : Nat)
  | portDisable (a : Agent) (p : Nat)
  | linkTrained (p : Nat) (lanes : Nat) (info : PartnerInfo)
  | trainTimeout (p : Nat)
  | trainRetry (p : Nat)
  | leadReq (p : Nat)
  | leadAck (p : Nat)
  | leadNak (p : Nat)
  | leadBackoffExpiry (p : Nat)
  | leadReqTimeout (p : Nat)
  | fabChipIdWrite (a : Agent) (val : Word)
  | heartbeatSend (p : Nat)
  | heartbeatReceive (p : Nat) (hb : Heartbeat)
  | heartbeatTimeout (p : Nat)
  | lossOfSignal (p : Nat)
  | downNotice (p : Nat)
  | linkRetrain (p : Nat)
  | flitReceive (p : Nat) (f : Flit) (crc : Word)
  | replayTimeout (p : Nat)
  | flitTransmit (p vc : Nat) (dclass : Bool)
  | flitRoute (p : Nat)
  | ladlePacketArrive
  -- collective engine
  | collPost (a : Agent) (t : Nat) (val : Word)
  | collContextGrant
  | collSignature (n g nb : Nat) (x : Signature) (tag : Option DWord)
  | collCounts (n g : Nat) (m : CollMsg) (count : Nat)
  | collFragment (slot idx : Nat) (place : FragPlace) (offset len jflags scount : Nat) (data : List Byte)
  | collGrant (n g : Nat) (grant : SlotGrant)
  | collComplete (n g : Nat)
  | collAbortNotice (n g nb seq code origin : Nat) (tag : Option DWord)
  | collEntryTimeout (n g : Nat)
  | collProgressTimeout (n g : Nat)
  | collAbortFinish (n g : Nat)
  -- boot, Service and Root
  | bootGo (a : Agent) (val : Word)
  | svcWindow (core : Nat)
  | svcWatchdog (core : Nat)
  | svcTrap (core : Nat)
  | svcRestart
  | rootLockstep
  -- mailbox rings
  | doorbell (a : Agent) (p : Nat) (val : Word)
  | requestTake (p : Nat)
  | rspHeadWrite (a : Agent) (p : Nat) (val : Word)
  | evtHeadWrite (a : Agent) (p : Nat) (val : Word)
  | hostVerWrite (a : Agent) (p : Nat) (val : Word)
  -- mailbox commands
  | ping (p k : Nat)
  | getVersion (p k : Nat)
  | getInfo (p k : Nat)
  | logLevel (p k : Nat)
  | traceCfg (p k : Nat)
  | traceMark (p k : Nat)
  | partCreate (p k : Nat)
  | partDestroy (p k : Nat)
  | partReset (p k : Nat)
  | partResetTimeout (n : Nat)
  | partBroken (n : Nat)
  | windowSet (p k : Nat)
  | keyLoad (p k : Nat)
  | powerLimit (p k : Nat)
  | budgetSource (p k : Nat)
  | fabricSet (p k : Nat)
  | portSet (p k : Nat)
  | collCfg (p k : Nat)
  | fwStage (p k : Nat)
  | fwActivate (p k : Nat)
  | nvRead (p k : Nat)
  | deviceReset (p k : Nat)
  | powerDown (p k : Nat)
  | ctxCreate (p k : Nat)
  | ctxDestroy (p k : Nat)
  | queueCreate (p k : Nat)
  | queueDestroy (p k : Nat)
  | launch (p k : Nat)
  | launchComplete (n ctx : Nat)
  | ctxSave (p k : Nat)
  | ctxRestore (p k : Nat)
  | faultRead (p k : Nat)
  | faultClear (p k : Nat)
  | semSet (p k : Nat)
  | stateExport (p k : Nat)
  | stateImport (p k : Nat)
  | ownerSet (p k : Nat)
  | groupSet (p k : Nat)
  | pailModeSet (p k : Nat)
  | collCancel (p k : Nat)
  | schedCfg (p k : Nat)
  | telemetry (p k : Nat)
  | schedSlice (n : Nat)
  | rotationPeriod (n : Nat)
  | logRepeatFlush (code src part : Nat)
  | vfFlr (n : Nat)
  | pfFlr
  | bar2Read (n off len : Nat)
  | bar2Write (n off : Nat) (data : List Byte) (relaxed : Bool)
  -- power delivery
  | inputTrip
  | blockingSwitchOpen
  | busLow
  | busRecover
  | vaonStart (straps : Nat)
  | startup
  | railGroupTimeout (rail : Nat)
  | tileWaveStart (w : Nat)
  | startupZeroingDone (k : Nat)
  | railCalSlot (rail r temp : Nat) (m : Margin)
  | meshFreqChange (a : Agent) (val : Word)
  | meshClockSwitch
  -- cap controller
  | railLoopTick (t ma : Nat)
  | slewLoopTick (vin iin : Nat)
  | budgetLoopTick (pin : Nat) (railPower : List Nat) (conv : Nat)
  | phaseMark (a : Agent) (t : Nat) (val : Word)
  | phaseMarkerApply (n : Nat)
  | budgetRampTick
  | budgetPinPeriod (period high : Nat) (complementOk : Bool)
  | budgetPinLoss
  | budgetI3cLoss
  | budgetHoldExpiry
  | demandForget (a : Agent) (n : Nat) (val : Word)
  -- thermal and cooling
  | dieTempRead (t temp : Nat)
  | vatTempRead (t : Nat) (layers : List Nat)
  | thermalLoopTick (t : Nat)
  | coolingReading (rs : List SensorResult)
  | sensorRetry (rs : List SensorResult)
  | sensorTimeout (rs : List SensorResult)
  | thermalCycleTick (die vat : Nat)
  | tcycRecordWrite (ok : Bool)
  -- clocks, time and reset
  | oscReady
  | oscTimeout
  | refLoss (ref : Nat)
  | refRestore (ref : Nat)
  | timeTick
  | timeSet (a : Agent) (hi : Word)
  | syncLoss
  | resetAssert
  | resetRelease
  | perst
  | pcieLinkDown (speed width : Nat)
  -- management target
  | dynamicAddress (addr : Nat)
  | ident
  | cause
  | alert
  | alertClr (data : List Byte)
  | status
  | input
  | power
  | temps
  | budgetStat
  | budget (write : Option (List Byte))
  | cool (code : Nat)
  | tcyc
  | time
  | alertResponse
  | sclTimeout
  -- console, JTAG, telemetry
  | uartFrame (bits : List (Bool × Bool × Bool)) (lowAtArm : Bool)
  | jtagInstruction (ir : JtagIr)
  | tapReset
  | telemetrySample
  -- events the table lists last
  | partnerSignalDetect (p : Nat)
  | codewordDecode (p : Nat) (r : CodewordResult)
  | railGroupReady (g : Nat)
  | vaonFall
  | pcieLinkUp (speed width : Nat)
  | partResetZeroingDone (n : Nat)
  | meshChangeEnd
  | coalesceExpiry (p vec : Nat)
  | collBarrierArrival (n g : Nat) (m : CollMsg)
  deriving DecidableEq, Repr

end Sys2Proof
end

