-- ==== Sys2Proof/Decode.lean ====
section
/-!
DEFINITION. Decode.lean: commands reach the device as bus accesses, protocol events and pin events, not as words: no row
of spec/opcode_table.json gives bits.
-/

namespace Sys2Proof

/-- The command that a word spells by the table's bits: the table gives no row bits, so none. -/
def decodeTableWord (_nbits _w : Nat) : Option Instr := none

end Sys2Proof
end

