-- ==== Sys2Proof/Machine/Tab.lean ====
section
/-!
DEFINITION. Machine/Tab.lean: sparse tables in one canonical form (keys strictly rising, no entry equal to what an
unlisted key reads as), and the bit-field helpers. Memory, register files and every numbered family of the device
(tiles, partitions, ports, rails) are such tables, so that equal states are equal data.
-/

namespace Sys2Proof.Machine

/-- A sparse table from numbers to values. -/
abbrev Tab (α : Type) := List (Nat × α)

/-- What a table reads as at a key: the listed value, or the default. -/
def tabGet {α : Type} (d : Nat → α) : Tab α → Nat → α
  | [], k => d k
  | (k', v) :: m, k => if k = k' then v else tabGet d m k

/-- The table without a key. -/
def tabErase {α : Type} : Tab α → Nat → Tab α
  | [], _ => []
  | (k', v) :: m, k => if k = k' then tabErase m k else (k', v) :: tabErase m k

/-- The table with a key it does not list put before the first larger key. -/
def tabInsert {α : Type} : Tab α → Nat → α → Tab α
  | [], k, v => [(k, v)]
  | (k', v') :: m, k, v => if k < k' then (k, v) :: (k', v') :: m else (k', v') :: tabInsert m k v

/-- A write: writing what an unlisted key reads as removes the entry. -/
def tabSet {α : Type} [DecidableEq α] (d : Nat → α) (m : Tab α) (k : Nat) (v : α) : Tab α :=
  if v = d k then tabErase m k else tabInsert (tabErase m k) k v

/-- An update of one key. -/
def tabMod {α : Type} [DecidableEq α] (d : Nat → α) (m : Tab α) (k : Nat) (f : α → α) : Tab α :=
  tabSet d m k (f (tabGet d m k))

/-- Every listed entry changed alike. -/
def tabMap {α : Type} [DecidableEq α] (d : Nat → α) (f : α → α) (m : Tab α) : Tab α :=
  m.foldl (fun acc p => tabSet d acc p.1 (f p.2)) []

/-- Keys strictly rise from a bound on. -/
def tabSorted {α : Type} : Nat → Tab α → Bool
  | _, [] => true
  | lo, (k, _) :: m => decide (lo ≤ k) && tabSorted (k + 1) m

/-- The canonical form. -/
def tabWf {α : Type} [DecidableEq α] (d : Nat → α) (m : Tab α) : Bool :=
  tabSorted 0 m && m.all (fun p => decide (p.2 ≠ d p.1))

/-- A list update at a position. -/
def listMod {α : Type} (l : List α) (i : Nat) (f : α → α) : List α :=
  match l, i with
  | [], _ => []
  | a :: l, 0 => f a :: l
  | a :: l, i + 1 => a :: listMod l i f

/-- The list without one position. -/
def listDrop1 {α : Type} : List α → Nat → List α
  | [], _ => []
  | _ :: l, 0 => l
  | a :: l, i + 1 => a :: listDrop1 l i

/-- Fold a function of the index over 0 .. n − 1. -/
def foldN {σ : Type} (f : Nat → σ → σ) (n : Nat) (s : σ) : σ :=
  match n with
  | 0 => s
  | n + 1 => f n (foldN f n s)

/-- Bits [hi:lo] of a word as a number (R4). -/
def fld {n : Nat} (w : BitVec n) (hi lo : Nat) : Nat := (w.toNat >>> lo) % 2 ^ (hi + 1 - lo)

/-- Bit b of a word. -/
def bit {n : Nat} (w : BitVec n) (b : Nat) : Bool := w.toNat.testBit b

/-- A word with bits [hi:lo] replaced. -/
def setFld {n : Nat} (w : BitVec n) (hi lo v : Nat) : BitVec n :=
  BitVec.ofNat n (w.toNat - (fld w hi lo) * 2 ^ lo + (v % 2 ^ (hi + 1 - lo)) * 2 ^ lo)

/-- A word with one bit set or cleared. -/
def setBit {n : Nat} (w : BitVec n) (b : Nat) (v : Bool) : BitVec n := setFld w b b (if v then 1 else 0)

/-- A Bool as a bit. -/
def b2n (b : Bool) : Nat := if b then 1 else 0

/-- A two's complement reading of a field of w bits. -/
def toSigned (w v : Nat) : Int := if v < 2 ^ (w - 1) then (v : Int) else (v : Int) - (2 ^ w : Nat)

/-- The w-bit two's complement code of an integer. -/
def ofSigned (w : Nat) (v : Int) : Nat := (v % ((2 ^ w : Nat) : Int)).toNat

/-- A counter that stops at a largest value (R81). -/
def satAdd (limit a b : Nat) : Nat := min limit (a + b)

/-- Round a quotient up. -/
def ceilDiv (a b : Nat) : Nat := (a + b - 1) / b

/-- Mesh cycles from `start` to `now`: CLK_MESH_CYC has 48 bits (Table 15.5). -/
def cycDiff (now start : Nat) : Nat := (now + 2 ^ 48 - start % 2 ^ 48) % 2 ^ 48

/-- Insert into an ascending list without repeats. -/
def insertNat (x : Nat) : List Nat → List Nat
  | [] => [x]
  | y :: l => if x < y then x :: y :: l else if x = y then y :: l else y :: insertNat x l

/-- Do two byte ranges share a byte? -/
def overlaps (a n b m : Nat) : Bool := decide (a < b + m) && decide (b < a + n) && decide (0 < n) && decide (0 < m)

end Sys2Proof.Machine
end

