-- ==== Sys2Proof/Machine/Num.lean ====
section
/-!
DEFINITION. Machine/Num.lean: exact numbers, the formats of Table 2.1, their grids and roundings (R52 to R58, R79),
and IEEE 754 binary32 arithmetic with one rounding per operation (R120).
-/

namespace Sys2Proof.Machine

/-- A number as the arithmetic sees it: NaN, an infinity, or exactly ± m · 2^e. A zero keeps its sign. -/
inductive XNum
  | nan
  | inf (neg : Bool)
  | fin (neg : Bool) (m : Nat) (e : Int)
  deriving DecidableEq, Repr, Inhabited

/-- The value +0. -/
def XNum.zero : XNum := .fin false 0 0

/-- Is the number a zero of either sign? -/
def XNum.isZero : XNum → Bool
  | .fin _ m _ => m == 0
  | _ => false

/-- Is the number finite? -/
def XNum.isFinite : XNum → Bool
  | .fin _ _ _ => true
  | _ => false

/-- The sign. -/
def XNum.sign : XNum → Bool
  | .nan => false
  | .inf n => n
  | .fin n _ _ => n

/-- Negation. -/
def XNum.negate : XNum → XNum
  | .nan => .nan
  | .inf n => .inf (!n)
  | .fin n m e => .fin (!n) m e

/-- The magnitude m · 2^e counted in units of 2^g, for g ≤ e. -/
def scaleTo (m : Nat) (e g : Int) : Nat := m * 2 ^ (e - g).toNat

/-- A number from a signed count of units of 2^g; zero is +0. -/
def XNum.ofUnits (v : Int) (g : Int) : XNum :=
  if v = 0 then .zero else .fin (decide (v < 0)) v.natAbs g

/-- A number as a signed count of units of 2^g, for g at most its exponent. -/
def XNum.units (x : XNum) (g : Int) : Int :=
  match x with
  | .fin n m e => if n then -(scaleTo m e g : Int) else (scaleTo m e g : Int)
  | _ => 0

/-- Exact sum of finite numbers: exactly zero is +0, except −0 when both are −0 (Table 3.3). -/
def XNum.addFin (x y : XNum) : XNum :=
  match x, y with
  | .fin n1 m1 e1, .fin n2 m2 e2 =>
    let g := min e1 e2
    let v := x.units g + y.units g
    if v = 0 then .fin (n1 && n2 && m1 == 0 && m2 == 0) 0 0 else .ofUnits v g
  | _, _ => .nan

/-- Exact sum with the special operands of Table 3.3 (and of IEEE 754 for binary32). -/
def XNum.add (x y : XNum) : XNum :=
  match x, y with
  | .nan, _ => .nan
  | _, .nan => .nan
  | .inf a, .inf b => if a = b then .inf a else .nan
  | .inf a, _ => .inf a
  | _, .inf b => .inf b
  | _, _ => x.addFin y

/-- Exact product of finite numbers. -/
def XNum.mulFin (x y : XNum) : XNum :=
  match x, y with
  | .fin n1 m1 e1, .fin n2 m2 e2 => .fin (n1 != n2) (m1 * m2) (e1 + e2)
  | _, _ => .nan

/-- IEEE 754 product: ∞ × 0 is NaN. -/
def XNum.mulIeee (x y : XNum) : XNum :=
  match x, y with
  | .nan, _ => .nan
  | _, .nan => .nan
  | .inf a, y => if y.isZero then .nan else .inf (a != y.sign)
  | x, .inf b => if x.isZero then .nan else .inf (x.sign != b)
  | x, y => x.mulFin y

/-- |x| ≤ |y| for finite numbers. -/
def XNum.absLe (x y : XNum) : Bool :=
  match x, y with
  | .fin _ m1 e1, .fin _ m2 e2 => let g := min e1 e2; decide (scaleTo m1 e1 g ≤ scaleTo m2 e2 g)
  | .inf _, .fin _ _ _ => false
  | _, _ => true

/-- x < y for numbers that are not NaN. -/
def XNum.lt (x y : XNum) : Bool :=
  match x, y with
  | .nan, _ => false
  | _, .nan => false
  | .inf a, .inf b => a && !b
  | .inf a, _ => a
  | _, .inf b => !b
  | .fin _ _ e1, .fin _ _ e2 => let g := min e1 e2; decide (x.units g < y.units g)

/-- x · 2^k, exact. -/
def XNum.shift (x : XNum) (k : Int) : XNum :=
  match x with
  | .fin n m e => .fin n m (e + k)
  | x => x

/-- The magnitude of a number. -/
def XNum.abs : XNum → XNum
  | .nan => .nan
  | .inf _ => .inf false
  | .fin _ m e => .fin false m e

/-- The floor of the binary logarithm of a positive m. -/
def log2 (m : Nat) : Nat := Nat.log2 m

/-- The rounding modes of R79 (RND of Table 2.6); stochastic carries its 16-bit draw. -/
inductive Rnd
  | rne
  | sr (r : Nat)
  | rz
  deriving DecidableEq, Repr

/-- A grid (R79): significands of at most `prec` bits (none: every multiple of the least unit), least unit 2^q. -/
structure Grid where
  prec : Option Nat
  q    : Int
  deriving DecidableEq, Repr

/-- The exponent of the ulp at the magnitude m · 2^e. -/
def Grid.ulpExp (g : Grid) (m : Nat) (e : Int) : Int :=
  match g.prec with
  | none => g.q
  | some p => max ((log2 m : Int) + e - ((p : Int) - 1)) g.q

/-- Round a magnitude to the grid (R79): the count k of ulps and the ulp's exponent u. -/
def Grid.roundMag (g : Grid) (rnd : Rnd) (m : Nat) (e : Int) : Nat × Int :=
  if m = 0 then (0, g.q) else
  let u := g.ulpExp m e
  if u ≤ e then (scaleTo m e u, u) else
  let s := (u - e).toNat
  let a := m / 2 ^ s
  let r := m % 2 ^ s
  let up := match rnd with
    | .rz => false
    | .rne => decide (2 * r > 2 ^ s) || (decide (2 * r = 2 ^ s) && decide (a % 2 = 1))
    | .sr d => decide (d < r * 2 ^ 16 / 2 ^ s)
  (if up then a + 1 else a, u)

/-- The storage formats of Table 2.1 with binary32. -/
inductive Fmt
  | i2 | t2 | i4 | f4 | i8 | f8a | f8b | m16 | b32
  deriving DecidableEq, Repr

/-- Format codes (Table 1.6; 0x8 is binary32, R68). -/
def Fmt.ofCode : Nat → Option Fmt
  | 0 => some .i2 | 1 => some .t2 | 2 => some .i4 | 3 => some .f4 | 4 => some .i8
  | 5 => some .f8a | 6 => some .f8b | 7 => some .m16 | 8 => some .b32
  | _ => none

/-- Bits of an element. -/
def Fmt.bits : Fmt → Nat
  | .i2 => 2 | .t2 => 2 | .i4 => 4 | .f4 => 4 | .i8 => 8 | .f8a => 8 | .f8b => 8 | .m16 => 16 | .b32 => 32

/-- Exponent bits, fraction bits and bias of a floating format. -/
def Fmt.shape : Fmt → Nat × Nat × Int
  | .f4 => (2, 1, 1) | .f8a => (4, 3, 7) | .f8b => (5, 2, 15) | .m16 => (6, 9, 31) | .b32 => (8, 23, 127)
  | _ => (0, 0, 0)

/-- The grid of a format (R79). -/
def Fmt.grid : Fmt → Grid
  | .f4 => ⟨some 2, -1⟩ | .f8a => ⟨some 4, -9⟩ | .f8b => ⟨some 3, -16⟩
  | .m16 => ⟨some 10, -39⟩ | .b32 => ⟨some 24, -149⟩
  | _ => ⟨none, 0⟩

/-- What a code of a format is (R54 to R56). -/
def Fmt.decode (f : Fmt) (signed : Bool) (c : Nat) : XNum :=
  match f with
  | .i2 | .i4 | .i8 =>
    if signed then .ofUnits (toSigned f.bits c) 0 else .fin false c 0
  | .t2 => if c = 1 then .fin false 1 0 else if c = 3 then .fin true 1 0 else .zero
  | _ =>
    let (eb, fb, bias) := f.shape
    let neg := c.testBit (eb + fb)
    let ex := (c >>> fb) % 2 ^ eb
    let fr := c % 2 ^ fb
    let top := decide (ex = 2 ^ eb - 1)
    if f = .f8a ∧ top ∧ fr = 7 then .nan
    else if f ≠ .f4 ∧ f ≠ .f8a ∧ top then (if fr = 0 then .inf neg else .nan)
    else if ex = 0 then .fin neg fr (1 - bias - fb)
    else .fin neg (2 ^ fb + fr) ((ex : Int) - bias - fb)

/-- Is a code a subnormal of its floating format? -/
def Fmt.subnormal (f : Fmt) (c : Nat) : Bool :=
  match f with
  | .i2 | .i4 | .i8 | .t2 => false
  | _ =>
    let (eb, fb, _) := f.shape
    decide ((c >>> fb) % 2 ^ eb = 0) && decide (c % 2 ^ fb ≠ 0)

/-- The default NaN of a format, +0 where the format has none (Table 2.3, Table 2.8). -/
def Fmt.nanCode : Fmt → Nat
  | .f8a => 0x7F | .f8b => 0x7E | .m16 => 0x7F00 | .b32 => 0x7FC00000 | _ => 0

/-- The largest finite value for the selected signedness (Table 2.1). -/
def Fmt.maxFinite (f : Fmt) (signed : Bool) : XNum :=
  match f with
  | .i2 | .i4 | .i8 => .fin false (if signed then 2 ^ (f.bits - 1) - 1 else 2 ^ f.bits - 1) 0
  | .t2 => .fin false 1 0
  | .f4 => .fin false 6 0
  | .f8a => .fin false 448 0
  | .f8b => .fin false 57344 0
  | .m16 => .fin false 4290772992 0
  | .b32 => .fin false (2 ^ 24 - 1) 104

/-- The floating code of a value k · 2^u on the format's grid and within its range. -/
def Fmt.encodeFloat (f : Fmt) (neg : Bool) (k : Nat) (u : Int) : Nat :=
  let (eb, fb, bias) := f.shape
  let s := if neg then 2 ^ (eb + fb) else 0
  if k = 0 then s else
  let l := log2 k
  let k' := if l ≤ fb then k * 2 ^ (fb - l) else k / 2 ^ (l - fb)
  let ex := (l : Int) + u + bias
  if ex ≤ 0 then s + scaleTo k u (1 - bias - fb) else s + ex.toNat * 2 ^ fb + (k' - 2 ^ fb)

/-- What narrowing one element did (R63, R73). -/
inductive Narrowed
  | ok | sat | ovf | nonfin | flushed
  deriving DecidableEq, Repr

/-- The infinity code of a format that has one. -/
def Fmt.infCode (f : Fmt) (neg : Bool) : Nat :=
  let (eb, fb, _) := f.shape
  (if neg then 2 ^ (eb + fb) else 0) + (2 ^ eb - 1) * 2 ^ fb

/-- The code at the end of a format's range nearer a value of the given sign (Table 2.8). -/
def Fmt.endCode (f : Fmt) (signed neg : Bool) : Nat :=
  match f with
  | .i2 | .i4 | .i8 =>
    if signed then (if neg then 2 ^ (f.bits - 1) else 2 ^ (f.bits - 1) - 1)
    else (if neg then 0 else 2 ^ f.bits - 1)
  | .t2 => if neg then 3 else 1
  | .f4 => if neg then 0xF else 0x7
  | .f8a => if neg then 0xFE else 0x7E
  | .f8b => if neg then 0xFB else 0x7B
  | .m16 => if neg then 0xFDFF else 0x7DFF
  | .b32 => if neg then 0xFF7FFFFF else 0x7F7FFFFF

/-- Step 4 of R71: round to the format's grid under RND, then treat what does not fit (R63, R73, Table 2.8). -/
def Fmt.narrow (f : Fmt) (signed flush : Bool) (rnd : Rnd) (x : XNum) : Nat × Narrowed :=
  match x with
  | .nan => (f.nanCode, .nonfin)
  | .inf neg =>
    match f with
    | .f8a => (f.nanCode, .nonfin)
    | .f8b | .m16 | .b32 => (f.infCode neg, .nonfin)
    | _ => (f.endCode signed neg, .nonfin)
  | .fin neg m e =>
    let (k, u) := f.grid.roundMag rnd m e
    match f with
    | .i2 | .i4 | .i8 =>
      let top := if signed then (if neg then 2 ^ (f.bits - 1) else 2 ^ (f.bits - 1) - 1)
        else (if neg then 0 else 2 ^ f.bits - 1)
      if k ≤ top then (if neg then ofSigned f.bits (-(k : Int)) else k, .ok) else (f.endCode signed neg, .sat)
    | .t2 => if k ≤ 1 then ((if k = 0 then 0 else if neg then 3 else 1), .ok) else (f.endCode signed neg, .sat)
    | _ =>
      let (_, fb, bias) := f.shape
      if (f.maxFinite signed).absLe (.fin false k u) && !(XNum.absLe (.fin false k u) (f.maxFinite signed)) then
        (match f with
          | .m16 | .b32 => (f.infCode neg, .ovf)
          | _ => (f.endCode signed neg, .sat))
      else if flush && decide (k ≠ 0) && !(XNum.absLe (.fin false 1 (1 - bias)) (.fin false k u)) then
        (f.encodeFloat neg 0 0, .flushed)
      else (f.encodeFloat neg k u, let _ := fb; .ok)

/-! ### ACC56 (R86, R87) -/

/-- The number an ACC56 word stands for. -/
def acc56Num (w : BitVec 56) : XNum :=
  let neg := bit w 55
  let ex := fld w 54 46
  let fr := fld w 45 0
  if ex = 511 then (if fr = 0 then .inf neg else .nan)
  else if ex = 0 then .fin neg fr (-300)
  else .fin neg (2 ^ 46 + fr) ((ex : Int) - 301)

/-- The default NaN of ACC56 (Table 3.2). -/
def acc56NaN : BitVec 56 := 0x7FE00000000000

/-- The largest finite ACC56 magnitude's code (Table 3.2). -/
def acc56Max : BitVec 56 := 0x7FBFFFFFFFFFFF

/-- An ACC56 word with a sign. -/
def acc56Sign (neg : Bool) (w : BitVec 56) : BitVec 56 := if neg then w ||| 0x80000000000000 else w

/-- A number rounded to ACC56, ties to even; the flag says it overflowed (R88 to R90). -/
def acc56Round (compat : Bool) (x : XNum) : BitVec 56 × Bool :=
  match x with
  | .nan => (acc56NaN, false)
  | .inf neg => (acc56Sign neg 0x7FC00000000000, false)
  | .fin neg m e =>
    let (k, u) := (Grid.mk (some 47) (-300)).roundMag .rne m e
    let (k, u) := if k = 2 ^ 47 then (2 ^ 46, u + 1) else (k, u)
    if k < 2 ^ 46 then (acc56Sign neg (BitVec.ofNat 56 k), false)
    else if u + 301 > 510 then
      (acc56Sign neg (if compat then acc56Max else 0x7FC00000000000), true)
    else (acc56Sign neg (BitVec.ofNat 56 ((u + 301).toNat * 2 ^ 46 + (k - 2 ^ 46))), false)

/-- The ACC56 addition (R88 to R90, Table 3.3): the sum, and whether it overflowed. -/
def acc56Add (compat : Bool) (a : BitVec 56) (y : XNum) : BitVec 56 × Bool :=
  acc56Round compat ((acc56Num a).add y)

/-! ### binary32 (R120): one rounding, to nearest even; NaN results are the default NaN (R57) -/

/-- The number of a binary32 word. -/
def b32Num (w : Word) : XNum := Fmt.b32.decode false w.toNat

/-- A number rounded once to binary32. -/
def b32Of (x : XNum) : Word :=
  match x with
  | .nan => 0x7FC00000
  | x => BitVec.ofNat 32 (Fmt.b32.narrow false false .rne x).1

/-- Addition, subtraction, product and fused multiply-add. -/
def b32Add (a b : Word) : Word := b32Of ((b32Num a).add (b32Num b))
def b32Sub (a b : Word) : Word := b32Of ((b32Num a).add (b32Num b).negate)
def b32Mul (a b : Word) : Word := b32Of ((b32Num a).mulIeee (b32Num b))
def b32Fma (a b c : Word) : Word := b32Of (((b32Num a).mulIeee (b32Num b)).add (b32Num c))

/-- Division, rounded once: the quotient carries 64 further bits and a sticky bit. -/
def XNum.div (x y : XNum) : XNum :=
  match x, y with
  | .nan, _ => .nan
  | _, .nan => .nan
  | .inf _, .inf _ => .nan
  | .inf a, y => .inf (a != y.sign)
  | x, .inf b => .fin (x.sign != b) 0 0
  | .fin n1 m1 e1, .fin n2 m2 e2 =>
    if m2 = 0 then (if m1 = 0 then .nan else .inf (n1 != n2)) else
    let k := 64 + log2 m2
    let q := (m1 * 2 ^ k) / m2
    let r := (m1 * 2 ^ k) % m2
    .fin (n1 != n2) (2 * q + (if r = 0 then 0 else 1)) (e1 - e2 - k - 1)

/-- Square root, rounded once later: 64 further bits and a sticky bit; of a negative nonzero value, NaN. -/
def XNum.sqrt (x : XNum) : XNum :=
  match x with
  | .nan => .nan
  | .inf n => if n then .nan else .inf false
  | .fin n m e =>
    if m = 0 then .fin n 0 0 else if n then .nan else
    let e' := if e % 2 = 0 then e - 128 else e - 129
    let v := scaleTo m e e'
    let r := Nat.sqrt v
    .fin false (2 * r + (if r * r = v then 0 else 1)) (e' / 2 - 1)

def b32Div (a b : Word) : Word := b32Of ((b32Num a).div (b32Num b))
def b32Sqrt (a : Word) : Word := b32Of (b32Num a).sqrt

/-- Is a binary32 word NaN or an infinity? -/
def b32NonFinite (a : Word) : Bool := decide (fld a 30 23 = 255)

/-! ### Packed elements (R53) -/

/-- Element x of a row of packed elements, read through a byte reader at a base address. -/
def packedGet (rd : Nat → Nat) (base : Nat) (f : Fmt) (x : Nat) : Nat :=
  match f.bits with
  | 2 => (rd (base + x / 4) / 2 ^ (2 * (x % 4))) % 4
  | 4 => (rd (base + x / 2) / 2 ^ (4 * (x % 2))) % 16
  | 8 => rd (base + x)
  | 16 => rd (base + 2 * x) + 2 ^ 8 * rd (base + 2 * x + 1)
  | _ => rd (base + 4 * x) + 2 ^ 8 * rd (base + 4 * x + 1) + 2 ^ 16 * rd (base + 4 * x + 2)
      + 2 ^ 24 * rd (base + 4 * x + 3)

/-- Bytes that n elements take. -/
def packedBytes (f : Fmt) (n : Nat) : Nat := ceilDiv (n * f.bits) 8

/-- The little-endian bytes of a number. -/
def bytesOf : Nat → Nat → List Byte
  | 0, _ => []
  | n + 1, v => BitVec.ofNat 8 v :: bytesOf n (v / 256)

/-- The number of little-endian bytes. -/
def natOfBytes : List Byte → Nat
  | [] => 0
  | b :: l => b.toNat + 256 * natOfBytes l

/-- Pack a list of element codes of 2, 4, 8, 16 or 32 bits into one number, first element lowest (R53). -/
def packCodes (w : Nat) : List Nat → Nat
  | [] => 0
  | c :: l => c % 2 ^ w + 2 ^ w * packCodes w l

end Sys2Proof.Machine
end

