-- ==== Sys2Proof/Machine/RegMap.lean ====
section
/-!
DEFINITION. Machine/RegMap.lean: the direct registers of the register tables of spec/ (Tables 2.9, 2.10, 3.7, 4.10,
4.11, 5.5, 5.6, 7.4, 7.5, 8.5, 8.6, 9.8, 9.9, 10.11 to 10.13, 11.4, 12.6, 13.5, 13.6, 14.5 to 14.7, 15.6, 15.7 and
16.5; R81, R84, R100, R132, R133, R159, R160, R210, R211, R225, R226, R253, R293 to R295, R310, R349, R369, R370,
R392 to R394, R414, R415, R434): where each lies in its block, its reset value and the access type of each of its bits
(R8, Table 0.3).
-/

namespace Sys2Proof.Machine

/-- One register, or one family of `count` registers `step` bytes apart, of a register table: the reset value, and a
mask of its bits for each access type of Table 0.3 (bits in no mask are RO). `quiesce` marks the RW bits that a
write reaches only while their block is quiesced (R129, R131); `low64` the low half of a 64-bit value (R6). -/
structure RegRow where
  name : String
  off : Nat
  step : Nat
  count : Nat
  reset : Nat
  rw : Nat
  w1c : Nat
  rc : Nat
  wo : Nat
  quiesce : Nat
  low64 : Bool
  deriving DecidableEq, Repr

/-- Is an offset one of the row's registers? -/
def RegRow.has (r : RegRow) (o : Nat) : Bool :=
  decide (r.off ≤ o) && decide ((o - r.off) % r.step = 0) && decide ((o - r.off) / r.step < r.count)

/-- The row of an offset. -/
def regFind : List RegRow → Nat → Option RegRow
  | [], _ => none
  | r :: l, o => if r.has o then some r else regFind l o

/-- The reset value at an offset; an offset no table names reads as zero (R418). -/
def regReset (l : List RegRow) (o : Nat) : Word :=
  match regFind l o with
  | some r => BitVec.ofNat 32 r.reset
  | none => 0


/-- The tile register block (Table 16.2): Rennet, accumulators, engines, Ladle, ECC, Pail, Vat, Churn, Skimmer, posting, cap, tile time. Part 1. -/
def tileRegs1 : List RegRow := [
  ⟨"RENNET_FLAGS", 0x0, 4, 1, 0, 0, 0x1FF, 0, 0, 0, false⟩,
  ⟨"RENNET_FIRST", 0x4, 4, 1, 0, 0, 0, 0, 0, 0, false⟩,
  ⟨"RENNET_SAT_CNT", 0x8, 4, 1, 0, 0, 0, 0xFFFFFFFF, 0, 0, false⟩,
  ⟨"RENNET_OVF_CNT", 0xC, 4, 1, 0, 0, 0, 0xFFFFFFFF, 0, 0, false⟩,
  ⟨"RENNET_NONFIN_CNT", 0x10, 4, 1, 0, 0, 0, 0xFFFFFFFF, 0, 0, false⟩,
  ⟨"RENNET_SUB_CNT", 0x14, 4, 1, 0, 0, 0, 0xFFFFFFFF, 0, 0, false⟩,
  ⟨"RENNET_ALIGN_CNT", 0x18, 4, 1, 0, 0, 0, 0xFFFFFFFF, 0, 0, false⟩,
  ⟨"RENNET_SAT_THR", 0x1C, 4, 1, 0x1000, 0xFFFFFFFF, 0, 0, 0, 0, false⟩,
  ⟨"RENNET_RECIPE_EN", 0x20, 4, 1, 0x1C, 0x7F, 0, 0, 0, 0, false⟩,
  ⟨"RENNET_NONCANON_CNT", 0x2C, 4, 1, 0, 0, 0, 0xFFFFFFFF, 0, 0, false⟩,
  ⟨"RENNET_SEEDn (low)", 0x40, 8, 16, 0, 0xFFFFFFFF, 0, 0, 0, 0, true⟩,
  ⟨"RENNET_SEEDn (high)", 0x44, 8, 16, 0, 0xFFFFFFFF, 0, 0, 0, 0, false⟩,
  ⟨"RENNET_SR_SEED (low)", 0xC0, 4, 1, 0, 0xFFFFFFFF, 0, 0, 0, 0, true⟩,
  ⟨"RENNET_SR_SEED (high)", 0xC4, 4, 1, 0, 0xFFFFFFFF, 0, 0, 0, 0, false⟩,
  ⟨"RENNET_SEED_BUSY", 0xC8, 4, 1, 0, 0, 0, 0, 0, 0, false⟩,
  ⟨"RENNET_ACC_OVF_CNT", 0x24, 4, 1, 0, 0, 0, 0xFFFFFFFF, 0, 0, false⟩,
  ⟨"RENNET_ACC_STATE", 0x28, 4, 1, 0, 0, 0, 0, 0, 0, false⟩,
  ⟨"RENNET_DRAINg_BASE", 0x100, 8, 4, 0, 0xFFFFF, 0, 0, 0, 0, false⟩,
  ⟨"RENNET_DRAINg_PUSH", 0x104, 8, 4, 0, 0, 0, 0, 0xFFFFF, 0, false⟩,
  ⟨"RENNET_DRAIN_LEVEL", 0x120, 4, 1, 0, 0, 0xF000, 0, 0, 0, false⟩,
  ⟨"LADLE_QCTL", 0x400, 4, 1, 0xF0F, 0xF, 0x10000, 0, 0, 0, false⟩,
  ⟨"LADLE_QLEVEL", 0x404, 4, 1, 0, 0, 0x7000000, 0, 0, 0, false⟩,
  ⟨"LADLE_FAULT", 0x408, 4, 1, 0, 0, 0x81000000, 0, 0, 0, false⟩,
  ⟨"LADLE_FAULT_SEQ", 0x40C, 4, 1, 0, 0, 0, 0, 0, 0, false⟩]

/-- The tile register block (Table 16.2): Rennet, accumulators, engines, Ladle, ECC, Pail, Vat, Churn, Skimmer, posting, cap, tile time. Part 2. -/
def tileRegs2 : List RegRow := [
  ⟨"LADLE_INFLIGHT", 0x410, 4, 1, 0, 0, 0, 0x7F00, 0, 0, false⟩,
  ⟨"LADLE_LIMITS", 0x414, 4, 1, 0x2040, 0x7F7F, 0, 0, 0, 0x7F7F, false⟩,
  ⟨"LADLE_WAIT_LIMIT", 0x418, 4, 1, 0, 0xFFFFFFFF, 0, 0, 0, 0, false⟩,
  ⟨"LADLE_CFG_STATUS", 0x41C, 4, 1, 0, 0, 0x1, 0, 0, 0, false⟩,
  ⟨"LADLE_SC_PC", 0x420, 4, 1, 0, 0xFFFFF, 0, 0, 0, 0xFFFFF, false⟩,
  ⟨"LADLE_CMDCNT_MX", 0x424, 4, 1, 0, 0, 0, 0, 0, 0, false⟩,
  ⟨"LADLE_CMDCNT_VEC", 0x428, 4, 1, 0, 0, 0, 0, 0, 0, false⟩,
  ⟨"LADLE_CMDCNT_LD", 0x42C, 4, 1, 0, 0, 0, 0, 0, 0, false⟩,
  ⟨"LADLE_SYNC_CMD", 0x430, 4, 1, 0, 0, 0, 0, 0xFFFFFFFF, 0, false⟩,
  ⟨"LADLE_SYNC_ARG", 0x434, 4, 1, 0, 0xFFFFFFFF, 0, 0, 0, 0, false⟩,
  ⟨"LADLE_QPUSH_MX", 0x440, 4, 8, 0, 0, 0, 0, 0xFFFFFFFF, 0, false⟩,
  ⟨"LADLE_QPUSH_VEC", 0x460, 4, 8, 0, 0, 0, 0, 0xFFFFFFFF, 0, false⟩,
  ⟨"LADLE_QPUSH_LD", 0x480, 4, 8, 0, 0, 0, 0, 0xFFFFFFFF, 0, false⟩,
  ⟨"LADLE_SEMn", 0x1000, 4, 1024, 0, 0xFFFF, 0, 0, 0, 0, false⟩,
  ⟨"LADLE_SCR_ECC", 0x438, 4, 1, 0, 0, 0, 0xFFFFFFFF, 0, 0, false⟩,
  ⟨"PAIL_CTL", 0x600, 4, 1, 0, 0x3, 0, 0, 0x100, 0, false⟩,
  ⟨"PAIL_HIT_CNT", 0x604, 4, 1, 0, 0, 0, 0xFFFFFFFF, 0, 0, false⟩,
  ⟨"PAIL_MISS_CNT", 0x608, 4, 1, 0, 0, 0, 0xFFFFFFFF, 0, 0, false⟩,
  ⟨"PAIL_ECC_CNT", 0x60C, 4, 1, 0, 0, 0, 0xFFFFFFFF, 0, 0, false⟩,
  ⟨"VAT_CE_CNT", 0x610, 4, 1, 0, 0, 0, 0xFFFFFFFF, 0, 0, false⟩,
  ⟨"VAT_UE_CNT", 0x614, 4, 1, 0, 0, 0, 0xFFFFFFFF, 0, 0, false⟩,
  ⟨"VAT_ERR_LOC", 0x618, 4, 1, 0, 0, 0x80000000, 0, 0, 0, false⟩,
  ⟨"VAT_ERR_PAT", 0x61C, 4, 1, 0, 0, 0, 0, 0, 0, false⟩,
  ⟨"VAT_REPAIR", 0x620, 4, 1, 0, 0, 0xC0000000, 0, 0, 0, false⟩]

/-- The tile register block (Table 16.2): Rennet, accumulators, engines, Ladle, ECC, Pail, Vat, Churn, Skimmer, posting, cap, tile time. Part 3. -/
def tileRegs3 : List RegRow := [
  ⟨"VAT_STATUS", 0x624, 4, 1, 0, 0, 0x2, 0, 0, 0, false⟩,
  ⟨"VAT_SCRUB_CFG", 0x628, 4, 1, 0x800000FA, 0x8000FFFF, 0, 0, 0, 0, false⟩,
  ⟨"VAT_SCRUB_PASS", 0x62C, 4, 1, 0, 0, 0, 0, 0, 0, false⟩,
  ⟨"VAT_RD_SECT (low)", 0x630, 4, 1, 0, 0, 0, 0, 0, 0, true⟩,
  ⟨"VAT_RD_SECT (high)", 0x634, 4, 1, 0, 0, 0, 0, 0, 0, false⟩,
  ⟨"VAT_WR_SECT (low)", 0x638, 4, 1, 0, 0, 0, 0, 0, 0, true⟩,
  ⟨"VAT_WR_SECT (high)", 0x63C, 4, 1, 0, 0, 0, 0, 0, 0, false⟩,
  ⟨"CHURN_DESC", 0x700, 4, 1, 0, 0xFFFFF, 0, 0, 0, 0, false⟩,
  ⟨"CHURN_GO", 0x704, 4, 1, 0, 0, 0, 0, 0x1, 0, false⟩,
  ⟨"CHURN_STATUS", 0x708, 4, 1, 0, 0, 0x72, 0, 0, 0, false⟩,
  ⟨"CHURN_FIRST", 0x70C, 4, 1, 0, 0, 0, 0, 0, 0, false⟩,
  ⟨"CHURN_NONFIN_CNT", 0x710, 4, 1, 0, 0, 0, 0xFFFFFFFF, 0, 0, false⟩,
  ⟨"CHURN_BIG_CNT", 0x714, 4, 1, 0, 0, 0, 0xFFFFFFFF, 0, 0, false⟩,
  ⟨"CHURN_RESIDUAL", 0x718, 4, 1, 0, 0, 0, 0, 0, 0, false⟩,
  ⟨"CHURN_JOBS", 0x71C, 4, 1, 0, 0, 0, 0, 0, 0, false⟩,
  ⟨"CHURN_LAST_CYC", 0x720, 4, 1, 0, 0, 0, 0, 0, 0, false⟩,
  ⟨"CHURN_BIG_EXP", 0x724, 4, 1, 0x10, 0xFF, 0, 0, 0, 0, false⟩,
  ⟨"CHURN_COEF_A", 0x728, 4, 1, 0x40400000, 0xFFFFFFFF, 0, 0, 0, 0, false⟩,
  ⟨"CHURN_COEF_B", 0x72C, 4, 1, 0xC04CCCCD, 0xFFFFFFFF, 0, 0, 0, 0, false⟩,
  ⟨"CHURN_COEF_C", 0x730, 4, 1, 0x3F99999A, 0xFFFFFFFF, 0, 0, 0, 0, false⟩,
  ⟨"SKIM_DESC", 0x780, 4, 1, 0, 0xFFFFF, 0, 0, 0, 0, false⟩,
  ⟨"SKIM_GO", 0x784, 4, 1, 0, 0, 0, 0, 0x1, 0, false⟩,
  ⟨"SKIM_STATUS", 0x788, 4, 1, 0, 0, 0x32, 0, 0, 0, false⟩,
  ⟨"SKIM_FIRST", 0x78C, 4, 1, 0, 0, 0, 0, 0, 0, false⟩]

/-- The tile register block (Table 16.2): Rennet, accumulators, engines, Ladle, ECC, Pail, Vat, Churn, Skimmer, posting, cap, tile time. Part 4. -/
def tileRegs4 : List RegRow := [
  ⟨"SKIM_NONFIN_CNT", 0x790, 4, 1, 0, 0, 0, 0xFFFFFFFF, 0, 0, false⟩,
  ⟨"SKIM_OVF_CNT", 0x794, 4, 1, 0, 0, 0, 0xFFFFFFFF, 0, 0, false⟩,
  ⟨"SKIM_JOBS", 0x798, 4, 1, 0, 0, 0, 0, 0, 0, false⟩,
  ⟨"SKIM_LAST_CYC", 0x79C, 4, 1, 0, 0, 0, 0, 0, 0, false⟩,
  ⟨"SKIM_SR_SEED (low)", 0x7A0, 4, 1, 0, 0xFFFFFFFF, 0, 0, 0, 0, true⟩,
  ⟨"SKIM_SR_SEED (high)", 0x7A4, 4, 1, 0, 0xFFFFFFFF, 0, 0, 0, 0, false⟩,
  ⟨"COLL_POST", 0x800, 4, 1, 0, 0, 0, 0, 0xFFFFF, 0, false⟩,
  ⟨"COLL_POST_STATUS", 0x804, 4, 1, 0, 0, 0x1, 0, 0, 0, false⟩,
  ⟨"CAP_PHASE_MARK", 0x910, 4, 1, 0, 0, 0, 0, 0x7, 0, false⟩,
  ⟨"CAP_TILE_GRANT", 0x914, 4, 1, 0x404000, 0, 0, 0, 0, 0, false⟩,
  ⟨"CAP_TILE_TEMP", 0x918, 4, 1, 0, 0, 0, 0, 0, 0, false⟩,
  ⟨"CAP_TILE_LIMCNT", 0x91C, 4, 1, 0, 0, 0, 0xFFFFFFFF, 0, 0, false⟩,
  ⟨"CLK_TILE_TIME (low)", 0x940, 4, 1, 0, 0, 0, 0, 0, 0, true⟩,
  ⟨"CLK_TILE_TIME (high)", 0x944, 4, 1, 0, 0, 0, 0, 0, 0, false⟩]

/-- The tile register block (Table 16.2): Rennet, accumulators, engines, Ladle, ECC, Pail, Vat, Churn, Skimmer, posting, cap, tile time. -/
def tileRegs : List RegRow := tileRegs1 ++ tileRegs2 ++ tileRegs3 ++ tileRegs4

/-- The rail registers of a tile block (Table 13.6). -/
def railRegs : List RegRow := [
  ⟨"CAP_RAIL_V", 0x900, 4, 1, 0, 0, 0, 0, 0, 0, false⟩,
  ⟨"CAP_RAIL_I", 0x904, 4, 1, 0, 0, 0, 0, 0, 0, false⟩,
  ⟨"CAP_RAIL_R", 0x908, 4, 1, 0, 0, 0, 0, 0, 0, false⟩,
  ⟨"CAP_RAIL_STATUS", 0x90C, 4, 1, 0, 0, 0x2, 0, 0, 0, false⟩]

/-- The partition register block (Table 16.2). Part 1. -/
def partRegs1 : List RegRow := [
  ⟨"RENNET_PART_FLAGS", 0x300, 4, 1, 0, 0, 0, 0, 0, 0, false⟩,
  ⟨"RENNET_PART_CLEAR", 0x304, 4, 1, 0, 0, 0, 0, 0x1FF, 0, false⟩,
  ⟨"COLL_BARn_CFG", 0x800, 8, 64, 0, 0x1FFF, 0, 0, 0, 0x1FFF, false⟩,
  ⟨"COLL_BARn_STATE", 0x804, 8, 64, 0, 0, 0x80000000, 0, 0, 0, false⟩,
  ⟨"PAIL_MODEk", 0xA00, 4, 18, 0, 0x3, 0x80000000, 0, 0, 0x3, false⟩,
  ⟨"CHURN_PART_FLAGS", 0x340, 4, 1, 0, 0, 0, 0, 0, 0, false⟩,
  ⟨"CHURN_PART_CLEAR", 0x344, 4, 1, 0, 0, 0, 0, 0x7, 0, false⟩,
  ⟨"CAP_PHASEn_LAST", 0xC00, 16, 5, 0, 0, 0, 0, 0, 0, false⟩,
  ⟨"CAP_PHASEn_AVG", 0xC04, 16, 5, 0, 0, 0, 0, 0, 0, false⟩,
  ⟨"CAP_PHASEn_MIN", 0xC08, 16, 5, 0xFFFFFFFF, 0, 0, 0, 0, 0, false⟩,
  ⟨"CAP_PHASEn_MAX", 0xC0C, 16, 5, 0, 0, 0, 0, 0, 0, false⟩,
  ⟨"CAP_STEP_LAST", 0xC50, 4, 1, 0, 0, 0, 0, 0, 0, false⟩,
  ⟨"CAP_STEP_CNT", 0xC54, 4, 1, 0, 0, 0, 0, 0, 0, false⟩,
  ⟨"CAP_STEP_CTL", 0xC58, 4, 1, 0, 0, 0, 0, 0x1, 0, false⟩,
  ⟨"CHURN_OWNERs", 0x4000, 4, 4096, 0, 0x87FF, 0x80000000, 0, 0, 0, false⟩,
  ⟨"SKIM_PART_FLAGS", 0x348, 4, 1, 0, 0, 0, 0, 0, 0, false⟩,
  ⟨"SKIM_PART_CLEAR", 0x34C, 4, 1, 0, 0, 0, 0, 0x3, 0, false⟩,
  ⟨"COLL_STATUS", 0xD00, 4, 1, 0, 0, 0, 0, 0, 0, false⟩,
  ⟨"COLL_TMO", 0xD04, 4, 1, 0x3E803E8, 0xFFFFFFFF, 0, 0, 0, 0, false⟩,
  ⟨"COLL_JOB_FLAGS", 0xD08, 4, 1, 0, 0, 0, 0, 0, 0, false⟩,
  ⟨"COLL_LAST_ERR", 0xD0C, 4, 1, 0, 0, 0x80000000, 0, 0, 0, false⟩,
  ⟨"COLL_LAST_SEQ", 0xD10, 4, 1, 0, 0, 0, 0, 0, 0, false⟩,
  ⟨"COLL_CANCEL", 0xD14, 4, 1, 0, 0, 0, 0, 0x8000003F, 0, false⟩,
  ⟨"COLL_DONE_CNT", 0xD18, 4, 1, 0, 0, 0, 0, 0, 0, false⟩]

/-- The partition register block (Table 16.2). Part 2. -/
def partRegs2 : List RegRow := [
  ⟨"COLL_ABORT_CNT", 0xD1C, 4, 1, 0, 0, 0, 0, 0, 0, false⟩,
  ⟨"COLL_OVF_CNT", 0xD20, 4, 1, 0, 0, 0, 0xFFFFFFFF, 0, 0, false⟩,
  ⟨"COLL_NONFIN_CNT", 0xD24, 4, 1, 0, 0, 0, 0xFFFFFFFF, 0, 0, false⟩,
  ⟨"COLL_DROP_CNT", 0xD28, 4, 1, 0, 0, 0, 0xFFFFFFFF, 0, 0, false⟩,
  ⟨"COLL_CFG_STATUS", 0xD2C, 4, 1, 0, 0, 0x1, 0, 0, 0, false⟩,
  ⟨"COLL_GRPg_CFG", 0x1000, 16, 64, 0, 0x8000003F, 0, 0, 0, 0x8000003F, false⟩,
  ⟨"COLL_GRPg_ORIGIN", 0x1004, 16, 64, 0, 0x3FFFF, 0, 0, 0, 0x3FFFF, false⟩,
  ⟨"COLL_GRPg_KEY", 0x1008, 16, 64, 0, 0xFFFFFFFF, 0, 0, 0, 0xFFFFFFFF, false⟩,
  ⟨"COLL_GRPg_SEQ", 0x100C, 16, 64, 0, 0xFFFFFFFF, 0, 0, 0, 0xFFFFFFFF, false⟩,
  ⟨"MB_PART_CFG", 0x0, 4, 1, 0, 0, 0, 0, 0, 0, false⟩,
  ⟨"MB_PART_KEYS", 0x4, 4, 1, 0, 0, 0, 0, 0, 0, false⟩,
  ⟨"MB_PART_REFUSED", 0x8, 4, 1, 0, 0, 0, 0xFFFFFFFF, 0, 0, false⟩,
  ⟨"MB_PART_WINn_BASE (low)", 0x100, 32, 16, 0, 0, 0, 0, 0, 0, true⟩,
  ⟨"MB_PART_WINn_BASE (high)", 0x104, 32, 16, 0, 0, 0, 0, 0, 0, false⟩,
  ⟨"MB_PART_WINn_SIZE (low)", 0x108, 32, 16, 0, 0, 0, 0, 0, 0, true⟩,
  ⟨"MB_PART_WINn_SIZE (high)", 0x10C, 32, 16, 0, 0, 0, 0, 0, 0, false⟩,
  ⟨"MB_PART_WINn_CTL", 0x110, 32, 16, 0, 0, 0, 0, 0, 0, false⟩,
  ⟨"CAP_DEMAND0", 0xE00, 4, 1, 0x2BC, 0, 0, 0, 0, 0, false⟩,
  ⟨"CAP_DEMAND1", 0xE04, 4, 1, 0x2BC, 0, 0, 0, 0, 0, false⟩,
  ⟨"CAP_DEMAND2", 0xE08, 4, 1, 0x2BC, 0, 0, 0, 0, 0, false⟩,
  ⟨"CAP_DEMAND3", 0xE0C, 4, 1, 0x64, 0, 0, 0, 0, 0, false⟩,
  ⟨"CAP_DEMAND4", 0xE10, 4, 1, 0x32, 0, 0, 0, 0, 0, false⟩,
  ⟨"CAP_PART_PHASE", 0xE14, 4, 1, 0x4, 0, 0, 0, 0x80000000, 0, false⟩,
  ⟨"CAP_PART_GRANT0", 0xE18, 4, 1, 0x10404040, 0x7F7F7F7F, 0, 0, 0, 0, false⟩]

/-- The partition register block (Table 16.2). Part 3. -/
def partRegs3 : List RegRow := [
  ⟨"CAP_PART_GRANT1", 0xE1C, 4, 1, 0x40, 0x7F, 0, 0, 0, 0, false⟩]

/-- The partition register block (Table 16.2). -/
def partRegs : List RegRow := partRegs1 ++ partRegs2 ++ partRegs3

/-- The chip register block (Table 16.2), ports and rails apart. Part 1. -/
def chipRegs1 : List RegRow := [
  ⟨"COLL_DENSE_CFG", 0x2A00, 4, 1, 0x3, 0xF3, 0, 0, 0, 0, false⟩,
  ⟨"FAB_CHIP_ID", 0x2800, 4, 1, 0, 0x3FFFF, 0, 0, 0, 0x3FFFF, false⟩,
  ⟨"FAB_DIMS", 0x2804, 4, 1, 0, 0x73F3F3F, 0, 0, 0, 0x73F3F3F, false⟩,
  ⟨"FAB_ROUTE", 0x2808, 4, 1, 0x10, 0x17, 0, 0, 0, 0x17, false⟩,
  ⟨"FAB_ARB", 0x280C, 4, 1, 0x44, 0xFF, 0, 0, 0, 0, false⟩,
  ⟨"FAB_TAG_CFG", 0x2810, 4, 1, 0x1000, 0x7FFF, 0, 0, 0, 0x7FFF, false⟩,
  ⟨"FAB_TAGS", 0x2814, 4, 1, 0, 0, 0, 0x7FFF0000, 0, 0, false⟩,
  ⟨"FAB_DETOUR_CNT (low)", 0x2818, 4, 1, 0, 0, 0, 0, 0, 0, true⟩,
  ⟨"FAB_DETOUR_CNT (high)", 0x281C, 4, 1, 0, 0, 0, 0, 0, 0, false⟩,
  ⟨"FAB_UNROUTABLE_CNT", 0x2820, 4, 1, 0, 0, 0, 0xFFFFFFFF, 0, 0, false⟩,
  ⟨"FAB_DUP_CNT", 0x2824, 4, 1, 0, 0, 0, 0xFFFFFFFF, 0, 0, false⟩,
  ⟨"FAB_LATE_CNT", 0x2828, 4, 1, 0, 0, 0, 0xFFFFFFFF, 0, 0, false⟩,
  ⟨"FAB_CFG_STATUS", 0x282C, 4, 1, 0, 0, 0x1, 0, 0, 0, false⟩,
  ⟨"COLL_ENGINE", 0x2A04, 4, 1, 0, 0, 0, 0, 0, 0, false⟩,
  ⟨"COLL_QUOTAn", 0x2A40, 4, 16, 0x2, 0x3F, 0, 0, 0, 0, false⟩,
  ⟨"CAP_INPUT", 0x3000, 4, 1, 0, 0, 0, 0, 0, 0, false⟩,
  ⟨"CAP_INPUT_FLAGS", 0x3004, 4, 1, 0, 0, 0x7, 0, 0, 0, false⟩,
  ⟨"CAP_START", 0x3008, 4, 1, 0, 0, 0, 0, 0, 0, false⟩,
  ⟨"CAP_AON_CAUSE", 0x300C, 4, 1, 0, 0, 0x80000000, 0, 0, 0, false⟩,
  ⟨"CAP_CONN_CFG", 0x3010, 4, 1, 0x1F410, 0xFFFF3F, 0, 0, 0, 0, false⟩,
  ⟨"CAP_CONN_LAST", 0x3014, 4, 1, 0, 0, 0x80000000, 0, 0, 0, false⟩,
  ⟨"CAP_CAL_CFG", 0x3018, 4, 1, 0x1, 0x1, 0, 0, 0, 0, false⟩,
  ⟨"CAP_BUDGET_CFG", 0x3200, 4, 1, 0x640640, 0xFFFF3FF3, 0, 0, 0, 0, false⟩,
  ⟨"CAP_BUDGET_REQ", 0x3204, 4, 1, 0x12C0384, 0x3FF03FF, 0, 0, 0, 0, false⟩]

/-- The chip register block (Table 16.2), ports and rails apart. Part 2. -/
def chipRegs2 : List RegRow := [
  ⟨"CAP_BUDGET_STAT", 0x3208, 4, 1, 0x3840384, 0, 0x40000000, 0, 0, 0, false⟩,
  ⟨"CAP_BUDGET_PIN", 0x320C, 4, 1, 0, 0, 0, 0xFFFF0000, 0, 0, false⟩,
  ⟨"CAP_BUDGET_I3C", 0x3210, 4, 1, 0x384, 0x3FF, 0, 0, 0, 0, false⟩,
  ⟨"CAP_ENVELOPE", 0x3214, 4, 1, 0x64041A, 0x7F07FF, 0, 0, 0, 0, false⟩,
  ⟨"CAP_TILE_LIMIT", 0x3218, 4, 1, 0x640, 0x7FF, 0, 0, 0, 0, false⟩,
  ⟨"CAP_CTRL", 0x321C, 4, 1, 0x3A9800, 0, 0, 0, 0, 0, false⟩,
  ⟨"CAP_PKG_POWER", 0x3220, 4, 1, 0, 0, 0, 0, 0, 0, false⟩,
  ⟨"CAP_CONV", 0x3224, 4, 1, 0x1000, 0, 0, 0, 0, 0, false⟩,
  ⟨"CAP_THERM_CFG", 0x3300, 4, 1, 0x5C58645F, 0xFFFFFFFF, 0, 0, 0, 0, false⟩,
  ⟨"CAP_THERM_STAT", 0x3304, 4, 1, 0, 0, 0x40000000, 0, 0, 0, false⟩,
  ⟨"CAP_THERM_WHERE", 0x3308, 4, 1, 0, 0, 0, 0, 0, 0, false⟩,
  ⟨"CAP_COOL_CFG", 0x3340, 4, 1, 0x10400000, 0xFFFF0001, 0, 0, 0, 0, false⟩,
  ⟨"CAP_COOL_LIM", 0x3344, 4, 1, 0x64413CCD, 0xFFFFFFFF, 0, 0, 0, 0, false⟩,
  ⟨"CAP_COOL_SHARE", 0x3348, 4, 1, 0x100, 0x1FF, 0, 0, 0, 0, false⟩,
  ⟨"CAP_COOL_TEMP", 0x334C, 4, 1, 0, 0, 0, 0, 0, 0, false⟩,
  ⟨"CAP_COOL_FLOW", 0x3350, 4, 1, 0, 0, 0, 0, 0, 0, false⟩,
  ⟨"CAP_COOL_HEAT", 0x3354, 4, 1, 0, 0, 0, 0, 0, 0, false⟩,
  ⟨"CAP_COOL_STAT", 0x3358, 4, 1, 0, 0, 0x3F000000, 0, 0, 0, false⟩,
  ⟨"CAP_TCYCs_b", 0x3380, 4, 8, 0, 0, 0, 0, 0, 0, false⟩,
  ⟨"CAP_TCYC_STAT", 0x33A0, 4, 1, 0, 0, 0x80000000, 0, 0, 0, false⟩,
  ⟨"CLK_STATUS", 0x3400, 4, 1, 0xFFF0000, 0, 0x80000000, 0, 0, 0, false⟩,
  ⟨"CLK_MESH_REQ", 0x3404, 4, 1, 0x3B6, 0x7FF, 0, 0, 0, 0, false⟩,
  ⟨"CLK_MESH_CUR", 0x3408, 4, 1, 0, 0, 0, 0, 0, 0, false⟩,
  ⟨"CLK_MESH_CYC (low)", 0x3410, 4, 1, 0, 0, 0, 0, 0, 0, true⟩]

/-- The chip register block (Table 16.2), ports and rails apart. Part 3. -/
def chipRegs3 : List RegRow := [
  ⟨"CLK_MESH_CYC (high)", 0x3414, 4, 1, 0, 0, 0, 0, 0, 0, false⟩,
  ⟨"CLK_TIME (low)", 0x3418, 4, 1, 0, 0, 0, 0, 0, 0, true⟩,
  ⟨"CLK_TIME (high)", 0x341C, 4, 1, 0, 0, 0, 0, 0, 0, false⟩,
  ⟨"CLK_TIME_SET (low)", 0x3420, 4, 1, 0, 0xFFFFFFFF, 0, 0, 0, 0, true⟩,
  ⟨"CLK_TIME_SET (high)", 0x3424, 4, 1, 0, 0xFFFFFFFF, 0, 0, 0, 0, false⟩,
  ⟨"CLK_TIME_CFG", 0x3428, 4, 1, 0, 0x1, 0, 0, 0, 0, false⟩,
  ⟨"CLK_TIME_OFS", 0x342C, 4, 1, 0, 0, 0, 0, 0, 0, false⟩,
  ⟨"CLK_TIME_FREQ", 0x3430, 4, 1, 0, 0, 0, 0, 0, 0, false⟩,
  ⟨"CLK_TIME_STEPS", 0x3434, 4, 1, 0, 0, 0, 0xFFFF, 0, 0, false⟩,
  ⟨"CLK_COMPAT50 (low)", 0x3438, 4, 1, 0, 0, 0, 0, 0, 0, true⟩,
  ⟨"CLK_COMPAT50 (high)", 0x343C, 4, 1, 0, 0, 0, 0, 0, 0, false⟩,
  ⟨"CAP_COOL_SENSn", 0x3360, 4, 3, 0x30000, 0x7FF7F, 0, 0, 0, 0, false⟩,
  ⟨"CAP_COOL_XFMn", 0x3370, 4, 3, 0x1000, 0xFFFFFFFF, 0, 0, 0, 0, false⟩,
  ⟨"MB_I3C_TGT", 0x3500, 4, 1, 0x58, 0, 0, 0, 0, 0, false⟩,
  ⟨"MB_I3CC_CFG", 0x3504, 4, 1, 0x2, 0x7, 0, 0, 0, 0, false⟩,
  ⟨"MB_I3C_STAT", 0x3508, 4, 1, 0, 0, 0, 0xFFFFFFFF, 0, 0, false⟩,
  ⟨"MB_UART_CFG", 0x3510, 4, 1, 0x3332D, 0x3FFFF, 0, 0, 0, 0, false⟩,
  ⟨"MB_UART_STAT", 0x3514, 4, 1, 0, 0, 0, 0xFFFFFFFF, 0, 0, false⟩,
  ⟨"MB_ALERT", 0x3520, 4, 1, 0x1F80000, 0x1F80000, 0, 0, 0, 0, false⟩,
  ⟨"MB_PCIE_STAT", 0x3524, 4, 1, 0, 0, 0, 0xFFFF0000, 0, 0, false⟩]

/-- The chip register block (Table 16.2), ports and rails apart. -/
def chipRegs : List RegRow := chipRegs1 ++ chipRegs2 ++ chipRegs3

/-- The registers of one fabric port (Table 9.8), offsets within the port. -/
def portRegs : List RegRow := [
  ⟨"FAB_PORTp_CTL", 0x0, 4, 1, 0x2, 0x7, 0, 0, 0, 0, false⟩,
  ⟨"FAB_PORTp_STATUS", 0x4, 4, 1, 0, 0, 0x80000000, 0, 0, 0, false⟩,
  ⟨"FAB_PORTp_PARTNER", 0x8, 4, 1, 0, 0, 0, 0, 0, 0, false⟩,
  ⟨"FAB_PORTp_HB", 0xC, 4, 1, 0xFFFF0000, 0, 0, 0, 0, 0, false⟩,
  ⟨"FAB_PORTp_TX_FLITS (low)", 0x10, 4, 1, 0, 0, 0, 0, 0, 0, true⟩,
  ⟨"FAB_PORTp_TX_FLITS (high)", 0x14, 4, 1, 0, 0, 0, 0, 0, 0, false⟩,
  ⟨"FAB_PORTp_RX_FLITS (low)", 0x18, 4, 1, 0, 0, 0, 0, 0, 0, true⟩,
  ⟨"FAB_PORTp_RX_FLITS (high)", 0x1C, 4, 1, 0, 0, 0, 0, 0, 0, false⟩,
  ⟨"FAB_PORTp_FEC_CORR", 0x20, 4, 1, 0, 0, 0, 0xFFFFFFFF, 0, 0, false⟩,
  ⟨"FAB_PORTp_FEC_UNCORR", 0x24, 4, 1, 0, 0, 0, 0xFFFFFFFF, 0, 0, false⟩,
  ⟨"FAB_PORTp_CRC_ERR", 0x28, 4, 1, 0, 0, 0, 0xFFFFFFFF, 0, 0, false⟩,
  ⟨"FAB_PORTp_REPLAY", 0x2C, 4, 1, 0, 0, 0, 0xFFFFFFFF, 0, 0, false⟩,
  ⟨"FAB_PORTp_DOWN_CNT", 0x30, 4, 1, 0, 0, 0, 0xFFFFFFFF, 0, 0, false⟩,
  ⟨"FAB_PORTp_LEAD_COLL", 0x34, 4, 1, 0, 0, 0, 0xFFFFFFFF, 0, 0, false⟩]

/-- The mailbox window of one pair (Table 11.4). -/
def mbRegs : List RegRow := [
  ⟨"MB_FW_VER", 0x0, 4, 1, 0, 0, 0, 0, 0, 0, false⟩,
  ⟨"MB_ROOT_VER", 0x4, 4, 1, 0, 0, 0, 0, 0, 0, false⟩,
  ⟨"MB_SVC_VER", 0x8, 4, 1, 0, 0, 0, 0, 0, 0, false⟩,
  ⟨"MB_HOST_VER", 0xC, 4, 1, 0, 0xFFFFFFFF, 0, 0, 0, 0, false⟩,
  ⟨"MB_STATUS", 0x10, 4, 1, 0, 0, 0x300, 0, 0, 0, false⟩,
  ⟨"MB_REQ_TAIL", 0x14, 4, 1, 0, 0xFFFFFFFF, 0, 0, 0, 0, false⟩,
  ⟨"MB_REQ_HEAD", 0x18, 4, 1, 0, 0, 0, 0, 0, 0, false⟩,
  ⟨"MB_RSP_TAIL", 0x1C, 4, 1, 0, 0, 0, 0, 0, 0, false⟩,
  ⟨"MB_RSP_HEAD", 0x20, 4, 1, 0, 0xFFFFFFFF, 0, 0, 0, 0, false⟩,
  ⟨"MB_EVT_TAIL", 0x24, 4, 1, 0, 0, 0, 0, 0, 0, false⟩,
  ⟨"MB_EVT_HEAD", 0x28, 4, 1, 0, 0xFFFFFFFF, 0, 0, 0, 0, false⟩,
  ⟨"MB_EVT_LOST", 0x2C, 4, 1, 0, 0, 0, 0xFFFFFFFF, 0, 0, false⟩,
  ⟨"MB_IRQ_CTL", 0x30, 4, 1, 0, 0xFF03, 0, 0, 0, 0, false⟩,
  ⟨"MB_LOG_SEQ", 0x34, 4, 1, 0, 0, 0, 0, 0, 0, false⟩,
  ⟨"MB_TRACE_WR", 0x38, 4, 1, 0, 0, 0, 0, 0, 0, false⟩,
  ⟨"MB_BOOT_STATUS", 0x40, 4, 1, 0, 0, 0, 0, 0, 0, false⟩,
  ⟨"MB_BOOT_ADDR (low)", 0x44, 4, 1, 0, 0xFFFFFFFF, 0, 0, 0, 0, true⟩,
  ⟨"MB_BOOT_ADDR (high)", 0x48, 4, 1, 0, 0xFFFFFFFF, 0, 0, 0, 0, false⟩,
  ⟨"MB_BOOT_LEN", 0x4C, 4, 1, 0, 0xFFFFFFFF, 0, 0, 0, 0, false⟩,
  ⟨"MB_BOOT_GO", 0x50, 4, 1, 0, 0, 0, 0, 0x1, 0, false⟩,
  ⟨"MB_REQ_SLOTi", 0x1000, 4, 4096, 0, 0xFFFFFFFF, 0, 0, 0, 0, false⟩,
  ⟨"MB_RSP_SLOTi", 0x5000, 4, 4096, 0, 0, 0, 0, 0, 0, false⟩,
  ⟨"MB_EVT_SLOTi", 0x9000, 4, 1024, 0, 0, 0, 0, 0, 0, false⟩,
  ⟨"MB_LOG_RECi", 0x10000, 4, 32768, 0, 0, 0, 0, 0, 0, false⟩]

/-! Offsets by name (the first of a family). -/

abbrev Reg.rennetFlags : Nat := 0x0
abbrev Reg.rennetFirst : Nat := 0x4
abbrev Reg.rennetSatCnt : Nat := 0x8
abbrev Reg.rennetOvfCnt : Nat := 0xC
abbrev Reg.rennetNonfinCnt : Nat := 0x10
abbrev Reg.rennetSubCnt : Nat := 0x14
abbrev Reg.rennetAlignCnt : Nat := 0x18
abbrev Reg.rennetSatThr : Nat := 0x1C
abbrev Reg.rennetRecipeEn : Nat := 0x20
abbrev Reg.rennetNoncanonCnt : Nat := 0x2C
abbrev Reg.rennetSeedLo : Nat := 0x40
abbrev Reg.rennetSeedHi : Nat := 0x44
abbrev Reg.rennetSrSeedLo : Nat := 0xC0
abbrev Reg.rennetSrSeedHi : Nat := 0xC4
abbrev Reg.rennetSeedBusy : Nat := 0xC8
abbrev Reg.rennetPartFlags : Nat := 0x300
abbrev Reg.rennetPartClear : Nat := 0x304
abbrev Reg.rennetAccOvfCnt : Nat := 0x24
abbrev Reg.rennetAccState : Nat := 0x28
abbrev Reg.rennetDrainBase : Nat := 0x100
abbrev Reg.rennetDrainPush : Nat := 0x104
abbrev Reg.rennetDrainLevel : Nat := 0x120
abbrev Reg.ladleQctl : Nat := 0x400
abbrev Reg.ladleQlevel : Nat := 0x404
abbrev Reg.ladleFault : Nat := 0x408
abbrev Reg.ladleFaultSeq : Nat := 0x40C
abbrev Reg.ladleInflight : Nat := 0x410
abbrev Reg.ladleLimits : Nat := 0x414
abbrev Reg.ladleWaitLimit : Nat := 0x418
abbrev Reg.ladleCfgStatus : Nat := 0x41C
abbrev Reg.ladleScPc : Nat := 0x420
abbrev Reg.ladleCmdcntMx : Nat := 0x424
abbrev Reg.ladleCmdcntVec : Nat := 0x428
abbrev Reg.ladleCmdcntLd : Nat := 0x42C
abbrev Reg.ladleSyncCmd : Nat := 0x430
abbrev Reg.ladleSyncArg : Nat := 0x434
abbrev Reg.ladleQpushMx : Nat := 0x440
abbrev Reg.ladleQpushVec : Nat := 0x460
abbrev Reg.ladleQpushLd : Nat := 0x480
abbrev Reg.ladleSem : Nat := 0x1000
abbrev Reg.collBarCfg : Nat := 0x800
abbrev Reg.collBarState : Nat := 0x804
abbrev Reg.ladleScrEcc : Nat := 0x438
abbrev Reg.pailCtl : Nat := 0x600
abbrev Reg.pailHitCnt : Nat := 0x604
abbrev Reg.pailMissCnt : Nat := 0x608
abbrev Reg.pailEccCnt : Nat := 0x60C
abbrev Reg.vatCeCnt : Nat := 0x610
abbrev Reg.vatUeCnt : Nat := 0x614
abbrev Reg.vatErrLoc : Nat := 0x618
abbrev Reg.vatErrPat : Nat := 0x61C
abbrev Reg.vatRepair : Nat := 0x620
abbrev Reg.vatStatus : Nat := 0x624
abbrev Reg.vatScrubCfg : Nat := 0x628
abbrev Reg.vatScrubPass : Nat := 0x62C
abbrev Reg.vatRdSectLo : Nat := 0x630
abbrev Reg.vatRdSectHi : Nat := 0x634
abbrev Reg.vatWrSectLo : Nat := 0x638
abbrev Reg.vatWrSectHi : Nat := 0x63C
abbrev Reg.pailMode : Nat := 0xA00
abbrev Reg.churnDesc : Nat := 0x700
abbrev Reg.churnGo : Nat := 0x704
abbrev Reg.churnStatus : Nat := 0x708
abbrev Reg.churnFirst : Nat := 0x70C
abbrev Reg.churnNonfinCnt : Nat := 0x710
abbrev Reg.churnBigCnt : Nat := 0x714
abbrev Reg.churnResidual : Nat := 0x718
abbrev Reg.churnJobs : Nat := 0x71C
abbrev Reg.churnLastCyc : Nat := 0x720
abbrev Reg.churnBigExp : Nat := 0x724
abbrev Reg.churnCoefA : Nat := 0x728
abbrev Reg.churnCoefB : Nat := 0x72C
abbrev Reg.churnCoefC : Nat := 0x730
abbrev Reg.churnPartFlags : Nat := 0x340
abbrev Reg.churnPartClear : Nat := 0x344
abbrev Reg.capPhaseLast : Nat := 0xC00
abbrev Reg.capPhaseAvg : Nat := 0xC04
abbrev Reg.capPhaseMin : Nat := 0xC08
abbrev Reg.capPhaseMax : Nat := 0xC0C
abbrev Reg.capStepLast : Nat := 0xC50
abbrev Reg.capStepCnt : Nat := 0xC54
abbrev Reg.capStepCtl : Nat := 0xC58
abbrev Reg.churnOwner : Nat := 0x4000
abbrev Reg.skimDesc : Nat := 0x780
abbrev Reg.skimGo : Nat := 0x784
abbrev Reg.skimStatus : Nat := 0x788
abbrev Reg.skimFirst : Nat := 0x78C
abbrev Reg.skimNonfinCnt : Nat := 0x790
abbrev Reg.skimOvfCnt : Nat := 0x794
abbrev Reg.skimJobs : Nat := 0x798
abbrev Reg.skimLastCyc : Nat := 0x79C
abbrev Reg.skimSrSeedLo : Nat := 0x7A0
abbrev Reg.skimSrSeedHi : Nat := 0x7A4
abbrev Reg.skimPartFlags : Nat := 0x348
abbrev Reg.skimPartClear : Nat := 0x34C
abbrev Reg.collDenseCfg : Nat := 0x2A00
abbrev Reg.fabPortCtl : Nat := 0x0
abbrev Reg.fabPortStatus : Nat := 0x4
abbrev Reg.fabPortPartner : Nat := 0x8
abbrev Reg.fabPortHb : Nat := 0xC
abbrev Reg.fabPortTxFlitsLo : Nat := 0x10
abbrev Reg.fabPortTxFlitsHi : Nat := 0x14
abbrev Reg.fabPortRxFlitsLo : Nat := 0x18
abbrev Reg.fabPortRxFlitsHi : Nat := 0x1C
abbrev Reg.fabPortFecCorr : Nat := 0x20
abbrev Reg.fabPortFecUncorr : Nat := 0x24
abbrev Reg.fabPortCrcErr : Nat := 0x28
abbrev Reg.fabPortReplay : Nat := 0x2C
abbrev Reg.fabPortDownCnt : Nat := 0x30
abbrev Reg.fabPortLeadColl : Nat := 0x34
abbrev Reg.fabChipId : Nat := 0x2800
abbrev Reg.fabDims : Nat := 0x2804
abbrev Reg.fabRoute : Nat := 0x2808
abbrev Reg.fabArb : Nat := 0x280C
abbrev Reg.fabTagCfg : Nat := 0x2810
abbrev Reg.fabTags : Nat := 0x2814
abbrev Reg.fabDetourCntLo : Nat := 0x2818
abbrev Reg.fabDetourCntHi : Nat := 0x281C
abbrev Reg.fabUnroutableCnt : Nat := 0x2820
abbrev Reg.fabDupCnt : Nat := 0x2824
abbrev Reg.fabLateCnt : Nat := 0x2828
abbrev Reg.fabCfgStatus : Nat := 0x282C
abbrev Reg.collPost : Nat := 0x800
abbrev Reg.collPostStatus : Nat := 0x804
abbrev Reg.collStatus : Nat := 0xD00
abbrev Reg.collTmo : Nat := 0xD04
abbrev Reg.collJobFlags : Nat := 0xD08
abbrev Reg.collLastErr : Nat := 0xD0C
abbrev Reg.collLastSeq : Nat := 0xD10
abbrev Reg.collCancel : Nat := 0xD14
abbrev Reg.collDoneCnt : Nat := 0xD18
abbrev Reg.collAbortCnt : Nat := 0xD1C
abbrev Reg.collOvfCnt : Nat := 0xD20
abbrev Reg.collNonfinCnt : Nat := 0xD24
abbrev Reg.collDropCnt : Nat := 0xD28
abbrev Reg.collCfgStatus : Nat := 0xD2C
abbrev Reg.collGrpCfg : Nat := 0x1000
abbrev Reg.collGrpOrigin : Nat := 0x1004
abbrev Reg.collGrpKey : Nat := 0x1008
abbrev Reg.collGrpSeq : Nat := 0x100C
abbrev Reg.collEngine : Nat := 0x2A04
abbrev Reg.collQuota : Nat := 0x2A40
abbrev Reg.mbFwVer : Nat := 0x0
abbrev Reg.mbRootVer : Nat := 0x4
abbrev Reg.mbSvcVer : Nat := 0x8
abbrev Reg.mbHostVer : Nat := 0xC
abbrev Reg.mbStatus : Nat := 0x10
abbrev Reg.mbReqTail : Nat := 0x14
abbrev Reg.mbReqHead : Nat := 0x18
abbrev Reg.mbRspTail : Nat := 0x1C
abbrev Reg.mbRspHead : Nat := 0x20
abbrev Reg.mbEvtTail : Nat := 0x24
abbrev Reg.mbEvtHead : Nat := 0x28
abbrev Reg.mbEvtLost : Nat := 0x2C
abbrev Reg.mbIrqCtl : Nat := 0x30
abbrev Reg.mbLogSeq : Nat := 0x34
abbrev Reg.mbTraceWr : Nat := 0x38
abbrev Reg.mbBootStatus : Nat := 0x40
abbrev Reg.mbBootAddrLo : Nat := 0x44
abbrev Reg.mbBootAddrHi : Nat := 0x48
abbrev Reg.mbBootLen : Nat := 0x4C
abbrev Reg.mbBootGo : Nat := 0x50
abbrev Reg.mbReqSlot : Nat := 0x1000
abbrev Reg.mbRspSlot : Nat := 0x5000
abbrev Reg.mbEvtSlot : Nat := 0x9000
abbrev Reg.mbLogRec : Nat := 0x10000
abbrev Reg.mbPartCfg : Nat := 0x0
abbrev Reg.mbPartKeys : Nat := 0x4
abbrev Reg.mbPartRefused : Nat := 0x8
abbrev Reg.mbPartWinBaseLo : Nat := 0x100
abbrev Reg.mbPartWinBaseHi : Nat := 0x104
abbrev Reg.mbPartWinSizeLo : Nat := 0x108
abbrev Reg.mbPartWinSizeHi : Nat := 0x10C
abbrev Reg.mbPartWinCtl : Nat := 0x110
abbrev Reg.capInput : Nat := 0x3000
abbrev Reg.capInputFlags : Nat := 0x3004
abbrev Reg.capStart : Nat := 0x3008
abbrev Reg.capAonCause : Nat := 0x300C
abbrev Reg.capConnCfg : Nat := 0x3010
abbrev Reg.capConnLast : Nat := 0x3014
abbrev Reg.capCalCfg : Nat := 0x3018
abbrev Reg.capRailV : Nat := 0x900
abbrev Reg.capRailI : Nat := 0x904
abbrev Reg.capRailR : Nat := 0x908
abbrev Reg.capRailStatus : Nat := 0x90C
abbrev Reg.capBudgetCfg : Nat := 0x3200
abbrev Reg.capBudgetReq : Nat := 0x3204
abbrev Reg.capBudgetStat : Nat := 0x3208
abbrev Reg.capBudgetPin : Nat := 0x320C
abbrev Reg.capBudgetI3c : Nat := 0x3210
abbrev Reg.capEnvelope : Nat := 0x3214
abbrev Reg.capTileLimit : Nat := 0x3218
abbrev Reg.capCtrl : Nat := 0x321C
abbrev Reg.capPkgPower : Nat := 0x3220
abbrev Reg.capConv : Nat := 0x3224
abbrev Reg.capThermCfg : Nat := 0x3300
abbrev Reg.capThermStat : Nat := 0x3304
abbrev Reg.capThermWhere : Nat := 0x3308
abbrev Reg.capCoolCfg : Nat := 0x3340
abbrev Reg.capCoolLim : Nat := 0x3344
abbrev Reg.capCoolShare : Nat := 0x3348
abbrev Reg.capCoolTemp : Nat := 0x334C
abbrev Reg.capCoolFlow : Nat := 0x3350
abbrev Reg.capCoolHeat : Nat := 0x3354
abbrev Reg.capCoolStat : Nat := 0x3358
abbrev Reg.capTcycB : Nat := 0x3380
abbrev Reg.capTcycStat : Nat := 0x33A0
abbrev Reg.capPhaseMark : Nat := 0x910
abbrev Reg.capTileGrant : Nat := 0x914
abbrev Reg.capTileTemp : Nat := 0x918
abbrev Reg.capTileLimcnt : Nat := 0x91C
abbrev Reg.capDemand : Nat := 0xE00
abbrev Reg.capPartPhase : Nat := 0xE14
abbrev Reg.capPartGrant0 : Nat := 0xE18
abbrev Reg.capPartGrant1 : Nat := 0xE1C
abbrev Reg.clkStatus : Nat := 0x3400
abbrev Reg.clkMeshReq : Nat := 0x3404
abbrev Reg.clkMeshCur : Nat := 0x3408
abbrev Reg.clkMeshCycLo : Nat := 0x3410
abbrev Reg.clkMeshCycHi : Nat := 0x3414
abbrev Reg.clkTimeLo : Nat := 0x3418
abbrev Reg.clkTimeHi : Nat := 0x341C
abbrev Reg.clkTimeSetLo : Nat := 0x3420
abbrev Reg.clkTimeSetHi : Nat := 0x3424
abbrev Reg.clkTimeCfg : Nat := 0x3428
abbrev Reg.clkTimeOfs : Nat := 0x342C
abbrev Reg.clkTimeFreq : Nat := 0x3430
abbrev Reg.clkTimeSteps : Nat := 0x3434
abbrev Reg.clkCompat50Lo : Nat := 0x3438
abbrev Reg.clkCompat50Hi : Nat := 0x343C
abbrev Reg.clkTileTimeLo : Nat := 0x940
abbrev Reg.clkTileTimeHi : Nat := 0x944
abbrev Reg.capCoolSens : Nat := 0x3360
abbrev Reg.capCoolXfm : Nat := 0x3370
abbrev Reg.mbI3cTgt : Nat := 0x3500
abbrev Reg.mbI3ccCfg : Nat := 0x3504
abbrev Reg.mbI3cStat : Nat := 0x3508
abbrev Reg.mbUartCfg : Nat := 0x3510
abbrev Reg.mbUartStat : Nat := 0x3514
abbrev Reg.mbAlert : Nat := 0x3520
abbrev Reg.mbPcieStat : Nat := 0x3524

end Sys2Proof.Machine
end

