-- ==== Sys2Proof/Machine/TileState.lean ====
section
/-!
DEFINITION. Machine/TileState.lean: the state of one tile and of the Vat column above it (R19, R35, R76, R80, R92,
R95, R98, R106, R111 to R113, R118, R125, R139, R147, R149, R151, R155), as plain data.
-/

namespace Sys2Proof.Machine

/-- A queue entry: eight 32-bit words (R105). -/
abbrev QEntry := List Word

/-- A synchronisation command that has started and not completed (R107, R112, R117, R172). `gen` is the barrier
generation its arrival counted toward, `sigs` the remote signals of its engine still to be applied (CHIP scope),
`ingress` the ingress writes accepted when it started (SYSTEM scope). -/
structure Wait where
  w0      : Word
  w1      : Word
  start   : Nat
  limit   : Nat             -- LADLE_WAIT_LIMIT as the command started (R117, R130)
  arrived : Bool
  gen     : Nat
  ingress : Nat
  deriving DecidableEq, Repr

/-- A matrix pass that has started and whose last addition is still to come (R26, R28, R93): its command, the
descriptors and weight scales it read at its start (R48, R60), the set of each of its two column quarters, what its drain
takes at the start (R69), and how far it has come. -/
structure PassRec where
  qsel    : Nat
  gang    : Nat
  first   : Bool
  last    : Bool
  tCount  : Nat
  nCols   : Nat
  seq     : Nat
  compat  : Bool
  setL    : Nat
  setR    : Nat
  cvt     : Word
  base    : Nat
  pitch   : Nat
  oscBase : Nat
  oscPitch : Nat
  pattern : BitVec 256
  entry   : QEntry
  walk    : List Word       -- the walk descriptor's words, none when CONV = 0
  scale   : List Word       -- the scale descriptor's words, none when it is not read
  wsc     : List Nat        -- weight scale codes, segment by segment over the columns (R60)
  start   : Nat             -- the mesh cycle in which the engine took it
  pos     : Nat             -- the stream position of its first token (R26)
  beat    : Nat             -- the first cycle of its stream; M16 items keep to every fourth cycle from it (R29)
  takes   : BitVec 4        -- quarters whose waiting weight-load set it takes (R28)
  wts     : Tab (BitVec 16) -- the weights it loads, keyed as cells (R28)
  fed     : Tab Nat         -- tokens the feeder of a gang row has delivered
  toSwap  : Nat             -- enabled cells that have not executed their first item
  toLink  : Nat             -- sums that have not entered a column link
  left    : Nat             -- sums that have not been added
  deriving DecidableEq, Repr

/-- An entry of a row link, and of a cell's activation slot: one token's k activations of a gang row with their zero
flags (R37, R46); `scale` is the code of the row's activation group (R66), `due` the first cycle in which the feeder's
delay lets it into the link. -/
structure LinkEntry where
  seq   : Nat
  tok   : Nat
  acts  : List XNum
  zeros : List Bool
  scale : Nat
  due   : Nat
  deriving DecidableEq, Repr

/-- A partial sum between two cells of a column: the running value, and the operand pairs of the segment so far with the
scale of its activation group (R27, R65, R66). -/
structure PartSum where
  seq   : Nat
  tok   : Nat
  acc   : BitVec 56
  prods : List (XNum × XNum)
  scale : Nat
  deriving DecidableEq, Repr

/-- An entry of a column link: an ACC56 value, its token position, and the cycle in which it entered (R26, R37). -/
structure SumEntry where
  seq : Nat
  tok : Nat
  val : BitVec 56
  at_ : Nat
  deriving DecidableEq, Repr

/-- The weight loader at work on a weight load, or on the set of a pass (`own`): rows written so far in each quarter
(R28). -/
structure WLoad where
  seq   : Nat
  own   : Bool
  entry : QEntry
  rows  : Tab Nat
  deriving DecidableEq, Repr

/-- The matrix array of a tile: its links, the slots between its cells, and its weight loader (R28, R37 to R39, R99). -/
structure MxArray where
  rows    : Tab (List LinkEntry)    -- row links, keyed by quarter · 64 + row
  feed    : Tab (List LinkEntry)    -- entries a row's feeder has read and still delays, keyed alike
  gaps    : Tab Nat                 -- cycles for which a row link, or column link (256 + key), takes nothing (R38, R41)
  got     : Tab (List Nat)          -- lines a row's feeder, or the loader of a quarter (256 + quarter), has won (R44)
  acts    : Tab (Option LinkEntry)  -- a cell's activation input, keyed by quarter · 4096 + row · 64 + column
  sums    : Tab (Option PartSum)    -- a cell's partial-sum input
  outs    : Tab (Option SumEntry)   -- the downward slot of a gang's bottom cell, keyed by quarter · 64 + column
  cols    : Tab (List SumEntry)     -- column links, keyed by quarter · 64 + column
  addedAt : Tab (Option Nat)        -- the cycle of the latest addition into an accumulator entry (R99)
  wFirst  : Tab (Option Nat)        -- the cycle of the first item of a gang's latest weight-changing pass (R28)
  loads   : List WLoad              -- weight loads under way, oldest first
  started : Option Nat              -- the cycle in which the engine last started a command (R24)
  deriving DecidableEq, Repr

/-- An empty array. -/
def MxArray.reset : MxArray :=
  { rows := [], feed := [], gaps := [], got := [], acts := [], sums := [], outs := [], cols := [], addedAt := [], wFirst := [],
    loads := [], started := none }

/-- What has happened at a tile in the present mesh cycle, for the rules that speak of one cycle: the line each bank of
scratch has served, plus 1 (R44, R45); by requester rank · 16 + bank the cycles lost in a row, with the cycle of the
latest loss (R44); whether a fault arose (R110); the semaphores that overflowed (R114); how many entries BAR0 has
appended to a command queue (keyed by its engine) or to a drain-target queue (keyed by 8 + QSEL) (R98, R106); whether the
Ladle has issued a transaction or dropped a line (R125, R157); and whether the slice has delivered a line (R154). -/
structure Now where
  line  : Tab Nat
  lost  : Tab (Nat × Nat)
  fault : Bool
  sems  : List Nat
  bar0  : Tab Nat
  issued : Bool
  slice  : Bool
  deriving DecidableEq, Repr

/-- A cycle in which nothing has happened. -/
def Now.quiet : Now :=
  { line := [], lost := [], fault := false, sems := [], bar0 := [], issued := false, slice := false }

/-- A completed output tile in one column quarter, waiting for or in its drain (R95 to R97). `row` is the next
token row to read; `col0` the first gang column this quarter holds. -/
structure DrainJob where
  quarter : Nat
  set     : Nat
  col0    : Nat
  wide    : Bool
  gang    : Nat
  qsel    : Nat
  tCount  : Nat
  nCols   : Nat
  row     : Nat
  begun   : Bool            -- in progress when RENNET_SR_SEED was written (R80)
  seq     : Nat
  cvt     : Word
  base    : Nat
  pitch   : Nat
  oscBase : Nat
  oscPitch : Nat
  pattern : BitVec 256
  deriving DecidableEq, Repr

/-- A hold of R40 (row link i0, stream position n0) or a refusal of R41 (column link j0), of d cycles; `till` is the
cycle in which the entry arrives, or the link takes the sum. -/
structure Hold where
  row  : Bool
  idx  : Nat
  pos  : Nat
  d    : Nat
  till : Nat
  deriving DecidableEq, Repr

/-- A stream of one gang (R26): its shape, first cycle, items so far and holds in the order they arose. -/
structure Stream where
  gang  : Nat
  m16   : Bool
  start : Nat
  next  : Nat
  holds : List Hold
  deriving DecidableEq, Repr

/-- Why the scalar core stalls (R98, R106, R111, R112, R166). -/
inductive Stall
  | ecall
  | store (addr : Word) (size : Nat) (val : Word)   -- a local-port write that waits: full queue or store buffer
  | sync                                            -- a synchronisation command in progress
  deriving DecidableEq, Repr

/-- A store in the scalar core's store buffer (R166). -/
structure BufStore where
  addr : Nat
  size : Nat
  val  : Word
  deriving DecidableEq, Repr

/-- Where a Ladle transaction goes (R125, R154). -/
inductive TxnTarget
  | vat (addr : Nat)               -- a Vat chip address of this chip
  | pail (addr : Nat)              -- a Pail chip address of this chip
  | scratch (tile addr : Nat)      -- another (or the own) tile's scratch, DIR = 2
  | fabric (addr : Nat)            -- a 64-bit global address of another chip
  deriving DecidableEq, Repr

/-- How far a transaction has come: on its way to its home or in service there, waiting for a fabric tag, with another
chip, its data or acknowledgement back. -/
inductive TxnPhase
  | waiting | tagWait | sent | back
  deriving DecidableEq, Repr

/-- One outstanding Ladle transaction (R125, R126): `left` sectors still to come, `poison` per missing sector. -/
structure Txn where
  id      : Nat
  seq     : Nat
  write   : Bool
  target  : TxnTarget
  saddr   : Nat
  len     : Nat
  data    : List Byte
  phase   : TxnPhase
  left    : Nat
  bad     : List Nat        -- offsets of sectors read uncorrectable (R128)
  install : Bool            -- a miss whose sectors may still be installed in the cache (R155 to R157)
  issued  : Nat             -- chip time of issue (R179)
  tag     : Option Nat
  err     : Nat             -- the code of an error response (R229, R339); 0 for none
  since   : Nat             -- time of issue without the stops of the mesh clock (R179, R399)
  deriving DecidableEq, Repr

/-- The descriptor whose transactions the Ladle is issuing (R123, R125): the row, and the bytes of it issued. -/
structure LadleRun where
  entry : QEntry
  seq   : Nat
  row   : Nat
  off   : Nat
  alloc : Nat               -- PAIL_CTL.ALLOC as the descriptor started (R130)
  fail  : Nat               -- the code a row failed with, recorded once every earlier row has completed; 0 for none
  deriving DecidableEq, Repr

/-- A line of the Pail cache (R155): valid bits of its two sectors, its 64 bytes, and when it was last used. -/
structure CacheLine where
  line  : Nat
  v0    : Bool
  v1    : Bool
  bytes : List Byte
  used  : Nat
  bad   : List (Nat × Nat)  -- words of the line in error: 1 correctable, 2 uncorrectable (R158)
  deriving DecidableEq, Repr

/-- A sector read for a miss that waits for its installation (R154 to R156), and the mesh cycle of its arrival. -/
structure Fill where
  sector  : Nat
  bytes   : List Byte
  install : Bool
  at_     : Nat
  deriving DecidableEq, Repr

/-- Who made a Vat or Pail request: the Ladle of a tile, or an agent outside the tiles' Ladles (the host, the fabric
ingress, a Skimmer, the collective engine, Ittan). -/
inductive Requester
  | ladle (tile txn : Nat)
  | agent
  deriving DecidableEq, Repr

/-- A write that another tile's Ladle makes into this scratch, arrived and not yet in its bank (R45, R123). -/
structure ScrIn where
  src   : Nat
  txn   : Nat
  addr  : Nat
  bytes : List Byte
  deriving DecidableEq, Repr

/-- One entry of a column controller's request queue (R139, R140). -/
structure VatEntry where
  sector : Nat              -- sector index: chip address div 32
  write  : Bool
  off    : Nat              -- first byte within the sector
  bytes  : List Byte        -- the bytes written
  old    : List Byte        -- the sector as its home held it when the entry took its place (R162, R164)
  src    : Requester
  txnOff : Nat              -- where the bytes lie in the transaction
  len    : Nat
  passed : Nat
  cached : Bool             -- a miss whose sectors may be installed (R155)
  deriving DecidableEq, Repr

/-- A request waiting at a Pail slice (R154), and the mesh cycle of its arrival. -/
structure PailReq where
  addr  : Nat
  write : Bool
  bytes : List Byte
  len   : Nat
  src   : Requester
  at_   : Nat
  deriving DecidableEq, Repr

/-- A corrected-error signature (R147) with the distinct rows it was corrected in. -/
structure Signature4 where
  layer  : Nat
  bank   : Nat
  sector : Nat
  symbol : Nat
  bit    : Nat
  rows   : List Nat
  due    : Bool
  deriving DecidableEq, Repr

/-- A spare repair and its copy (R149, R151): a spare column of a bank and layer, or a spare row. -/
structure Repair where
  column : Bool
  bank   : Nat
  layer  : Nat
  sector : Nat
  symbol : Nat
  bit    : Nat
  row    : Nat
  ptr    : Nat
  deriving DecidableEq, Repr

/-- Standing errors of one sector: the error value of each symbol in error, and the poison mark (R145, R146). -/
structure SectorErr where
  syms   : List (Nat × Byte)
  poison : Bool
  deriving DecidableEq, Repr

/-- A sector without errors. -/
def SectorErr.clean : SectorErr := ⟨[], false⟩

/-- The column controller above a tile (R137 to R151). -/
structure Column where
  queue    : List VatEntry          -- at most 32, oldest first
  waitQ    : List (List VatEntry)   -- requests that arrived while the queue was full, each with its entries
  writing  : Bool                   -- the direction of the lanes
  wrun     : Nat                    -- writes started since the direction last changed
  refRow   : Nat                    -- the next row index to refresh
  hotNow   : Bool                   -- the refresh rate in force (R143)
  scrubRow : Nat                    -- the next scrub row: row · 32 + bank
  scrubDue : Bool                   -- a forced scrub row waits at rank 3
  rowOpen  : Tab Nat                -- the open row of each bank, plus 1; 0 for a closed bank
  errs     : Tab SectorErr          -- keyed by sector within the column
  sigs     : List Signature4        -- at most 16, least recently seen first
  rewritten : List (Nat × Nat)      -- sector and bit corrected and rewritten by a scrub or write-back (R148)
  spareRows : Tab Nat               -- spare rows used, keyed by bank · 12 + layer
  spareCols : Tab Nat               -- spare columns used, keyed by bank · 12 + layer
  repairs  : List Repair            -- finished repairs
  copying  : Option Repair          -- the repair being copied
  waiting  : List Repair            -- repairs that wait for the one being copied
  deriving DecidableEq, Repr

/-- A column as start-up leaves it. -/
def Column.reset : Column :=
  { queue := [], waitQ := [], writing := false, wrun := 0, refRow := 0, hotNow := false, scrubRow := 0,
    scrubDue := false, rowOpen := [], errs := [], sigs := [], rewritten := [], spareRows := [], spareCols := [],
    repairs := [], copying := none, waiting := [] }

/-- A Churn job (R186 to R193): where its descriptor lies, the mesh cycle its hold began in, the Live values it took
there (R130, R196), whether its owner entry named this tile then (R204), how far it has come, the descriptor it read,
a rounding seed that quarter 0 owes from before the job, and the scratch writes made since it began. -/
structure Job where
  desc    : Nat
  start   : Nat
  coefA   : Word
  coefB   : Word
  coefC   : Word
  bigExp  : Nat
  ownerOk : Bool
  begun   : Bool            -- has passed its checks
  faulted : Bool            -- stopped by a fault and not yet discarded (R189)
  words   : List Word       -- the descriptor's 16 words as the job read them
  owed    : Option DWord    -- a seed written before the job that quarter 0 has not taken (R80, R193)
  wrote   : List (Nat × Nat)  -- address and length of each scratch write since CHURN_GO (R192)
  deriving DecidableEq, Repr

/-- A Skimmer job (R212): where its descriptor lies, the words read there, the mesh cycle of its start, and the writes made
since then into scratch and into its column (R221), as address and length. -/
structure SkimJob where
  desc  : Nat
  words : List Word
  start : Nat
  wrote : List (Nat × Nat)
  wheyWrote : List (Nat × Nat)
  deriving DecidableEq, Repr

/-- One tile. Registers of Tables 2.9, 3.7, 4.10, 5.5, 7.4, 8.5, 10.11, 13.6, 14.6 and 15.7 lie in `regs`. -/
structure Tile where
  regs    : Tab Word
  latch   : Tab (Option Word)       -- latched high halves (R6), keyed by their offset
  scratch : Tab Byte
  scrBad  : Tab Nat                 -- keyed by 8-byte word: 1 correctable, 2 uncorrectable (R158)
  turn    : Bool                    -- the turn bit of R45, one per tile (log 98): false = the own Ladle
  -- matrix engine
  gang    : Nat
  wAct    : Tab (BitVec 16)         -- active weights, keyed by quarter · 4096 + row · 64 + column
  wPend   : Tab (BitVec 16)
  wPendOn : BitVec 4                -- quarters with a weight-load set no pass has taken (R36)
  wValid  : BitVec 4                -- quarters whose weights are valid (R35)
  acc     : Tab (BitVec 56)         -- keyed by (2 · quarter + set) · 4096 + token · 64 + column
  accOpen : Tab Nat                 -- output tiles in progress on a set, keyed by 2 · quarter + set
  fill    : BitVec 4                -- filling-set pointers (R93)
  openTile : Tab (Option (Nat × Nat))  -- T_COUNT and N_COLS of a gang's open output tile, keyed by QSEL
  passes  : List PassRec
  drains  : List DrainJob
  targets : Tab (List (Nat × Nat))  -- the four drain-target queues (R98)
  drainBaseLocal : Tab Word         -- the local port's copy of RENNET_DRAINg_BASE
  streams : Tab (Option Stream)
  arr     : MxArray
  now     : Now
  -- Rennet
  expanding : Tab (Option DWord)    -- the seed whose expansion runs, keyed by slot
  patterns : Tab (BitVec 256)       -- bit q = 1 stands for sgn[q] = −1
  patBad  : BitVec 16               -- the stored pattern's parity is wrong
  gens    : Tab DWord               -- the generators of the four output stages (R80)
  reseed  : BitVec 4                -- quarters that still have to take a written RENNET_SR_SEED
  -- queues and synchronisation
  queues  : Tab (List QEntry)       -- keyed by engine 0, 1, 3
  holdW   : Tab Word                -- holding words: path · 32 + engine · 8 + word (path 0 local, 1 BAR0)
  waits   : Tab (Option Wait)       -- keyed by engine
  -- scalar core
  xr      : Tab Word
  pc      : Word
  sbuf    : List BufStore
  stall   : Option Stall
  fresh   : Bool                    -- the core has yet to start at LADLE_SC_PC (R111)
  -- vector unit
  vr      : Tab Word                -- keyed by register · 64 + lane
  -- Ladle and Pail
  issuing : Option LadleRun
  txns    : List Txn
  txnNext : Nat
  inScr   : List ScrIn              -- writes of other tiles' Ladles that wait for their bank, in arrival order (R45)
  scrAcks : List (Nat × Nat)        -- source tile and transaction of those written whose acknowledgement is to leave
  cache   : Tab (Option CacheLine)  -- keyed by way · 4096 + set
  stamp   : Nat                     -- the order in which cache lines were used
  fills   : List Fill
  sliceQ  : List PailReq
  pailBad : Tab Nat                 -- keyed by 8-byte word of the slice
  invStart : Nat                    -- the mesh cycle in which INV_ALL was written (R157)
  col     : Column
  -- Churn and Skimmer
  churn   : Option Job
  skim    : Option SkimJob
  skimGen : DWord
  skimReseed : Bool
  -- cap, thermal and telemetry
  railSamples : List (Nat × Nat)    -- current and voltage of the last samples of the rail window
  tripSeen : Bool                   -- a first reading at or above a die trip limit (R386)
  vatTripSeen : List Bool           -- the same per Vat layer
  layerTemps : List Nat
  runGrant : Nat                    -- the grant N of the 64-cycle run that goes on (R371)
  slots   : Nat                     -- issue slots granted since start-up (Table 16.4)
  gated   : Nat                     -- activation sub-slots gated since start-up
  deriving DecidableEq, Repr

/-- The constant of R80. -/
def srConst : DWord := 0x9E3779B97F4A7C15

/-- The state that a seed gives a generator of index n: seed + n · constant, a zero result replaced (R80, R219). -/
def genSeed (seed : DWord) (n : Nat) : DWord :=
  let v := seed + srConst * BitVec.ofNat 64 n
  if v = 0 then srConst else v

/-- Defaults of a tile's tables. -/
def tileRegD : Nat → Word := fun o => if 0x900 ≤ o ∧ o < 0x910 then regReset railRegs o else regReset tileRegs o
def latchD : Nat → Option Word := fun _ => none
def byteD : Nat → Byte := fun _ => 0
def natD : Nat → Nat := fun _ => 0
def w16D : Nat → BitVec 16 := fun _ => 0
def accD : Nat → BitVec 56 := fun _ => 0
def openTileD : Nat → Option (Nat × Nat) := fun _ => none
def targetsD : Nat → List (Nat × Nat) := fun _ => []
def wordD : Nat → Word := fun _ => 0
def streamD : Nat → Option Stream := fun _ => none
def linkD : Nat → List LinkEntry := fun _ => []
def actD : Nat → Option LinkEntry := fun _ => none
def partSumD : Nat → Option PartSum := fun _ => none
def outD : Nat → Option SumEntry := fun _ => none
def colD : Nat → List SumEntry := fun _ => []
def cycleD : Nat → Option Nat := fun _ => none
def linesD : Nat → List Nat := fun _ => []
def lostD : Nat → Nat × Nat := fun _ => (0, 0)
def expandD : Nat → Option DWord := fun _ => none
/-- The sign pattern of a slot whose seed was never expanded: no rule gives one; all signs +1 (DESIGN CHOICE, log 74). -/
def patternD : Nat → BitVec 256 := fun _ => 0
def genD : Nat → DWord := fun q => genSeed 0 (q + 1)
def queueD : Nat → List QEntry := fun _ => []
def waitD : Nat → Option Wait := fun _ => none
def cacheD : Nat → Option CacheLine := fun _ => none
def errD : Nat → SectorErr := fun _ => .clean

/-- A tile at reset (R17, R25, R35, R45, R80, R93, R95; log 1). -/
def Tile.reset : Tile :=
  { regs := [], latch := [], scratch := [], scrBad := [], turn := false,
    gang := 0, wAct := [], wPend := [], wPendOn := 0, wValid := 0, acc := [], accOpen := [], fill := 0,
    openTile := [], passes := [], drains := [], targets := [], drainBaseLocal := [], streams := [], arr := .reset, now := .quiet,
    expanding := [], patterns := [], patBad := 0, gens := [], reseed := 0,
    queues := [], holdW := [], waits := [],
    xr := [], pc := 0, sbuf := [], stall := none, fresh := true, vr := [],
    issuing := none, txns := [], txnNext := 0, inScr := [], scrAcks := [], cache := [], stamp := 0, fills := [], sliceQ := [], pailBad := [], invStart := 0,
    col := .reset, churn := none, skim := none, skimGen := genSeed 0 5, skimReseed := false,
    railSamples := [], tripSeen := false, vatTripSeen := [], layerTemps := [], runGrant := 0, slots := 0, gated := 0 }

/-- A register of a tile. -/
def Tile.reg (t : Tile) (o : Nat) : Word := tabGet tileRegD t.regs o

/-- A tile with a register set. -/
def Tile.setReg (t : Tile) (o : Nat) (v : Word) : Tile := { t with regs := tabSet tileRegD t.regs o v }

/-- A field of a tile register. -/
def Tile.f (t : Tile) (o hi lo : Nat) : Nat := fld (t.reg o) hi lo

/-- A tile with a register field set. -/
def Tile.setF (t : Tile) (o hi lo v : Nat) : Tile := t.setReg o (setFld (t.reg o) hi lo v)

/-- A 64-bit value in two consecutive registers (R6). -/
def Tile.reg64 (t : Tile) (o : Nat) : DWord := BitVec.ofNat 64 ((t.reg o).toNat + 2 ^ 32 * (t.reg (o + 4)).toNat)

/-- A tile with a 64-bit register pair set. -/
def Tile.setReg64 (t : Tile) (o : Nat) (v : Nat) : Tile :=
  (t.setReg o (BitVec.ofNat 32 v)).setReg (o + 4) (BitVec.ofNat 32 (v / 2 ^ 32))

/-- A saturating 16- or 32-bit counter field of a tile register (R159). -/
def Tile.count (t : Tile) (o hi lo n : Nat) : Tile := t.setF o hi lo (satAdd (2 ^ (hi + 1 - lo) - 1) (t.f o hi lo) n)

end Sys2Proof.Machine
end

