-- ==== Sys2Proof/Machine/Flags.lean ====
section
/-!
DEFINITION. Machine/Flags.lean: the flags, counters and first-event record of a tile's Rennet (R81 to R83, R91), the
fault record of a tile (R109), and the ECC counts of its scratch (R158).
-/

namespace Sys2Proof.Machine

/-- An event of the Rennet or of the array's arithmetic: when it arises within its command, in which quarter and
stage, its bit number in RENNET_FLAGS, and how many. Kind 9 is an ACC56 addition that overflowed natively, which
sets no flag (R91). -/
structure RnEvt where
  time    : Nat
  quarter : Nat
  stage   : Nat
  evt     : Nat
  n       : Nat
  deriving DecidableEq, Repr

/-- The order of R82 among first events: the earliest, then the lowest quarter, stage and event. -/
def RnEvt.before (a b : RnEvt) : Bool :=
  decide (a.time < b.time) || (decide (a.time = b.time) &&
    (decide (a.quarter < b.quarter) || (decide (a.quarter = b.quarter) &&
      (decide (a.stage < b.stage) || (decide (a.stage = b.stage) && decide (a.evt < b.evt))))))

/-- Put an event, with the command count it belongs to, into a list ordered as R82 orders first events. -/
def insertEvt (e : Nat × RnEvt) : List (Nat × RnEvt) → List (Nat × RnEvt)
  | [] => [e]
  | f :: l => if e.2.before f.2 then e :: f :: l else f :: insertEvt e l

/-- Events in the order of R82. -/
def sortEvts (l : List (Nat × RnEvt)) : List (Nat × RnEvt) := l.foldl (fun a e => insertEvt e a) []

/-- How many events of a kind a list holds. -/
def evtSum (k : Nat) (l : List RnEvt) : Nat := (l.map (fun e => if e.evt = k then e.n else 0)).sum

/-- The counter of each flag (Table 2.9); NONFIN_IN and NONFIN_OUT share one. -/
def evtCounters (l : List RnEvt) : List (Nat × Nat) :=
  [(Reg.rennetSatCnt, evtSum 1 l), (Reg.rennetOvfCnt, evtSum 2 l), (Reg.rennetNonfinCnt, evtSum 3 l + evtSum 4 l),
   (Reg.rennetSubCnt, evtSum 0 l), (Reg.rennetAlignCnt, evtSum 5 l), (Reg.rennetNoncanonCnt, evtSum 6 l),
   (Reg.rennetAccOvfCnt, evtSum 9 l)]

/-- One counter counts n events and stops at 0xFFFF_FFFF, setting CNT_SAT (R81). -/
def Tile.rnCount (t : Tile) (o n : Nat) : Tile :=
  if n = 0 then t else
  let v := satAdd 0xFFFFFFFF (t.reg o).toNat n
  let t := t.setReg o (BitVec.ofNat 32 v)
  if v = 0xFFFFFFFF then t.setF Reg.rennetFlags 8 8 1 else t

/-- RENNET_FIRST at the first event (R82). -/
def Tile.recordFirst (t : Tile) (seq : Nat) (e : RnEvt) : Tile :=
  t.setReg Reg.rennetFirst (BitVec.ofNat 32 (e.evt + 16 * e.quarter + 64 * e.stage + 256 * (seq % 2 ^ 24)))

/-- One event acts on its counter, its flag, RECIPE, and RENNET_FIRST when the flags were all zero (R81 to R83). An
addition that overflowed natively sets a flag only where its counter stops (CNT_SAT). -/
def Tile.rnEvent (t : Tile) (seq : Nat) (e : RnEvt) : Tile :=
  if e.n = 0 then t else
  let old := t.reg Reg.rennetFlags
  let t := (evtCounters [e]).foldl (fun t c => t.rnCount c.1 c.2) t
  let t := if e.evt ≤ 6 then t.setF Reg.rennetFlags e.evt e.evt 1 else t
  let newly := decide (e.evt ≤ 6) && !bit old e.evt && bit (t.reg Reg.rennetRecipeEn) e.evt
  let thr := (t.reg Reg.rennetSatThr).toNat
  let reached := e.evt == 1 && decide (thr ≠ 0) && decide (thr ≤ (t.reg Reg.rennetSatCnt).toNat)
  let t := if newly || reached then t.setF Reg.rennetFlags 7 7 1 else t
  if old = 0 ∧ t.reg Reg.rennetFlags ≠ 0 then t.recordFirst seq (if e.evt ≤ 6 then e else { e with evt := 8 }) else t

/-- Events, each with the command count it belongs to, act in the order of R82. -/
def Tile.rnEventsBy (t : Tile) (l : List (Nat × RnEvt)) : Tile :=
  (sortEvts l).foldl (fun t e => t.rnEvent e.1 e.2) t

/-- The events of one command. `seq` is the command count that they belong to. -/
def Tile.rnEvents (t : Tile) (seq : Nat) (l : List RnEvt) : Tile := t.rnEventsBy (l.map (fun e => (seq, e)))

/-- Clear bits of RENNET_FLAGS; RENNET_FIRST clears when the flags return to all zero (R82). -/
def Tile.clearFlags (t : Tile) (mask : Nat) : Tile :=
  let v := t.reg Reg.rennetFlags &&& ~~~(BitVec.ofNat 32 mask)
  let t := t.setReg Reg.rennetFlags v
  if v = 0 then t.setReg Reg.rennetFirst 0 else t

/-- The fault record (R109): the first fault is recorded, a further one sets MULTI; an engine that stops sets its
bit in STOPPED. Sources without an engine (ENGINE 4 to 7) stop none. `seq` is 0 but for engines 0, 1 and 3. The
cycle is marked: a clear in it has no effect (R110). -/
def Tile.recordFault (t : Tile) (code engine seq : Nat) : Tile :=
  let t : Tile := { t with now := { t.now with fault := true } }
  let t := if engine < 4 then t.setF Reg.ladleFault (20 + engine) (20 + engine) 1 else t
  if t.f Reg.ladleFault 31 31 = 1 then t.setF Reg.ladleFault 24 24 1
  else
    (((t.setF Reg.ladleFault 15 0 code).setF Reg.ladleFault 18 16 engine).setF Reg.ladleFault 31 31 1).setReg
      Reg.ladleFaultSeq (BitVec.ofNat 32 seq)

/-- Is an engine stopped by a fault? -/
def Tile.stopped (t : Tile) (e : Nat) : Bool := t.f Reg.ladleFault (20 + e) (20 + e) == 1

/-- Does an engine take a further command: its STOP bit clear and no fault (R109, Table 4.10)? -/
def Tile.runs (t : Tile) (e : Nat) : Bool := t.f Reg.ladleQctl e e == 0 && !t.stopped e

/-! ### Scratch and its ECC (R111, R158) -/

/-- The scratch holds 640 KiB. -/
def scratchSize : Nat := 0xA0000

/-- A byte of scratch. -/
def Tile.rd8 (t : Tile) (a : Nat) : Nat := (tabGet byteD t.scratch a).toNat

/-- A 32-bit little-endian word of scratch (R452). -/
def Tile.rd32 (t : Tile) (a : Nat) : Nat :=
  t.rd8 a + 2 ^ 8 * t.rd8 (a + 1) + 2 ^ 16 * t.rd8 (a + 2) + 2 ^ 24 * t.rd8 (a + 3)

/-- Bytes a to a + n − 1 of scratch. -/
def Tile.rdBytes (t : Tile) (a : Nat) : Nat → List Byte
  | 0 => []
  | n + 1 => tabGet byteD t.scratch a :: t.rdBytes (a + 1) n

/-- How many standing bad words of a kind a list of accesses (address, length) meets. -/
def badHits (bad : Tab Nat) (kind : Nat) (rs : List (Nat × Nat)) : Nat :=
  (bad.map (fun p => if p.2 = kind then (rs.filter (fun r => overlaps (8 * p.1) 8 r.1 r.2)).length else 0)).sum

/-- Count what the ECC meets in a list of scratch reads; the flag says that a word was uncorrectable. -/
def Tile.scrReads (t : Tile) (rs : List (Nat × Nat)) : Tile × Bool :=
  let u := badHits t.scrBad 2 rs
  ((t.count Reg.ladleScrEcc 15 0 (badHits t.scrBad 1 rs)).count Reg.ladleScrEcc 31 16 u, decide (0 < u))

/-- Does a write of n bytes at a cover all of an 8-byte word? -/
def coversWord (a n w : Nat) : Bool := decide (a ≤ 8 * w) && decide (8 * w + 8 ≤ a + n)

/-- Write bytes one by one, leaving out those whose word refuses a narrow write. -/
def putBytes (keep : Nat → Bool) : Tab Byte → Nat → List Byte → Tab Byte
  | m, _, [] => m
  | m, a, b :: l => putBytes keep (if keep a then m else tabSet byteD m a b) (a + 1) l

/-- A write to scratch (R158): a word wholly covered is clean afterwards; a narrow write corrects a correctable word
and leaves an uncorrectable word as it is, counting it. A running Churn or Skimmer job notes the write (R192, R221). -/
def Tile.wrBytes (t : Tile) (a : Nat) (bs : List Byte) : Tile :=
  let n := bs.length
  let hit := t.scrBad.filter (fun p => overlaps (8 * p.1) 8 a n)
  let narrow := hit.filter (fun p => !coversWord a n p.1)
  let keep := fun x => narrow.any (fun p => p.1 == x / 8 && p.2 == 2)
  let t := (t.count Reg.ladleScrEcc 15 0 (narrow.filter (fun p => p.2 == 1)).length).count Reg.ladleScrEcc 31 16
    (narrow.filter (fun p => p.2 == 2)).length
  { t with
    churn := t.churn.map (fun j => { j with wrote := j.wrote ++ [(a, n)] })
    skim := t.skim.map (fun j => { j with wrote := j.wrote ++ [(a, n)] })
    scratch := putBytes keep t.scratch a bs
    scrBad := t.scrBad.filter (fun p => !(overlaps (8 * p.1) 8 a n) || (p.2 == 2 && !coversWord a n p.1)) }

/-- Write an n-byte little-endian value. -/
def Tile.wrVal (t : Tile) (a n v : Nat) : Tile := t.wrBytes a (bytesOf n v)

end Sys2Proof.Machine
end

