-- ==== Sys2Proof/Machine/Banks.lean ====
section
/-!
DEFINITION. Machine/Banks.lean: the banks of tile scratch and who wins them (R19, R44, R45).
-/

namespace Sys2Proof.Machine

/-- Requesters of a scratch bank, in the order of R45: 1 feeders and weight loader, 2 drains and pack path, 3 the own
Ladle, 4 the Ladles of other tiles (3 and 4 take turns), 5 the vector unit, 6 the Skimmer, 7 the scalar core. -/
abbrev Rank := Nat

/-- The 64-byte line of a byte, and the bank of a line: ADDR[9:6] (R44). -/
def lineOf (a : Nat) : Nat := a / 64
def bankOf (line : Nat) : Nat := line % 16

/-- The lines that a list of byte ranges (address, length) touches. -/
def linesOf (rs : List (Nat × Nat)) : List Nat :=
  (rs.flatMap (fun r => if r.2 = 0 then [] else
    (List.range (lineOf (r.1 + r.2 - 1) + 1 - lineOf r.1)).map (· + lineOf r.1))).dedup

/-- Cycles in a row that a requester has lost a bank, up to the cycle before `cyc` or to `cyc` itself. -/
def Now.lostRow (w : Now) (cyc rank bank : Nat) : Nat :=
  let l := tabGet lostD w.lost (rank * 16 + bank)
  if l.1 ≠ 0 ∧ cycDiff cyc l.2 ≤ 1 then l.1 else 0

/-- The requester to whom the 16-cycle rule owes a bank in this cycle: the highest that has lost it in each of the 16
cycles before (R44, R45). -/
def Now.owed (w : Now) (cyc bank : Nat) : Option Rank :=
  [2, 3, 4, 5, 6, 7].find? (fun r =>
    let l := tabGet lostD w.lost (r * 16 + bank)
    decide (16 ≤ l.1) && cycDiff cyc l.2 == 1)

/-- A feeder or the weight loader asks for a line: it shares a line that the bank already serves to another of them, and
takes a bank that is free and owed to no one (R44). -/
def Now.claim (w : Now) (cyc line : Nat) : Option Now :=
  let b := bankOf line
  if tabGet natD w.line b = line + 1 then some w
  else if tabGet natD w.line b ≠ 0 ∨ (w.owed cyc b).isSome then none
  else some { w with line := tabSet natD w.line b (line + 1) }

/-- Does the turn of R45 keep the side of rank 3 or 4 waiting: the other side waits for the bank and holds the turn?
`turn` false is the own Ladle's turn. -/
def Now.turnHolds (w : Now) (cyc : Nat) (turn : Bool) (rank bank : Nat) : Bool :=
  (rank == 3 && turn && decide (0 < w.lostRow cyc 4 bank)) || (rank == 4 && !turn && decide (0 < w.lostRow cyc 3 bank))

/-- May a requester below the feeders have a bank in this cycle: it is free, owed to no other, and its side's turn? -/
def Now.free (w : Now) (cyc : Nat) (turn : Bool) (rank bank : Nat) : Bool :=
  tabGet natD w.line bank == 0 && ((w.owed cyc bank).isNone || w.owed cyc bank == some rank) &&
  !w.turnHolds cyc turn rank bank

/-- A requester wins its lines. -/
def Now.win (w : Now) (rank : Rank) (lines : List Nat) : Now :=
  { w with
    line := lines.foldl (fun m l => tabSet natD m (bankOf l) (l + 1)) w.line
    lost := lines.foldl (fun m l => tabSet lostD m (rank * 16 + bankOf l) (0, 0)) w.lost }

/-- A requester loses a bank, once in a cycle. -/
def Now.lose (w : Now) (cyc : Nat) (rank : Rank) (bank : Nat) : Now :=
  let l := tabGet lostD w.lost (rank * 16 + bank)
  let n := if l.1 = 0 then 1 else if cycDiff cyc l.2 = 0 then l.1 else if cycDiff cyc l.2 = 1 then l.1 + 1 else 1
  { w with lost := tabSet lostD w.lost (rank * 16 + bank) (n, cyc) }

/-- Do the banks of a list of byte ranges serve a requester in this cycle? -/
def Tile.banksFree (x : Tile) (cyc : Nat) (rank : Rank) (rs : List (Nat × Nat)) : Bool :=
  (linesOf rs).all (fun l => x.now.free cyc x.turn rank (bankOf l))

/-- The tile after a requester has won the lines of its ranges: after a Ladle's win the turn passes to the other side
(R45). -/
def Tile.wonBanks (x : Tile) (rank : Rank) (rs : List (Nat × Nat)) : Tile :=
  if rs = [] then x else
  { x with
    now := x.now.win rank (linesOf rs)
    turn := if rank = 3 then true else if rank = 4 then false else x.turn }

/-- The tile after a requester has lost: every bank it did not get counts. -/
def Tile.lostBanks (x : Tile) (cyc : Nat) (rank : Rank) (rs : List (Nat × Nat)) : Tile :=
  let lost := (linesOf rs).filter (fun l => !x.now.free cyc x.turn rank (bankOf l))
  { x with now := lost.foldl (fun w l => w.lose cyc rank (bankOf l)) x.now }

/-- An access to scratch at one rank: made in this cycle if all its banks are free for it, and else lost, with no other
effect. An access of several lines is one step, in the cycle in which its last line is served (log 62). -/
def Tile.onBanks (x : Tile) (cyc : Nat) (rank : Rank) (rs : List (Nat × Nat)) (f : Tile → Tile) : Tile :=
  if x.banksFree cyc rank rs then f (x.wonBanks rank rs) else x.lostBanks cyc rank rs

/-- The oldest write of another tile's Ladle reaches its bank (R45, R123): it is then to be acknowledged (R162). -/
def Tile.takeIn (x : Tile) (cyc : Nat) : Tile :=
  match x.inScr with
  | [] => x
  | w :: l => x.onBanks cyc 4 [(w.addr, w.bytes.length)] (fun x =>
      { x.wrBytes w.addr w.bytes with inScr := l, scrAcks := x.scrAcks ++ [(w.src, w.txn)] })

/-- An access of a unit to scratch. Before one that ranks below the Ladles, a write of another tile's Ladle that waits takes
its turn (R45). -/
def Tile.served (x : Tile) (cyc : Nat) (rank : Rank) (rs : List (Nat × Nat)) (f : Tile → Tile) : Tile :=
  (if rank < 5 then x else x.takeIn cyc).onBanks cyc rank rs f

/-- An access that a unit makes at two ranks at once: it is made if both have their banks. -/
def Tile.servedBoth (x : Tile) (cyc : Nat) (r1 r2 : Rank) (rs1 rs2 : List (Nat × Nat)) (f : Tile → Tile) : Tile :=
  let x := x.takeIn cyc
  if x.banksFree cyc r1 rs1 && x.banksFree cyc r2 rs2 then f ((x.wonBanks r1 rs1).wonBanks r2 rs2)
  else (x.lostBanks cyc r1 rs1).lostBanks cyc r2 rs2

end Sys2Proof.Machine
end

