-- ==== Sys2Proof/Config.lean ====
section
/-!
DEFINITION. Config.lean: what the spec leaves to the device or does not state. Each constant is OPAQUE: it has no body
that a proof could see, so a statement that mentions one holds whatever its value is. The log entry named beside each
says what is left open.
-/

namespace Sys2Proof.Config

open Sys2Proof.Machine

/-- The product of two infinities of the given signs in a cell: R64 states none (log 10). -/
opaque infTimesInf : Bool → Bool → XNum

/-- Which of the values that R120 allows MAX or MIN takes of two lanes of which one is NaN, or which are zeros of unlike
sign: the position in a list of them (log 11). -/
opaque vecExtremePick : Bool → Word → Word → Nat

/-- A bit error that appears in an SRAM in a mesh cycle, by draw: the tile, the array (0 scratch, 1 the Pail slice, 2 a
cached line), the 8-byte word (of a line: its way and set · 8 + word), and whether it can still be corrected (1) or not
(2) (R158; log 70). -/
opaque sramUpset : Nat → Option (Nat × Nat × Nat × Nat)

/-- The bits above the last element of a row of 2-bit or 4-bit elements that ends within a byte, by scratch address and
element position: R53 and R96 state none (log 13). -/
opaque rowPad : Nat → Nat → Nat

/-- A byte that a feeder or the weight loader reads from an uncorrectable word of scratch, by cycle and address: R158
states none (log 61). -/
opaque scrUnread : Nat → Nat → Byte

/-- A free value: the draw's number (the state's `freeCount`) and a position within what the draw fills (log 14). -/
opaque freeValue : Nat → Nat → Nat

/-- The order in which the Churn adds a list of binary32 values, which the spec leaves to the device (R195; log 15): of a
sum of n values of which k partial sums are left, the positions of the two that are added next. -/
opaque churnOrder : Nat → Nat → Nat × Nat

/-- s^(−1/p) in binary32 for a positive finite s, as the Churn forms it: R198 gives no rounding for it (log 15). -/
opaque churnInvRoot : Nat → Word → Word

/-- Which of the free fabric tags a transaction takes (R246; log 19). -/
opaque tagPick : Nat → Nat

/-- The die identity fused at manufacture (R236; log 22). -/
opaque dieId : DWord

/-- How a backoff is drawn from a state of the fabric's generator (R236; log 23). -/
opaque backoffDraw : DWord → Nat

/-- Whether a NaN of a TOPK block ranks above an infinity (R216; log 37). -/
opaque skimNanFirst : Bool

/-- The scale code of a Skimmer block of which R217 and R218 give none, by the block's values (log 37). -/
opaque skimScale : List Word → Nat

/-- The bytes over which the tag of a collective signature, and of an abort notice, is formed: no table lays out the
fields that R342 tags (log 39). -/
opaque sigBytes : Signature → List Byte
opaque noticeBytes : List Nat → List Byte

/-- Byte i of the body of a link-control message, and of a heartbeat, and the bits of a routing header that hold a detour's
direction and its surplus: no table lays them out (R228, R251, R252; log 79). -/
opaque ctrlByte : CtrlMsg → Nat → Byte
opaque heartbeatByte : Heartbeat → Nat → Byte
opaque surplusBits : Bool → Bool → Nat

/-- The severity of a log record whose rule gives none (R326; log 17). -/
opaque logSeverity : Nat → Nat

/-- The source of the records of CZ_ERR_MB_VERSION and CZ_ERR_MB_OVERRUN (R308, R312; log 17). -/
opaque mailboxSource : Nat → Nat

/-- How a trace point packs the values that Table 11.8 names into its argument (R328; log 18). -/
opaque traceArg : Nat → List Nat → Nat

/-- The fused trim voltage of a tile in mV, for 0.30, 0.95 and 1.25 GHz (R357; log 45). -/
opaque trimMv : Nat → Nat → Nat

/-- R_base of a rail in µΩ, learned at final test (R368; log 45). -/
opaque railBase : Nat → Nat

/-- The die's revision, its ROM's version and the JEDEC manufacturer identity (R422, R318, R432; log 45). -/
opaque dieRevision : Nat
opaque romVersion : Nat
opaque jedecId : Nat

/-- The fused hash of key slot k, whether the slot is revoked, and the installation key-encryption key (R302, R303, R341;
log 45). -/
opaque keyFuse : Nat → List Byte
opaque keyRevoked : Nat → Bool
opaque kek : List Byte

/-- Whether NV_READ knows a record kind and index; the spec gives kind 3 only (R318, R391; log 52). -/
opaque nvKnown : Nat → Nat → Bool

/-- The code of the log record of a function-level reset of a virtual function, which R333 does not name (log 53). -/
opaque flrCode : Nat

/-- A byte of a sector with four or more symbols in error, when the decoder miscorrects it: by the sector's stored bytes,
its errors, and the byte's position (R145; log 12). -/
opaque miscorrect : List Byte → List (Nat × Byte) → Nat → Byte

/-- Whether the decoder reports such a sector as uncorrectable (R145; log 12). -/
opaque miscorrectDetected : List Byte → List (Nat × Byte) → Bool

end Sys2Proof.Config
end

