-- ==== Sys2Proof/Machine/Operands.lean ====
section
/-!
DEFINITION. Machine/Operands.lean: the operand forms of the matrix engine: gang shapes (Table 1.2, Table 1.3), the
fields of a matrix command (Table 1.5) and of its CVT word (Table 2.6), the walk (R48, R49), the scale addresses
(Table 2.5), and how the two edges widen an operand (R46, R55, R62, R70).
-/

namespace Sys2Proof.Machine

/-- Word i of a queue entry. -/
def ew (e : QEntry) (i : Nat) : Word := e.getD i 0

/-- A field of a word of a queue entry. -/
def ef (e : QEntry) (i hi lo : Nat) : Nat := fld (ew e i) hi lo

/-- The opcode of a queue entry (R105). -/
def opc (e : QEntry) : Nat := ef e 0 7 0

/-! ### Gangs (R21 to R23, Table 1.2, Table 1.3) -/

/-- Rows and columns of a gang of a mode. -/
def gangRows (m : Nat) : Nat := if m = 1 ∨ m = 3 then 128 else 64
def gangCols (m : Nat) : Nat := if m = 2 ∨ m = 3 then 128 else 64

/-- How many gangs a mode has. -/
def gangCount (m : Nat) : Nat := if m = 0 then 4 else if m = 3 then 1 else 2

/-- The quarter that holds cell (i, j) of a gang. -/
def cellQuarter (m qsel i j : Nat) : Nat :=
  match m with
  | 0 => qsel
  | 1 => qsel + 2 * (i / 64)
  | 2 => 2 * qsel + j / 64
  | _ => 2 * (i / 64) + j / 64

/-- The quarters of a gang. -/
def gangQuarters (m qsel : Nat) : List Nat :=
  match m with
  | 0 => [qsel]
  | 1 => [qsel, qsel + 2]
  | 2 => [2 * qsel, 2 * qsel + 1]
  | _ => [0, 1, 2, 3]

/-- The column quarters of a gang, left to right: those whose column links Table 1.2 marks used. -/
def columnQuarters (m qsel : Nat) : List Nat :=
  match m with
  | 0 => [qsel]
  | 1 => [qsel + 2]
  | 2 => [2 * qsel, 2 * qsel + 1]
  | _ => [2, 3]

/-- The column quarter of column j. -/
def colQuarter (m qsel j : Nat) : Nat := cellQuarter m qsel (gangRows m - 1) j

/-- Weights per cell of a weight format (Table 1.3). -/
def perCell (wfmt : Nat) : Nat := if wfmt = 0 ∨ wfmt = 1 then 4 else if wfmt = 2 ∨ wfmt = 3 then 2 else 1

/-- Key of a cell's weight register. -/
def cellKey (m qsel i j : Nat) : Nat := cellQuarter m qsel i j * 4096 + (i % 64) * 64 + j % 64

/-! ### The matrix command (R31, Table 1.5) -/

def mxGang (e : QEntry) : Nat := ef e 0 9 8
def mxQsel (e : QEntry) : Nat := ef e 0 11 10
def mxWfmt (e : QEntry) : Nat := ef e 0 15 12
def mxAfmt (e : QEntry) : Nat := ef e 0 19 16
def mxWsign (e : QEntry) : Bool := bit (ew e 0) 20
def mxAsign (e : QEntry) : Bool := bit (ew e 0) 21
def mxFirst (e : QEntry) : Bool := bit (ew e 0) 22
def mxLast (e : QEntry) : Bool := bit (ew e 0) 23
def mxWload (e : QEntry) : Bool := bit (ew e 0) 24
def mxConv (e : QEntry) : Bool := bit (ew e 0) 25
def mxT (e : QEntry) : Nat := ef e 1 15 0
def mxK (e : QEntry) : Nat := ef e 1 23 16
def mxN (e : QEntry) : Nat := ef e 1 31 24
def mxAAddr (e : QEntry) : Nat := ef e 2 19 0
def mxAPitch (e : QEntry) : Nat := ef e 3 19 0
def mxWAddr (e : QEntry) : Nat := ef e 4 19 0
def mxWPitch (e : QEntry) : Nat := ef e 5 19 0
def mxCvt (e : QEntry) : Word := ew e 6
def mxWalk (e : QEntry) : Nat := ef e 7 19 0

/-! ### The CVT word (R67, Table 2.6) -/

def cvOfmt (c : Word) : Nat := fld c 3 0
def cvOsign (c : Word) : Bool := bit c 4
def cvOscale (c : Word) : Bool := bit c 5
def cvRot (c : Word) : Nat := fld c 7 6
def cvInv (c : Word) : Bool := bit c 8
def cvSeed (c : Word) : Nat := fld c 12 9
def cvRnd (c : Word) : Nat := fld c 14 13
def cvFlush (c : Word) : Bool := bit c 15
def cvAscale (c : Word) : Bool := bit c 16
def cvWscale (c : Word) : Bool := bit c 17
def cvSdesc (c : Word) : Nat := fld c 31 18 * 64

/-- The block size of a ROT code. -/
def rotBlock (r : Nat) : Nat := if r = 1 then 64 else if r = 2 then 128 else 256

/-! ### The walk (R48, R49, Table 1.11) -/

/-- A walk descriptor. -/
structure Walk where
  inH : Nat
  inW : Nat
  sy  : Nat
  sx  : Nat
  outH : Nat
  outW : Nat
  dy  : Nat
  dx  : Nat
  kh  : Nat
  kw  : Nat
  padT : Nat
  padL : Nat
  ch  : Nat
  k0  : Nat
  cPitch : Nat
  rPitch : Nat
  tok0 : Nat
  reserved : Bool
  deriving DecidableEq, Repr

/-- The eight words of a descriptor at a scratch address (R452). -/
def descWords (t : Tile) (a : Nat) : List Word := (List.range 8).map (fun i => BitVec.ofNat 32 (t.rd32 (a + 4 * i)))

/-- The walk descriptor that eight words spell. -/
def walkOf (l : List Word) : Walk :=
  let w := fun i => l.getD i 0
  { inH := fld (w 0) 11 0, inW := fld (w 0) 23 12, sy := fld (w 0) 27 24, sx := fld (w 0) 31 28,
    outH := fld (w 1) 11 0, outW := fld (w 1) 23 12, dy := fld (w 1) 27 24, dx := fld (w 1) 31 28,
    kh := fld (w 2) 3 0, kw := fld (w 2) 7 4, padT := fld (w 2) 11 8, padL := fld (w 2) 15 12,
    ch := fld (w 2) 27 16, k0 := fld (w 3) 19 0, cPitch := fld (w 4) 15 0, rPitch := fld (w 5) 19 0,
    tok0 := fld (w 6) 23 0,
    reserved := decide (fld (w 2) 31 28 ≠ 0 ∨ fld (w 3) 31 20 ≠ 0 ∨ fld (w 4) 31 16 ≠ 0 ∨ fld (w 5) 31 20 ≠ 0
      ∨ fld (w 6) 31 24 ≠ 0 ∨ w 7 ≠ 0) }

/-- The descriptor at a scratch address. -/
def walkAt (t : Tile) (a : Nat) : Walk := walkOf (descWords t a)

/-- Bytes of an activation: 2 for M16, else 1 (R33). -/
def actBytes (e : QEntry) : Nat := if mxAfmt e = 7 then 2 else 1

/-- The walk checks of R50. -/
def walkBad (e : QEntry) (d : Walk) : Bool :=
  d.inH == 0 || d.inW == 0 || d.sy == 0 || d.sx == 0 || d.outH == 0 || d.outW == 0 || d.dy == 0 || d.dx == 0 ||
  d.kh == 0 || d.kw == 0 || d.ch == 0 || decide (d.k0 % 32 ≠ 0) || decide (d.kh * d.kw * d.ch ≤ d.k0) ||
  decide (d.cPitch < d.ch * actBytes e) || decide (d.rPitch < d.inW * d.cPitch) ||
  decide (d.outH * d.outW < d.tok0 + mxT e) || d.reserved || decide (mxWalk e % 32 ≠ 0)

/-- Where the walk finds the operand of token t and K offset x of the pass: its pixel and channel, or padding
(R49). -/
def walkPos (d : Walk) (t x : Nat) : Option (Nat × Nat × Nat) :=
  let p := d.tok0 + t
  let oy := p / d.outW
  let ox := p % d.outW
  let kidx := d.k0 + x
  let c := kidx % d.ch
  let q := kidx / d.ch
  let iy : Int := (oy * d.sy : Nat) - (d.padT : Int) + ((q / d.kw) * d.dy : Nat)
  let ix : Int := (ox * d.sx : Nat) - (d.padL : Int) + ((q % d.kw) * d.dx : Nat)
  if d.kh * d.kw * d.ch ≤ kidx ∨ iy < 0 ∨ (d.inH : Int) ≤ iy ∨ ix < 0 ∨ (d.inW : Int) ≤ ix then none
  else some (iy.toNat, ix.toNat, c)

/-- The scratch address of the activation of token t, K offset x; none for padding (R33, R48). -/
def actAddr (e : QEntry) (d : Walk) (t x : Nat) : Option Nat :=
  if mxConv e then
    (walkPos d t x).map (fun (y, px, c) => mxAAddr e + y * d.rPitch + px * d.cPitch + c * actBytes e)
  else some (mxAAddr e + t * mxAPitch e + x * actBytes e)

/-! ### Scale descriptors (R60, Table 2.4, Table 2.5) -/

/-- The fields of a scale descriptor, and whether a reserved bit is set. -/
structure ScaleDesc where
  ascBase : Nat
  ascPitch : Nat
  wscBase : Nat
  wscPitch : Nat
  ascPix : Nat
  ascRow : Nat
  oscBase : Nat
  oscPitch : Nat
  reserved : Bool
  deriving DecidableEq, Repr

/-- The scale descriptor that eight words spell. -/
def scaleOf (l : List Word) : ScaleDesc :=
  let w := fun i => l.getD i 0
  { ascBase := fld (w 0) 19 0, ascPitch := fld (w 1) 19 0, wscBase := fld (w 2) 19 0, wscPitch := fld (w 3) 19 0,
    ascPix := fld (w 4) 15 0, ascRow := fld (w 5) 19 0, oscBase := fld (w 6) 19 0, oscPitch := fld (w 7) 19 0,
    reserved := decide (fld (w 0) 31 20 ≠ 0 ∨ fld (w 1) 31 20 ≠ 0 ∨ fld (w 2) 31 20 ≠ 0 ∨ fld (w 3) 31 20 ≠ 0 ∨
      fld (w 4) 31 16 ≠ 0 ∨ fld (w 5) 31 20 ≠ 0 ∨ fld (w 6) 31 20 ≠ 0 ∨ fld (w 7) 31 20 ≠ 0) }

/-- The scale descriptor at a scratch address. -/
def scaleAt (t : Tile) (a : Nat) : ScaleDesc := scaleOf (descWords t a)

/-- Does a matrix pass read its scale descriptor (R60)? -/
def mxReadsScale (e : QEntry) : Bool :=
  cvAscale (mxCvt e) || cvWscale (mxCvt e) || (cvOscale (mxCvt e) && mxLast e)

/-- The address of the activation scale of token t, segment g; none where the segment is padding (Table 2.5). -/
def ascAddr (e : QEntry) (d : Walk) (sd : ScaleDesc) (t g : Nat) : Option Nat :=
  if mxConv e then
    (walkPos d t (32 * g)).map (fun (y, px, c) => sd.ascBase + y * sd.ascRow + px * sd.ascPix + c / 32)
  else some (sd.ascBase + t * sd.ascPitch + g)

/-- The K extent of a pass and its segments (R23, R27). -/
def mxKx (e : QEntry) : Nat := mxK e * perCell (mxWfmt e)
def mxSegs (e : QEntry) : Nat := ceilDiv (mxKx e) 32

/-! ### Widening at the edges (R46, R55, R62, R70) -/

/-- A widened operand: its value, and the events its edge counts. -/
structure Widened where
  val      : XNum
  nonfin   : Bool
  noncanon : Bool
  deriving DecidableEq, Repr

/-- Widen a code of a format; FLUSH_SUB makes a subnormal a zero of its sign (R62). -/
def widen (f : Fmt) (signed flush : Bool) (c : Nat) : Widened :=
  let v := f.decode signed c
  { val := if flush && f.subnormal c then .fin v.sign 0 0 else v,
    nonfin := !v.isFinite,
    noncanon := decide (f = .t2) && decide (c = 2) }

/-- What the weight-load edge stores for a sub-slot: code 10 of T2 as 00, a flushed subnormal as a zero of its sign
(R55, R62). -/
def storedCode (f : Fmt) (flush : Bool) (c : Nat) : Nat :=
  if f = .t2 ∧ c = 2 then 0
  else if flush && f.subnormal c then (if (f.decode false c).sign then c - c % 2 ^ (f.bits - 1) else 0)
  else c

/-- Sub-slot u of a cell's 16-bit weight register (R28). -/
def subSlot (f : Fmt) (w u : Nat) : Nat := (w / 2 ^ (f.bits * u)) % 2 ^ f.bits

end Sys2Proof.Machine
end

