-- ==== Sys2Proof/Machine/Rennet.lean ====
section
/-!
DEFINITION. Machine/Rennet.lean: the sign pattern and the generators (R75, R80), the output stage of a quarter (R71
to R74, R77, R79, R451), and the seed and reseed events of a tile (R76, R80).
-/

namespace Sys2Proof.Machine

/-- One step of the generator of R75. -/
def xorshift (s : DWord) : DWord :=
  let s := s ^^^ (s <<< 13)
  let s := s ^^^ (s >>> 7)
  s ^^^ (s <<< 17)

/-- n further elements of a sign pattern, with the state after them; bit q = 1 stands for −1 (R75). -/
def patternFrom : Nat → DWord → List Bool
  | 0, _ => []
  | n + 1, s => let s := xorshift s; bit s 63 :: patternFrom n s

/-- Bits of a list, first element lowest. -/
def bitsNat : List Bool → Nat
  | [] => 0
  | b :: l => b2n b + 2 * bitsNat l

/-- The sign pattern of a seed (R75). -/
def signPattern (seed : DWord) : BitVec 256 :=
  BitVec.ofNat 256 (bitsNat (patternFrom 256 (if seed = 0 then srConst else seed)))

/-- An advance of an output stage's generator and its 16-bit draw (R80). -/
def draw (g : DWord) : DWord × Nat := let g := xorshift g; (g, fld g 63 48)

/-! ### Rotation (R74, R77, R451) -/

/-- Round to binary32 under FLUSH_SUB (R63, R451): the value, and the event kind it counts (0 a flush, 2 an
overflow). -/
def roundB32 (flush : Bool) (x : XNum) : XNum × List Nat :=
  match x with
  | .fin _ _ _ =>
    let (c, k) := Fmt.b32.narrow false flush .rne x
    (Fmt.b32.decode false c, match k with | .flushed => [0] | .ovf => [2] | _ => [])
  | x => (x, [])

/-- The parity of the population count of p and q. -/
def hadamardNeg (p q : Nat) : Bool := (List.range 8).foldl (fun b i => b != (p.testBit i && q.testBit i)) false

/-- The exact sum of R74 for output p: the signs of `sgn` stand before the transform, none when `pat` is none. -/
def rotSum (pat : Option (BitVec 256)) (p : Nat) : Nat → List XNum → XNum
  | _, [] => .zero
  | q, x :: xs =>
    let neg := hadamardNeg p q != (match pat with | some s => bit s q | none => false)
    (if neg then x.negate else x).add (rotSum pat p (q + 1) xs)

/-- A zero output is +0 (R74). -/
def posZero (x : XNum) : XNum := if x.isZero then .zero else x

/-- The factor c of R74, applied exactly. -/
def rotFactor (n : Nat) (x : XNum) : XNum :=
  if n = 64 then x.shift (-3) else if n = 256 then x.shift (-4)
  else (x.mulFin (b32Num 0x3F3504F3)).shift (-3)

/-- Event kinds at a moment of the output stage: 0 the rounding of step 1, 1 and 2 the roundings of step 2, 3 step 4
(R71, R451). -/
def atMoment (m : Nat) (ks : List Nat) : List (Nat × Nat) := ks.map (fun k => (m, k))

/-- Output p of a rotated block of finite values, with the events it counts. -/
def rotOut (flush inv : Bool) (pat : BitVec 256) (n p : Nat) (xs : List XNum) : XNum × List (Nat × Nat) :=
  let t := if inv then
      let t := rotSum none p 0 xs
      if bit pat p then t.negate else t
    else rotSum (some pat) p 0 xs
  let (y, e1) := roundB32 flush t
  match y with
  | .fin _ _ _ =>
    let (z, e2) := roundB32 flush (rotFactor n y)
    (posZero z, atMoment 1 e1 ++ atMoment 2 e2)
  | y => (y, atMoment 1 e1)

/-- A rotated block (R74); a block with a non-finite value becomes NaN throughout (R77). -/
def rotBlockVals (flush inv : Bool) (pat : BitVec 256) (n : Nat) (xs : List XNum) : List (XNum × List (Nat × Nat)) :=
  if xs.all XNum.isFinite then (List.range n).map (fun p => rotOut flush inv pat n p xs)
  else xs.map (fun _ => (.nan, []))

/-- Cut a list into pieces of n; `fuel` bounds the pieces. -/
def pieces {α : Type} (n : Nat) : Nat → List α → List (List α)
  | 0, _ => []
  | _, [] => []
  | fuel + 1, l => l.take n :: pieces n fuel (l.drop n)

/-- Steps 1 and 2 of R71 on a row, with the events of each element. -/
def rotRow (flush inv : Bool) (pat : BitVec 256) (n : Nat) (row : List XNum) : List (XNum × List (Nat × Nat)) :=
  let r1 := row.map (roundB32 flush)
  let r2 := ((pieces n row.length (r1.map Prod.fst)).map (rotBlockVals flush inv pat n)).flatten
  List.zipWith (fun a b => (b.1, atMoment 0 a.2 ++ b.2)) r1 r2

/-! ### Scale and narrowing (R72, R73) -/

/-- The scale s of a group of finite values (R72). -/
def groupScale (f : Fmt) (signed : Bool) (xs : List XNum) : Int :=
  let amax := xs.foldl (fun a x => if a.absLe x.abs then x.abs else a) XNum.zero
  match amax, f.maxFinite signed with
  | .fin _ m e, .fin _ mm me =>
    if m = 0 then 0 else
    let s0 : Int := ((log2 m : Int) + e) - ((log2 mm : Int) + me)
    let s := if (amax.shift (-s0)).absLe (f.maxFinite signed) then s0 else s0 + 1
    max (-127) (min 127 s)
  | _, _ => 0

/-- Narrow a list of values, drawing once per element when the rounding is stochastic (R79, R80). -/
def narrowList (f : Fmt) (signed flush : Bool) (rnd : Nat) : DWord → List XNum → List (Nat × Narrowed) × DWord
  | g, [] => ([], g)
  | g, x :: xs =>
    let (g', r) := if rnd = 1 then draw g else (g, 0)
    let mode := if rnd = 1 then Rnd.sr r else if rnd = 2 then Rnd.rz else Rnd.rne
    let y := f.narrow signed flush mode x
    let (ys, g'') := narrowList f signed flush rnd g' xs
    (y :: ys, g'')

/-- Advance a generator once for each of n elements (R80). -/
def advance (rnd : Nat) : Nat → DWord → DWord
  | 0, g => g
  | n + 1, g => advance rnd n (if rnd = 1 then (draw g).1 else g)

/-- Steps 3 and 4 on one group with OSCALE: the S8 code, the elements, and the generator (R72). -/
def scaleGroup (f : Fmt) (signed flush : Bool) (rnd : Nat) (g : DWord) (xs : List XNum) :
    Nat × List (Nat × Narrowed) × DWord :=
  if xs.all XNum.isFinite then
    let s := groupScale f signed xs
    let (ys, g) := narrowList f signed flush rnd g (xs.map (fun x => x.shift (-s)))
    ((s + 127).toNat, ys, g)
  else (255, xs.map (fun x => (0, if x.isFinite then Narrowed.ok else Narrowed.nonfin)), advance rnd xs.length g)

/-- The groups of a row one after the other. -/
def scaleGroups (f : Fmt) (signed flush : Bool) (rnd : Nat) : DWord → List (List XNum) →
    List Nat × List (Nat × Narrowed) × DWord
  | g, [] => ([], [], g)
  | g, xs :: rest =>
    let (s, ys, g) := scaleGroup f signed flush rnd g xs
    let (ss, zs, g) := scaleGroups f signed flush rnd g rest
    (s :: ss, ys ++ zs, g)

/-- The event kind of a narrowed element (Table 2.8, R63). -/
def narrowedEvt : Narrowed → Option Nat
  | .ok => none | .sat => some 1 | .ovf => some 2 | .nonfin => some 4 | .flushed => some 0

/-- What the output stage makes of the elements of a row that one quarter writes. -/
structure OutRow where
  codes  : List Nat
  scales : List Nat
  evts   : List Nat         -- event kinds, one entry per event
  gen    : DWord
  deriving DecidableEq, Repr

/-- Steps 3 and 4 of R71. -/
def narrowRow (f : Fmt) (cvt : Word) (gen : DWord) (xs : List XNum) : OutRow :=
  let (ss, ys, g) :=
    if cvOscale cvt then scaleGroups f (cvOsign cvt) (cvFlush cvt) (cvRnd cvt) gen (pieces 32 xs.length xs)
    else let (ys, g) := narrowList f (cvOsign cvt) (cvFlush cvt) (cvRnd cvt) gen xs; ([], ys, g)
  { codes := ys.map Prod.fst, scales := ss, evts := ys.filterMap (fun y => narrowedEvt y.2), gen := g }

/-- The events of one row, moment by moment, as events of a quarter and stage (R82). -/
def rowEvts (quarter stage : Nat) (ks : List (Nat × Nat)) : List RnEvt :=
  (List.range 4).flatMap (fun m => [0, 1, 2, 4].map (fun k => ⟨m, quarter, stage, k, (ks.filter (· == (m, k))).length⟩))

/-- A generator of the tile. -/
def Tile.gen (t : Tile) (q : Nat) : DWord := tabGet genD t.gens q

/-- A tile with a generator set. -/
def Tile.setGen (t : Tile) (q : Nat) (g : DWord) : Tile := { t with gens := tabSet genD t.gens q g }

/-- The set that a quarter drains: its oldest completed output tile (R95). -/
def Tile.drainHead (t : Tile) (q : Nat) : Option DrainJob := t.drains.find? (fun j => j.quarter == q)

/-- Has a quarter's drain begun, as a written rounding seed sees it (R80)? -/
def Tile.drainBusy (t : Tile) (q : Nat) : Bool :=
  match t.drainHead q with
  | some j => decide (0 < j.row) || j.begun
  | none => false

/-- Change the oldest completed output tile of a quarter. -/
def modDrain (q : Nat) (f : DrainJob → DrainJob) : List DrainJob → List DrainJob
  | [] => []
  | j :: l => if j.quarter == q then f j :: l else j :: modDrain q f l

/-! ### Seeds (R76) and reseeding (R80) -/

/-- A write to the high half of a seed slot starts its expansion, which fixes the seed; FAIL clears. -/
def Tile.seedWriteHi (t : Tile) (n : Nat) (hi : Word) : Tile :=
  if n < 16 then
    let t := t.setReg (Reg.rennetSeedHi + 8 * n) hi
    let t := (t.setF Reg.rennetSeedBusy n n 1).setF Reg.rennetSeedBusy (16 + n) (16 + n) 0
    { t with expanding := tabSet expandD t.expanding n (some (t.reg64 (Reg.rennetSeedLo + 8 * n))) }
  else t

/-- The expansion of a slot ends: the pattern is stored, BUSY clears, and a failed parity check sets FAIL. With `kept`
false the stored pattern loses a bit after the check, which the next command that takes it finds (R76). -/
def Tile.seedDone (t : Tile) (n : Nat) (parityOk kept : Bool) : Tile :=
  match tabGet expandD t.expanding n with
  | some seed =>
    let t := { t with
      expanding := tabSet expandD t.expanding n none
      patterns := tabSet patternD t.patterns n (signPattern seed)
      patBad := setBit t.patBad n (!(parityOk && kept)) }
    let t := t.setF Reg.rennetSeedBusy n n 0
    if parityOk then t else t.setF Reg.rennetSeedBusy (16 + n) (16 + n) 1
  | none => t

/-- A write to the low half of a seed slot: the pattern stays, and FAIL clears until the next check (R76). -/
def Tile.seedWriteLo (t : Tile) (n : Nat) (lo : Word) : Tile :=
  (t.setReg (Reg.rennetSeedLo + 8 * n) lo).setF Reg.rennetSeedBusy (16 + n) (16 + n) 0

/-- Does taking a slot's pattern fail (R61, R76, R121)? -/
def Tile.seedFails (t : Tile) (n : Nat) : Bool := t.f Reg.rennetSeedBusy (16 + n) (16 + n) == 1 || bit t.patBad n

/-- A command takes a pattern whose parity is wrong: FAIL is set in that cycle (R76). -/
def Tile.seedTake (t : Tile) (n : Nat) : Tile :=
  if bit t.patBad n then t.setF Reg.rennetSeedBusy (16 + n) (16 + n) 1 else t

/-- A quarter takes the state of the written rounding seed (R80). -/
def Tile.takeSeed (t : Tile) (q : Nat) : Tile :=
  let t := t.setGen q (genSeed (t.reg64 Reg.rennetSrSeedLo) (q + 1))
  { t with reseed := setBit t.reseed q false }

/-- Does a quarter's stage owe a written seed to the drains and commands that follow? For quarter 0 during a Churn job, a
seed from before the job is owed to the drains ahead of it; one written since waits for the job to end (R193). -/
def Tile.owesSeed (t : Tile) (q : Nat) : Bool :=
  match q, t.churn with
  | 0, some j => j.owed.isSome
  | q, _ => bit t.reseed q

/-- A written rounding seed reaches a quarter: at once if it has no drain in progress, else when that drain ends
(R80). A set that has become DRAINING is a drain in progress, and so is a Churn job for quarter 0 (R193). -/
def Tile.reseedQuarter (t : Tile) (q : Nat) : Tile :=
  if q == 0 && t.churn.isSome then { t with reseed := setBit t.reseed q true }
  else if (t.drainHead q).isSome then
    { t with reseed := setBit t.reseed q true, drains := modDrain q (fun j => { j with begun := true }) t.drains }
  else t.takeSeed q

/-- A write to the high half of RENNET_SR_SEED (R80). -/
def Tile.srSeedWrite (t : Tile) (hi : Word) : Tile :=
  (List.range 4).foldl Tile.reseedQuarter (t.setReg Reg.rennetSrSeedHi hi)

/-- Quarter 0 takes the seed that a Churn job found owed (R80, R193). -/
def Tile.takeOwed (t : Tile) : Tile :=
  match t.churn with
  | some j => match j.owed with
    | some v => { t.setGen 0 (genSeed v 1) with churn := some { j with owed := none } }
    | none => t
  | none => t

/-- A stage that still owes a reseed takes it once its drain has ended (R80). -/
def Tile.reseedTake (t : Tile) (q : Nat) : Tile :=
  if 4 ≤ q || t.drainBusy q || !t.owesSeed q then t
  else if q == 0 && t.churn.isSome then t.takeOwed else t.takeSeed q

end Sys2Proof.Machine
end

