-- ==== Sys2Proof/Machine/Matrix.lean ====
section
/-!
DEFINITION. Machine/Matrix.lean: the matrix engine of a tile: its checks (R34, R50, R61, R69, R94), the start of passes,
weight loads and mode changes (R24 to R36, R58 to R70), the accumulators and their drains (R86 to R100), and the
schedule of items under holds (R26, R29, R39 to R42, R454). What the array does cycle by cycle is in Array.lean.
-/

namespace Sys2Proof.Machine

/-- Is an opcode a synchronisation command (Table 4.2)? -/
def isSyncOp (o : Nat) : Bool := decide (0x50 ≤ o) && decide (o ≤ 0x54)

/-- Is an opcode a matrix command? -/
def isMatrixOp (o : Nat) : Bool := o == 0x10 || o == 0x11

/-- A command queue of the tile: engine 0, 1 or 3. -/
def Tile.queue (t : Tile) (e : Nat) : List QEntry := tabGet queueD t.queues e

/-- The tile with a queue replaced. -/
def Tile.setQueue (t : Tile) (e : Nat) (q : List QEntry) : Tile := { t with queues := tabSet queueD t.queues e q }

/-- LADLE_CMDCNT_MX, _VEC or _LD of engine 0, 1 or 3. -/
def cmdCntReg (e : Nat) : Nat := if e = 0 then Reg.ladleCmdcntMx else if e = 1 then Reg.ladleCmdcntVec else Reg.ladleCmdcntLd

/-- A command is taken from position i of an engine's queue: it leaves the queue and is counted (Table 4.10). -/
def Tile.takeCmd (t : Tile) (e i : Nat) : Tile :=
  let t := t.setQueue e (listDrop1 (t.queue e) i)
  t.setReg (cmdCntReg e) (t.reg (cmdCntReg e) + 1)

/-- The command count of an engine. -/
def Tile.cmdSeq (t : Tile) (e : Nat) : Nat := (t.reg (cmdCntReg e)).toNat

/-- A command taken from a queue is rejected: the engine stops with the code (R34, R109). -/
def Tile.reject (t : Tile) (e i code : Nat) : Tile :=
  let t := t.takeCmd e i
  t.recordFault code e (t.cmdSeq e)

/-- The entry of gang g that may start: the first of its gang, with only matrix commands of other gangs of the same
mode ahead of it (R24, R25, R107); with its position. -/
def gangHead (mode g : Nat) : Nat → List QEntry → Option (Nat × QEntry)
  | _, [] => none
  | i, e :: l =>
    if !isMatrixOp (opc e) || mxGang e != mode then none
    else if mxQsel e = g then some (i, e)
    else gangHead mode g (i + 1) l

/-! ### Checks (R34) -/

/-- Does a range of scratch end at or below offset 0xA_0000? -/
def inScratch (a n : Nat) : Bool := decide (a + n ≤ scratchSize)

/-- The reserved bits of a matrix command (Table 1.5). A weight load reads only words 0, 4 and 5; DEDUCED: the reserved
bits of every word count for it too (log 63). -/
def mxReserved (e : QEntry) : Bool :=
  decide (ef e 0 31 26 ≠ 0 ∨ ef e 2 31 20 ≠ 0 ∨ ef e 3 31 20 ≠ 0 ∨ ef e 4 31 20 ≠ 0 ∨ ef e 5 31 20 ≠ 0 ∨ ef e 7 31 20 ≠ 0)

/-- Are a weight format and an activation format a legal pair (R32)? -/
def pairOk (w a : Nat) : Bool := (decide (w ≤ 6) && decide (4 ≤ a) && decide (a ≤ 6)) || (w == 7 && a == 7)

/-- CZ_ERR_MX_FORMAT. A weight load reads only its weight format. -/
def mxFormatBad (e : QEntry) : Bool :=
  if opc e = 0x11 then decide (8 ≤ mxWfmt e) else !pairOk (mxWfmt e) (mxAfmt e)

/-- CZ_ERR_MX_SHAPE. The set depth is 64 tokens (R92). -/
def mxShapeBad (e : QEntry) : Bool :=
  decide (gangCount (mxGang e) ≤ mxQsel e) || mxReserved e ||
  (opc e == 0x10 && (mxT e == 0 || decide (64 < mxT e) || mxK e == 0 || decide (gangRows (mxGang e) < mxK e) ||
    mxN e == 0 || decide (gangCols (mxGang e) < mxN e)))

/-- Bytes of one weight (R33). -/
def wBytes (e : QEntry) : Nat := if mxWfmt e = 7 then 2 else 1

/-- The reads of the weight loader: one range per cell row. -/
def weightReads (e : QEntry) : List (Nat × Nat) :=
  let rows := if opc e = 0x11 then gangRows (mxGang e) else mxK e
  let cols := if opc e = 0x11 then gangCols (mxGang e) else mxN e
  if opc e = 0x11 || mxWload e then (List.range rows).map (fun i => (mxWAddr e + i * mxWPitch e, cols * wBytes e)) else []

/-- The walk descriptor of a pass, empty when CONV = 0. -/
def mxWalkOf (t : Tile) (e : QEntry) : Walk := walkAt t (mxWalk e)

/-- The reads of the feeders: every activation that is no padding. -/
def actReads (e : QEntry) (d : Walk) : List (Nat × Nat) :=
  (List.range (mxT e)).flatMap (fun t => (List.range (mxKx e)).filterMap (fun x =>
    (actAddr e d t x).map (fun a => (a, actBytes e))))

/-- The activation scales a pass reads. -/
def ascReads (e : QEntry) (d : Walk) (sd : ScaleDesc) : List (Nat × Nat) :=
  if cvAscale (mxCvt e) then
    (List.range (mxT e)).flatMap (fun t => (List.range (mxSegs e)).filterMap (fun g =>
      (ascAddr e d sd t g).map (fun a => (a, 1))))
  else []

/-- The weight scales a pass reads at its start. -/
def wscReads (e : QEntry) (sd : ScaleDesc) : List (Nat × Nat) :=
  if cvWscale (mxCvt e) then (List.range (mxSegs e)).map (fun g => (sd.wscBase + g * sd.wscPitch, mxN e)) else []

/-- The descriptors a pass reads. -/
def descReads (e : QEntry) : List (Nat × Nat) :=
  (if mxConv e then [(mxWalk e, 32)] else []) ++ (if mxReadsScale e then [(cvSdesc (mxCvt e), 32)] else [])

/-- Bytes of a drained element row of n elements. DESIGN CHOICE: a reserved OFMT counts 8 bytes per element in the range
check, as the container of 0x9 does (log 64). -/
def resultBytes (ofmt n : Nat) : Nat :=
  match Fmt.ofCode ofmt with
  | some f => packedBytes f n
  | none => 8 * n

/-- The writes of the drain of an ACC_LAST pass, with the S8 codes of Table 2.5. -/
def drainWrites (e : QEntry) (tgt : Nat × Nat) (sd : ScaleDesc) : List (Nat × Nat) :=
  (List.range (mxT e)).flatMap (fun t =>
    (tgt.1 + t * tgt.2, resultBytes (cvOfmt (mxCvt e)) (mxN e)) ::
      (if cvOscale (mxCvt e) then [(sd.oscBase + t * sd.oscPitch, mxN e / 32)] else []))

/-- What a pass reads, descriptors apart. A walk that fails its own check names addresses all the same, unless one of
the counts that R49 divides by is 0 (R453; log 20). -/
def passReads (t : Tile) (e : QEntry) : List (Nat × Nat) :=
  let d := mxWalkOf t e
  let sd := scaleAt t (cvSdesc (mxCvt e))
  let walkOk := !(mxConv e) || (d.outW != 0 && d.kw != 0 && d.ch != 0)
  (if walkOk then actReads e d ++ ascReads e d sd else []) ++ weightReads e ++ wscReads e sd

/-- The drain target at the head of the gang's queue (R98). -/
def Tile.target (t : Tile) (g : Nat) : Option (Nat × Nat) := (tabGet targetsD t.targets g).head?

/-- CZ_ERR_MX_RANGE. -/
def mxRangeBad (t : Tile) (e : QEntry) : Bool :=
  if opc e = 0x11 then !((weightReads e).all (fun r => inScratch r.1 r.2)) else
  !((descReads e).all (fun r => inScratch r.1 r.2)) ||
  !((passReads t e).all (fun r => inScratch r.1 r.2)) ||
  (mxLast e && !(match t.target (mxQsel e) with
    | some tgt => (drainWrites e tgt (scaleAt t (cvSdesc (mxCvt e)))).all (fun r => inScratch r.1 r.2)
    | none => true))

/-- CZ_ERR_MX_NO_WEIGHTS (R35). -/
def mxNoWeights (t : Tile) (e : QEntry) : Bool :=
  opc e == 0x10 && !mxWload e && !((gangQuarters (mxGang e) (mxQsel e)).all (fun q => bit t.wValid q))

/-- CZ_ERR_MX_WALK (R50). -/
def mxWalkBad (t : Tile) (e : QEntry) : Bool := opc e == 0x10 && mxConv e && walkBad e (mxWalkOf t e)

/-- CZ_ERR_MX_CVT (R61, R69). -/
def mxCvtBad (t : Tile) (e : QEntry) : Bool :=
  let c := mxCvt e
  opc e == 0x10 && (
    ((cvAscale c || cvWscale c) && mxWfmt e == 7) ||
    (cvAscale c && mxConv e && decide ((mxWalkOf t e).ch % 32 ≠ 0)) ||
    (mxReadsScale e && (scaleAt t (cvSdesc c)).reserved) ||
    (mxLast e && (
      decide (9 < cvOfmt c) || cvRnd c == 3 || (cvOscale c && decide (7 ≤ cvOfmt c)) ||
      (decide (cvRot c ≠ 0) && cvOfmt c == 9) || (cvOscale c && decide (mxN e % 32 ≠ 0)) ||
      (cvRot c == 1 && decide (mxN e % 64 ≠ 0)) || (cvRot c == 2 && decide (mxN e % 128 ≠ 0)) || cvRot c == 3 ||
      (decide (cvRot c ≠ 0) && t.seedFails (cvSeed c)))))

/-- CZ_ERR_MX_ACC (R94). -/
def mxAccBad (t : Tile) (e : QEntry) : Bool :=
  let o := if mxGang e = t.gang then tabGet openTileD t.openTile (mxQsel e) else none
  (opc e == 0x10 && (
    (!mxFirst e && (match o with
      | none => true
      | some (tc, nc) => decide (tc ≠ mxT e ∨ nc ≠ mxN e))) ||
    (mxFirst e && o.isSome) ||
    (mxLast e && (match t.target (mxQsel e) with
      | some (b, p) => decide (b % 64 ≠ 0 ∨ p % 64 ≠ 0)
      | none => false)))) ||
  (mxGang e != t.gang && (List.range 4).any (fun g => (tabGet openTileD t.openTile g).isSome))

/-- The code a matrix command is rejected with: the lowest of its failing checks, 0 for none (R34, R453). -/
def mxCheck (t : Tile) (e : QEntry) : Nat :=
  if mxFormatBad e then 0x210 else if mxShapeBad e then 0x211 else if mxRangeBad t e then 0x212
  else if mxNoWeights t e then 0x213 else if mxWalkBad t e then 0x214 else if mxCvtBad t e then 0x215
  else if mxAccBad t e then 0x216 else 0

/-- Does a started pass use a quarter of gang g of mode m? -/
def PassRec.inQuarters (p : PassRec) (m g : Nat) : Bool :=
  (gangQuarters p.gang p.qsel).any (fun q => (gangQuarters m g).contains q)

/-- Does a pass change weights: it loads a set, or takes a waiting one (R28)? -/
def PassRec.changes (p : PassRec) : Bool := mxWload p.entry || decide (p.takes ≠ 0)

/-- Has the feeder still to deliver entries of a started pass of gang g to its first row? The next pass of the gang starts
once it has none: it then follows the link's eight entries (R26, R37; log 65). -/
def Tile.feeding (t : Tile) (g : Nat) : Bool :=
  t.passes.any (fun p => p.qsel == g && decide (tabGet natD p.fed 0 < p.tCount))

/-- Has a cell of a gang still to swap in a set that a started pass has begun to take (R36)? -/
def Tile.unswapped (t : Tile) (m g : Nat) : Bool :=
  t.passes.any (fun p => p.changes && p.inQuarters m g && decide (0 < p.toSwap))

/-- The waits that hold a matrix command at its head (R34): an empty drain-target queue, a busy seed slot, the feeder's
earlier entries, and for a weight load the sets that passes are still taking. DEDUCED: a pass with WLOAD = 1 does not
wait for the last cell to swap in the set before its own, which R28's spacing of 64 cycles would not allow; its loader
keeps each weight until the cell has swapped (log 66). A gang that the mode does not have has no order and no target
queue to wait for. -/
def mxWaits (t : Tile) (e : QEntry) : Bool :=
  decide (mxQsel e < gangCount (mxGang e)) && (
    (opc e == 0x10 && mxLast e && ((t.target (mxQsel e)).isNone ||
      (decide (cvRot (mxCvt e) ≠ 0) && t.f Reg.rennetSeedBusy (cvSeed (mxCvt e)) (cvSeed (mxCvt e)) == 1))) ||
    (opc e == 0x10 && mxGang e == t.gang && t.feeding (mxQsel e)) ||
    (opc e == 0x11 && mxGang e == t.gang && t.unswapped (mxGang e) (mxQsel e)))

/-- May the command at position i start in mesh cycle cyc: its waits have ended, the engine has started none in this
cycle, and no head earlier in queue order can start (R24)? -/
def Tile.startsNow (t : Tile) (i : Nat) (e : QEntry) (cyc : Nat) : Bool :=
  !mxWaits t e && t.arr.started != some cyc &&
  (List.range 4).all (fun g => match gangHead t.gang g 0 (t.queue 0) with
    | some (i', e') => decide (i ≤ i') || mxWaits t e'
    | none => true)

/-! ### Weights (R28, R33, R35, R36) -/

/-- The format of a code, I2 for a reserved one (which no checked command has). -/
def fmtOf (c : Nat) : Fmt := (Fmt.ofCode c).getD .i2

/-- The weight halfword or byte of cell (i, j) as scratch holds it (R33). -/
def rawWeight (t : Tile) (e : QEntry) (i j : Nat) : Nat :=
  let a := mxWAddr e + i * mxWPitch e + j * wBytes e
  if wBytes e = 2 then t.rd8 a + 256 * t.rd8 (a + 1) else t.rd8 a

/-- FLUSH_SUB of a command; a weight load reads no CVT word (R31). -/
def mxFlush (e : QEntry) : Bool := opc e == 0x10 && cvFlush (mxCvt e)

/-- What the weight-load edge stores in a cell for a raw weight (R28, R55, R62). -/
def storeWeight (e : QEntry) (raw : Nat) : BitVec 16 :=
  let f := fmtOf (mxWfmt e)
  BitVec.ofNat 16 (packCodes f.bits ((List.range (perCell (mxWfmt e))).map (fun u =>
    storedCode f (mxFlush e) (subSlot f raw u))))

/-- What the weight-load edge counts for a raw weight (R55, R70). -/
def weightEvts (e : QEntry) (time q raw : Nat) : List RnEvt :=
  let f := fmtOf (mxWfmt e)
  let ws := (List.range (perCell (mxWfmt e))).map (fun u => widen f (mxWsign e) (mxFlush e) (subSlot f raw u))
  [⟨time, q, 1, 3, (ws.filter (·.nonfin)).length⟩, ⟨time, q, 1, 6, (ws.filter (·.noncanon)).length⟩]

/-- The cells a command loads: row by row (R33). -/
def loadCells (e : QEntry) : List (Nat × Nat) :=
  let rows := if opc e = 0x11 then gangRows (mxGang e) else mxK e
  let cols := if opc e = 0x11 then gangCols (mxGang e) else mxN e
  (List.range rows).flatMap (fun i => (List.range cols).map (fun j => (i, j)))

/-- A set of bits of a 4-bit field set to a value. -/
def setBits (b : BitVec 4) (qs : List Nat) (v : Bool) : BitVec 4 := qs.foldl (fun b q => setBit b q v) b

/-- A load starts: the quarters of the gang become valid (R35), a waiting set of them that no pass has taken is replaced
(R36), and the loader goes to work one row per cycle (R28). A weight load's own set then waits. DEDUCED: a quarter of
which a pass with WLOAD = 1 enables no cell becomes valid with the others (log 67). -/
def Tile.startLoader (t : Tile) (e : QEntry) (seq : Nat) : Tile :=
  let qs := gangQuarters (mxGang e) (mxQsel e)
  let own := opc e == 0x10
  { t with
    wValid := setBits t.wValid qs true
    wPendOn := setBits t.wPendOn qs (!own)
    arr := { t.arr with
      loads := t.arr.loads.filter (fun l => l.own || !((gangQuarters (mxGang l.entry) (mxQsel l.entry)).any
          (fun q => qs.contains q && bit t.wPendOn q))) ++ [⟨seq, own, e, []⟩] } }

/-! ### Sums (R26, R27, R64 to R66, R88) -/

/-- A product in a cell (R64). -/
def cellProduct (a w : XNum) : XNum :=
  if a.isZero || w.isZero then .zero else
  match a, w with
  | .nan, _ => .nan
  | _, .nan => .nan
  | .inf x, .inf y => Config.infTimesInf x y
  | .inf x, y => .inf (x != y.sign)
  | x, .inf y => .inf (x.sign != y)
  | x, y => x.mulFin y

/-- The exponent of an operand: floor(log2 |v|) (R65). -/
def operandExp : XNum → Int
  | .fin _ m e => (log2 m : Int) + e
  | _ => 0

/-- The group sum of a segment's products and whether bits were dropped (R65). -/
def groupSum (ps : List (XNum × XNum)) : XNum × Bool :=
  let prods := ps.map (fun p => (cellProduct p.1 p.2, operandExp p.1 + operandExp p.2))
  let vals := prods.map Prod.fst
  if vals.any (· == .nan) || (vals.any (· == .inf false) && vals.any (· == .inf true)) then (.nan, false)
  else if vals.any (· == .inf false) then (.inf false, false)
  else if vals.any (· == .inf true) then (.inf true, false)
  else
    let live := prods.filter (fun p => !p.1.isZero)
    match live with
    | [] => (.zero, false)
    | p :: rest =>
      let emax := rest.foldl (fun m q => max m q.2) p.2
      let lo := emax - 62
      let terms := live.map (fun q => match q.1 with
        | .fin n m e =>
          if lo ≤ e then ((if n then -(scaleTo m e lo : Int) else (scaleTo m e lo : Int)), false)
          else
            let s := (lo - e).toNat
            ((if n then -((m / 2 ^ s : Nat) : Int) else ((m / 2 ^ s : Nat) : Int)), decide (m % 2 ^ s ≠ 0))
        | _ => (0, false))
      (.ofUnits ((terms.map Prod.fst).sum) lo, terms.any Prod.snd)

/-- A group sum times its two scales; a code of 0xFF makes it NaN (R66). -/
def scaledGroup (x : XNum) (sa sw : Nat) : XNum :=
  if sa = 255 ∨ sw = 255 then .nan else x.shift ((sa : Int) - 127 + ((sw : Int) - 127))

/-- The weight scale codes a pass reads at its start, segment by segment over its columns; 127 without scales (R60,
R66). -/
def weightScales (t : Tile) (e : QEntry) (sd : ScaleDesc) : List Nat :=
  (List.range (mxSegs e)).flatMap (fun g => (List.range (mxN e)).map (fun j =>
    if cvWscale (mxCvt e) then t.rd8 (sd.wscBase + g * sd.wscPitch + j) else 127))

/-- The 0xFF weight scales that the weight-load edge counts for each pass that reads them (R70). -/
def scaleEvts (e : QEntry) (wsc : List Nat) : List RnEvt :=
  (List.range (mxSegs e)).flatMap (fun g => (List.range (mxN e)).map (fun j =>
    ⟨0, cellQuarter (mxGang e) (mxQsel e) (g * 32 / perCell (mxWfmt e)) j, 1, 3, b2n (wsc.getD (g * mxN e + j) 127 == 255)⟩))

/-! ### Commands -/

/-- The filling set of a quarter: 0 = A, 1 = B (R93). -/
def Tile.fillSet (t : Tile) (q : Nat) : Nat := b2n (bit t.fill q)

/-- Cycles between the items of a cell (R29). -/
def itemCycles (e : QEntry) : Nat := if mxWfmt e = 7 then 4 else 1

/-- The stream positions that a pass occupies: a pass that changes weights keeps its gang for at least 64 cycles (R28). -/
def passSpan (e : QEntry) (changes : Bool) : Nat := if changes then max (mxT e) (64 / itemCycles e) else mxT e

/-- Does a pass that starts now follow the passes of its gang without a gap: will its first entries, which its feeder
reads from the next cycle on and delivers 6 cycles later, be in time (R26, R30)? -/
def Tile.follows (t : Tile) (e : QEntry) (cyc : Nat) : Bool :=
  let k := (gangQuarters (mxGang e) (mxQsel e)).headD 0 * 64
  decide (6 ≤ itemCycles e * ((tabGet linkD t.arr.rows k).length + (tabGet linkD t.arr.feed k).length)) ||
  t.passes.any (fun p => p.qsel == mxQsel e && p.changes && decide (p.toSwap = mxK p.entry * mxN p.entry)) ||
  (match tabGet cycleD t.arr.wFirst (mxQsel e) with | some w => decide (cycDiff cyc w + 7 ≤ 64) | none => false)

/-- The stream a starting pass joins: the gang's stream when it follows without a gap, or a new one, whose first item
executes 6 cycles after the first read (R26, R30). -/
def Tile.streamFor (t : Tile) (e : QEntry) (cyc : Nat) : Stream :=
  let m16 := mxWfmt e == 7
  match tabGet streamD t.streams (mxQsel e) with
  | some s => if t.follows e cyc && s.gang == mxGang e && s.m16 == m16 then s else ⟨mxGang e, m16, cyc + 7, 0, []⟩
  | none => ⟨mxGang e, m16, cyc + 7, 0, []⟩

/-- What a pass reads at its start: its descriptors and its weight scales (R48, R60). -/
def startReads (t : Tile) (e : QEntry) : List (Nat × Nat) :=
  descReads e ++ wscReads e (scaleAt t (cvSdesc (mxCvt e)))

/-- The record of a pass that starts (R26 to R36, R60, R69, R90, R93, R98). -/
def Tile.newPass (t : Tile) (e : QEntry) (compat : Bool) (seq cyc pos beat : Nat) : PassRec :=
  let m := mxGang e
  let g := mxQsel e
  let sd := scaleAt t (cvSdesc (mxCvt e))
  let qs := columnQuarters m g
  let tgt := (t.target g).getD (0, 0)
  { qsel := g, gang := m, first := mxFirst e, last := mxLast e, tCount := mxT e, nCols := mxN e, seq := seq,
    compat := compat, setL := t.fillSet (qs.headD 0), setR := t.fillSet (qs.getD 1 (qs.headD 0)), cvt := mxCvt e,
    base := tgt.1, pitch := tgt.2, oscBase := sd.oscBase, oscPitch := sd.oscPitch,
    pattern := tabGet patternD t.patterns (cvSeed (mxCvt e)), entry := e,
    walk := if mxConv e then descWords t (mxWalk e) else [],
    scale := if mxReadsScale e then descWords t (cvSdesc (mxCvt e)) else [],
    wsc := weightScales t e sd, start := cyc, pos := pos, beat := beat,
    takes := if mxWload e then 0 else
      (gangQuarters m g).foldl (fun b q => if bit t.wPendOn q then setBit b q true else b) 0,
    wts := [], fed := [], toSwap := mxK e * mxN e, toLink := mxT e * mxN e, left := mxT e * mxN e }

/-- A pass starts: its weights begin to load (WLOAD = 1) or it takes the set that waits (WLOAD = 0), it takes its drain
target, its output fields and its sign pattern, and it opens or closes its gang's output tile (R25 to R36, R60, R69,
R93, R98). Its items follow cycle by cycle (Array.lean). -/
def Tile.startPass (t : Tile) (i : Nat) (e : QEntry) (compat : Bool) (cyc : Nat) : Tile :=
  let m := mxGang e
  let g := mxQsel e
  let (t, bad) := t.scrReads (startReads t e)
  if bad then (t.takeCmd 0 i).recordFault 0x260 0 ((t.takeCmd 0 i).cmdSeq 0) else
  let t := t.takeCmd 0 i
  let seq := t.cmdSeq 0
  let st := t.streamFor e cyc
  let p := t.newPass e compat seq cyc st.next st.start
  let qs := columnQuarters m g
  let t := { t with
    arr := { t.arr with started := some cyc }
    streams := tabSet streamD t.streams g (some { st with next := st.next + passSpan e p.changes })
    passes := t.passes ++ [p]
    wPendOn := if mxWload e then t.wPendOn else setBits t.wPendOn (gangQuarters m g) false
    accOpen := if mxFirst e then
        qs.foldl (fun a q => tabMod natD a (2 * q + t.fillSet q) (· + 1)) t.accOpen
      else t.accOpen
    openTile := tabSet openTileD t.openTile g (if mxLast e then none else some (mxT e, mxN e))
    targets := if mxLast e then tabMod targetsD t.targets g List.tail else t.targets
    fill := if mxLast e then qs.foldl (fun b q => setBit b q (!bit b q)) t.fill else t.fill }
  let t := if mxWload e then t.startLoader e seq else t
  t.rnEvents seq (scaleEvts e p.wsc)

/-- A weight load starts: its loader will fill the pending registers of every cell of its gang (R28, R31, R36). -/
def Tile.startLoad (t : Tile) (i : Nat) (e : QEntry) (cyc : Nat) : Tile :=
  let t := t.takeCmd 0 i
  ({ t with arr := { t.arr with started := some cyc } } : Tile).startLoader e (t.cmdSeq 0)

/-- May the matrix engine start a command (R109, R177)? A synchronisation command in progress holds its queue (R107),
a Churn job holds the matrix queue (R187). -/
def Tile.mxReady (t : Tile) : Bool := t.runs 0 && (tabGet waitD t.waits 0).isNone && t.churn.isNone

/-- A pass that uses a sign pattern takes it: a wrong parity sets FAIL in that cycle (R76). -/
def Tile.takePattern (t : Tile) (e : QEntry) : Tile :=
  if opc e == 0x10 && mxLast e && decide (cvRot (mxCvt e) ≠ 0) then t.seedTake (cvSeed (mxCvt e)) else t

/-- MATRIX_PASS and WEIGHT_LOAD: the command of opcode `op` at the head of gang g's order, if its waits have ended, is
checked and starts or is rejected (R24, R34). -/
def Tile.matrixCommand (t : Tile) (op g : Nat) (compat : Bool) (cyc : Nat) : Tile :=
  if !t.mxReady then t else
  match gangHead t.gang g 0 (t.queue 0) with
  | none => t
  | some (i, e) =>
    if opc e ≠ op || !t.startsNow i e cyc then t else
    let t := t.takePattern e
    let code := mxCheck t e
    if code ≠ 0 then t.reject 0 i code
    else if op = 0x11 then t.startLoad i e cyc
    else t.startPass i e compat cyc

/-- Has every quarter sent its last item into its column link (R25)? -/
def Tile.linksFed (t : Tile) : Bool := t.passes.all (fun p => p.toLink == 0)

/-- MODE_CHANGE: the command at the head of the queue whose GANG differs from the mode waits until every quarter has sent
its last item into its column link; it then passes its checks and sets the mode, and runs in the new mode as its own
event (R25, R94). -/
def Tile.modeChange (t : Tile) : Tile :=
  if !t.mxReady then t else
  match t.queue 0 with
  | [] => t
  | e :: _ =>
    if !isMatrixOp (opc e) || mxGang e == t.gang || mxWaits t e || !t.linksFed then t else
    let t := t.takePattern e
    let code := mxCheck t e
    if code ≠ 0 then t.reject 0 0 code else { t with gang := mxGang e }

/-! ### Accumulation (R88 to R95, R99) -/

/-- The key of an accumulator entry. -/
def accKey (q s t j : Nat) : Nat := (2 * q + s) * 4096 + t * 64 + j % 64

/-- The set of a pass in a column quarter. -/
def PassRec.setIn (p : PassRec) (q : Nat) : Nat :=
  if (columnQuarters p.gang p.qsel).headD 0 = q then p.setL else p.setR

/-- Has the drain of a set's previous output tile read a token row (R99)? -/
def Tile.shadowFree (t : Tile) (q s row : Nat) : Bool :=
  t.drains.all (fun j => j.quarter != q || j.set != s || decide (row < j.row))

/-- The drain of a completed output tile in one column quarter (R95, R455). -/
def drainJob (p : PassRec) (idx q : Nat) : DrainJob :=
  { quarter := q, set := if idx = 0 then p.setL else p.setR, col0 := 64 * idx,
    wide := decide (gangCols p.gang = 128), gang := p.gang, qsel := p.qsel,
    tCount := if p.nCols ≤ 64 * idx then 0 else p.tCount, nCols := p.nCols, row := 0, begun := false, seq := p.seq,
    cvt := p.cvt, base := p.base, pitch := p.pitch, oscBase := p.oscBase, oscPitch := p.oscPitch,
    pattern := p.pattern }

/-- Remove the first element a test selects. -/
def dropFirst {α : Type} (f : α → Bool) : List α → List α
  | [] => []
  | a :: l => if f a then l else a :: dropFirst f l

/-- The oldest started pass of gang g may end: its last addition is made, and no earlier pass shares its column
quarters (R95, R108). -/
def Tile.passEnds (t : Tile) (g : Nat) : Option PassRec :=
  match t.passes.find? (fun p => p.qsel == g) with
  | none => none
  | some p =>
    let qs := columnQuarters p.gang p.qsel
    let ahead := t.passes.takeWhile (fun x => x != p)
    let clear := ahead.all (fun x => (columnQuarters x.gang x.qsel).all (fun q => !qs.contains q))
    if clear && p.left == 0 then some p else none

/-- MATRIX_PASS_COMPLETE: the last addition of the oldest started pass of gang g has been made. With ACC_LAST its sets
leave OPEN and wait for their drains (R93, R95, R108). -/
def Tile.passComplete (t : Tile) (g : Nat) : Tile :=
  match t.passEnds g with
  | none => t
  | some p =>
    let qs := columnQuarters p.gang p.qsel
    let t := { t with passes := dropFirst (· == p) t.passes }
    if p.last then
      { t with
        accOpen := (qs.zip [p.setL, p.setR]).foldl (fun a x => tabMod natD a (2 * x.1 + x.2) (· - 1)) t.accOpen
        drains := t.drains ++ (qs.zipIdx).map (fun x => drainJob p x.2 x.1) }
    else t

/-- The state of a set as RENNET_ACC_STATE shows it (Table 3.4). A set that drains while a later output tile has
opened it shows the drain (log 21). -/
def Tile.setState (t : Tile) (q s : Nat) : Nat :=
  if t.drains.any (fun j => j.quarter == q && j.set == s) then
    (match t.drainHead q with
      | some j => if j.set = s then 2 else 3
      | none => 0)
  else if tabGet natD t.accOpen (2 * q + s) ≠ 0 then 1 else 0

/-! ### Drains (R71, R96, R97, R455) -/

/-- The columns of a job's quarter that its tile enables. -/
def DrainJob.cols (j : DrainJob) : Nat := min j.nCols (j.col0 + 64) - j.col0

/-- The stored words of one row of a drain's quarter. -/
def Tile.accRow (t : Tile) (j : DrainJob) : List (BitVec 56) :=
  (List.range j.cols).map (fun c => tabGet accD t.acc (accKey j.quarter j.set j.row c))

/-- A row of element codes with the open bits above its last element, where it ends within a byte (log 13). -/
def padCodes (f : Fmt) (a : Nat) (codes : List Nat) : List Nat :=
  let per := 8 / f.bits
  if per ≤ 1 then codes else
  codes ++ (List.range ((per - codes.length % per) % per)).map (fun i => Config.rowPad a (codes.length + i))

/-- Write one quarter's part of a drained row: packed elements, or 64-bit containers for OFMT 0x9, then the S8 codes
(R53, R96, Table 2.5). -/
def Tile.writeRow (t : Tile) (j : DrainJob) (codes scales : List Nat) : Tile :=
  let ofmt := cvOfmt j.cvt
  let a := j.base + j.row * j.pitch
  match Fmt.ofCode ofmt with
  | none => t.wrBytes (a + 8 * j.col0) (codes.flatMap (bytesOf 8))
  | some f =>
    let b := a + j.col0 * f.bits / 8
    let t := t.wrBytes b (bytesOf (packedBytes f codes.length) (packCodes f.bits (padCodes f b codes)))
    if cvOscale j.cvt then t.wrBytes (j.oscBase + j.row * j.oscPitch + j.col0 / 32) (scales.map (BitVec.ofNat 8))
    else t

/-- The row of a drain has been read: advance it, and end the drain after its last row. -/
def Tile.stepDrain (t : Tile) (q : Nat) : Tile :=
  match t.drainHead q with
  | none => t
  | some j =>
    if j.tCount ≤ j.row + 1 then { t with drains := dropFirst (fun x => x.quarter == q) t.drains }
    else { t with drains := modDrain q (fun x => { x with row := x.row + 1 }) t.drains }

/-- One row of a quarter's drain through its output stage, its values already rotated when ROT ≠ 0 (`pre`). The
generator advances once per element written, containers included (R80). -/
def Tile.drainPart (t : Tile) (j : DrainJob) (pre : List (XNum × List (Nat × Nat))) : Tile :=
  let q := j.quarter
  if cvOfmt j.cvt = 9 then
    let ws := t.accRow j
    let bad := (ws.filter (fun w => !(acc56Num w).isFinite)).length
    let t := if cvRnd j.cvt = 1 then t.setGen q (foldN (fun _ g => xorshift g) ws.length (t.gen q)) else t
    ((t.writeRow j (ws.map (·.toNat)) []).stepDrain q).rnEvents (t.cmdSeq 0) [⟨3, q, 2, 4, bad⟩]
  else
    let r := narrowRow (fmtOf (cvOfmt j.cvt)) j.cvt (t.gen q) (pre.map Prod.fst)
    let t := ((t.setGen q r.gen).writeRow j r.codes r.scales).stepDrain q
    t.rnEvents (t.cmdSeq 0) (rowEvts q 2 ((pre.map Prod.snd).flatten ++ atMoment 3 r.evts))

/-- The exact values of a row of ACC56 words. -/
def accVals (ws : List (BitVec 56)) : List XNum := ws.map acc56Num

/-- The values of a row of a drain that needs no other quarter, after steps 1 and 2 of R71. -/
def Tile.rowAlone (t : Tile) (j : DrainJob) : List (XNum × List (Nat × Nat)) :=
  let xs := accVals (t.accRow j)
  if cvRot j.cvt = 0 then xs.map (fun x => (x, [])) else rotRow (cvFlush j.cvt) (cvInv j.cvt) j.pattern 64 xs

/-- The scratch bytes (address, length) that one row of a drain's quarter is written to: its elements, packed or in
64-bit containers, and with OSCALE its S8 codes (R53, R96, Table 2.5). -/
def DrainJob.spans (j : DrainJob) : List (Nat × Nat) :=
  match Fmt.ofCode (cvOfmt j.cvt) with
  | none => [(j.base + j.row * j.pitch + 8 * j.col0, 8 * j.cols)]
  | some f => (j.base + j.row * j.pitch + j.col0 * f.bits / 8, packedBytes f j.cols) ::
      (if cvOscale j.cvt then [(j.oscBase + j.row * j.oscPitch + j.col0 / 32, ceilDiv j.cols 32)] else [])

/-- Does a drain's next row wait: its quarter still owes a written rounding seed (R80)? -/
def DrainJob.owes (j : DrainJob) (x : Tile) : Bool := decide (j.row = 0) && !j.begun && x.owesSeed j.quarter

/-- DRAIN_ROW: quarter q's drain reads its next row, and the row passes the output stage and is written to scratch
(R71, R96, R97). A drain of a 128-column gang with ROT = 2 reads the row in both column quarters at once (R97). A
quarter that holds no column of its tile ends its drain without a row (R455). A drain does not begin while its stage
owes a reseed (R80). -/
def Tile.drainRow (t : Tile) (q : Nat) : Tile :=
  match t.drainHead q with
  | none => t
  | some j =>
    if j.tCount = 0 then { t with drains := dropFirst (fun x => x.quarter == q) t.drains }
    else if j.row = 0 && !j.begun && t.owesSeed q then t
    else if j.wide && cvRot j.cvt = 2 then
      let mate := if j.col0 = 0 then q + 1 else q - 1
      match t.drainHead mate with
      | none => t
      | some k =>
        if k.seq ≠ j.seq || k.row ≠ j.row || (k.row = 0 && !k.begun && t.owesSeed mate) then t else
        let l := if j.col0 = 0 then j else k
        let r := if j.col0 = 0 then k else j
        let pre := rotRow (cvFlush j.cvt) (cvInv j.cvt) j.pattern 128 (accVals (t.accRow l) ++ accVals (t.accRow r))
        (t.drainPart l (pre.take 64)).drainPart r (pre.drop 64)
    else t.drainPart j (t.rowAlone j)

/-- The scratch bytes that the next row of quarter q's drain writes; none while it waits. -/
def Tile.drainSpans (t : Tile) (q : Nat) : List (Nat × Nat) :=
  match t.drainHead q with
  | none => []
  | some j =>
    if j.tCount = 0 || j.owes t then [] else
    if j.wide && cvRot j.cvt = 2 then
      (match t.drainHead (if j.col0 = 0 then q + 1 else q - 1) with
        | none => []
        | some k => if k.seq ≠ j.seq || k.row ≠ j.row || k.owes t then [] else j.spans ++ k.spans)
    else j.spans

/-- DRAIN_ROW in a mesh cycle: the row's writes rank second for their banks (R45, R97). -/
def Tile.drainTurn (t : Tile) (cyc q : Nat) : Tile := t.served cyc 2 (t.drainSpans q) (fun t => t.drainRow q)

/-! ### The schedule of items, and holds (R26, R29, R38 to R42, R454) -/

/-- The delay a hold causes, a multiple of 4 in M16 mode (R454). -/
def holdDelay (m16 : Bool) (h : Hold) : Nat := if m16 then 4 * ceilDiv h.d 4 else h.d

/-- Is item (i, j, n) in the delayed set of a hold (R40, R41)? -/
def holdHits (gr : Nat) (h : Hold) (i j n : Nat) : Bool :=
  if h.row then decide (h.pos + h.idx ≤ n + min i h.idx) else decide (h.pos + gr + h.idx ≤ n + i + min j h.idx)

/-- Cycles per stream position. -/
def Stream.unit (s : Stream) : Nat := if s.m16 then 4 else 1

/-- The cycle of item (i, j, n) when nothing holds (R26, R29). -/
def Stream.dueCycle (s : Stream) (i j n : Nat) : Nat := s.start + s.unit * (n + i + j)

/-- The first cycle that the holds of a stream leave to item (i, j, n): the entry of a late row link, or 0. -/
def Stream.entryTill (s : Stream) (i j n : Nat) : Nat :=
  if j = 0 then (s.holds.map (fun h => if h.row && h.idx == i && h.pos == n then h.till else 0)).foldl max 0 else 0

/-- The cycle of item (i, j, n) by the four conditions of R39 alone: no earlier than its schedule and the arrival of its
entry, one item after the operands from the left and from above and after the cell's own item before it, and no earlier
than the cycles that empty its rightward and its downward slot. The downward slot of a bottom cell empties when the
column link takes its sum, which a refusal puts off. `fuel` bounds the recursion. -/
def Stream.conditionCycle (s : Stream) : Nat → Nat → Nat → Nat → Nat
  | 0, i, j, n => s.dueCycle i j n
  | fuel + 1, i, j, n =>
    let c := s.conditionCycle fuel
    let left := if j = 0 then 0 else c i (j - 1) n + s.unit
    let above := if i = 0 then 0 else c (i - 1) j n + s.unit
    let own := if n = 0 then 0 else c i j (n - 1) + s.unit
    let right := if n = 0 ∨ gangCols s.gang ≤ j + 1 then 0 else c i (j + 1) (n - 1)
    let down := if n = 0 then 0 else if i + 1 < gangRows s.gang then c (i + 1) j (n - 1) else
      (s.holds.map (fun h => if !h.row && h.idx == j && h.pos == n - 1 then h.till else 0)).foldl max 0
    let t := [s.entryTill i j n, left, above, own, right, down].foldl max (s.dueCycle i j n)
    if s.m16 then s.start + 4 * ceilDiv (t - s.start) 4 else t

/-- The cycle of item (i, j, n) of a stream: its schedule (R26, R29); with one hold, R40, R41 and the rounding of R454;
with several, R39 alone. -/
def Stream.itemCycle (s : Stream) (i j n : Nat) : Nat :=
  match s.holds with
  | [] => s.dueCycle i j n
  | [h] => s.dueCycle i j n + (if holdHits (gangRows s.gang) h i j n then holdDelay s.m16 h else 0)
  | _ => s.conditionCycle (n + i + j + gangRows s.gang + gangCols s.gang) i j n

/-- The cycle in which the sum of position n in column j enters its column link, and the one in which the accumulator
adds it when it takes it at once (R26, R29, R41). -/
def Stream.linkCycle (s : Stream) (j n : Nat) : Nat :=
  let due := s.itemCycle (gangRows s.gang - 1) j n + s.unit
  (s.holds.map (fun h => if !h.row && h.idx == j && h.pos == n then h.till else 0)).foldl max due

def Stream.addCycle (s : Stream) (j n : Nat) : Nat := s.linkCycle j n + 3

/-- The key of row link i of gang g in a mode, and of its column link j: the links Table 1.2 marks used. -/
def rowKey (m g i : Nat) : Nat := cellQuarter m g i 0 * 64 + i % 64
def colKey (m g j : Nat) : Nat := colQuarter m g j * 64 + j % 64

/-- ROW_LINK_HOLD: the row link of an enabled row is empty as its entry for position n0 falls due, and the feeder
delivers the entry d cycles late (R38, R40). A link with entries, and a disabled row, hold nothing. -/
def Tile.rowHold (t : Tile) (g i0 n0 d : Nat) : Tile :=
  match tabGet streamD t.streams g with
  | some s =>
    let k := rowKey s.gang g i0
    if i0 < gangRows s.gang ∧ tabGet linkD t.arr.rows k = [] ∧
        t.passes.any (fun p => p.qsel == g && decide (i0 < mxK p.entry) && decide (p.pos ≤ n0) && decide (n0 < p.pos + p.tCount)) then
      { t with
        streams := tabSet streamD t.streams g (some { s with holds := s.holds ++ [⟨true, i0, n0, d, s.itemCycle i0 0 n0 + d⟩] })
        arr := { t.arr with gaps := tabSet natD t.arr.gaps k (max (d - 1) (tabGet natD t.arr.gaps k)) } }
    else t
  | none => t

/-- COLUMN_LINK_REFUSE: a full column link refuses the sum of position n0 and takes it d cycles late (R41). A link that
is not full refuses none. -/
def Tile.colHold (t : Tile) (g j0 n0 d : Nat) : Tile :=
  match tabGet streamD t.streams g with
  | some s =>
    if j0 < gangCols s.gang ∧ 8 ≤ (tabGet colD t.arr.cols (colKey s.gang g j0)).length then
      let k := 256 + colKey s.gang g j0
      { t with
        streams := tabSet streamD t.streams g
          (some { s with holds := s.holds ++ [⟨false, j0, n0, d, s.linkCycle j0 n0 + d⟩] })
        arr := { t.arr with gaps := tabSet natD t.arr.gaps k (max (d - 1) (tabGet natD t.arr.gaps k)) } }
    else t
  | none => t

end Sys2Proof.Machine
end

