-- ==== Sys2Proof/Machine/Array.lean ====
section
/-!
DEFINITION. Machine/Array.lean: the matrix array cycle by cycle: feeders, weight loader, row and column links, cells,
accumulators (R26 to R30, R33, R37 to R39, R43 to R47, R60, R65, R66, R70, R91, R99).
-/

namespace Sys2Proof.Machine

/-- The started pass of a command count. -/
def Tile.passOf (t : Tile) (seq : Nat) : Option PassRec := t.passes.find? (fun p => p.seq == seq)

/-- Change the started pass of a command count. -/
def Tile.modPass (t : Tile) (seq : Nat) (f : PassRec → PassRec) : Tile :=
  { t with passes := t.passes.map (fun p => if p.seq = seq then f p else p) }

/-- Is a pass an M16 pass, and may its items move in this cycle (R29)? -/
def PassRec.m16 (p : PassRec) : Bool := mxWfmt p.entry == 7
def PassRec.onBeat (p : PassRec) (cyc : Nat) : Bool := !p.m16 || cycDiff cyc p.beat % 4 == 0

/-! ### Accumulators (R88 to R93, R99) -/

/-- Does the accumulator take the head of a column link now: three cycles after it entered, four after the entry's last
addition, and for an opening pass once the drain of the set's previous output tile has read the row (R26, R99)? -/
def Tile.accTakes (t : Tile) (cyc q col : Nat) (p : PassRec) (e : SumEntry) : Bool :=
  let s := p.setIn q
  decide (3 ≤ cycDiff cyc e.at_) &&
  (match tabGet cycleD t.arr.addedAt (accKey q s e.tok col) with | some c => decide (4 ≤ cycDiff cyc c) | none => true) &&
  (!p.first || (t.shadowFree q s e.tok &&
    (t.passes.takeWhile (fun x => x.seq != p.seq)).all (fun x =>
      !x.last || !(columnQuarters x.gang x.qsel).contains q || x.setIn q != s)))

/-- What an addition that overflowed counts (R91). -/
def ovfEvts (compat ovf : Bool) (q : Nat) : List RnEvt :=
  [⟨0, q, 2, 9, b2n ovf⟩, ⟨0, q, 2, 1, b2n (ovf && compat)⟩]

/-- The accumulator of column `col` of quarter q: an opening pass writes its sum, a later one adds it (R93). -/
def Tile.accumulate (cyc q col : Nat) (t : Tile) : Tile × List (Nat × RnEvt) :=
  let k := q * 64 + col
  match tabGet colD t.arr.cols k with
  | [] => (t, [])
  | e :: rest =>
    match t.passOf e.seq with
    | none => (t, [])
    | some p =>
      if !t.accTakes cyc q col p e then (t, []) else
      let a := accKey q (p.setIn q) e.tok col
      let (v, ovf) := if p.first then (e.val, false) else acc56Add p.compat (tabGet accD t.acc a) (acc56Num e.val)
      (({ t with
          acc := tabSet accD t.acc a v
          arr := { t.arr with cols := tabSet colD t.arr.cols k rest, addedAt := tabSet cycleD t.arr.addedAt a (some cyc) }
          } : Tile).modPass p.seq (fun p => { p with left := p.left - 1 }),
        (ovfEvts p.compat ovf q).map (fun x => (p.seq, x)))

/-- A column link takes the sum below its column while it has room and refuses nothing (R37, R41). -/
def Tile.linkTake (cyc q col : Nat) (t : Tile) : Tile :=
  let k := q * 64 + col
  if tabGet natD t.arr.gaps (256 + k) ≠ 0 then
    { t with arr := { t.arr with gaps := tabMod natD t.arr.gaps (256 + k) (· - 1) } } else
  match tabGet outD t.arr.outs k with
  | none => t
  | some e =>
    let l := tabGet colD t.arr.cols k
    match t.passOf e.seq with
    | none => t
    | some p =>
      if 8 ≤ l.length ∨ !p.onBeat cyc then t else
      ({ t with arr := { t.arr with
          outs := tabSet outD t.arr.outs k none
          cols := tabSet colD t.arr.cols k (l ++ [{ e with at_ := cyc }]) } } : Tile).modPass p.seq
        (fun p => { p with toLink := p.toLink - 1 })

/-! ### Row links (R37, R38) -/

/-- A row link takes up to two entries from its feeder while it has room; a gap of the feeder delivers nothing. -/
def Tile.linkFill (cyc k : Nat) (t : Tile) : Tile :=
  if tabGet natD t.arr.gaps k ≠ 0 then { t with arr := { t.arr with gaps := tabMod natD t.arr.gaps k (· - 1) } } else
  foldN (fun _ (t : Tile) =>
    match tabGet linkD t.arr.feed k with
    | [] => t
    | e :: rest =>
      let l := tabGet linkD t.arr.rows k
      if 8 ≤ l.length ∨ cycDiff cyc e.due ≥ 2 ^ 47 then t else
      { t with arr := { t.arr with feed := tabSet linkD t.arr.feed k rest, rows := tabSet linkD t.arr.rows k (l ++ [e]) } })
    2 t

/-! ### Cells (R26 to R28, R39, R64 to R66) -/

/-- The activation input of cell (i, j): the head of its row's link in the first column, unless the cap controller
withholds the slot (R43), and else the slot to its left. -/
def Tile.actIn (t : Tile) (held : Bool) (m g i j : Nat) : Option LinkEntry :=
  if j = 0 then (if held then none else (tabGet linkD t.arr.rows (rowKey m g i)).head?)
  else tabGet actD t.arr.acts (cellKey m g i j)

/-- The tile with the activation input of cell (i, j) used up. -/
def Tile.takeAct (t : Tile) (m g i j : Nat) : Tile :=
  { t with arr := if j = 0 then { t.arr with rows := tabMod linkD t.arr.rows (rowKey m g i) List.tail }
      else { t.arr with acts := tabSet actD t.arr.acts (cellKey m g i j) none } }

/-- Is the partial-sum slot below cell (i, j) free? -/
def Tile.downFree (t : Tile) (m g i j : Nat) : Bool :=
  if i + 1 < gangRows m then (tabGet partSumD t.arr.sums (cellKey m g (i + 1) j)).isNone
  else (tabGet outD t.arr.outs (colKey m g j)).isNone

/-- Pass a partial sum down from cell (i, j): to the cell below, or below the gang's bottom edge. -/
def Tile.putDown (t : Tile) (m g i j : Nat) (x : PartSum) : Tile :=
  { t with arr := if i + 1 < gangRows m then { t.arr with sums := tabSet partSumD t.arr.sums (cellKey m g (i + 1) j) (some x) }
      else { t.arr with outs := tabSet outD t.arr.outs (colKey m g j) (some ⟨x.seq, x.tok, x.acc, 0⟩) } }

/-- A cell copies pending to active as it executes the first item of the pass that loaded or takes the set (R28). DEDUCED:
a cell that the taking pass disables executes no item of it, and keeps its active weight (log 68). -/
def Tile.swap (t : Tile) (p : PassRec) (q k : Nat) : Tile :=
  let t := t.modPass p.seq (fun p => { p with toSwap := p.toSwap - 1 })
  if mxWload p.entry then { t with wAct := tabSet w16D t.wAct k (tabGet w16D p.wts k) }
  else if bit p.takes q then { t with wAct := tabSet w16D t.wAct k (tabGet w16D t.wPend k) } else t

/-- The operand pairs that a cell adds to its segment: its sub-slots' activations and weights (R28, R64). -/
def cellPairs (e : QEntry) (a : LinkEntry) (w : BitVec 16) : List (XNum × XNum) :=
  let f := fmtOf (mxWfmt e)
  (a.acts.zipIdx).map (fun x => (x.1, f.decode (mxWsign e) (subSlot f w.toNat x.2)))

/-- A segment boundary: the group sum, scaled, is added into the running value (R27, R65, R66, R88). -/
def closeSegment (p : PassRec) (i j q : Nat) (x : PartSum) : PartSum × List (Nat × RnEvt) :=
  let (gs, dropped) := groupSum x.prods
  let seg := i * perCell (mxWfmt p.entry) / 32
  let (v, ovf) := acc56Add p.compat x.acc (scaledGroup gs x.scale (p.wsc.getD (seg * p.nCols + j) 127))
  ({ x with acc := v, prods := [], scale := 127 }, (⟨0, q, 2, 5, b2n dropped⟩ :: ovfEvts p.compat ovf q).map (fun y => (p.seq, y)))

/-- Does a segment end at row i of a pass (R27)? -/
def segmentEnds (e : QEntry) (i : Nat) : Bool := (i + 1) * perCell (mxWfmt e) % 32 == 0 || i + 1 == mxK e

/-- May the first item of a pass execute: a pass that changes weights keeps 64 cycles from the one before it (R28)? -/
def Tile.spaced (t : Tile) (cyc : Nat) (p : PassRec) : Bool :=
  !p.changes || (match tabGet cycleD t.arr.wFirst p.qsel with | some c => decide (64 ≤ cycDiff cyc c) | none => true)

/-- Cell (i, j) of gang g executes an item if the four conditions of R39 hold: its activation and its partial sum are
there, and its rightward and downward slots are free. Below the enabled rows of a pass a sum only passes down. -/
def Tile.cell (held : Bool) (cyc m g i j : Nat) (t : Tile) : Tile × List (Nat × RnEvt) :=
  let k := cellKey m g i j
  let q := cellQuarter m g i j
  let above := if i = 0 then (t.actIn held m g 0 j).map (fun a => (⟨a.seq, a.tok, 0, [], 127⟩ : PartSum))
    else tabGet partSumD t.arr.sums k
  match above with
  | none => (t, [])
  | some x =>
    match t.passOf x.seq with
    | none => (t, [])
    | some p =>
      if !p.onBeat cyc || !t.downFree m g i j then (t, []) else
      if mxK p.entry ≤ i then
        (({ t with arr := { t.arr with sums := tabSet partSumD t.arr.sums k none } } : Tile).putDown m g i j x, [])
      else
      match t.actIn held m g i j with
      | none => (t, [])
      | some a =>
        if a.seq ≠ x.seq ∨ a.tok ≠ x.tok then (t, []) else
        let right := decide (j + 1 < p.nCols)
        if right && (tabGet actD t.arr.acts (cellKey m g i (j + 1))).isSome then (t, []) else
        if i = 0 ∧ j = 0 ∧ a.tok = 0 ∧ !t.spaced cyc p then (t, []) else
        let t := if a.tok = 0 then t.swap p q k else t
        let t := if i = 0 ∧ j = 0 ∧ a.tok = 0 ∧ p.changes then
            { t with arr := { t.arr with wFirst := tabSet cycleD t.arr.wFirst g (some cyc) } } else t
        let t := (t.takeAct m g i j)
        let t := { t with arr := { t.arr with
          sums := if i = 0 then t.arr.sums else tabSet partSumD t.arr.sums k none
          acts := if right then tabSet actD t.arr.acts (cellKey m g i (j + 1)) (some a) else t.arr.acts } }
        let first := i * perCell (mxWfmt p.entry) % 32 == 0
        let y := { x with
          prods := x.prods ++ cellPairs p.entry a (tabGet w16D t.wAct k)
          scale := if first then a.scale else x.scale }
        let (y, ev) := if segmentEnds p.entry i then closeSegment p i j q y else (y, [])
        (t.putDown m g i j y, ev)

/-! ### Feeders (R30, R33, R44 to R46, R48, R49, R60, R70) -/

/-- A byte as a feeder or the weight loader reads it: an uncorrectable word gives bytes the spec does not state (log 61). -/
def Tile.edgeByte (t : Tile) (cyc a : Nat) : Nat :=
  if tabGet natD t.scrBad (a / 8) = 2 then (Config.scrUnread cyc a).toNat else t.rd8 a

/-- A little-endian operand of n bytes. -/
def Tile.edgeVal (t : Tile) (cyc a n : Nat) : Nat :=
  if n = 2 then t.edgeByte cyc a + 256 * t.edgeByte cyc (a + 1) else t.edgeByte cyc a

/-- Claim the lines of an access, with those won before: the lines that are still missing (R44). -/
def Tile.claimLines (t : Tile) (cyc k : Nat) (rs : List (Nat × Nat)) : Tile × Bool :=
  let had := tabGet linesD t.arr.got k
  let (now, won) := (linesOf rs).foldl (fun (x : Now × List Nat) l =>
    if had.contains l then x else
    match x.1.claim cyc l with
    | some w => (w, x.2 ++ [l])
    | none => x) (t.now, had)
  let all := (linesOf rs).all (fun l => won.contains l)
  ({ t with now := now, arr := { t.arr with got := tabSet linesD t.arr.got k (if all then [] else won) } }, all)

/-- The gang and the first gang row that the feeder of a quarter serves in a mode: the row links of Table 1.2. -/
def feederOf (m q : Nat) : Option (Nat × Nat) :=
  match m with
  | 0 => some (q, 0)
  | 1 => some (q % 2, 64 * (q / 2))
  | 2 => if q % 2 = 0 then some (q / 2, 0) else none
  | _ => if q % 2 = 0 then some (0, 64 * (q / 2)) else none

/-- Rows of a load that a quarter has to write, and its columns: gang row and column of its first cell. -/
def quarterPlace (m q : Nat) : Nat × Nat :=
  (if m = 1 ∨ m = 3 then 64 * (q / 2) else 0, if m = 2 ∨ m = 3 then 64 * (q % 2) else 0)

/-- Rows and columns that a load writes. -/
def loadRows (e : QEntry) : Nat := if opc e = 0x11 then gangRows (mxGang e) else mxK e
def loadCols (e : QEntry) : Nat := if opc e = 0x11 then gangCols (mxGang e) else mxN e

/-- How many rows of quarter q a load writes: none where it enables no column of the quarter. -/
def WLoad.need (l : WLoad) (q : Nat) : Nat :=
  let (r0, c0) := quarterPlace (mxGang l.entry) q
  if loadCols l.entry ≤ c0 then 0 else min 64 (loadRows l.entry - r0)

/-- Does a load write quarter q? -/
def WLoad.touches (l : WLoad) (q : Nat) : Bool := (gangQuarters (mxGang l.entry) (mxQsel l.entry)).contains q

/-- Has the loader written what gang row i of a pass will swap in (R28)? -/
def Tile.loadedRow (t : Tile) (p : PassRec) (i : Nat) : Bool :=
  t.arr.loads.all (fun l =>
    if l.own then l.seq != p.seq || [0, gangCols p.gang - 1].all (fun j =>
      let q := cellQuarter p.gang p.qsel i j
      decide (min (i % 64 + 1) (l.need q) ≤ tabGet natD l.rows q))
    else (gangQuarters p.gang p.qsel).all (fun q => !(bit p.takes q && l.touches q) ||
      decide (i % 64 < tabGet natD l.rows q)))

/-- The reads of one row's entry for token tok: its activations, and its group's scale code in the first row of a
segment. -/
def entryReads (p : PassRec) (tok i : Nat) : List (Nat × Nat) :=
  let e := p.entry
  let d := walkOf p.walk
  let k := perCell (mxWfmt e)
  (List.range k).filterMap (fun u => (actAddr e d tok (i * k + u)).map (fun a => (a, actBytes e))) ++
  (if cvAscale (mxCvt e) && i * k % 32 == 0 then
    (ascAddr e d (scaleOf p.scale) tok (i * k / 32)).toList.map (fun a => (a, 1)) else [])

/-- The entry of row i for token tok, with what its edge counts (R46, R49, R66, R70). -/
def Tile.feedEntry (t : Tile) (cyc : Nat) (p : PassRec) (q tok i due : Nat) : LinkEntry × List RnEvt :=
  let e := p.entry
  let d := walkOf p.walk
  let k := perCell (mxWfmt e)
  let ws := (List.range k).map (fun u => match actAddr e d tok (i * k + u) with
    | some a => widen (fmtOf (mxAfmt e)) (mxAsign e) (cvFlush (mxCvt e)) (t.edgeVal cyc a (actBytes e))
    | none => ⟨.zero, false, false⟩)
  let scaled := cvAscale (mxCvt e) && i * k % 32 == 0
  let sc := if scaled then match ascAddr e d (scaleOf p.scale) tok (i * k / 32) with
    | some a => t.edgeByte cyc a
    | none => 127 else 127
  (⟨p.seq, tok, ws.map (·.val), ws.map (fun w => w.val.isZero), sc, due⟩,
   [⟨0, q, 0, 3, (ws.filter (·.nonfin)).length + b2n (scaled && sc == 255)⟩, ⟨0, q, 0, 6, (ws.filter (·.noncanon)).length⟩])

/-- A fault of an uncorrectable word that the feeders or the loader read (R109, R158). -/
def Tile.edgeReads (t : Tile) (rs : List (Nat × Nat)) (seq : Nat) : Tile :=
  let (t, bad) := t.scrReads rs
  if bad then t.recordFault 0x260 0 seq else t

/-- Cycles from a feeder's read of an entry to the cycle in which row i of a stream takes it: the fill of R30, and the
delay of the row. -/
def rowDelay (p : PassRec) (i : Nat) : Nat := 6 + (if p.m16 then 4 * i else i)

/-- Entries that a row's feeder may be ahead of its link: its delay, in items, above the link's eight. -/
def rowAhead (p : PassRec) (i : Nat) : Nat := 8 + ceilDiv (rowDelay p i) (if p.m16 then 4 else 1)

/-- The feeder of quarter q reads the next entry of gang row i, if it may be that far ahead, the weights it will meet
are written, and its banks serve it. -/
def Tile.feedRow (cyc m g q i : Nat) (t : Tile) : Tile × List (Nat × RnEvt) :=
  let k := rowKey m g i
  match t.passes.find? (fun p => p.qsel == g && decide (i < mxK p.entry) && decide (tabGet natD p.fed i < p.tCount)) with
  | none => (t, [])
  | some p =>
    let tok := tabGet natD p.fed i
    let ahead := (tabGet linkD t.arr.rows k).length + (tabGet linkD t.arr.feed k).length
    if rowAhead p i ≤ ahead || (tok == 0 && !t.loadedRow p i) then (t, []) else
    let rs := entryReads p tok i
    let (t, won) := t.claimLines cyc k rs
    if !won then (t, []) else
    let (e, ev) := t.feedEntry cyc p q tok i ((cyc + rowDelay p i) % 2 ^ 48)
    let t := t.edgeReads rs p.seq
    let n := t.cmdSeq 0
    ({ (t.modPass p.seq (fun p => { p with fed := tabSet natD p.fed i (tok + 1) })) with
        gated := t.gated + (e.zeros.filter id).length
        arr := { t.arr with feed := tabMod linkD t.arr.feed k (· ++ [e]) } }, ev.map (fun x => (n, x)))

/-! ### The weight loader (R28, R33) -/

/-- The cells of one row of a quarter that a load writes: gang row, first gang column, and how many. -/
def WLoad.span (l : WLoad) (q : Nat) : Nat × Nat × Nat :=
  let (r0, c0) := quarterPlace (mxGang l.entry) q
  (r0 + tabGet natD l.rows q, c0, min 64 (loadCols l.entry - c0))

/-- The loader writes one row of quarter q, of the oldest load that still needs it: into the pass's own set, or into the
pending registers. -/
def Tile.loadRow (cyc q : Nat) (t : Tile) : Tile × List (Nat × RnEvt) :=
  match t.arr.loads.find? (fun l => l.touches q && decide (tabGet natD l.rows q < l.need q)) with
  | none => (t, [])
  | some l =>
    let e := l.entry
    let (i, c0, n) := l.span q
    let rs := [(mxWAddr e + i * mxWPitch e + c0 * wBytes e, n * wBytes e)]
    let (t, won) := t.claimLines cyc (256 + q) rs
    if !won then (t, []) else
    let cells := (List.range n).map (fun j =>
      (cellKey (mxGang e) (mxQsel e) i (c0 + j), t.edgeVal cyc (mxWAddr e + i * mxWPitch e + (c0 + j) * wBytes e) (wBytes e)))
    let put := fun m => cells.foldl (fun m x => tabSet w16D m x.1 (storeWeight e x.2)) m
    let t := t.edgeReads rs l.seq
    let t := if l.own then t.modPass l.seq (fun p => { p with wts := put p.wts }) else { t with wPend := put t.wPend }
    let seq := t.cmdSeq 0
    ({ t with arr := { t.arr with loads := t.arr.loads.map (fun x =>
        if x == l then { x with rows := tabMod natD x.rows q (· + 1) } else x) } },
     (cells.flatMap (fun x => weightEvts e 0 q x.2)).map (fun x => (seq, x)))

/-- Loads that have written every row are done. -/
def Tile.endLoads (t : Tile) : Tile :=
  { t with arr := { t.arr with loads := t.arr.loads.filter (fun l =>
      !((List.range 4).all (fun q => !l.touches q || decide (l.need q ≤ tabGet natD l.rows q)))) } }

/-! ### The cycle -/

/-- Steps with events, one after the other. -/
def runSteps {α : Type} (f : α → Tile → Tile × List (Nat × RnEvt)) (l : List α) (x : Tile × List (Nat × RnEvt)) :
    Tile × List (Nat × RnEvt) :=
  l.foldl (fun x a => let y := f a x.1; (y.1, x.2 ++ y.2)) x

/-- The gang's cells from its bottom right to its top left, so that a slot emptied in a cycle may be filled in it, and
nothing moves twice in one (R39). -/
def cellOrder (m : Nat) : List (Nat × Nat) :=
  ((List.range (gangRows m)).reverse).flatMap (fun i => ((List.range (gangCols m)).reverse).map (fun j => (i, j)))

/-- The feeder and the loader of quarter q, the feeder first, its lower rows first, two entries a row (R38, R45). -/
def Tile.edgeCycle (cyc q : Nat) (t : Tile) : Tile × List (Nat × RnEvt) :=
  let x : Tile × List (Nat × RnEvt) := match feederOf t.gang q with
    | some (g, r0) => runSteps (fun i => Tile.feedRow cyc t.gang g q (r0 + i / 2)) (List.range 128) (t, [])
    | none => (t, [])
  runSteps (fun q => Tile.loadRow cyc q) [q] x

/-- The columns of the four quarters. -/
def quarterCols : List (Nat × Nat) := (List.range 4).flatMap (fun q => (List.range 64).map (fun c => (q, c)))

/-- One mesh cycle of the array: the accumulators take from the column links, the links take from the cells and from the
feeders, the cells execute, and the feeders and the loader read scratch. A cycle whose slot the cap controller withholds
leaves the row links as they are (R43). Nothing happens while no pass and no load is under way. -/
def Tile.arrayCycle (t : Tile) (cyc : Nat) (held : Bool) : Tile :=
  if t.passes.isEmpty && t.arr.loads.isEmpty then t else
  let m := t.gang
  let x := runSteps (fun (c : Nat × Nat) => Tile.accumulate cyc c.1 c.2) quarterCols (t, [])
  let x := (quarterCols.foldl (fun t c => t.linkTake cyc c.1 c.2) x.1, x.2)
  let x := ((List.range 256).foldl (fun t k => t.linkFill cyc k) x.1, x.2)
  let x := (List.range (gangCount m)).foldl
    (fun x g => runSteps (fun (c : Nat × Nat) => Tile.cell held cyc m g c.1 c.2) (cellOrder m) x) x
  let x := runSteps (fun q => Tile.edgeCycle cyc q) [0, 1, 2, 3] x
  x.1.endLoads.rnEventsBy x.2

end Sys2Proof.Machine
end

