-- ==== Sys2Proof/Machine/Crypto.lean ====
section
/-!
DEFINITION. Machine/Crypto.lean: the algorithms that R302, R341 and R342 name by their standards: SHA-384 (FIPS 180-4),
ECDSA over P-384 (FIPS 186-5), AES-128 (FIPS 197), AES-CMAC (NIST SP 800-38B) and AES-SIV (RFC 5297). The standards' texts
are no part of the spec: log 46. Nothing in a proof needs to unfold them.
-/

namespace Sys2Proof.Machine

/-! ### SHA-384 -/

/-- The round constants: the fractions of the cube roots of the first 80 primes. -/
def shaK0 : List Nat :=
  [0x428a2f98d728ae22, 0x7137449123ef65cd, 0xb5c0fbcfec4d3b2f, 0xe9b5dba58189dbbc,
   0x3956c25bf348b538, 0x59f111f1b605d019, 0x923f82a4af194f9b, 0xab1c5ed5da6d8118,
   0xd807aa98a3030242, 0x12835b0145706fbe, 0x243185be4ee4b28c, 0x550c7dc3d5ffb4e2,
   0x72be5d74f27b896f, 0x80deb1fe3b1696b1, 0x9bdc06a725c71235, 0xc19bf174cf692694,
   0xe49b69c19ef14ad2, 0xefbe4786384f25e3, 0x0fc19dc68b8cd5b5, 0x240ca1cc77ac9c65]
def shaK1 : List Nat :=
  [0x2de92c6f592b0275, 0x4a7484aa6ea6e483, 0x5cb0a9dcbd41fbd4, 0x76f988da831153b5,
   0x983e5152ee66dfab, 0xa831c66d2db43210, 0xb00327c898fb213f, 0xbf597fc7beef0ee4,
   0xc6e00bf33da88fc2, 0xd5a79147930aa725, 0x06ca6351e003826f, 0x142929670a0e6e70,
   0x27b70a8546d22ffc, 0x2e1b21385c26c926, 0x4d2c6dfc5ac42aed, 0x53380d139d95b3df,
   0x650a73548baf63de, 0x766a0abb3c77b2a8, 0x81c2c92e47edaee6, 0x92722c851482353b]
def shaK2 : List Nat :=
  [0xa2bfe8a14cf10364, 0xa81a664bbc423001, 0xc24b8b70d0f89791, 0xc76c51a30654be30,
   0xd192e819d6ef5218, 0xd69906245565a910, 0xf40e35855771202a, 0x106aa07032bbd1b8,
   0x19a4c116b8d2d0c8, 0x1e376c085141ab53, 0x2748774cdf8eeb99, 0x34b0bcb5e19b48a8,
   0x391c0cb3c5c95a63, 0x4ed8aa4ae3418acb, 0x5b9cca4f7763e373, 0x682e6ff3d6b2b8a3,
   0x748f82ee5defb2fc, 0x78a5636f43172f60, 0x84c87814a1f0ab72, 0x8cc702081a6439ec]
def shaK3 : List Nat :=
  [0x90befffa23631e28, 0xa4506cebde82bde9, 0xbef9a3f7b2c67915, 0xc67178f2e372532b,
   0xca273eceea26619c, 0xd186b8c721c0c207, 0xeada7dd6cde0eb1e, 0xf57d4f7fee6ed178,
   0x06f067aa72176fba, 0x0a637dc5a2c898a6, 0x113f9804bef90dae, 0x1b710b35131c471b,
   0x28db77f523047d84, 0x32caab7b40c72493, 0x3c9ebe0a15c9bebc, 0x431d67c49c100d4c,
   0x4cc5d4becb3e42b6, 0x597f299cfc657e2a, 0x5fcb6fab3ad6faec, 0x6c44198c4a475817]
def shaK : List Nat := shaK0 ++ shaK1 ++ shaK2 ++ shaK3

/-- The initial hash value of SHA-384. -/
def shaInit : List Nat :=
  [0xcbbb9d5dc1059ed8, 0x629a292a367cd507, 0x9159015a3070dd17, 0x152fecd8f70e5939,
   0x67332667ffc00b31, 0x8eb44a8768581511, 0xdb0c2e0d64f98fa7, 0x47b5481dbefa4fa4]

/-- Rotation of a 64-bit word to the right, and the six functions of FIPS 180-4. -/
def rotr64 (x n : Nat) : Nat := (x >>> n) ||| (x <<< (64 - n)) % 2 ^ 64
def shaBig0 (x : Nat) : Nat := rotr64 x 28 ^^^ rotr64 x 34 ^^^ rotr64 x 39
def shaBig1 (x : Nat) : Nat := rotr64 x 14 ^^^ rotr64 x 18 ^^^ rotr64 x 41
def shaSmall0 (x : Nat) : Nat := rotr64 x 1 ^^^ rotr64 x 8 ^^^ (x >>> 7)
def shaSmall1 (x : Nat) : Nat := rotr64 x 19 ^^^ rotr64 x 61 ^^^ (x >>> 6)
def shaCh (x y z : Nat) : Nat := (x &&& y) ^^^ ((2 ^ 64 - 1 - x) &&& z)
def shaMaj (x y z : Nat) : Nat := (x &&& y) ^^^ (x &&& z) ^^^ (y &&& z)

/-- A number of bytes read most significant first. -/
def natOfBytesBE (l : List Byte) : Nat := l.foldl (fun n b => 256 * n + b.toNat) 0

/-- n bytes of a number, most significant first. -/
def bytesBE (n v : Nat) : List Byte := (bytesOf n v).reverse

/-- The message padded to whole blocks of 128 bytes. -/
def shaPad (m : List Byte) : List Byte :=
  m ++ [0x80] ++ List.replicate ((239 - m.length % 128) % 128) 0 ++ bytesBE 16 (8 * m.length)

/-- The message schedule of a block, newest word first: 16 words of the block, then 64 more. -/
def shaSchedule (block : List Byte) : List Nat :=
  let w := (List.range 16).map (fun i => natOfBytesBE ((block.drop (8 * i)).take 8))
  foldN (fun _ l => ((shaSmall1 (l.getD 1 0) + l.getD 6 0 + shaSmall0 (l.getD 14 0) + l.getD 15 0) % 2 ^ 64) :: l) 64 w.reverse

/-- One round. -/
def shaRound (s : List Nat) (kw : Nat × Nat) : List Nat :=
  match s with
  | [a, b, c, d, e, f, g, h] =>
    let t1 := h + shaBig1 e + shaCh e f g + kw.1 + kw.2
    let t2 := shaBig0 a + shaMaj a b c
    [(t1 + t2) % 2 ^ 64, a, b, c, (d + t1) % 2 ^ 64, e, f, g]
  | _ => s

/-- One block. -/
def shaBlock (s : List Nat) (block : List Byte) : List Nat :=
  let r := (shaK.zip (shaSchedule block).reverse).foldl shaRound s
  s.zipWith (fun a b => (a + b) % 2 ^ 64) r

/-- The blocks of a padded message, in order. -/
def shaBlocks : Nat → List Byte → List Nat → List Nat
  | 0, _, s => s
  | n + 1, m, s => shaBlocks n (m.drop 128) (shaBlock s (m.take 128))

/-- The SHA-384 digest, 48 bytes. -/
def sha384 (m : List Byte) : List Byte :=
  let p := shaPad m
  ((shaBlocks (p.length / 128) p shaInit).take 6).flatMap (bytesBE 8)

/-! ### ECDSA over P-384 -/

/-- The field's prime, the group's order, the curve's b, and the base point. -/
def p384P : Nat := 2 ^ 384 - 2 ^ 128 - 2 ^ 96 + 2 ^ 32 - 1
def p384N : Nat :=
  0xffffffffffffffffffffffffffffffffffffffffffffffffc7634d81f4372ddf581a0db248b0a77aecec196accc52973
def p384B : Nat :=
  0xb3312fa7e23ee7e4988e056be3f82d19181d9c6efe8141120314088f5013875ac656398d8a2ed19d2a85c8edd3ec2aef
def p384G : Nat × Nat :=
  (0xaa87ca22be8b05378eb1c71ef320ad746e1d3b628ba79b9859f741e082542a385502f25dbf55296c3a545e3872760ab7,
   0x3617de4a96262c6f5d9e98bf9292dc29f8f41dbd289a147ce9da3113b5f0b8c00a60b1ce1d7e819d7a431d7c90ea0e5f)

/-- A power modulo m, of an exponent below 2^384, and an inverse modulo a prime. -/
def powMod (b e m : Nat) : Nat :=
  foldN (fun i acc => let a := acc * acc % m; if e.testBit (383 - i) then a * b % m else a) 384 1
def invMod (a m : Nat) : Nat := powMod (a % m) (m - 2) m

/-- The sum of two points; none is the point at infinity. -/
def ecAdd (a b : Option (Nat × Nat)) : Option (Nat × Nat) :=
  match a, b with
  | none, _ => b
  | _, none => a
  | some (x1, y1), some (x2, y2) =>
    if x1 = x2 ∧ (y1 + y2) % p384P = 0 then none else
    let l := if x1 = x2 then (3 * x1 * x1 + (p384P - 3)) * invMod (2 * y1) p384P % p384P
      else (y2 + (p384P - y1)) * invMod (x2 + (p384P - x1)) p384P % p384P
    let x := (l * l + 2 * p384P - x1 - x2) % p384P
    some (x, (l * (x1 + p384P - x) + (p384P - y1)) % p384P)

/-- A multiple of a point, by a number below 2^384. -/
def ecMul (k : Nat) (p : Nat × Nat) : Option (Nat × Nat) :=
  foldN (fun i acc => let d := ecAdd acc acc; if k.testBit (383 - i) then ecAdd d (some p) else d) 384 none

/-- Is a point on the curve? -/
def ecOn (p : Nat × Nat) : Bool :=
  decide (p.1 < p384P) && decide (p.2 < p384P) &&
  p.2 * p.2 % p384P == (p.1 * p.1 * p.1 + (p384P - 3) * p.1 + p384B) % p384P

/-- Does a signature (r, s) of 96 bytes over a message verify under a public key, an uncompressed point of 97 bytes? -/
def ecdsaOk (pub msg sig : List Byte) : Bool :=
  let q := (natOfBytesBE ((pub.drop 1).take 48), natOfBytesBE ((pub.drop 49).take 48))
  let r := natOfBytesBE (sig.take 48)
  let s := natOfBytesBE ((sig.drop 48).take 48)
  let w := invMod s p384N
  pub.length == 97 && pub.getD 0 0 == 0x04 && ecOn q &&
  decide (0 < r) && decide (r < p384N) && decide (0 < s) && decide (s < p384N) &&
  match ecAdd (ecMul (natOfBytesBE (sha384 msg) * w % p384N) p384G) (ecMul (r * w % p384N) q) with
  | some p => p.1 % p384N == r
  | none => false

/-! ### AES-128 -/

/-- Multiplication in GF(2^8) by x, and of two elements. -/
def aesDouble (a : Nat) : Nat := if a.testBit 7 then (2 * a % 256) ^^^ 0x1B else 2 * a
def aesMul (a b : Nat) : Nat := foldN (fun i acc => aesDouble acc ^^^ (if b.testBit (7 - i) then a else 0)) 8 0

/-- The S-box: the inverse a^254, then the affine map. -/
def aesSbox (a : Nat) : Nat :=
  let inv := foldN (fun i acc => let d := aesMul acc acc; if (254 : Nat).testBit (7 - i) then aesMul d a else d) 8 1
  let rot := fun k => ((inv <<< k) ||| (inv >>> (8 - k))) % 256
  inv ^^^ rot 1 ^^^ rot 2 ^^^ rot 3 ^^^ rot 4 ^^^ 0x63

/-- The exclusive or of two lists of numbers. -/
def xorList (a b : List Nat) : List Nat := a.zipWith (· ^^^ ·) b

/-- The next round key of 16 bytes. -/
def aesNextKey (k : List Nat) (rcon : Nat) : List Nat :=
  let t := [aesSbox (k.getD 13 0) ^^^ rcon, aesSbox (k.getD 14 0), aesSbox (k.getD 15 0), aesSbox (k.getD 12 0)]
  let w0 := xorList (k.take 4) t
  let w1 := xorList ((k.drop 4).take 4) w0
  let w2 := xorList ((k.drop 8).take 4) w1
  w0 ++ w1 ++ w2 ++ xorList (k.drop 12) w2

/-- SubBytes with ShiftRows, and MixColumns, on a state of 16 bytes in column order. -/
def aesSubShift (s : List Nat) : List Nat := (List.range 16).map (fun i => aesSbox (s.getD (5 * i % 16) 0))
def aesMix (s : List Nat) : List Nat :=
  (List.range 16).map (fun i =>
    let at_ := fun k => s.getD (4 * (i / 4) + (i + k) % 4) 0
    aesDouble (at_ 0) ^^^ aesDouble (at_ 1) ^^^ at_ 1 ^^^ at_ 2 ^^^ at_ 3)

/-- The rounds from the first to the last: the state, the round key and the round constant. -/
def aesRounds (key block : List Nat) : List Nat × List Nat × Nat :=
  foldN (fun i r =>
    let k := aesNextKey r.2.1 r.2.2
    let s := aesSubShift r.1
    (xorList (if i = 9 then s else aesMix s) k, k, aesDouble r.2.2)) 10 (xorList block key, key, 1)

/-- A block of 16 bytes enciphered under a key of 16. -/
def aes128 (key block : List Nat) : List Nat := (aesRounds key block).1

/-! ### AES-CMAC and AES-SIV -/

/-- A block of 16 bytes as a number, most significant byte first, and back. -/
def blockNat (l : List Nat) : Nat := l.foldl (fun n b => 256 * n + b) 0
def natBlock (v : Nat) : List Nat := (List.range 16).map (fun i => v >>> (8 * (15 - i)) % 256)

/-- Doubling in GF(2^128). -/
def dbl128 (v : Nat) : Nat := if v.testBit 127 then (2 * v % 2 ^ 128) ^^^ 0x87 else 2 * v

/-- The chain over whole blocks before the last. -/
def cmacChain (key : List Nat) : Nat → List Nat → List Nat → List Nat
  | 0, _, c => c
  | n + 1, m, c => cmacChain key n (m.drop 16) (aes128 key (xorList c (m.take 16)))

/-- AES-CMAC of a message, as a number of 128 bits. -/
def aesCmac (key msg : List Nat) : Nat :=
  let k1 := dbl128 (blockNat (aes128 key (List.replicate 16 0)))
  let n := (msg.length + 15) / 16 - 1
  let last := msg.drop (16 * n)
  let last := if last.length = 16 then xorList last (natBlock k1)
    else xorList ((last ++ [0x80] ++ List.replicate 15 0).take 16) (natBlock (dbl128 k1))
  blockNat (aes128 key (xorList (cmacChain key n msg (List.replicate 16 0)) last))

/-- AEAD_AES_SIV_CMAC_256 without associated data, of 32 bytes: the 16 bytes under a key of 32, or nothing when the
authentication fails. -/
def sivOpen (kek wrapped : List Byte) : Option (BitVec 128) :=
  let key := kek.map BitVec.toNat
  let v := blockNat ((wrapped.take 16).map BitVec.toNat)
  let q := v &&& (2 ^ 128 - 1 - 2 ^ 63 - 2 ^ 31)
  let plain := xorList ((wrapped.drop 16).map BitVec.toNat) (aes128 (key.drop 16) (natBlock q))
  let d := aesCmac (key.take 16) (List.replicate 16 0)
  if aesCmac (key.take 16) (natBlock (blockNat plain ^^^ d)) = v then some (BitVec.ofNat 128 (blockNat plain)) else none

/-- The 64-bit tag of a message under a group key: the first 64 bits of its AES-CMAC (R342). -/
def cmacTag (key : BitVec 128) (msg : List Byte) : DWord :=
  BitVec.ofNat 64 (aesCmac (natBlock key.toNat) (msg.map BitVec.toNat) / 2 ^ 64)

end Sys2Proof.Machine
end

