-- ==== Sys2Proof/Machine/ChipState.lean ====
section
/-!
DEFINITION. Machine/ChipState.lean: the state of partitions, and of the units that serve the whole chip, as plain
data.
-/

namespace Sys2Proof.Machine

/-- A remote SEM_SIGNAL on its way (R112, R116). -/
structure Signal where
  src    : Nat
  engine : Nat
  tile   : Nat
  sem    : Nat
  n      : Nat
  left   : Nat              -- the mesh cycle in which it left
  deriving DecidableEq, Repr

/-- A request taken and not yet responded to (R314): its 16 words, whether the pair rules already let it start, and how
far a command of several steps has come. `aux` holds what its first steps have to remember. -/
structure Taken where
  words : List Word
  stage : Nat
  aux   : List Nat
  deriving DecidableEq, Repr

/-- The trace set-up of a pair (R328, TRACE_CFG): enabled points, host buffer and its size in bytes (0: off). -/
structure TraceCfg where
  points : BitVec 256
  addr   : Nat
  size   : Nat
  deriving DecidableEq, Repr

/-- One mailbox pair (R309 to R315). Its window (Table 11.4), slots and log ring included, lies in `regs`. -/
structure Pair where
  regs     : Tab Word
  latch    : Tab (Option Word)
  taken    : List Taken
  logLevel : Tab Nat                -- the least severity logged, by source (LOG_LEVEL)
  trace    : TraceCfg
  irqPend  : BitVec 2               -- interrupts waiting under COALESCE, by vector
  irqCount : Tab Nat                -- MSI-X interrupts sent, by vector
  rspWait  : List (List Word)       -- responses that wait for room in the ring (R313)
  deriving DecidableEq, Repr

/-- Default of a pair's registers. -/
def mbRegD : Nat → Word := regReset mbRegs

/-- A pair at reset. -/
def Pair.reset : Pair :=
  { regs := [], latch := [], taken := [], logLevel := [], trace := ⟨0, 0, 0⟩, irqPend := 0, irqCount := [], rspWait := [] }

/-- A register of a pair, and a pair with a register or a field set. -/
def Pair.reg (p : Pair) (o : Nat) : Word := tabGet mbRegD p.regs o
def Pair.setReg (p : Pair) (o : Nat) (v : Word) : Pair := { p with regs := tabSet mbRegD p.regs o v }
def Pair.f (p : Pair) (o hi lo : Nat) : Nat := fld (p.reg o) hi lo
def Pair.setF (p : Pair) (o hi lo v : Nat) : Pair := p.setReg o (setFld (p.reg o) hi lo v)

/-- Words written at consecutive offsets. -/
def Pair.setWords (p : Pair) : Nat → List Word → Pair
  | _, [] => p
  | o, w :: l => (p.setReg o w).setWords (o + 4) l

/-- A window of 1 ms in which like log events are withheld (R327); `at_` is the chip time of its record. -/
structure LogWin where
  at_   : Nat
  code  : Nat
  src   : Nat
  part  : Nat
  sev   : Nat
  tag   : Nat
  count : Nat
  args  : List Word
  deriving DecidableEq, Repr

/-- A write that the PCI Express interface accepted and has not performed (R171, R172): the order of its acceptance,
its function, chip address, bytes and Relaxed Ordering attribute. -/
structure Ingress where
  id      : Nat
  vf      : Nat
  addr    : Nat
  bytes   : List Byte
  relaxed : Bool
  deriving DecidableEq, Repr

/-- A BAR2 read that waits: its order among the accepted writes, its function, chip address and length (R153, R171). -/
structure HostRead where
  after : Nat               -- ingress writes accepted before it
  vf    : Nat
  addr  : Nat
  len   : Nat
  deriving DecidableEq, Repr

/-- Where a packet on the tile mesh goes: to a tile, or out of the mesh at column 0 or column 31 of a row, where the
fabric interface joins it (R20). -/
inductive MeshDest
  | tile (t : Nat)
  | fabric (row : Nat) (east : Bool)
  deriving DecidableEq, Repr

/-- The buffer of a mesh node that holds a packet: 0 for one that starts there, else the port it came in by, 1 north,
2 east, 3 south, 4 west. -/
abbrev MeshPort := Nat

/-- A Ladle transaction's request or response on the tile mesh (R20, R127, R154): the Ladle's tile and transaction, the
virtual channel, where it goes, where it is, and the first mesh cycle in which it may move on. -/
structure MeshPkt where
  tile : Nat
  txn  : Nat
  resp : Bool
  dest : MeshDest
  node : Nat
  port : MeshPort
  due  : Nat
  deriving DecidableEq, Repr

/-- Who holds a fabric tag (R246). -/
inductive TagUse
  | ladle (tile txn : Nat)
  | coll (part group nb slot : Nat)     -- for the fragment in this slot of a ring neighbour
  deriving DecidableEq, Repr

/-- A transaction from another chip that was performed (R247): source, tag and issue time, and the chip time. -/
structure Performed where
  src   : Nat
  tag   : Nat
  issue : Nat
  time  : Nat
  deriving DecidableEq, Repr

/-- A Ladle packet that arrived and waits: the order of its acceptance among the ingress's writes (R172), chip time at its
arrival, and the packet. -/
structure Arrival where
  id  : Nat
  at_ : Nat
  pkt : Packet
  deriving DecidableEq, Repr

/-- A fabric port (R227 to R254). Its registers (Table 9.8) lie in `regs`. -/
structure Port where
  regs     : Tab Word
  latch    : Tab (Option Word)
  seen     : Bool               -- a partner's signal has been seen in this training (R233)
  retry    : Bool               -- the training timed out and has yet to start again
  asking   : Bool               -- a LEAD_REQ is outstanding (R235)
  backoff  : Option Nat         -- the backoff drawn, in µs (R236)
  pendRole : Nat                -- the role to take at the leader's next heartbeat, 0 for none (R235)
  pStratum : Nat                -- the partner's latest stratum
  hbSeq    : Nat                -- the next heartbeat's sequence number
  hbOut    : Option Heartbeat   -- the latest heartbeat sent
  hbIn     : Option Nat         -- chip time of the latest valid heartbeat
  alive    : Nat                -- 2 ns ticks at the latest valid heartbeat, or as the link came up (R238)
  want     : Nat                -- FORCE_LEAD and DEGRADE_OK as the training began
  lanes    : Nat                -- the lanes in use, as a mask
  hbHeld   : Option (Int × Int)     -- T_TX of the partner's latest heartbeat, and chip time at its arrival (R406)
  hbSent   : Option (Int × Int × Int) -- t₁, t₂ and t₃ of the exchange that the latest heartbeat sent began
  offs     : List Int           -- twice the offset of the latest valid exchanges, newest first, at most 16
  txSeq    : Nat                -- sequence number of the next flit (R241)
  rxSeq    : Nat                -- highest sequence number received in order
  replay   : List Flit          -- flits sent and not acknowledged, oldest first
  replays  : Nat                -- how often the oldest was resent
  uncorr   : Nat                -- consecutive uncorrectable codewords
  used     : Tab Nat            -- credits spent, keyed by 2 · VC + dateline class (R244)
  owed     : Tab Nat            -- credits to return, keyed by VC
  txq      : List Flit          -- flits waiting for this output
  rxq      : List Flit          -- flits taken from the link and not yet routed
  wire     : Option (Flit × Word)   -- the latest flit sent, with its CRC
  ctl      : List Nat           -- chip times of the VC 0 flits of the latest µs (R242)
  turn     : Nat                -- flit times into a round of 16 (R224, R242)
  dense    : Nat                -- VC 1 flits of this round
  wColl    : Nat                -- what the two weighted classes have left of their weights
  wLadle   : Nat
  downs    : List Nat           -- chip times of the latest downs (R240)
  deriving DecidableEq, Repr

/-- Default of a port's registers. -/
def portRegD : Nat → Word := regReset portRegs

/-- A port at reset. -/
def Port.reset : Port :=
  { regs := [], latch := [], seen := false, retry := false, asking := false, backoff := none, pendRole := 0,
    pStratum := 255, hbSeq := 0, hbOut := none, hbIn := none, alive := 0, want := 0, lanes := 0, hbHeld := none, hbSent := none, offs := [], txSeq := 0, rxSeq := 4095, replay := [],
    replays := 0, uncorr := 0, used := [], owed := [], txq := [], rxq := [], wire := none, ctl := [], turn := 0, dense := 0, wColl := 0, wLadle := 0, downs := [] }

/-- A register of a port, and a port with a register or a field set. -/
def Port.reg (p : Port) (o : Nat) : Word := tabGet portRegD p.regs o
def Port.setReg (p : Port) (o : Nat) (v : Word) : Port := { p with regs := tabSet portRegD p.regs o v }
def Port.f (p : Port) (o hi lo : Nat) : Nat := fld (p.reg o) hi lo
def Port.setF (p : Port) (o hi lo v : Nat) : Port := p.setReg o (setFld (p.reg o) hi lo v)
def Port.count (p : Port) (o n : Nat) : Port := p.setReg o (BitVec.ofNat 32 (satAdd 0xFFFFFFFF (p.reg o).toNat n))

/-- Zeroing of regions of an allocation unit's Pail (R153): bit r for region r, and the mesh cycle it began in. -/
structure Zeroing where
  regions : Nat
  start   : Nat
  deriving DecidableEq, Repr

/-- No unit is being zeroed. -/
def zeroingD : Nat → Option Zeroing := fun _ => none

/-- A queued collective post (R258): the descriptor's 16 words, the posting tile, and the mesh cycle. `bad` marks a
rejected post whose group's sequence number has to be aborted once those ahead of it have ended (R262). `snap` is what the
source held at the post (R259). -/
structure Post where
  words : List Word
  tile  : Nat
  cyc   : Nat
  bad   : Bool
  snap  : List Byte
  deriving DecidableEq, Repr

/-- A fragment slot of the engine's pool that has been granted (R273): to which collective's neighbour. One that has been
withdrawn is not granted again before its collective has ended (log 41). -/
structure SlotUse where
  part  : Nat
  group : Nat
  nb    : Nat
  live  : Bool
  deriving DecidableEq, Repr

/-- No slot is granted. -/
def slotD : Nat → Option SlotUse := fun _ => none

/-- A fragment on its way in (R273): its slot, its header once flit 0 has come, and the flits by index. -/
structure FragIn where
  slot  : Nat
  hdr   : Option FragHdr
  flits : List (Nat × List Byte)
  deriving DecidableEq, Repr

/-- A fragment that waits for a grant of neighbour `nb` (R274). -/
structure FragOut where
  nb   : Nat
  hdr  : FragHdr
  data : List Byte
  deriving DecidableEq, Repr

/-- A collective in progress (R263, R279 to R286, R292). Neighbours are numbered 2 · axis + (1 for −). Times are the
engine's: chip time without the stops of the mesh clock (R289, R399). -/
structure Ctx where
  words   : List Word
  tile    : Nat
  holds   : Bool                -- holds one of the 32 contexts
  bad     : Bool                -- aborts the sequence number of a rejected post (R262)
  snap    : List Byte           -- the source as it stood at the post (R259)
  seq     : Nat
  st      : Nat                 -- Table 10.10
  start   : Nat                 -- time at ENTRY
  heard   : Nat                 -- time of the latest fragment, grant or notice
  entryMs : Nat                 -- COLL_TMO as the collective began
  progUs  : Nat
  dense   : Nat                 -- of a collective marked dense, COLL_DENSE_CFG.AXIS as it began, and SHARE; else 3
  share   : Nat
  matched : List Nat            -- neighbours whose signatures matched
  jflags  : Nat
  counts  : Tab Nat             -- ALL_GATHERV counts, plus 1, by rank
  ranks   : List Nat            -- BARRIER: ranks whose arrivals have come
  flags   : BitVec 3            -- OVF, NONFIN, DROP
  stage   : Option Nat          -- the stage of the schedule (R266, R277), none before the first
  got     : List (Nat × Nat × Nat)  -- fragments of this stage taken in: ring, step and position in the segment
  work    : Tab (List Byte)     -- wire bytes held, keyed by unit of elements or by place in a contribution
  fragsIn : List FragIn
  outQ    : List FragOut
  slots   : List (Nat × Nat)    -- fragment slots granted to this member and not yet used: neighbour and slot
  best    : Option (Nat × Nat)  -- the least (code, origin) seen
  causes  : List (Nat × Nat)
  abortAt : Nat
  deriving DecidableEq, Repr

/-- An abort notice held for a sequence number not yet reached (R286). -/
structure HeldNotice where
  nb     : Nat
  seq    : Nat
  code   : Nat
  origin : Nat
  deriving DecidableEq, Repr

/-- What a group slot holds for collectives not yet posted (R279, R286). -/
structure Held where
  sigs    : List (Nat × Signature × Bool)     -- neighbour, signature, and whether its tag passed
  notices : List HeldNotice
  deriving DecidableEq, Repr

/-- Nothing is held. -/
def Held.none : Held := ⟨[], []⟩

/-- One partition. Its registers (Table 16.2) lie in `regs`. -/
structure Part where
  regs   : Tab Word
  latch  : Tab (Option Word)
  barGen : Tab Nat                  -- generations released, keyed by barrier; GEN is this modulo 256 (R115)
  postQ  : List Post                -- oldest first
  ctxs   : Tab (Option Ctx)         -- keyed by group
  held   : Tab Held                 -- keyed by group
  keys   : Tab (BitVec 128)         -- partition keys by slot (R341)
  deriving DecidableEq, Repr

/-- Defaults of a partition's tables. -/
def ctxD : Nat → Option Ctx := fun _ => none
def heldD : Nat → Held := fun _ => .none
def bytesD : Nat → List Byte := fun _ => []
def keyD : Nat → BitVec 128 := fun _ => 0

/-- Default of a partition's registers. -/
def partRegD : Nat → Word := regReset partRegs

/-- A partition at reset. -/
def Part.reset : Part :=
  { regs := [], latch := [], barGen := [], postQ := [], ctxs := [], held := [], keys := [] }

/-- A register of a partition. -/
def Part.reg (p : Part) (o : Nat) : Word := tabGet partRegD p.regs o

/-- A partition with a register set. -/
def Part.setReg (p : Part) (o : Nat) (v : Word) : Part := { p with regs := tabSet partRegD p.regs o v }

/-- A field of a partition register. -/
def Part.f (p : Part) (o hi lo : Nat) : Nat := fld (p.reg o) hi lo

/-- A partition with a register field set. -/
def Part.setF (p : Part) (o hi lo v : Nat) : Part := p.setReg o (setFld (p.reg o) hi lo v)

/-- A saturating counter field. -/
def Part.count (p : Part) (o hi lo n : Nat) : Part := p.setF o hi lo (satAdd (2 ^ (hi + 1 - lo) - 1) (p.f o hi lo) n)

end Sys2Proof.Machine
end

