-- ==== Sys2Proof/Machine/SysState.lean ====
section
/-!
DEFINITION. Machine/SysState.lean: the state of power delivery, the cap controller, cooling, firmware, contexts and the
management interfaces, as plain data.
-/

namespace Sys2Proof.Machine

/-! ### Partitions: phases, contexts, resets -/

/-- Phase timing of a partition (R209, R377) and what the budget loop keeps about it (R376, R379). -/
structure PhaseRun where
  marks    : List (Nat × Nat × Nat)   -- markers written and not applied: mesh cycle, tile, phase
  stepOn   : Bool                     -- a step has begun
  since    : Nat                      -- chip time in 16 ns units when the phase was entered
  stepAt   : Nat                      -- the same for the step
  sums     : Tab Nat                  -- time in each phase in this step
  hist     : List (List Nat)          -- the sums of the latest steps since the clear, newest first, at most 16
  ended    : Nat × List (List Nat)    -- the latest mesh cycle in which a step ended, and the sums of its steps
  tickPh   : Nat                      -- the phase at the start of the budget tick
  moved    : Bool                     -- the phase changed since then
  grants   : Nat                      -- sum over the slew ticks of this budget tick of the tiles' grants
  samples  : Nat                      -- slew ticks in this budget tick
  deriving DecidableEq, Repr

/-- Before any marker: the idle phase. -/
def PhaseRun.reset : PhaseRun :=
  { marks := [], stepOn := false, since := 0, stepAt := 0, sums := [], hist := [], ended := (0, []), tickPh := 4, moved := false,
    grants := 0, samples := 0 }

/-- A launch that runs (R321): its request, the mesh cycle of its start, and each exited tile's code, plus 1. -/
structure LaunchRun where
  words : List Word
  start : Nat
  exits : Tab Nat
  deriving DecidableEq, Repr

/-- A context (R320 to R325). `saved` is the slot and the origin of its saved images, `stored` the registers that each
image holds in the area whose layout no rule gives, keyed by position within the context. -/
structure SvcCtx where
  rows    : Nat
  cols    : Nat
  preempt : Bool
  rotate  : Bool
  prio    : Nat
  rotVat  : Nat
  fixed   : Option Nat
  origin  : Option Nat
  saved   : Option (Nat × Nat)
  stored  : Tab (List Word)
  stops   : Tab Nat                  -- the STOP bits of each tile when a save began
  launch  : Option LaunchRun
  lastQ   : Nat                      -- the queue whose launch ran last
  waiting : Bool                     -- it is to be placed when it can be (R320, R324)
  stopping : Bool                    -- its queues are being stopped for a turn of another context (R324)
  placedAt : Nat                     -- chip time of the latest placement
  deriving DecidableEq, Repr

/-- A launch queue. -/
structure LaunchQ where
  ctx  : Nat
  prio : Nat
  deriving DecidableEq, Repr

/-- Defaults. -/
def svcCtxD : Nat → Option SvcCtx := fun _ => none
def launchQD : Nat → Option LaunchQ := fun _ => none
def wordsD : Nat → List Word := fun _ => []

/-- What Service keeps for a partition (R320, R324, R325). -/
structure SvcPart where
  ctxs     : Tab (Option SvcCtx)
  queues   : Tab (Option LaunchQ)
  sliceMs  : Nat
  rotMs    : Nat
  rotThr   : Nat                     -- in 0.1 K
  rotOff   : Bool
  deriving DecidableEq, Repr

/-- The values at reset. -/
def SvcPart.reset : SvcPart := ⟨[], [], 50, 100, 40, false⟩

/-- A partition reset or destroy in progress (R182, R343, R344): step 0 for none, 1 while memory traffic drains, 2 while
the units are zeroed. -/
structure ResetRun where
  step    : Nat
  keepVat : Bool
  destroy : Bool
  start   : Nat                      -- chip time of the trigger
  logged  : Bool                     -- a step over its bound has been logged
  words   : List Word                -- the request
  deriving DecidableEq, Repr

/-- No reset is in progress. -/
def ResetRun.none : ResetRun := ⟨0, false, false, 0, false, []⟩

/-- Phases, Service's records and the reset of a partition. -/
structure PartSys where
  ph  : PhaseRun
  svc : SvcPart
  rst : ResetRun
  deriving DecidableEq, Repr

/-- The values at reset. -/
def PartSys.reset : PartSys := ⟨.reset, .reset, .none⟩

/-- Default of the table of these. -/
def partSysD : Nat → PartSys := fun _ => .reset

/-! ### Power delivery (R350 to R370), clocks and pins -/

/-- How far the device's own start-up has come (R360, R361, R364, R401). -/
inductive PowerStage
  | off        -- VAON is down
  | waiting    -- VAON is up; the trigger of Table 13.3 has not come
  | osc        -- step 1: the oscillator is enabled
  | bus        -- group 1 ramps
  | vctl       -- group 2 ramps
  | rom        -- VCTL is ready
  | held       -- held until RESET_N or a power cycle
  deriving DecidableEq, Repr

/-- A change of the mesh frequency (R399). -/
inductive MeshChange
  | none
  | locking (mhz : Nat)      -- steps 1 and 2
  | falling (mhz : Nat)      -- step 4: the rails move down
  deriving DecidableEq, Repr

/-- Power, clocks and pins. -/
structure Power where
  stage     : PowerStage
  resetLow  : Bool                   -- RESET_N is asserted
  ready     : Nat                    -- the latest group that reported ready
  meshOn    : Bool                   -- the mesh clock runs
  oscReady  : Bool                   -- OSC is ready, and not lost since
  timeOn    : Bool                   -- OSC has been ready since VAON started: chip time runs (R403)
  blockOpen : Bool                   -- the input blocking switch is open
  busLow    : Bool                   -- the backstop withholds every issue slot
  suspects  : List Nat               -- rails marked since start-up
  runFrac   : Tab Nat                -- R_run in 2^-12 µΩ, keyed by rail
  change    : MeshChange
  nextMhz   : Option Nat             -- a request that waits for the change to end
  pgood     : Bool                   -- PGOOD is driven high
  faultN    : Bool                   -- FAULT_N is asserted
  thermtripN : Bool                  -- THERMTRIP_N is asserted
  straps    : Nat
  linkDown  : Bool                   -- the host link has gone down (MB_ALERT cause 8)
  deriving DecidableEq, Repr

/-- Before VAON starts. -/
def Power.reset : Power :=
  { stage := .off, resetLow := true, ready := 0, meshOn := false, oscReady := false, timeOn := false, blockOpen := false,
    busLow := false, suspects := [], runFrac := [], change := .none, nextMhz := none, pgood := false, faultN := false,
    thermtripN := false, straps := 0, linkDown := false }

/-! ### Cap controller, temperatures and cooling (R371 to R391) -/

/-- The cycle counter of one source (R390). -/
structure CycRun where
  on     : Bool
  up     : Bool
  peak   : Nat
  valley : Nat
  deriving DecidableEq, Repr

/-- Before start-up. -/
def CycRun.reset : CycRun := ⟨false, true, 0, 0⟩

/-- Default. -/
def cycRunD : Nat → CycRun := fun _ => .reset

/-- The loops' own state. -/
structure Cap where
  bucket   : Nat                     -- E in pJ (R375)
  lastSum  : Nat                     -- the sum of D × N of the latest interval, mW in 64ths (R374)
  pinHist  : List Nat                -- 10 µs means of the input power in mW, newest first, at most 100
  duties   : List Nat                -- the latest valid duty values, in per mille × 2^20, at most 16
  badRun   : Nat                     -- consecutive invalid periods
  goodRun  : Nat                     -- valid periods since the pair was lost
  pinLost  : Bool
  i3cLost  : Bool
  pinAt    : Nat                     -- chip time of the latest valid period, of the latest I3C request, and of the loss
  i3cAt    : Nat                     -- of the selected source
  lostAt   : Nat
  lostOn   : Bool                    -- the selected source is lost, whatever ALERT_CLR did to the LOST flag
  expired  : Bool                    -- HOLD_MS has passed since the selected source was lost
  fails    : Tab Nat                 -- consecutive failed readings of a sensor
  paused   : Bool                    -- the heat calculation waits for every sensor to read again
  heatHist : List Int                -- Q of the latest readings in 1/24,576,000 W, at most 60
  pkgHist  : List Nat                -- P of the latest readings in mW, at most 60
  lowRatio : Nat                     -- consecutive readings below RATIO_MIN, above RTH_MAX, below FLOW_MIN,
  highRth  : Nat                     -- above OUT_MAX
  lowFlow  : Nat
  highOut  : Nat
  cycs     : Tab CycRun              -- keyed by source
  deriving DecidableEq, Repr

/-- At reset: the bucket is full. -/
def Cap.reset : Cap :=
  { bucket := 15000 * 10 ^ 6, lastSum := 0, pinHist := [], duties := [], badRun := 0, goodRun := 0, pinLost := false,
    i3cLost := false, pinAt := 0, i3cAt := 0, lostAt := 0, lostOn := false, expired := false, fails := [], paused := false, heatHist := [], pkgHist := [], lowRatio := 0,
    highRth := 0, lowFlow := 0, highOut := 0, cycs := [] }

/-! ### Firmware and the non-volatile store (R297 to R306, R368, R391) -/

/-- A suspect record in the non-volatile store (R368). -/
structure Suspect where
  rail : Nat
  base : Nat
  run  : Nat
  time : Nat
  deriving DecidableEq, Repr

/-- Control-complex memory, fuse counters and the non-volatile store. Each of the four regions of R297 holds at most 32
MiB: the kept bundle, the staged one, and the image that each part of the firmware runs. -/
structure Fw where
  kept     : List Byte               -- the kept bundle
  rootRun  : List Byte               -- the image that Root runs, in its working region
  svcRun   : List Byte               -- the image that Service runs, in its own
  sets     : List (Option Nat)       -- the partition whose window set each of SC0 to SC3 holds (R299)
  pairTurn : Nat                     -- the partition whose pair Service took a command from last
  rootNext : Bool                    -- its Root image takes effect at the next DEVICE_RESET
  staged   : Option (List Byte)
  svnRoot  : Nat                     -- the fused counts
  svnSvc   : Nat
  down     : Bool                    -- Service is being restarted
  activate : Option (List Word)      -- an FW_ACTIVATE that waits
  activateAt : Nat
  deviceReset : Option Bool          -- a device reset is due after its response; whether a new bundle is awaited
  powerDown : Nat                    -- an orderly power-down: 1 queues stop, 2 traffic drains, 3 the rails are to fall
  rootSec  : Nat                     -- security version and key slot of the running Root and Service images
  rootSlot : Nat
  svcSec   : Nat
  svcSlot  : Nat
  nvCycles : List (List Word)        -- the two copies of the record of Table 14.4, newer first
  nvWrites : Nat
  suspects : List Suspect
  irqRoot  : Nat                     -- interrupts raised to Root, and to Service (R239, R284)
  irqSvc   : Nat
  deriving DecidableEq, Repr

/-- A part that has never booted. -/
def Fw.reset : Fw :=
  { kept := [], rootRun := [], svcRun := [], sets := List.replicate 4 none, pairTurn := 15, rootNext := false, staged := none, svnRoot := 0, svnSvc := 0, down := false, activate := none,
    activateAt := 0, deviceReset := none, powerDown := 0, rootSec := 0, rootSlot := 0, svcSec := 0, svcSlot := 0, nvCycles := [List.replicate 12 0, List.replicate 12 0], nvWrites := 0, suspects := [], irqRoot := 0, irqSvc := 0 }

/-! ### Management, sensors, console, JTAG, telemetry (R421 to R433) -/

/-- A sensor reading in progress (R426 to R428): the next sensor, that sensor's arbitration losses, and the values read. -/
structure Reading where
  sensor : Nat
  losses : Nat
  vals   : List (Option Int)
  deriving DecidableEq, Repr

/-- An answer of Root on the console (R431). -/
inductive ConsoleAnswer
  | status (boot cause : Word)
  | log (records : List (List Word))
  deriving DecidableEq, Repr

/-- A line of the console's output: a boot stage of the ROM, a log record's code, source, partition, severity and count of
repeats, or the count of lines that could not be sent (R431). -/
inductive ConsoleLine
  | stage (n : Nat)
  | record (code src part sev rep : Nat)
  | skipped (n : Nat)
  deriving DecidableEq, Repr

/-- The console's output: the lines sent, oldest first, and how many could not be sent since. -/
structure Console where
  lines  : List ConsoleLine
  unsent : Nat
  deriving DecidableEq, Repr

/-- The interfaces' state. -/
structure Mgmt where
  reply   : Option (List Byte)       -- the target's latest answer; none for a NACK
  pec     : Option Byte              -- in I2C mode, what one byte beyond it reads: the Packet Error Check (R421)
  ibis    : List (Nat × Nat)         -- in-band interrupts sent: mandatory byte and data byte, oldest first
  reading : Option Reading
  line    : List Byte                -- console input since the last CR
  answers : List ConsoleAnswer       -- console answers, oldest first
  jtag    : JtagIr
  scan    : Bool                     -- a boundary-scan instruction acts (STAGE 0)
  sample  : List Word                -- the chip fields of the latest telemetry sample (Table 16.4)
  sampleTime : Nat
  tiles   : Tab (List Nat)           -- its tile entries
  deriving DecidableEq, Repr

/-- Default of the tile entries. -/
def natsD : Nat → List Nat := fun _ => []

/-- At reset. -/
def Mgmt.reset : Mgmt :=
  { reply := none, pec := none, ibis := [], reading := none, line := [], answers := [], jtag := .idcode, scan := false,
    sample := [], sampleTime := 0, tiles := [] }

end Sys2Proof.Machine
end

