-- ==== Sys2Proof/Machine/State.lean ====
section
/-!
DEFINITION. Machine/State.lean: the state of the device, its reset, and the reasons a step can stop.
-/

namespace Sys2Proof.Machine

/-- Faults: no event of this device stops the model with one. Every error the spec describes is state: a fault record,
a log record, a response, a flag. -/
inductive Fault
  /-- A pending command that no event of the table can carry out; raised by nothing (safe). -/
  | none
  deriving DecidableEq, Repr

/-- Refusals. -/
inductive Refusal
  /-- A row of the table without a meaning; raised by exec's arms of rows that are not modelled yet (safe). -/
  | notModelled (mnemonic : String)
  deriving DecidableEq, Repr

/-- The state of the device. -/
structure State where
  pending  : List Instr
  tiles    : Tab Tile
  parts    : Tab Part
  chip     : Tab Word               -- the chip register block
  chipLatch : Tab (Option Word)
  pairs    : Tab Pair
  logWins  : List LogWin
  timeAcc  : Nat                    -- native chip time in units of 2^-32 ns, 96 bits (R403)
  ticks    : Nat                    -- 2 ns ticks since OSC was first ready; the 50 MHz counter is a tenth (R409)
  signals  : List Signal            -- remote signals on their way, oldest first
  zeroing  : Tab (Option Zeroing)   -- Pail regions being zeroed, keyed by allocation unit (R153)
  mem      : List Host.Cell         -- Vat and Pail bytes in home order, keyed by chip address (R134, R162)
  hostMem  : List Host.Cell         -- host memory, the environment's
  ingressIn : Nat                   -- ingress writes accepted so far, from either source (R172)
  ingressQ : List Ingress           -- host writes accepted and not performed, oldest first
  readQ    : List HostRead          -- host reads that wait, oldest first (R153, R171)
  homeGot  : List (Nat × List Byte × Bool)  -- sectors read so far for the access in service at a home
  mesh     : List MeshPkt           -- the tile mesh, each buffer in arrival order (R127)
  ports    : Tab Port
  arrivals : List Arrival           -- Ladle packets that arrived for this chip, oldest first
  tags     : List (Nat × TagUse)    -- fabric tags held (R246)
  tagQ     : List (Nat × Nat)       -- Ladle transactions (tile, id) that wait for a tag, in arrival order
  recent   : List Performed         -- transactions performed in the last 50 µs (R247)
  pool     : Tab (Option SlotUse)   -- the collective engine's fragment slots (R273)
  meshStop : Nat                    -- chip time in ns for which the mesh clock has been stopped by its changes (R399)
  fabGen   : DWord                  -- the fabric's generator (R236)
  gmSet    : Bool                   -- the chip has been set as grandmaster since OSC became ready (R405)
  syncRun  : Nat                    -- consecutive mean offsets within 500 ns (R408)
  syncAt   : Nat                    -- the 2 ns tick of the latest valid exchange on an upstream port (R408)
  partSys  : Tab PartSys            -- phases, contexts and resets of the partitions
  power    : Power
  cap      : Cap
  fw       : Fw
  mgmt     : Mgmt
  console  : Console                -- what the console has printed (R431)
  hostRead : Option (List Byte)     -- what the latest register or BAR2 read returned, low byte first
  hostUr   : Bool                   -- it completed with the status Unsupported Request (R182)
  freeCount : Nat                   -- the model's own: how many free values have been taken (log 14)
  deriving DecidableEq, Repr

/-- Defaults of the state's tables. -/
def tileD : Nat → Tile := fun _ => .reset
def partD : Nat → Part := fun _ => .reset
def pairD : Nat → Pair := fun _ => .reset
def portD : Nat → Port := fun _ => .reset
def chipRegD : Nat → Word := regReset chipRegs

/-- The device before its VAON rail starts: every function disabled, every register at its reset value (R17). What no rule
states of it is in log 1, and what memory that nothing has written reads as in log 2. -/
def State.reset : State :=
  { pending := [], tiles := [], parts := [], chip := [], chipLatch := [], pairs := [], logWins := [], timeAcc := 0, ticks := 0, signals := [], zeroing := [], mem := [], hostMem := [],
    ingressIn := 0, ingressQ := [], readQ := [], homeGot := [], mesh := [], ports := [], arrivals := [], tags := [], tagQ := [], recent := [], pool := [], meshStop := 0, fabGen := 0, gmSet := false, syncRun := 0, syncAt := 0, partSys := [], power := .reset, cap := .reset, fw := .reset, mgmt := .reset, console := ⟨[], 0⟩, hostRead := none, hostUr := false, freeCount := 0 }

/-- A tile, a partition, a chip register. -/
def State.tile (s : State) (t : Nat) : Tile := tabGet tileD s.tiles t
def State.part (s : State) (n : Nat) : Part := tabGet partD s.parts n
def State.sys (s : State) (n : Nat) : PartSys := tabGet partSysD s.partSys n
def State.pair (s : State) (p : Nat) : Pair := tabGet pairD s.pairs p
def State.port (s : State) (p : Nat) : Port := tabGet portD s.ports p
def State.reg (s : State) (o : Nat) : Word := tabGet chipRegD s.chip o
def State.f (s : State) (o hi lo : Nat) : Nat := fld (s.reg o) hi lo

/-- The state with one of them replaced. -/
def State.setTile (s : State) (t : Nat) (x : Tile) : State := { s with tiles := tabSet tileD s.tiles t x }
def State.setPart (s : State) (n : Nat) (x : Part) : State := { s with parts := tabSet partD s.parts n x }
def State.setSys (s : State) (n : Nat) (x : PartSys) : State := { s with partSys := tabSet partSysD s.partSys n x }
def State.setPair (s : State) (p : Nat) (x : Pair) : State := { s with pairs := tabSet pairD s.pairs p x }
def State.setPort (s : State) (p : Nat) (x : Port) : State := { s with ports := tabSet portD s.ports p x }
def State.setReg (s : State) (o : Nat) (v : Word) : State := { s with chip := tabSet chipRegD s.chip o v }
def State.setF (s : State) (o hi lo v : Nat) : State := s.setReg o (setFld (s.reg o) hi lo v)

/-- The state with a tile or a partition changed. -/
def State.modTile (s : State) (t : Nat) (f : Tile → Tile) : State := s.setTile t (f (s.tile t))
def State.modPart (s : State) (n : Nat) (f : Part → Part) : State := s.setPart n (f (s.part n))
def State.modPort (s : State) (p : Nat) (f : Port → Port) : State := s.setPort p (f (s.port p))
def State.modSys (s : State) (n : Nat) (f : PartSys → PartSys) : State := s.setSys n (f (s.sys n))
def State.modPair (s : State) (p : Nat) (f : Pair → Pair) : State := s.setPair p (f (s.pair p))

/-- Native chip time in ns, 64 bits (R403). -/
def State.time (s : State) : Nat := s.timeAcc / 2 ^ 32 % 2 ^ 64

/-- A saturating counter field of a chip register (R434). -/
def State.count (s : State) (o hi lo n : Nat) : State :=
  s.setF o hi lo (satAdd (2 ^ (hi + 1 - lo) - 1) (s.f o hi lo) n)

end Sys2Proof.Machine
end

