-- ==== Sys2Proof/Machine/Ops.lean ====
section
/-!
DEFINITION. Machine/Ops.lean: the named operations over the whole state that several families share: who owns a tile,
who may reach a register block, the clocks that timers compare with, and memory in home order.
-/

namespace Sys2Proof.Machine

/-- Tiles of the device (R10). -/
def tileCount : Nat := 1152

/-- The mesh cycle counter (Table 15.6). -/
def State.cyc (s : State) : Nat := (s.reg Reg.clkMeshCycLo).toNat + 2 ^ 32 * (s.reg Reg.clkMeshCycHi).toNat

/-- The state of a partition: MB_PART_CFG.STATE (Table 12.1). -/
def State.partState (s : State) (n : Nat) : Nat := (s.part n).f Reg.mbPartCfg 30 28

/-- Does a partition own an allocation unit? -/
def State.ownsUnit (s : State) (n k : Nat) : Bool := decide (k < 18) && bit ((s.part n).reg Reg.mbPartCfg) k

/-- Does a partition own a tile (R10)? -/
def State.ownsTile (s : State) (n t : Nat) : Bool := decide (t < tileCount) && s.ownsUnit n (t / 64)

/-- The partition that owns an allocation unit. -/
def State.unitOwner (s : State) (k : Nat) : Option Nat := (List.range 16).find? (fun n => s.ownsUnit n k)

/-- The partition that owns a tile. -/
def State.tileOwner (s : State) (t : Nat) : Option Nat :=
  if t < tileCount then s.unitOwner (t / 64) else none

/-- The tiles of a partition, in ascending order. -/
def State.tilesOf (s : State) (n : Nat) : List Nat := (List.range tileCount).filter (fun t => s.ownsUnit n (t / 64))

/-- The OR over a partition's tiles of a register field (R84, R203, R226). -/
def State.partOr (s : State) (n o hi lo : Nat) : Nat :=
  ((s.tilesOf n).map (fun t => (s.tile t).f o hi lo)).foldl (· ||| ·) 0

/-- COMPAT_CZ2 of the partition that owns a tile (R18, R90). -/
def State.compat (s : State) (t : Nat) : Bool :=
  match s.tileOwner t with
  | some n => (s.part n).f Reg.mbPartCfg 25 25 == 1
  | none => false

/-- May an agent reach the register block of a tile (R98, R106, R111, R346, R419)? -/
def State.mayTile (s : State) (a : Agent) (t : Nat) : Bool :=
  match a with
  | .pf => false
  | .vf n => s.ownsTile n t
  | .core c => c == t && decide (t < tileCount)
  | .service n => s.ownsTile n t
  | .root => false

/-- May an agent reach the register block of partition n (R299, R419)? -/
def mayPart (a : Agent) (n : Nat) : Bool :=
  match a with
  | .vf m => m == n && decide (n < 16)
  | .service m => m == n && decide (n < 16)
  | .root => decide (n < 16)
  | _ => false

/-- May an agent write the chip register block? Only Ittan Root writes its RW fields (R298, R434). -/
def mayChip (a : Agent) : Bool := a == .root

/-- The path of an access: 0 for the local register port, 1 for BAR0, whose copies Ittan Service uses (R98, R106). -/
def pathOf (a : Agent) : Nat := match a with | .core _ => 0 | _ => 1

/-- A change of a tile that exists. -/
def State.inTile (s : State) (t : Nat) (f : Tile → Tile) : State := if t < tileCount then s.modTile t f else s

/-- The time that mesh engines measure: chip time without the stops of the mesh clock (R289, R399). -/
def State.engineTime (s : State) : Nat := s.time - s.meshStop

/-- Ittan Root, or Ittan Service, is interrupted (R239, R284). -/
def State.irqRoot (s : State) : State := { s with fw := { s.fw with irqRoot := s.fw.irqRoot + 1 } }
def State.irqSvc (s : State) : State := { s with fw := { s.fw with irqSvc := s.fw.irqSvc + 1 } }

/-- The service core that holds partition n's window set (R299). -/
def State.svcCore (s : State) (n : Nat) : Option Nat := s.fw.sets.findIdx? (· == some n)

/-- What a trace record gives as the core that acts for partition n: the service core that holds its window set, else
Root. -/
def State.svcSrc (s : State) (n : Nat) : Nat := match s.svcCore n with | some c => 1 + c | none => 0

/-- The column and the row of a tile (R10). -/
def tileCol (t : Nat) : Nat := t % 32
def tileRow (t : Nat) : Nat := t / 32

/-- The Manhattan distance between two tiles (R116). -/
def tileHops (a b : Nat) : Nat :=
  (max (tileCol a) (tileCol b) - min (tileCol a) (tileCol b)) + (max (tileRow a) (tileRow b) - min (tileRow a) (tileRow b))

/-- Cycles that a packet spends at a home or an interface beside its hops, in each direction (R154). -/
def meshEntry : Nat := 4

/-- Set a tile's STOP bits; a core that has yet to start takes its pc from LADLE_SC_PC as its STOP bit clears (R111). -/
def Tile.setStops (t : Tile) (v : Nat) : Tile :=
  let t := t.setF Reg.ladleQctl 3 0 v
  if t.fresh && !v.testBit 2 then { t with pc := t.reg Reg.ladleScPc, fresh := false } else t

/-- Bytes a to a + n − 1 of a memory; one that nothing has written reads as 0 (log 2). -/
def memRead (m : List Host.Cell) (a : Nat) : Nat → List Byte
  | 0 => []
  | n + 1 => tabGet byteD m a :: memRead m (a + 1) n

/-- Write bytes at a. -/
def memWrite (m : List Host.Cell) (a : Nat) (l : List Byte) : List Host.Cell :=
  match l with
  | [] => m
  | b :: l => memWrite (tabSet byteD m a b) (a + 1) l

/-- The canonical form of a memory: addresses strictly rising, no listed byte equal to what an unlisted one reads. -/
def Memory.wf (m : List Host.Cell) : Bool := tabWf byteD m

end Sys2Proof.Machine
end

