-- ==== Sys2Proof/Machine/Log.lean ====
section
/-!
DEFINITION. Machine/Log.lean: log records, events, interrupts, responses and trace records (R310 to R315, R326 to
R328).
-/

namespace Sys2Proof.Machine

/-- Sources of log records (Table 11.7). -/
abbrev Src.root : Nat := 0
abbrev Src.tile : Nat := 5
abbrev Src.vat : Nat := 6
abbrev Src.fabric : Nat := 7
abbrev Src.coll : Nat := 8
abbrev Src.power : Nat := 9
abbrev Src.clocks : Nat := 10
abbrev Src.hostIf : Nat := 11
abbrev Src.rom : Nat := 12

/-- Severities. -/
abbrev sevDebug : Nat := 0
abbrev sevInfo : Nat := 1
abbrev sevWarn : Nat := 2
abbrev sevError : Nat := 3
abbrev sevFatal : Nat := 4

/-- The codes of Table 11.9, kernel codes apart (R329). -/
def tableCodes : List Nat :=
  [0x0, 0x100, 0x101, 0x102, 0x103, 0x104, 0x105, 0x107, 0x108, 0x109, 0x110, 0x111, 0x112, 0x113, 0x114, 0x201, 0x210, 0x211, 0x212, 0x213] ++
  [0x214, 0x215, 0x216, 0x220, 0x221, 0x222, 0x223, 0x224, 0x225, 0x226, 0x230, 0x231, 0x232, 0x233, 0x240, 0x241, 0x242, 0x243, 0x244, 0x250] ++
  [0x251, 0x260, 0x270, 0x271, 0x272, 0x273, 0x274, 0x280, 0x281, 0x282, 0x283, 0x300, 0x301, 0x302, 0x303, 0x311, 0x400, 0x401, 0x402, 0x403] ++
  [0x404, 0x405, 0x500, 0x501, 0x502, 0x510, 0x511, 0x512, 0x513, 0x514, 0x515, 0x516, 0x517, 0x600, 0x601, 0x602, 0x603, 0x604, 0x700, 0x701] ++
  [0x702, 0x703, 0x704, 0x705, 0x800, 0x801, 0x802, 0x900, 0x901, 0x902, 0x903, 0x904, 0xA00, 0xA01, 0xA02, 0xA03, 0xB00, 0xB01, 0xB02, 0xB03] ++
  [0xB04, 0xB05, 0xB06]

/-- The PART value of a record that concerns the whole chip. -/
abbrev chipPart : Nat := 31

/-- An entry on a ring asks for its interrupt: at once when COALESCE is 0, else it waits (R310). -/
def Pair.interrupt (p : Pair) (vec : Nat) : Pair :=
  if p.f Reg.mbIrqCtl vec vec = 0 then p
  else if p.f Reg.mbIrqCtl 15 8 = 0 then { p with irqCount := tabMod natD p.irqCount vec (· + 1) }
  else { p with irqPend := setBit p.irqPend vec true }

/-- COALESCE_EXPIRY: the wait of a vector ends and its interrupt is sent. -/
def Pair.coalesceEnd (p : Pair) (vec : Nat) : Pair :=
  if vec < 2 && bit p.irqPend vec then
    { p with irqPend := setBit p.irqPend vec false, irqCount := tabMod natD p.irqCount vec (· + 1) }
  else p

/-- Post an event entry; on a full ring it is dropped and counted (R311, R315). -/
def Pair.postEvent (p : Pair) (ws : List Word) : Pair :=
  let tail := (p.reg Reg.mbEvtTail).toNat
  if 64 ≤ (tail + 2 ^ 32 - (p.reg Reg.mbEvtHead).toNat) % 2 ^ 32 then
    p.setReg Reg.mbEvtLost (BitVec.ofNat 32 (satAdd 0xFFFFFFFF (p.reg Reg.mbEvtLost).toNat 1))
  else
    ((p.setWords (Reg.mbEvtSlot + 64 * (tail % 64)) ws).setReg Reg.mbEvtTail (BitVec.ofNat 32 (tail + 1))).interrupt 1

/-- The log ring's size: 4,096 in pair 0, 1,024 in the others (R326). -/
def ringSize (pair : Nat) : Nat := if pair = 0 then 4096 else 1024

/-- The three argument words of a record. -/
def args3 (l : List Word) : List Word := [l.getD 0 0, l.getD 1 0, l.getD 2 0]

/-- One record into a pair's log ring, and its event when the severity is ERROR or FATAL (R315, R326). -/
def Pair.logRecord (p : Pair) (pair time : Nat) (w : LogWin) (rep : Nat) : Pair :=
  if w.sev < sevError ∧ w.sev < tabGet natD p.logLevel w.src then p else
  let seq := p.reg Reg.mbLogSeq
  let lo : Word := BitVec.ofNat 32 time
  let hi : Word := BitVec.ofNat 32 (time / 2 ^ 32)
  let rec0 := [seq, BitVec.ofNat 32 (w.code + 2 ^ 16 * min rep 0xFFFF), lo, hi,
    BitVec.ofNat 32 (w.src + 2 ^ 8 * (w.part + 32 * w.sev) + 2 ^ 16 * w.tag)] ++ args3 w.args
  let p := (p.setWords (Reg.mbLogRec + 32 * (seq.toNat % ringSize pair)) rec0).setReg Reg.mbLogSeq (seq + 1)
  if sevError ≤ w.sev then
    p.postEvent ([0xFFFF0000, BitVec.ofNat 32 w.code, seq, lo, hi] ++ args3 w.args ++ List.replicate 8 0)
  else p

/-- The pairs whose rings hold a record of a partition (R326). -/
def logPairs (part : Nat) : List Nat := if part < 16 then [0, part + 1] else [0]

/-- A line is due on the console. Whether the UART finishes it before the next is due is free (log 95); one that is not
sent counts toward the line "skipped n" (R431). -/
def State.print (s : State) (l : ConsoleLine) : State :=
  if Config.freeValue s.freeCount 10 % 2 = 0 then
    { s with freeCount := s.freeCount + 1, console := { s.console with unsent := s.console.unsent + 1 } }
  else
    let skipped := if s.console.unsent = 0 then [] else [ConsoleLine.skipped s.console.unsent]
    { s with freeCount := s.freeCount + 1, console := ⟨s.console.lines ++ skipped ++ [l], 0⟩ }

/-- Write a record to its rings; one of severity WARN or above is printed too (R431). -/
def State.writeLog (s : State) (w : LogWin) (rep : Nat) : State :=
  let s := if sevWarn ≤ w.sev then s.print (.record w.code w.src w.part w.sev rep) else s
  (logPairs w.part).foldl (fun s p => s.modPair p (fun x => x.logRecord p s.time w rep)) s

/-- Is a record written at all: does some ring's LOG_LEVEL let it in (R327)? -/
def State.logWanted (s : State) (w : LogWin) : Bool :=
  decide (sevError ≤ w.sev) || (logPairs w.part).any (fun p => decide (tabGet natD (s.pair p).logLevel w.src ≤ w.sev))

/-- Is a window about the same code, source and partition? -/
def LogWin.same (w : LogWin) (code src part : Nat) : Bool := w.code == code && w.src == src && w.part == part

/-- Has the 1 ms of a window ended? -/
def State.winOver (s : State) (w : LogWin) : Bool := decide (1000000 ≤ (s.time + 2 ^ 64 - w.at_) % 2 ^ 64)

/-- LOG_REPEAT_FLUSH: the 1 ms of a window ends; a nonzero count is carried by one record, which opens the next window
(R327). Root writes no record once it has stopped (R301). -/
def State.logFlush (s : State) (code src part : Nat) : State :=
  match s.logWins.find? (fun x => x.same code src part) with
  | none => s
  | some w =>
    if !s.winOver w || s.power.faultN then s
    else if w.count = 0 then { s with logWins := s.logWins.filter (fun x => !x.same code src part) }
    else { s.writeLog w w.count with
      logWins := s.logWins.map (fun x => if x.same code src part then { x with count := 0, at_ := s.time } else x) }

/-- An event that the device logs: written with its window of 1 ms, or withheld in a window that runs (R326, R327). Root
writes the records (Table 11.1), none once it has stopped (R301). -/
def State.logTag (s : State) (code src sev part tag : Nat) (args : List Word) : State :=
  if s.power.faultN then s else
  let s := s.logFlush code src part
  let w : LogWin := ⟨s.time, code, src, part, sev, tag, 0, args⟩
  if s.logWins.any (fun x => x.same code src part) then
    { s with logWins := s.logWins.map (fun x =>
        if x.same code src part then { x with count := x.count + 1, args := args, tag := tag } else x) }
  else if s.logWanted w then { s.writeLog w 0 with logWins := s.logWins ++ [w] }
  else s

/-- An event that no command concerns. -/
def State.log (s : State) (code src sev part : Nat) (args : List Word) : State := s.logTag code src sev part 0xFFFF args

/-- An event whose severity and arguments no rule states: both are free (log 17). -/
def State.logOpen (s : State) (code src part : Nat) : State :=
  ({ s with freeCount := s.freeCount + 1 } : State).log code src (Config.logSeverity code % 5) part
    ((List.range 3).map (fun i => BitVec.ofNat 32 (Config.freeValue s.freeCount i)))

/-- An event whose severity its rule gives and whose arguments no rule states. -/
def State.logSev (s : State) (code src sev part : Nat) : State :=
  ({ s with freeCount := s.freeCount + 1 } : State).log code src sev part
    ((List.range 3).map (fun i => BitVec.ofNat 32 (Config.freeValue s.freeCount i)))

/-- Is the host link up with the control complex out of reset (R361, R420)? -/
def State.hostUp (s : State) : Bool := s.power.stage == .rom && s.f Reg.mbPcieStat 9 9 == 1

/-- Does a trace point of a pair write its record: the pair traces, the point is enabled, and the host link is up (R328;
log 93)? -/
def State.traces (s : State) (pair point : Nat) : Bool :=
  s.hostUp && (s.pair pair).trace.size != 0 && bit (s.pair pair).trace.points point

/-- A trace record of a pair (R328): 16 bytes into its cyclic host buffer. -/
def State.traceTo (s : State) (pair point core : Nat) (args : List Nat) : State :=
  if !s.traces pair point then s else
  let p := s.pair pair
  let idx := (p.reg Reg.mbTraceWr).toNat
  let v := s.time % 2 ^ 48 + 2 ^ 48 * (point % 256) + 2 ^ 56 * (core % 256) + 2 ^ 64 * (Config.traceArg point args % 2 ^ 64)
  { s.setPair pair (p.setReg Reg.mbTraceWr (BitVec.ofNat 32 (idx + 1))) with
    hostMem := memWrite s.hostMem (p.trace.addr + (16 * idx) % p.trace.size) (bytesOf 16 v) }

/-- A trace point of the chip, or of a partition, fires. -/
def State.trace (s : State) (point core : Nat) (args : List Nat) : State := s.traceTo 0 point core args
def State.tracePart (s : State) (point core n : Nat) (args : List Nat) : State :=
  (s.traceTo 0 point core args).traceTo (n + 1) point core args

/-- The fault record of a tile as one number, to see whether a fault was recorded. -/
def faultSeen (old new : Tile) : Bool :=
  old.reg Reg.ladleFault != new.reg Reg.ladleFault && decide (old.f Reg.ladleFault 31 31 = 0) &&
  decide (new.f Reg.ladleFault 31 31 = 1)

/-- A tile changes; a fault recorded by the change fires its trace point (R328, points 0x50 to 0x5F). -/
def State.tileStep (s : State) (t : Nat) (f : Tile → Tile) : State :=
  let new := f (s.tile t)
  let s' := s.setTile t new
  if faultSeen (s.tile t) new then
    match s.tileOwner t with
    | some n => s'.tracePart (0x50 + n) Src.tile n [t, new.f Reg.ladleFault 15 0]
    | none => s'
  else s'

/-- Post a response on a pair (R311, R313): the opcode and tag of its request, the code, and up to 14 results. A full
response ring holds the response back: the device never overwrites a slot the host has not consumed. -/
def Pair.postResponse (p : Pair) (req : List Word) (code : Nat) (res : List Word) : Pair :=
  let tail := (p.reg Reg.mbRspTail).toNat
  let ws := [req.getD 0 0, BitVec.ofNat 32 code] ++ (List.range 14).map (fun i => res.getD i 0)
  ((p.setWords (Reg.mbRspSlot + 64 * (tail % 256)) ws).setReg Reg.mbRspTail (BitVec.ofNat 32 (tail + 1))).interrupt 0

/-- Is a pair's response ring full (R313)? -/
def Pair.rspFull (p : Pair) : Bool :=
  decide (256 ≤ ((p.reg Reg.mbRspTail).toNat + 2 ^ 32 - (p.reg Reg.mbRspHead).toNat) % 2 ^ 32)

/-- A response enters pair p's ring, with its trace point (R313, R328). -/
def State.postRsp (s : State) (p : Nat) (req : List Word) (code : Nat) (res : List Word) : State :=
  let s := s.modPair p (fun x => x.postResponse req code res)
  let args := [fld (req.getD 0 0) 31 16, code]
  if p = 0 then s.trace 0x21 Src.root args else s.tracePart (0x21 + p) (s.svcSrc (p - 1)) (p - 1) args

/-! ### Window sets (R299) -/

/-- Root loads partition n's window set into the core that asks for it, in place of the set it held (R299). Which core
asks is Service's choice (log 84). -/
def State.loadSet (s : State) (n : Nat) : State :=
  let c := Config.freeValue s.freeCount 9 % 4
  ({ s with fw := { s.fw with sets := s.fw.sets.set c (some n) }, freeCount := s.freeCount + 1 } : State).tracePart 0xA4
    Src.root n [c]

/-- Service acts for partition n: through a core that holds its window set, loaded first when none does (R299). -/
def State.asService (s : State) (n : Nat) : State := if (s.svcCore n).isSome then s else s.loadSet n

/-- A register access by an agent: Service's goes through a window set. -/
def State.asAgent (s : State) : Agent → State
  | .service n => s.asService n
  | _ => s

end Sys2Proof.Machine
end

