-- ==== Sys2Proof/Machine/Phase.lean ====
section
/-!
DEFINITION. Machine/Phase.lean: who can act at a moment, phase markers and phase timing (R209, R377), and the learned
demands' FORGET (R379).
-/

namespace Sys2Proof.Machine

/-! ### Who can act -/

/-- MB_BOOT_STATUS.STAGE. -/
def State.bootStage (s : State) : Nat := (s.pair 0).f Reg.mbBootStatus 3 0

/-- A boot stage begins: STAGE, and the line printed for it (R304, R431). -/
def State.stageIs (s : State) (n : Nat) : State :=
  (s.modPair 0 (fun p => p.setF Reg.mbBootStatus 3 0 n)).print (.stage n)

/-- Does Root run: from step 4 of Table 11.3, unless it stopped (R301, R304)? -/
def State.rootUp (s : State) : Bool :=
  s.power.stage == .rom && decide (3 ≤ s.bootStage) && decide (s.bootStage ≤ 5) && !s.power.faultN

/-- Do tiles work: the mesh clock runs and Root has not stopped them at a command boundary (R301)? -/
def State.meshUp (s : State) : Bool := s.power.meshOn

/-- Are a tile's clocks on: its partition is ACTIVE, or in a reset that has not stopped its tiles (R330, R343)? -/
def State.clocked (s : State) (t : Nat) : Bool :=
  s.meshUp && match s.tileOwner t with
  | some n => s.partState n == 1 || (s.partState n == 2 && (s.sys n).rst.step == 1)
  | none => false

/-- May an agent act at all at this moment? -/
def State.agentUp (s : State) : Agent → Bool
  | .pf => s.hostUp
  | .vf _ => s.hostUp
  | .core t => s.clocked t
  | .service _ => s.rootUp && !s.fw.down
  | .root => s.rootUp

/-- A step of a unit of tile t, whose clock runs. -/
def State.inClock (s : State) (t : Nat) (f : State → State) : State := if s.clocked t then f s else s

/-! ### Phases (R209, R377) -/

/-- Chip time in units of 16 ns. -/
def State.time16 (s : State) : Nat := s.time / 16

/-- A difference of chip times in these units. -/
def diff16 (now then_ : Nat) : Nat := (now + 2 ^ 60 - then_) % 2 ^ 60

/-- A 32-bit time is held at its largest value. -/
def hold32 (n : Nat) : Nat := min n 0xFFFFFFFF

/-- The current visit is added to its phase's sum. -/
def PhaseRun.visit (p : PhaseRun) (ph now : Nat) : PhaseRun :=
  { p with sums := if p.stepOn then tabMod natD p.sums ph (fun v => hold32 (v + diff16 now p.since)) else p.sums
           since := now }

/-- The five sums. -/
def PhaseRun.five (p : PhaseRun) : List Nat := (List.range 5).map (tabGet natD p.sums)

/-- The truncated mean of a phase over a history. -/
def phaseMean (h : List (List Nat)) (ph : Nat) : Nat := (h.map (fun l => l.getD ph 0)).sum / h.length

/-- A register of the partition's block at offset o takes a number. -/
def Part.put (p : Part) (o v : Nat) : Part := p.setReg o (BitVec.ofNat 32 v)

/-- The registers of Table 7.5 take a step's sums. -/
def Part.stepEnds (p : Part) (sums : List Nat) (hist : List (List Nat)) (len : Nat) : Part :=
  let p := (List.range 5).foldl (fun p ph =>
    let v := sums.getD ph 0
    let p := (p.put (Reg.capPhaseLast + 16 * ph) v).put (Reg.capPhaseAvg + 16 * ph) (phaseMean hist ph)
    (p.put (Reg.capPhaseMin + 16 * ph) (min v (p.reg (Reg.capPhaseMin + 16 * ph)).toNat)).put
      (Reg.capPhaseMax + 16 * ph) (max v (p.reg (Reg.capPhaseMax + 16 * ph)).toNat)) p
  (p.put Reg.capStepLast (hold32 len)).setReg Reg.capStepCnt (p.reg Reg.capStepCnt + 1)

/-- CAP_PART_PHASE.PHASE. -/
def State.phase (s : State) (n : Nat) : Nat := (s.part n).f Reg.capPartPhase 2 0

/-- One marker sets partition n's phase (R209, R377). -/
def State.phaseEnters (s : State) (n ph : Nat) : State :=
  let now := s.time16
  let old := s.phase n
  let r := (s.sys n).ph.visit old now
  let fwd := ph == 0 && old != 0
  let hist := (r.five :: r.hist).take 16
  let s := if fwd && r.stepOn then s.modPart n (fun p => p.stepEnds r.five hist (diff16 now r.stepAt)) else s
  let r := if fwd && r.stepOn then
      { r with ended := (s.cyc, r.five :: (if r.ended.1 = s.cyc then r.ended.2 else [])) } else r
  let r := if fwd then { r with hist := if r.stepOn then hist else r.hist, stepOn := true, stepAt := now, sums := [] } else r
  let s := s.modSys n (fun x => { x with ph := { r with moved := r.moved || ph != old } })
  (s.modPart n (fun p => p.setF Reg.capPartPhase 2 0 ph)).tracePart 0xA1 Src.power n [n, ph]

/-- A partition enters the idle phase, at PART_CREATE and at the end of a PART_RESET. -/
def State.phaseIdle (s : State) (n : Nat) : State :=
  (s.modSys n (fun x => { x with ph := { PhaseRun.reset with since := s.time16 } })).modPart n
    (fun p => p.setF Reg.capPartPhase 2 0 4)

/-- PHASE_MARK: a write to CAP_PHASE_MARK issues a marker for the tile's partition; 5 to 7 are ignored. -/
def State.phaseMark (s : State) (t : Nat) (val : Word) : State :=
  match s.tileOwner t with
  | some n =>
    if 4 < fld val 2 0 then s
    else s.modSys n (fun x => { x with ph := { x.ph with marks := x.ph.marks ++ [(s.cyc, t, fld val 2 0)] } })
  | none => s

/-- Insert a marker by tile; of one tile's markers the earlier goes first. -/
def insertMark (m : Nat × Nat × Nat) : List (Nat × Nat × Nat) → List (Nat × Nat × Nat)
  | [] => [m]
  | x :: l => if m.2.1 < x.2.1 then m :: x :: l else x :: insertMark m l

/-- PHASE_MARKER_APPLY: the markers of the oldest cycle arrive, in ascending tile number. -/
def State.phaseMarkerApply (s : State) (n : Nat) : State :=
  match (s.sys n).ph.marks with
  | [] => s
  | m :: l =>
    let now := (m :: l).filter (fun x => x.1 == m.1)
    let s := s.modSys n (fun x => { x with ph := { x.ph with marks := (m :: l).filter (fun x => x.1 != m.1) } })
    (now.foldl (fun acc x => insertMark x acc) []).foldl (fun s x => s.phaseEnters n x.2.2) s

/-- The statistics of a list of steps, newest first, as the first steps after a clear. -/
def Part.recount (p : Part) (l : List (List Nat)) : Part :=
  (List.range 5).foldl (fun p ph =>
    let vs := l.map (fun x => x.getD ph 0)
    let p := (p.put (Reg.capPhaseMin + 16 * ph) (vs.foldl min 0xFFFFFFFF)).put (Reg.capPhaseMax + 16 * ph) (vs.foldl max 0)
    if l = [] then p else p.put (Reg.capPhaseAvg + 16 * ph) (phaseMean l ph)) p

/-- STEP_STATS_CLEAR: CAP_STEP_CTL.CLR resets every MIN and MAX and empties the AVG history; a step that has ended in this
mesh cycle is the first counted after it. -/
def State.stepStatsClear (s : State) (n : Nat) (val : Word) : State :=
  if !bit val 0 then s else
  let e := (s.sys n).ph.ended
  let l := if e.1 = s.cyc then e.2.take 16 else []
  (s.modPart n (·.recount l)).modSys n (fun x => { x with ph := { x.ph with hist := l } })

/-- DEMAND_FORGET: CAP_PART_PHASE.FORGET restores the five learned demands (R379). -/
def State.demandForget (s : State) (n : Nat) (val : Word) : State :=
  if !bit val 31 then s else
  s.modPart n (fun p => (List.range 5).foldl (fun p ph =>
    p.setReg (Reg.capDemand + 4 * ph) (partRegD (Reg.capDemand + 4 * ph))) p)

end Sys2Proof.Machine
end

