-- ==== Sys2Proof/Machine/Alert.lean ====
section
/-!
DEFINITION. Machine/Alert.lean: the alert causes (R424, R434), the always-on cause register (R369), the rails' registers
(R356, R357, R370) and the outputs' states (R437).
-/

namespace Sys2Proof.Machine

/-! ### MB_ALERT -/

/-- Is VCTL ready? -/
def State.vctlUp (s : State) : Bool := s.power.stage == .rom

/-- The causes from their source flags (Table 16.5). -/
def State.alertSources (s : State) : Nat :=
  s.f Reg.capThermStat 30 30 + 2 * s.f Reg.capCoolStat 29 29 + 4 * s.f Reg.capCoolStat 28 28 +
  8 * s.f Reg.capBudgetStat 28 28 + 16 * s.f Reg.capConnLast 31 31 + 32 * s.f Reg.capTcycStat 31 31 +
  64 * s.f Reg.clkStatus 31 31 + 128 * (s.pair 0).f Reg.mbStatus 2 2 + 256 * b2n s.power.linkDown

/-- The enabled causes: 0 to 2 always, 3 to 8 by MASK. -/
def State.alertEnabled (s : State) : Nat := 7 + 8 * s.f Reg.mbAlert 24 19

/-- MB_ALERT.CAUSE follows its sources while VCTL is ready and keeps its value while it is not; in I3C mode each enabled
cause that sets sends an in-band interrupt (R424, R434). -/
def State.alertSync (s : State) : State :=
  if !s.vctlUp then s else
  let old := s.f Reg.mbAlert 8 0
  let new := s.alertSources
  let rises := (List.range 9).filter (fun b => new.testBit b && !old.testBit b && s.alertEnabled.testBit b)
  let s := s.setF Reg.mbAlert 8 0 new
  if s.f Reg.mbI3cTgt 16 16 = 1 then
    { s with mgmt := { s.mgmt with ibis := s.mgmt.ibis ++ rises.map (fun _ => (new % 256, new / 256)) } }
  else s

/-- Is ALERT_N asserted? It is released in reset and in the holds that count as reset (R424, R437). -/
def State.alertN (s : State) : Bool := s.vctlUp && decide (s.f Reg.mbAlert 8 0 &&& s.alertEnabled ≠ 0)

/-! ### CAP_AON_CAUSE -/

/-- The first cause is recorded; later causes do not overwrite it (Table 13.5). -/
def State.aonCause (s : State) (code rail : Nat) : State :=
  if s.f Reg.capAonCause 31 31 = 1 then s
  else s.setReg Reg.capAonCause (BitVec.ofNat 32 (code + 2 ^ 16 * rail + 2 ^ 31))

/-- The index that stands for no rail. -/
abbrev noRail : Nat := 0x7FF

/-! ### Rails (R356, R357, R370) -/

/-- Rails of the device. -/
def railCount : Nat := 1168

/-- The register of rail i at an offset of Table 13.6. -/
def State.railReg (s : State) (i o : Nat) : Word :=
  if i < tileCount then (s.tile i).reg o else s.reg (0x3100 + 16 * (i - tileCount) + o - 0x900)

/-- A field of it set. -/
def State.railSet (s : State) (i o hi lo v : Nat) : State :=
  if i < tileCount then s.modTile i (fun t => t.setF o hi lo v)
  else s.setF (0x3100 + 16 * (i - tileCount) + o - 0x900) hi lo v

/-- The voltage of a rail that serves more than one tile, in mV (Table 13.2). -/
def fixedMv (i : Nat) : Nat := if i < 1164 then 1100 else if i = 1164 then 650 else if i = 1165 then 800 else if i = 1166 then 750 else 800

/-- A tile rail's set voltage: the fused curve at a mesh frequency in MHz, interpolated linearly, plus the calibration
offset, rounded up to 5 mV and clamped (R357). -/
def tileMv (t mhz : Nat) (ofs : Int) : Nat :=
  let seg : Nat × Nat × Nat := if mhz ≤ 950 then (300, 650, 0) else (950, 300, 1)
  let v0 : Int := Config.trimMv t seg.2.2
  let v1 : Int := Config.trimMv t (seg.2.2 + 1)
  let num : Int := (v0 + 5 * ofs) * seg.2.1 + (v1 - v0) * ((mhz : Int) - seg.1)
  let steps : Int := -((-num) / (5 * seg.2.1 : Nat))
  (max 420 (min 780 (5 * steps))).toNat

/-- A rail's set voltage in force. -/
def State.railMv (s : State) (i mhz : Nat) : Nat :=
  if i < tileCount then tileMv i mhz (toSigned 4 (fld (s.railReg i Reg.capRailStatus) 7 4)) else fixedMv i

/-- A requested mesh frequency: clamped to 300 to 1,250 and rounded down to 10 (Table 15.6). -/
def meshMhz (req : Nat) : Nat := max 300 (min 1250 req) / 10 * 10

/-- The mesh frequency that the rails follow. -/
def State.mhzNow (s : State) : Nat :=
  match s.power.change with
  | .locking m => max m (s.f Reg.clkMeshCur 10 0)
  | .falling m => m
  | .none => if s.power.meshOn then s.f Reg.clkMeshCur 10 0 else meshMhz (s.f Reg.clkMeshReq 10 0)

/-- A rail takes its set voltage at the frequency in force. -/
def State.railMove (s : State) (i : Nat) : State := s.railSet i Reg.capRailV 11 0 (s.railMv i s.mhzNow)

/-- Every tile rail does. -/
def State.tileRailsMove (s : State) : State := (List.range tileCount).foldl State.railMove s

/-- A rail is ready at its set voltage; its model starts from R_base (R368). The voltage at the sense point is a
measurement, free here (log 47). -/
def State.railUp (s : State) (i : Nat) : State :=
  let s := ((s.railMove i).railSet i Reg.capRailStatus 0 0 1).railSet i Reg.capRailV 27 16 (Config.freeValue s.freeCount i)
  let b := Config.railBase i % 2 ^ 16
  let s := (s.railSet i Reg.capRailR 15 0 b).railSet i Reg.capRailR 31 16 b
  { s with power := { s.power with runFrac := tabSet natD s.power.runFrac i (b * 4096) } }

/-- The rails of a group (Table 13.2). -/
def groupRails (g : Nat) : List Nat :=
  if g = 2 then [1166] else if g = 3 then [1164] else if g = 4 then [1165]
  else if 5 ≤ g ∧ g ≤ 16 then [1152 + (g - 5)]
  else if 17 ≤ g ∧ g ≤ 52 then (List.range 32).map (fun c => 32 * (g - 17) + c)
  else []

/-- The rails of a group are ready. -/
def State.groupUp (s : State) (g : Nat) : State :=
  { (groupRails g).foldl State.railUp s with freeCount := s.freeCount + 1 }

end Sys2Proof.Machine
end

