-- ==== Sys2Proof/Machine/Flit.lean ====
section
/-!
DEFINITION. Machine/Flit.lean: the bits of a flit on the wire (R228, R229, R273): its routing header, its body and its
CRC-32C. How a link-control message and a heartbeat lie in their bodies, and where the header holds the direction and
the surplus of a detour, no rule gives: those bits are free (log 79).
-/

namespace Sys2Proof

open Machine

/-- A value placed at bit lo in a field of n bits. -/
def bitsAt (lo n v : Nat) : Nat := v % 2 ^ n * 2 ^ lo

/-- The routing header (Table 9.2). -/
def Flit.header (f : Flit) : Nat :=
  bitsAt 0 2 f.typ + bitsAt 2 12 f.seq + bitsAt 14 12 f.ack + bitsAt 26 3 f.vc + bitsAt 29 1 (b2n f.dclass) +
  bitsAt 30 1 (b2n f.detour) + bitsAt 31 2 f.dax + bitsAt 33 18 f.dest + bitsAt 51 3 f.cvc + bitsAt 54 8 f.ccnt +
  bitsAt 62 16 f.stream + bitsAt 78 4 f.units + bitsAt 82 14 (Config.surplusBits f.dirNeg f.spent)

/-- A Ladle packet's header (Table 9.3). -/
def Packet.header (p : Packet) : Nat :=
  bitsAt 0 8 p.op + bitsAt 8 18 p.src + bitsAt 26 15 p.tag + bitsAt 41 4 p.part + bitsAt 45 28 p.issue +
  bitsAt 73 40 p.addr + bitsAt 113 6 p.len

/-- A packet's units: a header alone, or a header and 64 data bytes (R229). -/
def packetUnits (op : Nat) : Nat := if op = 2 ∨ op = 3 then 5 else 1

/-- The bytes of a packet in a body. -/
def Packet.bytes (p : Packet) : List Byte :=
  bytesOf 16 p.header ++ (if packetUnits p.op = 5 then p.data.take 64 ++ List.replicate (64 - p.data.length) 0 else [])

/-- A fragment header (Table 10.3). -/
def FragHdr.header (h : FragHdr) : Nat :=
  bitsAt 0 16 h.step + bitsAt 16 2 h.axis + bitsAt 18 1 h.ring + bitsAt 32 32 h.offset + bitsAt 64 14 h.len +
  bitsAt 78 14 h.jflags + bitsAt 96 32 h.scount

/-- The 240 bytes of a body (R228, R229, R273). -/
def FlitBody.bytes (b : FlitBody) : List Byte :=
  let l : List Byte := match b with
    | .empty => []
    | .ctrl m => (List.range 240).map (fun i => Config.ctrlByte m i)
    | .heartbeat h => (List.range 240).map (fun i => Config.heartbeatByte h i)
    | .packets ps => ps.flatMap Packet.bytes
    | .frag (some h) d => bytesOf 16 h.header ++ d
    | .frag none d => d
  l.take 240 ++ List.replicate (240 - l.length) 0

/-- One bit step of the reflected CRC-32C. -/
def crcBit (c : Word) : Word := if c.getLsbD 0 then (c >>> 1) ^^^ 0x82F63B78 else c >>> 1

/-- One byte. -/
def crcByte (c : Word) (b : Byte) : Word := foldN (fun _ c => crcBit c) 8 (c ^^^ b.setWidth 32)

/-- CRC-32C: the Castagnoli polynomial, reflected, preset and inverted as is usual for it (PRESUMED: log 79). -/
def crc32c (l : List Byte) : Word := l.foldl crcByte 0xFFFFFFFF ^^^ 0xFFFFFFFF

/-- The CRC of a flit, over its header and its body (R228). -/
def Flit.crc (f : Flit) : Word := crc32c (bytesOf 12 f.header ++ f.body.bytes)

end Sys2Proof
end

