-- ==== Sys2Proof/Machine/Vat.lean ====
section
/-!
DEFINITION. Machine/Vat.lean: the Vat columns: addresses (R134, R135), the Reed–Solomon check bytes and what a read
finds (R145, R146), the request queue (R139, R140, R162), refresh, calibration, scrub and spare repair (R142 to R151).
The environment says which entries the column timing of Table 5.2 makes eligible, and which symbols the array upsets.
-/

namespace Sys2Proof.Machine

/-! ### Addresses (R134, R135) -/

/-- The end of the Vat's chip addresses. -/
def vatEnd : Nat := 0x4800000000

/-- Sectors of one column. -/
def colSectors : Nat := 2 ^ 23

/-- The column of a Vat chip address, and of a sector (chip address div 32). -/
def vatCol (a : Nat) : Nat := a / 2 ^ 28
def sectorCol (sec : Nat) : Nat := sec / colSectors

/-- Sector in row, row and bank of a sector. -/
def sectorInRow (sec : Nat) : Nat := sec % 32
def sectorRow (sec : Nat) : Nat := sec / 2 ^ 10 % 8192
def sectorBank (sec : Nat) : Nat := (sec / 2 ^ 5 % 32) ^^^ (sec / 2 ^ 10 % 32)

/-- The sector at a sector position of a row and bank of column c. -/
def sectorAt (c row bank pos : Nat) : Nat :=
  c * colSectors + row * 2 ^ 10 + (bank ^^^ (row % 32)) * 2 ^ 5 + pos

/-! ### The code of a sector (R145) -/

/-- A product in GF(2⁸) over 0x11D. -/
def gfMul (a b : Nat) : Nat :=
  (List.range 8).foldl (fun acc i =>
    let acc := if acc ≥ 128 then (2 * acc) ^^^ 0x11D else 2 * acc
    if b.testBit (7 - i) then acc ^^^ a else acc) 0

/-- The coefficients of g(x) below x⁴, from x³ down: g(x) = x⁴ + 15 x³ + 54 x² + 120 x + 64. -/
def genPoly : List Nat := [15, 54, 120, 64]

/-- One step of the division by g(x): the remainder's coefficients from x³ down, and the next data byte. -/
def rsStep (r : List Nat) (d : Nat) : List Nat :=
  let f := d ^^^ r.headD 0
  List.zipWith (fun x g => x ^^^ gfMul f g) (r.drop 1 ++ [0]) genPoly

/-- The four check bytes of 32 data bytes. -/
def rsCheck (data : List Byte) : List Nat := data.foldl (fun r b => rsStep r b.toNat) [0, 0, 0, 0]

/-- Symbol s of the codeword of a sector's data bytes. -/
def symbolOf (data : List Byte) (s : Nat) : Nat :=
  if s < 32 then (data.getD s 0).toNat else (rsCheck data).getD (s - 32) 0

/-- Add error values to a sector's standing errors; a symbol whose errors cancel is correct again. -/
def addSyms (syms : List (Nat × Byte)) : List (Nat × Byte) → List (Nat × Byte)
  | [] => syms
  | (s, e) :: l =>
    let old := match syms.find? (fun p => p.1 == s) with | some p => p.2 | none => 0
    let rest := syms.filter (fun p => p.1 != s)
    addSyms (if 36 ≤ s then syms else if old ^^^ e = 0 then rest else rest ++ [(s, old ^^^ e)]) l

/-- What a sector read finds. -/
inductive SectorRead
  | clean
  | corrected (symbol : Nat) (pattern : Byte)
  | uncorrectable
  | miscorrected                      -- four or more symbols, returned as corrected data
  deriving DecidableEq, Repr

/-- How a sector of stored bytes `data` with standing errors reads. Which case of R145 an error of four or more symbols is
lies open; it is a function of the codeword as it stands, so that a reading repeats until the codeword changes (log 12). -/
def SectorErr.read (e : SectorErr) (data : List Byte) : SectorRead :=
  if e.poison then .uncorrectable else
  match e.syms with
  | [] => .clean
  | [(s, p)] => .corrected s p
  | l => if l.length < 4 || Config.miscorrectDetected data l then .uncorrectable else .miscorrected

/-- A sector found uncorrectable stays so until a whole write replaces it, whatever befalls its symbols later (R178). -/
def SectorErr.after (e : SectorErr) (r : SectorRead) : SectorErr :=
  if r = .uncorrectable then { e with poison := true } else e

/-- The bytes a sector read returns. -/
def SectorErr.bytes (e : SectorErr) (r : SectorRead) (data : List Byte) : List Byte :=
  match r with
  | .miscorrected => (List.range 32).map (fun i => Config.miscorrect data e.syms i)
  | _ => data

/-! ### Error records, signatures and repairs (R145, R147 to R151) -/

/-- The layer of a symbol (R137). -/
def symbolLayer (s : Nat) : Nat := s / 3

/-- The spare pool of a bank and layer. -/
def spareKey (bank layer : Nat) : Nat := bank * 12 + layer

/-- Record an error's location and pattern. -/
def Tile.vatRecord (t : Tile) (sec symbol pattern raw : Nat) (ue : Bool) : Tile :=
  let loc := sectorRow sec + 2 ^ 13 * sectorBank sec + 2 ^ 18 * sectorInRow sec + 2 ^ 23 * symbol +
    2 ^ 29 * b2n ue + 2 ^ 31
  (t.setReg Reg.vatErrLoc (BitVec.ofNat 32 loc)).setReg Reg.vatErrPat (BitVec.ofNat 32 (pattern + 256 * raw))

/-- A signature that was corrected in a row: a hit becomes the most recently seen, and is due at 4 distinct rows; a new
one replaces the least recently seen of a full table (R147). -/
def noteSignature (l : List Signature4) (layer bank sector symbol b row : Nat) : List Signature4 :=
  let same := fun (g : Signature4) =>
    g.layer == layer && g.bank == bank && g.sector == sector && g.symbol == symbol && g.bit == b
  match l.find? same with
  | some g =>
    let rows := if g.rows.contains row then g.rows else g.rows ++ [row]
    l.filter (fun x => !same x) ++ [{ g with rows := rows, due := g.due || decide (4 ≤ rows.length) }]
  | none =>
    (if 16 ≤ l.length then l.drop 1 else l) ++ [⟨layer, bank, sector, symbol, b, [row], false⟩]

/-- Start a repair's copy, or let it wait for the one that runs (R151). -/
def Column.addRepair (c : Column) (r : Repair) : Column :=
  match c.copying with
  | none => { c with copying := some r }
  | some _ => { c with waiting := c.waiting ++ [r] }

/-- A hard cell fault takes a spare row of its bank and layer, if one is left (R148 to R150). The flag says that none
was. -/
def Tile.rowRepair (t : Tile) (sec symbol b : Nat) : Tile × Bool :=
  let bank := sectorBank sec
  let layer := symbolLayer symbol
  let k := spareKey bank layer
  if 16 ≤ tabGet natD t.col.spareRows k then (t.setF Reg.vatRepair 30 30 1, true) else
  let r : Repair := ⟨false, bank, layer, sectorInRow sec, symbol, b, sectorRow sec, 0⟩
  let t := (t.count Reg.vatRepair 12 0 1).setF Reg.vatRepair 29 29 1
  ({ t with col := { (t.col.addRepair r) with spareRows := tabMod natD t.col.spareRows k (· + 1) } }, false)

/-- VAT_REPAIR as the column's repairs make it: the spares in use, and whether a copy runs (R149, R151). -/
def Tile.showRepairs (t : Tile) : Tile :=
  ((t.setF Reg.vatRepair 12 0 ((t.col.spareRows.map (·.2)).sum)).setF Reg.vatRepair 26 16
    ((t.col.spareCols.map (·.2)).sum)).setF Reg.vatRepair 29 29 (b2n t.col.copying.isSome)

/-- The bits set in a byte. -/
def bitsSet (p : Byte) : List Nat := (List.range 8).filter (fun b => bit p b)

/-- The signatures of one correction, and the repair of a cell fault that has come back after a rewrite (R147, R148).
The list says, for each repair, whether a spare was missing. -/
def Tile.noteCorrection (t : Tile) (sec symbol : Nat) (pattern : Byte) : Tile × List Bool :=
  (bitsSet pattern).foldl (fun (st : Tile × List Bool) b =>
    let t := st.1
    let key := (sec % colSectors, symbol * 8 + b)
    let t := { t with col := { t.col with
      sigs := noteSignature t.col.sigs (symbolLayer symbol) (sectorBank sec) (sectorInRow sec) symbol b (sectorRow sec) } }
    if t.col.rewritten.contains key then
      let r := ({ t with col := { t.col with rewritten := t.col.rewritten.filter (· != key) } } : Tile).rowRepair sec symbol b
      (r.1, st.2 ++ [r.2])
    else (t, st.2)) (t, [])

/-- The records of one sector read in its column: counters, location and pattern, signatures (R145). `fg` says that an
uncorrectable outcome counts in VAT_UE_CNT; `old` is the sector as stored; `draw` numbers the free values. -/
def Tile.vatOutcome (t : Tile) (sec : Nat) (old : List Byte) (fg : Bool) (draw : Nat) (r : SectorRead) : Tile × List Bool :=
  match r with
  | .clean => (t, [])
  | .corrected s p =>
    ((t.count Reg.vatCeCnt 31 0 1).vatRecord sec s p.toNat (symbolOf old s ^^^ p.toNat) false).noteCorrection sec s p
  | .uncorrectable =>
    let t := if fg then t.count Reg.vatUeCnt 31 0 1 else t
    (t.vatRecord sec 0 0 0 true, [])
  | .miscorrected =>
    ((t.count Reg.vatCeCnt 31 0 1).vatRecord sec (Config.freeValue draw 32 % 36) (Config.freeValue draw 33 % 256)
      (Config.freeValue draw 34 % 256) false, [])

/-- A sector corrected in a symbol has been rewritten: a bit of it that is corrected again is a hard fault (R148). -/
def Column.noteRewrite (c : Column) (sec sym : Nat) (p : Byte) : Column :=
  let keys := (bitsSet p).map (fun b => (sec % colSectors, sym * 8 + b))
  { c with rewritten := c.rewritten ++ keys.filter (fun k => !c.rewritten.contains k) }

/-- The column's note of a corrected sector that is written back. -/
def Tile.rewrote (t : Tile) (sec : Nat) (r : SectorRead) : Tile :=
  match r with
  | .corrected sym p => { t with col := t.col.noteRewrite sec sym p }
  | _ => t

/-- A 64-bit sector counter (Table 5.5), which wraps. -/
def Tile.sectors (t : Tile) (o n : Nat) : Tile := t.setReg64 o ((t.reg64 o).toNat + n)

/-- A change of a column's standing errors. -/
def Tile.setErr (t : Tile) (sec : Nat) (e : SectorErr) : Tile :=
  { t with col := { t.col with errs := tabSet errD t.col.errs (sec % colSectors) e } }

/-- A sector's standing errors, with the upsets of this access added. -/
def Tile.errAt (t : Tile) (sec : Nat) (ups : List (Nat × Byte)) : SectorErr :=
  let e := tabGet errD t.col.errs (sec % colSectors)
  { e with syms := addSyms e.syms ups }

/-- Log and trace what the repairs of a column did: a missing spare logs CZ_ERR_VAT_SPARE (R150, R328). -/
def State.vatRepairs (s : State) (c : Nat) (l : List Bool) : State :=
  let part := match s.tileOwner c with | some n => n | none => chipPart
  l.foldl (fun s missing =>
    let s := if missing then s.logOpen 0x0302 Src.vat part else s
    match s.tileOwner c with
    | some n => s.tracePart (0xC0 + c / 64) Src.vat n [c]
    | none => s.trace (0xC0 + c / 64) Src.vat [c]) s

/-! ### The request queue (R139, R140, R162) -/

/-- The 32 bytes of a sector in home order. -/
def State.sectorBytes (s : State) (sec : Nat) : List Byte := memRead s.mem (32 * sec) 32

/-- Bytes laid over a sector's bytes at an offset. -/
def overlay (bs : List Byte) (off : Nat) (w : List Byte) : List Byte := bs.take off ++ w ++ bs.drop (off + w.length)

/-- The bytes that a write puts into a cached line: the present sectors take them (R156), but for those that would merge
into an uncorrectable word, which drop the line (R158). The flag says that the line stays. -/
def CacheLine.take (c : CacheLine) (addr : Nat) (bs : List Byte) : CacheLine × Bool :=
  let has := fun i => if i < 32 then c.v0 else c.v1
  let hits := fun w => has (8 * w) && overlaps (64 * c.line + 8 * w) 8 addr bs.length
  let covers := fun w => decide (addr ≤ 64 * c.line + 8 * w) && decide (64 * c.line + 8 * w + 8 ≤ addr + bs.length)
  ({ c with
      bytes := (List.range 64).map (fun i =>
        let a := 64 * c.line + i
        if addr ≤ a ∧ a < addr + bs.length ∧ has i then bs.getD (a - addr) 0 else c.bytes.getD i 0)
      bad := c.bad.filter (fun p => !hits p.1) },
    !c.bad.any (fun p => p.2 == 2 && hits p.1 && !covers p.1))

/-- Words of a cached line in a state (1 correctable, 2 uncorrectable) that a write of bytes merges into (R158). -/
def CacheLine.merges (c : CacheLine) (addr : Nat) (bs : List Byte) (kind : Nat) : Nat :=
  (c.bad.filter (fun p => p.2 == kind && (if p.1 < 4 then c.v0 else c.v1) &&
    overlaps (64 * c.line + 8 * p.1) 8 addr bs.length &&
    !(decide (addr ≤ 64 * c.line + 8 * p.1) && decide (64 * c.line + 8 * p.1 + 8 ≤ addr + bs.length)))).length

/-- An own-Ladle write to a line: the present sectors of the line in the tile's own cache take the bytes, and a fill of
the line that has not been installed never will be (R156). A line whose uncorrectable word the write would merge into is
dropped; such words are counted, and the correctable ones it merges into (R158). -/
def Tile.ownWrite (t : Tile) (addr : Nat) (bs : List Byte) : Tile :=
  let line := addr / 64
  let mine := t.cache.filterMap (fun p => p.2.bind (fun c => if c.line = line then some c else none))
  let n := fun kind => (mine.map (fun c => c.merges addr bs kind)).sum
  let upd := fun (c : CacheLine) =>
    if c.line ≠ line then some c else
    let r := c.take addr bs
    if r.2 then some r.1 else none
  let t := (t.count Reg.pailEccCnt 15 0 (n 1)).count Reg.pailEccCnt 31 16 (n 2)
  { t with
    cache := (t.cache.map (fun p => (p.1, p.2.bind upd))).filter (fun p => p.2.isSome)
    fills := t.fills.map (fun f => if f.sector / 2 = line then { f with install := false } else f)
    txns := t.txns.map (fun x => match x.target with
      | .vat a => if a / 64 = line ∧ !x.write then { x with install := false } else x
      | _ => x) }

/-- A transaction of a tile changes. -/
def Tile.modTxn (t : Tile) (id : Nat) (f : Txn → Txn) : Tile :=
  { t with txns := t.txns.map (fun x => if x.id = id then f x else x) }

/-- One sector of a transaction of tile t has been served at a home in tile `home`: with the last, the answer goes back,
at once from the tile's own home and else over the mesh (R126, R127). -/
def State.txnServed (s : State) (home t id : Nat) : State :=
  let last := (s.tile t).txns.any (fun y => y.id == id && decide (y.left ≤ 1))
  let s := s.modTile t (fun x => x.modTxn id (fun y =>
    { y with left := y.left - 1, phase := if last && home == t then .back else y.phase }))
  if last && home != t then
    { s with mesh := s.mesh ++ [⟨t, id, true, .tile t, home, 0, s.cyc + meshEntry⟩] }
  else s

/-- A write to a Vat home has taken its place: it is performed, and acknowledged (R162, R163). A Skimmer job, whose Whey
lies in its own column, notes it (R221). -/
def State.vatPerform (s : State) (e : VatEntry) : State :=
  let a := 32 * e.sector + e.off
  let s := { s.modTile (sectorCol e.sector) (fun x => { x with
      skim := x.skim.map (fun j => { j with wheyWrote := j.wheyWrote ++ [(a, e.bytes.length)] }) }) with
    mem := memWrite s.mem a e.bytes }
  match e.src with
  | .ladle t id =>
    (s.modTile t (fun x => x.ownWrite (32 * e.sector + e.off) e.bytes)).txnServed (sectorCol e.sector) t id
  | .agent => s

/-- One entry takes its place in the queue of column c. -/
def State.vatEnter (s : State) (c : Nat) (e : VatEntry) : State :=
  let e := { e with old := s.sectorBytes e.sector }
  let s := s.modTile c (fun t => { t with col := { t.col with queue := t.col.queue ++ [e] } })
  if e.write then s.vatPerform e else s

/-- Requests that wait enter, in arrival order, as long as all entries of the first find room. -/
def State.vatRefill (s : State) (c : Nat) : Nat → State
  | 0 => s
  | n + 1 =>
    match (s.tile c).col.waitQ with
    | [] => s
    | g :: l =>
      if 32 < (s.tile c).col.queue.length + g.length then s else
      let s := s.modTile c (fun t => { t with col := { t.col with waitQ := l } })
      (g.foldl (fun s e => s.vatEnter c e) s).vatRefill c n

/-- A request of one or two entries arrives at column c (R139). -/
def State.vatArrive (s : State) (c : Nat) (g : List VatEntry) : State :=
  let s := s.modTile c (fun t => { t with col := { t.col with waitQ := t.col.waitQ ++ [g] } })
  s.vatRefill c (s.tile c).col.waitQ.length

/-- The entries of an access of n bytes at Vat chip address a, lower address first. -/
def vatEntries (src : Requester) (write cached : Bool) (a n : Nat) (bs : List Byte) : List VatEntry :=
  (List.range (ceilDiv (a % 32 + n) 32)).map (fun i =>
    let sec := a / 32 + i
    let lo := max a (32 * sec)
    let hi := min (a + n) (32 * sec + 32)
    { sector := sec, write := write, off := lo - 32 * sec, bytes := if write then (bs.drop (lo - a)).take (hi - lo) else [],
      old := [], src := src, txnOff := lo - a, len := hi - lo, passed := 0, cached := cached })

/-- Which entry starts in a slot (R139): of the eligible ones, never one with an earlier access to its sector. -/
def Column.choose (c : Column) (eligible : List Nat) : Option Nat :=
  let q := c.queue
  let idx := List.range q.length
  let ok := idx.filter (fun i => eligible.contains i &&
    (match q[i]? with
      | some e => !((q.take i).any (fun x => x.sector == e.sector))
      | none => false))
  let isWrite := fun i => match q[i]? with | some e => e.write | none => false
  let rest := fun (l : List Nat) =>
    let w := if c.writing && decide (c.wrun < 16) then l.find? isWrite else none
    match w with
    | some i => some i
    | none => l.head?
  match idx.find? (fun i => match q[i]? with | some e => decide (64 ≤ e.passed) | none => false) with
  | none => rest ok
  | some a =>
    if ok.contains a then some a else
    rest (ok.filter (fun i => match q[i]?, q[a]? with
      | some e, some x => sectorBank e.sector != sectorBank x.sector &&
          tabGet natD c.rowOpen (sectorBank e.sector) == sectorRow e.sector + 1
      | _, _ => false))

/-- The column after entry i left its queue to start. -/
def Column.started (c : Column) (i : Nat) (e : VatEntry) : Column :=
  { c with
    queue := (listDrop1 c.queue i).map (fun x => { x with passed := x.passed + 1 })
    writing := e.write
    wrun := if e.write then (if c.writing then c.wrun + 1 else 1) else 0
    rowOpen := tabSet natD c.rowOpen (sectorBank e.sector) (sectorRow e.sector + 1) }

/-- A sector reaches the Ladle that asked for it (R126, R128, R155). -/
def Tile.vatDeliver (t : Tile) (id : Nat) (e : VatEntry) (bs : List Byte) (bad : Bool) (cyc : Nat) : Tile :=
  let inst := e.cached && !bad && t.txns.any (fun y => y.id == id && y.install)
  let t := t.modTxn id (fun y => { y with
    data := (List.range y.len).map (fun i =>
      if e.txnOff ≤ i ∧ i < e.txnOff + e.len then bs.getD (e.off + (i - e.txnOff)) 0 else y.data.getD i 0)
    bad := if bad then y.bad ++ [e.txnOff] else y.bad })
  if inst then { t with fills := t.fills ++ [⟨e.sector, bs, true, cyc⟩] } else t

/-- What a starting entry reads, and its effects on its column (R140, R145, R146). A whole write replaces the sector; a
partial one reads it, and writes it back corrected or poisoned. -/
def Tile.vatServe (t : Tile) (e : VatEntry) (ups : List (Nat × Byte)) (draw : Nat) : Tile × List Bool × SectorRead × List Byte :=
  let err := t.errAt e.sector ups
  if e.write && decide (e.len = 32) then
    ((t.setErr e.sector .clean).sectors Reg.vatWrSectLo 1, [], .clean, e.old)
  else
    let r := err.read e.old
    let o := (t.sectors Reg.vatRdSectLo 1).vatOutcome e.sector e.old true draw r
    let bs := err.bytes r e.old
    if e.write then
      let poisoned := r == .uncorrectable
      (((o.1.setErr e.sector (if poisoned then ⟨[], true⟩ else .clean)).rewrote e.sector r).sectors Reg.vatWrSectLo 1,
        o.2, r, bs)
    else (o.1.setErr e.sector (err.after r), o.2, r, bs)

/-- The entries of a queue that touch a sector, and the sector's bytes in home order, from the bytes `cur` on. -/
def replaySector (sec : Nat) : List VatEntry → List Byte → List VatEntry × List Byte
  | [], cur => ([], cur)
  | e :: l, cur =>
    if e.sector = sec then
      let r := replaySector sec l (if e.write then overlay cur e.off e.bytes else cur)
      ({ e with old := cur } :: r.1, r.2)
    else
      let r := replaySector sec l cur
      (e :: r.1, r.2)

/-- A sector's cells now hold bytes that a miscorrection put there: the queued accesses to it meet them (R140, R145). -/
def State.setArray (s : State) (sec : Nat) (bs : List Byte) : State :=
  let c := sectorCol sec
  let r := replaySector sec (s.tile c).col.queue bs
  { s.modTile c (fun t => { t with col := { t.col with queue := r.1 } }) with mem := memWrite s.mem (32 * sec) r.2 }

/-- Entry i of column c starts, with the upsets its sector shows. -/
def State.vatStartAt (s : State) (c i : Nat) (upsets : List (Nat × Byte)) : State :=
  match (s.tile c).col.queue[i]? with
  | none => s
  | some e =>
    let t := { s.tile c with col := (s.tile c).col.started i e }
    let v := t.vatServe e upsets s.freeCount
    let s := ({ s with freeCount := s.freeCount + 1 }.setTile c v.1).vatRepairs c v.2.1
    let bad := v.2.2.1 == .uncorrectable
    let bs := v.2.2.2
    if e.write then
      (if v.2.2.1 = .miscorrected then s.setArray e.sector (overlay bs e.off e.bytes) else s)
    else
      match e.src with
      | .ladle k id => (s.modTile k (fun x => x.vatDeliver id e bs bad s.cyc)).txnServed c k id
      | .agent => { s with homeGot := s.homeGot ++ [(e.txnOff, (bs.drop e.off).take e.len, bad)] }

/-- The entry that the controller of column c starts among the eligible ones, and the requests that then find room. -/
def State.vatNext (s : State) (c : Nat) (eligible : List Nat) (upsets : List (Nat × Byte)) : State :=
  match (s.tile c).col.choose eligible with
  | none => s
  | some i =>
    let s := s.vatStartAt c i upsets
    s.vatRefill c (s.tile c).col.waitQ.length

/-- Does a forced scrub row wait at rank 3? -/
def Tile.forcedScrub (t : Tile) : Bool := t.col.scrubDue && t.f Reg.vatScrubCfg 31 31 == 1

/-- VAT_ENTRY_START: one entry of column c starts; requests that waited for room take their place. A forced scrub row
ranks before it (Table 5.4). -/
def State.vatEntryStart (s : State) (c : Nat) (eligible : List Nat) (upsets : List (Nat × Byte)) : State :=
  if tileCount ≤ c || (s.tile c).forcedScrub then s else s.vatNext c eligible upsets

/-! ### Refresh, calibration and scrub (R142 to R144) -/

/-- VAT_REFRESH: one row index in every bank and layer; the open banks close, and a change of HOT takes effect. -/
def Tile.vatRefresh (t : Tile) : Tile :=
  { t with col := { t.col with
      refRow := (t.col.refRow + 1) % 8192, rowOpen := [], hotNow := t.f Reg.vatStatus 0 0 == 1 } }

/-- The column taken for work above the foreground: the open banks have closed (R142). -/
def Tile.closeBanks (t : Tile) : Tile := { t with col := { t.col with rowOpen := [] } }

/-- VAT_LANE_CAL: the open banks close; a failed calibration sets CAL_FAIL and logs CZ_ERR_VAT_CAL. -/
def State.vatLaneCal (s : State) (c : Nat) (ok : Bool) : State :=
  if tileCount ≤ c then s else
  let s := s.modTile c Tile.closeBanks
  if ok then s else
  (s.modTile c (fun t => t.setF Reg.vatStatus 1 1 1)).logOpen 0x0303 Src.vat
    (match s.tileOwner c with | some n => n | none => chipPart)

/-- The bytes a sector's array cells hold: an entry still in the queue has not changed them. -/
def State.arrayBytes (s : State) (sec : Nat) : List Byte :=
  match (s.tile (sectorCol sec)).col.queue.find? (fun e => e.sector == sec) with
  | some e => e.old
  | none => s.sectorBytes sec

/-- Read a sector in background, and write it back corrected, or with `copy` in any case, an uncorrectable one poisoned;
the flag says that it was uncorrectable (R144, R148, R151). -/
def State.backgroundSector (s : State) (c sec : Nat) (ups : List (Nat × Byte)) (copy : Bool) : State × Bool :=
  let t := s.tile c
  let err := t.errAt sec ups
  let old := s.arrayBytes sec
  let r := err.read old
  let o := (t.sectors Reg.vatRdSectLo 1).vatOutcome sec old false s.freeCount r
  let s := { s with freeCount := s.freeCount + 1 }
  let back := (o.1.setErr sec .clean).sectors Reg.vatWrSectLo 1
  match r with
  | .corrected _ _ => ((s.setTile c (back.rewrote sec r)).vatRepairs c o.2, false)
  | .miscorrected => ((s.setTile c back).setArray sec (err.bytes r old), false)
  | .uncorrectable =>
    (s.setTile c (if copy then back.setErr sec ⟨[], true⟩ else o.1.setErr sec (err.after r)), true)
  | .clean => (s.setTile c (if copy then back else o.1.setErr sec err), false)

/-- The 32 sectors of one row of a bank in background: read for the scrub, which logs uncorrectable ones, or copied. -/
def State.backgroundRow (s : State) (c row bank : Nat) (ups : List (Nat × Nat × Byte)) (copy : Bool) : State :=
  (List.range 32).foldl (fun s pos =>
    let r := s.backgroundSector c (sectorAt c row bank pos)
      ((ups.filter (fun u => u.1 == pos)).map (fun u => u.2)) copy
    if r.2 && !copy then r.1.logOpen 0x0300 Src.vat (match s.tileOwner c with | some n => n | none => chipPart)
    else r.1) s

/-- VAT_SCRUB_ROW: the next row, in row order and bank order, when the request queue is empty or the row is forced. -/
def State.vatScrubRow (s : State) (c : Nat) (ups : List (Nat × Nat × Byte)) : State :=
  let col := (s.tile c).col
  if tileCount ≤ c || (s.tile c).f Reg.vatScrubCfg 31 31 == 0 || !(col.queue.isEmpty || col.scrubDue) then s else
  let s := s.backgroundRow c (col.scrubRow / 32) (col.scrubRow % 32) ups false
  s.modTile c (fun t =>
    let last := decide (col.scrubRow + 1 = 262144)
    let t := { t with col := { t.col with scrubRow := if last then 0 else col.scrubRow + 1, scrubDue := false, rowOpen := [] } }
    if last then t.setReg Reg.vatScrubPass (t.reg Reg.vatScrubPass + 1) else t)

/-- SCRUB_FORCE: the due row has yielded for 64 ms, and now ranks before foreground accesses. -/
def Tile.scrubForce (t : Tile) : Tile :=
  if t.f Reg.vatScrubCfg 31 31 = 0 then t else { t with col := { t.col with scrubDue := true } }

/-! ### Sense lines and spare repair (R147 to R151) -/

/-- The corrected value of a signature's bit in a row. -/
def State.signatureBit (s : State) (c row : Nat) (g : Signature4) : Bool :=
  (symbolOf (s.arrayBytes (sectorAt c row g.bank g.sector)) g.symbol).testBit g.bit

/-- SENSE_LINE_TEST: the first due signature is tested over 64 rows spaced 128 apart. -/
def State.senseLineTest (s : State) (c : Nat) (raw : List Bool) : State :=
  if tileCount ≤ c || raw.length != 64 then s else
  match (s.tile c).col.sigs.find? (·.due) with
  | none => s
  | some g =>
    let part := match s.tileOwner c with | some n => n | none => chipPart
    let s := s.modTile c (fun t => { t.closeBanks with col := { t.closeBanks.col with sigs := t.col.sigs.filter (· != g) } })
    let wrong := (List.range 64).filter (fun i => raw.getD i false != s.signatureBit c (128 * i) g)
    let stuck := raw.all (· == raw.headD false)
    let s := match s.tileOwner c with
      | some n => s.tracePart (0xC0 + c / 64) Src.vat n [c, g.bank]
      | none => s.trace (0xC0 + c / 64) Src.vat [c, g.bank]
    if !stuck || decide (wrong.length < 8) then s else
    let k := spareKey g.bank g.layer
    if 4 ≤ tabGet natD (s.tile c).col.spareCols k then
      (s.modTile c (fun t => t.setF Reg.vatRepair 30 30 1)).logOpen 0x0302 Src.vat part
    else
      let r : Repair := ⟨true, g.bank, g.layer, g.sector, g.symbol, g.bit, 0, 0⟩
      (s.modTile c (fun t =>
        let t := ((t.setF Reg.vatRepair 31 31 1).setF Reg.vatRepair 29 29 1).count Reg.vatRepair 26 16 1
        { t with col := { (t.col.addRepair r) with spareCols := tabMod natD t.col.spareCols k (· + 1) } })).logOpen
          0x0301 Src.vat part

/-- REPAIR_COPY_ROW: the running repair copies its next row through the spare; after its last row the next repair
that waits starts (R151). -/
def State.repairCopyRow (s : State) (c : Nat) : State :=
  if tileCount ≤ c then s else
  match (s.tile c).col.copying with
  | none => s
  | some r =>
    let row := if r.column then r.ptr else r.row
    let s := s.backgroundRow c row r.bank [] true
    let fin := !r.column || decide (8192 ≤ r.ptr + 1)
    s.modTile c (fun t =>
      let t := { t with col := { t.col with rowOpen := [] } }
      if !fin then { t with col := { t.col with copying := some { r with ptr := r.ptr + 1 } } }
      else
        let col := t.col
        let t := { t with col := { col with repairs := col.repairs ++ [{ r with ptr := r.ptr + 1 }],
                                            copying := col.waiting.head?, waiting := col.waiting.drop 1 } }
        if col.waiting.isEmpty then t.setF Reg.vatRepair 29 29 0 else t)

end Sys2Proof.Machine
end

