-- ==== Sys2Proof/Machine/Window.lean ====
section
/-!
DEFINITION. Machine/Window.lean: global addresses (R13, R134, R136) and the memory windows of a partition (R334 to
R337, R322).
-/

namespace Sys2Proof.Machine

/-- The Pail's first chip address. -/
def pailBase : Nat := 0x8000000000

/-- The unit, region, tile and slice offset of a Pail chip address (R136). -/
def pailUnit (a : Nat) : Nat := (a - pailBase) / 2 ^ 27
def pailRegion (a : Nat) : Nat := (a - pailBase) / 2 ^ 26 % 2
def pailTile (a : Nat) : Nat := 64 * pailUnit a + (a - pailBase) / 2 ^ 20 % 64
def pailOff (a : Nat) : Nat := pailRegion a * 2 ^ 20 + (a - pailBase) % 2 ^ 20

/-- The first chip address of a region of a unit's Pail, and how far one slice's part reaches in its 1 MiB. -/
def regionBase (k r : Nat) : Nat := pailBase + k * 2 ^ 27 + r * 2 ^ 26
def regionSpan (r : Nat) : Nat := if r = 0 then 0x100000 else 0xC0000

/-- Is a chip address backed by the Pail? -/
def isPail (a : Nat) : Bool :=
  decide (pailBase ≤ a) && decide (pailUnit a < 18) && decide ((a - pailBase) % 2 ^ 20 < regionSpan (pailRegion a))

/-- Do n bytes at a chip address lie in the Vat, or in the Pail without meeting a hole of region 1 (R134, R136)? -/
def chipRangeOk (a n : Nat) : Bool :=
  if a + n ≤ vatEnd then true
  else if !isPail a then false
  else
    let r1 := regionBase (pailUnit a) 1
    if a < r1 then decide (a + n ≤ r1 + regionSpan 1)
    else decide ((a - r1) % 2 ^ 20 + n ≤ regionSpan 1)

/-- The chip ID and chip address of a global address (R13). -/
def gChip (g : Nat) : Nat := g / 2 ^ 40 % 2 ^ 18
def gAddr (g : Nat) : Nat := g % 2 ^ 40

/-- Is a range of global addresses well-formed? -/
def globalOk (g n : Nat) : Bool := decide (g < 2 ^ 58) && chipRangeOk (gAddr g) n

/-- This chip's ID. -/
def State.chipId (s : State) : Nat := s.f Reg.fabChipId 17 0

/-- BASE, SIZE, ACCESS and PRIO of window w of a partition. -/
def Part.winBase (p : Part) (w : Nat) : Nat :=
  (p.reg (Reg.mbPartWinBaseLo + 32 * w)).toNat + 2 ^ 32 * (p.reg (Reg.mbPartWinBaseHi + 32 * w)).toNat
def Part.winSize (p : Part) (w : Nat) : Nat :=
  (p.reg (Reg.mbPartWinSizeLo + 32 * w)).toNat + 2 ^ 32 * (p.reg (Reg.mbPartWinSizeHi + 32 * w)).toNat
def Part.winAccess (p : Part) (w : Nat) : Nat := p.f (Reg.mbPartWinCtl + 32 * w) 5 0
def Part.winPrio (p : Part) (w : Nat) : Nat := p.f (Reg.mbPartWinCtl + 32 * w) 13 12

/-- Does window w cover a global address? -/
def Part.winCovers (p : Part) (w g : Nat) : Bool :=
  decide (p.winBase w ≤ g) && decide (g < p.winBase w + p.winSize w)

/-- The window that decides an address: the lowest-numbered of the highest priority (R336). -/
def Part.winDecides (p : Part) (g : Nat) : Option Nat :=
  let ws := (List.range 16).filter (fun w => p.winCovers w g)
  let top := (ws.map p.winPrio).foldl max 0
  ws.find? (fun w => p.winPrio w == top)

/-- Does a chip address lie in a context area (R322)? -/
def inContext (a : Nat) : Bool := decide (a < vatEnd) && decide (0x0F800000 ≤ a % 2 ^ 28)

/-- Does a partition's windows grant an access bit at one global address (R334, R336, R337)? -/
def Part.winGrants (p : Part) (g acc : Nat) : Bool :=
  !inContext (gAddr g) &&
  match p.winDecides g with
  | some w => (p.winAccess w).testBit acc
  | none => false

/-- The same for n bytes: windows and context areas end at multiples of 64 KiB. -/
def Part.winGrantsAll (p : Part) (g n acc : Nat) : Bool :=
  (List.range ((g + n - 1) / 2 ^ 16 + 1 - g / 2 ^ 16)).all (fun i => p.winGrants (max g ((g / 2 ^ 16 + i) * 2 ^ 16)) acc)

/-- The access bits of Table 12.2. -/
abbrev accRd : Nat := 0
abbrev accWr : Nat := 1
abbrev accHrd : Nat := 2
abbrev accHwr : Nat := 3
abbrev accInRd : Nat := 4
abbrev accInWr : Nat := 5

/-- The partition's grant of a global range to the engines of a tile. -/
def State.tileGrants (s : State) (t g n acc : Nat) : Bool :=
  match s.tileOwner t with
  | some p => (s.part p).winGrantsAll g n acc
  | none => false

/-- Does a range of chip addresses lie in the partition's own units (R335, R339)? -/
def State.rangeOwned (s : State) (p a n : Nat) : Bool :=
  if a < vatEnd then (List.range ((a + n - 1) / 2 ^ 34 + 1 - a / 2 ^ 34)).all (fun i => s.ownsUnit p (a / 2 ^ 34 + i))
  else decide (pailBase ≤ a) &&
    (List.range (pailUnit (a + n - 1) + 1 - pailUnit a)).all (fun i => s.ownsUnit p (pailUnit a + i))

end Sys2Proof.Machine
end

