-- ==== Sys2Proof/Machine/Pail.lean ====
section
/-!
DEFINITION. Machine/Pail.lean: the Pail: region modes and zeroing (R152, R153, R160), the slices (R154, R158), and the
private read cache of a tile's own Ladle (R155 to R157).
-/

namespace Sys2Proof.Machine

/-! ### Regions and modes -/

/-- PAIL_MODEk of the partition that owns the unit; an unowned unit reads as 0. -/
def State.pailModeReg (s : State) (k : Nat) : Word :=
  match s.unitOwner k with
  | some n => (s.part n).reg (Reg.pailMode + 4 * k)
  | none => 0

/-- Is region r of unit k in cache mode? -/
def State.isCache (s : State) (k r : Nat) : Bool := bit (s.pailModeReg k) r

/-- Is region r of unit k being zeroed? -/
def State.isZeroing (s : State) (k r : Nat) : Bool :=
  match tabGet zeroingD s.zeroing k with
  | some z => z.regions.testBit r
  | none => false

/-- Cycles that a zeroing of a set of regions takes (R153). -/
def zeroingCycles (regions : Nat) : Nat :=
  (if regions.testBit 0 then 16384 else 0) + (if regions.testBit 1 then 12288 else 0)

/-- The ways of a region (R155). -/
def regionWays (r : Nat) : List Nat := if r = 0 then [0, 1, 2, 3] else [4, 5, 6]

/-- A slice without the cached lines of the regions in a mask. -/
def Tile.dropWays (t : Tile) (regions : Nat) : Tile :=
  { t with cache := t.cache.filter (fun p =>
      !(List.range 2).any (fun r => regions.testBit r && (regionWays r).contains (p.1 / 4096))) }

/-- The unit whose Pail a transaction addresses. -/
def Txn.pailUnitOf (x : Txn) : Option Nat := match x.target with | .pail a => some (pailUnit a) | _ => none

/-- Is a tile's Ladle quiesced: STOP set, and nothing started and not complete (R131)? -/
def Tile.ladleQuiet (t : Tile) : Bool :=
  t.f Reg.ladleQctl 3 3 == 1 && t.issuing.isNone && t.txns.isEmpty && (tabGet waitD t.waits 3).isNone

/-- Does a chip address lie in unit k's Pail? -/
def inPailUnit (k a : Nat) : Bool := isPail a && pailUnit a == k

/-- Are the regions of unit k quiesced toward partition n (R153): its Ladles are, and no transaction addressed to the
unit's Pail is outstanding, of a Ladle, of the host, or of another chip? -/
def State.pailQuiet (s : State) (n k : Nat) : Bool :=
  (s.tilesOf n).all (fun t => (s.tile t).ladleQuiet) &&
  s.tiles.all (fun p => p.2.txns.all (fun x => x.pailUnitOf != some k)) &&
  s.ingressQ.all (fun g => !inPailUnit k g.addr && !inPailUnit k (g.addr + g.bytes.length - 1)) &&
  s.readQ.all (fun g => !inPailUnit k g.addr && !inPailUnit k (g.addr + max g.len 1 - 1)) &&
  s.arrivals.all (fun x => !((x.pkt.op == 1 || x.pkt.op == 2) && inPailUnit k x.pkt.addr))

/-- Start zeroing regions of a unit. -/
def State.startZeroing (s : State) (k regions : Nat) : State :=
  let old := match tabGet zeroingD s.zeroing k with | some z => z.regions | none => 0
  { s with zeroing := tabSet zeroingD s.zeroing k (some ⟨old ||| regions, s.cyc⟩) }

/-- A write to PAIL_MODEk in partition n's block (R131, R153, R160). -/
def State.pailModeWrite (s : State) (n k : Nat) (val : Word) : State :=
  let o := Reg.pailMode + 4 * k
  if !s.ownsUnit n k then s.modPart n (fun p => p.setF o 31 31 1) else
  let old := (s.part n).f o 1 0
  let s1 := if bit val 31 then s.modPart n (fun p => p.setF o 31 31 0) else s
  if fld val 1 0 = old then s1
  else if !s.pailQuiet n k then s.modPart n (fun p => p.setF o 31 31 1)
  else
    let changed := old ^^^ fld val 1 0
    let s := s1.modPart n (fun p => (p.setF o 1 0 (fld val 1 0)).setF o 8 8 1)
    ((List.range 64).foldl (fun s i => s.modTile (64 * k + i) (·.dropWays changed)) s).startZeroing k changed

/-- Memory without the bytes of a range: they read as zero. -/
def memZero (m : List Host.Cell) (a n : Nat) : List Host.Cell := m.filter (fun p => !(decide (a ≤ p.1) && decide (p.1 < a + n)))

/-- Zero a region of a unit's Pail in all 64 slices. -/
def State.zeroRegion (s : State) (k r : Nat) : State :=
  let s := { s with mem := memZero s.mem (regionBase k r) (2 ^ 26) }
  (List.range 64).foldl (fun s i => s.modTile (64 * k + i) (fun t =>
    { t with pailBad := t.pailBad.filter (fun p => p.1 / 2 ^ 17 != r) })) s

/-- PAIL_ZEROING_DONE: every region that the write changed has been zeroed, and ZEROING clears. -/
def State.pailZeroingDone (s : State) (k : Nat) : State :=
  match tabGet zeroingD s.zeroing k with
  | none => s
  | some z =>
    if cycDiff s.cyc z.start < zeroingCycles z.regions then s else
    let s := (List.range 2).foldl (fun s r => if z.regions.testBit r then s.zeroRegion k r else s) s
    let s := { s with zeroing := tabSet zeroingD s.zeroing k none }
    match s.unitOwner k with
    | some n => s.modPart n (fun p => p.setF (Reg.pailMode + 4 * k) 8 8 0)
    | none => s

/-! ### The slice (R154, R158) -/

/-- The 8-byte words of a slice that n bytes at a slice offset touch, with their standing ECC state. -/
def Tile.pailHits (t : Tile) (off n : Nat) : List (Nat × Nat) := t.pailBad.filter (fun p => overlaps (8 * p.1) 8 off n)

/-- Count corrected and uncorrectable slice words. -/
def Tile.pailCount (t : Tile) (hits : List (Nat × Nat)) : Tile :=
  (t.count Reg.pailEccCnt 15 0 (hits.filter (fun p => p.2 == 1)).length).count Reg.pailEccCnt 31 16
    (hits.filter (fun p => p.2 == 2)).length

/-- A write of bytes to a scratchpad region: a word it covers becomes clean; a narrow write corrects a correctable word
and leaves an uncorrectable one as it is (R158). -/
def State.pailWrite (s : State) (a : Nat) (bs : List Byte) : State :=
  let t := s.tile (pailTile a)
  let off := pailOff a
  let n := bs.length
  let narrow := (t.pailHits off n).filter (fun p => !coversWord off n p.1)
  let keep := fun x => narrow.any (fun p => p.2 == 2 && p.1 == (x - a + off) / 8)
  let t := { (t.pailCount narrow) with
    pailBad := t.pailBad.filter (fun p => !(overlaps (8 * p.1) 8 off n) || (p.2 == 2 && !coversWord off n p.1)) }
  { s.setTile (pailTile a) t with mem := putBytes keep s.mem a bs }

/-- A read of n bytes of a scratchpad region: the bytes, and the offsets of the sectors that hold an uncorrectable
word (R128, R158). -/
def State.pailRead (s : State) (a n : Nat) : State × List Byte × List Nat :=
  let t := s.tile (pailTile a)
  let hits := t.pailHits (pailOff a) n
  let bad := (vatEntries .agent false false a n []).filter (fun e =>
    hits.any (fun p => p.2 == 2 && overlaps (8 * p.1) 8 (pailOff a + e.txnOff) e.len))
  (s.setTile (pailTile a) (t.pailCount hits), memRead s.mem a n, bad.map (·.txnOff))

/-- A request reaches a slice and waits there in arrival order. -/
def State.pailArrive (s : State) (r : PailReq) : State :=
  s.modTile (pailTile r.addr) (fun t => { t with sliceQ := t.sliceQ ++ [r] })

/-- The position of the first request of a slice that may be served: those to a region being zeroed wait. -/
def State.sliceNext (s : State) (q : List PailReq) : Option Nat :=
  (List.range q.length).find? (fun i => match q[i]? with
    | some r => !s.isZeroing (pailUnit r.addr) (pailRegion r.addr)
    | none => false)

/-- The slice of tile t serves the request first in its order. -/
def State.sliceServe (s : State) (t : Nat) : State :=
  let q := (s.tile t).sliceQ
  match s.sliceNext q with
  | none => s
  | some i =>
    match q[i]? with
    | none => s
    | some r =>
      let s := s.modTile t (fun x => { x with sliceQ := listDrop1 q i, now := { x.now with slice := true } })
      let fin := fun (s : State) (data : List Byte) (bad : List Nat) =>
        match r.src with
        | .ladle k id => (s.modTile k (fun x => x.modTxn id (fun y =>
            { y with data := if r.write then y.data else data, bad := bad, left := 1 }))).txnServed t k id
        | .agent => s
      if r.write then fin (s.pailWrite r.addr r.bytes) [] []
      else let v := s.pailRead r.addr r.len; fin v.1 v.2.1 v.2.2

/-- Did a request of a slice that may be served arrive before a mesh cycle? -/
def State.sliceBefore (s : State) (q : List PailReq) (cyc at_ : Nat) : Bool :=
  match s.sliceNext q with
  | some i => q[i]?.any (fun r => decide (cycDiff cyc at_ < cycDiff cyc r.at_))
  | none => false

/-- PAIL_SLICE_ACCESS: one line of the slice of tile t in a mesh cycle, for the request first in its order; a cache fill
that arrived no later goes first (R154). -/
def State.pailSliceAccess (s : State) (t : Nat) : State :=
  let x := s.tile t
  if tileCount ≤ t || x.now.slice || x.fills.any (fun f => !s.sliceBefore x.sliceQ s.cyc f.at_) then s else s.sliceServe t

/-! ### The cache (R155 to R157) -/

/-- The set of a line. -/
def lineSet (a : Nat) : Nat := (a / 2 ^ 6 % 4096) ^^^ (a / 2 ^ 18 % 4096)

/-- The ways of tile t's slice whose region is in cache mode. -/
def State.cacheWays (s : State) (t : Nat) : List Nat :=
  (List.range 2).flatMap (fun r => if s.isCache (t / 64) r then regionWays r else [])

/-- The cache line of a way. -/
def Tile.way (t : Tile) (w a : Nat) : Option CacheLine := tabGet cacheD t.cache (w * 4096 + lineSet a)

/-- A slice with a way's line replaced. -/
def Tile.setWay (t : Tile) (w a : Nat) (c : Option CacheLine) : Tile :=
  { t with cache := tabSet cacheD t.cache (w * 4096 + lineSet a) c }

/-- The enabled way that holds the line of an address. -/
def Tile.findWay (t : Tile) (ways : List Nat) (a : Nat) : Option Nat :=
  ways.find? (fun w => match t.way w a with | some c => c.line == a / 64 | none => false)

/-- Are the sectors that n bytes at a need valid in a line? -/
def CacheLine.covers (c : CacheLine) (a n : Nat) : Bool :=
  (c.v0 || decide (32 ≤ a % 64)) && (c.v1 || decide (a % 64 + n ≤ 32))

/-- Words of a cached line in a state (1 correctable, 2 uncorrectable) that n bytes at a touch. -/
def CacheLine.hits (c : CacheLine) (a n kind : Nat) : Nat :=
  (c.bad.filter (fun p => p.2 == kind && overlaps (64 * c.line + 8 * p.1) 8 a n)).length

/-- A Vat read transaction of the own Ladle looks into the cache: the bytes of a hit. A line in which it meets an
uncorrectable word is dropped and the read is a miss (R155, R158). -/
def Tile.cacheRead (t : Tile) (ways : List Nat) (a n : Nat) : Tile × Option (List Byte) :=
  if ways.isEmpty || t.f Reg.pailCtl 9 9 == 1 then (t, none) else
  let miss := fun (t : Tile) => (t.count Reg.pailMissCnt 31 0 1, (none : Option (List Byte)))
  match t.findWay ways a with
  | none => miss t
  | some w =>
    match t.way w a with
    | none => miss t
    | some c =>
      if !c.covers a n then miss t
      else
        let t := t.count Reg.pailEccCnt 15 0 (c.hits a n 1)
        if c.hits a n 2 ≠ 0 then miss ((t.count Reg.pailEccCnt 31 16 (c.hits a n 2)).setWay w a none)
        else
          let t := { (t.setWay w a (some { c with used := t.stamp + 1 })) with stamp := t.stamp + 1 }
          (t.count Reg.pailHitCnt 31 0 1, some ((c.bytes.drop (a % 64)).take n))

/-- The way a new line takes: an enabled way without a line, else the least recently used (R155). -/
def Tile.victim (t : Tile) (ways : List Nat) (a : Nat) : Option Nat :=
  match ways.find? (fun w => (t.way w a).isNone) with
  | some w => some w
  | none =>
    let used := fun w => match t.way w a with | some c => c.used | none => 0
    ways.foldl (fun b w => match b with
      | some v => if used w < used v then some w else some v
      | none => some w) none

/-- Install one sector. -/
def Tile.install (t : Tile) (ways : List Nat) (sec : Nat) (bs : List Byte) : Tile :=
  let a := 32 * sec
  let hi := sec % 2 == 1
  let put := fun (c : CacheLine) => { c with
    v0 := c.v0 || !hi, v1 := c.v1 || hi, used := t.stamp + 1
    bytes := if hi then c.bytes.take 32 ++ bs else bs ++ c.bytes.drop 32
    bad := c.bad.filter (fun p => decide (4 ≤ p.1) != hi) }
  let fresh : CacheLine := ⟨a / 64, false, false, List.replicate 64 0, 0, []⟩
  let go := fun w c => { (t.setWay w a (some (put c))) with stamp := t.stamp + 1 }
  match t.findWay ways a with
  | some w => (match t.way w a with | some c => go w c | none => t)
  | none => (match t.victim ways a with | some w => go w fresh | none => t)

/-- Is a cache region of unit k being zeroed, so that accesses of its tiles to it wait (R153)? -/
def State.cacheWaits (s : State) (k : Nat) : Bool := (List.range 2).any (fun r => s.isCache k r && s.isZeroing k r)

/-- PAIL_FILL: a sector read for a miss is installed, unless the own Ladle wrote its line or INV_ALL was written
meanwhile. It takes the slice's cycle, in arrival order (R154), and waits for a region that is being zeroed. -/
def State.pailFill (s : State) (t k : Nat) : State :=
  if tileCount ≤ t then s else
  let x := s.tile t
  match x.fills[k]? with
  | none => s
  | some f =>
    if x.now.slice || s.cacheWaits (t / 64) || s.sliceBefore x.sliceQ s.cyc f.at_ ||
        (x.fills.take k).any (fun g => g.at_ != f.at_) then s else
    let x := { x with fills := listDrop1 x.fills k, now := { x.now with slice := true } }
    s.setTile t (if f.install then x.install (s.cacheWays t) f.sector f.bytes else x)

/-- A write to PAIL_CTL (Table 5.5): ALLOC is stored; INV_ALL starts the invalidation of every line, and reads in flight
are not installed (R157). -/
def Tile.pailCtlWrite (t : Tile) (val : Word) (cyc : Nat) : Tile :=
  let t := t.setF Reg.pailCtl 1 0 (fld val 1 0)
  if !bit val 8 then t else
  { (t.setF Reg.pailCtl 9 9 1) with
    cache := [], invStart := cyc
    fills := t.fills.map (fun f => { f with install := false })
    txns := t.txns.map (fun x => { x with install := false }) }

/-- INV_ALL_DONE: after 4,096 mesh cycles INV_BUSY clears. -/
def Tile.invAllDone (t : Tile) (cyc : Nat) : Tile :=
  if t.f Reg.pailCtl 9 9 = 1 ∧ 4096 ≤ cycDiff cyc t.invStart then t.setF Reg.pailCtl 9 9 0 else t

/-- PAIL_INV drops one line of the own slice, and no read of it in flight or waiting to be installed will install it
(R157, R174). -/
def Tile.invLine (t : Tile) (line : Nat) : Tile :=
  { t with
    cache := t.cache.filter (fun p => match p.2 with | some c => c.line != line | none => true)
    fills := t.fills.map (fun f => if f.sector / 2 = line then { f with install := false } else f)
    txns := t.txns.map (fun x => match x.target with
      | .vat a => if a / 64 = line ∧ !x.write then { x with install := false } else x
      | _ => x) }

end Sys2Proof.Machine
end

