-- ==== Sys2Proof/Machine/Home.lean ====
section
/-!
DEFINITION. Machine/Home.lean: accesses that agents other than a Ladle make at their homes: the host and the fabric
ingress (R163, R171), the Skimmers, the collective engine and Ittan (R161 to R165). An access takes its place behind what
has arrived at the home before it, in the same queue and by the same rule (R139, R154), and is one step (log 71): the home
serves what its rule puts first until the access has been served, or, of a write, performed.
-/

namespace Sys2Proof.Machine

/-- Does a range meet a Pail region that is being zeroed, so that the access waits (R153)? -/
def State.rangeWaits (s : State) (a : Nat) : Bool := isPail a && s.isZeroing (pailUnit a) (pailRegion a)

/-- Does a requester other than a Ladle still wait at a column: a write for its place, a read for its service? -/
def Column.awaits (c : Column) : Bool :=
  c.waitQ.any (fun g => g.any (fun e => e.src == .agent)) || c.queue.any (fun e => e.src == .agent && !e.write)

/-- The entries that are eligible in a slot (R139): a free choice of some, or all of them where the choice lets none start
(log 71). -/
def Column.someEligible (c : Column) (draw : Nat) : List Nat :=
  let all := List.range c.queue.length
  let l := all.filter (fun i => Config.freeValue draw (100 + i) % 2 == 1)
  if (c.choose l).isSome then l else all

/-- The controller of column c goes on by its rule, a forced scrub row first (Table 5.4), until no agent waits there. -/
def State.columnRun (s : State) (c : Nat) : Nat → State
  | 0 => s
  | n + 1 =>
    let col := (s.tile c).col
    if !col.awaits then s
    else if (s.tile c).forcedScrub then (s.vatScrubRow c []).columnRun c n
    else (({ s with freeCount := s.freeCount + 1 } : State).vatNext c (col.someEligible s.freeCount) []).columnRun c n

/-- The entries that a column holds, and one scrub row. -/
def Column.work (c : Column) : Nat := c.queue.length + (c.waitQ.map List.length).sum + 1

/-- An agent's access to the sectors of one 64-byte line of the Vat, in address order: the bytes read, and the offsets of
uncorrectable sectors. -/
def State.homeLine (s : State) (g : List VatEntry) : State × List Byte × List Nat :=
  match g with
  | [] => (s, [], [])
  | e :: _ =>
    let c := sectorCol e.sector
    let s := ({ s with homeGot := [] } : State).vatArrive c g
    let s := s.columnRun c (s.tile c).col.work
    let got := g.filterMap (fun e => s.homeGot.find? (fun r => r.1 == e.txnOff))
    ({ s with homeGot := [] }, got.flatMap (fun r => r.2.1), (got.filter (fun r => r.2.2)).map (fun r => r.1))

/-- The lines of an access, in address order. -/
def State.homeLines (s : State) : List (List VatEntry) → State × List Byte × List Nat
  | [] => (s, [], [])
  | g :: l =>
    let r := s.homeLine g
    let q := State.homeLines r.1 l
    (q.1, r.2.1 ++ q.2.1, r.2.2 ++ q.2.2)

/-- The entries of an access, cut at the 64-byte boundaries of the address. -/
def lineGroups (es : List VatEntry) : List (List VatEntry) :=
  match es with
  | [] => []
  | e :: l =>
    match lineGroups l with
    | [] => [[e]]
    | g :: gs => if (g.headD e).sector / 2 = e.sector / 2 then (e :: g) :: gs else [e] :: g :: gs

/-- What waits at the slice of an address is served before an agent's access that arrives now (R154). -/
def State.sliceRun (s : State) (a : Nat) : State :=
  foldN (fun _ s => s.sliceServe (pailTile a)) (s.tile (pailTile a)).sliceQ.length s

/-- Read n bytes at a chip address of this chip: the bytes, and the offsets of uncorrectable sectors. -/
def State.homeRead (s : State) (a n : Nat) : State × List Byte × List Nat :=
  if a < vatEnd then s.homeLines (lineGroups (vatEntries .agent false false a n []))
  else (s.sliceRun a).pailRead a n

/-- Write bytes at a chip address of this chip. -/
def State.homeWrite (s : State) (a : Nat) (bs : List Byte) : State :=
  if a < vatEnd then (s.homeLines (lineGroups (vatEntries .agent true false a bs.length bs))).1
  else (s.sliceRun a).pailWrite a bs

/-! ### The host's ingress (R171, R172) -/

/-- Do n bytes wait for a region that is being zeroed (R153)? -/
def State.spanWaits (s : State) (a n : Nat) : Bool := s.rangeWaits a || s.rangeWaits (a + n - 1)

/-- May the write at a position of the ingress be performed: the oldest one, or one with Relaxed Ordering (R171), whose
region is not being zeroed? -/
def State.ingressReady (s : State) (i : Nat) : Bool :=
  match s.ingressQ[i]? with
  | some g => (i == 0 || g.relaxed) && !s.spanWaits g.addr g.bytes.length
  | none => false

/-- One write leaves the ingress and is performed at its home; into a partition that is no longer ACTIVE it is dropped
(R182). -/
def State.ingressPerform (s : State) (i : Nat) : State :=
  match s.ingressQ[i]? with
  | some g =>
    let s := { s with ingressQ := listDrop1 s.ingressQ i }
    if s.partState g.vf = 1 then s.homeWrite g.addr g.bytes else s
  | none => s

/-- How many writes of an ingress a read of function n comes after: all up to its own latest. -/
def lastOf (n : Nat) : List Ingress → Nat
  | [] => 0
  | g :: l => if lastOf n l ≠ 0 then lastOf n l + 1 else if g.vf = n then 1 else 0

/-- The accepted writes of function n, and those before them, are performed, as far as none waits for zeroing. -/
def State.ingressFlush (s : State) (n : Nat) : State :=
  let k := lastOf n s.ingressQ
  if (s.ingressQ.take k).any (fun g => s.spanWaits g.addr g.bytes.length) then s
  else foldN (fun _ s => s.ingressPerform 0) k s

end Sys2Proof.Machine
end

