-- ==== Sys2Proof/Machine/Fabric.lean ====
section
/-!
DEFINITION. Machine/Fabric.lean: flits on the Delost fabric: credits and replay (R241, R244), routing (R248 to R252),
output arbitration (R224, R242), and the fabric's generator (R236).
-/

namespace Sys2Proof.Machine

/-- Ports of the chip. -/
def portCount : Nat := 12

/-- Is a port UP or DEGRADED? -/
def Port.isUp (p : Port) : Bool := p.f Reg.fabPortStatus 2 0 == 2 || p.f Reg.fabPortStatus 2 0 == 3

/-! ### The fabric's generator -/

/-- The seed of the fabric's generator (R236); zero is replaced as in R75. -/
def State.fabSeed (s : State) : DWord :=
  let v := Config.dieId ^^^ BitVec.ofNat 64 (s.chipId * 2 ^ 40) ^^^ BitVec.ofNat 64 s.cyc
  if v = 0 then srConst else v

/-- Draw a backoff of 1 to 64 µs. -/
def State.drawBackoff (s : State) : State × Nat :=
  let g := xorshift s.fabGen
  ({ s with fabGen := g }, 1 + Config.backoffDraw g % 64)

/-! ### Credits (R244) -/

/-- Credits spent in a VC and dateline class. -/
def Port.spent (p : Port) (vc : Nat) (cl : Bool) : Nat := tabGet natD p.used (2 * vc + b2n cl)

/-- Pool credits spent: those beyond the 4 reserved in each VC and class. -/
def Port.poolUsed (p : Port) : Nat := ((List.range 10).map (fun k => tabGet natD p.used k - 4)).sum

/-- Free credits of a VC and class. -/
def Port.free (p : Port) (vc : Nat) (cl : Bool) : Nat := (4 - p.spent vc cl) + (152 - p.poolUsed)

/-- Credits that the partner returns for a VC; the header names no class, and class 0 is freed first (log 24). -/
def Port.refund (p : Port) (vc n : Nat) : Port :=
  if 5 ≤ vc then p else
  let c0 := p.spent vc false
  { p with used := tabSet natD (tabSet natD p.used (2 * vc) (c0 - n)) (2 * vc + 1) (p.spent vc true - (n - c0)) }

/-! ### Routing -/

/-- Coordinate of a chip ID on an axis (R12), the extent of an axis, and whether it wraps (R231). -/
def axisCoord (id a : Nat) : Nat := id / 2 ^ (12 - 6 * a) % 64
def State.axisExtent (s : State) (a : Nat) : Nat := s.f Reg.fabDims (8 * a + 5) (8 * a) + 1
def State.axisWraps (s : State) (a : Nat) : Bool := bit (s.reg Reg.fabDims) (24 + a)

/-- The axes in route order (R248, Table 9.9). -/
def State.routeOrder (s : State) : List Nat :=
  match s.f Reg.fabRoute 2 0 with
  | 0 => [0, 1, 2] | 1 => [0, 2, 1] | 2 => [1, 0, 2] | 3 => [1, 2, 0] | 4 => [2, 0, 1] | _ => [2, 1, 0]

/-- The direction of the next hop on one axis: some true for −, none when the coordinate is reached (R248). -/
def State.axisHop (s : State) (dest a : Nat) : Option Bool :=
  let n := s.axisExtent a
  let cur := axisCoord s.chipId a
  let dst := axisCoord dest a
  if s.axisWraps a then
    let d := (dst + n - cur % n) % n
    if d = 0 then none else some (decide (n < 2 * d))
  else if dst = cur then none else some (decide (dst < cur))

/-- The axis and direction of the next hop toward a chip. -/
def State.nextHop (s : State) (dest : Nat) : Option (Nat × Bool) :=
  s.routeOrder.findSome? (fun a => (s.axisHop dest a).map (fun neg => (a, neg)))

/-- Does a hop from this chip cross the wrap of an axis (R250)? -/
def State.crosses (s : State) (a : Nat) (neg : Bool) : Bool :=
  s.axisWraps a && (if neg then axisCoord s.chipId a == 0 else axisCoord s.chipId a + 1 == s.axisExtent a)

/-- Has this chip a neighbour in a direction (R231)? -/
def State.hasNeighbour (s : State) (a : Nat) (neg : Bool) : Bool :=
  s.axisWraps a || (if neg then axisCoord s.chipId a != 0 else decide (axisCoord s.chipId a + 1 < s.axisExtent a))

/-- The chip ID of the neighbour in a direction. -/
def State.neighbour (s : State) (a : Nat) (neg : Bool) : Nat :=
  let n := s.axisExtent a
  let c := axisCoord s.chipId a
  let c' := if neg then (c + n - 1) % n else (c + 1) % n
  s.chipId - c * 2 ^ (12 - 6 * a) + c' * 2 ^ (12 - 6 * a)

/-- The first port number of a pair (Table 9.1). -/
def pairPort (a : Nat) (neg : Bool) : Nat := 4 * a + 2 * b2n neg

/-- The port of a pair that a flit takes: of those up, the one with more free credits, port a on a tie (R249). -/
def State.pickPort (s : State) (a : Nat) (neg : Bool) (vc : Nat) (cl : Bool) : Option Nat :=
  let p := pairPort a neg
  match (s.port p).isUp, (s.port (p + 1)).isUp with
  | true, true => some (if (s.port p).free vc cl < (s.port (p + 1)).free vc cl then p + 1 else p)
  | true, false => some p
  | false, true => some (p + 1)
  | false, false => none

/-- A flit is dropped (R252). -/
def State.dropFlit (s : State) : State :=
  (s.count Reg.fabUnroutableCnt 31 0 1).logOpen 0x0405 Src.fabric chipPart

/-- A flit with the packets of another of the same destination, VC and class behind its own, if they fit (R229). -/
def joinFlit (g f : Flit) : Option Flit :=
  match g.body, f.body with
  | .packets a, .packets b =>
    if g.dest = f.dest ∧ g.vc = f.vc ∧ g.dclass = f.dclass ∧ !g.detour ∧ !f.detour ∧ g.spent = f.spent ∧
        g.units + f.units ≤ 15 then
      some { g with units := g.units + f.units, body := .packets (a ++ b) }
    else none
  | _, _ => none

/-- A flit joins the end of an output queue; its packets go into the last flit there if that has room for them, a choice
of the model's (R229; log 80). -/
def packInto (l : List Flit) (f : Flit) : List Flit :=
  match l.getLast? with
  | some g => match joinFlit g f with
    | some h => l.dropLast ++ [h]
    | none => l ++ [f]
  | none => [f]

/-- A flit waits at an output port. -/
def State.pushFlit (s : State) (p : Nat) (f : Flit) : State := s.modPort p (fun x => { x with txq := packInto x.txq f })

/-- A hop on an axis; `keep` says that the flit is already on this axis, so that its dateline class stands (R250). -/
def State.hop (s : State) (f : Flit) (a : Nat) (neg keep : Bool) : Option State :=
  let cl := s.crosses a neg || (keep && f.dclass)
  (s.pickPort a neg f.vc cl).map (fun p => s.pushFlit p { f with dclass := cl })

/-- Is a virtual channel a Ladle's (Table 9.7)? -/
def ladleVc (vc : Nat) : Bool := vc == 3 || vc == 4

/-- The sideways hop of R251: the first other axis in route order, + first, whose pair is up and whose hop crosses no
wrap. -/
def State.sideways (s : State) (a : Nat) : Option (Nat × Bool) :=
  (s.routeOrder.filter (· != a)).findSome? (fun b => [false, true].findSome? (fun neg =>
    if s.hasNeighbour b neg && !s.crosses b neg && ((s.port (pairPort b neg)).isUp || (s.port (pairPort b neg + 1)).isUp)
    then some (b, neg) else none))

/-- A 64-bit counter of the chip block that wraps (R254). -/
def State.count64 (s : State) (lo hi : Nat) : State :=
  let v := (s.reg lo).toNat + 2 ^ 32 * (s.reg hi).toNat + 1
  (s.setReg lo (BitVec.ofNat 32 v)).setReg hi (BitVec.ofNat 32 (v / 2 ^ 32))

/-- Send a flit on its way from this chip; `from_` is the axis it came in on (R248 to R252). -/
def State.forward (s : State) (f : Flit) (from_ : Option Nat) : State :=
  if f.detour then
    match s.hop { f with detour := false } f.dax f.dirNeg true with
    | some s => s
    | none => s.dropFlit
  else
    match s.nextHop f.dest with
    | none => s
    | some (a, neg) =>
      match s.hop f a neg (from_ == some a) with
      | some s => s
      | none =>
        if !ladleVc f.vc then s
        else if f.spent || s.f Reg.fabRoute 4 4 == 0 then s.dropFlit
        else match s.sideways a with
          | none => s.dropFlit
          | some (b, bneg) =>
            let f' := { f with detour := true, dax := a, dirNeg := neg, spent := true,
                               dclass := from_ == some a && f.dclass }
            match s.pickPort b bneg f.vc f'.dclass with
            | some p => (s.pushFlit p f').count64 Reg.fabDetourCntLo Reg.fabDetourCntHi
            | none => s.dropFlit

/-- An idle flit (R228). -/
def idleFlit : Flit :=
  { typ := 3, seq := 0, ack := 0, vc := 0, dclass := false, detour := false, dax := 0, dirNeg := false, spent := false,
    dest := 0, cvc := 0, ccnt := 0, stream := 0, units := 0, body := .empty }

/-- Ladle packets that reach their destination wait at the ingress (R172). -/
def State.arrive (s : State) (ps : List Packet) : State :=
  ps.foldl (fun s p =>
    { s with arrivals := s.arrivals ++ [⟨s.ingressIn, s.time, p⟩], ingressIn := s.ingressIn + 1 }) s

/-- A packet of this chip's own leaves it (R229). -/
def State.sendPacket (s : State) (p : Packet) : State :=
  let vc := if p.op = 1 ∨ p.op = 2 then 3 else 4
  s.forward { idleFlit with typ := 0, vc := vc, dest := p.dest, units := packetUnits p.op, body := .packets [p] } none

/-! ### The link (R241, R244) -/

/-- A link-control message waits on VC 0 (R234, R243). -/
def Port.sendCtrl (p : Port) (m : CtrlMsg) : Port :=
  { p with txq := p.txq ++ [{ idleFlit with typ := 2, dest := p.f Reg.fabPortPartner 17 0, body := .ctrl m }] }

/-- A 64-bit flit counter of a port. -/
def Port.count64 (p : Port) (lo hi : Nat) : Port :=
  let v := (p.reg lo).toNat + 2 ^ 32 * (p.reg hi).toNat + 1
  (p.setReg lo (BitVec.ofNat 32 v)).setReg hi (BitVec.ofNat 32 (v / 2 ^ 32))

/-- Header fields of a flit that leaves: the latest ACK, and the credits owed to one VC, the lowest with any. -/
def Port.stamp (p : Port) (f : Flit) : Port × Flit :=
  match (List.range 5).find? (fun v => tabGet natD p.owed v != 0) with
  | none => (p, { f with ack := p.rxSeq, cvc := 0, ccnt := 0 })
  | some v =>
    let n := min 255 (tabGet natD p.owed v)
    ({ p with owed := tabMod natD p.owed v (· - n) }, { f with ack := p.rxSeq, cvc := v, ccnt := n })

/-- The position of the first flit waiting in a VC and class. -/
def Port.waiting (p : Port) (vc : Nat) (cl : Bool) : Option Nat :=
  (List.range p.txq.length).find? (fun i => match p.txq[i]? with
    | some f => f.vc == vc && f.dclass == cl
    | none => false)

/-- May the first flit of a VC and class leave: a credit and room in the replay buffer? -/
def Port.maySend (p : Port) (vc : Nat) (cl : Bool) : Bool :=
  (p.waiting vc cl).isSome && decide (0 < p.free vc cl) && decide (p.replay.length < 128)

/-- May a flit of a VC leave, in either dateline class? -/
def Port.ready (p : Port) (vc : Nat) : Bool := p.maySend vc false || p.maySend vc true

/-- What output arbitration looks at beside the port: chip time, the share reserved on the axis, and the two weights. -/
structure Arb where
  now    : Nat
  share  : Nat
  coll   : Nat
  ladle  : Nat
  deriving DecidableEq, Repr

/-- The share that a collective marked dense holds on an axis, as COLL_DENSE_CFG stood when it began (R224). -/
def Ctx.shareOn (c : Ctx) (axis : Nat) : Nat := if c.dense = axis then min 8 c.share else 0

/-- The arbitration of port p: the share reserved on its axis, and FAB_ARB (R224, Table 9.9). -/
def State.arb (s : State) (p : Nat) : Arb :=
  { now := s.time
    share := ((s.parts.flatMap (fun x => x.2.ctxs)).filterMap (fun x => x.2.map (fun c => c.shareOn (p / 4)))).foldl max 0
    coll := max 1 (s.f Reg.fabArb 3 0), ladle := max 1 (s.f Reg.fabArb 7 4) }

/-- VC 0 flits that a port may send in any µs: one in 16 of its flit times, 4.838 ns each at width 4 (R229, R242). -/
def Port.ctlLimit (p : Port) : Nat := if p.f Reg.fabPortStatus 7 5 = 2 then 6 else 12

/-- The virtual channel that a flit time goes to (Table 9.7): VC 0 within its limit, VC 1 within its reserved share of a
round of 16 flit times, then the two weighted classes, each for as many flits as its weight before both weights start
anew. Where the rule leaves a choice, between the weighted classes and between VC 1 and VC 2, `want` makes it (log 80). -/
def Port.pickVc (p : Port) (a : Arb) (want : Nat) : Option Nat :=
  let coll := if p.ready want && (want == 1 || want == 2) then some want
    else if p.ready 2 then some 2 else if p.ready 1 then some 1 else none
  let ladle := if p.ready 4 then some 4 else if p.ready 3 then some 3 else none
  if p.ready 0 && decide ((p.ctl.filter (fun t => decide (a.now < t + 1000))).length < p.ctlLimit) then some 0
  else if p.ready 1 && decide (p.dense < a.share) then some 1
  else match coll, ladle with
    | none, l => l
    | c, none => c
    | c, l => if p.wColl = 0 ∧ p.wLadle ≠ 0 then l else if p.wLadle = 0 ∧ p.wColl ≠ 0 then c else if 3 ≤ want then l else c

/-- The books of output arbitration after a flit time that went to a VC. -/
def Port.spend (p : Port) (a : Arb) (vc : Option Nat) : Port :=
  let shared := vc == some 1 && decide (p.dense < a.share)
  let p := if p.turn = 15 then { p with turn := 0, dense := 0 }
    else { p with turn := p.turn + 1, dense := p.dense + b2n shared }
  let p := if p.wColl = 0 ∧ p.wLadle = 0 then { p with wColl := a.coll, wLadle := a.ladle } else p
  match vc with
  | none => p
  | some 0 => { p with ctl := p.ctl.filter (fun t => decide (a.now < t + 1000)) ++ [a.now] }
  | some v => if shared then p else if v ≤ 2 then { p with wColl := p.wColl - 1 } else { p with wLadle := p.wLadle - 1 }

/-- A flit goes onto the link with its CRC. -/
def Port.onWire (p : Port) (f : Flit) : Port := { p with wire := some (f, f.crc) }

/-- FLIT_TRANSMIT: one flit time. The VC that arbitration picks sends its first flit, of the class `cl` if one may leave
there. With none that may leave, an idle flit carries acknowledgement and credits. -/
def Port.transmit (p : Port) (a : Arb) (want : Nat) (cl : Bool) : Port :=
  if !p.isUp then p else
  let vc := p.pickVc a want
  let v := vc.getD 0
  let cl := if p.maySend v cl then cl else !cl
  match vc.isSome, p.waiting v cl with
  | true, some i =>
    match p.txq[i]? with
    | none => p
    | some f =>
      let r := p.stamp { f with seq := p.txSeq }
      let x := if f.typ = 0 then r.1.count64 Reg.fabPortTxFlitsLo Reg.fabPortTxFlitsHi else r.1
      ({ x with txq := listDrop1 p.txq i, replay := p.replay ++ [r.2], txSeq := (p.txSeq + 1) % 4096
                used := tabMod natD p.used (2 * v + b2n cl) (· + 1) } : Port).spend a vc |>.onWire r.2
  | _, _ =>
    let r := p.stamp { idleFlit with seq := (p.txSeq + 4095) % 4096 }
    (r.1.spend a none).onWire r.2

/-- Is sequence number a at or before b, modulo 4,096 (R241)? -/
def seqLe (a b : Nat) : Bool := decide ((b + 4096 - a % 4096) % 4096 < 2048)

/-- FLIT_RECEIVE: a flit whose CRC fails is discarded. Else its acknowledgement and credits act, and a data or
link-control flit in order is taken. -/
def Port.receive (p : Port) (f : Flit) (crc : Word) : Port :=
  if !p.isUp then p else
  if crc ≠ f.crc then p.count Reg.fabPortCrcErr 1 else
  let left := p.replay.filter (fun g => !seqLe g.seq f.ack)
  let p := { p with replays := if left.length < p.replay.length then 0 else p.replays, replay := left }
  let p := p.refund f.cvc f.ccnt
  if f.typ = 1 ∨ 3 ≤ f.typ then p
  else if f.seq ≠ (p.rxSeq + 1) % 4096 then p
  else
    let p := { p with rxSeq := f.seq, rxq := p.rxq ++ [f] }
    if f.typ = 0 then p.count64 Reg.fabPortRxFlitsLo Reg.fabPortRxFlitsHi else p

end Sys2Proof.Machine
end

