-- ==== Sys2Proof/Machine/Mesh.lean ====
section
/-!
DEFINITION. Machine/Mesh.lean: the mesh between the tiles: neighbours and edges (R19, R20), the two virtual channels with
their credits (R127), and the arrival of the Ladles' requests and responses at their homes (R125, R139, R154, R162).
-/

namespace Sys2Proof.Machine

/-- A step of a unit of tile t that reads or writes byte ranges of scratch at a rank: made if their banks are free, and else
lost, with no other effect (R44, R45; log 62). -/
def State.banked (s : State) (t : Nat) (rank : Rank) (rs : List (Nat × Nat)) (f : State → State) : State :=
  let x := if rank < 5 then s.tile t else (s.tile t).takeIn s.cyc
  if x.banksFree s.cyc rank rs then f (s.setTile t (x.wonBanks rank rs)) else s.setTile t (x.lostBanks s.cyc rank rs)

/-! ### Neighbours (R20) -/

/-- The four ports of a tile. -/
inductive MeshDir
  | north | east | south | west
  deriving DecidableEq, Repr

/-- What a mesh port joins: a tile, the fabric interface at a row's end, the control complex above a column, or nothing. -/
inductive MeshEnd
  | tile (t : Nat)
  | fabric (row : Nat) (east : Bool)
  | control (col : Nat)
  | open_
  deriving DecidableEq, Repr

/-- What a port of tile t joins (R20): 36 rows of 32 columns. -/
def meshEnd (t : Nat) : MeshDir → MeshEnd
  | .north => if tileRow t = 0 then .control (tileCol t) else .tile (t - 32)
  | .south => if tileRow t = 35 then .open_ else .tile (t + 32)
  | .west => if tileCol t = 0 then .fabric (tileRow t) false else .tile (t - 1)
  | .east => if tileCol t = 31 then .fabric (tileRow t) true else .tile (t + 1)

/-- The buffer of the next node that a packet enters which leaves by a port. -/
def MeshDir.enters : MeshDir → MeshPort
  | .north => 3
  | .east => 4
  | .south => 1
  | .west => 2

/-! ### Packets on their way (R127) -/

/-- Entries of a virtual channel's buffer at a hop. -/
def meshCredits : Nat := 16

/-- The ports that bring a packet at node t nearer to its destination: no rule gives a route (log 72). -/
def MeshPkt.ways (p : MeshPkt) : List MeshDir :=
  match p.dest with
  | .tile d =>
    (if tileCol p.node < tileCol d then [.east] else if tileCol d < tileCol p.node then [.west] else []) ++
    (if tileRow p.node < tileRow d then [.south] else if tileRow d < tileRow p.node then [.north] else [])
  | .fabric _ east => [if east then .east else .west]

/-- Two packets in one buffer. -/
def MeshPkt.sameBuffer (p q : MeshPkt) : Bool := p.node == q.node && p.port == q.port && p.resp == q.resp

/-- Has a packet come to its home, or out of the mesh? -/
def MeshPkt.home (p : MeshPkt) : Bool := match p.dest with | .tile d => p.node == d | .fabric _ _ => p.port == 5

/-- Has the cycle come from which a packet may move or arrive? -/
def MeshPkt.free (p : MeshPkt) (cyc : Nat) : Bool := decide (cycDiff cyc p.due < 2 ^ 47)

/-- One packet's turn in a mesh cycle. It moves one hop if it heads its buffer, no packet has yet used the port in this
cycle, and the buffer that it enters has a credit; it then joins the end of that buffer. A packet that leaves the mesh at a
row's end is marked with port 5. `used` are the ports used so far. -/
def meshTurn (cyc draw : Nat) (st : List MeshPkt × List (Nat × MeshDir)) (p : MeshPkt) : List MeshPkt × List (Nat × MeshDir) :=
  let (l, used) := st
  if p.home || !p.free cyc || l.find? p.sameBuffer != some p then st else
  match p.ways[Config.freeValue draw p.txn % p.ways.length]? with
  | none => st
  | some d =>
    if used.contains (p.node, d) then st else
    let go := fun q => (l.erase p ++ [q], (p.node, d) :: used)
    match meshEnd p.node d with
    | .tile u =>
      let q := { p with node := u, port := d.enters }
      if meshCredits ≤ (l.filter q.sameBuffer).length then st else go q
    | .fabric _ _ => go { p with port := 5 }
    | _ => st

/-- A list turned: the elements from position k on come first. -/
def turned {α : Type} (k : Nat) (l : List α) : List α := l.drop (k % (l.length + 1)) ++ l.take (k % (l.length + 1))

/-- The moves of one mesh cycle: responses first, so that none waits behind a request; which of several packets that want
a port goes first is free (log 72). -/
def meshMoves (cyc draw : Nat) (l : List MeshPkt) : List MeshPkt :=
  let order := turned (Config.freeValue draw 1) (l.filter (·.resp)) ++ turned (Config.freeValue draw 2) (l.filter (fun p => !p.resp))
  (order.foldl (meshTurn cyc draw) (l, [])).1

/-- Insert by source tile, behind those of the same tile. -/
def insertByTile (p : MeshPkt) : List MeshPkt → List MeshPkt
  | [] => [p]
  | q :: l => if p.tile < q.tile then p :: q :: l else q :: insertByTile p l

/-! ### Arrivals -/

/-- A request has come to its home (R139, R154), or to the fabric interface, where it waits for a tag (R125). A packet
whose transaction has failed meanwhile is dropped. -/
def State.meshRequest (s : State) (p : MeshPkt) : State :=
  match (s.tile p.tile).txns.find? (fun y => y.id == p.txn) with
  | none => s
  | some y =>
    match y.target with
    | .vat a => s.vatArrive (vatCol a) (vatEntries (.ladle p.tile y.id) y.write y.install a y.len y.data)
    | .pail a => s.pailArrive ⟨a, y.write, y.data, y.len, .ladle p.tile y.id, s.cyc⟩
    | .scratch u a => s.modTile u (fun x => { x with inScr := x.inScr ++ [⟨p.tile, y.id, a, y.data⟩] })
    | .fabric _ =>
      { s.modTile p.tile (fun x => x.modTxn y.id (fun y => { y with phase := .tagWait })) with
        tagQ := s.tagQ ++ [(p.tile, y.id)] }

/-- A packet arrives: a response brings its transaction's data or acknowledgement back. -/
def State.meshArrive (s : State) (p : MeshPkt) : State :=
  if p.resp then s.modTile p.tile (fun x => x.modTxn p.txn (fun y => { y with phase := .back })) else s.meshRequest p

/-- The acknowledgements of the writes that tile t has taken into its scratch leave it. -/
def State.scratchAcks (s : State) (t : Nat) : State :=
  (s.tile t).scrAcks.foldl (fun s a => s.txnServed t a.1 a.2) (s.modTile t (fun x => { x with scrAcks := [] }))

/-- One cycle of the mesh: packets move, and those that have come home arrive, lower-numbered tiles first (R139, R154). -/
def State.meshTurns (s : State) : State :=
  let s := (s.tiles.filter (fun p => !p.2.scrAcks.isEmpty)).foldl (fun s p => s.scratchAcks p.1) s
  if s.mesh = [] then s else
  let l := meshMoves s.cyc s.freeCount s.mesh
  let here := fun (p : MeshPkt) => p.home && p.free s.cyc
  let s := { s with mesh := l.filter (fun p => !here p), freeCount := s.freeCount + 1 }
  ((l.filter here).foldl (fun l p => insertByTile p l) []).foldl State.meshArrive s

/-- A request leaves tile t for its home, or for the fabric interface at a free side of its row. -/
def State.meshSend (s : State) (t : Nat) (y : Txn) : State :=
  let goal : MeshDest := match y.target with
    | .vat a => .tile (vatCol a)
    | .pail a => .tile (pailTile a)
    | .scratch u _ => .tile u
    | .fabric _ => .fabric (tileRow t) (Config.freeValue s.freeCount 3 % 2 == 1)
  let wait := if goal = .tile t then 0 else meshEntry
  { s with mesh := s.mesh ++ [⟨t, y.id, false, goal, t, 0, s.cyc + wait⟩], freeCount := s.freeCount + 1 }

/-- An answer from another chip enters the mesh at a free side of the tile's row. -/
def State.meshAnswer (s : State) (t id : Nat) : State :=
  let side := if Config.freeValue s.freeCount 4 % 2 = 1 then 31 else 0
  { s with
    mesh := s.mesh ++ [⟨t, id, true, .tile t, 32 * tileRow t + side, if side = 31 then 2 else 4, s.cyc + meshEntry⟩]
    freeCount := s.freeCount + 1 }

end Sys2Proof.Machine
end

