-- ==== Sys2Proof/Machine/Sync.lean ====
section
/-!
DEFINITION. Machine/Sync.lean: the command queues and their holding words (R105, R106), the synchronisation commands
(R107, R112 to R117, R168, R169, R172), and the clearing of the fault record (R110).
-/

namespace Sys2Proof.Machine

/-- The engine of queue 0 (matrix), 1 (vector), 2 (Ladle) in the order of Table 4.10, and its entries (Table 4.1). -/
def queueEngine (q : Nat) : Nat := if q = 2 then 3 else q
def queueSize (q : Nat) : Nat := if q = 2 then 32 else 16

/-- The entry that the write of word 7 makes: the words 0 to 6 that its path holds, and this one. -/
def Tile.heldEntry (t : Tile) (path q : Nat) (w7 : Word) : QEntry :=
  (List.range 7).map (fun w => tabGet wordD t.holdW (path * 32 + q * 8 + w)) ++ [w7]

/-- The address of word 7 of a push window in the local register port. -/
def pushAddr (q : Nat) : Word := BitVec.ofNat 32 (0xF0000000 + Reg.ladleQpushMx + 0x20 * q + 28)

/-- A local-port append goes before the `b` entries that BAR0 appended in the same cycle; the flag says that the last of
them finds no room (R98, R106). -/
def putLocal {α : Type} (cap b : Nat) (q : List α) (x : α) : List α × Bool :=
  let l := q.take (q.length - b) ++ x :: q.drop (q.length - b)
  (l.take cap, decide (cap < l.length))

/-- QUEUE_PUSH (R106): to a full queue the local port stalls the scalar core, and BAR0 sets OVERRUN. -/
def Tile.queuePush (t : Tile) (path q : Nat) (w7 : Word) : Tile :=
  if 3 ≤ q then t else
  let e := queueEngine q
  let en := t.heldEntry path q w7
  let b := tabGet natD t.now.bar0 e
  let full := decide (queueSize q ≤ (t.queue e).length)
  if path = 0 then
    if full && b == 0 then { t with stall := some (.store (pushAddr q) 4 w7) } else
    let r := putLocal (queueSize q) b (t.queue e) en
    let t := t.setQueue e r.1
    if r.2 then t.setF Reg.ladleQlevel (24 + q) (24 + q) 1 else t
  else if full then t.setF Reg.ladleQlevel (24 + q) (24 + q) 1
  else { t.setQueue e (t.queue e ++ [en]) with now := { t.now with bar0 := tabSet natD t.now.bar0 e (b + 1) } }

/-! ### Starting a synchronisation command -/

/-- Everything ahead in an engine's queue is complete under R108: passes and drains, transactions, or the store
buffer (R168). The vector unit completes each command as one step. -/
def Tile.aheadDone (t : Tile) (e : Nat) : Bool :=
  match e with
  | 0 => t.passes.isEmpty && t.arr.loads.isEmpty && t.drains.isEmpty
  | 1 => true
  | 2 => t.sbuf.isEmpty
  | _ => t.issuing.isNone && t.txns.isEmpty

/-- May an engine start the synchronisation command at the head of its queue in mesh cycle cyc (R24, R107)? -/
def Tile.mayStartSync (t : Tile) (e cyc : Nat) : Bool :=
  t.runs e && (tabGet waitD t.waits e).isNone &&
  (match e with
    | 0 => t.churn.isNone && t.arr.started != some cyc
    | 1 => t.churn.isNone
    | 3 => t.aheadDone 3
    | _ => false)

/-- The reserved bits, N = 0 and SCOPE = 3 of a synchronisation command (R112). -/
def syncShapeBad (w0 w1 : Word) (rest : List Word) : Bool :=
  rest.any (· != 0) ||
  (match fld w0 7 0 with
    | 0x50 => decide (fld w0 31 26 ≠ 0) || w1 != 0 || fld w0 25 18 == 0
    | 0x51 => decide (fld w0 31 27 ≠ 0) || decide (fld w1 31 (if bit w0 26 then 11 else 0) ≠ 0) || fld w0 25 18 == 0
    | 0x54 => decide (fld w0 31 10 ≠ 0) || w1 != 0 || fld w0 9 8 == 3
    | _ => decide (fld w0 31 14 ≠ 0) || w1 != 0)

/-- COUNT of a barrier of a partition. -/
def Part.barCount (p : Part) (b : Nat) : Nat := p.f (Reg.collBarCfg + 8 * b) 12 0

/-- The code a synchronisation command of tile t is rejected with, 0 for none: the lowest that fails (R112, R114,
R115, R453). -/
def State.syncCheck (s : State) (t : Nat) (w0 w1 : Word) (rest : List Word) : Nat :=
  let op := fld w0 7 0
  let owner := s.tileOwner t
  if op = 0x51 && bit w0 26 && !(match owner with | some n => s.ownsTile n (fld w1 10 0) | none => false) then 0x240
  else if (op == 0x52 || op == 0x53) &&
      (match owner with | some n => (s.part n).barCount (fld w0 13 8) == 0 | none => true) then 0x241
  else if syncShapeBad w0 w1 rest then 0x244 else 0

/-- The wait record of a starting synchronisation command. -/
def State.newWait (s : State) (t : Nat) (w0 w1 : Word) : Wait :=
  { w0 := w0, w1 := w1, start := s.cyc, limit := ((s.tile t).reg Reg.ladleWaitLimit).toNat, arrived := false, gen := 0,
    ingress := s.ingressIn }

/-- The engine has started a command in mesh cycle cyc; only the matrix engine counts its starts (R24). -/
def Tile.startedIn (t : Tile) (e cyc : Nat) : Tile :=
  if e = 0 then { t with arr := { t.arr with started := some cyc } } else t

/-- Start the synchronisation command of opcode `op` at the head of engine e's queue, if there is one and it may
start; a command that fails its checks is rejected (R107, R112). -/
def State.startSync (s : State) (op t e : Nat) : State :=
  let x := s.tile t
  if !x.mayStartSync e s.cyc then s else
  match x.queue e with
  | [] => s
  | en :: _ =>
    if opc en ≠ op then s else
    let code := s.syncCheck t (ew en 0) (ew en 1) (en.drop 2)
    if code ≠ 0 then s.setTile t (x.reject e 0 code)
    else
      let x := (x.takeCmd e 0).startedIn e s.cyc
      s.setTile t { x with waits := tabSet waitD x.waits e (some (s.newWait t (ew en 0) (ew en 1))) }

/-- The synchronisation command in progress in an engine ends; the scalar core's stall ends with it. -/
def Tile.endSync (t : Tile) (e : Nat) : Tile :=
  { t with waits := tabSet waitD t.waits e none
           stall := if e = 2 && t.stall == some .sync then none else t.stall }

/-- A synchronisation command in progress fails: the engine stops (R109, R117). -/
def Tile.failSync (t : Tile) (e code : Nat) : Tile :=
  let t := t.endSync e
  t.recordFault code e (if e = 2 then 0 else t.cmdSeq e)

/-- The wait of opcode `op` in progress in an engine. -/
def Tile.syncNow (t : Tile) (op e : Nat) : Option Wait :=
  match tabGet waitD t.waits e with
  | some w => if fld w.w0 7 0 = op && !t.stopped e then some w else none
  | none => none

/-! ### Semaphores (R113, R114) -/

/-- A semaphore. -/
def Tile.sem (t : Tile) (n : Nat) : Nat := t.f (Reg.ladleSem + 4 * n) 15 0

/-- A signal: the value stops at 0xFFFF, and an overflow is recorded with ENGINE = 4, once per semaphore and mesh cycle
(R114). -/
def Tile.addSem (t : Tile) (n k : Nat) : Tile :=
  let v := t.sem n + k
  let t := t.setF (Reg.ladleSem + 4 * n) 15 0 (min 0xFFFF v)
  if 0xFFFF < v ∧ n ∉ t.now.sems then
    ({ t with now := { t.now with sems := n :: t.now.sems } } : Tile).recordFault 0x242 4 0
  else t

/-- SEM_WAIT: satisfied once the value is at least N; N is subtracted in the same step. -/
def State.semWait (s : State) (t e : Nat) : State :=
  let s := s.startSync 0x50 t e
  let x := s.tile t
  match x.syncNow 0x50 e with
  | none => s
  | some w =>
    let sem := fld w.w0 17 8
    let n := fld w.w0 25 18
    if n ≤ x.sem sem then s.setTile t ((x.setF (Reg.ladleSem + 4 * sem) 15 0 (x.sem sem - n)).endSync e) else s

/-- SEM_SIGNAL: acts once everything ahead is complete; a local signal adds N, a remote one leaves (R112, R168). -/
def State.semSignal (s : State) (t e : Nat) : State :=
  let s := s.startSync 0x51 t e
  let x := s.tile t
  match x.syncNow 0x51 e with
  | none => s
  | some w =>
    if !x.aheadDone e then s else
    let sem := fld w.w0 17 8
    let n := fld w.w0 25 18
    if bit w.w0 26 then
      { s.setTile t (x.endSync e) with signals := s.signals ++ [⟨t, e, fld w.w1 10 0, sem, n, s.cyc⟩] }
    else s.setTile t ((x.addSem sem n).endSync e)

/-- Has a remote signal reached its tile by mesh cycle cyc: 8 + hops cycles after it left (R116, Table 4.5)? -/
def Signal.arrived (g : Signal) (cyc : Nat) : Bool := decide (8 + tileHops g.src g.tile ≤ cycDiff cyc g.left)

/-- The first k remote signals that have reached one semaphore by mesh cycle cyc, and the others. -/
def takeSignals (cyc t sem : Nat) : Nat → List Signal → List Signal × List Signal
  | _, [] => ([], [])
  | 0, l => ([], l)
  | k + 1, g :: l =>
    if g.tile = t ∧ g.sem = sem ∧ g.arrived cyc then let r := takeSignals cyc t sem k l; (g :: r.1, r.2)
    else let r := takeSignals cyc t sem (k + 1) l; (r.1, g :: r.2)

/-- SEM_SIGNAL_ARRIVE: the signals that reach one semaphore in one cycle, summed (R113, R114, R116). -/
def State.semSignalArrive (s : State) (t sem count : Nat) : State :=
  let r := takeSignals s.cyc t sem count s.signals
  if r.1.isEmpty || decide (1024 ≤ sem) then s else
  { s.modTile t (fun x => x.addSem sem ((r.1.map (·.n)).sum)) with signals := r.2 }

/-! ### Barriers (R115) -/

/-- One arrival at a barrier of partition n, counted toward the current generation. -/
def Part.arrive (p : Part) (b : Nat) : Part :=
  let st := Reg.collBarState + 8 * b
  let a := p.f st 12 0 + 1
  if p.barCount b ≤ a then
    let p := (p.setF st 12 0 0).setF st 23 16 (p.f st 23 16 + 1)
    { p with barGen := tabMod natD p.barGen b (· + 1) }
  else p.setF st 12 0 a

/-- The arrival of a tile's engine, once everything ahead is complete. -/
def State.arriveWait (s : State) (t e : Nat) (w : Wait) : State :=
  let x := s.tile t
  if w.arrived || !x.aheadDone e then s else
  match s.tileOwner t with
  | none => s
  | some n =>
    let b := fld w.w0 13 8
    if (s.part n).barCount b = 0 then s.setTile t (x.failSync e 0x241) else
    let g := tabGet natD (s.part n).barGen b
    (s.modPart n (·.arrive b)).setTile t
      { x with waits := tabSet waitD x.waits e (some { w with arrived := true, gen := g }) }

/-- BAR_SYNC: arrives, and completes when the generation its arrival counted toward is released. -/
def State.barSync (s : State) (t e : Nat) : State :=
  let s := s.startSync 0x52 t e
  match (s.tile t).syncNow 0x52 e with
  | none => s
  | some w =>
    let s := s.arriveWait t e w
    match (s.tile t).syncNow 0x52 e, s.tileOwner t with
    | some w, some n =>
      if w.arrived && decide (w.gen < tabGet natD (s.part n).barGen (fld w.w0 13 8)) then s.modTile t (·.endSync e) else s
    | _, _ => s

/-- BAR_ARRIVE: completes when its arrival is counted. -/
def State.barArrive (s : State) (t e : Nat) : State :=
  let s := s.startSync 0x53 t e
  match (s.tile t).syncNow 0x53 e with
  | none => s
  | some w =>
    let s := s.arriveWait t e w
    match (s.tile t).syncNow 0x53 e with
    | some w => if w.arrived then s.modTile t (·.endSync e) else s
    | none => s

/-! ### Fences (R172) and the wait limit (R117) -/

/-- Has everything that a fence's scope lists happened (Table 6.4)? -/
def State.fenceDone (s : State) (t e : Nat) (w : Wait) : Bool :=
  let scope := fld w.w0 9 8
  (s.tile t).aheadDone e &&
  (scope == 0 || s.signals.all (fun g => g.src != t || g.engine != e)) &&
  (decide (scope < 2) || (s.ingressQ.all (fun g => decide (w.ingress ≤ g.id)) &&
    s.arrivals.all (fun g => decide (w.ingress ≤ g.id) || g.pkt.op != 2)))

/-- FENCE. -/
def State.fence (s : State) (t e : Nat) : State :=
  let s := s.startSync 0x54 t e
  match (s.tile t).syncNow 0x54 e with
  | none => s
  | some w => if s.fenceDone t e w then s.modTile t (·.endSync e) else s

/-- SYNC_TIMEOUT: a SEM_WAIT or BAR_SYNC still unsatisfied after more than its limit fails (R117). A BAR_SYNC
waits from its start, arrived or not. -/
def State.syncTimeout (s : State) (t e : Nat) : State :=
  let x := s.tile t
  match tabGet waitD x.waits e with
  | none => s
  | some w =>
    let op := fld w.w0 7 0
    let held := op == 0x50 || op == 0x52
    let ready := (op == 0x50 && decide (fld w.w0 25 18 ≤ x.sem (fld w.w0 17 8))) ||
      (op == 0x52 && w.arrived && (match s.tileOwner t with
        | some n => decide (w.gen < tabGet natD (s.part n).barGen (fld w.w0 13 8))
        | none => false))
    if held && !ready && decide (w.limit ≠ 0) && decide (w.limit * 1024 < cycDiff s.cyc w.start) && !x.stopped e then
      s.setTile t (x.failSync e 0x243)
    else s

/-! ### Reserved opcodes (R105) and the fault record (R110) -/

/-- Does an engine's queue accept an opcode (Table 4.2)? -/
def accepts (e o : Nat) : Bool :=
  isSyncOp o || (e == 0 && isMatrixOp o) || (e == 1 && decide (0x20 ≤ o) && decide (o ≤ 0x24)) ||
  (e == 3 && decide (0x40 ≤ o) && decide (o ≤ 0x44))

/-- Q_OPCODE_REJECT: a reserved opcode at the head of a queue, or in LADLE_SYNC_CMD, is rejected with
CZ_ERR_Q_OPCODE (R105). -/
def State.qOpcodeReject (s : State) (t e : Nat) : State :=
  let x := s.tile t
  if e = 2 then
    match tabGet waitD x.waits 2 with
    | some w => if !accepts 2 (fld w.w0 7 0) && !x.stopped 2 then s.setTile t (x.failSync 2 0x201) else s
    | none => s
  else
    let ok := x.runs e && (tabGet waitD x.waits e).isNone && (e == 3 && x.issuing.isNone || (decide (e < 2) && x.churn.isNone))
    match ok, x.queue e with
    | true, en :: _ => if accepts e (opc en) then s else s.setTile t (x.reject e 0 0x201)
    | _, _ => s

end Sys2Proof.Machine
end

