-- ==== Sys2Proof/Machine/Ladle.lean ====
section
/-!
DEFINITION. Machine/Ladle.lean: the Ladle (R123 to R128, R152, R155 to R157, R175, R177), its transactions to other
chips (R179, R246), and the transactions of other chips that arrive here (R229, R247, R339).
-/

namespace Sys2Proof.Machine

/-! ### The descriptor (Table 4.8) -/

def ldDir (e : QEntry) : Nat := ef e 0 9 8
def ldIdx (e : QEntry) : Nat := ef e 0 31 12
def ldGaddr (e : QEntry) : Nat := (ew e 1).toNat + 2 ^ 32 * (ew e 2).toNat
def ldSaddr (e : QEntry) : Nat := ef e 3 19 0
def ldBytes (e : QEntry) : Nat := ef e 4 19 0
def ldRows (e : QEntry) : Nat := ef e 5 15 0
def ldGpitch (e : QEntry) : Nat := (ew e 6).toNat
def ldSpitch (e : QEntry) : Nat := ef e 7 19 0

/-- For DIR = 2: the remote scratch address and tile. -/
def ldRemote (e : QEntry) : Nat := ef e 1 19 0
def ldTile (e : QEntry) : Nat := ef e 2 10 0

/-- GATHER or SCATTER. -/
def ldIndexed (e : QEntry) : Bool := opc e == 0x41 || opc e == 0x42

/-- Does a descriptor read its local scratch, and does it write it? -/
def ldReadsLocal (e : QEntry) : Bool := (opc e == 0x40 && ldDir e != 0) || opc e == 0x42
def ldWritesLocal (e : QEntry) : Bool := ldDir e == 0 && opc e != 0x44

/-- Does a descriptor name global addresses? -/
def ldGlobal (e : QEntry) : Bool :=
  (opc e == 0x40 && ldDir e != 2) || ldIndexed e || (opc e == 0x43 && ldDir e == 1) || opc e == 0x44

/-- The access bit its global side needs: PAIL_INV is checked as a read (log 26). -/
def ldAccess (e : QEntry) : Nat := if ldDir e = 1 then accWr else accRd

/-- CZ_ERR_LADLE_DESC (R124). DESIGN CHOICE (log 73): a GATHER or SCATTER with ROW_BYTES above 64 or an IDX_ADDR that is
not a multiple of 4 has it too, the bits of IDX_ADDR of another opcode are not looked at, and bits of GADDR above the
remote scratch address and tile of a DIR = 2 descriptor count as reserved. -/
def ldDescBad (e : QEntry) : Bool :=
  decide (ef e 0 11 10 ≠ 0 ∨ ef e 3 31 20 ≠ 0 ∨ ef e 4 31 20 ≠ 0 ∨ ef e 5 31 16 ≠ 0 ∨ ef e 7 31 20 ≠ 0) ||
  ldDir e == 3 || ldRows e == 0 || ldBytes e == 0 ||
  ((opc e == 0x41 || opc e == 0x44) && ldDir e != 0) || (opc e == 0x42 && ldDir e != 1) ||
  (ldIndexed e && (decide (64 < ldBytes e) || decide (ldIdx e % 4 ≠ 0))) ||
  (ldDir e == 2 && decide (ef e 1 31 20 ≠ 0 ∨ ef e 2 31 11 ≠ 0))

/-- CZ_ERR_LADLE_RANGE (R124): the rows on either scratch side, and the index list. -/
def ldRangeBad (e : QEntry) : Bool :=
  let last := ldRows e - 1
  ((ldReadsLocal e || ldWritesLocal e) && decide (scratchSize < ldSaddr e + last * ldSpitch e + ldBytes e)) ||
  (ldIndexed e && decide (scratchSize < ldIdx e + 4 * ldRows e)) ||
  (ldDir e == 2 && decide (scratchSize < ldRemote e + last * ldGpitch e + ldBytes e))

/-- The code that a range of the global side fails with, 0 for none (R124, R152): the lowest of malformed address,
window, and Pail region in cache mode. -/
def State.globalCheck (s : State) (t g n acc : Nat) : Nat :=
  if !globalOk g n then 0x222
  else if !s.tileGrants t g n acc then 0x223
  else
    let a := gAddr g
    let ends := [a, a + n - 1]
    if gChip g == s.chipId && decide (pailBase ≤ a) && ends.any (fun x => s.isCache (pailUnit x) (pailRegion x)) then 0x311
    else 0

/-- The lowest nonzero of a list of codes, 0 when all are 0 (R453). -/
def lowestCode (l : List Nat) : Nat := (l.filter (· != 0)).foldl (fun b c => if b = 0 ∨ c < b then c else b) 0

/-- The code a descriptor is rejected with, 0 for none. -/
def State.ladleCheck (s : State) (t : Nat) (e : QEntry) : Nat :=
  if ldDescBad e then 0x220
  else if ldRangeBad e then 0x221
  else
    let glob := if ldGlobal e && !ldIndexed e then
        (List.range (ldRows e)).map (fun r => s.globalCheck t (ldGaddr e + r * ldGpitch e) (ldBytes e) (ldAccess e))
      else []
    let rem := if ldDir e = 2 && !(match s.tileOwner t with | some n => s.ownsTile n (ldTile e) | none => false) then
        [0x224] else []
    lowestCode (glob ++ rem)

/-! ### Starting a descriptor -/

/-- COPY, GATHER, SCATTER, ZERO and PAIL_INV: the descriptor at the head of the Ladle queue is checked and starts, once
the previous one has issued its last transaction (R107, R124, R125). -/
def State.ladleCommand (s : State) (op t : Nat) : State :=
  let x := s.tile t
  if !x.runs 3 || x.issuing.isSome || (tabGet waitD x.waits 3).isSome then s else
  match x.queue 3 with
  | [] => s
  | e :: _ =>
    if opc e ≠ op then s else
    let code := s.ladleCheck t e
    if code ≠ 0 then s.setTile t (x.reject 3 0 code)
    else
      let x := x.takeCmd 3 0
      s.setTile t { x with issuing := some ⟨e, x.cmdSeq 3, 0, 0, x.f Reg.pailCtl 1 0, 0⟩ }

/-! ### Transactions (R125, R126) -/

/-- Where a transaction goes: the tile whose column or slice it is, or none for another chip. -/
def TxnTarget.home : TxnTarget → Option Nat
  | .vat a => some (vatCol a)
  | .pail a => some (pailTile a)
  | .scratch t _ => some t
  | .fabric _ => none

/-- The slot class of a target for tile t: 0 own column and slice, 1 other tiles, 2 other chips. -/
def slotClass (t : Nat) (g : TxnTarget) : Nat :=
  match g.home with
  | some h => if h = t then 0 else 1
  | none => 2

/-- The slots of a class (R125). -/
def Tile.slotLimit (t : Tile) (cls : Nat) : Nat :=
  if cls = 0 then 96 else if cls = 1 then t.f Reg.ladleLimits 6 0 else t.f Reg.ladleLimits 14 8

/-- Is a slot free for a target? -/
def Tile.slotFree (x : Tile) (t : Nat) (g : TxnTarget) : Bool :=
  decide (x.txns.length < 96) &&
  decide ((x.txns.filter (fun y => slotClass t y.target == slotClass t g)).length < x.slotLimit (slotClass t g))

/-- The target of a global address. -/
def State.globalTarget (s : State) (g : Nat) : TxnTarget :=
  if gChip g ≠ s.chipId then .fabric g
  else if gAddr g < vatEnd then .vat (gAddr g) else .pail (gAddr g)

/-- The index word of a row of a gather or scatter. -/
def Tile.ldIndex (x : Tile) (e : QEntry) (r : Nat) : Nat := x.rd32 (ldIdx e + 4 * r)

/-- The address of row r on the global or remote side; of a ZERO with DIR = 0, on the local side. -/
def Tile.rowAddr (x : Tile) (e : QEntry) (r : Nat) : Nat :=
  if ldIndexed e then ldGaddr e + x.ldIndex e r * ldGpitch e
  else if ldDir e = 2 then ldRemote e + r * ldGpitch e
  else if ldGlobal e then ldGaddr e + r * ldGpitch e
  else ldSaddr e + r * ldSpitch e

/-- The end of a descriptor's issue, or its next row. -/
def LadleRun.advance (r : LadleRun) (n : Nat) : Option LadleRun :=
  if r.off + n < ldBytes r.entry then some { r with off := r.off + n }
  else if r.row + 1 < ldRows r.entry then some { r with row := r.row + 1, off := 0 }
  else none

/-- The Ladle stops on a fault: what it had not issued is never performed (R109, R177). -/
def Tile.ladleFault (x : Tile) (code : Nat) : Tile := ({ x with issuing := none } : Tile).recordFault code 3 (x.cmdSeq 3)

/-- A failed row's code is recorded once every earlier row has completed (R124). -/
def Tile.ladleFailed (x : Tile) : Tile :=
  match x.issuing with
  | some r => if r.fail ≠ 0 && !x.txns.any (fun y => y.seq == r.seq) then x.ladleFault r.fail else x
  | none => x

/-- Does a scratch address lie in the rows that a descriptor reads locally? -/
def ldInSource (e : QEntry) (a : Nat) : Bool :=
  (List.range (ldRows e)).any (fun r => decide (ldSaddr e + r * ldSpitch e ≤ a) &&
    decide (a < ldSaddr e + r * ldSpitch e + ldBytes e))

/-- A write's bytes; those that a copy within one scratch puts into its own source take values the device does not
define (Table 6.3; log 100). -/
def State.ladleBytes (s : State) (t : Nat) (e : QEntry) (src n dst : Nat) : List Byte :=
  let x := s.tile t
  if opc e = 0x43 then List.replicate n 0
  else
    let bs := x.rdBytes src n
    if ldDir e = 2 ∧ ldTile e = t then
      (List.range n).map (fun i => if ldInSource e (dst + i) then BitVec.ofNat 8 (Config.freeValue s.freeCount i)
        else bs.getD i 0)
    else bs

/-- The sectors that a transaction at a Vat address touches. -/
def sectorCount (a n : Nat) : Nat := ceilDiv (a % 32 + n) 32

/-- An issued transaction leaves for its home over the mesh (R125, R127, R154); a Vat read that hits in the own cache, and
an access to the own scratch, need no home (R155). -/
def State.dispatchTxn (s : State) (t : Nat) (y : Txn) : State :=
  let leave := fun (s : State) (x : Tile) (y : Txn) => (s.setTile t { x with txns := x.txns ++ [y] }).meshSend t y
  let x := s.tile t
  match y.target with
  | .vat a =>
    if y.write then leave s x { y with left := sectorCount a y.len }
    else
      let ways := s.cacheWays t
      let r := x.cacheRead ways a y.len
      match r.2 with
      | some bs => s.setTile t { r.1 with txns := r.1.txns ++ [{ y with data := bs, phase := .back, install := false }] }
      | none =>
        let cached := !ways.isEmpty && r.1.f Reg.pailCtl 9 9 == 0 && y.install
        leave s r.1 { y with left := sectorCount a y.len, install := cached }
  | .scratch u _ => if u = t then s.setTile t { x with txns := x.txns ++ [{ y with phase := .back }] } else leave s x y
  | _ => leave s x y

/-- LADLE_INFLIGHT.PEAK follows the slots held. -/
def Tile.notePeak (x : Tile) : Tile :=
  x.setF Reg.ladleInflight 14 8 (max (x.f Reg.ladleInflight 14 8) x.txns.length)

/-- Where bytes `off` on of a run's row go: another tile's scratch, a global address, or the own scratch (ZERO). -/
def State.ldTarget (s : State) (t : Nat) (e : QEntry) (a : Nat) : TxnTarget :=
  if ldDir e = 2 then TxnTarget.scratch (ldTile e) a else if ldGlobal e then s.globalTarget a else .scratch t a

/-- Does a transaction wait to be issued: for a slot, or, a Vat read, for its own cache while that is being zeroed
(R125, R153)? -/
def State.issueWaits (s : State) (t : Nat) (write : Bool) (g : TxnTarget) : Bool :=
  !(s.tile t).slotFree t g || (match g with | .vat _ => !write && s.cacheWaits (t / 64) | _ => false)

/-- Issue n bytes of row `r.row` from offset `r.off`, at address `a` of its far side, its local bytes read. -/
def State.issueTxn (s : State) (t : Nat) (r : LadleRun) (a n : Nat) : State :=
  let x := s.tile t
  let e := r.entry
  let local_ := ldSaddr e + r.row * ldSpitch e + r.off
  let write := !(ldGlobal e && ldDir e == 0)
  let rd := x.scrReads (if ldReadsLocal e then [(local_, n)] else [])
  if rd.2 then s.setTile t (rd.1.ladleFault 0x260) else
  let install := !write && (r.alloc == 2 || (r.alloc == 1 && opc e == 0x41))
  let y : Txn := ⟨x.txnNext, r.seq, write, s.ldTarget t e a, local_, n, if write then s.ladleBytes t e local_ n a else [],
    .waiting, 0, [], install, s.time, none, 0, s.engineTime⟩
  let s := { s.setTile t { rd.1 with txnNext := x.txnNext + 1, issuing := r.advance n } with freeCount := s.freeCount + 1 }
  (s.dispatchTxn t y).modTile t (·.notePeak)

/-- The Ladle has used its cycle (R125, R157). -/
def Tile.issuedNow (x : Tile) : Tile := { x with now := { x.now with issued := true } }

/-- The next step of the run r whose banks are won: the index of a row that is reached is read, the row checked (R124), and
its next transaction cut at a 64-byte boundary and issued (R125), or its next line dropped (R157, R175). -/
def State.issueNext (s : State) (t : Nat) (r : LadleRun) (a n : Nat) : State :=
  let x := s.tile t
  let e := r.entry
  let idx := x.scrReads (if ldIndexed e && r.off == 0 then [(ldIdx e + 4 * r.row, 4)] else [])
  if idx.2 then s.setTile t (idx.1.ladleFault 0x260) else
  let code := if ldIndexed e && r.off == 0 then s.globalCheck t a (ldBytes e) (ldAccess e) else 0
  if code ≠ 0 then s.setTile t ({ idx.1 with issuing := some { r with fail := code } } : Tile).ladleFailed
  else if opc e = 0x44 then
    let x := if gChip a = s.chipId then x.invLine (gAddr a / 64) else x
    s.setTile t { x.issuedNow with issuing := r.advance n }
  else (s.setTile t idx.1.issuedNow).issueTxn t r a n

/-- LADLE_TXN_ISSUE: at most one transaction, or one invalidated line, in a mesh cycle (R125, R157); its scratch reads rank
third (R45). -/
def State.ladleTxnIssue (s : State) (t : Nat) : State :=
  if tileCount ≤ t then s else
  let x := s.tile t
  match x.issuing with
  | none => s
  | some r =>
    if r.fail ≠ 0 || x.stopped 3 || x.now.issued then s else
    let e := r.entry
    let a := x.rowAddr e r.row + r.off
    let n := min (64 - a % 64) (ldBytes e - r.off)
    let rs := (if ldIndexed e && r.off == 0 then [(ldIdx e + 4 * r.row, 4)] else []) ++
      (if ldReadsLocal e then [(ldSaddr e + r.row * ldSpitch e + r.off, n)] else [])
    if opc e ≠ 0x44 && s.issueWaits t (!(ldGlobal e && ldDir e == 0)) (s.ldTarget t e a) then s
    else if !x.banksFree s.cyc 3 rs then s.setTile t (x.lostBanks s.cyc 3 rs)
    else (s.setTile t (x.wonBanks 3 rs)).issueNext t r a n

/-! ### Completion -/

/-- The chip address of a transaction's target. -/
def TxnTarget.addr : TxnTarget → Nat
  | .vat a => a | .pail a => a | .scratch _ a => a | .fabric g => gAddr g

/-- The parts of a completed read that reach its destination, as offset and length: all of it, or without the bytes of
sectors read uncorrectable (R128). -/
def Txn.goodParts (y : Txn) : List (Nat × Nat) :=
  if y.bad.isEmpty then [(0, y.len)] else
  ((vatEntries .agent false false y.target.addr y.len []).filter (fun e => !y.bad.contains e.txnOff)).map
    (fun e => (e.txnOff, e.len))

/-- Write a completed read's bytes into the local scratch. -/
def Tile.placeRead (x : Tile) (y : Txn) : Tile :=
  y.goodParts.foldl (fun x p => x.wrBytes (y.saddr + p.1) ((y.data.drop p.1).take p.2)) x

/-- The own scratch bytes that a transaction of tile t writes as it completes: a read's, and a write's into the own
scratch. -/
def Txn.ownSpans (y : Txn) (t : Nat) : List (Nat × Nat) :=
  match y.target with
  | .scratch u a => if y.write && u == t then [(a, y.len)] else []
  | _ => if y.write || y.err != 0 then [] else y.goodParts.map (fun p => (y.saddr + p.1, p.2))

/-- The tile after its transaction y has come to its end, its banks won. -/
def Tile.txnEnds (x : Tile) (t : Nat) (y : Txn) : Tile :=
  let x := match y.target with
    | .scratch u a => if y.write && u == t then x.wrBytes a y.data else x
    | _ => if y.write || y.err != 0 then x else x.placeRead y
  (if y.err ≠ 0 then x.ladleFault y.err else if y.bad.isEmpty then x else x.ladleFault 0x225).ladleFailed

/-- LADLE_TXN_COMPLETE: the data of a read reach the destination, or a write is acknowledged (R126, R128); its scratch
writes rank third (R45). -/
def State.ladleTxnComplete (s : State) (t k : Nat) : State :=
  if tileCount ≤ t then s else
  match (s.tile t).txns[k]? with
  | none => s
  | some y =>
    if y.phase ≠ .back then s else
    s.modTile t (fun x => x.served s.cyc 3 (y.ownSpans t) (fun x => ({ x with txns := listDrop1 x.txns k } : Tile).txnEnds t y))

/-! ### Other chips (R179, R246, R247) -/

/-- FAB_TAGS follows the tags held. -/
def State.noteTags (s : State) : State :=
  let s := s.setF Reg.fabTags 14 0 s.tags.length
  s.setF Reg.fabTags 30 16 (max (s.f Reg.fabTags 30 16) s.tags.length)

/-- Tags that no transaction holds. -/
def State.freeTags (s : State) : List Nat := (List.range 20480).filter (fun g => s.tags.all (fun x => x.1 != g))

/-- A fabric tag returns. -/
def State.dropTag (s : State) (tag : Nat) : State := ({ s with tags := s.tags.filter (fun x => x.1 != tag) } : State).noteTags

/-- Tags that Ladles hold. -/
def State.ladleTags (s : State) : Nat :=
  (s.tags.filter (fun x => match x.2 with | .ladle _ _ => true | _ => false)).length

/-- The request packet of a transaction (Table 9.3); a write's data lie at their line offset (R229). -/
def State.requestPacket (s : State) (t : Nat) (y : Txn) (tag : Nat) : Packet :=
  let g := match y.target with | .fabric g => g | _ => 0
  { op := if y.write then 2 else 1, src := s.chipId, tag := tag, part := (s.tileOwner t).getD 0,
    issue := y.issued / 16 % 2 ^ 28, addr := gAddr g, len := y.len - 1, dest := gChip g
    data := if y.write then List.replicate (gAddr g % 64) 0 ++ y.data else [] }

/-- FAB_TAG_TAKE: the transaction that has waited longest takes a tag and leaves (R125, R246). -/
def State.fabTagTake (s : State) : State :=
  match s.tagQ with
  | [] => s
  | (t, id) :: l =>
    if 20480 ≤ s.tags.length || decide (20480 - s.f Reg.fabTagCfg 14 0 ≤ s.ladleTags) then s else
    match (s.tile t).txns.find? (fun y => y.id == id) with
    | none => { s with tagQ := l }
    | some y =>
      let fr := s.freeTags
      let tag := fr.getD (Config.tagPick s.freeCount % fr.length) 0
      let s := ({ s with tagQ := l, tags := s.tags ++ [(tag, .ladle t id)], freeCount := s.freeCount + 1 } : State).noteTags
      (s.modTile t (fun x => x.modTxn id (fun y => { y with tag := some tag, phase := .sent }))).sendPacket
        (s.requestPacket t y tag)

/-- A transaction to another chip has been answered: its tag is back, and its answer on its way over the mesh. -/
def Txn.answered (y : Txn) : Bool := y.phase == .back || (y.phase == .sent && y.tag.isNone)

/-- Has a transaction waited 50 µs since its issue, stops of the mesh clock not counted (R179, R399)? -/
def State.overdue (s : State) (y : Txn) : Bool := decide (y.since + 50000 ≤ s.engineTime)

/-- A transaction to another chip fails: it returns its tag, or leaves the queue for one, and the Ladle stops (R179,
R246). -/
def State.fabricFails (s : State) (t : Nat) (y : Txn) : State :=
  let s := match y.tag with
    | some g => s.dropTag g
    | none => { s with tagQ := s.tagQ.filter (fun q => q != (t, y.id)) }
  s.modTile t (fun x => ({ x with txns := x.txns.filter (fun z => z.id != y.id) } : Tile).ladleFault 0x226)

/-- LADLE_FABRIC_TIMEOUT: a transaction to another chip not acknowledged within 50 µs of its issue fails (R179). -/
def State.ladleFabricTimeout (s : State) (t k : Nat) : State :=
  if tileCount ≤ t then s else
  match (s.tile t).txns[k]? with
  | none => s
  | some y => if slotClass t y.target ≠ 2 || y.answered || !s.overdue y then s else s.fabricFails t y

/-- The response to a request (R229): the same tag, partition and issue time, back to its source. -/
def State.respond (s : State) (p : Packet) (op addr : Nat) (data : List Byte) : State :=
  s.sendPacket { p with op := op, src := s.chipId, dest := p.src, addr := addr, data := data }

/-- An arriving request that a check refuses (R339). -/
def State.refuseIn (s : State) (p : Packet) : State :=
  (s.modPart p.part (fun x => x.count Reg.mbPartRefused 31 16 1)).respond p 5 0x223 []

/-- Is an arriving request granted (R339, R182)? ACTIVE is state 1 of Table 12.1. -/
def State.grantsIn (s : State) (p : Packet) (acc : Nat) : Bool :=
  decide (p.part < 16) && s.partState p.part == 1 && decide (s.fw.powerDown < 2) && chipRangeOk p.addr (p.len + 1) &&
  s.rangeOwned p.part p.addr (p.len + 1) &&
  (s.part p.part).winGrantsAll (s.chipId * 2 ^ 40 + p.addr) (p.len + 1) acc

/-- The bytes of a transaction within the 64 data bytes of its packet (R229). -/
def packetBytes (p : Packet) : List Byte := (p.data.drop (p.addr % 64)).take (p.len + 1)

/-- The age of a request as it arrived, in 16 ns units (R247). -/
def Arrival.age (x : Arrival) : Nat := (x.at_ / 16 + 2 ^ 28 - x.pkt.issue % 2 ^ 28) % 2 ^ 28

/-- A request from another chip, performed at most once and only within 40 µs of its issue (R179, R247). -/
def State.requestArrives (s : State) (x : Arrival) : State :=
  let p := x.pkt
  if 2500 < x.age then s.count Reg.fabLateCnt 31 0 1
  else if s.recent.any (fun (r : Performed) => r.src == p.src && r.tag == p.tag && r.issue == p.issue && decide (s.time < r.time + 50000)) then
    let s := s.count Reg.fabDupCnt 31 0 1
    if p.op = 2 then s.respond p 4 p.addr [] else s
  else if !s.grantsIn p (if p.op = 2 then accInWr else accInRd) then s.refuseIn p
  else if isPail p.addr && s.isCache (pailUnit p.addr) (pailRegion p.addr) then s.respond p 5 0x311 []
  else
    let s := { s with recent := s.recent.filter (fun (r : Performed) => decide (s.time < r.time + 50000)) ++
      [(⟨p.src, p.tag, p.issue, s.time⟩ : Performed)] }
    if p.op = 2 then (s.homeWrite p.addr (packetBytes p)).respond p 4 p.addr []
    else
      let r := s.homeRead p.addr (p.len + 1)
      if r.2.2.isEmpty then r.1.respond p 3 p.addr (List.replicate (p.addr % 64) 0 ++ r.2.1) else r.1.respond p 5 0x225 []

/-- A response to one of this chip's transactions: it must carry the tag and the issue time of one still waiting, and one
that comes later than 50 µs after the issue finds it failed (R179). -/
def State.responseArrives (s : State) (p : Packet) : State :=
  match s.tags.find? (fun x => x.1 == p.tag) with
  | some (_, .ladle t id) =>
    match (s.tile t).txns.find? (fun y => y.id == id) with
    | some y =>
      if y.phase ≠ .sent || y.tag ≠ some p.tag || y.issued / 16 % 2 ^ 28 ≠ p.issue then s
      else if s.overdue y then s.fabricFails t y
      else
        let y' := { y with tag := none, err := if p.op = 5 then p.addr % 2 ^ 16 else 0
                           data := if p.op = 3 then (packetBytes p) else y.data }
        ((s.modTile t (fun x => x.modTxn id (fun _ => y'))).dropTag p.tag).meshAnswer t id
    | none => s
  | _ => s

/-- Does an arrived packet wait: a request into a region that is being zeroed? A response never does (R153, R242). -/
def State.arrivalWaits (s : State) (x : Arrival) : Bool :=
  (x.pkt.op == 1 || x.pkt.op == 2) && decide (x.age ≤ 2500) && s.rangeWaits x.pkt.addr

/-- LADLE_PACKET_ARRIVE: the first packet in arrival order that need not wait is treated. -/
def State.ladlePacketArrive (s : State) : State :=
  match s.arrivals.find? (fun x => !s.arrivalWaits x) with
  | none => s
  | some x =>
    let s := { s with arrivals := s.arrivals.erase x }
    if x.pkt.op = 1 ∨ x.pkt.op = 2 then s.requestArrives x else s.responseArrives x.pkt

end Sys2Proof.Machine
end

