-- ==== Sys2Proof/Machine/Churn.lean ====
section
/-!
DEFINITION. Machine/Churn.lean: the Churn (R184 to R203): the start of a job, its checks, ORTHO and PRECOND, what a job
leaves behind, its counts and flags, and the clearing of the fault record that discards a faulted job (R110).
-/

namespace Sys2Proof.Machine

/-! ### Descriptor (R188, Table 7.1) -/

/-- The fields of a Churn descriptor. -/
structure ChurnDesc where
  rule  : Nat
  gfmt  : Nat
  iters : Nat
  root  : Nat
  refresh : Bool
  sem   : Nat
  rows  : Nat
  cols  : Nat
  wA    : Nat
  mA    : Nat
  gA    : Nat
  workA : Nat
  lr    : Word
  beta1 : Word
  wd    : Word
  scale : Word
  eps   : Word
  beta2 : Word
  lA    : Nat
  pA    : Nat
  shard : Nat
  resLimit : Word
  reserved : Bool
  deriving DecidableEq, Repr

/-- The descriptor that 16 words spell. -/
def churnDescOf (l : List Word) : ChurnDesc :=
  let w := fun i => l.getD i 0
  { rule := fld (w 0) 3 0, gfmt := fld (w 0) 7 4,
    iters := if fld (w 0) 12 8 = 0 then (if fld (w 0) 3 0 = 0 then 5 else 12) else fld (w 0) 12 8,
    root := fld (w 0) 14 13, refresh := bit (w 0) 15, sem := fld (w 0) 25 16,
    rows := fld (w 1) 10 0, cols := fld (w 1) 26 16,
    wA := fld (w 2) 19 0, mA := fld (w 3) 19 0, gA := fld (w 4) 19 0, workA := fld (w 5) 19 0,
    lr := w 6, beta1 := w 7, wd := w 8, scale := w 9, eps := w 10, beta2 := w 11,
    lA := fld (w 12) 19 0, pA := fld (w 13) 19 0, shard := fld (w 14) 11 0, resLimit := w 15,
    reserved := decide (fld (w 0) 31 26 ≠ 0 ∨ fld (w 1) 15 11 ≠ 0 ∨ fld (w 1) 31 27 ≠ 0 ∨ fld (w 2) 31 20 ≠ 0 ∨
      fld (w 3) 31 20 ≠ 0 ∨ fld (w 4) 31 20 ≠ 0 ∨ fld (w 5) 31 20 ≠ 0 ∨ fld (w 14) 31 12 ≠ 0 ∨
      (fld (w 0) 3 0 = 1 ∧ (fld (w 12) 31 20 ≠ 0 ∨ fld (w 13) 31 20 ≠ 0))) }

/-- The 16 words at a scratch address, and the descriptor there. -/
def Tile.churnWords (t : Tile) (a : Nat) : List Word := (List.range 16).map (fun i => BitVec.ofNat 32 (t.rd32 (a + 4 * i)))
def Tile.churnDescAt (t : Tile) (a : Nat) : ChurnDesc := churnDescOf (t.churnWords a)

/-- The descriptor that a job has read. -/
def Job.d (j : Job) : ChurnDesc := churnDescOf j.words

def ChurnDesc.m (d : ChurnDesc) : Nat := min d.rows d.cols
def ChurnDesc.n (d : ChurnDesc) : Nat := max d.rows d.cols
def ChurnDesc.elems (d : ChurnDesc) : Nat := d.rows * d.cols

/-- Bytes of a gradient element. -/
def ChurnDesc.gw (d : ChurnDesc) : Nat := if d.gfmt = 7 then 2 else 4

/-- The job's buffers (address, bytes): W, M, G, the work area, and L and P of PRECOND. -/
def ChurnDesc.buffers (d : ChurnDesc) : List (Nat × Nat) :=
  [(d.wA, 2 * d.elems), (d.mA, 2 * d.elems), (d.gA, d.gw * d.elems), (d.workA, 2 * d.elems + 8 * d.m * d.m + 256)] ++
  (if d.rule = 1 then [(d.lA, 4 * d.m * d.m), (d.pA, 2 * d.m * d.m)] else [])

/-- No two ranges of a list overlap. -/
def disjointAll : List (Nat × Nat) → Bool
  | [] => true
  | r :: l => l.all (fun q => !overlaps r.1 r.2 q.1 q.2) && disjointAll l

/-- CZ_ERR_CHURN_DESC. -/
def ChurnDesc.descBad (d : ChurnDesc) : Bool :=
  decide (2 ≤ d.rule) || (d.gfmt != 7 && d.gfmt != 8) || decide (2 ≤ d.root) || d.reserved ||
  d.rows == 0 || d.cols == 0 || decide (128 < d.m) || decide (32768 < d.elems)

/-- CZ_ERR_CHURN_RANGE. -/
def ChurnDesc.rangeBad (d : ChurnDesc) (desc : Nat) : Bool :=
  decide (desc % 64 ≠ 0) || d.buffers.any (fun b => decide (b.1 % 64 ≠ 0) || !inScratch b.1 b.2) ||
  !disjointAll ((desc, 64) :: d.buffers)

/-- Is an accumulator set of the tile OPEN? -/
def Tile.anyOpen (t : Tile) : Bool := (List.range 8).any (fun m => tabGet natD t.accOpen m != 0)

/-- The code a job is rejected with, 0 for none (R189, R453). A descriptor beyond scratch cannot be read. -/
def Tile.churnCheck (t : Tile) (j : Job) : Nat :=
  if !inScratch j.desc 64 then 0x271 else
  let d := t.churnDescAt j.desc
  if d.descBad then 0x270 else if d.rangeBad j.desc then 0x271
  else if !j.ownerOk then 0x272 else if t.anyOpen then 0x273 else 0

/-- The scratch a job reads: the descriptor, the buffers it reads and its work area. -/
def ChurnDesc.reads (d : ChurnDesc) (desc : Nat) : List (Nat × Nat) :=
  [(desc, 64), (d.wA, 2 * d.elems), (d.mA, 2 * d.elems), (d.gA, d.gw * d.elems)] ++
  (if d.rule = 1 then [(d.lA, 4 * d.m * d.m), (d.pA, 2 * d.m * d.m)] else [])

/-! ### Arithmetic (R195, R198) -/

/-- The sum of binary32 values by additions of two partial sums at a time, in the order the device fixes; `n` is how many
values there were, `fuel` bounds the additions. -/
def churnAdd (n : Nat) : Nat → List Word → Word
  | 0, l => l.headD 0
  | _, [] => 0
  | _, [a] => a
  | fuel + 1, l =>
    let c := Config.churnOrder n l.length
    let i := c.1 % l.length
    let rest := listDrop1 l i
    let k := c.2 % rest.length
    churnAdd n fuel (b32Add (l.getD i 0) (rest.getD k 0) :: listDrop1 rest k)

/-- The sum of a list of binary32 values in the Churn's order (R195; log 15). -/
def churnSum (l : List Word) : Word := churnAdd l.length l.length l

/-- What one cell column makes of a token: the sum that leaves, with its events (R27, R88). `segs` are the segments'
operand pairs with their scales; `q` gives each segment's quarter. -/
def columnSum (compat : Bool) (q : Nat → Nat) : Nat → BitVec 56 → List (List (XNum × XNum) × Nat × Nat) →
    BitVec 56 × List RnEvt
  | _, acc, [] => (acc, [])
  | g, acc, (ps, sa, sw) :: rest =>
    let (x, lost) := groupSum ps
    let (acc', ovf) := acc56Add compat acc (scaledGroup x sa sw)
    let (r, ev) := columnSum compat q (g + 1) acc' rest
    (r, ⟨0, q g, 2, 5, b2n lost⟩ :: ⟨0, q g, 2, 9, b2n ovf⟩ :: ⟨0, q g, 2, 1, b2n (ovf && compat)⟩ :: ev)

/-- An M16 code as a binary32 word, exact. -/
def m16b32 (c : Nat) : Word := b32Of (Fmt.m16.decode false c)

/-- Round a binary32 word to nearest M16. -/
def roundRn (w : Word) : Nat := (Fmt.m16.narrow false false .rne (b32Num w)).1

/-- Round a list of binary32 words to M16 stochastically, one draw each (R184, R193). -/
def roundSrList : DWord → List Word → List Nat × DWord
  | g, [] => ([], g)
  | g, w :: l =>
    let (g', r) := draw g
    let c := (Fmt.m16.narrow false false (.sr r) (b32Num w)).1
    let (cs, g'') := roundSrList g' l
    (c :: cs, g'')

/-- A dot product of M16 codes in the matrix engine: FULL mode, passes of 128 K indices, segments of 32, every ACC56
addition under COMPAT_CZ2 (R27, R191; log 16). DESIGN CHOICE: the array's arithmetic counts its events as a pass's does,
and the edges count no non-finite operand, since the spec fixes no number of reads (log 16). -/
def dotM16 (compat : Bool) (j : Nat) (a b : List Nat) : BitVec 56 × List RnEvt :=
  let prs := List.zip (a.map (Fmt.m16.decode false)) (b.map (Fmt.m16.decode false))
  let passes := (pieces 128 prs.length prs).map (fun ch =>
    columnSum compat (fun s => cellQuarter 3 0 (min ch.length (32 * (s + 1)) - 1) j) 0 0
      ((pieces 32 ch.length ch).map (fun s => (s, 127, 127))))
  match passes with
  | [] => (0, [])
  | p :: rest =>
    rest.foldl (fun acc q =>
      let (y, ovf) := acc56Add compat acc.1 (acc56Num q.1)
      (y, acc.2 ++ q.2 ++ [⟨0, 2 + j / 64, 2, 9, b2n ovf⟩, ⟨0, 2 + j / 64, 2, 1, b2n (ovf && compat)⟩])) p

/-- A matrix as a list of rows. -/
abbrev Mat := List (List Nat)

/-- The transpose of a matrix of c columns. -/
def transposeM (c : Nat) (a : Mat) : Mat := (List.range c).map (fun j => a.map (fun r => r.getD j 0))

/-- The product of A and the matrix whose columns are the rows of Bt, as ACC56 words. -/
def mulAcc (compat : Bool) (a bt : Mat) : List (List (BitVec 56 × List RnEvt)) :=
  a.map (fun r => (bt.zipIdx).map (fun c => dotM16 compat (c.2 % 128) r c.1))

/-- An ACC56 product rounded to nearest M16. -/
def accM16 (w : BitVec 56) : Nat := (Fmt.m16.narrow false false .rne (acc56Num w)).1

/-- The product rounded to M16, with its events. -/
def mulM16 (compat : Bool) (a bt : Mat) : Mat × List RnEvt :=
  let p := mulAcc compat a bt
  (p.map (fun r => r.map (fun x => accM16 x.1)), (p.flatten.map Prod.snd).flatten)

/-- The product drained to binary32. -/
def mulB32 (compat : Bool) (a bt : Mat) : List (List Word) × List RnEvt :=
  let p := mulAcc compat a bt
  (p.map (fun r => r.map (fun x => b32Of (acc56Num x.1))), (p.flatten.map Prod.snd).flatten)

/-- Element-wise images with row and column numbers. -/
def mapIJ {α β : Type} (f : Nat → Nat → α → β) (a : List (List α)) : List (List β) :=
  (a.zipIdx).map (fun r => (r.1.zipIdx).map (fun x => f r.2 x.2 x.1))

/-- The binary32 constants 0, 1 and small integers. -/
def b32Int (n : Nat) : Word := b32Of (.fin false n 0)

/-- One ORTHO iteration (R195): X is m × n. -/
def orthoStep (compat : Bool) (j : Job) (n : Nat) (x : Mat × List RnEvt) : Mat × List RnEvt :=
  let (a, e1) := mulM16 compat x.1 x.1
  let (a2, e2) := mulM16 compat a (transposeM a.length a)
  let b := mapIJ (fun i k c =>
    roundRn (churnSum [b32Mul j.coefA (b32Int (if i = k then 1 else 0)), b32Mul j.coefB (m16b32 c),
      b32Mul j.coefC (m16b32 ((a2.getD i []).getD k 0))])) a
  let (x', e3) := mulM16 compat b (transposeM n x.1)
  (x', x.2 ++ e1 ++ e2 ++ e3)

/-- Apply a function n times. -/
def iterN {α : Type} (f : α → α) : Nat → α → α
  | 0, a => a
  | n + 1, a => iterN f n (f a)

/-- Cut a row-major list into rows of c. -/
def toRows (c : Nat) (l : List Nat) : Mat := pieces c l.length l

/-- A shard's matrix oriented m × n: transposed when ROWS > COLS. -/
def ChurnDesc.orient (d : ChurnDesc) (l : List Nat) : Mat :=
  let a := toRows d.cols l
  if d.cols < d.rows then transposeM d.cols a else a

/-- Back to the shard's row-major order. -/
def ChurnDesc.unorient {α : Type} [Inhabited α] (d : ChurnDesc) (a : List (List α)) : List α :=
  if d.cols < d.rows then
    (List.range d.rows).flatMap (fun i => (List.range d.cols).map (fun j => (a.getD j []).getD i default))
  else a.flatten

/-- The update each rule gives every element, in binary32 and row-major order: X of ORTHO, U of PRECOND; with the new
L and P, the residual, and whether CONVERGE is set. -/
structure ChurnCore where
  upd   : List Word
  newL  : Option (List Word)
  newP  : Option (List Nat)
  resid : Option Word
  kept  : Bool
  evts  : List RnEvt
  deriving DecidableEq, Repr

/-- ORTHO after the momentum update (R195). -/
def orthoCore (compat : Bool) (j : Job) (d : ChurnDesc) (mNew : List Nat) : ChurnCore :=
  let s := churnSum (mNew.map (fun c => b32Mul (m16b32 c) (m16b32 c)))
  let dd := b32Div (b32Int 1) (b32Add (b32Sqrt s) d.eps)
  let x0 := d.orient (mNew.map (fun c => roundRn (b32Mul dd (m16b32 c))))
  let (x, ev) := iterN (orthoStep compat j d.n) d.iters (x0, [])
  { upd := (d.unorient x).map m16b32, newL := none, newP := none, resid := none, kept := false, evts := ev }

/-- The p of a ROOT code. -/
def rootP (root : Nat) : Nat := if root = 0 then 2 else 4

/-- One step of the inverse-root iteration (R198): X, Mk and the events so far. -/
def precondStep (compat : Bool) (p : Nat) (st : Mat × Mat × List RnEvt) : Mat × Mat × List RnEvt :=
  let (x, mk, ev) := st
  let t := mapIJ (fun i k c =>
    roundRn (b32Div (b32Sub (b32Int (if i = k then p + 1 else 0)) (m16b32 c)) (b32Int p))) mk
  let tt := transposeM t.length t
  let (x', e1) := mulM16 compat x tt
  let (t2, e2) := mulM16 compat t tt
  let (tp, e3) := if p = 4 then mulM16 compat t2 (transposeM t2.length t2) else (t2, [])
  let (mk', e4) := mulM16 compat tp (transposeM mk.length mk)
  (x', mk', ev ++ e1 ++ e2 ++ e3 ++ e4)

/-- The largest |Mk − I|; NaN when an element of Mk is NaN. -/
def residual (mk : Mat) : Word :=
  let ds := (mapIJ (fun i k c => (b32Num (b32Sub (m16b32 c) (b32Int (if i = k then 1 else 0)))).abs) mk).flatten
  if ds.any (· == .nan) then 0x7FC00000 else b32Of (ds.foldl (fun a x => if a.lt x then x else a) .zero)

/-- PRECOND after the momentum update (R198). `l` and `pm` are the stored statistics and inverse root. -/
def precondCore (compat : Bool) (d : ChurnDesc) (mNew gM16 : List Nat) (l : List Word) (pm : List Nat) : ChurnCore :=
  let g := d.orient gM16
  let (sm, e0) := mulB32 compat g g
  let lNew := List.zipWith (fun a b => b32Add (b32Mul d.beta2 a) (b32Mul (b32Sub (b32Int 1) d.beta2) b)) l sm.flatten
  let p := rootP d.root
  let rows := pieces d.m lNew.length lNew
  let sq := fun (a : List Word) => b32Sqrt (churnSum (a.map (fun x => b32Mul x x)))
  let (res, pNew, kept, e1) :=
    if d.refresh then
      let f := sq lNew
      let a := mapIJ (fun i k x => b32Add x (b32Mul (b32Mul d.eps f) (b32Int (if i = k then 1 else 0)))) rows
      let s := sq a.flatten
      let mk0 := a.map (fun r => r.map (fun x => roundRn (b32Div x s)))
      let x0 := mapIJ (fun i k _ => if i = k then 0x3E00 else 0) mk0
      let (x, mk, ev) := iterN (precondStep compat p) d.iters (x0, mk0, [])
      let r := residual mk
      let ok := !b32NonFinite r && !((b32Num d.resLimit).lt (b32Num r)) && (b32Num d.resLimit != .nan)
      let q := (x.flatten).map (fun c => roundRn (b32Mul (m16b32 c) (Config.churnInvRoot p s)))
      (some r, (if ok then some q else none), !ok, ev)
    else (none, none, false, [])
  let pUse := pieces d.m pm.length (pNew.getD pm)
  let mM := d.orient mNew
  let (u, e2) := mulB32 compat pUse (transposeM d.n mM)
  { upd := d.unorient u, newL := some lNew, newP := pNew, resid := res, kept := kept, evts := e0 ++ e1 ++ e2 }

/-! ### Reading and writing the buffers -/

/-- n halfwords, and n words, of scratch. -/
def Tile.halves (t : Tile) (a n : Nat) : List Nat := (List.range n).map (fun i => t.rd8 (a + 2 * i) + 256 * t.rd8 (a + 2 * i + 1))
def Tile.words (t : Tile) (a n : Nat) : List Word := (List.range n).map (fun i => BitVec.ofNat 32 (t.rd32 (a + 4 * i)))

/-- Undefined bytes: free values (R189, R190). Bytes beyond scratch do not exist. -/
def Tile.freeBytes (t : Tile) (k : Nat) (r : Nat × Nat) : Tile :=
  t.wrBytes r.1 ((List.range (min r.2 (scratchSize - r.1))).map (fun i => BitVec.ofNat 8 (Config.freeValue k (r.1 + i))))

/-- Every buffer of a job becomes undefined (R189, R192, R194). -/
def Tile.freeBuffers (t : Tile) (k : Nat) (d : ChurnDesc) : Tile := d.buffers.foldl (fun t r => t.freeBytes k r) t

/-- Has a write since CHURN_GO met the job's descriptor or its buffers (R192)? -/
def Job.tainted (j : Job) : Bool :=
  j.wrote.any (fun w => ((j.desc, 64) :: j.d.buffers).any (fun b => overlaps w.1 w.2 b.1 b.2))

/-- Write the lanes of a vector register. -/
def Tile.setLanes (t : Tile) (v : Nat) (ws : List Word) : Tile :=
  { t with vr := (ws.zipIdx).foldl (fun m x => tabSet wordD m (v * 64 + x.2) x.1) t.vr }

/-- V0 to V31 hold undefined values (R190). -/
def Tile.freeVectors (t : Tile) (k : Nat) : Tile :=
  (List.range 32).foldl (fun t v =>
    t.setLanes v ((List.range 64).map (fun l => BitVec.ofNat 32 (Config.freeValue k (0x100000 + v * 64 + l))))) t

/-- What a job leaves behind after it has passed its checks (R190), the undefined buffers apart. -/
def Tile.churnLeaves (t : Tile) (k : Nat) : Tile :=
  ({ t with
    wValid := 0, wPendOn := 0, gang := 3, accOpen := [], fill := 0, openTile := [], arr := { t.arr with loads := [] } }).freeVectors k

/-! ### Events (R203) -/

/-- Set status bits as events, with CHURN_FIRST under R82: `ks` are the bit numbers in the order they arise. -/
def Tile.churnEvents (t : Tile) (shard : Nat) (ks : List Nat) : Tile :=
  let old := t.f Reg.churnStatus 6 4
  let t := (t.count Reg.churnNonfinCnt 31 0 (ks.filter (· == 4)).length).count Reg.churnBigCnt 31 0
    (ks.filter (· == 5)).length
  let t := ks.foldl (fun t k => t.setF Reg.churnStatus k k 1) t
  match old, ks with
  | 0, k :: _ => t.setReg Reg.churnFirst
      (BitVec.ofNat 32 (shard + 2 ^ 12 * k + 2 ^ 16 * ((t.reg Reg.churnJobs).toNat % 2 ^ 16)))
  | _, _ => t

/-- Clear status bits [6:4]; CHURN_FIRST clears when they are all zero (R82, R203). -/
def Tile.churnClear (t : Tile) (mask : Nat) : Tile :=
  let v := t.reg Reg.churnStatus &&& ~~~(BitVec.ofNat 32 mask)
  let t := t.setReg Reg.churnStatus v
  if fld v 6 4 = 0 then t.setReg Reg.churnFirst 0 else t

/-! ### The job's events -/

/-- CHURN_GO: start a job, whose hold begins now (R186, R187, R196, R204). `ownerOk` says that the owner entry of the
descriptor's shard names this tile. A seed that quarter 0 still owes is owed to what comes before the job (R80, R193). -/
def Tile.churnGo (t : Tile) (val : Word) (cyc : Nat) (owner : Nat → Bool) : Tile :=
  if !bit val 0 then t
  else if t.f Reg.churnStatus 0 0 = 1 then t.setF Reg.churnStatus 1 1 1
  else
    let a := t.f Reg.churnDesc 19 0
    let j : Job := ⟨a, cyc, t.reg Reg.churnCoefA, t.reg Reg.churnCoefB, t.reg Reg.churnCoefC,
      t.f Reg.churnBigExp 7 0, owner (fld (BitVec.ofNat 32 (t.rd32 (a + 56))) 11 0), false, false, [],
      if bit t.reseed 0 then some (t.reg64 Reg.rennetSrSeedLo) else none, []⟩
    { t.setF Reg.churnStatus 0 0 1 with churn := some j, reseed := setBit t.reseed 0 false }

/-- Are engines 0 and 1 idle and no set COMPLETE or DRAINING (R187)? -/
def Tile.churnMayRead (t : Tile) : Bool :=
  t.passes.isEmpty && t.arr.loads.isEmpty && t.drains.isEmpty && (tabGet waitD t.waits 0).isNone && (tabGet waitD t.waits 1).isNone

/-- CHURN_JOB_START: quarter 0 takes a seed it owes, and the job reads and checks its descriptor; a failing check is
recorded with ENGINE = 5 (R187, R189, R193). An uncorrectable word of the descriptor leaves the buffers it names
undefined (R189); `k` numbers the free values. -/
def Tile.churnStart (t : Tile) (k : Nat) : Tile :=
  match t.takeOwed.churn with
  | none => t
  | some j =>
    if j.begun || j.faulted || !t.churnMayRead then t else
    let (t, bad) := t.takeOwed.scrReads [(j.desc, 64)]
    let j := { j with words := t.churnWords j.desc }
    if bad then
      { (t.freeBuffers k j.d).recordFault 0x260 5 0 with churn := some { j with faulted := true } } else
    let code := t.churnCheck j
    if code ≠ 0 then { t.recordFault code 5 0 with churn := some { j with faulted := true } }
    else { t with churn := some { j with begun := true } }

/-- CHURN_JOB_FAULT: a scratch read of the job finds an uncorrectable word; every buffer of the job becomes undefined
(R189). `k` numbers the free values. -/
def Tile.churnFault (t : Tile) (k : Nat) : Tile :=
  match t.churn with
  | none => t
  | some j =>
    if !j.begun || j.faulted then t else
    let (t', bad) := t.scrReads (j.d.reads j.desc)
    if !bad then t else
    { (t'.freeBuffers k j.d).recordFault 0x260 5 0 with churn := some { j with faulted := true } }

/-- The gradient elements as binary32 words. -/
def Tile.churnGrad (t : Tile) (d : ChurnDesc) : List Word :=
  if d.gfmt = 7 then (t.halves d.gA d.elems).map m16b32 else t.words d.gA d.elems

/-- The event of a gradient element read (R203). -/
def gradEvt (bigExp : Nat) (w : Word) : List Nat :=
  if b32NonFinite w then [4]
  else if (XNum.fin false 1 bigExp).absLe (b32Num w) then [5] else []

/-- The event of an M16 element written. -/
def m16Evt (c : Nat) : List Nat := if (Fmt.m16.decode false c).isFinite then [] else [4]

/-- Everything a completing job computes and writes, W and M through the generator of quarter 0 (R193, R195, R198,
R203); the work area and G become undefined. After a write to its descriptor or buffers since CHURN_GO the job works on
undefined elements, and leaves undefined ones (R192). -/
def Tile.churnRun (t : Tile) (j : Job) (compat : Bool) (k : Nat) : Tile :=
  let d := j.d
  let t := if j.tainted then t.freeBuffers k d else t
  let g := t.churnGrad d
  let w := t.halves d.wA d.elems
  let m := t.halves d.mA d.elems
  let (mNew, gen1) := roundSrList (t.gen 0)
    (List.zipWith (fun a b => b32Add (b32Mul d.beta1 (m16b32 a)) b) m g)
  let core := if d.rule = 0 then orthoCore compat j d mNew
    else precondCore compat d mNew (g.map roundRn) (t.words d.lA (d.m * d.m)) (t.halves d.pA (d.m * d.m))
  let (wNew, gen2) := roundSrList gen1
    (List.zipWith (fun a u => b32Sub (m16b32 a) (b32Mul d.lr (b32Add (b32Mul d.scale u) (b32Mul d.wd (m16b32 a))))) w core.upd)
  let evs := (List.zipWith (fun x c => gradEvt j.bigExp x ++ m16Evt c) g mNew).flatten ++
    ((core.newL.getD []).flatMap (fun x => if b32NonFinite x then [4] else [])) ++
    ((core.newP.getD []).flatMap m16Evt) ++ (if core.kept then [6] else []) ++ wNew.flatMap m16Evt
  let t := t.setGen 0 gen2
  let t := (t.wrBytes d.mA (mNew.flatMap (bytesOf 2))).wrBytes d.wA (wNew.flatMap (bytesOf 2))
  let t := match core.newL with
    | some l => t.wrBytes d.lA (l.flatMap (fun (x : Word) => bytesOf 4 x.toNat))
    | none => t
  let t := match core.newP with
    | some p => t.wrBytes d.pA (p.flatMap (bytesOf 2))
    | none => t
  let t := match core.resid with
    | some r => t.setReg Reg.churnResidual r
    | none => t
  let t := if j.tainted then t.freeBuffers k d
    else (t.freeBytes k (d.gA, d.gw * d.elems)).freeBytes k (d.workA, 2 * d.elems + 8 * d.m * d.m + 256)
  (t.churnEvents d.shard evs).rnEvents (t.cmdSeq 0) core.evts

/-- A partition reset ends a running job at its step 1: it signals nothing, and every buffer it uses is undefined
(R194). -/
def Tile.churnEnds (t : Tile) (k : Nat) : Tile :=
  match t.churn with
  | none => t
  | some j =>
    let d := if j.begun || j.faulted then j.d else t.churnDescAt j.desc
    { (t.freeBuffers k d).setF Reg.churnStatus 0 0 0 with churn := none }

/-- CHURN_JOB_COMPLETE: the job's writes, then the semaphore signal, the counts, and the release of the queues (R190,
R191). -/
def Tile.churnComplete (t : Tile) (compat : Bool) (cyc k : Nat) : Tile :=
  match t.churn with
  | none => t
  | some j =>
    if !j.begun || j.faulted || (t.scrReads (j.d.reads j.desc)).2 then t else
    let d := j.d
    let t := (t.scrReads (d.reads j.desc)).1
    let t := (t.churnRun j compat k).churnLeaves k
    let t := (t.setReg Reg.churnLastCyc (BitVec.ofNat 32 (cycDiff cyc j.start))).setReg Reg.churnJobs (t.reg Reg.churnJobs + 1)
    let t := (t.setF Reg.churnStatus 0 0 0).addSem d.sem 1
    { t with churn := none }

/-- Ittan Service clears the fault record: VALID and every STOPPED bit clear, the faulting commands are already out of
their queues, a Churn job that faulted is discarded, with what it leaves behind, the draws of its generator included, and its queues released (R110, R189,
R190, R193). After a fault
of the same mesh cycle the clear has no effect (R110; log 69). -/
def Tile.clearFault (t : Tile) (mask : Word) (k : Nat) : Tile :=
  let valid := t.f Reg.ladleFault 31 31 == 1 && bit mask 31 && !t.now.fault
  let t := if bit mask 24 && !t.now.fault then t.setF Reg.ladleFault 24 24 0 else t
  if valid then
    let t := (t.setF Reg.ladleFault 31 31 0).setF Reg.ladleFault 23 20 0
    match t.churn with
    | some j =>
      if j.faulted then
        let t := { t.setF Reg.churnStatus 0 0 0 with churn := none }
        if j.begun then (t.setGen 0 (advance 1 (2 * j.d.elems) (t.gen 0))).churnLeaves k else t
      else t
    | none => t
  else t

end Sys2Proof.Machine
end

