-- ==== Sys2Proof/Machine/Vector.lean ====
section
/-!
DEFINITION. Machine/Vector.lean: the vector unit (R118 to R122) and the pack path of VNARROW (R78).
-/

namespace Sys2Proof.Machine

def vFunc (e : QEntry) : Nat := ef e 0 11 8
def vRep (e : QEntry) : Nat := ef e 1 15 0
def vStep (e : QEntry) : Nat := ef e 1 20 16
def vAddr (e : QEntry) : Nat := ef e 2 19 0
def vStride (e : QEntry) : Nat := ef e 3 19 0
def vFmt (e : QEntry) : Nat := ef e 4 3 0
def vQsel (e : QEntry) : Nat := ef e 4 6 5
def vRegs (e : QEntry) : Nat := ef e 4 10 7 + 1
def vCvt (e : QEntry) : Word := ew e 6

/-- Register VD, VA, VB or VC (0 to 3) of repetition r (R119). -/
def vReg (e : QEntry) (which r : Nat) : Nat := (ef e 0 (16 + 5 * which) (12 + 5 * which) + r * vStep e) % 32

/-- A lane of a vector register. -/
def Tile.lane (t : Tile) (v l : Nat) : Word := tabGet wordD t.vr (v * 64 + l)

/-- The 64 lanes of a vector register. -/
def Tile.lanes (t : Tile) (v : Nat) : List Word := (List.range 64).map (t.lane v)

/-! ### Checks (R121, R122) -/

/-- CZ_ERR_VEC_FORMAT: an FMT or FUNC that Table 4.7 does not allow. -/
def vFormatBad (e : QEntry) : Bool :=
  match opc e with
  | 0x20 => decide (vFunc e ≠ 0 ∨ vFmt e < 4 ∨ 8 < vFmt e)
  | 0x22 => decide (5 < vFunc e)
  | 0x23 => decide (1 < vFunc e)
  | _ => decide (vFunc e ≠ 0)

/-- CZ_ERR_VEC_SHAPE: REP = 0 or a set reserved bit. -/
def vShapeBad (e : QEntry) : Bool :=
  vRep e == 0 || decide (ef e 1 31 21 ≠ 0 ∨ ef e 2 31 20 ≠ 0 ∨ ef e 3 31 20 ≠ 0 ∨ ef e 4 31 11 ≠ 0) ||
  ew e 5 != 0 || ew e 7 != 0

/-- Elements of a VNARROW row. -/
def vRowLen (e : QEntry) : Nat := 64 * vRegs e

/-- Does a VNARROW read its scale descriptor (R60)? -/
def vReadsScale (e : QEntry) : Bool := cvOscale (vCvt e) || cvAscale (vCvt e) || cvWscale (vCvt e)

/-- Scratch bytes a vector command reads. -/
def vReads (e : QEntry) : List (Nat × Nat) :=
  match opc e with
  | 0x20 => (List.range (vRep e)).map (fun r => (vAddr e + r * vStride e, packedBytes (fmtOf (vFmt e)) 64))
  | 0x24 => if vReadsScale e then [(cvSdesc (vCvt e), 32)] else []
  | _ => []

/-- Scratch bytes a vector command writes. -/
def vWrites (t : Tile) (e : QEntry) : List (Nat × Nat) :=
  let sd := scaleAt t (cvSdesc (vCvt e))
  match opc e with
  | 0x21 => (List.range (vRep e)).map (fun r => (vAddr e + r * vStride e, 256))
  | 0x24 => (List.range (vRep e)).flatMap (fun r =>
      (vAddr e + r * vStride e, resultBytes (cvOfmt (vCvt e)) (vRowLen e)) ::
        (if cvOscale (vCvt e) then [(sd.oscBase + r * sd.oscPitch, vRowLen e / 32)] else []))
  | _ => []

/-- CZ_ERR_VEC_RANGE. -/
def vRangeBad (t : Tile) (e : QEntry) : Bool :=
  !((vReads e).all (fun r => inScratch r.1 r.2)) || !((vWrites t e).all (fun r => inScratch r.1 r.2))

/-- CZ_ERR_VEC_CVT of a VNARROW (R121). -/
def vCvtBad (t : Tile) (e : QEntry) : Bool :=
  let c := vCvt e
  opc e == 0x24 && (decide (9 ≤ cvOfmt c) || cvRnd c == 3 || (cvOscale c && decide (7 ≤ cvOfmt c)) ||
    (decide (cvRot c ≠ 0) && (decide (vRowLen e % rotBlock (cvRot c) ≠ 0) || t.seedFails (cvSeed c))))

/-- The code a vector command is rejected with, 0 for none (R122, R453). -/
def vCheck (t : Tile) (e : QEntry) : Nat :=
  if vFormatBad e then 0x230 else if vShapeBad e then 0x231 else if vRangeBad t e then 0x232
  else if vCvtBad t e then 0x233 else 0

/-! ### Operations (R119 to R121) -/

/-- The default NaN of binary32 (R57). -/
def b32Nan : Word := 0x7FC00000

/-- The values that MAX or MIN may take where R120 leaves the choice: of two lanes of which one is NaN the other one or
the default NaN (R57), the default NaN of two NaNs, and either of two zeros of unlike sign (log 11). -/
def vExtremeOf (a b : Word) : List Word :=
  let nan := fun w => b32Num w == .nan
  if nan a || nan b then [a, b].filter (fun w => !nan w) ++ [b32Nan] else [a, b]

/-- MAX or MIN of two lanes (R119, R120). -/
def vExtreme (mx : Bool) (a b : Word) : Word :=
  let x := b32Num a
  let y := b32Num b
  if x == .nan || y == .nan || (x.isZero && y.isZero && x.sign != y.sign) then
    let l := vExtremeOf a b
    l.getD (Config.vecExtremePick mx a b % l.length) b32Nan
  else if mx then (if x.lt y then b else a) else (if y.lt x then b else a)

/-- The lane function of a VOP (Table 4.7). -/
def vLane (f : Nat) (a b c : Word) : Word :=
  match f with
  | 0 => b32Add a b
  | 1 => b32Sub a b
  | 2 => b32Mul a b
  | 3 => b32Fma a b c
  | 4 => vExtreme true a b
  | _ => vExtreme false a b

/-- One level of the pairwise tree of a VSUM. -/
def pairUp (f : Word → Word → Word) : List Word → List Word
  | a :: b :: l => f a b :: pairUp f l
  | l => l

/-- The six levels that combine 64 lanes. -/
def treeSum (f : Word → Word → Word) (l : List Word) : Word :=
  ((List.range 6).foldl (fun l _ => pairUp f l) l).headD 0

/-- Repetition r of a VLOAD. -/
def Tile.vload1 (t : Tile) (e : QEntry) (r : Nat) : Tile :=
  let f := fmtOf (vFmt e)
  let a := vAddr e + r * vStride e
  let xs := (List.range 64).map (fun i => f.decode (bit (ew e 4) 4) (packedGet t.rd8 a f i))
  let t := t.setLanes (vReg e 0 r) (xs.map b32Of)
  t.rnEvents (t.cmdSeq 1) [⟨r, 0, 3, 3, (xs.filter (fun x => !x.isFinite)).length⟩]

/-- Repetition r of a VSTORE. -/
def Tile.vstore1 (t : Tile) (e : QEntry) (r : Nat) : Tile :=
  t.wrBytes (vAddr e + r * vStride e) ((t.lanes (vReg e 1 r)).flatMap (fun w => bytesOf 4 w.toNat))

/-- Repetition r of a VOP. -/
def Tile.vop1 (t : Tile) (e : QEntry) (r : Nat) : Tile :=
  t.setLanes (vReg e 0 r) ((List.range 64).map (fun l =>
    vLane (vFunc e) (t.lane (vReg e 1 r) l) (t.lane (vReg e 2 r) l) (t.lane (vReg e 3 r) l)))

/-- Repetition r of a VSUM. -/
def Tile.vsum1 (t : Tile) (e : QEntry) (r : Nat) : Tile :=
  t.setLanes (vReg e 0 r)
    (treeSum (if vFunc e = 0 then b32Add else vExtreme true) (t.lanes (vReg e 1 r)) :: List.replicate 63 0)

/-- Row r of a VNARROW through the output stage of quarter QSEL (R78, R121). -/
def Tile.vnarrow1 (t : Tile) (e : QEntry) (r : Nat) : Tile :=
  let c := vCvt e
  let q := vQsel e
  let f := fmtOf (cvOfmt c)
  let sd := scaleAt t (cvSdesc c)
  let xs := (List.range (vRegs e)).flatMap (fun i =>
    (t.lanes ((ef e 0 21 17 + r * vRegs e + i * vStep e) % 32)).map b32Num)
  let pre := if cvRot c = 0 then xs.map (fun x => (x, []))
    else rotRow (cvFlush c) (cvInv c) (tabGet patternD t.patterns (cvSeed c)) (rotBlock (cvRot c)) xs
  let o := narrowRow f c (t.gen q) (pre.map Prod.fst)
  let t := (t.setGen q o.gen).wrBytes (vAddr e + r * vStride e)
    (bytesOf (packedBytes f o.codes.length) (packCodes f.bits o.codes))
  let t := if cvOscale c then t.wrBytes (sd.oscBase + r * sd.oscPitch) (o.scales.map (BitVec.ofNat 8)) else t
  t.rnEvents (t.cmdSeq 1) (rowEvts q 3 ((pre.map Prod.snd).flatten ++ atMoment 3 o.evts))

/-- All repetitions in order. -/
def repeatN (f : Tile → Nat → Tile) : Nat → Tile → Tile
  | 0, t => t
  | n + 1, t => f (repeatN f n t) n

/-- Does a VNARROW wait at the head: its seed slot is busy (R76), or its stage still owes a reseed (R80)? -/
def vWaits (t : Tile) (e : QEntry) : Bool :=
  opc e == 0x24 && ((decide (cvRot (vCvt e) ≠ 0) && t.f Reg.rennetSeedBusy (cvSeed (vCvt e)) (cvSeed (vCvt e)) == 1) ||
    t.owesSeed (vQsel e))

/-- May the vector unit start a command? -/
def Tile.vecReady (t : Tile) : Bool := t.runs 1 && (tabGet waitD t.waits 1).isNone && t.churn.isNone

/-- A vector command e that may start is checked, and rejected or carried out with the operation given for one repetition,
its banks won. -/
def Tile.vecRun (t : Tile) (e : QEntry) (f : Tile → QEntry → Nat → Tile) : Tile :=
  let t := if opc e == 0x24 && decide (cvRot (vCvt e) ≠ 0) then t.seedTake (cvSeed (vCvt e)) else t
  let code := vCheck t e
  if code ≠ 0 then t.reject 1 0 code else
  let (t, bad) := t.scrReads (vReads e)
  let t := t.takeCmd 1 0
  if bad then t.recordFault 0x260 1 (t.cmdSeq 1) else repeatN (fun t r => f t e r) (vRep e) t

/-- The scratch bytes that a vector command passing its checks reads and writes. -/
def vSpans (t : Tile) (e : QEntry) : List (Nat × Nat) × List (Nat × Nat) :=
  if vCheck t e = 0 then (vReads e, vWrites t e) else ([], [])

/-- The vector command of opcode `op` at the head of the vector queue starts (R107, R119, R122). Its accesses to scratch rank
fifth, the rows that VNARROW writes by the pack path second (R45). -/
def Tile.vectorCommand (t : Tile) (op : Nat) (f : Tile → QEntry → Nat → Tile) (cyc : Nat) : Tile :=
  if !t.vecReady then t else
  match t.queue 1 with
  | [] => t
  | e :: _ =>
    if opc e ≠ op || vWaits t e then t else
    let sp := vSpans t e
    t.servedBoth cyc (if op = 0x24 then 2 else 5) 5 sp.2 sp.1 (fun t => t.vecRun e f)

end Sys2Proof.Machine
end

