-- ==== Sys2Proof/Machine/Skimmer.lean ====
section
/-!
DEFINITION. Machine/Skimmer.lean: the Skimmer and its Whey (R212 to R222, R225, R226).
-/

namespace Sys2Proof.Machine

/-! ### The descriptor (Table 8.1) -/

/-- The eight words at the descriptor's address, and their fields. DESIGN CHOICE (log 77): of a descriptor that lies beyond
scratch the missing bytes count as zero, so that CZ_ERR_SKIM_DESC, the lower code, may be recorded. -/
def Tile.skimWords (t : Tile) : List Word :=
  (List.range 8).map (fun i => BitVec.ofNat 32 (t.rd32 (t.f Reg.skimDesc 19 0 + 4 * i)))

def skMode (w : List Word) : Nat := fld (w.getD 0 0) 1 0
def skGfmt (w : List Word) : Nat := fld (w.getD 0 0) 7 4
def skVfmt (w : List Word) : Nat := fld (w.getD 0 0) 11 8
def skK (w : List Word) : Nat := fld (w.getD 0 0) 17 12 + 1
def skWinit (w : List Word) : Bool := bit (w.getD 0 0) 18
def skSem (w : List Word) : Nat := fld (w.getD 0 0) 31 22
def skBlocks (w : List Word) : Nat := fld (w.getD 1 0) 11 0
def skG (w : List Word) : Nat := fld (w.getD 2 0) 19 0
def skOut (w : List Word) : Nat := fld (w.getD 3 0) 19 0
def skWhey (w : List Word) : Nat := (w.getD 4 0).toNat + 2 ^ 32 * (w.getD 5 0).toNat

/-- Bytes of a gradient element, and of a compressed block (Table 8.4). -/
def skGw (w : List Word) : Nat := if skGfmt w = 7 then 2 else 4
def skimBlock (mode vfmt k : Nat) : Nat :=
  if mode = 1 then 40 else 8 * ceilDiv (2 + (if vfmt = 7 then 3 else 2) * k) 8
def skB (w : List Word) : Nat := skimBlock (skMode w) (skVfmt w) (skK w)

/-- CZ_ERR_SKIM_DESC (R214). -/
def skDescBad (w : List Word) : Bool :=
  decide (1 < skMode w) || !(skGfmt w == 7 || skGfmt w == 8) ||
  (skMode w == 0 && !(skVfmt w == 5 || skVfmt w == 6 || skVfmt w == 7)) ||
  decide (fld (w.getD 0 0) 3 2 ≠ 0 ∨ fld (w.getD 0 0) 21 19 ≠ 0 ∨ fld (w.getD 1 0) 31 12 ≠ 0 ∨
    fld (w.getD 2 0) 31 20 ≠ 0 ∨ fld (w.getD 3 0) 31 20 ≠ 0 ∨ w.getD 6 0 ≠ 0 ∨ w.getD 7 0 ≠ 0) ||
  skBlocks w == 0 || decide (2048 < skBlocks w)

/-- CZ_ERR_SKIM_RANGE (R214). -/
def skRangeBad (desc : Nat) (w : List Word) : Bool :=
  let g := (skG w, 256 * skGw w * skBlocks w)
  let o := (skOut w, skB w * skBlocks w)
  decide (desc % 32 ≠ 0 ∨ skG w % 64 ≠ 0 ∨ skOut w % 8 ≠ 0) || decide (scratchSize < desc + 32) ||
  decide (scratchSize < g.1 + g.2) || decide (scratchSize < o.1 + o.2) || !disjointAll [g, o, (desc, 32)]

/-- CZ_ERR_SKIM_WHEY (R214): the Whey lies in the tile's own column of this chip, and within windows for RD and WR. -/
def State.skWheyBad (s : State) (t : Nat) (w : List Word) : Bool :=
  let g := skWhey w
  let n := 512 * skBlocks w
  !globalOk g n || decide (g % 32 ≠ 0) || gChip g != s.chipId ||
  !(decide (vatCol (gAddr g) = t) && decide (vatCol (gAddr g + n - 1) = t)) ||
  !(s.tileGrants t g n accRd && s.tileGrants t g n accWr)

/-- The code a job is rejected with, 0 for none. -/
def State.skimCheck (s : State) (t : Nat) : Nat :=
  let x := s.tile t
  let w := x.skimWords
  if skDescBad w then 0x280 else if skRangeBad (x.f Reg.skimDesc 19 0) w then 0x281
  else if s.skWheyBad t w then 0x282 else 0

/-- The generator's state at a job's start (R219). -/
def Tile.skimReseeds (t : Tile) : Tile :=
  if t.skimReseed then { t with skimGen := genSeed (t.reg64 Reg.skimSrSeedLo) 5, skimReseed := false } else t

/-- SKIM_GO: a job that passes its checks starts; while one runs, the write sets OVERRUN (R212, R214). -/
def State.skimGo (s : State) (t : Nat) (val : Word) : State :=
  let x := s.tile t
  if !bit val 0 then s
  else if x.f Reg.skimStatus 0 0 = 1 then s.setTile t (x.setF Reg.skimStatus 1 1 1)
  else
    let r := x.scrReads [(x.f Reg.skimDesc 19 0, 32)]
    if r.2 then s.setTile t (r.1.recordFault 0x260 6 0) else
    let code := s.skimCheck t
    if code ≠ 0 then s.setTile t (r.1.recordFault code 6 0)
    else
      let x := r.1.skimReseeds
      s.setTile t { x.setF Reg.skimStatus 0 0 1 with skim := some ⟨x.f Reg.skimDesc 19 0, x.skimWords, s.cyc, [], []⟩ }

/-! ### Blocks (R215 to R220) -/

/-- A compressed block: its bytes, and the value t that each element transmits. -/
structure SkimOut where
  bytes : List Byte
  sent  : List XNum
  deriving DecidableEq, Repr

/-- The rank class of an element: finite ones, then infinities and NaNs in the order that the device gives them, which R216
leaves open (log 37). -/
def skimClass (w : Word) : Nat :=
  if !b32NonFinite w then 0
  else if (b32Num w == .nan) == Config.skimNanFirst then 2 else 1

/-- Does element j rank above element i (R216): a higher class, or in one class a greater magnitude, or in equal ones the
lower index? -/
def skimAbove (v : List Word) (j i : Nat) : Bool :=
  let a := v.getD j 0
  let b := v.getD i 0
  let x := (b32Num a).abs
  let y := (b32Num b).abs
  decide (skimClass b < skimClass a) || (skimClass a == skimClass b &&
    (if skimClass a = 0 then y.lt x || (!x.lt y && decide (j < i)) else decide (j < i)))

/-- The indices of the k elements that rank highest, ascending. -/
def skimTop (v : List Word) (k : Nat) : List Nat :=
  (List.range v.length).filter (fun i => decide (((List.range v.length).filter (fun j => j != i && skimAbove v j i)).length < k))

/-- A scale, for the cases in which R217 and R218 give none: a function of the block's values, so that equal jobs have equal
output (R219; log 37). -/
def freeScale (v : List Word) : Int := (Config.skimScale v % 255 : Nat) - (127 : Int)

/-- A TOPK block (R216, R217, R220, Table 8.2). -/
def skimTopk (vfmt k size : Nat) (v : List Word) : SkimOut :=
  let f := fmtOf vfmt
  let nonfin := v.any b32NonFinite
  let sel := skimTop v k
  let xs := sel.map (fun i => b32Num (v.getD i 0))
  let sc := if nonfin then freeScale v else groupScale f false xs
  let codes := xs.map (fun x => (f.narrow false false .rne (x.shift (-sc))).1)
  let body := [BitVec.ofNat 8 (if nonfin then 255 else (sc + 127).toNat), BitVec.ofNat 8 (k - 1)] ++
    sel.map (BitVec.ofNat 8) ++ codes.flatMap (bytesOf (f.bits / 8))
  { bytes := body ++ List.replicate (size - body.length) 0
    sent := (List.range v.length).map (fun i =>
      if nonfin || !sel.contains i then .zero
      else (f.decode false (codes.getD (sel.findIdx (· == i)) 0)).shift sc) }

/-- A power of two as a number. -/
def pow2 (neg : Bool) (e : Int) : XNum := .fin neg 1 e

/-- The scale of a SIGN block v of mean m (R218). -/
def signScale (v : List Word) (m : XNum) : Int :=
  match m with
  | .fin _ u x =>
    let e : Int := (log2 u : Int) + x
    let s := if (XNum.fin false u (x - e)).lt (b32Num 0x3FB504F3) then e else e + 1
    max (-127) (min 127 s)
  | _ => freeScale v

/-- A SIGN block (R218, R220, Table 8.3). -/
def skimSign (v : List Word) : SkimOut :=
  let nonfin := v.any b32NonFinite
  let total := ((List.range 8).foldl (fun l _ => pairUp b32Add l) (v.map (fun w => w &&& 0x7FFFFFFF))).headD 0
  let m := (b32Num total).shift (-8)
  let zero := !nonfin && m.isZero
  let sc := signScale v m
  let signs := (List.range 32).map (fun q => BitVec.ofNat 8
    (((List.range 8).map (fun u => b2n (bit (v.getD (8 * q + u) 0) 31) * 2 ^ u)).sum))
  let code := if nonfin then 255 else if zero then 0 else (sc + 127).toNat
  { bytes := signs ++ [BitVec.ofNat 8 code, BitVec.ofNat 8 (b2n zero)] ++ List.replicate 6 0
    sent := v.map (fun w => if nonfin || zero then .zero else pow2 (bit w 31) sc) }

/-- A Skimmer counter counts under R81: one that stops sets CNT_SAT. RENNET_FIRST then names CNT_SAT, where it is the first
flag, with QUARTER and STAGE 0 and the matrix command count (DESIGN CHOICE, log 78). -/
def Tile.skimCount (t : Tile) (o n : Nat) : Tile :=
  let u := t.rnCount o n
  if t.reg Reg.rennetFlags = 0 ∧ u.reg Reg.rennetFlags ≠ 0 then u.recordFirst (u.cmdSeq 0) ⟨0, 0, 0, 8, 1⟩ else u

/-- Set status bits as events, with SKIM_FIRST under R82. -/
def Tile.skimEvents (t : Tile) (block nonfin ovf : Nat) : Tile :=
  let old := t.f Reg.skimStatus 5 4
  let t := (t.skimCount Reg.skimNonfinCnt nonfin).skimCount Reg.skimOvfCnt ovf
  let t := if 0 < nonfin then t.setF Reg.skimStatus 4 4 1 else t
  let t := if 0 < ovf then t.setF Reg.skimStatus 5 5 1 else t
  if old ≠ 0 || t.f Reg.skimStatus 5 4 = 0 then t
  else t.setReg Reg.skimFirst (BitVec.ofNat 32
    (block + 2 ^ 12 * (if 0 < nonfin then 4 else 5) + 2 ^ 16 * ((t.reg Reg.skimJobs).toNat % 2 ^ 16)))

/-- Clear status bits [5:4]; SKIM_FIRST clears when both are zero (R82, R225). -/
def Tile.skimClear (t : Tile) (mask : Nat) : Tile :=
  let v := t.reg Reg.skimStatus &&& ~~~(BitVec.ofNat 32 mask)
  let t := t.setReg Reg.skimStatus v
  if fld v 5 4 = 0 then t.setReg Reg.skimFirst 0 else t

/-- A job on its way through its blocks: the code it stopped with, 0 for none. -/
structure SkimRun where
  st   : State
  code : Nat

/-- Halves of a byte list as 16-bit codes, little-endian. -/
def halfCodes : List Byte → List Nat
  | a :: b :: l => (a.toNat + 256 * b.toNat) :: halfCodes l
  | _ => []

/-- One block of tile t's job (R215, R219, R220, R222). -/
def State.skimBlock1 (s : State) (t : Nat) (w : List Word) (b : Nat) : SkimRun :=
  let x := s.tile t
  let ga := skG w + 256 * b * skGw w
  let g := if skGfmt w = 7 then (x.halves ga 256).map m16b32 else x.words ga 256
  let rd := x.scrReads [(ga, 256 * skGw w)]
  let wa := gAddr (skWhey w) + 512 * b
  let s := s.setTile t rd.1
  let wh := if skWinit w then (s, List.replicate 512 0, []) else s.homeRead wa 512
  let s := wh.1
  let v := List.zipWith b32Add g ((halfCodes wh.2.1).map m16b32)
  let out := if skMode w = 1 then skimSign v else skimTopk (skVfmt w) (skK w) (skB w) v
  let r := narrowList .m16 false false 1 (s.tile t).skimGen (List.zipWith (fun a y => (b32Num a).add y.negate) v out.sent)
  let newWhey := (r.1.map Prod.fst).flatMap (bytesOf 2)
  let oa := skOut w + b * skB w
  let s := { s with freeCount := s.freeCount + 1 }
  if rd.2 || !wh.2.2.isEmpty then
    let s := s.modTile t (fun x => x.freeBytes (s.freeCount - 1) (oa, skB w))
    let s := (List.range 16).foldl (fun s i =>
      if Config.freeValue (s.freeCount - 1) (2000 + i) % 2 = 0 then s
      else s.homeWrite (wa + 32 * i) ((newWhey.drop (32 * i)).take 32)) s
    ⟨s, if rd.2 then 0x260 else 0x283⟩
  else
    let nonfin := (v.filter b32NonFinite).length
    let ovf := (r.1.filter (fun y => y.2 == .ovf)).length
    let s := s.modTile t (fun x => ({ (x.wrBytes oa out.bytes) with skimGen := r.2 } : Tile).skimEvents b nonfin ovf)
    ⟨s.homeWrite wa newWhey, 0⟩

/-- The blocks of a job in ascending order, up to one that fails. -/
def State.skimRun (s : State) (t : Nat) (w : List Word) : Nat → SkimRun
  | 0 => ⟨s, 0⟩
  | n + 1 =>
    let r := s.skimRun t w n
    if r.code ≠ 0 then r else r.st.skimBlock1 t w n

/-- The part of a write that lies in a range. -/
def spanMeet (w r : Nat × Nat) : Option (Nat × Nat) :=
  if overlaps w.1 w.2 r.1 r.2 then some (max w.1 r.1, min (w.1 + w.2) (r.1 + r.2) - max w.1 r.1) else none

/-- The bytes of a job's descriptor and gradient, and of its Whey, that were written while it ran (R221). -/
def SkimJob.taintScratch (j : SkimJob) : List (Nat × Nat) :=
  j.wrote.flatMap (fun w => [(j.desc, 32), (skG j.words, 256 * skGw j.words * skBlocks j.words)].filterMap (spanMeet w))
def SkimJob.taintWhey (j : SkimJob) : List (Nat × Nat) :=
  j.wheyWrote.filterMap (fun w => spanMeet w (gAddr (skWhey j.words), 512 * skBlocks j.words))

/-- Bytes of memory become undefined: free values. -/
def State.freeMem (s : State) (k : Nat) (r : Nat × Nat) : State :=
  { s with mem := memWrite s.mem r.1 ((List.range r.2).map (fun i => BitVec.ofNat 8 (Config.freeValue k (r.1 + i)))) }

/-- What was written into a job's buffers while it ran is undefined (R221). -/
def State.skimTaint (s : State) (t : Nat) (j : SkimJob) : State :=
  if j.taintScratch = [] ∧ j.taintWhey = [] then s else
  let k := s.freeCount
  let s := s.modTile t (fun x => j.taintScratch.foldl (fun x r => x.freeBytes k r) x)
  ({ s with freeCount := k + 1 } : State) |> fun s => j.taintWhey.foldl (fun s r => s.freeMem k r) s

/-- A job runs over its blocks; what others wrote into its buffers meanwhile is undefined before it and after it. -/
def State.skimJobRun (s : State) (t : Nat) (j : SkimJob) : SkimRun :=
  let r := (s.skimTaint t j).skimRun t j.words (skBlocks j.words)
  ⟨r.st.skimTaint t j, r.code⟩

/-- The scratch bytes of a job's last block, whose service ends it: its accesses rank sixth (R45, R212; log 62). -/
def SkimJob.lastSpans (j : SkimJob) : List (Nat × Nat) :=
  let b := skBlocks j.words - 1
  [(skG j.words + 256 * b * skGw j.words, 256 * skGw j.words), (skOut j.words + b * skB j.words, skB j.words)]

/-- The end of a job: every block is done, its output performed and its Whey acknowledged; the job counts and signals its
semaphore (R221). -/
def State.skimEnd (s : State) (t : Nat) (j : SkimJob) : State :=
  let r := s.skimJobRun t j
  if r.code ≠ 0 then s else
  r.st.modTile t (fun x =>
    let x := (x.setReg Reg.skimLastCyc (BitVec.ofNat 32 (cycDiff s.cyc j.start))).setReg Reg.skimJobs (x.reg Reg.skimJobs + 1)
    { (x.setF Reg.skimStatus 0 0 0).addSem (skSem j.words) 1 with skim := none })

/-- SKIM_JOB_COMPLETE. A job that meets an uncorrectable word or sector does not complete. -/
def State.skimComplete (s : State) (t : Nat) : State :=
  match (s.tile t).skim with
  | none => s
  | some j => s.banked t 6 j.lastSpans (fun s => s.skimEnd t j)

/-- SKIM_JOB_FAULT: an uncorrectable Whey sector or scratch word stops the job at its block (R222). -/
def State.skimFault (s : State) (t : Nat) : State :=
  match (s.tile t).skim with
  | none => s
  | some j =>
    let r := s.skimJobRun t j
    if r.code = 0 then s else
    r.st.modTile t (fun x => { (x.setF Reg.skimStatus 0 0 0).recordFault r.code 6 0 with skim := none })

/-- A job ends without a signal: its output and its Whey hold free values (R222). -/
def State.skimEnds (s : State) (t : Nat) : State :=
  match (s.tile t).skim with
  | none => s
  | some j =>
    let k := s.freeCount
    let s := s.freeMem k (gAddr (skWhey j.words), 512 * skBlocks j.words)
    { s.modTile t (fun x => { (x.freeBytes k (skOut j.words, skB j.words * skBlocks j.words)).setF Reg.skimStatus 0 0 0 with
        skim := none }) with freeCount := k + 1 }

end Sys2Proof.Machine
end

