-- ==== Sys2Proof/Machine/Coll.lean ====
section
/-!
DEFINITION. Machine/Coll.lean: the collective engine: groups (R255 to R257), posting (R258 to R263), entry and signatures
(R278, R279, R342), completion (R280 to R282), and aborts (R283 to R287). The arithmetic is in CollData.lean.
-/

namespace Sys2Proof.Machine

/-! ### Groups (R255, R256, Table 10.12) -/

/-- The mode of an axis of a group: 0 unused, 1 pair, 2 whole. -/
def Part.grpMode (p : Part) (g a : Nat) : Nat :=
  let m := p.f (Reg.collGrpCfg + 16 * g) (2 * a + 1) (2 * a)
  if m = 3 then 0 else m

def Part.grpValid (p : Part) (g : Nat) : Bool := p.f (Reg.collGrpCfg + 16 * g) 31 31 == 1
def Part.grpOrigin (p : Part) (g : Nat) : Nat := p.f (Reg.collGrpOrigin + 16 * g) 17 0
def Part.grpKey (p : Part) (g : Nat) : Nat := (p.reg (Reg.collGrpKey + 16 * g)).toNat
def Part.grpSeq (p : Part) (g : Nat) : Nat := (p.reg (Reg.collGrpSeq + 16 * g)).toNat

/-- The length of an axis of a group. -/
def State.grpLen (s : State) (n g a : Nat) : Nat :=
  match (s.part n).grpMode g a with
  | 0 => 1 | 1 => 2 | _ => s.axisExtent a

/-- P. -/
def State.grpSize (s : State) (n g : Nat) : Nat := s.grpLen n g 0 * s.grpLen n g 1 * s.grpLen n g 2

/-- This chip's offset from the origin on an axis. -/
def State.grpOffset (s : State) (n g a : Nat) : Nat :=
  let e := s.axisExtent a
  (axisCoord s.chipId a + e - axisCoord ((s.part n).grpOrigin g) a % e) % e

/-- This member's rank (R256). -/
def State.grpRank (s : State) (n g : Nat) : Nat :=
  (s.grpOffset n g 0 * s.grpLen n g 1 + s.grpOffset n g 1) * s.grpLen n g 2 + s.grpOffset n g 2

/-- The ring neighbours of this member, numbered 2 · axis + (1 for −). -/
def State.grpNbs (s : State) (n g : Nat) : List Nat :=
  (List.range 3).flatMap (fun a => match (s.part n).grpMode g a with
    | 0 => []
    | 1 => if s.grpOffset n g a = 0 then [2 * a] else [2 * a + 1]
    | _ => [2 * a, 2 * a + 1])

/-- The neighbour that a ring sends to, and the one it receives from: + sends on the + pair and − on the − pair of a
whole axis; both rings of a pair axis use the pair that leads to the partner (R256, R257). -/
def State.ringTo (s : State) (n g axis ring : Nat) : Nat :=
  if (s.part n).grpMode g axis = 1 then (if s.grpOffset n g axis = 0 then 2 * axis else 2 * axis + 1) else 2 * axis + ring
def State.ringFrom (s : State) (n g axis ring : Nat) : Nat :=
  if (s.part n).grpMode g axis = 1 then s.ringTo n g axis ring else 2 * axis + (1 - ring)

/-- CZ_ERR_COLL_GROUP (R262). -/
def State.grpBad (s : State) (n g : Nat) : Bool :=
  !(s.part n).grpValid g ||
  (List.range 3).any (fun a => match (s.part n).grpMode g a with
    | 0 => s.grpOffset n g a != 0
    | 1 => decide (2 ≤ s.grpOffset n g a)
    | _ => !s.axisWraps a)

/-! ### The descriptor (Table 10.1, Table 10.2) -/

def cw (w : List Word) (i hi lo : Nat) : Nat := fld (w.getD i 0) hi lo
def cw64 (w : List Word) (i : Nat) : Nat := (w.getD i 0).toNat + 2 ^ 32 * (w.getD (i + 1) 0).toNat
def coOp (w : List Word) : Nat := cw w 0 3 0
def coRfn (w : List Word) : Nat := cw w 0 5 4
def coWfmt (w : List Word) : Nat := cw w 0 9 6
def coSfmt (w : List Word) : Nat := cw w 0 13 10
def coDfmt (w : List Word) : Nat := cw w 0 17 14
def coPad (w : List Word) : Bool := cw w 0 18 18 == 1
def coDense (w : List Word) : Bool := cw w 0 19 19 == 1
def coGroup (w : List Word) : Nat := cw w 0 25 20
def coCount (w : List Word) : Nat := cw w 1 31 0
def coSrc (w : List Word) : Nat := cw64 w 2
def coDst (w : List Word) : Nat := cw64 w 4
def coCap (w : List Word) : Nat := cw w 6 31 0
def coRoot (w : List Word) : Nat := cw w 9 17 0
def coSeed (w : List Word) : DWord := BitVec.ofNat 64 (cw64 w 10)
def coRecord (w : List Word) : Nat := cw64 w 12
def coSmode (w : List Word) : Nat := cw w 14 1 0
def coK (w : List Word) : Nat := cw w 14 7 2 + 1
def coVfmt (w : List Word) : Nat := cw w 14 11 8

/-- Element width in bytes of a format code of a buffer: I8, M16 or binary32. -/
def coWidth (f : Nat) : Nat := if f = 7 then 2 else if f = 8 then 4 else 1

/-- ALL_REDUCE or REDUCE_SCATTER: an operation that reduces elements. -/
def coReduces (w : List Word) : Bool := decide (coOp w ≤ 1)

/-- The block size of a SKIM_REDUCE (Table 8.4). -/
def coBlock (w : List Word) : Nat := skimBlock (coSmode w) (coVfmt w) (coK w)

/-- The share size of R266. -/
def coShare (w : List Word) (p : Nat) : Nat := 64 * ceilDiv (coCount w) (64 * p)

/-- Capacity per rank of a padded ALL_GATHERV (R271). -/
def coSlot (w : List Word) (p : Nat) : Nat := coCap w / p

/-- Bytes of the source buffer, and of the destination, of a member of rank r among p. -/
def coSrcBytes (w : List Word) (r : Nat) : Nat :=
  match coOp w with
  | 0 | 1 => coCount w * coWidth (coSfmt w)
  | 2 | 3 => coCount w * coWidth (coWfmt w)
  | 4 => if r = coRoot w then coCount w * coWidth (coWfmt w) else 0
  | 5 => coCount w * coBlock w
  | _ => 0
def coDstBytes (w : List Word) (p : Nat) (r : Nat) : Nat :=
  match coOp w with
  | 0 => coCount w * coWidth (coDfmt w)
  | 1 => (min ((r + 1) * coShare w p) (coCount w) - r * coShare w p) * coWidth (coDfmt w)
  | 2 => p * coCount w * coWidth (coWfmt w)
  | 3 => (if coPad w then p * coSlot w p else coCap w) * coWidth (coWfmt w)
  | 4 => coCount w * coWidth (coWfmt w)
  | 5 => 256 * coCount w * coWidth (coDfmt w)
  | _ => 0
def coRecBytes (w : List Word) (p : Nat) : Nat := 32 + (if coOp w = 3 then 4 * p else 0)

/-- Does Table 10.2 allow the formats? -/
def coFormats (w : List Word) : Bool :=
  let m16b := fun f => f == 7 || f == 8
  match coOp w with
  | 0 | 1 => (coWfmt w == 5 || coWfmt w == 6 || m16b (coWfmt w)) && m16b (coSfmt w) && m16b (coDfmt w)
  | 2 | 3 | 4 => coWfmt w == 4 || m16b (coWfmt w)
  | 5 => m16b (coWfmt w) && m16b (coDfmt w)
  | _ => true

/-- CZ_ERR_COLL_DESC (R262); `p` is the group's size. A slot that is not VALID defines no group, and what compares with P is
not looked at then (log 82). -/
def coDescBad (w : List Word) (p : Option Nat) : Bool :=
  decide (6 < coOp w) || coRfn w == 3 || !coFormats w || (coOp w != 6 && coCount w == 0) ||
  (coReduces w && (coWfmt w == 5 || coWfmt w == 6) && decide (coCount w % 32 ≠ 0)) ||
  (coOp w == 5 && (decide (2048 < coCount w) || decide (1 < coSmode w) ||
    (coSmode w == 0 && !(coVfmt w == 5 || coVfmt w == 6 || coVfmt w == 7)))) ||
  (coOp w == 3 && p.any (fun p => decide (4096 < p))) || (coOp w == 4 && p.any (fun p => decide (p ≤ coRoot w))) ||
  decide (cw w 0 31 26 ≠ 0 ∨ cw w 7 11 11 ≠ 0 ∨ cw w 7 31 30 ≠ 0 ∨ cw w 8 11 11 ≠ 0 ∨ cw w 8 31 23 ≠ 0 ∨
    cw w 9 31 18 ≠ 0 ∨ cw w 14 31 12 ≠ 0 ∨ w.getD 15 0 ≠ 0)

/-- Is a buffer of this chip outside the partition's windows, or malformed? -/
def State.bufBad (s : State) (n g len acc : Nat) : Bool :=
  decide (0 < len) && (!globalOk g len || gChip g != s.chipId || !(s.part n).winGrantsAll g len acc)

/-- CZ_ERR_COLL_RANGE (R262). With a slot that is not VALID only the buffers whose size needs no P are looked at (log 82).
A descriptor beyond the end of scratch reads as zero there, a choice of the model's (log 77). -/
def State.coRangeBad (s : State) (n addr : Nat) (w : List Word) : Bool :=
  let g := coGroup w
  let p := s.grpSize n g
  let r := s.grpRank n g
  let valid := (s.part n).grpValid g
  let src := (coSrc w, if valid || coOp w != 4 then coSrcBytes w r else 0)
  let dst := (coDst w, if valid || !(coOp w == 1 || coOp w == 2 || coOp w == 3) then coDstBytes w p r else 0)
  let rcd := (coRecord w, if valid then coRecBytes w p else 32)
  let bufs := if coOp w == 0 && src == dst then [dst, rcd] else [src, dst, rcd]
  decide (addr % 64 ≠ 0) || decide (scratchSize < addr + 64) || decide (coRecord w % 32 ≠ 0) ||
  s.bufBad n src.1 src.2 accRd || s.bufBad n dst.1 dst.2 accWr || s.bufBad n rcd.1 rcd.2 accWr ||
  !disjointAll (bufs.filter (fun b => decide (0 < b.2))) ||
  !s.ownsTile n (cw w 7 10 0) || !s.ownsTile n (cw w 8 10 0)

/-- The code a post is rejected with, 0 for none. -/
def State.collCheck (s : State) (n addr : Nat) (w : List Word) : Nat :=
  let g := coGroup w
  if coDescBad w (if (s.part n).grpValid g then some (s.grpSize n g) else none) then 0x500
  else if s.coRangeBad n addr w then 0x501
  else if s.grpBad n g then 0x502 else 0

/-! ### Contexts -/

/-- A group's collective in progress, and a group's slot for what came early. -/
def State.ctx (s : State) (n g : Nat) : Option Ctx := tabGet ctxD (s.part n).ctxs g
def State.held (s : State) (n g : Nat) : Held := tabGet heldD (s.part n).held g
def State.setCtx (s : State) (n g : Nat) (c : Option Ctx) : State :=
  s.modPart n (fun p => { p with ctxs := tabSet ctxD p.ctxs g c })
def State.setHeld (s : State) (n g : Nat) (h : Held) : State :=
  s.modPart n (fun p => { p with held := tabSet heldD p.held g h })
def State.modCtx (s : State) (n g : Nat) (f : Ctx → Ctx) : State :=
  match s.ctx n g with
  | some c => s.setCtx n g (some (f c))
  | none => s

/-- Contexts that a partition holds. -/
def Part.ctxCount (p : Part) : Nat := (p.ctxs.filter (fun x => match x.2 with | some c => c.holds | none => false)).length

/-- Contexts that the engine holds, and fragment slots granted. -/
def State.ctxTotal (s : State) : Nat := ((List.range 16).map (fun n => (s.part n).ctxCount)).sum
def State.poolUsed (s : State) : Nat :=
  (s.pool.filter (fun x => match x.2 with | some u => u.live | none => false)).length

/-- COLL_ENGINE follows them (Table 10.13). -/
def State.noteEngine (s : State) : State := (s.setF Reg.collEngine 5 0 s.ctxTotal).setF Reg.collEngine 16 8 s.poolUsed

/-- The slots that a group's collective has granted are withdrawn (R284), or given back as it ends. -/
def State.withdraw (s : State) (n g : Nat) : State :=
  ({ s with pool := tabMap slotD (fun u => u.map (fun u => if u.part = n ∧ u.group = g then { u with live := false } else u)) s.pool } :
    State).noteEngine
def State.dropSlots (s : State) (n g : Nat) : State :=
  ({ s with pool := s.pool.filter (fun x => match x.2 with | some u => u.part != n || u.group != g | none => false) } :
    State).noteEngine

/-- A message to a ring neighbour on VC 0 (R243): through a port of its pair that is up. -/
def State.sendNb (s : State) (nb : Nat) (m : CtrlMsg) : State :=
  match s.pickPort (nb / 2) (nb % 2 == 1) 0 false with
  | some p => s.modPort p (fun x => x.sendCtrl m)
  | none => s

/-- The partition's group key (R342): the lowest-numbered loaded slot with GROUP. -/
def Part.groupKey (p : Part) : Option (BitVec 128) :=
  ((List.range 4).find? (fun k => bit (p.reg Reg.mbPartKeys) k && bit (p.reg Reg.mbPartKeys) (8 + k))).map
    (fun k => tabGet keyD p.keys k)

/-- The tag that the partition sends with a signature, or a notice. -/
def Part.tagSig (p : Part) (x : Signature) : Option DWord := p.groupKey.map (fun k => cmacTag k (Config.sigBytes x))
def Part.tagNotice (p : Part) (l : List Nat) : Option DWord := p.groupKey.map (fun k => cmacTag k (Config.noticeBytes l))

/-! ### Aborts (R283 to R287) -/

/-- The lesser of two (code, origin) pairs. -/
def pairLess (a b : Nat × Nat) : Bool := decide (a.1 < b.1) || (a.1 == b.1 && decide (a.2 < b.2))

/-- Send a notice to every ring neighbour but one. -/
def State.sendNotices (s : State) (n g seq code origin : Nat) (except_ : Option Nat) : State :=
  (s.grpNbs n g).foldl (fun s nb => if some nb = except_ then s else
    s.sendNb nb (.abort n g seq code origin ((s.part n).tagNotice [n, g, seq, code, origin]))) s

/-- A context without its traffic: no further send, incoming fragments discarded (step 1). -/
def Ctx.silence (c : Ctx) : Ctx := { c with fragsIn := [], outQ := [], slots := [] }

/-- 250 µs have passed since the first abort event (step 3). -/
def State.abortDue (s : State) (c : Ctx) : Bool := decide (c.abortAt + 250000 ≤ s.engineTime)

/-- A member sees an abort event (R284, R285): its first starts the abort; a lower pair replaces the one it keeps and is
forwarded; after step 3 nothing changes (R286). `from_` is the neighbour a notice came from. -/
def State.collAbort (s : State) (n g code origin : Nat) (from_ : Option Nat) : State :=
  match s.ctx n g with
  | none => s
  | some c =>
    if c.st = 6 && s.abortDue c then s else
    let causes := if c.causes.contains (code, origin) then c.causes else c.causes ++ [(code, origin)]
    let lower := match c.best with | none => true | some b => pairLess (code, origin) b
    let c1 := { c with causes := causes, best := if lower then some (code, origin) else c.best, heard := s.engineTime }
    let s1 :=
      if c.st = 6 then s.setCtx n g (some c1)
      else (s.withdraw n g).setCtx n g (some { c1.silence with st := 6, abortAt := s.engineTime })
    if lower then s1.sendNotices n g c.seq code origin from_ else s1

/-- A local cause: this member is the origin. -/
def State.collCause (s : State) (n g code : Nat) : State := s.collAbort n g code (s.grpRank n g) none

/-- LAST_ERR, LAST_SEQ, the abort count, the interrupt to Service and the sequence number at an abort's end (step 4). -/
def State.abortBooks (s : State) (n g seq code : Nat) : State :=
  ((s.modPart n (fun p =>
    let p := (p.setReg Reg.collLastErr (BitVec.ofNat 32 (code + 2 ^ 16 * g + 2 ^ 31))).setReg Reg.collLastSeq (BitVec.ofNat 32 seq)
    (p.setReg Reg.collAbortCnt (p.reg Reg.collAbortCnt + 1)).setReg (Reg.collGrpSeq + 16 * g) (BitVec.ofNat 32 (seq + 1)))).tracePart
      (0x90 + n) Src.coll n [g, code]).irqSvc

/-! ### Posting (R258, R262) -/

/-- Posts of a group that are queued. -/
def Part.queuedFor (p : Part) (g : Nat) : List Post := p.postQ.filter (fun q => coGroup q.words == g)

/-- Posts that count in QLEVEL. -/
def Part.qLevel (p : Part) : Nat := (p.postQ.filter (fun q => !q.bad)).length

/-- The partition flag words as JFLAGS (R282). -/
def State.jobFlags (s : State) (n : Nat) : Nat :=
  s.partOr n Reg.rennetFlags 8 0 + 2 ^ 9 * s.partOr n Reg.churnStatus 6 4 + 2 ^ 12 * s.partOr n Reg.skimStatus 5 4

/-- A fresh context for a post. One that takes none of the 32 has not reached the sampling of the flag words. -/
def State.newCtx (s : State) (n g : Nat) (q : Post) (holds : Bool) : Ctx :=
  let p := s.part n
  let now := s.engineTime
  { words := q.words, tile := q.tile, holds := holds, bad := q.bad, snap := q.snap, seq := p.grpSeq g, st := 2, start := now
    heard := now, entryMs := p.f Reg.collTmo 15 0, progUs := p.f Reg.collTmo 31 16
    dense := if coDense q.words then s.f Reg.collDenseCfg 1 0 else 3, share := s.f Reg.collDenseCfg 7 4, matched := []
    jflags := if holds then s.jobFlags n else 0, counts := [], ranks := [], flags := 0, stage := none, got := [], work := []
    fragsIn := [], outQ := [], slots := [], best := none, causes := [], abortAt := 0 }

/-- The sequence number of a rejected post is aborted: its peers are told (R262). It has no record and signals nothing: the
descriptor that names them was rejected (log 83). -/
def State.rejectSeq (s : State) (n g : Nat) (q : Post) : State :=
  (s.setCtx n g (some (s.newCtx n g { q with bad := true } false))).collCause n g 0x511

/-- The held notices of the group's sequence number act (R286). -/
def State.applyHeld (s : State) (n g : Nat) : State :=
  match s.ctx n g with
  | none => s
  | some c =>
    let h := s.held n g
    let now := h.notices.filter (fun x => x.seq == c.seq)
    now.foldl (fun s x => s.collAbort n g x.code x.origin (some x.nb))
      (s.setHeld n g { h with notices := h.notices.filter (fun x => x.seq != c.seq) })

/-- The position of a group's first queued post. -/
def Part.firstFor (p : Part) (g : Nat) : Option Nat := p.postQ.findIdx? (fun q => coGroup q.words == g)

/-- A group without a collective in progress looks at its first queued post: a rejected one starts its abort, and one
whose sequence number a held notice names aborts at once, without a context (R262, R286, R292). -/
def State.groupNext (s : State) (n g : Nat) : State :=
  if (s.ctx n g).isSome then s else
  match (s.part n).firstFor g with
  | none => s
  | some i =>
    match (s.part n).postQ[i]? with
    | none => s
    | some q =>
      let s' := s.modPart n (fun p => { p with postQ := listDrop1 p.postQ i })
      if q.bad then (s'.rejectSeq n g q).applyHeld n g
      else if (s.held n g).notices.any (fun x => x.seq == (s.part n).grpSeq g) then
        (s'.setCtx n g (some (s.newCtx n g q false))).applyHeld n g
      else s

/-- A post takes its place in the queue: of two posts of one cycle the lower-numbered tile's goes first (R258). -/
def insertPost (q : Post) : List Post → List Post
  | [] => [q]
  | x :: l => if x.cyc = q.cyc ∧ q.tile < x.tile then q :: x :: l else x :: insertPost q l

/-- COLL_POST: the descriptor at the written address is copied, checked and queued (R258, R262). In a partition that is
being reset a post has no effect (R291). -/
def State.collPost (s : State) (path t : Nat) (val : Word) : State :=
  match s.tileOwner t with
  | none => s
  | some n =>
    if s.partState n ≠ 1 then s else
    let x := s.tile t
    let addr := fld val 19 0
    if 16 ≤ (s.part n).qLevel then
      s.setTile t (if path = 0 then { x with stall := some (.store (BitVec.ofNat 32 (0xF0000000 + Reg.collPost)) 4 val) }
        else x.setF Reg.collPostStatus 0 0 1)
    else
      let rd := x.scrReads [(addr, 64)]
      let w := (List.range 16).map (fun i => (BitVec.ofNat 32 (x.rd32 (addr + 4 * i)) : Word))
      let code := if rd.2 then 0x260 else s.collCheck n addr w
      let g := coGroup w
      let snap := memRead s.mem (gAddr (coSrc w)) (if code = 0 then coSrcBytes w (s.grpRank n g) else 0)
      let put := fun (s : State) (bad : Bool) =>
        (s.modPart n (fun p => { p with postQ := insertPost ⟨w, t, s.cyc, bad, snap⟩ p.postQ })).groupNext n g
      let s := s.setTile t rd.1
      if code = 0 then put s false
      else
        let s := s.modTile t (fun x => x.recordFault code 7 0)
        if rd.2 || !(s.part n).grpValid g then s else put s true

/-! ### Contexts and entry (R263, R276, R278, R279) -/

/-- The signature of a member (R278). -/
def State.signature (s : State) (n g : Nat) (c : Ctx) : Signature :=
  let w := c.words
  let sk := coOp w == 5
  { op := coOp w, rfn := coRfn w, wfmt := coWfmt w, pad := coPad w, dense := coDense w, root := coRoot w,
    count := if coOp w = 3 then 0 else coCount w, dstCap := if coOp w = 3 then coCap w else 0,
    smode := if sk then coSmode w else 0, km1 := if sk then coK w - 1 else 0, vfmt := if sk then coVfmt w else 0,
    origin := (s.part n).grpOrigin g
    modes := (s.part n).grpMode g 0 + 4 * (s.part n).grpMode g 1 + 16 * (s.part n).grpMode g 2
    key := (s.part n).grpKey g, seq := c.seq, jflags := c.jflags }

/-- Do two signatures agree? The job flags travel along and are not compared. -/
def sigMatch (a b : Signature) : Bool := { a with jflags := 0 } == { b with jflags := 0 }

/-- A neighbour's signature is compared with the member's own: a difference, or a tag that fails, aborts (R279,
R342). -/
def State.compareSig (s : State) (n g nb : Nat) (x : Signature) (tagOk : Bool) : State :=
  match s.ctx n g with
  | none => s
  | some c =>
    let own := s.signature n g c
    let s := s.setCtx n g (some { c with jflags := c.jflags ||| x.jflags, heard := s.engineTime, matched := c.matched ++ [nb] })
    if tagOk && sigMatch own x then s else s.collCause n g 0x510

/-- The first post of a partition's queue that may take a context (R263). -/
def State.nextPost (s : State) (n : Nat) : Option Nat :=
  let p := s.part n
  if s.partState n ≠ 1 then none else
  (List.range p.postQ.length).find? (fun i => match p.postQ[i]? with
    | some q => !q.bad && (tabGet ctxD p.ctxs (coGroup q.words)).isNone && p.firstFor (coGroup q.words) == some i &&
        decide (p.ctxCount < s.f (Reg.collQuota + 4 * n) 5 0) && decide (s.ctxTotal < 32)
    | none => false)

/-- COLL_CANCEL.GO: the group's current collective, or its first queued post, aborts (R283, R294). A queued post takes
no context for it. -/
def State.collCancel (s : State) (n g : Nat) : State :=
  if (s.ctx n g).isSome then s.collCause n g 0x516
  else
    match (s.part n).firstFor g with
    | none => s
    | some i =>
      match (s.part n).postQ[i]? with
      | none => s
      | some q =>
        let s := s.modPart n (fun p => { p with postQ := listDrop1 p.postQ i })
        (s.setCtx n g (some (s.newCtx n g q false))).collCause n g 0x516

/-- The state of a group in COLL_GRPg_CFG (Table 10.10): its context's, else QUEUED with a post queued. -/
def State.grpState (s : State) (n g : Nat) : Nat :=
  match s.ctx n g with
  | some c => c.st
  | none => if ((s.part n).queuedFor g).isEmpty then 0 else 1

end Sys2Proof.Machine
end

