-- ==== Sys2Proof/Machine/CollData.lean ====
section
/-!
DEFINITION. Machine/CollData.lean: the data of collectives: the wire (R264, R265, R273, R274), reductions (R266 to
R268), gathers (R270 to R272), SKIM_REDUCE (R223, R269), barriers (R280), records and completion (R280 to R282), and
the ends of aborts (R284, R286). What the rules leave open of the schedule is chosen in log 40.
-/

namespace Sys2Proof.Machine

/-! ### Homes (R259) -/

/-- A range cut where Pail slices end. -/
def homePieces : Nat → Nat → Nat → List (Nat × Nat)
  | 0, _, _ => []
  | k + 1, a, n =>
    if n = 0 then [] else
    let m := if a < vatEnd then n else min n (2 ^ 20 - a % 2 ^ 20)
    (a, m) :: homePieces k (a + m) (n - m)

/-- Read n bytes at a global address of this chip; the flag says that a sector was uncorrectable. -/
def State.collRead (s : State) (g n : Nat) : State × List Byte × Bool :=
  (homePieces (n / 2 ^ 18 + 2) (gAddr g) n).foldl (fun (st : State × List Byte × Bool) p =>
    let r := st.1.homeRead p.1 p.2
    (r.1, st.2.1 ++ r.2.1, st.2.2 || !r.2.2.isEmpty)) (s, [], false)

/-- Is a range refused at its home, a Pail region in cache mode (R152, R283)? -/
def State.homeRefuses (s : State) (g n : Nat) : Bool :=
  decide (0 < n) && (homePieces (n / 2 ^ 18 + 2) (gAddr g) n).any (fun p =>
    isPail p.1 && (s.isCache (pailUnit p.1) (pailRegion p.1) || s.isCache (pailUnit (p.1 + p.2 - 1)) (pailRegion (p.1 + p.2 - 1))))

/-- Does a range wait for a Pail region that is being zeroed (R153)? -/
def State.homeWaits (s : State) (g n : Nat) : Bool :=
  decide (0 < n) && (homePieces (n / 2 ^ 18 + 2) (gAddr g) n).any (fun p => s.spanWaits p.1 p.2)

/-- Write bytes at a global address of this chip; the flag says that the write was refused. -/
def State.collWrite (s : State) (g : Nat) (bs : List Byte) : State × Bool :=
  if s.homeRefuses g bs.length then (s, true) else
  (((homePieces (bs.length / 2 ^ 18 + 2) (gAddr g) bs.length).foldl (fun (st : State × List Byte) p =>
    (st.1.homeWrite p.1 (st.2.take p.2), st.2.drop p.2)) (s, bs)).1, false)

/-- A destination write of a group's collective: one that is refused aborts it (R283). -/
def State.destWrite (s : State) (n g a : Nat) (bs : List Byte) : State :=
  let r := s.collWrite a bs
  if r.2 then r.1.collCause n g 0x514 else r.1

/-- Source bytes of a group's collective: read at their homes, and as they stood at the post where they have been written
since (R259). An uncorrectable sector aborts (R283). -/
def State.sourceRead (s : State) (n g : Nat) (c : Ctx) (off len : Nat) : State × List Byte :=
  let a := gAddr (coSrc c.words) + off
  let was := (c.snap.drop off).take len
  let r := s.collRead (coSrc c.words + off) len
  let now := memRead r.1.mem a len
  let bs := (List.range len).map (fun i => if now.getD i 0 = was.getD i 0 then r.2.1.getD i 0 else was.getD i 0)
  (if r.2.2 then r.1.collCause n g 0x514 else r.1, bs)

/-! ### Wire formats and combination (R264, R265, R268) -/

/-- One element on the wire, as binary32. -/
def f8Value (f : Fmt) (sc : Nat) (c : Nat) : Word :=
  if sc = 255 then b32Of .nan else b32Of ((f.decode false c).shift ((sc : Int) - 127))

/-- Bytes of a wire fragment that hold n elements, and the elements of a number of bytes: 33 bytes carry 32 F8 elements. -/
def wireElems (wf bytes : Nat) : Nat := if wf = 5 ∨ wf = 6 then 32 * (bytes / 33) else bytes / coWidth wf

/-- The elements of a wire fragment. -/
def wireDecode (wf : Nat) (bs : List Byte) : List Word :=
  let n := wireElems wf bs.length
  if wf = 5 ∨ wf = 6 then
    (List.range n).map (fun i => f8Value (fmtOf wf) (bs.getD (33 * (i / 32)) 0).toNat (bs.getD (33 * (i / 32) + 1 + i % 32) 0).toNat)
  else if wf = 7 then ((halfCodes bs).take n).map m16b32
  else (List.range n).map (fun i => BitVec.ofNat 32 (natOfBytes ((bs.drop (4 * i)).take 4)))

/-- Elements of a buffer format from bytes. -/
def bufDecode (f : Nat) (bs : List Byte) : List Word := wireDecode (if f = 7 then 7 else 8) bs

/-- The generator of a ring step and fragment (R265). -/
def collGen (seed : DWord) (axis ring step frag : Nat) : DWord :=
  let v := seed + BitVec.ofNat 64 (((2 * axis + ring) * 65536 + step) * 65536 + frag + 1) * srConst
  if v = 0 then srConst else v

/-- An encoded run of elements: its wire bytes, how many overflowed, and the generator. -/
structure Wire where
  bytes : List Byte
  ovf   : Nat
  gen   : DWord
  deriving DecidableEq, Repr

/-- How many narrowed elements overflowed to infinity. -/
def ovfCount (l : List (Nat × Narrowed)) : Nat := (l.filter (fun y => y.2 == .ovf)).length

/-- Encode one group of 32 elements of an F8 format under R72 with RND = 1. -/
def encodeF8 (f : Fmt) (g : DWord) (xs : List XNum) : Wire :=
  let r := scaleGroup f false false 1 g xs
  ⟨BitVec.ofNat 8 r.1 :: r.2.1.map (fun y => BitVec.ofNat 8 y.1), ovfCount r.2.1, r.2.2⟩

/-- Encode elements to WFMT (R264). -/
def wireEncode (wf : Nat) (g : DWord) (ws : List Word) : Wire :=
  if wf = 8 then ⟨ws.flatMap (fun w => bytesOf 4 w.toNat), 0, g⟩
  else if wf = 7 then
    let r := narrowList .m16 false false 1 g (ws.map b32Num)
    ⟨r.1.flatMap (fun y => bytesOf 2 y.1), ovfCount r.1, r.2⟩
  else
    (pieces 32 ws.length ws).foldl (fun (a : Wire) grp =>
      let r := encodeF8 (fmtOf wf) a.gen (grp.map b32Num)
      ⟨a.bytes ++ r.bytes, a.ovf + r.ovf, r.gen⟩) ⟨[], 0, g⟩

/-- MAX or MIN of two elements (R264). -/
def collExtreme (mx : Bool) (a b : Word) : Word :=
  let x := b32Num a
  let y := b32Num b
  if x = .nan ∨ y = .nan then b32Of .nan
  else if x.isZero && y.isZero then (if mx then (if x.sign && y.sign then a else 0) else (if x.sign || y.sign then 0x80000000 else a))
  else if mx then (if x.lt y then b else a) else (if y.lt x then b else a)

/-- Combine a partial with a contribution (R264). -/
def collCombine (rfn : Nat) (a b : Word) : Word :=
  if rfn = 0 then b32Add a b else collExtreme (rfn == 1) a b

/-- Did a combination of finite operands overflow? -/
def combineOvf (rfn : Nat) (a b : Word) : Bool :=
  rfn == 0 && !b32NonFinite a && !b32NonFinite b && b32NonFinite (b32Add a b)

/-- Final elements in DFMT, rounded to nearest with ties to even (R267), and how many overflowed. -/
def toDst (f : Nat) (ws : List Word) : List Byte × Nat :=
  if f = 8 then (ws.flatMap (fun w => bytesOf 4 w.toNat), 0)
  else
    let r := ws.map (fun w => Fmt.m16.narrow false false .rne (b32Num w))
    (r.flatMap (fun y => bytesOf 2 y.1), ovfCount r)

/-- Events of elements (R268). -/
def State.collEvents (s : State) (n g ovf nonfin : Nat) : State :=
  (s.modPart n (fun p => (p.count Reg.collOvfCnt 31 0 ovf).count Reg.collNonfinCnt 31 0 nonfin)).modCtx n g (fun c =>
    { c with flags := c.flags ||| BitVec.ofNat 3 (b2n (decide (0 < ovf)) + 2 * b2n (decide (0 < nonfin))) })

/-- How many words are not finite. -/
def nonfinCount (ws : List Word) : Nat := (ws.filter b32NonFinite).length

/-! ### The schedule (R257, R266, R277; log 40) -/

/-- A group's box as a member sees it: the lengths of the axes and its own offsets (R256). -/
structure Shape where
  lens : List Nat
  offs : List Nat
  deriving DecidableEq, Repr

def Shape.len (h : Shape) (a : Nat) : Nat := h.lens.getD a 1
def Shape.off (h : Shape) (a : Nat) : Nat := h.offs.getD a 0
def Shape.size (h : Shape) : Nat := h.len 0 * h.len 1 * h.len 2

/-- The offset on an axis of a rank. -/
def Shape.coord (h : Shape) (r a : Nat) : Nat :=
  if a = 0 then r / (h.len 1 * h.len 2) else if a = 1 then r / h.len 2 % h.len 1 else r % h.len 2

def State.shape (s : State) (n g : Nat) : Shape :=
  ⟨[s.grpLen n g 0, s.grpLen n g 1, s.grpLen n g 2], [s.grpOffset n g 0, s.grpOffset n g 1, s.grpOffset n g 2]⟩

/-- A stage of the schedule: a reduce-scatter or a gather along one axis. -/
structure Stage where
  axis    : Nat
  scatter : Bool
  deriving DecidableEq, Repr

/-- The stages of an operation: reduce-scatters along X, Y and Z, then gathers along Z, Y and X (R266). Axes of length 1
have none. The gathers of the other operations take the axes in the same order (log 40). -/
def coStages (op : Nat) (h : Shape) : List Stage :=
  let axes := [0, 1, 2].filter (fun a => decide (1 < h.len a))
  let sc := axes.map (fun a => (⟨a, true⟩ : Stage))
  let ga := axes.reverse.map (fun a => (⟨a, false⟩ : Stage))
  if op = 0 then sc ++ ga else if op = 1 then sc else if op ≤ 5 then ga else []

/-- Steps of a ring in a stage (Table 10.5): a contribution travels halfway in each direction, and with an even length the
+ ring takes the one that both could (log 40). -/
def Stage.steps (st : Stage) (op : Nat) (h : Shape) (ring : Nat) : Nat :=
  let l := h.len st.axis
  if op ≤ 1 then l - 1 else if ring = 0 then l / 2 else (l - 1) / 2

/-- STEP of a stage's first step: an ALL_REDUCE's gather goes on from its reduce-scatter (Table 10.5). -/
def Stage.base (st : Stage) (op : Nat) (h : Shape) : Nat := if op = 0 ∧ !st.scatter then h.len st.axis - 1 else 0

/-- The segment, by its offset on the axis, that the member at offset i sends on a ring in step k: a partial starts one
hop behind its owner and reaches it last, a gathered segment starts at its owner. -/
def Stage.sends (st : Stage) (h : Shape) (i ring k : Nat) : Nat :=
  let l := h.len st.axis
  let ahead := k + (if st.scatter then 1 else 0)
  if ring = 0 then (i + (l - ahead % l)) % l else (i + ahead) % l

/-- The segment that this member sends, and the one it receives, in step k. -/
def Stage.out (st : Stage) (h : Shape) (ring k : Nat) : Nat := st.sends h (h.off st.axis) ring k
def Stage.inp (st : Stage) (h : Shape) (ring k : Nat) : Nat :=
  let l := h.len st.axis
  st.sends h ((if ring = 0 then h.off st.axis + l - 1 else h.off st.axis + 1) % l) ring k

/-- The ranks of a segment: those at offset j on the axis that share this member's offsets on the axes before it. -/
def Shape.segRanks (h : Shape) (axis j : Nat) : List Nat :=
  (List.range h.size).filter (fun r => h.coord r axis == j && (List.range axis).all (fun b => h.coord r b == h.off b))

/-- Elements of a unit that travels whole, and its bytes on the wire: a group of 32 with its scale, or one element (R264). -/
def coUnit (wf : Nat) : Nat := if wf = 5 ∨ wf = 6 then 32 else 1
def coUnitBytes (wf : Nat) : Nat := if wf = 5 ∨ wf = 6 then 33 else coWidth wf

/-- Data bytes of a full fragment (R273), and whole units in it (log 40). -/
def fragBytes : Nat := 15344
def fragUnits (wf : Nat) : Nat := fragBytes / coUnitBytes wf

/-- The units of a segment of a reduction on a ring: of each share the first half is the + ring's, the second the − ring's
(R266). -/
def coSegUnits (w : List Word) (h : Shape) (axis j ring : Nat) : List Nat :=
  let s := coShare w h.size
  let u := coUnit (coWfmt w)
  (h.segRanks axis j).flatMap (fun r =>
    let lo := r * s + ring * (s / 2)
    let hi := min (lo + s / 2) (coCount w)
    (List.range ((hi - lo) / u)).map (lo / u + ·))

/-- A fragment of a segment: its byte offset in the segment and its length; for a reduction its units; for a gather the
rank whose contribution it is part of, and the byte it starts at there. -/
structure Piece where
  off   : Nat
  len   : Nat
  units : List Nat
  rank  : Nat
  start : Nat
  deriving DecidableEq, Repr

/-- Pieces of k of something n long, as start and length; at least one (log 40). -/
def coCuts (k n : Nat) : List (Nat × Nat) := (List.range (max 1 (ceilDiv n k))).map (fun i => (k * i, min k (n - k * i)))

/-- The pieces of contributions that follow each other in a segment from byte `base` on. -/
def gatherPieces (len : Nat → Nat) : List Nat → Nat → List Piece
  | [], _ => []
  | q :: l, base =>
    (coCuts fragBytes (len q)).map (fun c => (⟨base + c.1, c.2, [], q, c.1⟩ : Piece)) ++ gatherPieces len l (base + len q)

/-- The counts held, by rank. -/
def Ctx.count (c : Ctx) (q : Nat) : Nat := tabGet natD c.counts q - 1

/-- Bytes that rank q contributes to a gather (R261, R270, R271). -/
def Ctx.contribBytes (c : Ctx) (p q : Nat) : Nat :=
  let w := c.words
  match coOp w with
  | 2 => coCount w * coWidth (coWfmt w)
  | 3 => (if coPad w then coSlot w p else c.count q) * coWidth (coWfmt w)
  | 4 => if q = coRoot w then coCount w * coWidth (coWfmt w) else 0
  | 5 => coCount w * coBlock w
  | _ => 0

/-- The fragments of segment j of a stage on a ring. -/
def Ctx.pieces (c : Ctx) (h : Shape) (st : Stage) (j ring : Nat) : List Piece :=
  let w := c.words
  if coReduces w then
    let us := coSegUnits w h st.axis j ring
    let ub := coUnitBytes (coWfmt w)
    (coCuts (fragUnits (coWfmt w)) us.length).map (fun p => ⟨p.1 * ub, p.2 * ub, (us.drop p.1).take p.2, 0, 0⟩)
  else gatherPieces (c.contribBytes h.size) (h.segRanks st.axis j) 0

/-- The key of a piece of a gather among the bytes held. -/
def Piece.key (p : Piece) : Nat := p.rank * 2 ^ 40 + p.start

/-! ### Sending (R273, R274) -/

/-- Queue the fragment of a piece for the successor on a ring. Its header carries the job flags seen so far, and the first
fragment of an ALL_GATHERV's contribution the sender's COUNT. -/
def State.queueOut (s : State) (n g : Nat) (st : Stage) (ring step : Nat) (p : Piece) (data : List Byte) : State :=
  let nb := s.ringTo n g st.axis ring
  s.modCtx n g (fun c =>
    if c.st ≠ 4 then c else
    let sc := if coOp c.words = 3 ∧ p.start = 0 then c.count p.rank else 0
    { c with outQ := c.outQ ++ [⟨nb, ⟨step, st.axis, ring, p.off, p.len, c.jflags, sc⟩, data⟩] })

/-- The flits of a fragment (R273). -/
def fragFlits (f : FragOut) (slot vc dest : Nat) : List Flit :=
  let first := f.data.take 224
  let rest := pieces 240 f.data.length (f.data.drop 224)
  (List.range (rest.length + 1)).map (fun i =>
    { idleFlit with
      typ := 0, vc := vc, dest := dest, stream := slot * 256 + i
      body := if i = 0 then .frag (some f.hdr) first else .frag none (rest.getD (i - 1) []) })

/-- A fragment leaves, if its neighbour has granted a slot, a tag is free and a port of the pair is up (R246, R274). -/
def State.sendFrag (s : State) (n g : Nat) (f : FragOut) : State :=
  match s.ctx n g with
  | none => s
  | some c =>
    match c.slots.find? (fun x => x.1 == f.nb) with
    | none => s
    | some (nb, slot) =>
      let a := nb / 2
      let neg := nb % 2 == 1
      let vc := if c.dense = f.hdr.axis then 1 else 2
      if 20480 ≤ s.tags.length || (s.pickPort a neg vc false).isNone then s else
      let fr := s.freeTags
      let tag := fr.getD (Config.tagPick s.freeCount % fr.length) 0
      let s := ({ s with tags := s.tags ++ [(tag, .coll n g nb slot)], freeCount := s.freeCount + 1 } : State).noteTags
      let s := s.setCtx n g (some { c with outQ := c.outQ.erase f, slots := c.slots.erase (nb, slot) })
      (fragFlits f slot vc (s.neighbour a neg)).foldl (fun s x => (s.hop x a neg false).getD s) s

/-- Send what the grants allow; fragments of one neighbour leave in order. -/
def State.pump (s : State) (n g : Nat) : State :=
  match s.ctx n g with
  | some c => c.outQ.foldl (fun s f => s.sendFrag n g f) s
  | none => s

/-- Slot numbers that are free. -/
def State.freePool (s : State) : List Nat := (List.range 256).filter (fun k => (tabGet slotD s.pool k).isNone)

/-- Has the member granted a neighbour a slot in its collective? -/
def State.hasGranted (s : State) (n g nb : Nat) : Bool :=
  s.pool.any (fun x => x.2 == some ⟨n, g, nb, true⟩)

/-- Grant a predecessor fragment slots, if it has none: as many as the engine chooses of those free (R273; log 41). -/
def State.grantTo (s : State) (n g nb : Nat) : State :=
  let fr := s.freePool
  if s.hasGranted n g nb || fr.isEmpty then s else
  let mine := fr.take (1 + Config.freeValue s.freeCount 0 % 256)
  let s := { s with
    freeCount := s.freeCount + 1
    pool := mine.foldl (fun m k => tabSet slotD m k (some ⟨n, g, nb, true⟩)) s.pool }
  s.noteEngine.sendNb nb (.grant n g mine)

/-- Grants go to the predecessors of a collective in DATA (Table 10.4 step 4, R279). -/
def State.grantSlots (s : State) (n g : Nat) : State :=
  match s.ctx n g with
  | some c =>
    if c.st ≠ 4 || coOp c.words = 6 || s.partState n ≠ 1 then s
    else (s.grpNbs n g).foldl (fun s nb => s.grantTo n g nb) s
  | none => s

/-- Every collective in progress, as partition and group. -/
def State.allCtxs (s : State) : List (Nat × Nat) :=
  (List.range 16).flatMap (fun n => (s.part n).ctxs.map (fun x => (n, x.1)))

/-! ### Elements and results -/

/-- Where rank q's contribution goes in the destination, in elements: from counts (R270), slots (R271), or COUNT each. -/
def coPlace (w : List Word) (p : Nat) (counts : Nat → Nat) (q : Nat) : Nat :=
  if coOp w = 3 then (if coPad w then q * coSlot w p else ((List.range q).map counts).sum)
  else if coOp w = 4 then 0 else q * coCount w

/-- Elements of rank q that are written (R270 to R272). -/
def coWritten (w : List Word) (p : Nat) (counts : Nat → Nat) (q : Nat) : Nat :=
  if coOp w = 3 then (if coPad w then min (counts q) (coSlot w p) else counts q) else coCount w

/-- Runs of consecutive numbers, as first and length. -/
def runsOf : List Nat → List (Nat × Nat)
  | [] => []
  | a :: l => match runsOf l with
    | (b, k) :: rs => if b = a + 1 then (a, k + 1) :: rs else (a, 1) :: (b, k) :: rs
    | [] => [(a, 1)]

/-- The own contribution to units of elements (R264): from the source, or what a stage before has left. -/
def State.ownUnits (s : State) (n g : Nat) (us : List Nat) : State × List Word :=
  match s.ctx n g with
  | none => (s, [])
  | some c =>
    let w := c.words
    let u := coUnit (coWfmt w)
    if us.all (fun k => !(tabGet bytesD c.work k).isEmpty) then
      (s, us.flatMap (fun k => wireDecode (coWfmt w) (tabGet bytesD c.work k)))
    else
      let wd := coWidth (coSfmt w)
      (runsOf us).foldl (fun (st : State × List Word) run =>
        let r := st.1.sourceRead n g c (run.1 * u * wd) (run.2 * u * wd)
        let xs := bufDecode (coSfmt w) r.2
        (r.1.collEvents n g 0 (nonfinCount xs), st.2 ++ xs)) (s, [])

/-- Wire bytes are held by unit. -/
def Ctx.keepUnits (c : Ctx) (us : List Nat) (bs : List Byte) : Ctx :=
  let ub := coUnitBytes (coWfmt c.words)
  { c with work := (List.range us.length).foldl (fun m i => tabSet bytesD m (us.getD i 0) ((bs.drop (i * ub)).take ub)) c.work }

/-- Final elements reach the destination: all of it, or this member's share (R266, R267); none once the collective aborts
(R287). -/
def State.placeUnits (s : State) (n g : Nat) (us : List Nat) (xs : List Word) : State :=
  match s.ctx n g with
  | none => s
  | some c =>
    if c.st ≠ 4 then s else
    let w := c.words
    let u := coUnit (coWfmt w)
    let wd := coWidth (coDfmt w)
    let base := if coOp w = 1 then s.grpRank n g * coShare w (s.grpSize n g) else 0
    let d := toDst (coDfmt w) xs
    let r := (runsOf us).foldl (fun (st : State × List Byte) run =>
      let k := run.2 * u * wd
      (st.1.destWrite n g (coDst w + (run.1 * u - base) * wd) (st.2.take k), st.2.drop k)) (s, d.1)
    r.1.collEvents n g d.2 0

/-- Bytes of rank q's contribution, from byte `start` on, reach the destination, none beyond its place there (R270 to
R272). -/
def State.placeBytes (s : State) (n g q start : Nat) (bs : List Byte) : State :=
  match s.ctx n g with
  | none => s
  | some c =>
    let w := c.words
    let p := s.grpSize n g
    if c.st ≠ 4 || coOp w == 5 || bs.isEmpty then s
    else s.destWrite n g (coDst w + coPlace w p c.count q * coWidth (coWfmt w) + start) (bs.take (c.contribBytes p q - start))

/-! ### Fragments that arrive (R264, R273, R274) -/

/-- Flits that a fragment of n data bytes has. -/
def flitsOf (n : Nat) : Nat := if n ≤ 224 then 1 else 1 + ceilDiv (n - 224) 240

/-- A fragment's data, once its header and every flit have come. -/
def FragIn.data (f : FragIn) : Option (FragHdr × List Byte) :=
  match f.hdr with
  | none => none
  | some h =>
    let at_ := fun i => f.flits.find? (fun x => x.1 == i)
    if (List.range (flitsOf h.len)).all (fun i => (at_ i).isSome) then
      some (h, ((List.range (flitsOf h.len)).flatMap (fun i => ((at_ i).map (·.2)).getD [])).take h.len)
    else none

/-- The stages of a group's collective. -/
def State.stages (s : State) (n g : Nat) (c : Ctx) : List Stage := coStages (coOp c.words) (s.shape n g)

/-- The step within a stage that a header names, if it names one. -/
def Stage.stepOf (st : Stage) (op : Nat) (h : Shape) (x : FragHdr) : Option Nat :=
  let b := st.base op h
  if x.axis = st.axis ∧ b ≤ x.step ∧ x.step < b + st.steps op h x.ring then some (x.step - b) else none

/-- The piece of this stage that a fragment is: the first of its step's segment with its offset and length that has not
come. -/
def Ctx.pieceOf (c : Ctx) (h : Shape) (st : Stage) (k : Nat) (x : FragHdr) : Option (Nat × Piece) :=
  let ps := c.pieces h st (st.inp h x.ring k) x.ring
  (List.range ps.length).findSome? (fun i => match ps[i]? with
    | some p => if p.off = x.offset ∧ p.len = x.len ∧ !c.got.contains (x.ring, k, i) then some (i, p) else none
    | none => none)

/-- A fragment of a reduction that is not final: combined, encoded with the generator of the step that carries the sum
(R264, R265; log 40), and passed on, or held as this member's, final after the last reduce-scatter. -/
def State.combineFrag (s : State) (n g : Nat) (c : Ctx) (h : Shape) (st : Stage) (k : Nat) (x : FragHdr) (p : Piece)
    (data : List Byte) : State :=
  let w := c.words
  let xs := wireDecode (coWfmt w) data
  let own := (s.collEvents n g 0 (nonfinCount xs)).ownUnits n g p.units
  let sums := List.zipWith (collCombine (coRfn w)) xs own.2
  let ovf := ((List.zipWith (combineOvf (coRfn w)) xs own.2).filter id).length
  let gen := collGen (coSeed w) st.axis x.ring (k + 1) (p.off / (fragUnits (coWfmt w) * coUnitBytes (coWfmt w)))
  let e := wireEncode (coWfmt w) gen sums
  let s := own.1.collEvents n g (ovf + e.ovf) 0
  if k + 1 < st.steps (coOp w) h x.ring then s.queueOut n g st x.ring (k + 1) p e.bytes
  else
    let s := s.modCtx n g (fun c => c.keepUnits p.units e.bytes)
    let last := ((coStages (coOp w) h).filter (·.scatter)).getLast? == some st
    if last then s.placeUnits n g p.units (wireDecode (coWfmt w) e.bytes) else s

/-- A fragment of a gather: held, written, and passed on halfway round the ring. -/
def State.gatherFrag (s : State) (n g : Nat) (c : Ctx) (h : Shape) (st : Stage) (k : Nat) (x : FragHdr) (p : Piece)
    (data : List Byte) : State :=
  let w := c.words
  let s :=
    if coReduces w then
      let xs := wireDecode (coWfmt w) data
      ((s.collEvents n g 0 (nonfinCount xs)).modCtx n g (fun c => c.keepUnits p.units data)).placeUnits n g p.units xs
    else
      let s := s.modCtx n g (fun c => { c with
        work := tabSet bytesD c.work p.key data
        counts := if coOp w = 3 ∧ coPad w ∧ p.start = 0 then tabSet natD c.counts p.rank (x.scount + 1) else c.counts })
      s.placeBytes n g p.rank p.start data
  if k + 1 < st.steps (coOp w) h x.ring then s.queueOut n g st x.ring (st.base (coOp w) h + k + 1) p data else s

/-- A complete fragment acts, and its slot is granted again (R274). One that is no fragment of the schedule has no effect
(log 41). -/
def State.useFrag (s : State) (n g : Nat) (c : Ctx) (st : Stage) (f : FragIn) (x : FragHdr) (data : List Byte) : State :=
  let h := s.shape n g
  let nb := s.ringFrom n g st.axis x.ring
  let s := s.setCtx n g (some { c with fragsIn := c.fragsIn.erase f, jflags := c.jflags ||| x.jflags })
  let s := match st.stepOf (coOp c.words) h x with
    | none => s
    | some k => match c.pieceOf h st k x with
      | none => s
      | some (i, p) =>
        let s := s.modCtx n g (fun c => { c with got := c.got ++ [(x.ring, k, i)] })
        if st.scatter then s.combineFrag n g c h st k x p data else s.gatherFrag n g c h st k x p data
  match s.ctx n g with
  | some c => if c.st = 4 ∨ c.st = 5 then s.sendNb nb (.grant n g [f.slot]) else s
  | none => s

/-! ### SKIM_REDUCE (R223, R269) -/

/-- The 256 elements that a compressed block stands for. -/
def skimDecode (mode vfmt k : Nat) (b : List Byte) : List Word :=
  if mode = 1 then
    let code := (b.getD 32 0).toNat
    (List.range 256).map (fun i =>
      if code = 255 then b32Of .nan
      else if bit (b.getD 33 0) 0 then 0
      else b32Of (pow2 (bit (b.getD (i / 8) 0) (i % 8)) ((code : Int) - 127)))
  else
    let code := (b.getD 0 0).toNat
    let f := fmtOf vfmt
    let vals := b.drop (2 + k)
    (List.range 256).map (fun i =>
      if code = 255 then b32Of .nan else
      match (List.range k).find? (fun j => (b.getD (2 + j) 0).toNat == i) with
      | some j => b32Of ((f.decode false (natOfBytes ((vals.drop (j * (f.bits / 8))).take (f.bits / 8)))).shift ((code : Int) - 127))
      | none => 0)

/-- The bytes held of rank q's contribution. -/
def Ctx.contribution (c : Ctx) (p q : Nat) : List Byte :=
  (gatherPieces (c.contribBytes p) [q] 0).flatMap (fun x => tabGet bytesD c.work x.key)

/-- Rank q's decoded elements. -/
def Ctx.skimElems (c : Ctx) (p q : Nat) : List Word :=
  let w := c.words
  let bs := coBlock w
  let l := c.contribution p q
  (List.range (coCount w)).flatMap (fun b => skimDecode (coSmode w) (coVfmt w) (coK w) ((l.drop (b * bs)).take bs))

/-- The decoded blocks of every member are added in ascending rank, each sum encoded to WFMT (R269); one generator, that of
fragment 0, serves all the sums (log 40). -/
def State.skimSum (s : State) (n g : Nat) : State :=
  match s.ctx n g with
  | none => s
  | some c =>
    let w := c.words
    let p := s.grpSize n g
    let start := collGen (coSeed w) 3 0 0 0
    let xs := c.skimElems p 0
    let r := (List.range (p - 1)).foldl (fun (a : List Word × DWord × Nat × Nat) q =>
      let ys := c.skimElems p (q + 1)
      let sums := List.zipWith b32Add a.1 ys
      let ovf := ((List.zipWith (combineOvf 0) a.1 ys).filter id).length
      let e := wireEncode (coWfmt w) a.2.1 sums
      (wireDecode (coWfmt w) e.bytes, e.gen, a.2.2.1 + ovf + e.ovf, a.2.2.2 + nonfinCount ys)) (xs, start, 0, nonfinCount xs)
    (s.collEvents n g r.2.2.1 r.2.2.2).placeUnits n g (List.range (256 * coCount w)) r.1

/-! ### From ENTRY on (R279, R292) -/

/-- The state FINISH. -/
def State.finish (s : State) (n g : Nat) : State :=
  match s.ctx n g with
  | some c => (if coOp c.words = 5 then s.skimSum n g else s).modCtx n g (fun c => if c.st = 6 then c else { c with st := 5 })
  | none => s

/-- A group of one chip: the own contribution is the result; its rounding draws are free (log 41). -/
def State.alone (s : State) (n g : Nat) : State :=
  match s.ctx n g with
  | none => s
  | some c =>
    let w := c.words
    if coReduces w then
      let us := List.range (coCount w / coUnit (coWfmt w))
      let own := s.ownUnits n g us
      let e := wireEncode (coWfmt w) (BitVec.ofNat 64 (Config.freeValue s.freeCount 0)) own.2
      let s := { own.1 with freeCount := s.freeCount + 1 }
      (s.collEvents n g e.ovf 0).placeUnits n g us (wireDecode (coWfmt w) e.bytes)
    else s

/-- The bytes a member contributes to a gather: its source, cut or padded with zeros to a slot under R271. -/
def State.ownBytes (s : State) (n g : Nat) (c : Ctx) : State × List Byte :=
  let w := c.words
  let p := s.grpSize n g
  let r := s.sourceRead n g c 0 (coSrcBytes w (s.grpRank n g))
  if coOp w = 3 && coPad w then
    let cap := coSlot w p * coWidth (coWfmt w)
    (r.1, r.2.take cap ++ List.replicate (cap - r.2.length) 0)
  else r

/-- A gather's own contribution is read, held and placed. -/
def State.ownGather (s : State) (n g : Nat) : State :=
  match s.ctx n g with
  | none => s
  | some c =>
    let r := s.grpRank n g
    let own := s.ownBytes n g c
    let s := own.1.modCtx n g (fun c => (gatherPieces (c.contribBytes (s.grpSize n g)) [r] 0).foldl (fun c p =>
      { c with work := tabSet bytesD c.work p.key ((own.2.drop p.start).take p.len) }) c)
    s.placeBytes n g r 0 (own.2.take (c.contribBytes (s.grpSize n g) r))

/-- The first step of a stage: what each ring sends first (R266). A reduction's own contribution is encoded as it first
travels; what a stage before has left travels as it is held. -/
def State.startStage (s : State) (n g : Nat) (st : Stage) : State :=
  (List.range 2).foldl (fun s ring =>
    match s.ctx n g with
    | none => s
    | some c =>
      let w := c.words
      let h := s.shape n g
      if st.steps (coOp w) h ring = 0 then s else
      let ps := c.pieces h st (st.out h ring 0) ring
      ps.foldl (fun s p =>
        let first := coReduces w && !p.units.all (fun k => !(tabGet bytesD c.work k).isEmpty)
        if first then
          let own := s.ownUnits n g p.units
          let gen := collGen (coSeed w) st.axis ring 0 (p.off / (fragUnits (coWfmt w) * coUnitBytes (coWfmt w)))
          let e := wireEncode (coWfmt w) gen own.2
          (own.1.collEvents n g e.ovf 0).queueOut n g st ring (st.base (coOp w) h) p e.bytes
        else
          let data := if coReduces w then p.units.flatMap (tabGet bytesD c.work) else tabGet bytesD c.work p.key
          s.queueOut n g st ring (st.base (coOp w) h) p data) s) s

/-- Every fragment of a stage has come. -/
def Ctx.stageDone (c : Ctx) (h : Shape) (st : Stage) : Bool :=
  (List.range 2).all (fun ring => (List.range (st.steps (coOp c.words) h ring)).all (fun k =>
    (List.range (c.pieces h st (st.inp h ring k) ring).length).all (fun i => c.got.contains (ring, k, i))))

/-- The next stage begins, or the data are all in place. -/
def State.nextStage (s : State) (n g : Nat) (c : Ctx) (i : Nat) : State :=
  match (s.stages n g c)[i]? with
  | some st => (s.setCtx n g (some { c with stage := some i, got := [] })).startStage n g st
  | none => s.finish n g

/-- DATA begins: grants go out, and the own contribution is read (Table 10.4). -/
def State.beginData (s : State) (n g : Nat) (c : Ctx) : State :=
  let s := s.grantSlots n g
  let s := if (s.stages n g c).isEmpty then s.alone n g else s
  let s := if coReduces c.words || coOp c.words == 6 then s else s.ownGather n g
  match s.ctx n g with
  | some c => if c.st = 4 then s.nextStage n g c 0 else s
  | none => s

/-- Do a collective's buffers wait for a Pail region that is being zeroed (R153)? -/
def State.collWaits (s : State) (n g : Nat) (c : Ctx) : Bool :=
  let w := c.words
  let r := s.grpRank n g
  s.homeWaits (coSrc w) (coSrcBytes w r) || s.homeWaits (coDst w) (coDstBytes w (s.grpSize n g) r) ||
  s.homeWaits (coRecord w) (coRecBytes w (s.grpSize n g))

/-- Does a complete fragment belong to a later stage than the current one, so that it is kept? -/
def laterStage (sts : List Stage) (i op : Nat) (h : Shape) (x : FragHdr) : Bool :=
  (sts.drop (i + 1)).any (fun st => (st.stepOf op h x).isSome)

/-- A collective in DATA goes on as far as what has come allows. -/
def State.collAdvance (s : State) (n g : Nat) : Nat → State
  | 0 => s
  | k + 1 =>
    match s.ctx n g with
    | none => s
    | some c =>
      if c.st ≠ 4 || coOp c.words = 6 || s.collWaits n g c then s else
      match c.stage with
      | none => (s.beginData n g c).collAdvance n g k
      | some i =>
        let h := s.shape n g
        let sts := s.stages n g c
        match sts[i]? with
        | none => s
        | some st =>
          if c.stageDone h st then (s.nextStage n g c (i + 1)).collAdvance n g k
          else
            match c.fragsIn.findSome? (fun f => f.data.bind (fun d =>
                if (st.stepOf (coOp c.words) h d.1).isNone && laterStage sts i (coOp c.words) h d.1 then none else some (f, d))) with
            | none => s
            | some (f, x, data) => (s.useFrag n g c st f x data).collAdvance n g k

/-- A bound on the steps of collAdvance: stages, and fragments held. -/
def Ctx.advances (c : Ctx) : Nat := c.fragsIn.length + 8

/-- A collective goes on, and sends what it may. -/
def State.collGo (s : State) (n g : Nat) : State :=
  match s.ctx n g with
  | some c => (s.collAdvance n g c.advances).pump n g
  | none => s

/-- What has waited for a region's zeroing goes on (R153). -/
def State.collResume (s : State) : State := s.allCtxs.foldl (fun s x => s.collGo x.1 x.2) s

/-- Has every member's arrival reached a BARRIER's member? -/
def State.barrierDone (s : State) (n g : Nat) : State :=
  match s.ctx n g with
  | some c =>
    if c.st = 4 && coOp c.words == 6 && (List.range (s.grpSize n g)).all (fun q => c.ranks.contains q) then s.finish n g else s
  | none => s

/-- The state DATA. -/
def State.startData (s : State) (n g : Nat) : State :=
  ((s.modCtx n g (fun c => { c with st := 4, heard := s.engineTime })).barrierDone n g).collGo n g

/-- Every count is held: N decides between DATA and an abort (R270). -/
def State.countsDone (s : State) (n g : Nat) : State :=
  match s.ctx n g with
  | none => s
  | some c =>
    let p := s.grpSize n g
    if !(List.range p).all (fun q => tabGet natD c.counts q != 0) then s
    else if coCap c.words < ((List.range p).map c.count).sum then s.collCause n g 0x513
    else s.startData n g

/-- A message to every ring neighbour. -/
def State.sendAll (s : State) (n g : Nat) (m : CtrlMsg) : State := (s.grpNbs n g).foldl (fun s nb => s.sendNb nb m) s

/-- Every neighbour's signature has matched: the member leaves ENTRY (R279), and passes on the counts and arrivals that have
come meanwhile. -/
def State.leaveEntry (s : State) (n g : Nat) : State :=
  match s.ctx n g with
  | none => s
  | some c =>
    if c.st ≠ 2 || !(s.grpNbs n g).all (fun nb => c.matched.contains nb) then s
    else
      let w := c.words
      let r := s.grpRank n g
      let c := { c with counts := if coOp w = 3 then tabSet natD c.counts r (coCount w + 1) else c.counts
                        ranks := if coOp w = 6 then c.ranks ++ [r] else c.ranks, heard := s.engineTime }
      if coOp w = 3 && !coPad w then
        let s := s.setCtx n g (some { c with st := 3 })
        (c.counts.foldl (fun s x => s.sendAll n g (.counts n g c.seq x.1 (x.2 - 1) c.jflags)) s).countsDone n g
      else
        let s := if coOp w = 6 then c.ranks.foldl (fun s q => s.sendAll n g (.barrier n g c.seq q c.jflags)) s else s
        (s.setCtx n g (some c)).startData n g

/-- A signature is held in the group slot, one per neighbour. -/
def State.holdSig (s : State) (n g nb : Nat) (x : Signature) (ok : Bool) : State :=
  s.setHeld n g { s.held n g with sigs := (s.held n g).sigs.filter (fun h => h.1 != nb) ++ [(nb, x, ok)] }

/-- COLL_SIGNATURE: a neighbour's signature is compared, or held until the member posts (R279). One of a sequence number
that is aborting here is spent. -/
def State.collSignature (s : State) (n g nb : Nat) (x : Signature) (tag : Option DWord) : State :=
  if 16 ≤ n || decide (64 ≤ g) || s.partState n ≠ 1 then s else
  let ok := tag == (s.part n).tagSig x
  match s.ctx n g with
  | some c =>
    if c.st = 2 && !c.matched.contains nb then (s.compareSig n g nb x ok).leaveEntry n g
    else if c.st = 6 && x.seq == c.seq then s
    else s.holdSig n g nb x ok
  | none => s.holdSig n g nb x ok

/-- The post at position i of a partition's queue takes a context: ENTRY begins (R263, R276, R279). -/
def State.grantCtx (s : State) (n i : Nat) : State :=
  match (s.part n).postQ[i]? with
  | none => s
  | some q =>
    let g := coGroup q.words
    let s := s.modPart n (fun p => { p with postQ := listDrop1 p.postQ i })
    let c := s.newCtx n g q true
    let h := s.held n g
    let s := ((s.setCtx n g (some c)).setHeld n g { h with sigs := [] }).noteEngine
    let x := s.signature n g c
    let s := s.sendAll n g (.signature n g x ((s.part n).tagSig x))
    (h.sigs.foldl (fun s x => s.compareSig n g x.1 x.2.1 x.2.2) s).leaveEntry n g

/-- COLL_CONTEXT_GRANT: one partition's first eligible post takes a context; which partition goes first is free
(R263; log 41). -/
def State.collContextGrant (s : State) : State :=
  let ns := (List.range 16).filter (fun n => (s.nextPost n).isSome)
  if ns.isEmpty then s else
  let n := ns.getD (Config.freeValue s.freeCount 0 % ns.length) 0
  match s.nextPost n with
  | some i => ({ s with freeCount := s.freeCount + 1 } : State).grantCtx n i
  | none => s

/-- COLL_COUNTS: a rank's count arrives, and is passed on the first time it is seen, once this member has left ENTRY
(R270). Its message carries job flags as a fragment does (R282; log 41). -/
def State.collCounts (s : State) (n g seq rank count jflags : Nat) : State :=
  match s.ctx n g with
  | none => s
  | some c =>
    if (c.st ≠ 2 && c.st ≠ 3) || c.seq ≠ seq || decide (s.grpSize n g ≤ rank) || tabGet natD c.counts rank != 0 then s
    else
      let c := { c with counts := tabSet natD c.counts rank (count + 1), heard := s.engineTime, jflags := c.jflags ||| jflags }
      let s := s.setCtx n g (some c)
      if c.st = 2 then s else (s.sendAll n g (.counts n g seq rank count c.jflags)).countsDone n g

/-- COLL_BARRIER_ARRIVAL: a rank's arrival; the member finishes once every rank's has come (R280). It is passed on the first
time it is seen, once this member has left ENTRY, and carries job flags as a fragment does (R282; log 41). -/
def State.collBarrierArrival (s : State) (n g seq rank jflags : Nat) : State :=
  match s.ctx n g with
  | none => s
  | some c =>
    if (c.st ≠ 2 && c.st ≠ 4) || coOp c.words ≠ 6 || c.seq ≠ seq || decide (s.grpSize n g ≤ rank) || c.ranks.contains rank then s
    else
      let c := { c with ranks := c.ranks ++ [rank], heard := s.engineTime, jflags := c.jflags ||| jflags }
      let s := s.setCtx n g (some c)
      if c.st = 2 then s else (s.sendAll n g (.barrier n g seq rank c.jflags)).barrierDone n g

/-- COLL_FRAGMENT: one flit of a fragment comes in its slot; a complete fragment acts (R273, R274, R282). In a slot that is
not granted, or of a partition that is not ACTIVE, it is discarded (R284, R291). -/
def State.collFragment (s : State) (slot idx : Nat) (h : FragHdr) (data : List Byte) : State :=
  match tabGet slotD s.pool slot with
  | none => s
  | some u =>
    match s.ctx u.part u.group with
    | none => s
    | some c =>
      if !u.live || c.st ≠ 4 || s.partState u.part ≠ 1 then s else
      let old := (c.fragsIn.find? (fun f => f.slot == slot)).getD ⟨slot, none, []⟩
      let f : FragIn := { old with
        hdr := if idx = 0 then some h else old.hdr
        flits := old.flits.filter (fun x => x.1 != idx) ++ [(idx, data.take (if idx = 0 then 224 else 240))] }
      (s.setCtx u.part u.group (some { c with
        fragsIn := c.fragsIn.filter (fun f => f.slot != slot) ++ [f], heard := s.engineTime })).collGo u.part u.group

/-- The tags of fragments in slots of a neighbour return: the grant of a slot acknowledges the fragment that filled it
(R246, R274; log 42). -/
def State.ackSlots (s : State) (n g nb : Nat) (slots : List Nat) : State :=
  ({ s with tags := s.tags.filter (fun x => match x.2 with
    | .coll n' g' nb' k => !(n' == n && g' == g && nb' == nb && slots.contains k)
    | _ => true) } : State).noteTags

/-- Every tag of a group's collective returns. -/
def State.dropCollTags (s : State) (n g : Nat) : State :=
  ({ s with tags := s.tags.filter (fun x => match x.2 with | .coll n' g' _ _ => n' != n || g' != g | _ => true) } : State).noteTags

/-- Does a group's collective hold a tag? -/
def State.collTagged (s : State) (n g : Nat) : Bool :=
  s.tags.any (fun x => match x.2 with | .coll n' g' _ _ => n' == n && g' == g | _ => false)

/-- COLL_GRANT: slots granted by a successor let waiting fragments leave (R273, R274). -/
def State.collGrant (s : State) (n g nb : Nat) (slots : List Nat) : State :=
  match s.ctx n g with
  | none => s
  | some c =>
    let s := s.ackSlots n g nb slots
    if c.st < 2 || 6 ≤ c.st then s
    else (s.setCtx n g (some { c with slots := c.slots ++ slots.map (fun k => (nb, k)), heard := s.engineTime })).pump n g

/-- FAB_TAG_TAKE: a fragment that has a grant takes a free tag before a Ladle's transaction does (R246). -/
def State.tagTake (s : State) : State :=
  let s' := s.allCtxs.foldl (fun s x => s.pump x.1 x.2) s
  if s'.tags.length = s.tags.length then s.fabTagTake else s'

/-! ### Records and ends (R280, R281, R284) -/

/-- The dropped elements of a padded ALL_GATHERV (R271). -/
def State.droppedTotal (s : State) (n g : Nat) (c : Ctx) : Nat :=
  let p := s.grpSize n g
  if coOp c.words = 3 && coPad c.words then ((List.range p).map (fun q => c.count q - coSlot c.words p)).sum else 0

/-- The completion record (Table 10.7). -/
def State.collRecord (s : State) (n g : Nat) (c : Ctx) (code origin : Nat) (counts : List Nat) : List Byte :=
  let w := c.words
  let drop := s.droppedTotal n g c
  let total := if coOp w = 3 then (if coPad w then drop else ((List.range (s.grpSize n g)).map c.count).sum) else 0
  bytesOf 4 c.seq ++ bytesOf 2 code ++ bytesOf 2 (min c.causes.length 0xFFFF) ++ bytesOf 4 origin ++
  bytesOf 2 (c.jflags % 2 ^ 14) ++ bytesOf 2 (c.flags.toNat ||| (if 0 < drop then 4 else 0)) ++ bytesOf 8 total ++
  bytesOf 8 s.time ++ (if coOp w = 3 then counts.flatMap (bytesOf 4) else [])

/-- A collective ends: its context and its slots are free, collectives without a grant get theirs, and the group's next post
has its turn. -/
def State.freeCtx (s : State) (n g : Nat) : State :=
  let s := (s.setCtx n g none).dropSlots n g
  let cur := (s.part n).grpSeq g
  let h := s.held n g
  let s := s.setHeld n g { h with notices := h.notices.filter (fun x => decide ((x.seq + 2 ^ 32 - cur) % 2 ^ 32 < 2 ^ 31)) }
  (s.allCtxs.foldl (fun s x => s.grantSlots x.1 x.2) s).groupNext n g

/-- COLL_COMPLETE: the record, DONE_SEM, the arrival at BAR, the books, and the next sequence number (R280 to R282). A
refused record aborts (R283). -/
def State.collComplete (s : State) (n g : Nat) : State :=
  match s.ctx n g with
  | none => s
  | some c =>
    if c.st ≠ 5 || !c.outQ.isEmpty || s.collTagged n g || s.collWaits n g c then s
    else
      let w := c.words
      let p := s.grpSize n g
      let drop := s.droppedTotal n g c
      let r := s.collWrite (coRecord w) (s.collRecord n g c 0 0xFFFFFFFF ((List.range p).map (coWritten w p c.count)))
      if r.2 then r.1.collCause n g 0x514 else
      let s := r.1
      let s := if cw w 7 22 22 = 1 then s.tileStep (cw w 7 10 0) (fun x => x.addSem (cw w 7 21 12) 1) else s
      let s := if cw w 7 23 23 = 1 && decide (0 < (s.part n).barCount (cw w 7 29 24)) then
          s.modPart n (·.arrive (cw w 7 29 24)) else s
      (s.modPart n (fun q =>
        ((((q.count Reg.collDropCnt 31 0 drop).setReg Reg.collJobFlags (BitVec.ofNat 32 (c.jflags % 2 ^ 14))).setReg
          Reg.collDoneCnt (q.reg Reg.collDoneCnt + 1)).setReg (Reg.collGrpSeq + 16 * g) (BitVec.ofNat 32 (c.seq + 1))))).freeCtx n g

/-- COLL_ABORT_NOTICE: a notice of the current sequence lowers the pair; one of a later sequence is held; others are
dropped, and so is one whose tag fails (R285, R286, R296, R342). -/
def State.collAbortNotice (s : State) (n g nb seq code origin : Nat) (tag : Option DWord) : State :=
  if 16 ≤ n || decide (64 ≤ g) || s.partState n ≠ 1 || tag != (s.part n).tagNotice [n, g, seq, code, origin] then s else
  let cur := (s.part n).grpSeq g
  let ahead := (seq + 2 ^ 32 - cur) % 2 ^ 32
  if (s.ctx n g).isSome && ahead == 0 then s.collAbort n g code origin (some nb)
  else if 2 ^ 31 ≤ ahead then s
  else
    let h := s.held n g
    let x : HeldNotice := ⟨nb, seq % 2 ^ 32, code, origin⟩
    (if h.notices.contains x then s else s.setHeld n g { h with notices := h.notices ++ [x] }).groupNext n g

/-- COLL_ENTRY_TIMEOUT and COLL_PROGRESS_TIMEOUT (R283, R289). -/
def State.collEntryTimeout (s : State) (n g : Nat) : State :=
  match s.ctx n g with
  | some c =>
    if c.st = 2 && c.entryMs != 0 && decide (c.start + c.entryMs * 1000000 < s.engineTime) then s.collCause n g 0x517 else s
  | none => s
def State.collProgressTimeout (s : State) (n g : Nat) : State :=
  match s.ctx n g with
  | some c => if (c.st = 3 || c.st = 4) && c.progUs != 0 && decide (c.heard + c.progUs * 1000 ≤ s.engineTime) then
      s.collCause n g 0x517 else s
  | none => s

/-- The counts of rank q that an aborting member has written so far are not stated (R281; log 41). -/
def freeCounts (draw p : Nat) : List Nat := (List.range p).map (fun q => Config.freeValue draw q)

/-- COLL_ABORT_FINISH: 250 µs after the abort, with its tags returned or failed (R179), the member writes its record,
signals ABORT_SEM, keeps the books and frees its context (R284). A record that its home refuses is not written. -/
def State.collAbortFinish (s : State) (n g : Nat) : State :=
  match s.ctx n g with
  | none => s
  | some c =>
    if c.st ≠ 6 || !s.abortDue c || (!c.bad && s.collWaits n g c) then s
    else
      let w := c.words
      let b := c.best.getD (0, 0)
      let s := s.dropCollTags n g
      let s := if c.bad then s else
        let s := (s.collWrite (coRecord w) (s.collRecord n g c b.1 b.2 (freeCounts s.freeCount (s.grpSize n g)))).1
        let s := { s with freeCount := s.freeCount + 1 }
        if cw w 8 22 22 = 1 then s.tileStep (cw w 8 10 0) (fun x => x.addSem (cw w 8 21 12) 1) else s
      (s.abortBooks n g c.seq b.1).freeCtx n g

/-- Step 4 of a link down (R239): every collective whose ring uses the port aborts. -/
def State.collLinkDown (s : State) (p : Nat) : State :=
  (List.range 16).foldl (fun s n => (List.range 64).foldl (fun s g =>
    if (s.ctx n g).isSome && (s.grpNbs n g).contains (p / 2) then s.collCause n g 0x512 else s) s) s

end Sys2Proof.Machine
end

