-- ==== Sys2Proof/Machine/Time.lean ====
section
/-!
DEFINITION. Machine/Time.lean: chip time (R403, R404, R407), stratum and upstream port (R405), and what a time exchange
does (R406 to R408). Offsets are kept doubled, so that the halves of R406 stay exact.
-/

namespace Sys2Proof.Machine

/-- The stratum and the upstream port of the chip, and whether it is SYNCED (Table 15.6). -/
def State.stratum (s : State) : Nat := s.f Reg.clkStatus 23 16
def State.upPort (s : State) : Nat := s.f Reg.clkStatus 27 24
def State.synced (s : State) : Bool := s.f Reg.clkStatus 8 8 == 1
def State.isGm (s : State) : Bool := s.f Reg.clkTimeCfg 0 0 == 1

/-- Replace chip time in ns; the 32 bits below the nanosecond stay (R403). -/
def State.putTime (s : State) (ns : Nat) : State := { s with timeAcc := (ns % 2 ^ 64) * 2 ^ 32 + s.timeAcc % 2 ^ 32 }

/-- A step of chip time (R407). -/
def State.countStep (s : State) : State := s.count Reg.clkTimeSteps 15 0 1

/-- FREQ in parts per 10⁹. -/
def State.freq (s : State) : Int := toSigned 32 (s.reg Reg.clkTimeFreq).toNat

/-- TIME_TICK: one 2 ns tick adds 2 ns × (1 + FREQ × 10⁻⁹), in whole units of 2^-32 ns (log 92), to the 96-bit
accumulator; a grandmaster's FREQ is 0 (R403, R404). The ticks outlast a loss of OSC, since the time PLL holds its
frequency (R402). -/
def State.timeTick (s : State) : State :=
  if !s.power.timeOn then s else
  let inc := ((2 ^ 33 : Int) * (1000000000 + if s.isGm then 0 else s.freq) / 1000000000).toNat
  { s with timeAcc := (s.timeAcc + inc) % 2 ^ 96, ticks := s.ticks + 1 }

/-- The follower ports that may be upstream: those up whose leader's latest stratum is below 255 (R405). -/
def State.upstream (s : State) : Option Nat :=
  let ps := (List.range portCount).filter (fun p =>
    (s.port p).isUp && (s.port p).f Reg.fabPortStatus 4 3 == 2 && decide ((s.port p).pStratum < 255))
  ps.foldl (fun b p => match b with
    | none => some p
    | some q => if (s.port p).pStratum < (s.port q).pStratum then some p else some q) none

/-- Recompute STRATUM and UP_PORT (R405). A grandmaster that has been set is SYNCED at stratum 0 (R408). -/
def State.restrata (s : State) : State :=
  if s.isGm && s.gmSet then ((s.setF Reg.clkStatus 23 16 0).setF Reg.clkStatus 27 24 15).setF Reg.clkStatus 8 8 1
  else match s.upstream with
    | some p => (s.setF Reg.clkStatus 23 16 (min 254 ((s.port p).pStratum + 1))).setF Reg.clkStatus 27 24 p
    | none => (s.setF Reg.clkStatus 23 16 255).setF Reg.clkStatus 27 24 15

/-- The mean of doubled offsets, in ns: exact where it is an integer, else rounded down or up, which the spec does not
say (R406; log 36). -/
def meanOfs (l : List Int) (draw : Nat) : Int :=
  if l.isEmpty then 0 else
  let d : Int := 2 * (l.length : Int)
  let q := l.sum / d
  if l.sum % d = 0 then q else q + ((Config.freeValue draw 0 % 2 : Nat) : Int)

/-- Chip time makes a step by −o: the offsets before it are spent (R407; log 36). -/
def State.stepTime (s : State) (o : Int) : State :=
  let s := (s.putTime (((s.time : Int) - o) % (2 ^ 64 : Int)).toNat).countStep
  { (s.setReg Reg.clkTimeOfs 0) with syncRun := 0, ports := tabMap portD (fun p => { p with offs := [] }) s.ports }

/-- FREQ moves toward −o by an amount the spec leaves open, never beyond 500 ppm (R407; log 36). -/
def State.slew (s : State) (o : Int) : State :=
  let k : Int := (Config.freeValue s.freeCount 1 % 500001 : Nat)
  let f := if o = 0 then s.freq else if o < 0 then s.freq + k else s.freq - k
  { s with freeCount := s.freeCount + 1 }.setReg Reg.clkTimeFreq
    (BitVec.ofNat 32 (ofSigned 32 (max (-500000) (min 500000 f))))

/-- The chip steers by a mean offset (R407, R408). -/
def State.steer (s : State) (o : Int) : State :=
  let s := s.setReg Reg.clkTimeOfs (BitVec.ofNat 32 (ofSigned 32 o))
  let big := fun (n : Int) => decide (n < o) || decide (o < -n)
  if s.synced then
    if big 10000 then
      (({ s with syncRun := 0 }.setF Reg.clkStatus 8 8 0).log 0x0802 Src.clocks sevError chipPart
        [BitVec.ofNat 32 (ofSigned 64 o), BitVec.ofNat 32 (ofSigned 64 o / 2 ^ 32)]).stepTime o
    else s.slew o
  else if big 1000 then s.stepTime o
  else
    let run := if big 500 then 0 else s.syncRun + 1
    let s := ({ s with syncRun := run } : State).slew o
    if 16 ≤ run && decide (1 ≤ s.stratum) && decide (s.stratum ≤ 254) then s.setF Reg.clkStatus 8 8 1 else s

/-- TIME_SET: the write of the high half on a grandmaster sets chip time, as a step (R404, R407). -/
def State.timeSet (s : State) (hi : Word) : State :=
  let s := s.setReg Reg.clkTimeSetHi hi
  if !s.isGm then s else
  (({ (s.putTime ((s.reg Reg.clkTimeSetLo).toNat + 2 ^ 32 * hi.toNat)).countStep with gmSet := true }) : State).restrata

/-- SYNC_LOSS: no valid exchange on any upstream port for 1 s clears SYNCED and leaves the chip free-running (R408). -/
def State.syncLoss (s : State) : State :=
  if s.isGm && s.gmSet || decide (s.ticks < s.syncAt + 500000000) then s else
  { (((s.setF Reg.clkStatus 8 8 0).setF Reg.clkStatus 23 16 255).setF Reg.clkStatus 27 24 15) with syncRun := 0 }

end Sys2Proof.Machine
end

