-- ==== Sys2Proof/Machine/Link.lean ====
section
/-!
DEFINITION. Machine/Link.lean: the links of the fabric: training (R233, R234), the timing-leader role (R235, R236),
heartbeats and the time exchange (R237, R406), and link down (R238 to R241). Real-time limits are the environment's.
-/

namespace Sys2Proof.Machine

/-- A port's STATE changes: CHANGED is set and the trace point fires (Table 9.8, Table 11.8). -/
def State.portState (s : State) (p st cause : Nat) : State :=
  if (s.port p).f Reg.fabPortStatus 2 0 = st then s.modPort p (fun x => x.setF Reg.fabPortStatus 11 8 cause)
  else (s.modPort p (fun x => ((x.setF Reg.fabPortStatus 2 0 st).setF Reg.fabPortStatus 11 8 cause).setF
    Reg.fabPortStatus 31 31 1)).trace (0x80 + p) Src.fabric [st, cause]

/-- STATE, DOWN_CAUSE, EN. -/
def Port.st (p : Port) : Nat := p.f Reg.fabPortStatus 2 0
def Port.cause (p : Port) : Nat := p.f Reg.fabPortStatus 11 8
def Port.en (p : Port) : Bool := p.f Reg.fabPortCtl 0 0 == 1

/-- A port without the state of its last link: credits, sequence numbers, roles and exchanges. -/
def Port.fresh (p : Port) : Port :=
  { p with seen := false, retry := false, asking := false, backoff := none, pendRole := 0, pStratum := 255, lanes := 0,
           hbHeld := none, hbSent := none, offs := [], txSeq := 0, rxSeq := 4095, replay := [], replays := 0, uncorr := 0,
           used := [], owed := [], txq := [], rxq := [], ctl := [], turn := 0, dense := 0, wColl := 0, wLadle := 0 }

/-- FORCE_LEAD and DEGRADE_OK are taken as a training begins (Table 9.8). -/
def Port.latchWants (p : Port) : Port := { p with want := p.f Reg.fabPortCtl 2 1 }
def Port.degradeOk (p : Port) : Bool := p.want % 2 == 1
def Port.forceLead (p : Port) : Bool := p.want / 2 % 2 == 1

/-- Step 1 of Table 9.5. -/
def State.startTraining (s : State) (p : Nat) : State :=
  (s.portState p 1 (s.port p).cause).modPort p (fun x =>
    ((x.fresh.setF Reg.fabPortStatus 7 5 0).setF Reg.fabPortStatus 4 3 0).setF Reg.fabPortPartner 31 31 0 |>.latchWants)

/-- Do the fabric lanes have their supply: rail group 4, VFAB, has come up and has not fallen (R17, Table 13.4)? -/
def State.fabricUp (s : State) : Bool := decide (4 ≤ s.power.ready)

/-- PORT_ENABLE: Ittan Root sets EN, and a port that is DISABLED or FAILED starts training; one that failed the identity
check only once EN has been 0 (R233, R234, R240). Before VFAB is up the port waits for it (R17). -/
def State.portEnable (s : State) (p : Nat) : State :=
  if portCount ≤ p then s else
  let was := (s.port p).en
  let s := s.modPort p (fun x => x.setF Reg.fabPortCtl 0 0 1)
  if !s.fabricUp then s
  else if ((s.port p).st = 5 && ((s.port p).cause != 6 || !was)) || ((s.port p).st = 0 && !was) then s.startTraining p else s

/-- PARTNER_SIGNAL_DETECT: the 50 ms of R233 begin. -/
def Port.signalDetect (p : Port) : Port := if p.st = 1 then { p with seen := true } else p

/-- TRAIN_TIMEOUT: step 7 was not reached within 50 ms of the partner's signal; CZ_ERR_FAB_TRAIN is logged (R233). -/
def State.trainTimeout (s : State) (p : Nat) : State :=
  if portCount ≤ p || (s.port p).st != 1 || !(s.port p).seen || (s.port p).retry then s
  else (s.modPort p (fun x => { x with seen := false, retry := true })).logOpen 0x0402 Src.fabric chipPart

/-- TRAIN_RETRY: 10 ms later the port starts again at step 1. -/
def Port.trainRetry (p : Port) : Port := if p.st = 1 && p.retry then { p.latchWants with retry := false } else p

/-- The lanes that a port runs on, of those that pass: all four, one of the two pairs, or none (step 4). -/
def Port.useLanes (p : Port) (lanes : Nat) : Nat :=
  if lanes % 16 = 15 then 15
  else if !p.degradeOk then 0
  else if lanes % 4 = 3 then 3 else if lanes / 4 % 4 = 3 then 12 else 0

/-- The width that the lanes which pass allow, 0 for a failed attempt. -/
def Port.width (p : Port) (lanes : Nat) : Nat :=
  match p.useLanes lanes with
  | 15 => 4 | 0 => 0 | _ => 2

/-- The fabric lane that the port's recovered clock is taken from: the lowest-numbered working one (R227). -/
def State.clockLane (s : State) (p : Nat) : Option Nat :=
  ((List.range 4).find? (fun i => (s.port p).lanes.testBit i)).map (4 * p + ·)

/-- The identity check of R234. -/
def State.identityOk (s : State) (p : Nat) (i : PartnerInfo) : Bool :=
  let a := p / 4
  let neg := p / 2 % 2 == 1
  s.hasNeighbour a neg && i.chipId == s.neighbour a neg &&
  i.port == (if neg then p - 2 else p + 2) && i.dims == s.reg Reg.fabDims

/-- A backoff is drawn for a port (R236). -/
def State.backOff (s : State) (p : Nat) : State :=
  let r := s.drawBackoff
  r.1.modPort p (fun x => { x with asking := false, backoff := some r.2 })

/-- The role at step 6: 1 leader, 2 follower; of two that ask, or of two that do not, the higher chip ID leads (R235,
R236). -/
def roleAt (asks theirs : Bool) (own partner : Nat) : Nat :=
  if asks && !theirs then 1 else if theirs && !asks then 2 else if partner < own then 1 else 2

/-- HEARTBEAT_SEND: the next heartbeat leaves with its time stamps; a granted role takes effect with it. -/
def State.heartbeatSend (s : State) (p : Nat) : State :=
  let x := s.port p
  if portCount ≤ p || !x.isUp then s else
  let role := if x.pendRole = 1 then 1 else x.f Reg.fabPortStatus 4 3
  let now : Int := s.time
  let held := x.hbHeld.getD (0, 0)
  let hb : Heartbeat := ⟨x.hbSeq, s.stratum, role == 1, now, held.2, held.1⟩
  (s.modPort p (fun x =>
    let r := x.stamp { idleFlit with typ := 1, seq := (x.txSeq + 4095) % 4096, body := .heartbeat hb }
    { ((r.1.setF Reg.fabPortStatus 4 3 role).onWire r.2) with
      pendRole := if x.pendRole = 1 then 0 else x.pendRole, hbSeq := (x.hbSeq + 1) % 65536, hbOut := some hb
      hbSent := x.hbHeld.map (fun h => (h.1, h.2, now)) })).restrata

/-- LINK_TRAINED: steps 4 to 7 (Table 9.5). A failed attempt leaves the port at its training. -/
def State.linkTrained (s : State) (p lanes : Nat) (i : PartnerInfo) : State :=
  let x := s.port p
  if portCount ≤ p || x.st != 1 || x.retry || x.width lanes == 0 then s else
  let s := s.modPort p (fun x => { (x.setReg Reg.fabPortPartner
    (BitVec.ofNat 32 (i.chipId % 2 ^ 18 + 2 ^ 18 * (i.port % 16) + 2 ^ 31))) with pStratum := i.stratum })
  if !s.identityOk p i then (s.portState p 5 6).logOpen 0x0401 Src.fabric chipPart
  else
    let asks := x.forceLead || decide (s.stratum < i.stratum)
    let collide := asks && i.asks
    let role := roleAt asks i.asks s.chipId i.chipId
    let w := x.width lanes
    let s := s.modPort p (fun x =>
      let x := (x.setF Reg.fabPortStatus 7 5 w).setF Reg.fabPortStatus 4 3 role
      let x := if collide then x.count Reg.fabPortLeadColl 1 else x
      { x with seen := false, used := [], owed := [], txSeq := 0, rxSeq := 4095, lanes := x.useLanes lanes, alive := s.ticks })
    let s := if collide && role == 2 then s.backOff p else s
    let s := s.portState p (if w = 4 then 2 else 3) 0
    let s := if w = 2 then s.logOpen 0x0404 Src.fabric chipPart else s
    s.restrata.heartbeatSend p

/-! ### The role after training (R235, R236) -/

/-- Does an end ask for the role: a follower whose stratum is lower than its leader's (R235)? -/
def State.wantsLead (s : State) (p : Nat) : Bool :=
  (s.port p).isUp && (s.port p).f Reg.fabPortStatus 4 3 == 2 && decide (s.stratum < (s.port p).pStratum)

/-- Send LEAD_REQ, unless one is outstanding or a backoff runs. -/
def State.askLead (s : State) (p : Nat) : State :=
  if s.wantsLead p && !(s.port p).asking && (s.port p).backoff.isNone && (s.port p).pendRole == 0 then
    s.modPort p (fun x => { (x.sendCtrl .leadReq) with asking := true })
  else s

/-- LEAD_REQ arrives: granted, or a collision that the chip IDs settle. -/
def State.leadReq (s : State) (p : Nat) : State :=
  let x := s.port p
  if portCount ≤ p || !x.isUp then s
  else if !x.asking then s.modPort p (fun x => { (x.sendCtrl .leadAck) with pendRole := 2 })
  else
    let higher := decide (x.f Reg.fabPortPartner 17 0 < s.chipId)
    s.modPort p (fun x =>
      let x := x.count Reg.fabPortLeadColl 1
      if higher then x.sendCtrl .leadNak else { (x.sendCtrl .leadAck) with asking := false, pendRole := 2 })

/-- LEAD_ACK arrives: the requester leads from its next heartbeat. -/
def Port.leadAck (p : Port) : Port := if p.isUp && p.asking then { p with asking := false, pendRole := 1 } else p

/-- LEAD_NAK arrives: the lower end draws a backoff. -/
def State.leadNak (s : State) (p : Nat) : State :=
  if portCount ≤ p || !(s.port p).isUp then s else s.backOff p

/-- LEAD_BACKOFF_EXPIRY: the end asks again if it still wants the role. -/
def State.leadBackoffExpiry (s : State) (p : Nat) : State :=
  if portCount ≤ p || (s.port p).backoff.isNone then s
  else (s.modPort p (fun x => { x with backoff := none })).askLead p

/-- LEAD_REQ_TIMEOUT: a request without an answer for 10 µs is withdrawn, and retried after a backoff. -/
def State.leadReqTimeout (s : State) (p : Nat) : State :=
  if portCount ≤ p || !(s.port p).asking then s else s.backOff p

/-- FAB_CHIP_ID_WRITE has changed the ID, or repeated it: the generator is seeded again (R236). -/
def State.reseedFabric (s : State) : State := { s with fabGen := s.fabSeed }

/-- Is the fabric quiesced (R253)? -/
def State.fabricQuiet (s : State) : Bool :=
  (List.range portCount).all (fun p => (s.port p).st == 0 || (s.port p).st == 5) && s.f Reg.fabTags 14 0 == 0

/-- A Quiesce write to a fabric register is ignored (R253). -/
def State.fabIgnored (s : State) (o : Nat) : State :=
  (s.setF Reg.fabCfgStatus 0 0 1).setF Reg.fabCfgStatus 31 16 o

/-- FAB_CHIP_ID_WRITE (R236, R253). -/
def State.chipIdWrite (s : State) (val : Word) : State :=
  if fld val 17 0 ≠ s.chipId && !s.fabricQuiet then s.fabIgnored Reg.fabChipId
  else (s.setReg Reg.fabChipId (BitVec.ofNat 32 (fld val 17 0))).reseedFabric

/-! ### Heartbeats (R237, R406) -/

/-- The exchange that a leader's heartbeat completes: twice the offset and twice the delay (R406). -/
def exchange (sent : Option (Int × Int × Int)) (hb : Heartbeat) : Option (Int × Int) :=
  match sent with
  | some (t1, t2, t3) =>
    if hb.echo = t3 then some ((t2 - t1) - (hb.tRx - t3), (t2 - t1) + (hb.tRx - t3)) else none
  | none => none

/-- HEARTBEAT_RECEIVE: the link is renewed; a valid exchange on the upstream port steers the chip's time; a follower
whose stratum has become lower asks for the role (R235, R405 to R408). -/
def State.heartbeatReceive (s : State) (p : Nat) (hb : Heartbeat) : State :=
  let x := s.port p
  if portCount ≤ p || !x.isUp then s else
  let now : Int := s.time
  let follow := x.pendRole == 2 && hb.leader
  let s := s.modPort p (fun x =>
    let x := if follow then x.setF Reg.fabPortStatus 4 3 2 else x
    { (x.setF Reg.fabPortHb 15 0 hb.seq) with
      hbIn := some s.time, alive := s.ticks, hbHeld := some (hb.tTx, now), pStratum := hb.stratum
      pendRole := if follow then 0 else x.pendRole })
  let s := s.restrata
  let x' := s.port p
  let s := match exchange x.hbSent hb with
    | some (o2, d2) =>
      if x'.f Reg.fabPortStatus 4 3 = 2 && decide (200 ≤ d2) && decide (d2 ≤ 800) then
        let offs := (o2 :: x'.offs).take 16
        let s := s.modPort p (fun x => { x with offs := offs })
        if s.upPort = p && !s.isGm then
          ({ s with freeCount := s.freeCount + 1, syncAt := s.ticks } : State).steer (meanOfs offs s.freeCount) else s
      else s
    | none => s
  s.askLead p

/-! ### Link down (R238 to R240) -/

/-- A flit of the failed port is sent again on the new route, or discarded: only Ladle-VC flits are kept (step 3). A
sideways hop that was not completed is taken back: the flit still is on axis DAX, with the dateline class it had there. -/
def State.reroute (s : State) (p : Nat) (f : Flit) : State :=
  if !ladleVc f.vc then s
  else if f.detour then s.forward { f with detour := false, spent := false } (some f.dax)
  else s.forward f (some (p / 4))

/-- Steps 1 to 5 of Table 9.6 toward a new state of the port. -/
def State.portFalls (s : State) (p st cause : Nat) : State :=
  let x := s.port p
  let s := s.portState p st cause
  let s := s.modPort p (fun y => { ((y.setF Reg.fabPortStatus 4 3 0).setF Reg.fabPortStatus 7 5 0) with
    asking := false, backoff := none, pendRole := 0, replay := [], replays := 0, txq := [], uncorr := 0, hbHeld := none,
    hbSent := none, offs := [], lanes := 0 }.onWire { idleFlit with
      typ := 2, seq := y.txSeq, ack := y.rxSeq, dest := y.f Reg.fabPortPartner 17 0, body := .ctrl .downNotice })
  let s := (x.replay ++ x.txq).foldl (fun s f => s.reroute p f) s
  ((s.collLinkDown p).restrata.logOpen 0x0400 Src.fabric chipPart).irqRoot

/-- A port marks its link down (R238, R239). The eighth down within 1 s makes it FAILED (R240). -/
def State.linkDown (s : State) (p cause : Nat) : State :=
  let x := s.port p
  if portCount ≤ p || !x.isUp then s else
  let downs := (s.time :: x.downs).filter (fun t => decide (s.time < t + 1000000000))
  let s := (s.modPort p (fun y => { (y.count Reg.fabPortDownCnt 1) with downs := downs })).portFalls p 4 cause
  if 8 ≤ downs.length then (s.portState p 5 7).logOpen 0x0403 Src.fabric chipPart else s

/-- HEARTBEAT_TIMEOUT: 4.5 µs, 2,250 ticks of 2 ns, have passed since the latest valid heartbeat; one taken in the cycle in
which the timer expires keeps the link up (R238). -/
def State.heartbeatTimeout (s : State) (p : Nat) : State :=
  if s.ticks < (s.port p).alive + 2250 then s else s.linkDown p 1

/-- LOSS_OF_SIGNAL, DOWN_NOTICE. -/
def State.lossOfSignal (s : State) (p : Nat) : State := s.linkDown p 2
def State.downNotice (s : State) (p : Nat) : State := s.linkDown p 5

/-- CODEWORD_DECODE: corrected and uncorrectable codewords are counted; 8 consecutive uncorrectable ones mark the link
down (R228, R238). -/
def State.codewordDecode (s : State) (p : Nat) (r : CodewordResult) : State :=
  if portCount ≤ p || !(s.port p).isUp then s else
  match r with
  | .clean => s.modPort p (fun x => { x with uncorr := 0 })
  | .corrected => s.modPort p (fun x => { (x.count Reg.fabPortFecCorr 1) with uncorr := 0 })
  | .uncorrectable =>
    let s := s.modPort p (fun x => { (x.count Reg.fabPortFecUncorr 1) with uncorr := x.uncorr + 1 })
    if 8 ≤ (s.port p).uncorr then s.linkDown p 3 else s

/-- REPLAY_TIMEOUT: the same ACK for 400 ns with flits outstanding: they are resent from the oldest; a flit
resent 16 times marks the link down (R238, R241). -/
def State.replayTimeout (s : State) (p : Nat) : State :=
  let x := s.port p
  if portCount ≤ p || !x.isUp || x.replay.isEmpty then s
  else if 16 ≤ x.replays then s.linkDown p 4
  else s.modPort p (fun x => { (x.count Reg.fabPortReplay x.replay.length) with
    replays := x.replays + 1, wire := x.replay.getLast?.map (fun f => (f, f.crc)) })

/-- LINK_RETRAIN: 1 ms after a link down, a port with EN = 1 trains again (Table 9.6 step 6). -/
def State.linkRetrain (s : State) (p : Nat) : State :=
  if portCount ≤ p || (s.port p).st != 4 || !(s.port p).en || !s.fabricUp then s else s.startTraining p

/-- VFAB has come up: a fabric PLL without FAB_REFCLK runs from OSC (R402), and the enabled ports start training (R17,
R233). -/
def State.fabricStarts (s : State) : State :=
  let s := if s.f Reg.clkStatus 2 2 = 0 then s.setF Reg.clkStatus 3 3 1 else s
  (List.range portCount).foldl (fun s p => if (s.port p).en && (s.port p).st == 0 then s.startTraining p else s) s

/-- VFAB falls: every port stops sending, its lanes in electrical idle (R17, R237). -/
def State.fabricFalls (s : State) : State :=
  (List.range portCount).foldl (fun s p => if (s.port p).st == 0 then s else
    (s.portState p 0 (s.port p).cause).modPort p (fun x =>
      { ((x.fresh.setF Reg.fabPortStatus 7 5 0).setF Reg.fabPortStatus 4 3 0) with wire := none })) s

/-- PORT_DISABLE: EN = 0 sends the DOWN notice and leaves the port DISABLED; steps 2 to 5 of Table 9.6 run for a port
that trained or ran (R240). -/
def State.portDisable (s : State) (p : Nat) : State :=
  if portCount ≤ p then s else
  let st := (s.port p).st
  let s := s.modPort p (fun x => x.setF Reg.fabPortCtl 0 0 0)
  if st = 1 ∨ st = 2 ∨ st = 3 then s.portFalls p 0 0
  else if st = 5 then s else s.portState p 0 (s.port p).cause

/-! ### Flits that arrive (R228, R243, R248) -/

/-- A link-control message has come over port p: it acts as the event of its kind does. -/
def State.deliverCtrl (s : State) (p : Nat) (m : CtrlMsg) : State :=
  match m with
  | .leadReq => s.leadReq p
  | .leadAck => s.modPort p Port.leadAck
  | .leadNak => s.leadNak p
  | .downNotice => s.downNotice p
  | .signature n g x tag => s.collSignature n g (p / 2) x tag
  | .counts n g seq rank count jflags => s.collCounts n g seq rank count jflags
  | .barrier n g seq rank jflags => s.collBarrierArrival n g seq rank jflags
  | .abort n g seq code origin tag => s.collAbortNotice n g (p / 2) seq code origin tag
  | .grant n g slots => s.collGrant n g (p / 2) slots

/-- A flit whose destination is this chip is taken apart: packets wait for their treatment, a fragment's flit goes to the
collective engine. -/
def State.deliver (s : State) (f : Flit) : State :=
  match f.body with
  | .packets ps => s.arrive ps
  | .frag hdr data => s.collFragment (f.stream / 256) (f.stream % 64) (hdr.getD ⟨0, 0, 0, 0, 0, 0, 0⟩) data
  | _ => s

/-- FLIT_ROUTE: the oldest flit that port p took is delivered or routed, and its credit goes back to the sender. A
link-control flit travels one hop (R243). -/
def State.flitRoute (s : State) (p : Nat) : State :=
  if portCount ≤ p then s else
  match (s.port p).rxq with
  | [] => s
  | f :: l =>
    let s := s.modPort p (fun x => { x with rxq := l, owed := tabMod natD x.owed f.vc (· + 1) })
    if f.typ = 2 then (match f.body with | .ctrl m => s.deliverCtrl p m | _ => s)
    else if f.dest = s.chipId && !f.detour then s.deliver f
    else s.forward f (some (p / 4))

/-- FLIT_RECEIVE: the link's part, and a heartbeat's effect, which is consumed at the port (R228). -/
def State.flitReceive (s : State) (p : Nat) (f : Flit) (crc : Word) : State :=
  if portCount ≤ p then s else
  let s := s.modPort p (fun x => x.receive f crc)
  match f.body with
  | .heartbeat hb => if f.typ = 1 ∧ crc = f.crc then s.heartbeatReceive p hb else s
  | _ => s

end Sys2Proof.Machine
end

