-- ==== Sys2Proof/Machine/Power.lean ====
section
/-!
DEFINITION. Machine/Power.lean: what a reset keeps (R410, R411, Table 15.4), start-up and held states (R360 to R366,
R400, R401), trips (R355, R386), reference loss (R402), the mesh frequency (R399) and the rails' calibration (R367,
R368).
-/

namespace Sys2Proof.Machine

/-! ### What the resets keep -/

/-- Chip registers of the always-on domain (R369, R392, R434). -/
def alwaysOn (o : Nat) : Bool :=
  o == Reg.capInput || o == Reg.capAonCause || o == Reg.mbAlert || o == Reg.mbI3cTgt ||
  (decide (Reg.capTcycB ≤ o) && decide (o < Reg.capTcycB + 32)) || o == Reg.capTcycStat

/-- Registers that a reset with the rails up keeps beside these: the link's, and the rails' of VCTL and VAON. -/
def railsUpKeep (o : Nat) : Bool := o == Reg.mbPcieStat || (decide (0x31E0 ≤ o) && decide (o < 0x3200))

/-- The reference bits of CLK_STATUS that a reset keeps: OSC_OK, PCIE_REF_OK, FAB_REF_OK. -/
def State.keptClk (s : State) : Nat := s.f Reg.clkStatus 2 0

/-- A tile as a reset leaves it. The repairs of its column lie in the non-volatile store (R149). -/
def Tile.cleared (t : Tile) : Tile :=
  let c := t.col
  { Tile.reset with col := { Column.reset with
      spareRows := c.spareRows, spareCols := c.spareCols, repairs := c.repairs ++ c.copying.toList ++ c.waiting } }

/-- Every function of the device returns to its reset state, but for the always-on domain, chip time, OSC and the
non-volatile store; with `railsUp` the PCI Express link and the kept bundle stay too (Table 15.4). -/
def State.deviceClear (s : State) (railsUp : Bool) : State :=
  let chip := s.chip.filter (fun p => alwaysOn p.1 || (railsUp && railsUpKeep p.1))
  let down := !railsUp && (s.power.linkDown || s.f Reg.mbPcieStat 9 9 == 1)
  let c := s.keptClk
  let s := { s with
    tiles := tabMap tileD Tile.cleared s.tiles, parts := [], partSys := [], pairs := [], chip := chip, chipLatch := []
    logWins := [], signals := [], zeroing := [], ingressQ := [], readQ := [], mesh := [], ports := [], arrivals := [], tags := [], tagQ := []
    pool := [], meshStop := 0, recent := [], syncRun := 0, cap := .reset
    fw := { s.fw with
      kept := if railsUp then s.fw.kept else [], rootRun := [], svcRun := [], sets := List.replicate 4 none, pairTurn := 15, rootNext := railsUp && s.fw.rootNext, staged := none, down := false
      activate := none, activateAt := 0, deviceReset := none, powerDown := 0, rootSec := 0, rootSlot := 0
      svcSec := 0, svcSlot := 0 }
    console := { s.console with unsent := 0 }
    mgmt := { s.mgmt with reading := none, line := [], answers := [], scan := false, sample := [], tiles := [] }
    power := { s.power with
      ready := if railsUp then 2 else 0, meshOn := false, busLow := false, suspects := [], runFrac := []
      change := .none, nextMhz := none, pgood := railsUp, faultN := false, linkDown := down } }
  s.setF Reg.clkStatus 2 0 c

/-- CAP_START.GROUP. -/
def State.startGroup (s : State) (g : Nat) : State := s.setF Reg.capStart 5 0 g

/-- Steps 2 to 4 of Table 13.1, and the hold of step 5: outputs inert, every rail but VAON off. -/
def State.holdDevice (s : State) : State :=
  let s := s.deviceClear false
  { s with power := { s.power with stage := .held } }

/-! ### Trips and resets -/

/-- Does the latest sample of the input lie between 10.8 V and 13.2 V, where it never trips (R350)? -/
def State.inputInRange (s : State) : Bool :=
  decide (10800 ≤ s.f Reg.capInput 15 0) && decide (s.f Reg.capInput 15 0 ≤ 13200)

/-- INPUT_TRIP (R350, R355), where the latest sample does not rule it out (log 87). -/
def State.inputTrip (s : State) : State :=
  if s.power.stage = .off || s.inputInRange then s else (s.aonCause 0x0703 noRail).holdDevice

/-- A thermal trip (Table 14.3), from the reading of a tile: the cause, THERMTRIP_N, and the rails off. -/
def State.thermalTrip (s : State) (sensor temp : Nat) : State :=
  if !s.vctlUp then s else
  let s := ((s.trace 0xB4 Src.clocks [sensor, temp]).aonCause 0x0900 noRail).holdDevice
  { s with power := { s.power with thermtripN := true } }

/-- BLOCKING_SWITCH_OPEN: the switch opens and BLOCK is set (R352). -/
def State.blockingSwitchOpen (s : State) : State :=
  if s.power.stage = .off then s else
  { s.setF Reg.capInputFlags 0 0 1 with power := { s.power with blockOpen := true } }

/-- RESET_ASSERT: steps 2 to 4 of Table 13.1 with no cause (R410). -/
def State.resetAssert (s : State) : State :=
  if s.power.stage = .off then { s with power := { s.power with resetLow := true } } else
  let held := s.power.stage == .held
  let s := s.deviceClear false
  { s with power := { s.power with stage := if held then .held else .waiting, resetLow := true } }

/-- RESET_RELEASE: the hold and a thermal trip's output end, and the trigger of Table 13.3 may come. -/
def State.resetRelease (s : State) : State :=
  if !s.power.resetLow then s else
  let p := { s.power with resetLow := false, thermtripN := false }
  { s with power := if p.stage = .held then { p with stage := .waiting } else p }

/-! ### Start to the boot ROM (Table 13.3) -/

/-- VAON_START: VAON is ready. The always-on registers take their reset values; the thermal-cycle registers load from
the newer copy of their record; the straps are sampled (R360, R392, R421). -/
def State.vaonStart (s : State) (straps : Nat) : State :=
  if s.power.stage ≠ .off then s else
  let s := { (s.deviceClear false) with chip := [] }
  let s := s.setReg Reg.mbI3cTgt (BitVec.ofNat 32 (0x58 + straps % 4))
  let s := { s with power := { s.power with
    stage := .waiting, oscReady := false, timeOn := false, blockOpen := false, thermtripN := false, linkDown := false, straps := straps % 4 } }
  match s.fw.nvCycles with
  | [] => s
  | r :: _ =>
    let s := (List.range 8).foldl (fun s i => s.setReg (Reg.capTcycB + 4 * i) (r.getD i 0)) s
    s.setF Reg.capTcycStat 23 0 (r.getD 8 0).toNat

/-- VAON_FALL: VAON switches off; chip time and the always-on state end (R355, R403). -/
def State.vaonFall (s : State) : State :=
  let s := { (s.deviceClear false) with chip := [], timeAcc := 0, ticks := 0, syncAt := 0, gmSet := false, fabGen := 0 }
  { s with
    mgmt := { s.mgmt with reply := none, ibis := [] }
    power := { Power.reset with resetLow := s.power.resetLow } }

/-- Group 1 starts: OSC is ready (Table 13.3 step 2). -/
def State.busStarts (s : State) : State :=
  { s.startGroup 1 with power := { s.power with stage := .bus } }

/-- STARTUP: the trigger of Table 13.3 with RESET_N released and the input in range (R361, R400). -/
def State.startup (s : State) : State :=
  if s.power.stage ≠ .waiting || s.power.resetLow then s
  else if s.power.oscReady then s.busStarts
  else { s with power := { s.power with stage := .osc } }

/-- OSC_READY: at the first readiness since VAON started chip time starts at 0; a start-up that waits goes on (R400, R403). -/
def State.oscReady (s : State) : State :=
  if s.power.oscReady || s.power.stage = .off then s else
  let s := s.setF Reg.clkStatus 0 0 1
  let s := if s.power.timeOn then s else { s with timeAcc := 0, ticks := 0, syncAt := 0, power := { s.power with timeOn := true } }
  let s := { s with power := { s.power with oscReady := true } }
  if s.power.stage = .osc then s.busStarts else s

/-- OSC_TIMEOUT: OSC is not ready 10 ms after it was enabled (R401). -/
def State.oscTimeout (s : State) : State :=
  if s.power.stage ≠ .osc then s else
  ((s.aonCause 0x0800 noRail).holdDevice).setF Reg.capStart 9 9 1

/-! ### Groups (R362 to R364) -/

/-- The columns at step 6 of Table 13.4: the recorded repairs are applied, and the columns are started and released
(R149). -/
def State.columnsReady (s : State) : State :=
  (List.range tileCount).foldl (fun s t => s.modTile t (fun x => (x.setF Reg.vatStatus 2 2 1).showRepairs)) s

/-- Boot step 8 and step 8 of Table 13.4: the mesh clock runs, zeroing of every allocation unit starts, and pair 0
becomes READY; a FREE partition's pair reads READY = 0 (R304, R362, R365, R417). -/
def State.bootEnds (s : State) : State :=
  let mhz := meshMhz (s.f Reg.clkMeshReq 10 0)
  let s := ((s.setF Reg.capStart 8 8 1).setF Reg.capStart 27 10 0x3FFFF).setF Reg.clkMeshCur 10 0 mhz
  let s := { s with power := { s.power with meshOn := true } }
  (s.modPair 0 (fun p => p.setF Reg.mbStatus 0 0 1)).stageIs 5

/-- RAIL_GROUP_READY: the latest group started reports ready, and what follows it starts (Tables 13.3 and 13.4). The
waves of groups 18 to 52 start by TILE_WAVE_START. -/
def State.railGroupReady (s : State) (g : Nat) : State :=
  if s.f Reg.capStart 5 0 ≠ g || s.f Reg.capStart 9 9 = 1 then s else
  let up := { (s.groupUp g) with power := { (s.groupUp g).power with ready := g } }
  if g = 1 then
    if s.power.stage = .bus then { up.startGroup 2 with power := { up.power with stage := .vctl } } else s
  else if g = 2 then
    if s.power.stage = .vctl then
      let up := up.railUp 1167
      { up with power := { up.power with stage := .rom, pgood := true } }.alertSync
    else s
  else if s.power.stage ≠ .rom || s.bootStage ≠ 4 || g ≤ s.power.ready then s
  else if g = 4 then up.reseedFabric.fabricStarts.startGroup 5
  else if g < 16 then up.startGroup (g + 1)
  else if g < 52 then up
  else up.bootEnds

/-- TILE_WAVE_START: wave w ramps once wave w − 1 is ready; wave 0 once the columns have started (R363, Table 13.4). -/
def State.tileWaveStart (s : State) (w : Nat) : State :=
  if 35 < w || s.power.ready ≠ 16 + w || s.f Reg.capStart 5 0 ≠ 16 + w || s.bootStage ≠ 4 || s.f Reg.capStart 9 9 = 1 then s
  else
    let s := if w = 0 then s.columnsReady else s
    s.startGroup (17 + w)

/-- The rail that a held start-up records: no rail for the intermediate bus. -/
def heldRail (g rail : Nat) : Nat := if g = 1 then noRail else rail

/-- RAIL_GROUP_TIMEOUT: the latest group started has not reported ready in 2 ms; `rail` is the lowest-numbered rail not
ready (R364). -/
def State.railGroupTimeout (s : State) (rail : Nat) : State :=
  let g := s.f Reg.capStart 5 0
  if g = 0 || g ≤ s.power.ready || s.f Reg.capStart 9 9 = 1 then s
  else if s.power.stage = .bus || s.power.stage = .vctl then
    ((s.aonCause 0x0700 (heldRail g rail)).holdDevice.setF Reg.capStart 5 0 g).setF Reg.capStart 9 9 1
  else if s.power.stage ≠ .rom || s.bootStage ≠ 4 then s
  else
    let s := (s.aonCause 0x0700 rail).log 0x0700 Src.power sevFatal chipPart [BitVec.ofNat 32 rail]
    let s := ((List.range railCount).filter (fun i => decide (i ≤ 1165))).foldl (fun s i =>
      (s.railSet i Reg.capRailStatus 0 0 0).railSet i Reg.capRailV 11 0 0) s
    let s := s.setF Reg.capStart 9 9 1
    let s := { s.fabricFalls with power := { s.power with ready := 2, meshOn := false } }
    (s.modPair 0 (fun p => p.setF Reg.mbBootStatus 31 16 0x0700)).stageIs 15

/-- The bytes of allocation unit k read as zero, its columns' and its Pail's. -/
def State.zeroUnit (s : State) (k : Nat) (vat : Bool) : State :=
  let s := (s.zeroRegion k 0).zeroRegion k 1
  if !vat then s else
  let s := { s with mem := memZero s.mem (k * 2 ^ 34) (2 ^ 34) }
  (List.range 64).foldl (fun s i => s.modTile (64 * k + i) (fun t => { t with col := { t.col with errs := [] } })) s

/-- STARTUP_ZEROING_DONE: the unit's zeroing ends and the unit is free (R365). -/
def State.startupZeroingDone (s : State) (k : Nat) : State :=
  if 18 ≤ k || s.f Reg.capStart (10 + k) (10 + k) = 0 then s
  else (s.zeroUnit k true).setF Reg.capStart (10 + k) (10 + k) 0

/-! ### The intermediate bus (R354) -/

/-- A tile's grant in force. -/
def Tile.grant (t : Tile) : Nat := t.f Reg.capTileGrant 6 0

/-- BUS_LOW: every issue slot is withheld. -/
def State.busLow (s : State) : State :=
  if !s.power.meshOn || s.power.busLow then s else
  let s := s.setF Reg.capInputFlags 2 2 1
  { s with
    power := { s.power with busLow := true }
    tiles := tabMap tileD (fun t => t.setF Reg.capTileGrant 6 0 0) s.tiles }

/-- BUS_RECOVER: the backstop ends. -/
def State.busRecover (s : State) : State := { s with power := { s.power with busLow := false } }

/-! ### References (R402) -/

/-- REF_LOSS: 0 OSC, 1 PCIE_REFCLK, 2 FAB_REFCLK (Table 15.3). -/
def State.pcieDown (s : State) : State :=
  if s.f Reg.mbPcieStat 9 9 = 0 then s else
  let s := ((s.setF Reg.mbPcieStat 9 9 0).setF Reg.mbPcieStat 8 0 0).count Reg.mbPcieStat 31 16 1
  let s := { s with power := { s.power with linkDown := true } }
  s.logOpen 0x0A03 Src.hostIf chipPart

def State.refLoss (s : State) (ref : Nat) : State :=
  if s.power.stage = .off || 2 < ref || s.f Reg.clkStatus ref ref = 0 then s else
  let s := (s.setF Reg.clkStatus ref ref 0).setF Reg.clkStatus 31 31 1
  let sev := if ref = 2 then sevWarn else Config.logSeverity 0x0801 % 5
  let s := if s.vctlUp then s.log 0x0801 Src.clocks sev chipPart [BitVec.ofNat 32 ref] else s
  match ref with
  | 0 =>
    let s := (s.aonCause 0x0801 noRail).alertSync.holdDevice
    { s with power := { s.power with oscReady := false } }
  | 1 => s.pcieDown.alertSync
  | _ => (s.setF Reg.clkStatus 3 3 1).alertSync

/-- REF_RESTORE: ten consecutive windows within ±3 %. A lost OSC is restored without ending the hold (Table 15.3). -/
def State.refRestore (s : State) (ref : Nat) : State :=
  if s.power.stage = .off || 2 < ref then s
  else if ref = 0 then (if s.power.timeOn then s.oscReady else s)
  else s.setF Reg.clkStatus ref ref 1

/-! ### Mesh frequency (R399) -/

/-- A frequency change starts. -/
def State.meshStarts (s : State) (req : Nat) : State :=
  let mhz := meshMhz req
  let rise := decide (s.f Reg.clkMeshCur 10 0 < mhz)
  let s := s.setF Reg.clkMeshCur 31 31 1
  let s := { s with power := { s.power with change := .locking mhz } }
  if rise then s.tileRailsMove else s

/-- MESH_FREQ_CHANGE: a write to CLK_MESH_REQ, which Root applies. A request during a change waits, and only the latest is applied. -/
def State.meshFreqChange (s : State) (val : Word) : State :=
  let req := fld val 10 0
  let s := s.setF Reg.clkMeshReq 10 0 req
  if !s.power.meshOn || !s.rootUp then s
  else if s.power.change = .none then s.meshStarts req
  else { s with power := { s.power with nextMhz := some req } }

/-- A change ends: CLK_MESH_CUR takes the new value, CHANGING clears, and a request that waits is applied. -/
def State.meshEnds (s : State) (mhz : Nat) : State :=
  let s := (s.setF Reg.clkMeshCur 10 0 mhz).setF Reg.clkMeshCur 31 31 0
  let next := s.power.nextMhz
  let s := { s with power := { s.power with change := .none, nextMhz := none } }
  match next with
  | some req => s.meshStarts req
  | none => s

/-- The mesh clock has been stopped for a change: at most 0.5 µs of the chip time that has passed (R399; log 81). -/
def State.meshStopped (s : State) : State :=
  { s with meshStop := s.meshStop + Config.freeValue s.freeCount 0 % 501, freeCount := s.freeCount + 1 }

/-- MESH_CLOCK_SWITCH: the mesh runs at the new frequency; on a fall the rails now start down. -/
def State.meshClockSwitch (s : State) : State :=
  match s.power.change with
  | .locking mhz =>
    let s := s.meshStopped
    if mhz < s.f Reg.clkMeshCur 10 0 then
      { s with power := { s.power with change := .falling mhz } }.tileRailsMove
    else s.meshEnds mhz
  | _ => s

/-- MESH_CHANGE_END: on a fall the rails have reached their lower voltages. -/
def State.meshChangeEnd (s : State) : State :=
  match s.power.change with
  | .falling mhz => s.meshEnds mhz
  | _ => s

/-! ### Calibration and the rail model (R367, R368) -/

/-- R_run in 2^-12 µΩ after one slot's measurement r (µΩ) at a die temperature (1/16 °C): normalised to 25 °C and
averaged over 64; the rounding of the last place is free (log 48). -/
def runNext (run r temp draw : Nat) : Nat :=
  let den : Int := 160000 + 39 * ((temp : Int) - 400)
  let num : Int := (r : Int) * 160000 * 4096
  let r25 : Int := if den ≤ 0 then run else num / den
  let step : Int := r25 - run
  ((run : Int) + step / 64 + (if step % 64 = 0 ∧ num % den = 0 then 0 else (Config.freeValue draw 0 % 2 : Nat))).toNat

/-- A rail whose droop first exceeds the model after start-up is marked (R368). -/
def State.suspect (s : State) (i base run : Nat) : State :=
  let s := s.railSet i Reg.capRailStatus 1 1 1
  let n := s.power.suspects.length + 1
  let s := s.setReg Reg.capConnLast (BitVec.ofNat 32 (i + 2 ^ 16 * (n % 2 ^ 11) + 2 ^ 31))
  let s := { s with
    power := { s.power with suspects := insertNat i s.power.suspects }
    fw := { s.fw with suspects := s.fw.suspects ++ [Suspect.mk i base run s.time] } }
  let s := s.log 0x0701 Src.power sevWarn chipPart [BitVec.ofNat 32 i, BitVec.ofNat 32 base, BitVec.ofNat 32 run]
  (s.trace 0xA3 Src.power [i]).alertSync

/-- CAL_OFS after a comparison of the critical-path monitors. -/
def calOfs (ofs : Int) : Margin → Int
  | .short => min 6 (ofs + 1)
  | .ok => ofs
  | .above => max (-6) (ofs - 1)

/-- RAIL_CAL_SLOT. -/
def State.railCalSlot (s : State) (i r temp : Nat) (m : Margin) : State :=
  if railCount ≤ i || s.f Reg.capCalCfg 0 0 = 0 || fld (s.railReg i Reg.capRailStatus) 0 0 = 0 then s else
  let run := runNext (tabGet natD s.power.runFrac i) r temp s.freeCount
  let base := fld (s.railReg i Reg.capRailR) 15 0
  let s := { s with power := { s.power with runFrac := tabSet natD s.power.runFrac i run }, freeCount := s.freeCount + 1 }
  let uo := min 0xFFFF (run / 4096)
  let s := s.railSet i Reg.capRailR 31 16 uo
  let thr := max (s.f Reg.capConnCfg 5 0 * base * 4096) (64 * s.f Reg.capConnCfg 23 8 * 4096)
  let s := if thr + 64 * base * 4096 ≤ 64 * run && !s.power.suspects.contains i then s.suspect i base uo else s
  if i < tileCount then
    let ofs := toSigned 4 (fld (s.railReg i Reg.capRailStatus) 7 4)
    (s.railSet i Reg.capRailStatus 7 4 (ofSigned 4 (calOfs ofs m))).railMove i
  else s

end Sys2Proof.Machine
end

