-- ==== Sys2Proof/Machine/Cap.lean ====
section
/-!
DEFINITION. Machine/Cap.lean: the cap controller's loops (R371 to R376, R379), the outside budget (R380 to R383),
temperatures (R384, R385), cooling (R387 to R389, R426 to R428) and the thermal-cycle counters (R390, R391).
-/

namespace Sys2Proof.Machine

/-! ### Grants (R371) -/

/-- G of partition n in a phase; values above 64 act as 64 (Table 14.7). -/
def Part.grantLimit (p : Part) (ph : Nat) : Nat :=
  min 64 (if ph < 4 then p.f Reg.capPartGrant0 (8 * ph + 6) (8 * ph) else p.f Reg.capPartGrant1 6 0)

/-- D of partition n in a phase, in mW. -/
def Part.demand (p : Part) (ph : Nat) : Nat := p.f (Reg.capDemand + 4 * ph) 15 0

/-- The grant a tile is to have: min(64 × f, G, RAIL, THERM); 0 for a tile without a partition and while the bus
backstop acts. -/
def State.wantGrant (s : State) (t : Nat) : Nat :=
  match s.tileOwner t with
  | none => 0
  | some n =>
    if s.power.busLow then 0 else
    let x := s.tile t
    min (min (s.f Reg.capCtrl 6 0) ((s.part n).grantLimit (s.phase n))) (min (x.f Reg.capTileGrant 14 8) (x.f Reg.capTileGrant 22 16))

/-- The demand of a tile in its partition's phase, in mW at full grant. -/
def State.tileDemand (s : State) (t : Nat) : Nat :=
  match s.tileOwner t with
  | none => 0
  | some n => (s.part n).demand (s.phase n)

/-- What the slew loop works on for one tile: its number, D, the grant after the falls that R374 exempts, and the grant
it is to have. -/
structure SlewTile where
  t    : Nat
  d    : Nat
  now  : Nat
  want : Nat
  deriving DecidableEq, Repr

/-- Every tile's. -/
def State.slewTiles (s : State) : List SlewTile :=
  (List.range tileCount).map (fun t =>
    let x := s.tile t
    let exempt := if s.power.busLow then 0 else min (x.f Reg.capTileGrant 14 8) (x.f Reg.capTileGrant 22 16)
    ⟨t, s.tileDemand t, min x.grant exempt, s.wantGrant t⟩)

/-- The sum of D × N under a choice of N. -/
def demandSum (l : List SlewTile) (f : SlewTile → Nat) : Nat := (l.map (fun x => x.d * f x)).sum

/-- Moves of the tiles of a list toward `goal` from `base`, as far as a shared allowance (mW in 64ths) lets: which tile
moves first, and how far, the spec leaves open (log 49). -/
def shareMoves (draw : Nat) (base goal : SlewTile → Nat) : Nat → List SlewTile → List (Nat × Nat)
  | _, [] => []
  | room, x :: l =>
    let step := min (goal x - base x) (Config.freeValue draw x.t)
    let step := if x.d = 0 then goal x - base x else min step (room / x.d)
    (x.t, base x + step) :: shareMoves draw base goal (room - x.d * step) l

/-- Falls of the tiles of a list, from `base` toward `goal`, alike. -/
def shareFalls (draw : Nat) (base goal : SlewTile → Nat) : Nat → List SlewTile → List (Nat × Nat)
  | _, [] => []
  | room, x :: l =>
    let step := min (base x - goal x) (Config.freeValue draw x.t)
    let step := if x.d = 0 then base x - goal x else min step (room / x.d)
    (x.t, base x - step) :: shareFalls draw base goal (room - x.d * step) l

/-- Falls that a sum above its bound makes necessary: each tile gives what is left excess, in turn. -/
def forceFalls (base : SlewTile → Nat) : Nat → List SlewTile → List (Nat × Nat)
  | _, [] => []
  | excess, x :: l =>
    let step := if x.d = 0 then 0 else min (base x) (ceilDiv excess x.d)
    (x.t, base x - step) :: forceFalls base (excess - x.d * step) l

/-- The grants of the next interval and whether a rise was held back (R374): rises and falls of the sum from the last
interval's are at most `bound`, but for the falls of the rail loop, the thermal loop and the backstop. -/
def slewGrants (draw last bound : Nat) (l : List SlewTile) : List (Nat × Nat) × Bool :=
  let want := demandSum l (·.want)
  let start := demandSum l (·.now)
  let low := demandSum l (fun x => min x.now x.want)
  let high := demandSum l (fun x => max x.now x.want)
  let least := min last start - bound
  if last + bound < want then
    if last + bound < low then (forceFalls (fun x => min x.now x.want) (low - (last + bound)) l, true)
    else (shareMoves draw (fun x => min x.now x.want) (·.want) (last + bound - low) l, true)
  else if want < least then
    let r := shareFalls draw (fun x => max x.now x.want) (·.want) (high - least) l
    let sum := demandSum l (fun x => tabGet natD r x.t)
    (if last + bound < sum then forceFalls (fun x => tabGet natD r x.t) (sum - (last + bound)) l else r, false)
  else (l.map (fun x => (x.t, x.want)), false)

/-- A tile's grant is set. -/
def State.setGrant (s : State) (p : Nat × Nat) : State := s.modTile p.1 (fun t => t.setF Reg.capTileGrant 6 0 p.2)

/-- The budget tick's account of a partition's grants. -/
def State.sampleGrants (s : State) (n : Nat) : State :=
  if s.partState n = 0 then s else
  let sum := ((s.tilesOf n).map (fun t => (s.tile t).grant)).sum
  s.modSys n (fun x => { x with ph := { x.ph with grants := x.ph.grants + sum, samples := x.ph.samples + 1 } })

/-- Emax in pJ (R375). -/
def State.emax (s : State) : Nat := (s.f Reg.capEnvelope 10 0 - 900) * s.f Reg.capEnvelope 22 16 * 10 ^ 6

/-- SLEW_LOOP_TICK: the input monitor's sample of 1 µs (mV, mA), the bucket, and the grants of the next interval
(R374, R375). A fall of the sum beyond the bound makes the bleed act (R354). -/
def State.slewLoopTick (s : State) (vin iin : Nat) : State :=
  if s.power.stage = .off then s else
  let s := s.setReg Reg.capInput (BitVec.ofNat 32 (min 0xFFFF vin + 2 ^ 16 * min 0xFFFF (iin / 10)))
  if !s.power.meshOn then s else
  let p1 : Int := (vin * iin : Nat)
  let b : Int := (s.f Reg.capBudgetStat 9 0 * 10 ^ 6 : Nat)
  let e := (max 0 (min (s.emax : Int) ((s.cap.bucket : Int) + b - p1))).toNat
  let l := s.slewTiles
  let r := slewGrants s.freeCount s.cap.lastSum (2 * vin * 64) l
  let s := r.1.foldl State.setGrant s
  let sum := demandSum l (fun x => (s.tile x.t).grant)
  let s := if sum + 2 * vin * 64 < s.cap.lastSum then s.setF Reg.capInputFlags 1 1 1 else s
  let s := (s.setF Reg.capCtrl 23 8 (e / 10 ^ 6)).setF Reg.capCtrl 24 24 (b2n r.2)
  let s := { s with cap := { s.cap with bucket := e, lastSum := sum }, freeCount := s.freeCount + 1 }
  (List.range 16).foldl State.sampleGrants s

/-! ### The rail loop (R372, R373) -/

/-- RAIL_LOOP_TICK: one sample of a tile rail's current in mA. Each sample that ends eight makes a window of 2 µs (log
88). The voltage at the sense point is a measurement, free here (log 47). -/
def State.railLoopTick (s : State) (t ma : Nat) : State :=
  if tileCount ≤ t || (s.tile t).f Reg.capRailStatus 0 0 = 0 then s else
  let x := s.tile t
  let l := ((ma, 0) :: x.railSamples).take 8
  let sum := (l.map (·.1)).sum
  let last := l.take 4
  let lim := s.f Reg.capTileLimit 10 0
  let rail := x.f Reg.capTileGrant 14 8
  let rail' := if lim * 15 * l.length < 16 * sum then rail - 16
    else if 16 * sum < lim * 13 * l.length then min 64 (rail + 1) else rail
  let excess := decide (8 ≤ l.length) && decide (lim * l.length < sum) && rail == 0
  let x := { x with railSamples := l }
  let x := (x.setF Reg.capRailI 19 0 ((last.map (·.1)).sum / last.length)).setF Reg.capRailV 27 16 (Config.freeValue s.freeCount 0)
  let x := x.setF Reg.capTileGrant 14 8 rail'
  let x := if rail' < x.grant then x.setF Reg.capTileGrant 6 0 rail' else x
  let first := excess && x.reg Reg.capTileLimcnt == 0
  let x := if excess then x.count Reg.capTileLimcnt 31 0 1 else x
  let s := { s.setTile t x with freeCount := s.freeCount + 1 }
  let part := (s.tileOwner t).getD chipPart
  let s := if rail = 64 ∧ rail' < 64 then s.trace 0xA2 Src.power [t] else s
  if first then s.log 0x0702 Src.power sevWarn part [BitVec.ofNat 32 t] else s

/-! ### The budget loop (R376, R379) -/

/-- The tiles a partition owns. -/
def State.tileNum (s : State) (n : Nat) : Nat :=
  64 * ((List.range 18).filter (fun k => s.ownsUnit n k)).length

/-- n(p) × D[p][ph] × g(p, x) in mW 64ths, with G of the phase in which g is taken. -/
def State.share (s : State) (n dph gph x : Nat) : Nat :=
  s.tileNum n * (s.part n).demand dph * min x ((s.part n).grantLimit gph)

/-- The common fraction f in 64ths, and whether it meets the limit; pin and lim in mW 64ths. -/
def State.newF (s : State) (pin lim fOld : Nat) : Nat × Bool :=
  let base : Int := (pin : Int) - (((List.range 16).map (fun n => s.share n (s.sys n).ph.tickPh (s.sys n).ph.tickPh fOld)).sum : Nat)
  let fits := fun (f : Nat) => decide (base + (((List.range 16).map (fun n => s.share n (s.phase n) (s.phase n) f)).sum : Nat) ≤ (lim : Int))
  match ((List.range 65).reverse).find? fits with
  | some f => (f, true)
  | none => (0, false)

/-- The update of a learned demand: D + (d − D) ÷ 8, whose rounding is free (R379; log 50). -/
def learn (d0 d draw n : Nat) : Nat :=
  let diff : Int := (d : Int) - d0
  min 0xFFFF ((d0 : Int) + diff / 8 + (if diff % 8 = 0 then 0 else (Config.freeValue draw n % 2 : Nat))).toNat

/-- The end of a budget tick for partition n: D is updated if its phase held and its mean grant was at least 1/2. -/
def State.learnDemand (s : State) (conv draw n pow : Nat) : State :=
  let r := (s.sys n).ph
  let tiles := s.tileNum n
  let g := if r.samples = 0 then 0 else r.grants
  let whole := r.samples * tiles * 64
  let s :=
    if s.partState n ≠ 0 ∧ !r.moved ∧ 0 < g ∧ whole ≤ 2 * g then
      s.modPart n (fun p => p.put (Reg.capDemand + 4 * s.phase n)
        (learn (p.demand (s.phase n)) (pow * conv * whole / (4096 * g)) draw n))
    else s
  s.modSys n (fun x => { x with ph := { x.ph with tickPh := s.phase n, moved := false, grants := 0, samples := 0 } })

/-- BUDGET_LOOP_TICK: the mean input power of 10 µs in mW, each partition's mean rail power per tile in mW, and CONV in
4,096ths. -/
def State.budgetLoopTick (s : State) (pin : Nat) (railPower : List Nat) (conv : Nat) : State :=
  if !s.power.meshOn then s else
  let hist := (pin :: s.cap.pinHist).take 100
  let s := ((s.setF Reg.capPkgPower 11 0 (pin / 1000)).setF Reg.capPkgPower 27 16 (hist.sum / hist.length / 1000)).setF
    Reg.capConv 15 0 conv
  let s := { s with cap := { s.cap with pinHist := hist } }
  let lim := if 0 < s.cap.bucket then s.f Reg.capEnvelope 10 0 else s.f Reg.capBudgetStat 9 0
  let r := s.newF (64 * pin) (64 * 1000 * lim) (s.f Reg.capCtrl 6 0)
  let s := s.setF Reg.capCtrl 6 0 r.1
  let s := if r.2 then s else s.setF Reg.capBudgetStat 30 30 1
  let draw := s.freeCount
  let s := { s with freeCount := s.freeCount + 1 }
  (List.range 16).foldl (fun s n => s.learnDemand conv draw n (railPower.getD n 0)) s

/-! ### The outside budget (R380 to R383) -/

/-- The selected source: 3 acts as 0. -/
def State.budgetSrc (s : State) : Nat := s.f Reg.capBudgetCfg 1 0 % 3

/-- FLOOR, of which less than 200 W acts as 200 W, and more than 900 W as 900 W (log 89). -/
def State.budgetFloor (s : State) : Nat := min 900 (max 200 (s.f Reg.capBudgetReq 25 16))

/-- The request of a source in W. -/
def State.budgetReq (s : State) (src : Nat) : Nat :=
  if src = 1 then min 900 (s.f Reg.capBudgetPin 9 0 - 50) else if src = 2 then s.f Reg.capBudgetI3c 9 0
  else s.f Reg.capBudgetReq 9 0

/-- Is a source lost? -/
def State.budgetLost (s : State) (src : Nat) : Bool := (src == 1 && s.cap.pinLost) || (src == 2 && s.cap.i3cLost)

/-- RAMP, of which less than 10 acts as 10. -/
def State.budgetRamp (s : State) : Nat := max 10 (s.f Reg.capBudgetCfg 13 4)

/-- The target moves; a step that RAMP stretches beyond 10 ms is logged (R381). -/
def State.setTarget (s : State) (w : Nat) : State :=
  if s.f Reg.capBudgetStat 25 16 = w then s else
  let inforce := s.f Reg.capBudgetStat 9 0
  let s := (s.setF Reg.capBudgetStat 25 16 w).setF Reg.capBudgetStat 29 29 (if inforce = w then 0 else 1)
  let s := s.trace 0xA0 Src.power [w]
  if s.budgetRamp < 80 ∧ 10 * s.budgetRamp < (w - inforce) + (inforce - w) then s.logSev 0x0704 Src.power sevWarn chipPart
  else s

/-- The selected source is found lost: LOST, the log record, and the start of the hold (R383). -/
def State.lostNow (s : State) : State :=
  if s.cap.lostOn then s else
  let s := { s with cap := { s.cap with expired := false, lostAt := s.time, lostOn := true } }
  (s.setF Reg.capBudgetStat 28 28 1).logSev 0x0705 Src.power sevError chipPart

/-- The target follows the selected source; while that is lost it holds, and after HOLD_MS it is FLOOR (R380, R383). -/
def State.retarget (s : State) : State :=
  let src := s.budgetSrc
  if s.budgetLost src then
    let s := s.lostNow
    if s.cap.expired then s.setTarget s.budgetFloor else s
  else
    let s := { s.setF Reg.capBudgetStat 28 28 0 with cap := { s.cap with expired := false, lostOn := false } }
    s.setTarget (max s.budgetFloor (min 900 (s.budgetReq src)))

/-- A source is lost, the selected one or another (R383). -/
def State.sourceLost (s : State) (src : Nat) : State := if s.budgetSrc ≠ src then s else s.retarget.alertSync

/-- Have ns nanoseconds of chip time passed since a moment? -/
def State.passed (s : State) (since ns : Nat) : Bool := decide (ns ≤ (s.time + 2 ^ 64 - since) % 2 ^ 64)

/-- BUDGET_RAMP_TICK: in one millisecond the budget in force moves by at most RAMP toward the target (R381). -/
def State.budgetRampTick (s : State) : State :=
  if !s.vctlUp then s else
  let b := s.f Reg.capBudgetStat 9 0
  let t := s.f Reg.capBudgetStat 25 16
  let b' := if b < t then min t (b + s.budgetRamp) else max t (b - s.budgetRamp)
  (s.setF Reg.capBudgetStat 9 0 b').setF Reg.capBudgetStat 29 29 (if b' = t then 0 else 1)

/-- A mean of duty values in per mille; the rounding is free (R382; log 51). -/
def dutyMean (l : List Nat) (draw : Nat) : Nat :=
  let den := l.length * 2 ^ 20
  l.sum / den + (if l.sum % den = 0 then 0 else Config.freeValue draw 0 % 2)

/-- BUDGET_PIN_PERIOD: one period of the pin pair, in ns (R382, R383). -/
def State.budgetPinPeriod (s : State) (period high : Nat) (complementOk : Bool) : State :=
  if !s.vctlUp then s else
  let valid := decide (45000 ≤ period) && decide (period ≤ 55000) && complementOk &&
    decide (20 * period ≤ 1000 * high) && decide (1000 * high ≤ 980 * period)
  if !valid then
    let s := s.count Reg.capBudgetPin 31 16 1
    { s with cap := { s.cap with badRun := s.cap.badRun + 1 } }
  else
    let duties := (high * 1000 * 2 ^ 20 / period :: s.cap.duties).take 16
    let good := s.cap.goodRun + 1
    let lost := s.cap.pinLost && decide (good < 4)
    let s := s.setF Reg.capBudgetPin 9 0 (dutyMean duties s.freeCount)
    let s := { s with
      freeCount := s.freeCount + 1
      cap := { s.cap with duties := duties, badRun := 0, pinAt := s.time, goodRun := if lost then good else 0, pinLost := lost } }
    s.retarget.alertSync

/-- BUDGET_PIN_LOSS: 20 consecutive periods, or 1 ms of a still pair, without a valid one (R383). -/
def State.budgetPinLoss (s : State) : State :=
  if !s.vctlUp || s.cap.pinLost || !(decide (20 ≤ s.cap.badRun) || s.passed s.cap.pinAt 1000000) then s else
  { s with cap := { s.cap with pinLost := true, goodRun := 0 } }.sourceLost 1

/-- BUDGET_I3C_LOSS: 10 s without a write (R383). -/
def State.budgetI3cLoss (s : State) : State :=
  if !s.vctlUp || s.cap.i3cLost || !s.passed s.cap.i3cAt 10000000000 then s else { s with cap := { s.cap with i3cLost := true } }.sourceLost 2

/-- BUDGET_HOLD_EXPIRY: HOLD_MS after the loss the target becomes FLOOR (R383). -/
def State.budgetHoldExpiry (s : State) : State :=
  if !s.vctlUp || !s.budgetLost s.budgetSrc || s.cap.expired ||
      !s.passed s.cap.lostAt (1000000 * s.f Reg.capBudgetCfg 31 16) then s else
  ({ s with cap := { s.cap with expired := true } } : State).retarget

/-- The I3C request is written (R380, R383). -/
def State.i3cBudget (s : State) (w : Nat) : State :=
  let s := s.setF Reg.capBudgetI3c 9 0 w
  (({ s with cap := { s.cap with i3cLost := false, i3cAt := s.time } } : State).retarget).alertSync

/-! ### Temperatures (R384 to R386) -/

/-- A limit of CAP_THERM_CFG in 1/16 °C, clamped (Table 14.2). -/
def State.thermLimit (s : State) (lo top : Nat) : Nat := 16 * min top (s.f Reg.capThermCfg (lo + 7) lo)

/-- The hottest reading of a field of CAP_TILE_TEMP, and its tile, the lowest of equals. -/
def State.hottest (s : State) (hi lo : Nat) : Nat × Nat :=
  s.tiles.foldl (fun b p => if b.1 < p.2.f Reg.capTileTemp hi lo then (p.2.f Reg.capTileTemp hi lo, p.1) else b) (0, 0)

/-- CAP_THERM_STAT and CAP_THERM_WHERE follow the readings. -/
def State.thermSync (s : State) : State :=
  let d := s.hottest 11 0
  let v := s.hottest 27 16
  let layers := (s.tile v.2).layerTemps
  let layer := (List.range 12).find? (fun i => layers.getD i 0 == v.1)
  let s := (s.setF Reg.capThermStat 11 0 d.1).setF Reg.capThermStat 27 16 v.1
  ((s.setF Reg.capThermWhere 10 0 d.2).setF Reg.capThermWhere 26 16 v.2).setF Reg.capThermWhere 30 27 (layer.getD 0)

/-- A reading that first reaches its warning limit (R385). -/
def State.thermWarn (s : State) (t old new lim : Nat) : State :=
  if old < lim ∧ lim ≤ new then
    let s := s.setF Reg.capThermStat 30 30 1
    (s.logSev 0x0901 Src.clocks sevWarn ((s.tileOwner t).getD chipPart)).alertSync
  else s

/-- DIE_TEMP_READ: a die reading in 1/16 °C; a second consecutive one at or above 115 °C trips (R384 to R386). -/
def State.dieTempRead (s : State) (t temp : Nat) : State :=
  if tileCount ≤ t || !s.vctlUp then s else
  let x := s.tile t
  let temp := min 0xFFF temp
  let hot := decide (16 * 115 ≤ temp)
  let s' := s.setTile t { x.setF Reg.capTileTemp 11 0 temp with tripSeen := hot }
  let s' := s'.thermSync.thermWarn t (x.f Reg.capTileTemp 11 0) temp (s.thermLimit 0 110)
  if hot && x.tripSeen then s'.thermalTrip t temp else s'

/-- HOT after a column's readings: set above 85 °C in any layer, cleared once every layer reads below 80 °C (R143). -/
def nextHot (hot : Nat) (layers : List Nat) : Nat :=
  if layers.any (fun l => decide (16 * 85 < l)) then 1
  else if layers.all (fun l => decide (l < 16 * 80)) then 0 else hot

/-- VAT_TEMP_READ: the twelve layers above a tile, in 1/16 °C; the hottest of them is the tile's Vat reading (R384). -/
def State.vatTempRead (s : State) (t : Nat) (layers : List Nat) : State :=
  if tileCount ≤ t || !s.vctlUp then s else
  let x := s.tile t
  let ls := (List.range 12).map (fun i => min 0xFFF (layers.getD i 0))
  let top := ls.foldl max 0
  let hot := nextHot (x.f Reg.vatStatus 0 0) ls
  let over105 := ls.map (fun l => decide (16 * 105 ≤ l))
  let y := (x.setF Reg.capTileTemp 27 16 top).setF Reg.vatStatus 0 0 hot
  let s' := s.setTile t { y with layerTemps := ls, vatTripSeen := over105 }
  let s' := if hot ≠ x.f Reg.vatStatus 0 0 then s'.trace 0xB0 Src.clocks [t, top] else s'
  let s' := s'.thermSync.thermWarn t (x.f Reg.capTileTemp 27 16) top (s.thermLimit 16 100)
  if over105.any id && x.vatTripSeen.any id then s'.thermalTrip t top else s'

/-- THERMAL_LOOP_TICK: THERM falls by 4 while a reading is at or above its throttle limit, and rises by 4 once both are
3 K below (R385). -/
def State.thermalLoopTick (s : State) (t : Nat) : State :=
  if tileCount ≤ t || !s.vctlUp then s else
  let x := s.tile t
  let die := x.f Reg.capTileTemp 11 0
  let vat := x.f Reg.capTileTemp 27 16
  let ld := s.thermLimit 8 110
  let lv := s.thermLimit 24 100
  let th := x.f Reg.capTileGrant 22 16
  let th' := if ld ≤ die ∨ lv ≤ vat then max 8 (th - 4)
    else if die + 48 ≤ ld ∧ vat + 48 ≤ lv then min 64 (th + 4) else th
  let x := x.setF Reg.capTileGrant 22 16 th'
  let x := if th' < x.grant then x.setF Reg.capTileGrant 6 0 th' else x
  let s := s.setTile t x
  s.setF Reg.capThermStat 29 29 (b2n (s.tiles.any (fun p => decide (p.2.f Reg.capTileGrant 22 16 < 64))))

/-! ### Cooling (R387 to R389, R426 to R428) -/

/-- CRC-8 of SMBus packet error checking is an operand: `pecOk`. The raw value of a sensor's two bytes (R426). -/
def State.rawValue (s : State) (n : Nat) (b0 b1 : Byte) : Int :=
  let c := s.reg (Reg.capCoolSens + 4 * n)
  let v := if bit c 16 then b0.toNat * 256 + b1.toNat else b1.toNat * 256 + b0.toNat
  if bit c 17 then toSigned 16 v else v

/-- The stored value of a sensor. -/
def State.sensorValue (s : State) (n : Nat) (b0 b1 : Byte) : Int :=
  let x := s.reg (Reg.capCoolXfm + 4 * n)
  s.rawValue n b0 b1 * toSigned 16 (fld x 15 0) / 4096 + toSigned 16 (fld x 31 16)

/-- A consecutive count. -/
def runOf (b : Bool) (n : Nat) : Nat := if b then n + 1 else 0

/-- The twos-complement code of a stored value in its register field. -/
def storeTemp (v : Int) (w : Nat) : Nat := ofSigned w v

/-- The unit of the heat: Q is FLOW × CV × (TOUT − TIN) × SHARE of it, of the stored units of R426. -/
abbrev heatUnit : Nat := 100 * 60 * 16 * 256

/-- RATIO of sums of as many Qs (in 1/heatUnit W) and Ps (in mW), in 256ths (R388). -/
def ratioOf (q : Int) (p : Nat) : Nat := if p = 0 then 0 else min 255 (q.toNat * 256 * 1000 / (heatUnit * p))

/-- RTH in mK/W, truncated: the sum of every tile's die temperature, TIN (1/16 °C), and n Ps' sum in mW (R388). -/
def rthOf (dies : Nat) (tin : Int) (p n : Nat) : Int :=
  if p = 0 then 0 else (((dies : Int) - tileCount * tin) * (1000000 * n : Nat)).tdiv ((16 * tileCount * p : Nat) : Int)

/-- The heat, the ratios and the degraded flags of one complete reading: TIN, TOUT in 1/16 °C and FLOW in 0.01 L/min
(R388, R389). P is the mean input power over 1 ms (log 90). -/
def State.heat (s : State) (tin tout flow : Int) : State :=
  let c := s.cap
  let heatHist := (flow * (s.f Reg.capCoolCfg 31 16 : Nat) * (tout - tin) * (s.f Reg.capCoolShare 8 0 : Nat) :: c.heatHist).take 60
  let pkgHist := (s.f Reg.capPkgPower 27 16 * 1000 :: c.pkgHist).take 60
  let n := pkgHist.length
  let q := heatHist.sum
  let p := pkgHist.sum
  let s := (s.setF Reg.capCoolHeat 11 0 (q.toNat / (heatUnit * n))).setF Reg.capCoolHeat 27 16 (p / (1000 * n))
  let dies := ((List.range tileCount).map (fun t => (s.tile t).f Reg.capTileTemp 11 0)).sum
  let rth := rthOf dies tin p n
  let meas := decide (200000 * n ≤ p)
  let ratio := ratioOf q p
  let s := if meas then (s.setF Reg.capCoolStat 7 0 ratio).setF Reg.capCoolStat 15 8 (min 255 rth.toNat) else s
  let lowR := runOf (meas && decide (ratio < s.f Reg.capCoolLim 7 0)) c.lowRatio
  let highR := runOf (meas && decide (((s.f Reg.capCoolLim 15 8 : Nat) : Int) < rth)) c.highRth
  let lowF := runOf (decide (flow < ((s.f Reg.capCoolLim 31 24 : Nat) : Int))) c.lowFlow
  let highO := runOf (decide (((16 * s.f Reg.capCoolLim 23 16 : Nat) : Int) < tout)) c.highOut
  let s := { s with cap := { c with
    heatHist := heatHist, pkgHist := pkgHist, lowRatio := lowR, highRth := highR, lowFlow := lowF, highOut := highO } }
  let cause := b2n (decide (60 ≤ lowR)) + 2 * b2n (decide (60 ≤ highR)) + 4 * b2n (decide (5 ≤ lowF)) + 8 * b2n (decide (5 ≤ highO))
  let old := s.f Reg.capCoolStat 27 24
  if cause = 0 || (old ||| cause == old && s.f Reg.capCoolStat 28 28 == 1) then s else
  let s := (s.setF Reg.capCoolStat 27 24 (old ||| cause)).setF Reg.capCoolStat 28 28 1
  (((s.logSev 0x0902 Src.clocks sevError chipPart).trace 0xB2 Src.clocks [cause])).alertSync

/-- A reading of all three sensors is over: values are stored, failures counted; until a sensor has failed three times in a
row, the heat calculation goes on with its latest value (R387; log 90). -/
def State.readingEnds (s : State) (vals : List (Option Int)) : State :=
  let s := { s with mgmt := { s.mgmt with reading := none } }
  let s := (List.range 3).foldl (fun s n =>
    match vals.getD n none with
    | some v =>
      let s := { s with cap := { s.cap with fails := tabSet natD s.cap.fails n 0 } }
      if n = 0 then s.setF Reg.capCoolTemp 11 0 (storeTemp v 12)
      else if n = 1 then s.setF Reg.capCoolTemp 27 16 (storeTemp v 12)
      else s.setF Reg.capCoolFlow 15 0 (storeTemp v 16)
    | none =>
      let k := tabGet natD s.cap.fails n + 1
      let s := { s with cap := { s.cap with fails := tabSet natD s.cap.fails n k } }
      if k = 3 then
        let s := { s.setF Reg.capCoolStat 29 29 1 with cap := { s.cap with paused := true } }
        (s.logSev 0x0903 Src.clocks sevError chipPart).alertSync
      else s) s
  let s := s.trace 0xB3 Src.clocks ((List.range 3).map (fun n => ((vals.getD n none).getD 0).toNat))
  let s := if (List.range 3).all (fun n => (vals.getD n none).isSome) then { s with cap := { s.cap with paused := false } } else s
  if s.cap.paused then s else
  s.heat ((vals.getD 0 none).getD (s.f Reg.capCoolTemp 11 0 : Nat)) ((vals.getD 1 none).getD (s.f Reg.capCoolTemp 27 16 : Nat))
    ((vals.getD 2 none).getD (s.f Reg.capCoolFlow 15 0 : Nat))

/-- One answer of the sensor that the reading has come to. After a third loss of arbitration within the reading the
sensor fails; after an earlier one the port waits for its backoff, and SENSOR_RETRY goes on (R426 to R428). -/
def State.sensorStep (s : State) (r : Reading) : SensorResult → State × Option Reading
  | .data b0 b1 pecOk =>
    let ok := pecOk || !bit (s.reg (Reg.capCoolSens + 4 * r.sensor)) 18
    (s, some ⟨r.sensor + 1, 0, r.vals ++ [if ok then some (s.sensorValue r.sensor b0 b1) else none]⟩)
  | .nack =>
    ((s.count Reg.mbI3cStat 31 16 1).logOpen 0x0A01 Src.hostIf chipPart, some ⟨r.sensor + 1, 0, r.vals ++ [none]⟩)
  | .arbLost =>
    if s.f Reg.mbI3ccCfg 0 0 = 1 then (s, some r) else
    let s := (s.count Reg.mbI3cStat 15 0 1).logOpen 0x0A00 Src.hostIf chipPart
    if 3 ≤ r.losses + 1 then (s, some ⟨r.sensor + 1, 0, r.vals ++ [none]⟩)
    else ({ s with mgmt := { s.mgmt with reading := some { r with losses := r.losses + 1 } } }, none)

/-- The reading goes on with the sensors' answers in order, until it ends, or waits for a retry. -/
def State.readOn (s : State) (r : Reading) : List SensorResult → State
  | [] => if 3 ≤ r.sensor then s.readingEnds r.vals else { s with mgmt := { s.mgmt with reading := some r } }
  | a :: l =>
    if 3 ≤ r.sensor then s.readingEnds r.vals else
    match s.sensorStep r a with
    | (s, some r') => State.readOn s r' l
    | (s, none) => s

/-- COOLING_READING: a reading begins, while CAP_COOL_CFG.EN = 1. -/
def State.coolingReading (s : State) (rs : List SensorResult) : State :=
  if !s.vctlUp || s.f Reg.capCoolCfg 0 0 = 0 || s.mgmt.reading.isSome then s else s.readOn ⟨0, 0, []⟩ rs

/-- SENSOR_RETRY: the backoff after a lost arbitration ends, and the sensor is read again. -/
def State.sensorRetry (s : State) (rs : List SensorResult) : State :=
  match s.mgmt.reading with
  | some r => if s.vctlUp then s.readOn r rs else s
  | none => s

/-- SENSOR_TIMEOUT: the sensor's transfer did not finish within 10 ms; it fails, and the reading goes on with the
next. -/
def State.sensorTimeout (s : State) (rs : List SensorResult) : State :=
  match s.mgmt.reading with
  | some r => if s.vctlUp && decide (r.sensor < 3) then s.readOn ⟨r.sensor + 1, 0, r.vals ++ [none]⟩ rs else s
  | none => s

/-! ### Thermal cycles (R390, R391) -/

/-- The bin of a swing in 1/16 K. -/
def cycBin (swing : Nat) : Nat := if swing ≤ 480 then 0 else if swing ≤ 720 then 1 else if swing ≤ 960 then 2 else 3

/-- One second of the cycle counter: the counter, and the bin of a half cycle that it counts. -/
def CycRun.tick (c : CycRun) (t : Nat) : CycRun × Option Nat :=
  if !c.on then (⟨true, true, t, t⟩, none) else
  let counted := if c.valley + 320 < c.peak then some (cycBin (c.peak - c.valley)) else none
  if c.up then
    if c.peak < t then ({ c with peak := t }, none)
    else if t + 320 < c.peak then ({ c with up := false, valley := t }, counted)
    else (c, none)
  else
    if t < c.valley then ({ c with valley := t }, none)
    else if c.valley + 320 < t then ({ c with up := true, peak := t }, counted)
    else (c, none)

/-- One source's second. -/
def State.cycTick (s : State) (src t : Nat) : State :=
  let r := (tabGet cycRunD s.cap.cycs src).tick t
  let s := { s with cap := { s.cap with cycs := tabSet cycRunD s.cap.cycs src r.1 } }
  match r.2 with
  | none => s
  | some b =>
    let o := Reg.capTcycB + 16 * src + 4 * b
    (s.setReg o (s.reg o + 1)).trace 0xB1 Src.clocks [src, b]

/-- THERMAL_CYCLE_TICK: the two sources' means over the second, in 1/16 °C. -/
def State.thermalCycleTick (s : State) (die vat : Nat) : State :=
  if !s.vctlUp then s else (s.cycTick 0 die).cycTick 1 vat

/-- The record of Table 14.4 as words. -/
def State.tcycRecord (s : State) (writes : Nat) : List Word :=
  (List.range 8).map (fun i => s.reg (Reg.capTcycB + 4 * i)) ++
  [BitVec.ofNat 32 (s.f Reg.capTcycStat 23 0), BitVec.ofNat 32 writes, BitVec.ofNat 32 s.time, BitVec.ofNat 32 (s.time / 2 ^ 32)]

/-- A write of the record: the older of two copies is replaced; a failed write sets NV_FAIL. -/
def State.writeTcyc (s : State) (ok : Bool) : State :=
  if ok then
    let w := s.fw.nvWrites + 1
    { s with fw := { s.fw with nvCycles := (s.tcycRecord w :: s.fw.nvCycles).take 2, nvWrites := w } }
  else
    let s := s.setF Reg.capTcycStat 31 31 1
    if s.vctlUp then (s.logSev 0x0904 Src.clocks sevError chipPart).alertSync else s

/-- TCYC_RECORD_WRITE: an hour of power-on has passed. -/
def State.tcycRecordWrite (s : State) (ok : Bool) : State :=
  if s.power.stage = .off then s else
  (s.setF Reg.capTcycStat 23 0 (s.f Reg.capTcycStat 23 0 + 1)).writeTcyc ok

end Sys2Proof.Machine
end

