-- ==== Sys2Proof/Machine/Mgmt.lean ====
section
/-!
DEFINITION. Machine/Mgmt.lean: the management target (R421 to R425), the host link (R420, R439), the console (R429 to
R431), JTAG (R432) and the telemetry collector (R433).
-/

namespace Sys2Proof.Machine

/-! ### The management target (R421 to R425) -/

/-- Does the target ACK its address: VAON is ready and RESET_N is released (R422)? -/
def State.targetUp (s : State) : Bool := s.power.stage != .off && !s.power.resetLow

/-- The SMBus 3.1 Packet Error Check: CRC-8 of polynomial x^8 + x^2 + x + 1 over a list of bytes (log 94). -/
def pecBit (c : Nat) : Nat := if c.testBit 7 then (2 * c % 256) ^^^ 7 else 2 * c
def pecByte (c : Nat) (b : Byte) : Nat := foldN (fun _ c => pecBit c) 8 (c ^^^ b.toNat)
def smbusPec (l : List Byte) : Byte := BitVec.ofNat 8 (l.foldl pecByte 0)

/-- What a controller that reads one byte beyond the data of a code gets in I2C mode (R421): the check over both address
bytes, the code and the data. -/
def State.replyPec (s : State) (code : Nat) (bytes : List Byte) : Option Byte :=
  if s.f Reg.mbI3cTgt 16 16 = 1 then none else
  let a := s.f Reg.mbI3cTgt 6 0
  some (smbusPec ([BitVec.ofNat 8 (2 * a), BitVec.ofNat 8 code, BitVec.ofNat 8 (2 * a + 1)] ++ bytes))

/-- The target answers with an ACK and bytes, or with a NACK. -/
def State.reply (s : State) (up : Bool) (bytes : List Byte) : State :=
  { s with mgmt := { s.mgmt with reply := if up then some bytes else none, pec := none } }

/-- The target answers the read of a code. -/
def State.codeRead (s : State) (up : Bool) (code : Nat) (bytes : List Byte) : State :=
  let pec := s.replyPec code bytes
  let s := s.reply up bytes
  if up then { s with mgmt := { s.mgmt with pec := pec } } else s

/-- A read of an AON code and of a VCTL code. -/
def State.aonRead (s : State) (code n v : Nat) : State := s.codeRead s.targetUp code (bytesOf n v)
def State.vctlRead (s : State) (code n v : Nat) : State := s.codeRead (s.targetUp && s.vctlUp) code (bytesOf n v)

/-- IDENT: device ID 0x0C31, revision, map version 1. -/
def State.mgmtIdent (s : State) : State := s.aonRead 0x00 4 (0x0C31 + 2 ^ 16 * (Config.dieRevision % 256) + 2 ^ 24)

/-- CAUSE, ALERT, INPUT. -/
def State.mgmtCause (s : State) : State := s.aonRead 0x01 4 (s.reg Reg.capAonCause).toNat
def State.mgmtAlert (s : State) : State := s.aonRead 0x02 4 (s.reg Reg.mbAlert).toNat
def State.mgmtInput (s : State) : State := s.aonRead 0x10 4 (s.reg Reg.capInput).toNat

/-- STATUS, POWER, TEMPS, BUDGET_STAT. -/
def State.mgmtStatus (s : State) : State := s.vctlRead 0x04 2 ((s.pair 0).f Reg.mbBootStatus 15 0)
def State.mgmtPower (s : State) : State := s.vctlRead 0x11 4 (s.reg Reg.capPkgPower).toNat
def State.mgmtTemps (s : State) : State := s.vctlRead 0x12 4 (s.reg Reg.capThermStat).toNat
def State.mgmtBudgetStat (s : State) : State := s.vctlRead 0x13 4 (s.reg Reg.capBudgetStat).toNat

/-- COOL: codes 0x20 to 0x23; a code Table 16.3 does not list is NACKed. -/
def State.mgmtCool (s : State) (code : Nat) : State :=
  if code = 0x20 then s.vctlRead code 4 (s.reg Reg.capCoolStat).toNat
  else if code = 0x21 then s.vctlRead code 4 (s.reg Reg.capCoolTemp).toNat
  else if code = 0x22 then s.vctlRead code 4 (s.reg Reg.capCoolFlow).toNat
  else if code = 0x23 then s.vctlRead code 4 (s.reg Reg.capCoolHeat).toNat
  else s.reply false []

/-- TCYC: CAP_TCYC0_0 to CAP_TCYC1_3, then CAP_TCYC_STAT. -/
def State.mgmtTcyc (s : State) : State :=
  s.codeRead s.targetUp 0x30 ((List.range 9).flatMap (fun i => bytesOf 4 (s.reg (Reg.capTcycB + 4 * i)).toNat))

/-- TIME: native chip time. -/
def State.mgmtTime (s : State) : State := s.aonRead 0x40 8 s.time

/-- Clear the source flag of alert cause b (Table 16.5). -/
def State.clearSource (s : State) (b : Nat) : State :=
  if b = 0 then s.setF Reg.capThermStat 30 30 0
  else if b = 1 then s.setF Reg.capCoolStat 29 29 0
  else if b = 2 then s.setF Reg.capCoolStat 28 28 0
  else if b = 3 then s.setF Reg.capBudgetStat 28 28 0
  else if b = 4 then s.setF Reg.capConnLast 31 31 0
  else if b = 5 then s.setF Reg.capTcycStat 31 31 0
  else if b = 6 then s.setF Reg.clkStatus 31 31 0
  else if b = 7 then (List.range 17).foldl (fun s p => s.modPair p (fun x => x.setF Reg.mbStatus 2 2 0)) s
  else if b = 8 then { s with power := { s.power with linkDown := false } }
  else s

/-- ALERT_CLR: a one in bit b clears the source flag of cause b, in every held state too (R434). -/
def State.mgmtAlertClr (s : State) (data : List Byte) : State :=
  if !s.targetUp then s.reply false []
  else if data.length < 4 then s.reply true []  -- cut short: nothing changes (log 94)
  else
    let m := natOfBytes (data.take 4)
    let s := ((List.range 9).filter (fun b => m.testBit b)).foldl State.clearSource s
    (((s.setF Reg.mbAlert 8 0 (s.f Reg.mbAlert 8 0 &&& (511 - m % 512))).alertSync).reply true [])

/-- BUDGET: code 0x14. A read returns CAP_BUDGET_I3C.WATTS; a write takes effect at its STOP, and one cut short before
its second data byte changes nothing. -/
def State.mgmtBudget (s : State) (write : Option (List Byte)) : State :=
  if !(s.targetUp && s.vctlUp) then s.reply false [] else
  match write with
  | none => s.codeRead true 0x14 (bytesOf 2 (s.f Reg.capBudgetI3c 9 0))
  | some (a :: b :: _) => (s.i3cBudget (a.toNat + 256 * b.toNat)).reply true []
  | some _ => s.reply true []

/-- DYNAMIC_ADDRESS: ENTDAA or SETDASA gives a 7-bit dynamic address, and the target is in I3C mode. -/
def State.dynamicAddress (s : State) (addr : Nat) : State :=
  if !s.targetUp || addr = 0 || 128 ≤ addr then s
  else (s.setF Reg.mbI3cTgt 14 8 addr).setF Reg.mbI3cTgt 16 16 1

/-- ALERT_RESPONSE: in I2C mode with ALERT_N asserted, the target answers address 0x0C with its own address (R424). -/
def State.alertResponse (s : State) : State :=
  s.reply (s.targetUp && s.f Reg.mbI3cTgt 16 16 == 0 && s.alertN) [BitVec.ofNat 8 (2 * s.f Reg.mbI3cTgt 6 0)]

/-- SCL_TIMEOUT: the transaction is discarded (R425). -/
def State.sclTimeout (s : State) : State := s.reply false []

/-! ### The host link (R420, R439) -/

/-- PERST: the PCI Express controller is reset and the link goes down; with RESET_N asserted it is ignored. -/
def State.perst (s : State) : State := if s.hostUp && !s.power.resetLow then s.pcieDown.alertSync else s

/-- PCIE_LINK_DOWN: the link goes down (a rate or width of 0), or retrains lower. -/
def State.pcieLinkDown (s : State) (speed width : Nat) : State :=
  if !s.hostUp then s
  else if speed = 0 || width = 0 then s.pcieDown.alertSync
  else if speed < s.f Reg.mbPcieStat 3 0 && width ≤ s.f Reg.mbPcieStat 8 4 ||
      speed ≤ s.f Reg.mbPcieStat 3 0 && width < s.f Reg.mbPcieStat 8 4 then
    let s := ((s.setF Reg.mbPcieStat 3 0 speed).setF Reg.mbPcieStat 8 4 width).count Reg.mbPcieStat 31 16 1
    s.logOpen 0x0A03 Src.hostIf chipPart
  else s

/-- PCIE_LINK_UP: the link finishes training, on a PCIE_REFCLK that is present (R402, R416, R420). -/
def State.pcieLinkUp (s : State) (speed width : Nat) : State :=
  if !s.vctlUp || s.f Reg.clkStatus 1 1 = 0 || s.f Reg.mbPcieStat 9 9 = 1 || speed = 0 || 6 < speed || width = 0 || 16 < width then s else
  let s := ((s.setF Reg.mbPcieStat 3 0 speed).setF Reg.mbPcieStat 8 4 width).setF Reg.mbPcieStat 9 9 1
  { s with power := { s.power with linkDown := false } }.alertSync

/-! ### Console (R429 to R431) -/

/-- A bit value: the majority of ticks 7, 8 and 9. -/
def majority (b : Bool × Bool × Bool) : Bool := (b.1 && b.2.1) || (b.1 && b.2.2) || (b.2.1 && b.2.2)

/-- The byte of a frame: its 8 data bits, LSB first. -/
def frameByte (bits : List (Bool × Bool × Bool)) : Byte :=
  BitVec.ofNat 8 (((List.range 8).map (fun i => b2n (majority (bits.getD i (false, false, false))) * 2 ^ i)).sum)

/-- A decimal number in ASCII. -/
def asciiNum : Nat → List Byte → Option Nat
  | acc, [] => some acc
  | acc, b :: l => if 0x30 ≤ b.toNat ∧ b.toNat ≤ 0x39 then asciiNum (10 * acc + (b.toNat - 0x30)) l else none

/-- The latest n records of pair 0, oldest first (R326). -/
def State.latestRecords (s : State) (n : Nat) : List (List Word) :=
  let seq := ((s.pair 0).reg Reg.mbLogSeq).toNat
  (List.range (min n seq)).map (fun i =>
    let o := Reg.mbLogRec + 32 * ((seq - min n seq + i) % 4096)
    (List.range 8).map (fun w => (s.pair 0).reg (o + 4 * w)))

/-- Root's answer to an input line (R431). -/
def State.consoleAnswer (s : State) (line : List Byte) : Option ConsoleAnswer :=
  if line = [0x73, 0x74, 0x61, 0x74, 0x75, 0x73] then
    some (.status ((s.pair 0).reg Reg.mbBootStatus) (s.reg Reg.capAonCause))
  else match line with
    | 0x6C :: 0x6F :: 0x67 :: 0x20 :: d :: l =>
      match asciiNum 0 (d :: l) with
      | some n => if n ≤ 64 then some (.log (s.latestRecords n)) else none
      | none => none
    | _ => none

/-- Root takes a byte: lines of up to 80 characters end in CR; others are ignored. -/
def State.consoleByte (s : State) (b : Byte) : State :=
  if !s.rootUp then s
  else if b = 0x0D then
    let answer := if s.mgmt.line.length ≤ 80 then (s.consoleAnswer s.mgmt.line).toList else []
    { s with mgmt := { s.mgmt with line := [], answers := s.mgmt.answers ++ answer } }
  else { s with mgmt := { s.mgmt with line := (s.mgmt.line ++ [b]).take 81 } }

/-- UART_FRAME: ticks 7 to 9 of the 8 data bits and the stop bit; `lowAtArm` says that the line reads 0 when the receiver
arms (R430). -/
def State.uartFrame (s : State) (bits : List (Bool × Bool × Bool)) (lowAtArm : Bool) : State :=
  if !s.vctlUp then s
  else if majority (bits.getD 8 (false, false, false)) then
    let s := if lowAtArm then s.count Reg.mbUartStat 31 16 1 else s
    s.consoleByte (frameByte bits)
  else (s.count Reg.mbUartStat 15 0 1).logOpen 0x0A02 Src.hostIf chipPart

/-! ### JTAG (R432) -/

/-- What IDCODE holds. -/
def idcode : Word := BitVec.ofNat 32 (1 + 2 * (Config.jedecId % 2 ^ 11) + 2 ^ 12 * 0xC311 + 2 ^ 28)

/-- Does an instruction act only at STAGE 0? -/
def scanIr : JtagIr → Bool
  | .extest | .extestPulse | .extestTrain | .clamp | .highz => true
  | _ => false

/-- VPAIL and VFAB ramp for the boundary scan, and fall after it. -/
def State.scanRails (s : State) (up : Bool) : State :=
  if up then ((s.railUp 1164).railUp 1165)
  else [1164, 1165].foldl (fun s i => (s.railSet i Reg.capRailStatus 0 0 0).railSet i Reg.capRailV 11 0 0) s

/-- A boundary scan begins or ends. -/
def State.setScan (s : State) (on : Bool) : State :=
  if s.mgmt.scan = on then s
  else { s.scanRails on with mgmt := { s.mgmt with scan := on } }

/-- JTAG_INSTRUCTION: the boundary-scan instructions act while STAGE is 0; at any other stage these, and every
unpublished instruction, act as BYPASS. -/
def State.jtagInstruction (s : State) (ir : JtagIr) : State :=
  if s.power.stage = .off then s else
  let acts := scanIr ir && s.vctlUp && s.bootStage == 0
  let ir := if scanIr ir && !acts then .bypass else if ir = .unpublished then .bypass else ir
  let s := s.setScan acts
  { s with mgmt := { s.mgmt with jtag := ir } }

/-- TAP_RESET: IDCODE is the instruction in force, as IEEE 1149.1 has it. -/
def State.tapReset (s : State) : State :=
  let s := s.setScan false
  { s with mgmt := { s.mgmt with jtag := .idcode } }

/-! ### Telemetry (R433) -/

/-- A tile's entry: N, flags, temperatures, rail voltage and current, slots granted, sub-slots gated (Table 16.4). -/
def Tile.telemetry (x : Tile) : List Nat :=
  [x.grant,
   x.f Reg.capRailStatus 1 1 + 2 * b2n (decide (x.f Reg.capTileGrant 22 16 < 64)) +
     4 * b2n (decide (x.f Reg.capTileGrant 14 8 < 64)),
   x.f Reg.capTileTemp 11 0, x.f Reg.capTileTemp 27 16, x.f Reg.capRailV 27 16, x.f Reg.capRailI 19 0, x.slots, x.gated]

/-- The chip fields of a sample. -/
def State.telemetryChip (s : State) : List Word :=
  [Reg.capPkgPower, Reg.capBudgetStat, Reg.capCtrl, Reg.capThermStat, Reg.capCoolHeat, Reg.clkMeshCur, Reg.clkStatus,
   Reg.capCoolStat].map s.reg

/-- TELEMETRY_SAMPLE: the collector reads every tile. -/
def State.telemetrySample (s : State) : State :=
  if !s.power.meshOn then s else
  { s with mgmt := { s.mgmt with
      sample := s.telemetryChip, sampleTime := s.time
      tiles := (List.range tileCount).map (fun t => (t, (s.tile t).telemetry)) } }

end Sys2Proof.Machine
end

