-- ==== Sys2Proof/Machine/TileAccess.lean ====
section
/-!
DEFINITION. Machine/TileAccess.lean: register access by access type (R6 to R8, R131), and the tile register block
(Table 16.2): what a read of it returns and what a write of it does.
-/

namespace Sys2Proof.Machine

/-! ### Access types (R7, R8) -/

/-- What a 4-byte write leaves in a register by the access types of its bits: RW bits store the value, a one clears a
W1C bit, every other bit keeps its value. -/
def RegRow.write (r : RegRow) (old val : Word) : Word :=
  let rw := BitVec.ofNat 32 r.rw
  let w1c := BitVec.ofNat 32 r.w1c
  (old &&& ~~~rw &&& ~~~(w1c &&& val)) ||| (val &&& rw)

/-- What a read leaves: RC bits clear. -/
def RegRow.read (r : RegRow) (old : Word) : Word := old &&& ~~~(BitVec.ofNat 32 r.rc)

/-- The written value without the row's Quiesce fields: those keep what they hold (R131). -/
def RegRow.keepQuiesce (r : RegRow) (old val : Word) : Word :=
  let q := BitVec.ofNat 32 r.quiesce
  (val &&& ~~~q) ||| (old &&& q)

/-- Does a write change a Quiesce field? -/
def RegRow.touchesQuiesce (r : RegRow) (old val : Word) : Bool := (old ^^^ val) &&& BitVec.ofNat 32 r.quiesce != 0

/-- Latches of high halves (R6): a read of the low half latches the high half. -/
abbrev Latch := Tab (Option Word)

/-- The value a read of a high half returns, and the latch after it. -/
def takeLatch (l : Latch) (o : Nat) (now : Word) : Latch × Word :=
  match tabGet latchD l o with
  | some v => (tabSet latchD l o none, v)
  | none => (l, now)

/-! ### Engines at rest (Table 4.10) -/

/-- IDLE of an engine: no command started and not complete. The scalar core that has executed an ECALL has completed
it. -/
def Tile.idle (t : Tile) (e : Nat) : Bool :=
  let w := (tabGet waitD t.waits e).isNone
  match e with
  | 0 => w && t.passes.isEmpty && t.arr.loads.isEmpty && t.drains.isEmpty
  | 1 => w
  | 2 => w && (t.stall.isNone || t.stall == some .ecall)
  | _ => w && t.issuing.isNone && t.txns.isEmpty

/-- Is an engine quiesced (R131)? -/
def Tile.quiet (t : Tile) (e : Nat) : Bool := t.f Reg.ladleQctl e e == 1 && t.idle e

/-! ### Reads -/

/-- The four two-bit states of Table 3.4 and the filling-set pointers, as RENNET_ACC_STATE shows them. -/
def Tile.accStateWord (t : Tile) : Nat :=
  ((List.range 8).map (fun m => t.setState (m / 2) (m % 2) * 4 ^ m)).sum + 2 ^ 16 * t.fill.toNat

/-- A register of the tile block as a path reads it. -/
def State.tileWord (s : State) (path t o : Nat) : Word :=
  let x := s.tile t
  let v := x.reg o
  if o = Reg.rennetAccState then BitVec.ofNat 32 x.accStateWord
  else if o = Reg.rennetDrainLevel then
    BitVec.ofNat 32 (((List.range 4).map (fun g => (tabGet targetsD x.targets g).length * 8 ^ g)).sum + (fld v 15 12) * 2 ^ 12)
  else if 0x100 ≤ o ∧ o < 0x120 ∧ o % 8 = 0 then (if path = 0 then tabGet wordD x.drainBaseLocal ((o - 0x100) / 8) else v)
  else if o = Reg.ladleQctl then
    setFld v 11 8 ((List.range 4).map (fun e => b2n (x.idle e) * 2 ^ e)).sum
  else if o = Reg.ladleQlevel then
    BitVec.ofNat 32 ((x.queue 0).length + 2 ^ 8 * (x.queue 1).length + 2 ^ 16 * (x.queue 3).length + (fld v 26 24) * 2 ^ 24)
  else if o = Reg.ladleInflight then setFld v 6 0 x.txns.length
  else if o = Reg.clkTileTimeLo ∨ o = Reg.clkTileTimeHi then
    let now := if s.compat t then s.ticks / 10 % 2 ^ 48 else s.time
    BitVec.ofNat 32 (if o = Reg.clkTileTimeLo then now else now / 2 ^ 32)
  else v

/-- The row of a tile register. -/
def tileRow? (o : Nat) : Option RegRow := if 0x900 ≤ o ∧ o < 0x910 then regFind railRegs o else regFind tileRegs o

/-- What a read leaves of register o: RC bits clear, and LADLE_INFLIGHT.PEAK starts again from the slots held. -/
def Tile.afterRead (x : Tile) (r : RegRow) (o : Nat) : Tile :=
  if r.rc = 0 then x
  else if o = Reg.ladleInflight then x.setF o 14 8 x.txns.length
  else x.setReg o (r.read (x.reg o))

/-- A 4-byte read of the tile block: the value, RC bits cleared after it, and the latches of R6. WO bits read 0. -/
def State.tileRead (s : State) (path t o : Nat) : State × Word :=
  match tileRow? o with
  | none => (s, 0)
  | some r =>
    let v := s.tileWord path t o
    let l := takeLatch (s.tile t).latch o v
    let hi := s.tileWord path t (o + 4)
    let l' := if r.low64 then tabSet latchD l.1 (o + 4) (some hi) else l.1
    (s.modTile t (fun x => { x.afterRead r o with latch := l' }),
      l.2 &&& ~~~(BitVec.ofNat 32 r.wo))

/-! ### Writes -/

/-- A write to LADLE_QCTL: STOP is stored, a one clears SVC_REQ, which releases a core stalled by ECALL, and a core that
has yet to start takes its pc from LADLE_SC_PC when its STOP bit clears (R111, Table 4.10). -/
def Tile.qctlWrite (t : Tile) (val : Word) : Tile :=
  let t := t.setStops (fld val 3 0)
  if bit val 16 then
    { t.setF Reg.ladleQctl 16 16 0 with stall := if t.stall == some .ecall then none else t.stall }
  else t

/-- An ignored Quiesce write is recorded with its offset (R131). -/
def Tile.ignored (t : Tile) (o : Nat) : Tile := (t.setF Reg.ladleCfgStatus 0 0 1).setF Reg.ladleCfgStatus 31 16 o

/-- A write to a register with Quiesce fields of engine e. DESIGN CHOICE (log 76): a MESH_MAX or FAB_MAX outside 1 to 96,
and the low two bits of LADLE_SC_PC, are stored as written. -/
def Tile.quiesceWrite (t : Tile) (r : RegRow) (e o : Nat) (val : Word) : Tile :=
  let old := t.reg o
  if r.touchesQuiesce old val && !t.quiet e then (t.setReg o (r.write old (r.keepQuiesce old val))).ignored o
  else t.setReg o (r.write old val)

/-- A write of word w of a push window: words 0 to 6 are held, word 7 appends (R106). -/
def Tile.pushWord (t : Tile) (path q w : Nat) (val : Word) : Tile :=
  if w = 7 then t.queuePush path q val
  else { t with holdW := tabSet wordD t.holdW (path * 32 + q * 8 + w) val }

/-- A write to RENNET_DRAINg_PUSH: append (BASE, PITCH) with the pushing path's BASE; a full queue stalls the local port
and makes BAR0 set OVERRUN; of two paths in one cycle the local port goes first (R98). -/
def Tile.drainPush (t : Tile) (path g : Nat) (val : Word) : Tile :=
  let l := tabGet targetsD t.targets g
  let b := tabGet natD t.now.bar0 (8 + g)
  if path = 0 then
    if 4 ≤ l.length ∧ b = 0 then
      { t with stall := some (.store (BitVec.ofNat 32 (0xF0000000 + Reg.rennetDrainPush + 8 * g)) 4 val) }
    else
    let r := putLocal 4 b l (fld (tabGet wordD t.drainBaseLocal g) 19 0, fld val 19 0)
    let t := { t with targets := tabSet targetsD t.targets g r.1 }
    if r.2 then t.setF Reg.rennetDrainLevel (12 + g) (12 + g) 1 else t
  else if 4 ≤ l.length then t.setF Reg.rennetDrainLevel (12 + g) (12 + g) 1
  else { t with
    targets := tabSet targetsD t.targets g (l ++ [(t.f (Reg.rennetDrainBase + 8 * g) 19 0, fld val 19 0)])
    now := { t.now with bar0 := tabSet natD t.now.bar0 (8 + g) (b + 1) } }

/-- The scalar core's write to LADLE_SYNC_CMD: the core stalls until the command completes; a command that fails its
checks is rejected, and one with a reserved opcode as R105 says (R112). Word 1 is LADLE_SYNC_ARG for a remote signal and
0 for every other command. -/
def State.syncCmdWrite (s : State) (t : Nat) (val : Word) : State :=
  let x := s.tile t
  let w1 := if fld val 7 0 = 0x51 ∧ bit val 26 then x.reg Reg.ladleSyncArg else 0
  let x := { x with waits := tabSet waitD x.waits 2 (some (s.newWait t val w1)), stall := some .sync }
  let code := if isSyncOp (fld val 7 0) then s.syncCheck t val w1 [] else 0
  s.setTile t (if code = 0 then x else x.failSync 2 code)

/-- The owner entry of a shard names this tile (R204). -/
def State.ownerNames (s : State) (t shard : Nat) : Bool :=
  match s.tileOwner t with
  | some n => (s.part n).reg (Reg.churnOwner + 4 * shard) &&& 0x87FF == BitVec.ofNat 32 (0x8000 + t)
  | none => false

/-- FAULT_RECORD_CLEAR: only Ittan Service's write acts (R110). -/
def State.faultClear (s : State) (a : Agent) (t : Nat) (val : Word) : State :=
  match a with
  | .service _ => { s.modTile t (fun x => x.clearFault val s.freeCount) with freeCount := s.freeCount + 1 }
  | _ => s

/-- A 4-byte write of the tile block. -/
def State.tileWrite (s : State) (a : Agent) (t o : Nat) (val : Word) : State :=
  let path := pathOf a
  match tileRow? o with
  | none => s
  | some r =>
    if o = Reg.ladleFault then s.faultClear a t val
    else if o = Reg.ladleQctl then s.modTile t (·.qctlWrite val)
    else if o = Reg.rennetFlags then s.modTile t (·.clearFlags (val.toNat % 0x200))
    else if 0x100 ≤ o ∧ o < 0x120 then
      let g := (o - 0x100) / 8
      if o % 8 = 4 then s.modTile t (·.drainPush path g val)
      else if path = 0 then s.modTile t (fun x =>
        { x with drainBaseLocal := tabSet wordD x.drainBaseLocal g (r.write 0 val) })
      else s.modTile t (fun x => x.setReg o (r.write (x.reg o) val))
    else if 0x40 ≤ o ∧ o < 0xC0 ∧ o % 8 = 0 then s.modTile t (·.seedWriteLo ((o - 0x40) / 8) val)
    else if 0x40 ≤ o ∧ o < 0xC0 ∧ o % 8 = 4 then s.modTile t (·.seedWriteHi ((o - 0x40) / 8) val)
    else if o = Reg.rennetSrSeedHi then s.modTile t (·.srSeedWrite val)
    else if o = Reg.ladleLimits then s.modTile t (·.quiesceWrite r 3 o val)
    else if o = Reg.ladleScPc then
      s.modTile t (fun x =>
        let y := x.quiesceWrite r 2 o val
        if r.touchesQuiesce (x.reg o) val && x.quiet 2 then { y with fresh := true } else y)
    else if 0x440 ≤ o ∧ o < 0x4A0 then s.modTile t (·.pushWord path ((o - 0x440) / 32) ((o - 0x440) / 4 % 8) val)
    else if o = Reg.ladleSyncCmd then (if path = 0 then s.syncCmdWrite t val else s)
    else if o = Reg.pailCtl then s.modTile t (fun x => x.pailCtlWrite val s.cyc)
    else if o = Reg.churnGo then s.modTile t (fun x => x.churnGo val s.cyc (s.ownerNames t))
    else if o = Reg.churnStatus then s.modTile t (·.churnClear (val.toNat &&& 0x72))
    else if o = Reg.skimGo then s.skimGo t val
    else if o = Reg.skimStatus then s.modTile t (·.skimClear (val.toNat &&& 0x32))
    else if o = Reg.skimSrSeedHi then s.modTile t (fun x => { x.setReg o val with skimReseed := true })
    else if o = Reg.collPost then s.collPost path t val
    else if o = Reg.capPhaseMark then s.phaseMark t val
    else s.modTile t (fun x => x.setReg o (r.write (x.reg o) val))

/-- A change of the state in which a fault that tile t records fires its trace point (R328, points 0x50 to 0x5F). -/
def State.faultTraced (s : State) (t : Nat) (f : State → State) : State :=
  let s' := f s
  if faultSeen (s.tile t) (s'.tile t) then
    match s.tileOwner t with
    | some n => s'.tracePart (0x50 + n) Src.tile n [t, (s'.tile t).f Reg.ladleFault 15 0]
    | none => s'
  else s'

/-- A write of the tile block, with the trace point of a fault that it records. -/
def State.tilePut (s : State) (a : Agent) (t o : Nat) (val : Word) : State :=
  s.faultTraced t (fun s => s.tileWrite a t o val)

end Sys2Proof.Machine
end

