-- ==== Sys2Proof/Machine/Access.lean ====
section
/-!
DEFINITION. Machine/Access.lean: BAR0 and the control complex's copies of it (R6 to R9, R298, R299, R418, R419): where
an address lies, and what a read or a write of the partition block, the chip block and a mailbox window does.
-/

namespace Sys2Proof.Machine

/-! ### The address map (Table 16.1) -/

/-- What a BAR0 address names. -/
inductive Place
  | mb (p o : Nat)
  | part (n o : Nat)
  | chip (o : Nat)
  | tile (t o : Nat)
  | none
  deriving DecidableEq, Repr

/-- The address map of the physical function, which Root's own accesses share. -/
def pfPlace (addr : Nat) : Place :=
  if addr < 0x40000 then .mb 0 addr
  else if addr < 0x44000 then .chip (addr - 0x40000)
  else .none

/-- The address map of virtual function n, which Service's accesses for the partition share. -/
def vfPlace (n addr : Nat) : Place :=
  if 16 ≤ n then .none
  else if addr < 0x40000 then .mb (n + 1) addr
  else if addr < 0x48000 then .part n (addr - 0x40000)
  else if 0x100000 ≤ addr ∧ addr < 0x100000 + 0x2000 * tileCount then
    .tile ((addr - 0x100000) / 0x2000) ((addr - 0x100000) % 0x2000)
  else .none

/-- Service's view of a partition: that of its virtual function, and the chip block at an offset that Table 16.1 leaves
unused (log 84). -/
def svcPlace (n addr : Nat) : Place :=
  if 0x50000 ≤ addr ∧ addr < 0x54000 then .chip (addr - 0x50000) else vfPlace n addr

/-- The chip registers that Table 11.1 lets Service read: fabric and collective engine, and the power limits with the
budget's source. -/
def svcReads (o : Nat) : Bool :=
  (decide (0x2000 ≤ o) && decide (o < 0x2A80)) || o == Reg.capBudgetCfg || o == Reg.capBudgetReq || o == Reg.capBudgetStat ||
  o == Reg.capBudgetI3c || o == Reg.capTileLimit || o == Reg.capEnvelope

/-- Does an access of a service core that serves partition n lie outside its window set, or write a register that Table
11.1 gives to Root: the chip block's, and the partition's configuration and windows (R298, R299)? -/
def State.svcOutside (s : State) (n : Nat) (write : Bool) : Place → Bool
  | .mb p _ => p != n + 1
  | .part m o => m != n || (write && decide (o < 0x300))
  | .chip o => write || !svcReads o
  | .tile t _ => !s.ownsTile n t
  | .none => true

/-- Where an agent's address lies. -/
def place (a : Agent) (addr : Nat) : Place :=
  match a with
  | .pf => pfPlace addr
  | .root => pfPlace addr
  | .vf n => vfPlace n addr
  | .service n => svcPlace n addr
  | .core t => if 0xF0000000 ≤ addr ∧ addr < 0xF0002000 then .tile t (addr - 0xF0000000) else .none

/-! ### The partition block (Tables 2.10, 4.11, 5.6, 7.5, 8.6, 10.12, 12.6, 14.7) -/

/-- A register of partition n's block as it reads. -/
def State.partWord (s : State) (n o : Nat) : Word :=
  let p := s.part n
  let v := p.reg o
  if o = Reg.rennetPartFlags then BitVec.ofNat 32 (s.partOr n Reg.rennetFlags 8 0)
  else if o = Reg.churnPartFlags then BitVec.ofNat 32 (s.partOr n Reg.churnStatus 6 4)
  else if o = Reg.skimPartFlags then BitVec.ofNat 32 (s.partOr n Reg.skimStatus 5 4)
  else if o = Reg.collStatus then BitVec.ofNat 32 (p.qLevel + 2 ^ 8 * p.ctxCount)
  else if Reg.collGrpCfg ≤ o ∧ o < Reg.collGrpCfg + 0x400 ∧ o % 16 = 0 then
    setFld v 10 8 (s.grpState n ((o - Reg.collGrpCfg) / 16))
  else v

/-- A 4-byte read of the partition block. -/
def State.partRead (s : State) (n o : Nat) : State × Word :=
  match regFind partRegs o with
  | none => (s, 0)
  | some r =>
    let l := takeLatch (s.part n).latch o (s.partWord n o)
    let l' := if r.low64 then tabSet latchD l.1 (o + 4) (some (s.partWord n (o + 4))) else l.1
    (s.modPart n (fun p => { (if r.rc = 0 then p else p.setReg o (r.read (p.reg o))) with latch := l' }),
      l.2 &&& ~~~(BitVec.ofNat 32 r.wo))

/-- RENNET_PART_CLEAR, CHURN_PART_CLEAR, SKIM_PART_CLEAR: every tile of the partition in the same cycle (R85, R203,
R226). -/
def State.eachTile (s : State) (n : Nat) (f : Tile → Tile) : State :=
  (s.tilesOf n).foldl (fun s t => s.modTile t f) s
def State.rennetPartClear (s : State) (n : Nat) (val : Word) : State := s.eachTile n (·.clearFlags (fld val 8 0))
def State.churnPartClear (s : State) (n : Nat) (val : Word) : State := s.eachTile n (·.churnClear (16 * fld val 2 0))
def State.skimPartClear (s : State) (n : Nat) (val : Word) : State := s.eachTile n (·.skimClear (16 * fld val 1 0))

/-- Is a group slot quiesced: no post queued and no context (R294)? -/
def State.grpQuiet (s : State) (n g : Nat) : Bool :=
  (s.ctx n g).isNone && (s.part n).postQ.all (fun p => coGroup p.words != g)

/-- A write to a group slot. -/
def State.grpWrite (s : State) (n o : Nat) (r : RegRow) (val : Word) : State :=
  let old := (s.part n).reg o
  if r.touchesQuiesce old val && !s.grpQuiet n ((o - Reg.collGrpCfg) / 16) then
    s.modPart n (fun p => ((p.setReg o (r.write old (r.keepQuiesce old val))).setF Reg.collCfgStatus 0 0 1).setF
      Reg.collCfgStatus 31 16 o)
  else s.modPart n (fun p => p.setReg o (r.write old val))

/-- A write to COLL_BARn_CFG: the barrier is quiesced when its ARRIVED is 0 (R131). -/
def Part.barWrite (p : Part) (o : Nat) (r : RegRow) (val : Word) : Part :=
  let old := p.reg o
  if r.touchesQuiesce old val && p.f (o + 4) 12 0 != 0 then p.setF (o + 4) 31 31 1
  else p.setReg o (r.write old val)

/-- A write to CHURN_OWNERs: one that names a tile outside the partition is ignored (R204). -/
def State.ownerWrite (s : State) (n o : Nat) (r : RegRow) (val : Word) : State :=
  if s.ownsTile n (fld val 10 0) then s.modPart n (fun p => p.setReg o (r.write (p.reg o) val))
  else s.modPart n (fun p => p.setF o 31 31 1)

/-- A 4-byte write of the partition block. -/
def State.partWrite (s : State) (n o : Nat) (val : Word) : State :=
  match regFind partRegs o with
  | none => s
  | some r =>
    if o = Reg.rennetPartClear then s.rennetPartClear n val
    else if o = Reg.churnPartClear then s.churnPartClear n val
    else if o = Reg.skimPartClear then s.skimPartClear n val
    else if o = Reg.capStepCtl then s.stepStatsClear n val
    else if o = Reg.capPartPhase then s.demandForget n val
    else if o = Reg.collCancel then (if bit val 31 then s.collCancel n (fld val 5 0) else s)
    else if Reg.pailMode ≤ o ∧ o < Reg.pailMode + 72 then s.pailModeWrite n ((o - Reg.pailMode) / 4) val
    else if Reg.collBarCfg ≤ o ∧ o < Reg.collBarCfg + 0x200 ∧ o % 8 = 0 then s.modPart n (·.barWrite o r val)
    else if Reg.churnOwner ≤ o then s.ownerWrite n o r val
    else if Reg.collGrpCfg ≤ o ∧ o < Reg.collGrpCfg + 0x400 then s.grpWrite n o r val
    else s.modPart n (fun p => p.setReg o (r.write (p.reg o) val))

/-! ### The chip block (Tables 8.6, 9.8, 9.9, 10.13, 13.5, 13.6, 14.5, 15.6, 16.5) -/

/-- The port and the register within it of an offset of Table 9.8. -/
def portPlace (o : Nat) : Option (Nat × Nat) :=
  if 0x2000 ≤ o ∧ o < 0x2000 + 0x80 * portCount then some ((o - 0x2000) / 0x80, (o - 0x2000) % 0x80) else none

/-- Is an offset one of the shared rails' registers (Table 13.6)? -/
def isRailOff (o : Nat) : Bool := decide (0x3100 ≤ o) && decide (o < 0x3200)

/-- The row of a chip register. -/
def chipRow? (o : Nat) : Option RegRow :=
  if isRailOff o then regFind railRegs (0x900 + (o - 0x3100) % 16) else regFind chipRegs o

/-- A chip register as it reads. -/
def State.chipWord (s : State) (o : Nat) : Word :=
  if o = Reg.clkTimeLo then BitVec.ofNat 32 s.time
  else if o = Reg.clkTimeHi then BitVec.ofNat 32 (s.time / 2 ^ 32)
  else if o = Reg.clkCompat50Lo then BitVec.ofNat 32 (s.ticks / 10)
  else if o = Reg.clkCompat50Hi then BitVec.ofNat 32 (s.ticks / 10 / 2 ^ 32 % 2 ^ 16)
  else s.reg o

/-- A port's register as it reads: FAB_PORTp_HB.AGE is the time since the latest heartbeat in 16 ns units. -/
def State.portWord (s : State) (p o : Nat) : Word :=
  let x := s.port p
  if o = Reg.fabPortHb then
    setFld (x.reg o) 31 16 (match x.hbIn with
      | some t => min 0xFFFF ((s.time + 2 ^ 64 - t) % 2 ^ 64 / 16)
      | none => 0xFFFF)
  else x.reg o

/-- What a read leaves of register o: RC bits clear, and FAB_TAGS.PEAK starts again from the tags held. -/
def State.afterRead (s : State) (r : RegRow) (o : Nat) : State :=
  if r.rc = 0 then s
  else if o = Reg.fabTags then s.setF o 30 16 s.tags.length
  else s.setReg o (r.read (s.reg o))

/-- A 4-byte read of the chip block. -/
def State.chipRead (s : State) (o : Nat) : State × Word :=
  match portPlace o with
  | some (p, q) =>
    match regFind portRegs q with
    | none => (s, 0)
    | some r =>
      let l := takeLatch (s.port p).latch q (s.portWord p q)
      let l' := if r.low64 then tabSet latchD l.1 (q + 4) (some (s.portWord p (q + 4))) else l.1
      (s.modPort p (fun x => { (if r.rc = 0 then x else x.setReg q (r.read (x.reg q))) with latch := l' }), l.2)
  | none =>
    match chipRow? o with
    | none => (s, 0)
    | some r =>
      let l := takeLatch s.chipLatch o (s.chipWord o)
      let l' := if r.low64 then tabSet latchD l.1 (o + 4) (some (s.chipWord (o + 4))) else l.1
      ({ s.afterRead r o with chipLatch := l' }, l.2)

/-- A Quiesce write to a fabric register (R253); a route order of 6 or 7 is ignored (Table 9.9). -/
def State.fabWrite (s : State) (o : Nat) (r : RegRow) (val : Word) : State :=
  let old := s.reg o
  if o = Reg.fabRoute ∧ 5 < fld val 2 0 then s.fabIgnored o
  else if r.touchesQuiesce old val && !s.fabricQuiet then s.fabIgnored o
  else s.setReg o (r.write old val)

/-- A write to a port's register: CTL by Root, CHANGED by any agent that reaches the block. -/
def State.portWrite (s : State) (a : Agent) (p o : Nat) (val : Word) : State :=
  if o = Reg.fabPortCtl then
    if !mayChip a then s else
    let s := s.modPort p (fun x => x.setF o 2 1 (fld val 2 1))
    if bit val 0 then s.portEnable p else s.portDisable p
  else if o = Reg.fabPortStatus then s.modPort p (fun x => if bit val 31 then x.setF o 31 31 0 else x)
  else s

/-- Registers whose RW fields the physical function may write beside Root (R414). -/
def pfClock (o : Nat) : Bool :=
  o == Reg.clkMeshReq || o == Reg.clkTimeCfg || o == Reg.clkTimeSetLo || o == Reg.clkTimeSetHi

/-- CLK_TIME_CFG.GM: a grandmaster's FREQ is 0 (R404, R405). -/
def State.gmWrite (s : State) (val : Word) : State :=
  let s := s.setF Reg.clkTimeCfg 0 0 (fld val 0 0)
  (if bit val 0 then s.setReg Reg.clkTimeFreq 0 else s).restrata

/-- A 4-byte write of the chip block. A value outside the range that a table gives an RW field is stored as written (log
91). -/
def State.chipWrite (s : State) (a : Agent) (o : Nat) (val : Word) : State :=
  match portPlace o with
  | some (p, q) => s.portWrite a p q val
  | none =>
    match chipRow? o with
    | none => s
    | some r =>
      if !(mayChip a || (a == .pf && pfClock o)) then
        if r.w1c = 0 then s else (s.setReg o (s.reg o &&& ~~~(BitVec.ofNat 32 r.w1c &&& val))).alertSync
      else if o = Reg.fabChipId then s.chipIdWrite val
      else if o = Reg.fabDims ∨ o = Reg.fabRoute ∨ o = Reg.fabTagCfg then s.fabWrite o r val
      else if o = Reg.clkMeshReq then s.meshFreqChange val
      else if o = Reg.clkTimeSetHi then s.timeSet val
      else if o = Reg.clkTimeCfg then s.gmWrite val
      else if o = Reg.capBudgetI3c then s
      else if o = Reg.capBudgetCfg ∨ o = Reg.capBudgetReq then
        (s.setReg o (r.write (s.reg o) val)).retarget.alertSync
      else (s.setReg o (r.write (s.reg o) val)).alertSync

/-! ### Mailbox windows (R304, R309 to R313) -/

/-- Does the window answer in full: Root runs, or has run (R304)? Before that only the version, status and boot
registers do. -/
def State.mbOpen (s : State) : Bool := decide (3 ≤ s.bootStage) && decide (s.bootStage ≤ 5)

/-- Registers that answer before Root runs, in pair 0 only for the boot registers. -/
def bootReg (o : Nat) : Bool := decide (o ≤ Reg.mbStatus) || (decide (0x40 ≤ o) && decide (o ≤ Reg.mbBootGo))

/-- Does offset o of pair p's window answer? -/
def State.mbAnswers (s : State) (p o : Nat) : Bool :=
  (s.mbOpen || bootReg o) && (p == 0 || !(decide (0x40 ≤ o) && decide (o ≤ Reg.mbBootGo)))

/-- A 4-byte read of pair p's window. -/
def State.mbRead (s : State) (p o : Nat) : State × Word :=
  match regFind mbRegs o with
  | none => (s, 0)
  | some r =>
    if !s.mbAnswers p o then (s, 0) else
    let x := s.pair p
    let l := takeLatch x.latch o (x.reg o)
    let l' := if r.low64 then tabSet latchD l.1 (o + 4) (some (x.reg (o + 4))) else l.1
    (s.setPair p { (if r.rc = 0 then x else x.setReg o (r.read (x.reg o))) with latch := l' },
      l.2 &&& ~~~(BitVec.ofNat 32 r.wo))

/-- The partition of a pair, in a log record. -/
def pairPart (p : Nat) : Nat := if p = 0 then chipPart else p - 1

/-- OVERRUN is set. -/
def Pair.overrun (x : Pair) : Pair := x.setF Reg.mbStatus 9 9 1

/-- A distance between free-running 32-bit counts. -/
def ringDiff (a b : Word) : Nat := (a - b).toNat

/-- DOORBELL: a write to MB_REQ_TAIL (R312). -/
def State.doorbell (s : State) (p : Nat) (val : Word) : State :=
  let x := s.pair p
  let head := x.reg Reg.mbReqHead
  let d := ringDiff val head
  if 256 < d ∨ d < ringDiff (x.reg Reg.mbReqTail) head then
    (s.setPair p x.overrun).logOpen 0x0109 (Config.mailboxSource 0x0109 % 13) (pairPart p)
  else
    let s := s.setPair p (x.setReg Reg.mbReqTail val)
    if p = 0 then s.trace 0x10 Src.hostIf [val.toNat] else s.tracePart (0x10 + p) Src.hostIf (p - 1) [val.toNat]

/-- Responses that wait enter the ring as it has room (R313); none once Root has stopped (R301). -/
def State.flushOne (s : State) (p : Nat) : State :=
  match (s.pair p).rspWait with
  | [] => s
  | ws :: l =>
    if (s.pair p).rspFull || s.power.faultN then s
    else (s.modPair p (fun x => { x with rspWait := l })).postRsp p ws (ws.getD 1 0).toNat (ws.drop 2)

/-- All of them, at most 8. -/
def State.flushRsp (s : State) (p : Nat) : State := foldN (fun _ s => s.flushOne p) 8 s

/-- RSP_HEAD_WRITE and EVT_HEAD_WRITE: a head that passes its tail is ignored and sets OVERRUN (R313). -/
def Pair.headWrite (x : Pair) (head tail : Nat) (val : Word) : Pair :=
  if ringDiff (x.reg tail) (x.reg head) < ringDiff val (x.reg head) then x.overrun else x.setReg head val
def State.rspHeadWrite (s : State) (p : Nat) (val : Word) : State :=
  (s.modPair p (fun x => x.headWrite Reg.mbRspHead Reg.mbRspTail val)).flushRsp p
def State.evtHeadWrite (s : State) (p : Nat) (val : Word) : State :=
  s.modPair p (fun x => x.headWrite Reg.mbEvtHead Reg.mbEvtTail val)

/-- Do a host version and the firmware's match (R307)? -/
def verMatch (host fw : Word) : Bool := fld host 31 16 == fld fw 31 16 && decide (fld host 15 0 ≤ fld fw 15 0)

/-- HOST_VER_WRITE (R308). -/
def State.hostVerWrite (s : State) (p : Nat) (val : Word) : State :=
  let s := s.modPair p (fun x => x.setReg Reg.mbHostVer val)
  if verMatch val ((s.pair p).reg Reg.mbFwVer) then s
  else (s.modPair p (fun x => x.setF Reg.mbStatus 8 8 1)).logSev 0x0108 (Config.mailboxSource 0x0108 % 13) sevError (pairPart p)

end Sys2Proof.Machine
end

