-- ==== Sys2Proof/Machine/Mailbox.lean ====
section
/-!
DEFINITION. Machine/Mailbox.lean: requests and responses (R311 to R317, R453): how a request is taken, when its command
may start, how it is rejected, how it ends, and how it is aborted (R300, R316).
-/

namespace Sys2Proof.Machine

/-! ### Words of a request (R311, R16) -/

/-- The basic opcode, whether the expert form is asked for, ORDER, and the parameters. -/
def rqOp (w : List Word) : Nat := fld (w.getD 0 0) 14 0
def rqExpert (w : List Word) : Bool := bit (w.getD 0 0) 15
def rqOrder (w : List Word) : Bool := bit (w.getD 1 0) 0
def par (w : List Word) (i : Nat) : Nat := (w.getD (i + 2) 0).toNat
def par64 (w : List Word) (i : Nat) : Nat := par w i + 2 ^ 32 * par w (i + 1)

/-- The opcodes of Table 11.5. -/
def knownOp (op : Nat) : Bool :=
  (decide (1 ≤ op) && decide (op ≤ 6)) || (decide (0x100 ≤ op) && decide (op ≤ 0x10E)) ||
  (decide (0x200 ≤ op) && decide (op ≤ 0x211))

/-- A 64-bit result in two words, low word first (R318). -/
def res64 (v : Nat) : List Word := [BitVec.ofNat 32 v, BitVec.ofNat 32 (v / 2 ^ 32)]

/-- A word of a number. -/
def w32 (v : Nat) : Word := BitVec.ofNat 32 v

/-- The lowest-valued of the failing codes (R453); 0 when none fails. -/
def lowestFailing (l : List (Bool × Nat)) : Nat :=
  lowestCode (l.map (fun p => if p.1 then p.2 else 0))

/-! ### The objects a command names (R314) -/

/-- What kinds of object are told apart: 0 partition, 1 context, 2 queue, 3 tile, 4 group, 5 shard, 6 window. A range of
them: kind, first, count. -/
structure Named where
  kind  : Nat
  first : Nat
  count : Nat
  deriving DecidableEq, Repr

/-- The objects a request names. -/
def rqNames (w : List Word) : List Named :=
  let op := rqOp w
  let n := if rqExpert w then par w 1 else 1
  if op = 0x103 then [Named.mk 0 (par w 0) 1, Named.mk 6 (16 * par w 0 + par w 1) 1]
  else if 0x100 ≤ op ∧ op ≤ 0x104 then [Named.mk 0 (par w 0) 1]
  else if op = 3 ∧ rqExpert w then [Named.mk 3 (par w 0) (par w 1)]
  else if op = 0x200 ∧ rqExpert w then [Named.mk 3 (par w 5) 1]
  else if op = 0x206 ∧ rqExpert w then [Named.mk 1 (par w 0) 1, Named.mk 3 (par w 1) 1]
  else if op = 0x201 ∨ op = 0x202 ∨ op = 0x205 ∨ op = 0x206 then [Named.mk 1 (par w 0) 1]
  else if op = 0x203 ∨ op = 0x204 then [Named.mk 2 (par w 0) 1]
  else if op = 0x207 ∨ op = 0x208 then [Named.mk 3 (par w 0) n]
  else if op = 0x209 then [Named.mk 3 (par w 0) 1]
  else if op = 0x20A ∨ op = 0x20B then Named.mk 5 (par w 0) 1 ::
    (if rqExpert w then [Named.mk 3 (par w (if op = 0x20A then 3 else 1)) 1] else [])
  else if op = 0x20C then [Named.mk 5 (par w 0) (par w 1), Named.mk 3 (par w 2 % 2 ^ 11) 1]
  else if op = 0x211 ∧ rqExpert w then [Named.mk 3 (par w 2) (par w 3)]
  else if op = 0x20D ∨ op = 0x20F then [Named.mk 4 (par w 0) 1]
  else []

/-- Do two requests name the same object? -/
def sameObject (a b : List Word) : Bool :=
  (rqNames a).any (fun x => (rqNames b).any (fun y => x.kind == y.kind && overlaps x.first x.count y.first y.count))

/-- A request that is rejected and waits for its turn under ORDER. -/
abbrev rejectedStage : Nat := 99

/-- May request k of a list of taken ones start (R314)? -/
def mayStart (l : List Taken) (k : Nat) : Bool :=
  match l[k]? with
  | none => false
  | some t =>
    (!rqOrder t.words || k == 0) &&
    (l.take k).all (fun u => u.stage != 0 && !sameObject u.words t.words)

/-! ### Responses -/

/-- Post a response: into the ring, or behind those that wait for room (R313); none once Root has stopped (R301). -/
def State.mbRespond (s : State) (p : Nat) (req : List Word) (code : Nat) (res : List Word) : State :=
  if s.power.faultN then s
  else if (s.pair p).rspFull || !(s.pair p).rspWait.isEmpty then
    s.modPair p (fun x =>
      { x with rspWait := x.rspWait ++ [[req.getD 0 0, w32 code] ++ (List.range 14).map (fun i => res.getD i 0)] })
  else s.postRsp p req code res

/-- A rejected request at the head of the taken ones responds. -/
def State.sweepOne (s : State) (p : Nat) : State :=
  match (s.pair p).taken with
  | [] => s
  | t :: l =>
    if t.stage = rejectedStage then
      (s.modPair p (fun x => { x with taken := l })).mbRespond p t.words 0x100 []
    else s
def State.sweep (s : State) (p : Nat) : State := foldN (fun _ s => s.sweepOne p) 8 s

/-- Command k of pair p ends with a code and its results. -/
def State.mbFinish (s : State) (p k code : Nat) (res : List Word) : State :=
  match (s.pair p).taken[k]? with
  | none => s
  | some t => ((s.modPair p (fun x => { x with taken := listDrop1 x.taken k })).mbRespond p t.words code res).sweep p

/-- A command goes on later: its stage, and what it has to remember. -/
def State.stay (s : State) (p k stage : Nat) (aux : List Nat) : State :=
  s.modPair p (fun x => { x with taken := listMod x.taken k (fun t => { t with stage := stage, aux := aux }) })

/-! ### Taking and starting -/

/-- Does the firmware part that serves pair p run: Root, and Service for a partition pair? -/
def State.cmdUp (s : State) (p : Nat) : Bool := s.rootUp && (p == 0 || !s.fw.down)

/-- Has pair p a request waiting that may be taken: READY, with fewer than 8 outstanding (R310, R314)? While FW_ACTIVATE
waits, Root lets no partition command be taken (R306). -/
def State.mayTake (s : State) (p : Nat) : Bool :=
  let x := s.pair p
  decide (p < 17) && s.cmdUp p && x.f Reg.mbStatus 0 0 != 0 && x.reg Reg.mbReqHead != x.reg Reg.mbReqTail &&
  decide (x.taken.length + x.rspWait.length < 8) && (p == 0 || s.fw.activate.isNone)

/-- Is it pair p's turn: Root's own pair, or the first partition pair after the latest served that has a request to take
(R299)? -/
def State.pairTurn (s : State) (p : Nat) : Bool :=
  p == 0 || ((List.range 16).map (fun i => (s.fw.pairTurn + 1 + i) % 16 + 1)).find? s.mayTake == some p

/-- REQUEST_TAKE (R299, R312, R314): an unknown opcode gives CZ_ERR_MB_OPCODE (R317). -/
def State.requestTake (s : State) (p : Nat) : State :=
  if !s.mayTake p || !s.pairTurn p then s else
  let s := if p = 0 then s else { s.asService (p - 1) with fw := { (s.asService (p - 1)).fw with pairTurn := p - 1 } }
  let x := s.pair p
  let head := x.reg Reg.mbReqHead
  let ws := (List.range 16).map (fun w => x.reg (Reg.mbReqSlot + 64 * (head.toNat % 256) + 4 * w))
  let s := s.setPair p (x.setReg Reg.mbReqHead (head + 1))
  let s := if p = 0 then s else
    s.tracePart (0xE0 + (s.svcCore (p - 1)).getD 0) (s.svcSrc (p - 1)) (p - 1) [p, fld (ws.getD 0 0) 15 0]
  let bad := !knownOp (rqOp ws)
  let s := s.modPair p (fun x => { x with taken := x.taken ++ [⟨ws, if bad then rejectedStage else 0, []⟩] })
  if bad && !rqOrder ws then s.mbFinish p x.taken.length 0x100 [] else s.sweep p

/-- Is the pair wrong for a command's pair column: 0 any, 1 Root, 2 partition? -/
def wrongPair (p col : Nat) : Bool := (col == 1 && p != 0) || (col == 2 && p == 0)

/-- CZ_ERR_MB_DENIED (R317). -/
def State.denied (s : State) (p : Nat) (w : List Word) (col : Nat) : Bool :=
  wrongPair p col || (p != 0 && rqExpert w && (s.part (p - 1)).f Reg.mbPartCfg 24 24 == 0)

/-- The code that rejects a request: `abs` holds the checks on its parameters alone, `rel` those against the pair's
partition. A command of a partition pair concerns an ACTIVE partition (R332). -/
def State.rejects (s : State) (p : Nat) (w : List Word) (col : Nat) (abs rel : List (Bool × Nat)) : Nat :=
  lowestFailing ([(decide (1 < (w.getD 1 0).toNat), 0x101), (s.denied p w col, 0x102)] ++ abs ++
    (if wrongPair p col then [] else
      (p != 0 && decide (0x200 ≤ rqOp w) && s.partState (p - 1) != 1, 0x103) :: rel))

/-- The request of command k of pair p, when it is an opcode's and may start or go on. -/
def State.takenCmd (s : State) (p k op : Nat) : Option Taken :=
  if 17 ≤ p || !s.cmdUp p then none else
  match (s.pair p).taken[k]? with
  | none => none
  | some t =>
    if rqOp t.words = op && t.stage != rejectedStage && (t.stage != 0 || mayStart (s.pair p).taken k) then some t
    else none

/-- The state in which command k of pair p runs: a partition's, on a core that holds the partition's window set. -/
def State.serving (s : State) (p k op : Nat) : State :=
  if (s.takenCmd p k op).isSome && p != 0 then s.asService (p - 1) else s

/-- A command runs: rejected, or acting; one that has started goes on. -/
def State.command (s : State) (p k op col : Nat) (abs rel : List Word → List (Bool × Nat)) (act : Taken → State) :
    State :=
  match s.takenCmd p k op with
  | none => s
  | some t =>
    if t.stage ≠ 0 then act t else
    let c := s.rejects p t.words col (abs t.words) (rel t.words)
    if c ≠ 0 then s.mbFinish p k c [] else act t

/-- No checks. -/
def noChecks : List Word → List (Bool × Nat) := fun _ => []

/-! ### Stopping and restarting the queues of tiles -/

/-- Remember the STOP bits of tiles as one number each, and set bits of them. -/
def State.stopTiles (s : State) (ts : List Nat) (mask : Nat) : State × List Nat :=
  (ts.foldl (fun s t => s.modTile t (fun x => x.setStops (x.f Reg.ladleQctl 3 0 ||| mask))) s,
   ts.map (fun t => 16 * t + (s.tile t).f Reg.ladleQctl 3 0))

/-- Restore them. -/
def State.restoreStops (s : State) (aux : List Nat) : State :=
  aux.foldl (fun s a => s.modTile (a / 16) (·.setStops (a % 16))) s

/-! ### Aborting (R300, R316) -/

/-- A context changed. -/
def State.modSvc (s : State) (n : Nat) (f : SvcPart → SvcPart) : State := s.modSys n (fun x => { x with svc := f x.svc })
def State.svcCtx (s : State) (n c : Nat) : Option SvcCtx := tabGet svcCtxD (s.sys n).svc.ctxs c
def State.setSvcCtx (s : State) (n c : Nat) (x : Option SvcCtx) : State :=
  s.modSvc n (fun v => { v with ctxs := tabSet svcCtxD v.ctxs c x })
def State.modSvcCtx (s : State) (n c : Nat) (f : SvcCtx → SvcCtx) : State :=
  s.modSvc n (fun v => { v with ctxs := tabMod svcCtxD v.ctxs c (Option.map f) })

/-- What a command in progress has begun is taken back: it has had none of its effect (R300). -/
def State.undo (s : State) (p : Nat) (t : Taken) : State :=
  if t.stage = 0 then s
  else if rqOp t.words = 0x205 then
    (s.restoreStops t.aux).modSvcCtx (p - 1) (par t.words 0) (fun c => { c with stopping := false })
  else if rqOp t.words = 0x209 ∨ rqOp t.words = 0x20E then s.restoreStops t.aux
  else if rqOp t.words = 0x200 then s.setSvcCtx (p - 1) (t.aux.getD 0 0) none
  else if rqOp t.words = 0x206 then s.modSvcCtx (p - 1) (par t.words 0) (fun c => { c with waiting := false })
  else s

/-- Commands in progress on a pair end with CZ_ERR_MB_ABORTED; `keep` leaves LAUNCH out. -/
def State.abortPair (s : State) (p : Nat) (keep : Bool) : State :=
  let ts := (s.pair p).taken
  let stays := fun (t : Taken) => keep && rqOp t.words == 0x204
  let s := s.modPair p (fun x => { x with taken := ts.filter stays })
  ((ts.filter (fun t => !stays t)).foldl (fun s t => (s.undo p t).mbRespond p t.words 0x107 []) s)

/-- Requests not yet taken are discarded: HEAD jumps to TAIL (R316). -/
def State.discardRequests (s : State) (p : Nat) : State :=
  s.modPair p (fun x => x.setReg Reg.mbReqHead (x.reg Reg.mbReqTail))

/-! ### Free choices of the firmware and rounding -/

/-- One of a list, as the firmware chooses (log 103). -/
def State.pick (s : State) (l : List Nat) : Nat := l.getD (Config.freeValue s.freeCount 7 % l.length) 0

/-- The next draw of free values. -/
def State.drawn (s : State) : State := { s with freeCount := s.freeCount + 1 }

/-- Nanoseconds as microseconds; where the quotient is no integer, its rounding is free (log 101). -/
def usOf (ns draw : Nat) : Nat := ns / 1000 + (if ns % 1000 = 0 then 0 else Config.freeValue draw 8 % 2)

end Sys2Proof.Machine
end

