-- ==== Sys2Proof/Machine/Boot.lean ====
section
/-!
DEFINITION. Machine/Boot.lean: bundles and their checks (R302, R303), boot (R304, R305), Service's restarts (R300), the
failure of Root (R301), the resets that keep the rails up (R411), and BAR0 writes as a whole.
-/

namespace Sys2Proof.Machine

/-! ### Images (Table 11.2) -/

/-- A little-endian field of an image. -/
def imgVal (b : List Byte) (off n : Nat) : Nat := natOfBytes ((b.drop off).take n)

/-- Are n bytes at an offset zero? -/
def imgZero (b : List Byte) (off n : Nat) : Bool := ((b.drop off).take n).all (· == 0)

/-- Body length, interface version, image version, security version and key slot. -/
def imgLen (b : List Byte) : Nat := imgVal b 0x14 4
def imgIface (b : List Byte) : Nat := imgVal b 0x08 4
def imgVer (b : List Byte) : Nat := imgVal b 0x0C 4
def imgSec (b : List Byte) : Nat := imgVal b 0x10 4
def imgSlot (b : List Byte) : Nat := imgVal b 0x18 1

/-- Check 1 of R303: MAGIC, TYPE (1 Root, 2 Service), header version, length and zero bytes. -/
def imgFormatOk (kind : Nat) (b : List Byte) : Bool :=
  decide (4096 ≤ b.length) && imgVal b 0 4 == 0x54495443 && imgVal b 4 2 == kind && imgVal b 6 2 == 1 &&
  decide (imgLen b ≤ 2 ^ 24 - 4096) && decide (4096 + imgLen b ≤ b.length) &&
  imgZero b 0x19 7 && imgZero b 0xB1 15 && imgZero b 0x120 3808

/-- The checks of R303 in their order: the first failing one's code, 0 for none. `major` is the running Root's, for a
Service image. -/
def imgCheck (kind fused : Nat) (major : Option Nat) (b : List Byte) : Nat :=
  let pub := (b.drop 0x50).take 97
  if !imgFormatOk kind b then 0xB00
  else if 4 ≤ imgSlot b || Config.keyRevoked (imgSlot b) || sha384 pub != Config.keyFuse (imgSlot b) then 0xB01
  else if imgSec b < fused then 0xB03
  else if sha384 ((b.drop 4096).take (imgLen b)) != (b.drop 0x20).take 48 then 0xB04
  else if !ecdsaOk pub (b.take 0xC0) ((b.drop 0xC0).take 96) then 0xB02
  else match major with
    | some m => if imgIface b / 2 ^ 16 = m then 0 else 0xB05
    | none => 0

/-- An image without what follows it in its bundle: header and body. -/
def imgPart (b : List Byte) : List Byte := b.take (4096 + imgLen b)

/-- Where the Service image of a bundle stands: the first 4 KiB boundary after the end of the Root body. -/
def svcOffset (b : List Byte) : Nat := 4096 * ceilDiv (4096 + imgLen b) 4096

/-- The Service image of a bundle. -/
def svcImage (b : List Byte) : List Byte := b.drop (svcOffset b)

/-! ### Boot (Table 11.3) -/

/-- Every pair changed. -/
def State.eachPair (s : State) (f : Pair → Pair) : State := (List.range 17).foldl (fun s p => s.modPair p f) s

/-- A boot ends in failure: STAGE = 15 and the code (R305). -/
def State.bootFails (s : State) (code : Nat) : State :=
  (s.modPair 0 (fun p => p.setF Reg.mbBootStatus 31 16 code)).stageIs 15

/-- Steps 1 to 7, of which 1 to 6 are one step here: the bundle is checked, Root and Service start, and Root starts the rails of Table 13.4. -/
def State.bootFrom (s : State) (b : List Byte) : State :=
  let s := (s.stageIs 1).stageIs 2
  let c := imgCheck 1 s.fw.svnRoot none b
  if c ≠ 0 then s.bootFails c else
  let s := s.stageIs 3
  let s := s.eachPair (fun p => (p.setReg Reg.mbFwVer (w32 (imgIface b))).setReg Reg.mbRootVer (w32 (imgVer b)))
  let v := svcImage b
  let c := imgCheck 2 s.fw.svnSvc (some (imgIface b / 2 ^ 16)) v
  if c ≠ 0 then s.bootFails c else
  let s := s.eachPair (fun p => (p.setReg Reg.mbSvcVer (w32 (imgVer v))).setF Reg.mbStatus 1 1 1)
  let s := s.stageIs 4
  let s := { s with fw := { s.fw with
    kept := b, rootRun := imgPart b, svcRun := imgPart v, rootNext := false, rootSec := imgSec b, rootSlot := imgSlot b, svcSec := imgSec v, svcSlot := imgSlot v } }
  s.setReg Reg.capStart 3

/-- BOOT_GO: a write of one to MB_BOOT_GO, ignored while STAGE is 1 to 5 and while a boundary scan acts (R304, R432). The
fetch reads the host's memory; a bundle is at most 32 MiB (R302), and a longer one fails as check 1 of R303 does (log 85). -/
def State.bootGo (s : State) (val : Word) : State :=
  if !bit val 0 || !s.vctlUp || s.mgmt.scan || !(s.bootStage == 0 || s.bootStage == 15) then s else
  let p := s.pair 0
  let addr := (p.reg Reg.mbBootAddrLo).toNat + 2 ^ 32 * (p.reg Reg.mbBootAddrHi).toNat
  let len := (p.reg Reg.mbBootLen).toNat
  let s := s.modPair 0 (fun p => p.setF Reg.mbBootStatus 31 16 0)
  if !s.hostUp then (s.stageIs 1).bootFails 0xB06
  else if 2 ^ 25 < len then (s.stageIs 1).bootFails 0xB00
  else s.bootFrom (memRead s.hostMem addr len)

/-- A reset that keeps the rails up: from the kept bundle at boot step 1, or waiting for MB_BOOT_GO (R411). -/
def State.warmReset (s : State) (newImage : Bool) : State :=
  let s := s.deviceClear true
  let s := { s with power := { s.power with stage := .rom } }
  if newImage || s.fw.kept.isEmpty then s else s.bootFrom s.fw.kept

/-! ### Service and Root (R300, R301) -/

/-- Service is stopped and reloaded: commands in progress on the partition pairs end, LAUNCH apart. -/
def State.serviceStops (s : State) : State :=
  let s := { s with fw := { s.fw with down := true, sets := List.replicate 4 none } }
  let s := (List.range 16).foldl (fun s n => s.abortPair (n + 1) true) s
  s.eachPair (fun p => p.setF Reg.mbStatus 1 1 0)

/-- SVC_WINDOW, SVC_WATCHDOG, SVC_TRAP on a service core. -/
def State.serviceFails (s : State) (code core : Nat) : State :=
  if !s.rootUp || s.fw.down || 4 ≤ core then s
  else (s.logOpen code (1 + core) chipPart).serviceStops

/-- A window violation of the core that serves partition n (R298, R300). -/
def State.svcViolates (s : State) (n : Nat) : State := s.serviceFails 0x110 ((s.svcCore n).getD 4)

/-- An access by an agent that can act. One that it may not make is dropped (R419); Service's is a window violation
(R298). -/
def State.reach (s : State) (a : Agent) (ok : Bool) (f : State → State) : State :=
  if !s.agentUp a then s
  else if ok then f (s.asAgent a)
  else match a with
    | .service n => (s.asService n).svcViolates n
    | _ => s

/-- SVC_RESTART: Service runs again, and the event goes to every partition pair. An FW_ACTIVATE that brought it about
responds with its duration (R306). -/
def State.svcRestart (s : State) : State :=
  if !s.rootUp || !s.fw.down then s else
  let s := s.eachPair (fun p => p.setF Reg.mbStatus 1 1 1)
  let s := { s with fw := { s.fw with down := false, svcRun := imgPart (svcImage s.fw.kept) } }
  let s := (List.range 16).foldl (fun s n => s.logSev 0x0112 Src.root sevError n) s
  let s := s.trace 0x08 Src.root [0x0112]
  match s.fw.activate, (s.pair 0).taken.findIdx? (fun t => rqOp t.words == 0x10B && t.stage == 2) with
  | some _, some k =>
    let s := s.drawn
    { s with fw := { s.fw with activate := none } }.mbFinish 0 k 0
      [w32 (usOf ((s.time + 2 ^ 64 - s.fw.activateAt) % 2 ^ 64) s.freeCount)]
  | _, _ => s

/-- ROOT_LOCKSTEP: Root stops, FAULT_N is asserted, ROOT_FAIL is set in every pair, and tiles stop at their next command
boundary (R301). -/
def State.rootLockstep (s : State) : State :=
  if !s.rootUp then s else
  let s := (s.aonCause 0x0114 noRail).eachPair (fun p => p.setF Reg.mbStatus 2 2 1)
  let s := { s with power := { s.power with faultN := true } }
  (s.stopTiles (List.range tileCount) 15).1.alertSync

/-! ### Mailbox windows: writes -/

/-- A 4-byte write of pair p's window. -/
def State.mbWrite (s : State) (p o : Nat) (val : Word) : State :=
  match regFind mbRegs o with
  | none => s
  | some r =>
    if !s.mbAnswers p o then s
    else if o = Reg.mbBootGo then s.bootGo val
    else if o = Reg.mbReqTail then s.doorbell p val
    else if o = Reg.mbRspHead then s.rspHeadWrite p val
    else if o = Reg.mbEvtHead then s.evtHeadWrite p val
    else if o = Reg.mbHostVer then s.hostVerWrite p val
    else s.modPair p (fun x => x.setReg o (r.write (x.reg o) val))

/-! ### BAR0 (R6, R7, R8, R419) -/

/-- A 4-byte write at an agent's address. -/
def State.busWrite4 (s : State) (a : Agent) (addr : Nat) (val : Word) : State :=
  match place a addr with
  | .mb p o => s.mbWrite p o val
  | .part n o => if mayPart a n then s.partWrite n o val else s
  | .chip o => s.chipWrite a o val
  | .tile t o => if s.mayTile a t then s.tilePut a t o val else s
  | .none => s

/-- A 4-byte read at an agent's address; a read that the block refuses gives none. -/
def State.busRead4 (s : State) (a : Agent) (addr : Nat) : State × Option Word :=
  match place a addr with
  | .mb p o => ((s.mbRead p o).1, some (s.mbRead p o).2)
  | .part n o => if mayPart a n then ((s.partRead n o).1, some (s.partRead n o).2) else (s, none)
  | .chip o => ((s.chipRead o).1, some (s.chipRead o).2)
  | .tile t o =>
    if s.mayTile a t then ((s.tileRead (pathOf a) t o).1, some (s.tileRead (pathOf a) t o).2) else (s, none)
  | .none => (s, some 0)

/-- Is an access one that BAR0 takes: 4 or 8 bytes, aligned on its size? The scalar core's own port takes 4. -/
def accessOk (a : Agent) (addr size : Nat) : Bool :=
  (size == 4 || (size == 8 && pathOf a == 1)) && addr % size == 0

/-- May an agent make an access at an address? What other agents than Service may not do is a matter of the block. -/
def State.mayAccess (s : State) (a : Agent) (write : Bool) (addr : Nat) : Bool :=
  match a with
  | .service n => !s.svcOutside n write (place a addr)
  | _ => true

/-- REGISTER_WRITE: an access of 8 bytes acts as two of 4, low offset first; any other is dropped (R419). -/
def State.registerWrite (s : State) (a : Agent) (addr size : Nat) (val : DWord) : State :=
  if !accessOk a addr size then s else
  let s := s.reach a (s.mayAccess a true addr) (fun s => s.busWrite4 a addr (w32 val.toNat))
  if size = 8 then
    s.reach a (s.mayAccess a true (addr + 4)) (fun s => s.busWrite4 a (addr + 4) (w32 (val.toNat / 2 ^ 32))) else s

/-- All ones: what a read that completes with Unsupported Request returns (R419). -/
def ones (size : Nat) : List Byte := List.replicate size 0xFF

/-- A register read: its value is what the agent sees, and RC bits clear (R8); a refused one completes with Unsupported
Request and all ones (R419). -/
def State.registerRead (s : State) (a : Agent) (addr size : Nat) : State :=
  if !s.agentUp a then s else
  if !accessOk a addr size then { s with hostRead := some (ones size), hostUr := true } else
  if !(s.mayAccess a false addr && (size == 4 || s.mayAccess a false (addr + 4))) then s.reach a false id else
  let r := (s.asAgent a).busRead4 a addr
  match r.2 with
  | none => { s with hostRead := some (ones size), hostUr := true }
  | some lo =>
    if size = 4 then { r.1 with hostRead := some (bytesOf 4 lo.toNat), hostUr := false } else
    let q := r.1.busRead4 a (addr + 4)
    { q.1 with hostRead := some (bytesOf 4 lo.toNat ++ bytesOf 4 (q.2.getD 0).toNat), hostUr := false }

end Sys2Proof.Machine
end

