-- ==== Sys2Proof/Machine/PartCmd.lean ====
section
/-!
DEFINITION. Machine/PartCmd.lean: partitions: creation (R330, R331), windows (R335, R336, R340), keys (R341), and reset
and destruction (R182, R316, R343 to R345).
-/

namespace Sys2Proof.Machine

/-- A failing check. -/
def bad (b : Bool) (code : Nat) : Bool × Nat := (b, code)

/-! ### Creation (R331) -/

/-- A unit that PART_CREATE may give: unowned, and not being zeroed. -/
def State.unitFree (s : State) (k : Nat) : Bool :=
  decide (k < 18) && (s.unitOwner k).isNone && s.f Reg.capStart (10 + k) (10 + k) == 0
def State.freeUnits (s : State) : List Nat := (List.range 18).filter s.unitFree

/-- A mask of units. -/
def unitMask (l : List Nat) : Nat := (l.map (fun k => 2 ^ k)).sum

/-- The units a request asks for. -/
def State.askedUnits (s : State) (w : List Word) : List Nat :=
  if rqExpert w then (List.range 32).filter (fun k => (par w 1).testBit k) else s.freeUnits.take (par w 1)

/-- CZ_ERR_PART_UNITS of R331. An empty mask is rejected as a count of 0 is (log 54). -/
def State.unitsBad (s : State) (w : List Word) : Bool :=
  if rqExpert w then par w 1 == 0 || (s.askedUnits w).any (fun k => !s.unitFree k)
  else par w 1 == 0 || decide (s.freeUnits.length < par w 1)

/-- PART_CREATE: the partition enters ACTIVE with no windows and no keys, in its reset state. -/
def State.partCreate (s : State) (p k : Nat) : State :=
  s.command p k 0x100 1
    (fun w => [bad (16 ≤ par w 0) 0x101, bad (3 < par w 2) 0x101])
    (fun w => [bad (s.partState (par w 0) ≠ 0) 0x103, bad (s.unitsBad w) 0x601])
    (fun t =>
      let n := par t.words 0
      let mask := unitMask (s.askedUnits t.words)
      let s := s.setPart n (Part.reset.put Reg.mbPartCfg (mask + 2 ^ 24 * par t.words 2 + 2 ^ 28))
      let s := (s.setSys n .reset).phaseIdle n
      (s.modPair (n + 1) (fun x => x.setF Reg.mbStatus 0 0 1)).mbFinish p k 0 [w32 mask])

/-! ### Reset and destruction (Tables 6.6 and 12.3) -/

/-- Every collective of the partition ends: notices go out, and nothing is written or signalled (R291). -/
def State.collReset (s : State) (n : Nat) : State :=
  let s := (List.range 64).foldl (fun s g => match s.ctx n g with
    | none => s
    | some c =>
      let s := if 2 ≤ c.st then s.sendNotices n g c.seq 0x515 (s.grpRank n g) none else s
      ((s.dropCollTags n g).setCtx n g none).withdraw n g) s
  (s.modPart n (fun p => { p with postQ := [], ctxs := [], held := [] })).noteEngine

/-- The fragment slots of a partition are free again, and collectives of others that have no grant get theirs. -/
def State.poolFreed (s : State) (n : Nat) : State :=
  let s := ({ s with pool := s.pool.filter (fun x => match x.2 with | some u => u.part != n | none => false) } : State).noteEngine
  s.allCtxs.foldl (fun s x => s.grantSlots x.1 x.2) s

/-- A reset ends a tile's Skimmer and Churn jobs (R194, R222). -/
def State.jobsEnd (s : State) (t : Nat) : State :=
  let s := s.skimEnds t
  { s.modTile t (fun x => x.churnEnds s.freeCount) with freeCount := s.freeCount + 1 }

/-- Step 1: the host writes accepted so far are performed (R181); Ladles issue no further transaction, the ingress refuses, collectives and jobs end, and the pair's commands
are aborted (R316). A BROKEN partition stays BROKEN. -/
def State.resetStart (s : State) (n : Nat) (keepVat destroy : Bool) (w : List Word) : State :=
  let s := s.ingressFlush n
  let s := if s.partState n = 3 then s else s.modPart n (fun p => p.setF Reg.mbPartCfg 30 28 2)
  let s := s.modSys n (fun x => { x with rst := ⟨1, keepVat, destroy, s.time, false, w⟩ })
  let s := (s.abortPair (n + 1) false).discardRequests (n + 1)
  let s := (s.tilesOf n).foldl (fun s t => s.jobsEnd t) s
  (s.collReset n).tracePart (0x70 + n) Src.root n [1]

/-- Has the partition's memory traffic drained (steps 2 and 3 of Table 6.6)? -/
def State.trafficDone (s : State) (n : Nat) : Bool :=
  s.ingressQ.all (fun g => g.vf != n) && (s.tilesOf n).all (fun t =>
    let x := s.tile t
    x.txns.isEmpty && x.col.queue.isEmpty && x.col.waitQ.isEmpty && x.sliceQ.isEmpty && x.inScr.isEmpty)

/-- Registers of a tile block that a partition reset leaves to the device's own loops, since what they show goes on: the
rail's, the grant, the temperatures, and the column's READY and HOT (log 86). -/
def physReg (o : Nat) : Bool :=
  (decide (0x900 ≤ o) && decide (o < 0x910)) || o == Reg.capTileGrant || o == Reg.capTileTemp || o == Reg.vatStatus

/-- A tile at step 5 of Table 12.3: its engines, queues, generators and register files are clear, its registers as they
were. The column's repairs, its refresh and its scrub go on. -/
def Tile.partZero (t : Tile) (keepVat : Bool) : Tile :=
  let c := t.col
  { Tile.reset with
    regs := t.regs
    col := { c with queue := [], waitQ := [], rowOpen := [], errs := if keepVat then c.errs else [] }
    railSamples := t.railSamples, tripSeen := t.tripSeen, vatTripSeen := t.vatTripSeen, layerTemps := t.layerTemps
    runGrant := t.runGrant, slots := t.slots, gated := t.gated }

/-- A tile after step 7 of Table 12.3. -/
def Tile.partReset (t : Tile) (keepVat : Bool) : Tile :=
  let x := { t.partZero keepVat with regs := t.regs.filter (fun p => physReg p.1) }
  let x := (x.setF Reg.vatStatus 1 1 0).setF Reg.capRailStatus 1 1 0
  x.showRepairs

/-- The trace point of each step of a reset (Table 11.8). -/
def State.resetSteps (s : State) (n : Nat) (l : List Nat) : State :=
  l.foldl (fun s i => s.tracePart (0x70 + n) Src.root n [i]) s

/-- Steps 4 and 5 of Table 12.3: the tiles stop, contexts and launches end, barriers clear, and zeroing starts. -/
def State.resetZeroes (s : State) (n : Nat) : State :=
  let s := s.modSys n (fun x => { x with svc := .reset, rst := { x.rst with step := 2, logged := false } })
  let s := s.modPart n (fun p => (List.range 64).foldl (fun p b => p.setF (Reg.collBarState + 8 * b) 12 0 0) p)
  let s := (s.tilesOf n).foldl (fun s t => s.modTile t (fun x => x.partZero (s.sys n).rst.keepVat)) s
  s.resetSteps n [2, 3, 4, 5]

/-- Step 7: memory reads as zero, and every register returns to its reset value but MB_PART_CFG. -/
def State.resetUnits (s : State) (n : Nat) (keepVat : Bool) : State :=
  let units := (List.range 18).filter (fun k => s.ownsUnit n k)
  let tiles := s.tilesOf n
  let s := units.foldl (fun s k => s.zeroUnit k (!keepVat)) s
  let s := { s with
    zeroing := s.zeroing.filter (fun z => !units.contains z.1)
    signals := s.signals.filter (fun x => !tiles.contains x.tile)
    ingressQ := s.ingressQ.filter (fun x => x.vf != n) }
  let s := tiles.foldl (fun s t => s.modTile t (fun x => x.partReset keepVat)) s
  let cfg := (s.part n).reg Reg.mbPartCfg
  ((s.setPart n (Part.reset.setReg Reg.mbPartCfg cfg)).setSys n .reset).poolFreed n

/-- The command on pair 0 that a partition's reset answers. -/
def State.resetCmd (s : State) (n : Nat) : Option Nat :=
  (s.pair 0).taken.findIdx? (fun t =>
    (rqOp t.words == 0x101 || rqOp t.words == 0x102) && t.stage == 1 && par t.words 0 == n)

/-- It responds, if it still waits. -/
def State.resetResponds (s : State) (n code : Nat) (res : List Word) : State :=
  match s.resetCmd n with
  | some k => s.mbFinish 0 k code res
  | none => s

/-- PART_RESET_ZEROING_DONE: steps 6 to 8 of Table 12.3. -/
def State.partResetZeroingDone (s : State) (n : Nat) : State :=
  let r := (s.sys n).rst
  if 16 ≤ n || r.step ≠ 2 || s.partState n ≠ 2 then s else
  let ns := (s.time + 2 ^ 64 - r.start) % 2 ^ 64
  let s := (s.resetUnits n r.keepVat).resetSteps n [6, 7, 8]
  if r.destroy then
    let s := (s.setPart n .reset).modPair (n + 1) (fun x => x.setF Reg.mbStatus 0 0 0)
    s.resetResponds n 0 []
  else
    let s := (s.modPart n (fun p => p.setF Reg.mbPartCfg 30 28 1)).phaseIdle n
    s.drawn.resetResponds n 0 [w32 (usOf ns s.freeCount)]

/-- PART_RESET and PART_DESTROY go on: once the traffic has drained, zeroing starts. -/
def State.resetGoesOn (s : State) (n : Nat) : State :=
  if (s.sys n).rst.step = 1 && s.trafficDone n then s.resetZeroes n else s

/-- PART_RESET. -/
def State.partReset (s : State) (p k : Nat) : State :=
  s.command p k 0x102 1
    (fun w => [bad (16 ≤ par w 0) 0x101, bad (rqExpert w && decide (1 < par w 1)) 0x101])
    (fun w => [bad (s.partState (par w 0) ≠ 1) 0x103])
    (fun t =>
      let n := par t.words 0
      if t.stage = 0 then
        (s.resetStart n (rqExpert t.words && par t.words 1 == 1) false t.words).stay p k 1 []
      else s.resetGoesOn n)

/-- PART_DESTROY: KEEP_VAT is taken as 0; a BROKEN partition is not left (R332). -/
def State.partDestroy (s : State) (p k : Nat) : State :=
  s.command p k 0x101 1
    (fun w => [bad (16 ≤ par w 0) 0x101])
    (fun w => [bad (s.partState (par w 0) = 0) 0x103])
    (fun t =>
      let n := par t.words 0
      if t.stage = 0 then (s.resetStart n false true t.words).stay p k 1 [] else s.resetGoesOn n)

/-- The bound of the step a reset is in, in ns (Tables 6.6 and 12.3). -/
def ResetRun.bound (r : ResetRun) : Nat := if r.step = 1 then 52000 else if r.keepVat then 84000 else 25000000

/-- PART_RESET_TIMEOUT: a step over its bound logs once and keeps waiting (R344). -/
def State.partResetTimeout (s : State) (n : Nat) : State :=
  let r := (s.sys n).rst
  if 16 ≤ n || r.step = 0 || r.logged || (s.time + 2 ^ 64 - r.start) % 2 ^ 64 ≤ r.bound then s
  else (s.modSys n (fun x => { x with rst := { x.rst with logged := true } })).logOpen 0x0604 Src.root n

/-- PART_BROKEN: 1 s after the trigger the partition enters BROKEN, and the response carries the code (R344). -/
def State.partBroken (s : State) (n : Nat) : State :=
  let r := (s.sys n).rst
  if 16 ≤ n || r.step = 0 || (s.time + 2 ^ 64 - r.start) % 2 ^ 64 < 1000000000 then s else
  let s := s.modSys n (fun x => { x with svc := .reset, rst := .none })
  (s.modPart n (fun p => p.setF Reg.mbPartCfg 30 28 3)).resetResponds n 0x604 []

/-! ### Windows (R335, R336, R340) -/

/-- A request's window: base, size, access and priority. -/
def wBase (w : List Word) : Nat := par64 w 2
def wSize (w : List Word) : Nat := par64 w 4
def wPrio (w : List Word) : Nat := if rqExpert w then par w 7 else 0

/-- CZ_ERR_PART_UNITS of R335: a part of the window on this chip lies outside the partition's own units. -/
def State.windowOutside (s : State) (n base size : Nat) : Bool :=
  let lo := max base (s.chipId * 2 ^ 40)
  let hi := min (base + size) ((s.chipId + 1) * 2 ^ 40)
  decide (lo < hi) && !s.rangeOwned n (gAddr lo) (hi - lo)

/-- CZ_ERR_PART_OVERLAP of R336. -/
def Part.windowClash (p : Part) (i base size : Nat) : Bool :=
  (List.range 16).any (fun j => j != i && p.winPrio j == 0 && overlaps base size (p.winBase j) (p.winSize j))

/-- A window's registers. -/
def Part.setWindow (p : Part) (i base size access prio : Nat) : Part :=
  let o := 32 * i
  ((((p.put (Reg.mbPartWinBaseLo + o) base).put (Reg.mbPartWinBaseHi + o) (base / 2 ^ 32)).put
    (Reg.mbPartWinSizeLo + o) size).put (Reg.mbPartWinSizeHi + o) (size / 2 ^ 32)).put
    (Reg.mbPartWinCtl + o) (access + 2 ^ 12 * prio)

/-- What was checked under the windows and has not ended, each as a number of its own: Ladle transactions and
descriptors, Skimmer jobs, collective posts (R340). -/
def State.checkedWork (s : State) (n : Nat) : List Nat :=
  let wordsNat := fun (l : List Word) => l.foldl (fun a w => a * 2 ^ 32 + w.toNat) 0
  (s.tilesOf n).flatMap (fun t =>
    let x := s.tile t
    x.txns.map (fun y => 4 * (t + 2 ^ 11 * y.id)) ++
    x.issuing.toList.map (fun y => 4 * (t + 2 ^ 11 * y.seq) + 1) ++
    x.skim.toList.map (fun y => 4 * (t + 2 ^ 11 * y.start) + 2)) ++
  (s.part n).postQ.map (fun q => 4 * (q.tile + 2 ^ 11 * wordsNat q.words) + 3) ++
  (s.part n).ctxs.filterMap (fun q => q.2.map (fun c => 4 * (c.tile + 2 ^ 11 * wordsNat c.words) + 3))

/-- WINDOW_SET: the window applies to every check made from now on; the response follows the end of what was checked
before. -/
def State.windowSet (s : State) (p k : Nat) : State :=
  s.command p k 0x103 1
    (fun w => [bad (16 ≤ par w 0) 0x101, bad (16 ≤ par w 1) 0x101, bad (wBase w % 2 ^ 16 ≠ 0) 0x101,
      bad (wSize w % 2 ^ 16 ≠ 0) 0x101, bad (64 ≤ par w 6) 0x101, bad (2 ^ 58 ≤ wBase w ∨ 2 ^ 58 < wBase w + wSize w) 0x101, bad (3 < wPrio w) 0x101])
    (fun w => [bad (s.partState (par w 0) ≠ 1) 0x103,
      bad (!rqExpert w && (s.part (par w 0)).windowClash (par w 1) (wBase w) (wSize w)) 0x600,
      bad (s.windowOutside (par w 0) (wBase w) (wSize w)) 0x601])
    (fun t =>
      let w := t.words
      let n := par w 0
      if t.stage = 0 then
        let work := s.checkedWork n
        let s := s.modPart n (fun x => x.setWindow (par w 1) (wBase w) (wSize w) (par w 6) (wPrio w))
        if work.isEmpty then s.mbFinish p k 0 [] else s.stay p k 1 work
      else if (s.checkedWork n).any (fun x => t.aux.contains x) then s
      else s.mbFinish p k 0 [])

/-! ### Keys (R341) -/

/-- KEY_LOAD: the key is unwrapped into its slot; an unwrap that fails leaves the slot unchanged. -/
def State.keyLoad (s : State) (p k : Nat) : State :=
  let wrapped := fun (w : List Word) => (List.range 8).flatMap (fun i => bytesOf 4 (par w (2 + i)))
  s.command p k 0x104 1
    (fun w => [bad (16 ≤ par w 0) 0x101, bad (4 ≤ par w 1) 0x101, bad (rqExpert w && decide (1 < par w 10)) 0x101,
      bad (sivOpen Config.kek (wrapped w)).isNone 0x602])
    (fun w => [bad (s.partState (par w 0) ≠ 1) 0x103])
    (fun t =>
      let w := t.words
      let n := par w 0
      let i := par w 1
      let grp := if rqExpert w then par w 10 else 1
      let key := (sivOpen Config.kek (wrapped w)).getD 0
      let s := s.modPart n (fun x => { (x.setF Reg.mbPartKeys i i 1).setF Reg.mbPartKeys (8 + i) (8 + i) grp with
        keys := tabSet keyD x.keys i key })
      s.mbFinish p k 0 [])

end Sys2Proof.Machine
end

