-- ==== Sys2Proof/Machine/RootCmd.lean ====
section
/-!
DEFINITION. Machine/RootCmd.lean: the commands of every pair and of Root's pair (Table 11.5, 0x0001 to 0x0006 and 0x0105
to 0x010E): versions, logging and tracing (R318, R327, R328), the budget (R380), the fabric (R319), firmware (R306), the
non-volatile store, resets and power-down (R183, R366, R411), and function-level resets (R333).
-/

namespace Sys2Proof.Machine

/-! ### Any pair -/

/-- PING: chip time; the expert form echoes its 14 words. -/
def State.ping (s : State) (p k : Nat) : State :=
  s.command p k 1 0 noChecks noChecks (fun t =>
    s.mbFinish p k 0 (if rqExpert t.words then t.words.drop 2 else res64 s.time))

/-- GET_VERSION. -/
def State.getVersion (s : State) (p k : Nat) : State :=
  s.command p k 2 0 noChecks noChecks (fun t =>
    let x := s.pair p
    s.mbFinish p k 0 ([x.reg Reg.mbFwVer, x.reg Reg.mbRootVer, x.reg Reg.mbSvcVer, w32 Config.romVersion] ++
      (if rqExpert t.words then [w32 s.fw.rootSec, w32 s.fw.svcSec, w32 s.fw.rootSlot, w32 s.fw.svcSlot] else [])))

/-- Contexts of a partition. -/
def SvcPart.ctxCount (v : SvcPart) : Nat := (v.ctxs.filter (fun x => x.2.isSome)).length

/-- Words of half-words, the first in the low half. -/
def halfWords : List Nat → List Word
  | [] => []
  | [a] => [w32 (a % 2 ^ 16)]
  | a :: b :: l => w32 (a % 2 ^ 16 + 2 ^ 16 * (b % 2 ^ 16)) :: halfWords l

/-- A range of tiles: existing, and the partition's own on a partition pair. -/
def State.tilesBad (s : State) (p first count : Nat) : Bool :=
  decide (tileCount < first + count) ||
  (p != 0 && (List.range count).any (fun i => !s.ownsTile (p - 1) (first + i)))

/-- The slots of the context area (R322) in which no context of the partition is saved: "free context slots" of Table
11.5, which no rule defines (DEDUCED, log 97). -/
def SvcPart.freeSlotCount (v : SvcPart) : Nat :=
  ((List.range 8).filter (fun c => !v.ctxs.any (fun x =>
    (x.2.map (fun y => (y.saved.map (fun z => z.1 == c)).getD false)).getD false))).length

/-- GET_INFO. On pair 0 the spec gives no value for the unit mask and the free context slots: they are free (log 97). -/
def State.getInfo (s : State) (p k : Nat) : State :=
  s.command p k 3 0
    (fun w => [bad (rqExpert w && (par w 1 == 0 || decide (24 < par w 1) || decide (tileCount < par w 0 + par w 1))) 0x101])
    (fun w => [bad (rqExpert w && decide (par w 1 ≤ 24) && s.tilesBad p (par w 0) (par w 1)) 0x101])
    (fun t =>
      let w := t.words
      if rqExpert w then
        s.mbFinish p k 0 (halfWords ((List.range (par w 1)).map (fun i => s.railMv (par w 0 + i) s.mhzNow)))
      else if p = 0 then
        s.drawn.mbFinish p k 0
          [w32 s.chipId, 31, w32 (Config.freeValue s.freeCount 0), w32 (Config.freeValue s.freeCount 1)]
      else
        s.mbFinish p k 0 [w32 s.chipId, w32 (p - 1), w32 ((s.part (p - 1)).f Reg.mbPartCfg 17 0),
          w32 (s.sys (p - 1)).svc.freeSlotCount])

/-- The severities of the sixteen sources that LOG_LEVEL asks for. -/
def levelsOf (w : List Word) : List Nat :=
  (List.range 16).map (fun i => if rqExpert w then par64 w 0 / 16 ^ i % 16 else par w 0)

/-- A pair's least severities by source. -/
def Pair.setLevels (x : Pair) (l : List Nat) : Pair :=
  { x with logLevel := (List.range 16).foldl (fun m i => tabSet natD m i (l.getD i 0)) x.logLevel }

/-- LOG_LEVEL: the least severity logged in the pair's ring. -/
def State.logLevel (s : State) (p k : Nat) : State :=
  s.command p k 4 0 (fun w => [bad ((levelsOf w).any (fun v => decide (4 < v))) 0x101]) noChecks (fun t =>
    (s.modPair p (fun x => x.setLevels (levelsOf t.words))).mbFinish p k 0 [])

/-- A trace buffer is 64 KiB to 64 MiB, a power of two (R328). -/
def traceSizeOk (n : Nat) : Bool := (List.range 11).any (fun i => n == 2 ^ (16 + i))

/-- Where the buffer's address and size stand in the request. -/
def traceAddr (w : List Word) : Nat := if rqExpert w then par64 w 8 else par64 w 2
def traceSize (w : List Word) : Nat := if rqExpert w then par w 10 else par w 4

/-- The enabled points after a request. -/
def tracePoints (w : List Word) (old : BitVec 256) : BitVec 256 :=
  if rqExpert w then BitVec.ofNat 256 (((List.range 8).map (fun i => par w i * 2 ^ (32 * i))).sum)
  else setBit old (par w 0) (par w 1 == 1)

/-- TRACE_CFG. -/
def State.traceCfg (s : State) (p k : Nat) : State :=
  s.command p k 5 0
    (fun w => [bad (!rqExpert w && (decide (255 < par w 0) || decide (1 < par w 1))) 0x101, bad (!traceSizeOk (traceSize w)) 0x101])
    noChecks
    (fun t => (s.modPair p (fun x => { x with
      trace := ⟨tracePoints t.words x.trace.points, traceAddr t.words, traceSize t.words⟩ })).mbFinish p k 0 [])

/-- A mark's record: its argument is the host's own 64 bits (Table 11.8). -/
def State.markTo (s : State) (pair point core arg : Nat) : State :=
  if !s.traces pair point then s else
  let p := s.pair pair
  let idx := (p.reg Reg.mbTraceWr).toNat
  let v := s.time % 2 ^ 48 + 2 ^ 48 * point + 2 ^ 56 * core + 2 ^ 64 * (arg % 2 ^ 64)
  { s.setPair pair (p.setReg Reg.mbTraceWr (w32 (idx + 1))) with
    hostMem := memWrite s.hostMem (p.trace.addr + (16 * idx) % p.trace.size) (bytesOf 16 v) }

/-- TRACE_MARK: a partition's mark is its own and the chip's (R328). -/
def State.traceMark (s : State) (p k : Nat) : State :=
  s.command p k 6 0 (fun w => [bad (par w 0 < 0xF0 || 0xFF < par w 0) 0x101]) noChecks (fun t =>
    let core := if p = 0 then Src.root else s.svcSrc (p - 1)
    let s := s.markTo 0 (par t.words 0) core (par64 t.words 1)
    (if p = 0 then s else s.markTo p (par t.words 0) core (par64 t.words 1)).mbFinish p k 0 [])

/-! ### Budget (R380, R381) -/

/-- POWER_LIMIT: the mailbox request; the expert form sets the tile rail limit and the envelope too. -/
def State.powerLimit (s : State) (p k : Nat) : State :=
  s.command p k 0x105 1
    (fun w => [bad (1023 < par w 0) 0x101, bad (rqExpert w && (decide (par w 1 < 200) || decide (1600 < par w 1))) 0x101,
      bad (rqExpert w && (decide (par w 2 < 900) || decide (1050 < par w 2))) 0x101, bad (rqExpert w && decide (100 < par w 3)) 0x101])
    noChecks
    (fun t =>
      let w := t.words
      let s := s.setF Reg.capBudgetReq 9 0 (par w 0)
      let s := if rqExpert w then
          ((s.setF Reg.capTileLimit 10 0 (par w 1)).setF Reg.capEnvelope 10 0 (par w 2)).setF Reg.capEnvelope 22 16 (par w 3)
        else s
      let s := s.retarget.alertSync
      s.mbFinish p k 0 [w32 (s.f Reg.capBudgetStat 9 0)])

/-- BUDGET_SOURCE. -/
def State.budgetSource (s : State) (p k : Nat) : State :=
  s.command p k 0x106 1
    (fun w => [bad (2 < par w 0) 0x101, bad (rqExpert w && decide (1023 < par w 1)) 0x101,
      bad (rqExpert w && decide (1023 < par w 2)) 0x101, bad (rqExpert w && decide (65535 < par w 3)) 0x101])
    noChecks
    (fun t =>
      let w := t.words
      let s := s.setF Reg.capBudgetCfg 1 0 (par w 0)
      let s := if rqExpert w then
          ((s.setF Reg.capBudgetCfg 13 4 (par w 1)).setF Reg.capBudgetReq 25 16 (par w 2)).setF Reg.capBudgetCfg 31 16 (par w 3)
        else s
      s.retarget.alertSync.mbFinish p k 0 [])

/-! ### Fabric (R319) -/

/-- Ports with EN = 1, as a mask. -/
def State.enabledPorts (s : State) : Nat :=
  ((List.range portCount).map (fun p => b2n (s.port p).en * 2 ^ p)).sum

/-- A word's bits outside a mask. -/
def outside (v mask : Nat) : Bool := v != (v &&& mask)

/-- Step 3: the fields the command gives are written; the chip ID seeds the fabric's generator (R236). -/
def State.fabricWords (s : State) (w : List Word) : State :=
  let s := ((s.setReg Reg.fabChipId (w32 (par w 0))).reseedFabric).setReg Reg.fabDims (w32 (par w 1))
  if rqExpert w then ((s.setReg Reg.fabRoute (w32 (par w 2))).setReg Reg.fabArb (w32 (par w 3))).setReg Reg.fabTagCfg (w32 (par w 4))
  else s.setF Reg.fabRoute 2 0 (par w 2)

/-- FABRIC_SET: ports off, then, once no tag is held, the fields, ports on, and the response. -/
def State.fabricSet (s : State) (p k : Nat) : State :=
  s.command p k 0x107 1
    (fun w => [bad (2 ^ 18 ≤ par w 0) 0x101, bad (outside (par w 1) 0x73F3F3F) 0x101,
      bad (5 < (if rqExpert w then par w 2 % 8 else par w 2)) 0x101,
      bad (rqExpert w && (outside (par w 2) 0x17 || outside (par w 3) 0xFF || decide (20480 < par w 4))) 0x101])
    noChecks
    (fun t =>
      if t.stage = 0 then
        let on := s.enabledPorts
        ((List.range portCount).foldl State.portDisable s).stay p k 1 [on]
      else if s.f Reg.fabTags 14 0 ≠ 0 then s
      else
        let s := s.fabricWords t.words
        let s := ((List.range portCount).filter (fun i => (t.aux.getD 0 0).testBit i)).foldl State.portEnable s
        s.mbFinish p k 0 [])

/-- PORT_SET. -/
def State.portSet (s : State) (p k : Nat) : State :=
  s.command p k 0x108 1
    (fun w => [bad (4096 ≤ par w 0) 0x101, bad (rqExpert w && (decide (4096 ≤ par w 1) || decide (4096 ≤ par w 2))) 0x101])
    noChecks
    (fun t =>
      let w := t.words
      let s := (List.range portCount).foldl (fun s i =>
        let s := if rqExpert w then s.modPort i (fun x =>
            (x.setF Reg.fabPortCtl 1 1 (b2n ((par w 1).testBit i))).setF Reg.fabPortCtl 2 2 (b2n ((par w 2).testBit i)))
          else s
        if (par w 0).testBit i then s.portEnable i else s.portDisable i) s
      s.mbFinish p k 0 (res64 (((List.range portCount).map (fun i => (s.port i).st * 8 ^ i)).sum)))

/-- The quota of partition n in the expert form: 6 bits each, from PARAM1 on. -/
def quotaOf (w : List Word) (n : Nat) : Nat := (par w 1 + 2 ^ 32 * par w 2 + 2 ^ 64 * par w 3) / 64 ^ n % 64

/-- COLL_CFG: the dense-axis reservation, and the quotas (R224, R295). -/
def State.collCfg (s : State) (p k : Nat) : State :=
  s.command p k 0x109 1
    (fun w => if rqExpert w then
        [bad (outside (par w 0) 0xF3) 0x101, bad (8 < par w 0 / 16 % 16) 0x101,
         bad ((List.range 16).any (fun n => decide (32 < quotaOf w n))) 0x101]
      else [bad (3 < par w 0) 0x101, bad (8 < par w 1) 0x101])
    noChecks
    (fun t =>
      let w := t.words
      let s := if rqExpert w then
          (List.range 16).foldl (fun s n => s.setReg (Reg.collQuota + 4 * n) (w32 (quotaOf w n)))
            (s.setReg Reg.collDenseCfg (w32 (par w 0)))
        else s.setReg Reg.collDenseCfg (w32 (par w 0 + 16 * par w 1))
      s.mbFinish p k 0 [])

/-! ### Firmware (R306) -/

/-- The bundle that FW_STAGE fetches, and the code of its Service image's check. -/
def State.stagedBundle (s : State) (w : List Word) : List Byte := memRead s.hostMem (par64 w 0) (par w 2)
def State.stageCode (s : State) (w : List Word) : Nat :=
  if 2 ^ 25 < par w 2 then 0x101
  else if !s.hostUp then 0x105
  else imgCheck 2 s.fw.svnSvc (some ((s.pair 0).f Reg.mbFwVer 31 16)) (svcImage (s.stagedBundle w))

/-- FW_STAGE: a rejected one leaves what was staged. -/
def State.fwStage (s : State) (p k : Nat) : State :=
  s.command p k 0x10A 1 (fun w => [bad (rqExpert w && decide (1 < par w 3)) 0x101])
    (fun w => [bad (s.stageCode w ≠ 0) (s.stageCode w)])
    (fun t =>
      let b := s.stagedBundle t.words
      let commit := rqExpert t.words && par t.words 3 == 1
      let s := { s with fw := { s.fw with
        staged := some b, svnSvc := if commit then max s.fw.svnSvc (min 64 (imgSec (svcImage b))) else s.fw.svnSvc } }
      let s := if commit then s.trace 0x0D Src.root [imgSec (svcImage b)] else s
      s.mbFinish p k 0 [w32 (imgVer (svcImage b))])

/-- Is every command in progress on the partition pairs a LAUNCH? -/
def State.onlyLaunches (s : State) : Bool :=
  (List.range 16).all (fun n => (s.pair (n + 1)).taken.all (fun t => rqOp t.words == 0x204))

/-- Service is replaced by the staged image, and the kept bundle follows (step 3 and 4). -/
def State.swapService (s : State) (root : Bool) : State :=
  let b := s.fw.staged.getD []
  let v := svcImage b
  let kept := if root then b else s.fw.kept.take (svcOffset s.fw.kept) ++ imgPart v
  let s := s.serviceStops
  let s := { s with fw := { s.fw with
    kept := kept, rootNext := s.fw.rootNext || root, staged := none, svcSec := imgSec v, svcSlot := imgSlot v } }
  (s.eachPair (fun p => p.setReg Reg.mbSvcVer (w32 (imgVer v)))).trace 0x09 Src.root [0]

/-- FW_ACTIVATE: it waits, replaces Service, and responds once Service has restarted (SVC_RESTART). -/
def State.fwActivate (s : State) (p k : Nat) : State :=
  s.command p k 0x10B 1 (fun w => [bad (rqExpert w && decide (1 < par w 0)) 0x101])
    (fun _ => [bad s.fw.staged.isNone 0x103])
    (fun t =>
      if t.stage = 0 then
        { s with fw := { s.fw with activate := some t.words, activateAt := s.time } }.stay p k 1 []
      else if t.stage = 1 && s.onlyLaunches && !s.fw.down then
        (s.swapService (rqExpert t.words && par t.words 0 == 1)).stay p k 2 []
      else s)

/-! ### The non-volatile store, resets and power-down -/

/-- What NV_READ copies: the record of Table 14.4 for kind 3; of other kinds the spec gives no layout (log 52). -/
def State.nvRecord (s : State) (w : List Word) : List Byte :=
  if par w 0 = 3 then (s.fw.nvCycles.getD 0 []).flatMap (fun x => bytesOf 4 x.toNat)
  else (List.range (Config.freeValue s.freeCount 0 % 4097)).map (fun i => BitVec.ofNat 8 (Config.freeValue s.freeCount (i + 1)))

/-- NV_READ. -/
def State.nvRead (s : State) (p k : Nat) : State :=
  s.command p k 0x10C 1
    (fun w => [bad (!((par w 0 == 3 && par w 1 == 0) || Config.nvKnown (par w 0) (par w 1))) 0x101])
    (fun _ => [bad (!s.hostUp) 0x105])
    (fun t =>
      let r := s.nvRecord t.words
      { s.drawn with hostMem := memWrite s.hostMem (par64 t.words 2) r }.mbFinish p k 0 [w32 r.length])

/-- DEVICE_RESET: the response is posted; the reset itself follows. -/
def State.deviceResetCmd (s : State) (p k : Nat) : State :=
  match s.fw.deviceReset with
  | some new => s.warmReset new
  | none =>
    s.command p k 0x10D 1 (fun w => [bad (rqExpert w && decide (1 < par w 0)) 0x101]) noChecks (fun t =>
      let new := rqExpert t.words && par t.words 0 == 1
      { (s.trace 0x0A Src.root [0]) with fw := { s.fw with deviceReset := some new } }.mbFinish p k 0 [])

/-- The rails of an orderly power-down have fallen (R366): VAON stays up. -/
def State.railsFall (s : State) : State := (s.trace 0x0C Src.root [0]).holdDevice

/-- Has a tile come to a command boundary: no descriptor, pass, weight load or drain, and no job, is in progress? A
synchronisation command that waits has none of its effects to come but its end. -/
def Tile.atBoundary (x : Tile) : Bool :=
  x.issuing.isNone && x.txns.isEmpty && x.passes.isEmpty && x.arr.loads.isEmpty && x.drains.isEmpty && x.sbuf.isEmpty &&
  x.churn.isNone && x.skim.isNone

/-- POWER_DOWN: every queue stops at a command boundary (1); the ingress refuses and traffic drains (2); the non-volatile
record is written and the response posted; then the rails fall (3) (R183, R366). -/
def State.powerDownCmd (s : State) (p k : Nat) : State :=
  if s.fw.powerDown = 3 then s.railsFall else
  s.command p k 0x10E 1 noChecks noChecks (fun t =>
    if t.stage = 0 then
      let s := (s.stopTiles (List.range tileCount) 15).1.trace 0x0B Src.root [0]
      { s with fw := { s.fw with powerDown := 1 } }.stay p k 1 []
    else if s.fw.powerDown = 1 then
      if (List.range tileCount).all (fun t => (s.tile t).atBoundary) then
        let s := (List.range 16).foldl (fun s n => s.ingressFlush n) s
        { s with fw := { s.fw with powerDown := 2 } }
      else s
    else if (List.range 16).all s.trafficDone && s.tags.isEmpty then
      let s := s.writeTcyc true
      { s with fw := { s.fw with powerDown := 3 } }.mbFinish p k 0 []
    else s)

/-- PF_FLR: as DEVICE_RESET (R411). -/
def State.pfFlr (s : State) : State := if s.hostUp then s.warmReset false else s

/-- The registers of a pair that the firmware maintains (R333). -/
def firmwareReg (o : Nat) : Bool :=
  o == Reg.mbFwVer || o == Reg.mbRootVer || o == Reg.mbSvcVer || o == Reg.mbLogSeq || o == Reg.mbTraceWr ||
  decide (Reg.mbLogRec ≤ o)

/-- A pair after a function-level reset of its function. -/
def Pair.flr (x : Pair) : Pair :=
  { x with
    regs := tabSet mbRegD (x.regs.filter (fun r => firmwareReg r.1)) Reg.mbStatus (x.reg Reg.mbStatus &&& 7)
    latch := [], taken := [], irqPend := 0, rspWait := [] }

/-- VF_FLR: the pair's commands end, its untaken requests are discarded, and the host-written state returns to its reset
values (R333). -/
def State.vfFlr (s : State) (n : Nat) : State :=
  if !s.hostUp || 16 ≤ n then s else
  let s := (s.abortPair (n + 1) false).modPair (n + 1) Pair.flr
  s.logSev (tableCodes.getD (Config.flrCode % tableCodes.length) 0) Src.root sevWarn n

end Sys2Proof.Machine
end

