-- ==== Sys2Proof/Machine/Scalar.lean ====
section
/-!
DEFINITION. Machine/Scalar.lean: the scalar core (R111, R166, R321): RV32IM in machine mode, its store buffer, and its
local register port. The encodings are those of the RISC-V base (PRESUMED, log 43).
-/

namespace Sys2Proof.Machine

/-! ### Registers and the store buffer -/

/-- x0 reads as zero. -/
def Tile.x (t : Tile) (r : Nat) : Word := if r = 0 then 0 else tabGet wordD t.xr r

/-- A write to x0 is discarded. -/
def Tile.setX (t : Tile) (r : Nat) (v : Word) : Tile := if r = 0 then t else { t with xr := tabSet wordD t.xr r v }

/-- The oldest store of the buffer reaches scratch (R166). -/
def Tile.drainStore (t : Tile) : Tile :=
  match t.sbuf with
  | [] => t
  | b :: l => ({ t with sbuf := l } : Tile).wrVal b.addr b.size b.val.toNat

/-- The bytes that the oldest store of the buffer writes. -/
def Tile.storeSpan (t : Tile) : List (Nat × Nat) := match t.sbuf with | [] => [] | b :: _ => [(b.addr, b.size)]

/-- A store of an instruction enters the buffer. -/
def Tile.bufferStore (t : Tile) (addr size : Nat) (val : Word) : Tile := { t with sbuf := t.sbuf ++ [⟨addr, size, val⟩] }

/-- A byte as a load of the core sees it: the newest matching store of the buffer, else scratch. -/
def Tile.seesByte (t : Tile) (a : Nat) : Nat :=
  match t.sbuf.reverse.find? (fun b => decide (b.addr ≤ a) && decide (a < b.addr + b.size)) with
  | some b => b.val.toNat / 2 ^ (8 * (a - b.addr)) % 256
  | none => t.rd8 a

/-- n bytes as a load sees them, little-endian. -/
def Tile.sees (t : Tile) (a : Nat) : Nat → Nat
  | 0 => 0
  | n + 1 => t.seesByte a + 256 * t.sees (a + 1) n

/-! ### Decoding -/

/-- Sign extension of a field of w bits to 32. -/
def sext (w v : Nat) : Word := BitVec.ofInt 32 (toSigned w v)

/-- The immediates of the formats. -/
def immI (i : Word) : Word := sext 12 (fld i 31 20)
def immS (i : Word) : Word := sext 12 (fld i 31 25 * 32 + fld i 11 7)
def immB (i : Word) : Word :=
  sext 13 (fld i 31 31 * 4096 + fld i 7 7 * 2048 + fld i 30 25 * 32 + fld i 11 8 * 2)
def immU (i : Word) : Word := BitVec.ofNat 32 (fld i 31 12 * 4096)
def immJ (i : Word) : Word :=
  sext 21 (fld i 31 31 * 2 ^ 20 + fld i 19 12 * 4096 + fld i 20 20 * 2048 + fld i 30 21 * 2)

/-- Signed and unsigned views. -/
def sv (w : Word) : Int := w.toInt
def uv (w : Word) : Nat := w.toNat

/-- The ALU operations of OP and OP-IMM, by funct3; `alt` is SUB or SRA. -/
def aluOp (f3 : Nat) (alt : Bool) (a b : Word) : Word :=
  let sh := uv b % 32
  match f3 with
  | 0 => if alt then a - b else a + b
  | 1 => BitVec.ofNat 32 (uv a * 2 ^ sh)
  | 2 => if sv a < sv b then 1 else 0
  | 3 => if uv a < uv b then 1 else 0
  | 4 => a ^^^ b
  | 5 => if alt then BitVec.ofInt 32 (sv a / (2 ^ sh : Nat)) else BitVec.ofNat 32 (uv a / 2 ^ sh)
  | 6 => a ||| b
  | _ => a &&& b

/-- The M extension, by funct3; a division by zero and the overflow of a signed division give the base's values. -/
def mulOp (f3 : Nat) (a b : Word) : Word :=
  match f3 with
  | 0 => a * b
  | 1 => BitVec.ofInt 32 (sv a * sv b / (2 ^ 32 : Nat))
  | 2 => BitVec.ofInt 32 (sv a * (uv b : Int) / (2 ^ 32 : Nat))
  | 3 => BitVec.ofNat 32 (uv a * uv b / 2 ^ 32)
  | 4 => if b = 0 then BitVec.ofInt 32 (-1) else BitVec.ofInt 32 (Int.tdiv (sv a) (sv b))
  | 5 => if b = 0 then BitVec.ofInt 32 (-1) else BitVec.ofNat 32 (uv a / uv b)
  | 6 => if b = 0 then a else BitVec.ofInt 32 (Int.tmod (sv a) (sv b))
  | _ => if b = 0 then a else BitVec.ofNat 32 (uv a % uv b)

/-- Is a branch taken? -/
def branchTaken (f3 : Nat) (a b : Word) : Bool :=
  match f3 with
  | 0 => a == b
  | 1 => a != b
  | 4 => decide (sv a < sv b)
  | 5 => decide (sv b ≤ sv a)
  | 6 => decide (uv a < uv b)
  | _ => decide (uv b ≤ uv a)

/-- What an instruction asks for. -/
inductive ScAct
  | alu (rd : Nat) (v : Word)
  | jump (rd : Nat) (target : Word)
  | branch (taken : Bool) (target : Word)
  | load (rd : Nat) (addr : Word) (size : Nat) (signed : Bool)
  | store (addr : Word) (size : Nat) (val : Word)
  | fence
  | ecall
  | ebreak
  | illegal
  deriving DecidableEq, Repr

/-- The bytes that a load or store of a funct3 moves; 0 for a reserved one. -/
def accessSize (f3 : Nat) : Nat := match f3 % 4 with | 0 => 1 | 1 => 2 | 2 => 4 | _ => 0

/-- Decode and evaluate an instruction word at `pc`. -/
def scDecode (t : Tile) (pc i : Word) : ScAct :=
  let rd := fld i 11 7
  let a := t.x (fld i 19 15)
  let b := t.x (fld i 24 20)
  let f3 := fld i 14 12
  let f7 := fld i 31 25
  match fld i 6 0 with
  | 0x37 => .alu rd (immU i)
  | 0x17 => .alu rd (pc + immU i)
  | 0x6F => .jump rd (pc + immJ i)
  | 0x67 => if f3 = 0 then .jump rd ((a + immI i) &&& 0xFFFFFFFE) else .illegal
  | 0x63 => if f3 = 2 ∨ f3 = 3 then .illegal else .branch (branchTaken f3 a b) (pc + immB i)
  | 0x03 => if accessSize f3 = 0 ∨ f3 = 6 then .illegal else .load rd (a + immI i) (accessSize f3) (decide (f3 < 4))
  | 0x23 => if 2 < f3 then .illegal else .store (a + immS i) (accessSize f3) b
  | 0x13 =>
    if f3 = 1 then (if f7 = 0 then .alu rd (aluOp 1 false a (immI i)) else .illegal)
    else if f3 = 5 then
      (if f7 = 0 then .alu rd (aluOp 5 false a (immI i)) else if f7 = 0x20 then .alu rd (aluOp 5 true a (immI i)) else .illegal)
    else .alu rd (aluOp f3 false a (immI i))
  | 0x33 =>
    if f7 = 0 then .alu rd (aluOp f3 false a b)
    else if f7 = 1 then .alu rd (mulOp f3 a b)
    else if f7 = 0x20 ∧ (f3 = 0 ∨ f3 = 5) then .alu rd (aluOp f3 true a b)
    else .illegal
  | 0x0F => if f3 = 0 then .fence else .illegal
  | 0x73 => if i = 0x00000073 then .ecall else if i = 0x00100073 then .ebreak else .illegal
  | _ => .illegal

/-! ### Execution -/

/-- The local register port (R111), and an address's offset in it. -/
def isPort (a : Word) : Bool := decide (0xF0000000 ≤ a.toNat) && decide (a.toNat ≤ 0xF000FFFF)
def portOff (a : Word) : Nat := a.toNat - 0xF0000000

/-- Is the core ready for its next instruction? -/
def Tile.scReady (t : Tile) : Bool := t.runs 2 && t.stall.isNone && (tabGet waitD t.waits 2).isNone

/-- The core meets a fault: the pc goes past the instruction, which FAULT_CLEAR discards (R109, R110). -/
def Tile.scFault (t : Tile) (code : Nat) : Tile := ({ t with pc := t.pc + 4 } : Tile).recordFault code 2 0

/-- Fetch at the pc: the word with the ECC counts of the read, or the fault's code. -/
def Tile.scFetch (t : Tile) : Tile × Except Nat Word :=
  let a := t.pc.toNat
  if scratchSize < a + 4 then (t, .error 0x250)
  else if a % 4 ≠ 0 then (t, .error 0x251)
  else
    let r := t.scrReads [(a, 4)]
    if r.2 then (r.1, .error 0x260) else (r.1, .ok (BitVec.ofNat 32 (t.rd32 a)))

/-- What the instruction at the pc asks for. -/
def Tile.scNext (t : Tile) : Tile × Except Nat ScAct :=
  match t.scFetch with
  | (t', .error c) => (t', .error c)
  | (t', .ok i) => (t', .ok (scDecode t t.pc i))

/-- A write through the local port: it waits until the store buffer is empty (R166); only whole words act. -/
def State.portStore (s : State) (t : Nat) (addr : Word) (size : Nat) (val : Word) : State :=
  let x := s.tile t
  if !x.sbuf.isEmpty then s.setTile t { x with stall := some (.store addr size val) }
  else
    let s := s.setTile t { x with stall := none }
    if size = 4 && decide (portOff addr < 0x2000) then s.tileWrite (.core t) t (portOff addr) val else s

/-- A load: scratch, the local port, or a fault (R111). Part of a register is a free value (log 44). -/
def State.scLoad (s : State) (t rd : Nat) (addr : Word) (size : Nat) (signed : Bool) : State :=
  let x := s.tile t
  let a := addr.toNat
  let put := fun (s : State) (v : Nat) =>
    s.modTile t (fun x => { (x.setX rd (if signed then sext (8 * size) v else BitVec.ofNat 32 v)) with pc := x.pc + 4 })
  if a + size ≤ scratchSize then
    if a % size ≠ 0 then s.setTile t (x.scFault 0x251) else
    let r := x.scrReads [(a, size)]
    if r.2 then s.setTile t (r.1.scFault 0x260) else put (s.setTile t r.1) (x.sees a size)
  else if isPort addr then
    if a % size ≠ 0 then s.setTile t (x.scFault 0x251)
    else if size = 4 then
      let r := if portOff addr < 0x2000 then s.tileRead 0 t (portOff addr) else (s, 0)
      put r.1 r.2.toNat
    else put { s with freeCount := s.freeCount + 1 } (Config.freeValue s.freeCount 0 % 2 ^ (8 * size))
  else s.setTile t (x.scFault 0x250)

/-- A store. One that finds the buffer full waits: the instruction is tried again (R166). -/
def State.scStore (s : State) (t : Nat) (addr : Word) (size : Nat) (val : Word) : State :=
  let x := s.tile t
  let a := addr.toNat
  if a + size ≤ scratchSize then
    if a % size ≠ 0 then s.setTile t (x.scFault 0x251)
    else if 4 ≤ x.sbuf.length then s
    else s.setTile t { (x.bufferStore a size (BitVec.ofNat 32 (val.toNat % 2 ^ (8 * size)))) with pc := x.pc + 4 }
  else if isPort addr then
    if a % size ≠ 0 then s.setTile t (x.scFault 0x251)
    else (s.setTile t { x with pc := x.pc + 4 }).portStore t addr size val
  else s.setTile t (x.scFault 0x250)

/-- A jump or taken branch; a misaligned target traps (R111). -/
def Tile.scJump (t : Tile) (rd : Nat) (target : Word) : Tile :=
  if target.toNat % 4 ≠ 0 then t.scFault 0x251 else { (t.setX rd (t.pc + 4)) with pc := target }

/-- The scratch bytes that the core's next instruction reads: its word, and what it loads (R45, R111). -/
def Tile.scReads (t : Tile) : List (Nat × Nat) :=
  let a := t.pc.toNat
  if scratchSize < a + 4 ∨ a % 4 ≠ 0 then [] else
  (a, 4) :: (match scDecode t t.pc (BitVec.ofNat 32 (t.rd32 a)) with
    | .load _ addr size _ => if addr.toNat + size ≤ scratchSize ∧ addr.toNat % size = 0 then [(addr.toNat, size)] else []
    | _ => [])

/-- What the instruction fetched does. -/
def State.scExecute (s : State) (t : Nat) (y : Tile) (act : ScAct) : State :=
  let s := s.setTile t y
  match act with
  | .alu rd v => s.setTile t { (y.setX rd v) with pc := y.pc + 4 }
  | .jump rd target => s.setTile t (y.scJump rd target)
  | .branch taken target => s.setTile t (if taken then y.scJump 0 target else { y with pc := y.pc + 4 })
  | .load rd addr size signed => s.scLoad t rd addr size signed
  | .store addr size val => s.scStore t addr size val
  | .fence => s.setTile t { y with pc := y.pc + 4 }
  | .illegal => s.setTile t (y.scFault 0x251)
  | .ecall => s
  | .ebreak => s

/-- The core's next instruction, its scratch reads won: it is fetched and executed, or meets a fault. -/
def State.scStep (s : State) (t : Nat) : State :=
  match (s.tile t).scNext with
  | (y, .error c) => s.setTile t (y.scFault c)
  | (y, .ok act) => s.scExecute t y act

/-- A step of the core whose scratch reads rank last (R45): lost, it has no other effect. -/
def State.scServed (s : State) (t : Nat) (f : State → State) : State := s.banked t 7 (s.tile t).scReads f

/-- SCALAR_INSTRUCTION: the core executes one instruction other than ECALL and EBREAK, or a store that stalls it is
tried again. -/
def State.scalarInstruction (s : State) (t : Nat) : State :=
  let x := s.tile t
  match x.stall with
  | some (.store addr size val) => if x.runs 2 then s.portStore t addr size val else s
  | _ => if x.scReady then s.scServed t (fun s => s.scStep t) else s

/-- The launch that runs on a tile, as a partition and a context. -/
def State.launchOf (s : State) (t : Nat) : Option (Nat × Nat) :=
  match s.tileOwner t with
  | none => none
  | some n =>
    ((s.sys n).svc.ctxs.find? (fun p => match p.2 with
      | some c => c.launch.isSome && (match c.origin with
        | some o => decide (o ≤ t) && decide ((t - o) / 32 < c.rows) && decide ((t - o) % 32 < c.cols)
        | none => false)
      | none => false)).map (fun p => (n, p.1))

/-- A tile's exit is noted in its launch. -/
def State.noteExit (s : State) (t : Nat) (code : Word) : State :=
  match s.launchOf t with
  | none => s
  | some (n, c) =>
    s.modSys n (fun x => { x with svc := { x.svc with
      ctxs := tabMod svcCtxD x.svc.ctxs c (fun y => y.map (fun y => { y with
        launch := y.launch.map (fun l => { l with exits := tabSet natD l.exits t (code.toNat + 1) }) })) } })

/-- An ECALL fetched: SVC_REQ is set and the core stalls. -/
def State.ecallStep (s : State) (t : Nat) : State :=
  let x := s.tile t
  match x.scNext with
  | (y, .ok .ecall) =>
    let a0 := x.x 10
    let a1 := x.x 11
    if a0.toNat ≤ 1 then
      let s := s.setTile t { y.setF Reg.ladleQctl 16 16 1 with pc := y.pc + 4, stall := some .ecall }
      if a0 = 0 then s.noteExit t a1
      else
        let part := (s.tileOwner t).getD chipPart
        s.log (0xF000 + a1.toNat % 4096) Src.tile sevInfo part [BitVec.ofNat 32 t, a1, x.x 12]
    else s.setTile t (({ y.setF Reg.ladleQctl 16 16 1 with pc := y.pc + 4 } : Tile).recordFault 0x251 2 0)
  | _ => s

/-- ECALL: sets SVC_REQ and stalls the core; a0 = 0 ends the launch on the tile with exit code a1, a0 = 1 logs a kernel
code, any other a0 stops the core with CZ_ERR_SC_TRAP (R111, R321). -/
def State.ecall (s : State) (t : Nat) : State :=
  if (s.tile t).scReady then s.scServed t (fun s => s.ecallStep t) else s

/-- EBREAK sets the core's STOP bit and raises no fault (R111). -/
def Tile.ebreakStep (t : Tile) : Tile :=
  match t.scNext with
  | (y, .ok .ebreak) => { y.setF Reg.ladleQctl 2 2 1 with pc := y.pc + 4 }
  | _ => t

/-- EBREAK. -/
def State.ebreak (s : State) (t : Nat) : State :=
  if (s.tile t).scReady then s.scServed t (fun s => s.modTile t Tile.ebreakStep) else s

end Sys2Proof.Machine
end

