-- ==== Sys2Proof/Machine/Context.lean ====
section
/-!
DEFINITION. Machine/Context.lean: contexts of a partition: placement (R320), the image of a tile (Tables 3.8 and 11.6,
R101 to R103, R322, R323), saving and restoring, and the scheduler's turns and rotation (R324, R325).
-/

namespace Sys2Proof.Machine

/-! ### Placement (R320) -/

/-- The tiles of a rectangle. -/
def rectTiles (o rows cols : Nat) : List Nat :=
  (List.range rows).flatMap (fun i => (List.range cols).map (fun j => o + 32 * i + j))

/-- The tiles of a placed context, by position. -/
def SvcCtx.tiles (x : SvcCtx) : List Nat := match x.origin with | some o => rectTiles o x.rows x.cols | none => []

/-- Does a rectangle fit the array at an origin? -/
def rectFits (o rows cols : Nat) : Bool := decide (o % 32 + cols ≤ 32) && decide (o / 32 + rows ≤ 36)

/-- Do tiles of a partition belong to a placed context other than c? -/
def State.tileTaken (s : State) (n c t : Nat) : Bool :=
  (s.sys n).svc.ctxs.any (fun x => x.1 != c && (x.2.map (fun y => y.tiles.contains t)).getD false)

/-- May context c of partition n, of a shape, stand at an origin? -/
def State.originOk (s : State) (n c rows cols o : Nat) : Bool :=
  rectFits o rows cols && (rectTiles o rows cols).all (fun t => s.ownsTile n t && !s.tileTaken n c t)

/-- Where a context goes: its fixed origin, or the lowest that is free. -/
def State.findOrigin (s : State) (n c : Nat) (x : SvcCtx) (fixed : Option Nat) : Option Nat :=
  match fixed with
  | some o => if s.originOk n c x.rows x.cols o then some o else none
  | none => (List.range tileCount).find? (s.originOk n c x.rows x.cols)

/-- The trace point of contexts (Table 11.8). -/
def State.ctxTrace (s : State) (n c kind o : Nat) : State := s.tracePart (0x40 + n) (s.svcSrc n) n [c, kind, o]

/-- A context is placed. -/
def State.placeCtx (s : State) (n c o : Nat) : State :=
  (s.modSvcCtx n c (fun x => { x with origin := some o, waiting := false, placedAt := s.time })).ctxTrace n c 1 o

/-! ### The image of a tile (Tables 3.8 and 11.6) -/

/-- The chip address of slot c in the context area of a tile's column (R322). -/
def ctxSlot (t c : Nat) : Nat := t * 2 ^ 28 + 0x0F800000 + c * 2 ^ 20

/-- The QSEL of the gang whose open output tile uses a quarter. -/
def Tile.openGang (t : Tile) (q : Nat) : Nat :=
  ((List.range 4).find? (fun g => (tabGet openTileD t.openTile g).isSome && (columnQuarters t.gang g).contains q)).getD 0

/-- The set word of set v of quarter q. -/
def Tile.setWord (t : Tile) (q v : Nat) : Nat :=
  let fill := 4 * b2n (t.fillSet q == v)
  if t.setState q v = 1 then
    let g := t.openGang q
    let tn := (tabGet openTileD t.openTile g).getD (0, 0)
    1 + fill + 2 ^ 3 * t.gang + 2 ^ 5 * g + 2 ^ 7 * tn.1 + 2 ^ 14 * tn.2
  else fill

/-- The accumulator context: offset within it, and bytes. Data are written for OPEN sets only. DESIGN CHOICE (log 75):
entries of a drain queue beyond its level are written as zero. -/
def Tile.accImage (t : Tile) : List (Nat × List Byte) :=
  [(0, (List.range 8).flatMap (fun m => bytesOf 8 (t.setWord (m / 2) (m % 2)))),
   (0x40, (List.range 4).flatMap (fun q => bytesOf 8 (tabGet genD t.gens q).toNat)),
   (0x60, (List.range 16).flatMap (fun i =>
     let e := (tabGet targetsD t.targets (i / 4)).getD (i % 4) (0, 0)
     bytesOf 8 (e.1 + 2 ^ 32 * e.2))),
   (0xE0, bytesOf 4 (((List.range 4).map (fun g => (tabGet targetsD t.targets g).length * 8 ^ g)).sum))] ++
  ((List.range 8).filter (fun m => t.setState (m / 2) (m % 2) == 1)).map (fun m =>
    (0x100 + 0x8000 * m, (List.range 4096).flatMap (fun i => bytesOf 8 (tabGet accD t.acc (m * 4096 + i)).toNat)))

/-- The queues of the image: engine, capacity. -/
def imageQueues : List (Nat × Nat) := [(0, 16), (1, 16), (3, 32)]

/-- The pc that a restored core goes on at: a local-port write that waits is made again. -/
def Tile.resumePc (t : Tile) : Word := match t.stall with | some (.store _ _ _) => t.pc - 4 | _ => t.pc

/-- The tile's image: offset and bytes. Slots of absent queue entries, and the area whose layout no rule gives, hold free
values (log 102). -/
def Tile.image (t : Tile) (draw : Nat) : List (Nat × List Byte) :=
  let free := fun (k : Nat) => (BitVec.ofNat 8 (Config.freeValue draw k) : Byte)
  [(0, t.rdBytes 0 scratchSize)] ++ t.accImage.map (fun x => (0xA0000 + x.1, x.2)) ++
  [(0xE0100, (List.range 1024).flatMap (fun i => bytesOf 2 (t.f (Reg.ladleSem + 4 * i) 15 0))),
   (0xE0900, (List.range 2048).flatMap (fun i => bytesOf 4 (tabGet wordD t.vr i).toNat)),
   (0xE2900, ((List.range 31).flatMap (fun i => bytesOf 4 (t.x (i + 1)).toNat)) ++ bytesOf 4 t.resumePc.toNat),
   (0xE2980, imageQueues.flatMap (fun q => (List.range q.2).flatMap (fun i =>
     match (t.queue q.1)[i]? with
     | some e => (List.range 8).flatMap (fun w => bytesOf 4 (e.getD w 0).toNat)
     | none => (List.range 32).map (fun b => free (1024 + 32 * (64 * q.1 + i) + b))))),
   (0xE3180, (List.range 0x200).map free)]

/-- The offsets of the RW registers that the image keeps: Tables 2.9, 3.7, 4.10, 5.5, 7.4 and 8.5, without LADLE_SC_PC,
which has a place of its own in it, and the BAR0 copies of the drain bases, which it does not keep (R98). -/
def savedRegs : List Nat :=
  tileRegs.flatMap (fun r =>
    if r.rw = 0 ∨ 0x1000 ≤ r.off ∨ r.off = Reg.ladleQctl ∨ r.off = Reg.ladleScPc ∨ r.off = Reg.rennetDrainBase then []
    else (List.range r.count).map (fun i => r.off + r.step * i))

/-- What the image keeps beside its bytes: those registers, the queues' levels, the local port's drain bases, what waits
to reseed, the Skimmer's generator, and the stored sign patterns. -/
def Tile.storedWords (t : Tile) : List Word :=
  savedRegs.map t.reg ++ imageQueues.map (fun q => w32 (t.queue q.1).length) ++
  (List.range 4).map (tabGet wordD t.drainBaseLocal) ++
  [w32 (t.reseed.toNat + 16 * b2n t.skimReseed + 2 ^ 8 * t.patBad.toNat), w32 t.skimGen.toNat, w32 (t.skimGen.toNat / 2 ^ 32)] ++
  (List.range 16).flatMap (fun i => (List.range 8).map (fun w => w32 ((tabGet patternD t.patterns i).toNat / 2 ^ (32 * w))))

/-- A tile that has been saved: its sets read IDLE (Table 3.9). -/
def Tile.saved (t : Tile) : Tile := { t with accOpen := [], openTile := [] }

/-- Write a tile's image into slot c of its own column. -/
def State.writeImage (s : State) (t c : Nat) : State :=
  let s := s.modTile t (fun x => foldN (fun _ x => x.drainStore) x.sbuf.length x)
  let s := ((s.tile t).image s.freeCount).foldl (fun s p => s.homeWrite (ctxSlot t c + p.1) p.2) s
  s.drawn.modTile t Tile.saved

/-! ### Restoring (R103) -/

/-- The set words of an image, applied: the mode is that of any OPEN set, else QUAD (R25). -/
def Tile.putSets (t : Tile) (ws : List Nat) : Tile :=
  let opens := (List.range 8).filter (fun m => ws.getD m 0 % 4 == 1)
  let v := fun (m hi lo : Nat) => ws.getD m 0 / 2 ^ lo % 2 ^ (hi + 1 - lo)
  { t with
    gang := match opens with | m :: _ => v m 4 3 | [] => 0
    accOpen := opens.foldl (fun a m => tabSet natD a m 1) []
    openTile := opens.foldl (fun a m => tabSet openTileD a (v m 6 5) (some (v m 13 7, v m 21 14))) []
    fill := (List.range 4).foldl (fun b q => setBit b q (v (2 * q + 1) 2 2 == 1)) t.fill }

/-- The number in the bytes of an image from an offset. -/
def imgNum (b : List Byte) (o n : Nat) : Nat := natOfBytes ((b.drop o).take n)

/-- A tile's accumulator context restored from its bytes. -/
def Tile.putAcc (t : Tile) (b : List Byte) : Tile :=
  let ws := (List.range 8).map (fun m => imgNum b (8 * m) 8)
  let level := imgNum b 0xE0 4
  let t := t.putSets ws
  { t with
    gens := (List.range 4).foldl (fun a q => tabSet genD a q (BitVec.ofNat 64 (imgNum b (0x40 + 8 * q) 8))) t.gens
    targets := (List.range 4).foldl (fun a g => tabSet targetsD a g ((List.range (level / 8 ^ g % 8)).map (fun e =>
      (imgNum b (0x60 + 32 * g + 8 * e) 8 % 2 ^ 20, imgNum b (0x60 + 32 * g + 8 * e) 8 / 2 ^ 32 % 2 ^ 20)))) t.targets
    acc := (List.range 8).foldl (fun a m => if ws.getD m 0 % 4 = 1 then
        (List.range 4096).foldl (fun a i =>
          tabSet accD a (m * 4096 + i) (BitVec.ofNat 56 (imgNum b (0x100 + 0x8000 * m + 8 * i) 8))) a
      else a) t.acc }

/-- Semaphores, vector and scalar registers, and the pc: the core starts at LADLE_SC_PC when its STOP bit clears (R111). -/
def Tile.putCore (t : Tile) (sems vecs scal : List Byte) : Tile :=
  let t := (List.range 1024).foldl (fun t i => t.setF (Reg.ladleSem + 4 * i) 15 0 (imgNum sems (2 * i) 2)) t
  let pc : Word := w32 (imgNum scal 124 4)
  { (t.setReg Reg.ladleScPc pc) with
    vr := (List.range 2048).foldl (fun a i => tabSet wordD a i (w32 (imgNum vecs (4 * i) 4))) t.vr
    xr := (List.range 31).foldl (fun a i => tabSet wordD a (i + 1) (w32 (imgNum scal (4 * i) 4))) t.xr
    pc := pc, fresh := true, stall := none, sbuf := [] }

/-- Queue entries from their bytes, as many as the levels say. -/
def Tile.putQueues (t : Tile) (b : List Byte) (levels : List Nat) : Tile :=
  let one := fun (t : Tile) (q base n : Nat) => { t with
    queues := tabSet queueD t.queues q ((List.range n).map (fun i =>
      (List.range 8).map (fun w => w32 (imgNum b (base + 32 * i + 4 * w) 4)))) }
  one (one (one t 0 0 (levels.getD 0 0)) 1 512 (levels.getD 1 0)) 3 1024 (levels.getD 2 0)

/-- What an image keeps beside its bytes, put back. -/
def Tile.putStored (t : Tile) (ws : List Word) : Tile :=
  let k := savedRegs.length
  let at_ := fun (i : Nat) => ws.getD (k + i) 0
  let t := savedRegs.zipIdx.foldl (fun t o => match tileRow? o.1 with
    | some r => t.setReg o.1 ({ r with w1c := 0 }.write (t.reg o.1) (ws.getD o.2 0))
    | none => t) t
  let t := (List.range 4).foldl (fun t g => t.setReg (Reg.rennetDrainBase + 8 * g) 0) t
  { t with
    drainBaseLocal := (List.range 4).foldl (fun a g => tabSet wordD a g (at_ (3 + g))) t.drainBaseLocal
    reseed := BitVec.ofNat 4 (at_ 7).toNat
    skimReseed := bit (at_ 7) 4
    patBad := BitVec.ofNat 16 (fld (at_ 7) 23 8)
    skimGen := BitVec.ofNat 64 ((at_ 8).toNat + 2 ^ 32 * (at_ 9).toNat)
    patterns := (List.range 16).foldl (fun a i => tabSet patternD a i
      (BitVec.ofNat 256 (((List.range 8).map (fun w => (at_ (10 + 8 * i + w)).toNat * 2 ^ (32 * w))).sum))) t.patterns }

/-- Cells and streams after a restore: every weight is invalid (R35). -/
def Tile.noWeights (t : Tile) : Tile := { t with wValid := 0, wPendOn := 0, streams := [], arr := .reset, expanding := [] }

/-- Write the image in slot c of tile `old`'s column back to tile t. -/
def State.readImage (s : State) (t old c : Nat) (ws : List Word) : State :=
  let a := ctxSlot old c
  let r0 := s.homeRead a scratchSize
  let r1 := r0.1.homeRead (a + 0xA0000) 0x40100
  let r2 := r1.1.homeRead (a + 0xE0100) 0x800
  let r3 := r2.1.homeRead (a + 0xE0900) 0x2000
  let r4 := r3.1.homeRead (a + 0xE2900) 0x80
  let r5 := r4.1.homeRead (a + 0xE2980) 0x800
  let k := savedRegs.length
  r5.1.modTile t (fun x =>
    let x := (x.wrBytes 0 r0.2.1).putAcc r1.2.1
    let x := (x.putCore r2.2.1 r3.2.1 r4.2.1).putQueues r5.2.1 ((List.range 3).map (fun i => (ws.getD (k + i) 0).toNat))
    (x.putStored ws).noWeights)

/-! ### Saving and restoring a context (R323) -/

/-- Has every started command of a tile ended: engines, drains, jobs, seed expansions (R103), and the collectives that
name it, those still queued among them (R194, R222, R290)? -/
def State.tileAtRest (s : State) (n t : Nat) : Bool :=
  let x := s.tile t
  x.idle 0 && x.idle 1 && x.idle 3 && (tabGet waitD x.waits 2).isNone && x.churn.isNone && x.skim.isNone &&
  x.expanding.all (fun q => q.2.isNone) &&
  (s.part n).postQ.all (fun q => q.bad || (cw q.words 7 10 0 != t && cw q.words 8 10 0 != t)) &&
  (s.part n).ctxs.all (fun q => (q.2.map (fun c => cw c.words 7 10 0 != t && cw c.words 8 10 0 != t)).getD true)

/-- Slots that no saved context holds in any of the given columns. -/
def State.freeSlots (s : State) (n : Nat) (ts : List Nat) : List Nat :=
  (List.range 8).filter (fun c => !(s.sys n).svc.ctxs.any (fun x => (x.2.map (fun y => match y.saved with
    | some (c', o) => c' == c && (rectTiles o y.rows y.cols).any ts.contains
    | none => false)).getD false))

/-- The STOP bits a restored tile starts with: a core whose launch has exited stays stopped. -/
def State.resumeStops (s : State) (n c t stops : Nat) : Nat :=
  let exited : Bool := match s.svcCtx n c with
    | some x => (x.launch.map (fun l => tabGet natD l.exits t != 0)).getD false
    | none => false
  if exited then stops ||| 4 else stops

/-- A context at rest is saved into slot c and its tiles are free. `stops` holds the STOP bits to restore. -/
def State.saveCtx (s : State) (n c slot : Nat) (stops : List Nat) (wait : Bool) : State :=
  match s.svcCtx n c with
  | none => s
  | some x =>
    let ts := x.tiles
    let o := x.origin.getD 0
    let stored := ts.map (fun t => (s.tile t).storedWords)
    let keep := stops.map (fun a => s.resumeStops n c (a / 16) (a % 16))
    let s := ts.foldl (fun s t => s.writeImage t slot) s
    (s.modSvcCtx n c (fun x => { x with
      saved := some (slot, o), origin := none, waiting := wait, stopping := false
      stored := stored.zipIdx.foldl (fun m w => tabSet wordsD m w.2 w.1) []
      stops := keep.zipIdx.foldl (fun m w => tabSet natD m w.2 w.1) [] })).ctxTrace n c 2 o

/-- A saved context is restored at an origin: images are written back and the queues restart. A launch that goes on
keeps its exits by position. -/
def State.restoreCtx (s : State) (n c o : Nat) : State :=
  match s.svcCtx n c with
  | none => s
  | some x =>
    match x.saved with
    | none => s.placeCtx n c o
    | some (slot, old) =>
      let from_ := rectTiles old x.rows x.cols
      let to_ := rectTiles o x.rows x.cols
      let s := (List.range to_.length).foldl (fun s i =>
        (s.readImage (to_.getD i 0) (from_.getD i 0) slot (tabGet wordsD x.stored i)).modTile (to_.getD i 0)
          (·.setStops (tabGet natD x.stops i))) s
      (s.modSvcCtx n c (fun x => { x with
        saved := none, stored := [], stops := [], origin := some o, waiting := false, placedAt := s.time
        launch := x.launch.map (fun l => { l with
          exits := (List.range to_.length).foldl (fun m i =>
            tabSet natD m (to_.getD i 0) (tabGet natD l.exits (from_.getD i 0))) [] }) })).ctxTrace n c 3 o

/-- A waiting context is placed, and restored where it was saved, if it can be. -/
def State.tryPlace (s : State) (n c : Nat) (fixed : Option Nat) : State :=
  match s.svcCtx n c with
  | none => s
  | some x => if x.origin.isSome then s else match s.findOrigin n c x fixed with
    | some o => s.restoreCtx n c o
    | none => s

/-! ### Turns (R324) -/

/-- Contexts of a partition with their numbers. -/
def State.ctxsOf (s : State) (n : Nat) : List (Nat × SvcCtx) :=
  (s.sys n).svc.ctxs.filterMap (fun x => x.2.map (fun y => (x.1, y)))

/-- Does waiting context x go before y: a higher priority, or an equal one whose latest placement is older? -/
def goesFirst (x y : SvcCtx) : Bool := decide (y.prio < x.prio) || (y.prio == x.prio && decide (x.placedAt < y.placedAt))

/-- A waiting context among those that go before it. -/
def insertWaiting (x : Nat × SvcCtx) : List (Nat × SvcCtx) → List (Nat × SvcCtx)
  | [] => [x]
  | y :: l => if goesFirst x.2 y.2 then x :: y :: l else y :: insertWaiting x l

/-- The waiting contexts in the order in which they go. -/
def waitingOrder (l : List (Nat × SvcCtx)) : List (Nat × SvcCtx) :=
  (l.filter (fun x => x.2.waiting)).foldl (fun acc x => insertWaiting x acc) []

/-- May context y give way to x: a lower priority, or an equal one that has had its slice? -/
def State.givesWay (s : State) (n : Nat) (x y : SvcCtx) : Bool :=
  y.preempt && y.origin.isSome && (decide (y.prio < x.prio) ||
    (y.prio == x.prio && x.preempt && decide ((s.sys n).svc.sliceMs * 1000000 ≤ (s.time + 2 ^ 64 - y.placedAt) % 2 ^ 64)))

/-- The first origin at which only contexts that give way stand. -/
def State.originOver (s : State) (n : Nat) (x : SvcCtx) (l : List (Nat × SvcCtx)) : Option Nat :=
  let stay := l.filter (fun y => !s.givesWay n x y.2)
  ((match x.fixed with | some o => [o] | none => List.range tileCount)).find? (fun o =>
    rectFits o x.rows x.cols && (rectTiles o x.rows x.cols).all (fun t =>
      s.ownsTile n t && !stay.any (fun y => y.2.tiles.contains t)))

/-- One context gives way: its queues stop, and once it is at rest it is saved and waits. -/
def State.giveWay (s : State) (n c : Nat) : State :=
  match s.svcCtx n c with
  | none => s
  | some y =>
    if !y.stopping then
      let r := s.stopTiles y.tiles 15
      r.1.modSvcCtx n c (fun z => { z with stopping := true, stops := r.2.zipIdx.foldl (fun m w => tabSet natD m w.2 (w.1 % 16)) [] })
    else if y.tiles.all (s.tileAtRest n) then
      match s.freeSlots n y.tiles with
      | [] => s
      | l => s.drawn.saveCtx n c (s.pick l) (y.tiles.zipIdx.map (fun t => 16 * t.1 + tabGet natD y.stops t.2)) true
    else s

/-- SCHED_SLICE: of the waiting contexts, the first that can be placed, or for which others can give way, is placed, or
those that stand in its way give way, step by step. -/
def State.schedSlice (s : State) (n : Nat) : State :=
  if 16 ≤ n || s.partState n ≠ 1 || !s.rootUp || s.fw.down then s else
  let s := s.asService n
  let l := s.ctxsOf n
  match (waitingOrder l).find? (fun x => (s.findOrigin n x.1 x.2 x.2.fixed).isSome || (s.originOver n x.2 l).isSome) with
  | none => s
  | some (c, x) =>
    match s.findOrigin n c x x.fixed with
    | some o => s.restoreCtx n c o
    | none =>
      match s.originOver n x l with
      | none => s
      | some o => (l.filter (fun y => y.2.tiles.any (rectTiles o x.rows x.cols).contains)).foldl (fun s y => s.giveWay n y.1) s

/-! ### Rotation (R325) -/

/-- The hottest tile of a placement, in 1/16 °C. -/
def State.hottestOf (s : State) (ts : List Nat) : Nat := (ts.map (fun t => (s.tile t).f Reg.capTileTemp 11 0)).foldl max 0

/-- Copy the first bytes of each old column to the matching new one; every column is read before any is written. -/
def State.copyColumns (s : State) (from_ to_ : List Nat) (len : Nat) : State :=
  let old := s.mem
  { s with mem := (from_.zip to_).foldl (fun m p =>
      (old.filter (fun x => decide (p.1 * 2 ^ 28 ≤ x.1) && decide (x.1 < p.1 * 2 ^ 28 + len))).foldl
        (fun m x => tabSet byteD m (x.1 - p.1 * 2 ^ 28 + p.2 * 2 ^ 28) x.2) (memZero m (p.2 * 2 ^ 28) len)) old }

/-- One context's move: the coolest candidate, when it is cooler by the threshold. -/
def State.rotateCtx (s : State) (n c : Nat) (x : SvcCtx) : State :=
  match x.origin with
  | none => s
  | some o =>
    let here := s.hottestOf x.tiles
    let cands := ((List.range tileCount).filter (fun o' => o' != o && s.originOk n c x.rows x.cols o')).map
      (fun o' => (s.hottestOf (rectTiles o' x.rows x.cols), o'))
    let best := (cands.map (·.1)).foldl min 0x1000
    if cands.isEmpty || decide (10 * here < 16 * (s.sys n).svc.rotThr + 10 * best) then s else
    let to_ := s.pick ((cands.filter (fun p => p.1 == best)).map (·.2))
    if !x.tiles.all (s.tileAtRest n) then s else
    match s.freeSlots n x.tiles with
    | [] => s
    | l =>
      let slot := s.pick l
      let r := s.drawn.stopTiles x.tiles 15
      let s := r.1.saveCtx n c slot r.2 false
      let s := s.copyColumns x.tiles (rectTiles to_ x.rows x.cols) (x.rotVat * 2 ^ 20)
      (s.restoreCtx n c to_).tracePart (0x60 + n) (s.svcSrc n) n [c, o, to_]

/-- ROTATION_PERIOD: contexts with ROTATE = 1, between launches. -/
def State.rotationPeriod (s : State) (n : Nat) : State :=
  if 16 ≤ n || s.partState n ≠ 1 || !s.rootUp || s.fw.down || (s.sys n).svc.rotOff then s else
  let s := s.asService n
  (s.ctxsOf n).foldl (fun s x => match s.svcCtx n x.1 with
    | some y => if y.rotate && y.launch.isNone && !y.stopping then s.rotateCtx n x.1 y else s
    | none => s) s

end Sys2Proof.Machine
end

