-- ==== Sys2Proof/Machine/SvcCmd.lean ====
section
/-!
DEFINITION. Machine/SvcCmd.lean: the commands of a partition's pair (Table 11.5, 0x0200 to 0x0211): contexts, queues and
launches (R320 to R324), fault records (R110), registers, optimiser state (R207, R208), owners (R204), groups (R255), Pail
modes (R153), collectives (R283), the scheduler, and telemetry (R433).
-/

namespace Sys2Proof.Machine

/-! ### Contexts (R320, R323) -/

/-- The checks on a context's number. -/
def ctxRange (w : List Word) : List (Bool × Nat) := [bad (32 ≤ par w 0) 0x101]

/-- The fixed origin that a request gives in parameter i of its expert form. -/
def fixedOrigin (w : List Word) (i : Nat) : Option Nat := if rqExpert w then some (par w i) else none

/-- Does a fixed origin keep a rectangle out of the array, or out of the partition's tiles? -/
def originOff (rows cols : Nat) (fixed : Option Nat) : Bool :=
  match fixed with | some o => decide (tileCount ≤ o) || !rectFits o rows cols | none => false
def State.originForeign (s : State) (n rows cols : Nat) (fixed : Option Nat) : Bool :=
  match fixed with
  | some o => rectFits o rows cols && decide (o < tileCount) && (rectTiles o rows cols).any (fun t => !s.ownsTile n t)
  | none => false

/-- Numbers below a bound that a table does not list. -/
def freeNumbers (l : List Nat) (bound : Nat) : List Nat := (List.range bound).filter (fun i => !l.contains i)

/-- A new context, which waits to be placed. -/
def makeCtx (w : List Word) : SvcCtx :=
  { rows := par w 0, cols := par w 1, preempt := (par w 2).testBit 0, rotate := (par w 2).testBit 1, prio := par w 3
    rotVat := par w 4, fixed := fixedOrigin w 5, origin := none, saved := none, stored := [], stops := []
    launch := none, lastQ := 63, waiting := true, stopping := false, placedAt := 0 }

/-- A command that waits for its context's placement responds once it stands. -/
def State.placedResponse (s : State) (p k c : Nat) (res : Nat → List Word) : State :=
  match (s.svcCtx (p - 1) c).bind (·.origin) with
  | some o => s.mbFinish p k 0 (res o)
  | none => s.stay p k 1 [c]

/-- CTX_CREATE: the number is Service's choice; a context that cannot be placed waits, and its response with it. -/
def State.ctxCreate (s : State) (p k : Nat) : State :=
  let n := p - 1
  s.command p k 0x200 2
    (fun w => [bad (par w 0 == 0 || decide (36 < par w 0)) 0x101, bad (par w 1 == 0 || decide (32 < par w 1)) 0x101,
      bad (3 < par w 2) 0x101, bad (3 < par w 3) 0x101, bad (248 < par w 4) 0x101,
      bad (originOff (par w 0) (par w 1) (fixedOrigin w 5)) 0x101])
    (fun w => [bad (s.originForeign n (par w 0) (par w 1) (fixedOrigin w 5)) 0x101,
      bad (32 ≤ (s.sys n).svc.ctxCount) 0x104])
    (fun t =>
      let c := if t.stage = 0 then s.pick (freeNumbers ((s.ctxsOf n).map (·.1)) 32) else t.aux.getD 0 0
      let s := if t.stage = 0 then (s.drawn.setSvcCtx n c (some (makeCtx t.words))).ctxTrace n c 0 0 else s
      (s.tryPlace n c (fixedOrigin t.words 5)).placedResponse p k c (fun o => [w32 c, w32 o]))

/-- LAUNCHes of a pair that wait for their turn, or run, on a context. -/
def State.launchesOn (s : State) (p c : Nat) : List (Nat × Nat) :=
  (s.pair p).taken.zipIdx.filterMap (fun x =>
    if rqOp x.1.words == 0x204 && x.1.stage != 0 && x.1.stage != rejectedStage && x.1.aux.getD 0 0 == c then
      some (x.2, par x.1.words 0) else none)

/-- CTX_DESTROY: the context and its queues go; a launch on it stands in the way. -/
def State.ctxDestroy (s : State) (p k : Nat) : State :=
  let n := p - 1
  s.command p k 0x201 2 ctxRange
    (fun w => [bad (s.svcCtx n (par w 0)).isNone 0x103, bad (!(s.launchesOn p (par w 0)).isEmpty) 0x103,
      bad (((s.svcCtx n (par w 0)).map (fun x => x.launch.isSome || x.stopping)).getD false) 0x103])
    (fun t =>
      let c := par t.words 0
      let s := (s.setSvcCtx n c none).modSvc n (fun v => { v with
        queues := v.queues.filter (fun q => match q.2 with | some y => y.ctx != c | none => false) })
      (s.ctxTrace n c 4 0).mbFinish p k 0 [])

/-- CTX_SAVE. -/
def State.ctxSave (s : State) (p k : Nat) : State :=
  let n := p - 1
  let tiles := fun (c : Nat) => ((s.svcCtx n c).map SvcCtx.tiles).getD []
  s.command p k 0x205 2
    (fun w => [bad (32 ≤ par w 0) 0x101, bad (rqExpert w && decide (7 < par w 1)) 0x101])
    (fun w => [bad (((s.svcCtx n (par w 0)).map (fun x => x.origin.isNone || x.stopping)).getD true) 0x103,
      bad (if rqExpert w then !(s.freeSlots n (tiles (par w 0))).contains (par w 1)
        else (s.freeSlots n (tiles (par w 0))).isEmpty) 0x104])
    (fun t =>
      let c := par t.words 0
      if t.stage = 0 then
        let r := s.stopTiles (tiles c) 15
        (r.1.modSvcCtx n c (fun x => { x with stopping := true })).stay p k 1 r.2
      else if (tiles c).all (s.tileAtRest n) then
        let slot := if rqExpert t.words then par t.words 1 else s.pick (s.freeSlots n (tiles c))
        (s.drawn.saveCtx n c slot t.aux false).mbFinish p k 0 [w32 slot]
      else s)

/-- CTX_RESTORE: from the saved origin unless one is given. -/
def State.ctxRestore (s : State) (p k : Nat) : State :=
  let n := p - 1
  let shape := fun (w : List Word) => ((s.svcCtx n (par w 0)).map (fun x => (x.rows, x.cols))).getD (1, 1)
  s.command p k 0x206 2
    (fun w => [bad (32 ≤ par w 0) 0x101, bad (rqExpert w && decide (tileCount ≤ par w 1)) 0x101])
    (fun w => [bad (((s.svcCtx n (par w 0)).map (fun x => x.saved.isNone)).getD true) 0x103,
      bad (originOff (shape w).1 (shape w).2 (fixedOrigin w 1) ||
        s.originForeign n (shape w).1 (shape w).2 (fixedOrigin w 1)) 0x101])
    (fun t =>
      let c := par t.words 0
      let o := match fixedOrigin t.words 1 with
        | some o => some o
        | none => (s.svcCtx n c).bind (fun x => x.saved.map (·.2))
      let s := if t.stage = 0 then s.modSvcCtx n c (fun x => { x with waiting := true }) else s
      (s.tryPlace n c o).placedResponse p k c (fun o => [w32 o]))

/-! ### Queues and launches (R320, R321) -/

/-- Queues of a partition. -/
def State.queuesOf (s : State) (n : Nat) : List (Nat × LaunchQ) :=
  (s.sys n).svc.queues.filterMap (fun x => x.2.map (fun y => (x.1, y)))
def State.launchQ (s : State) (n q : Nat) : Option LaunchQ := tabGet launchQD (s.sys n).svc.queues q

/-- QUEUE_CREATE. -/
def State.queueCreate (s : State) (p k : Nat) : State :=
  let n := p - 1
  s.command p k 0x202 2 (fun w => [bad (32 ≤ par w 0) 0x101, bad (3 < par w 1) 0x101])
    (fun w => [bad (s.svcCtx n (par w 0)).isNone 0x103, bad (64 ≤ (s.queuesOf n).length) 0x104])
    (fun t =>
      let q := s.pick (freeNumbers ((s.queuesOf n).map (·.1)) 64)
      let s := s.drawn.modSvc n (fun v => { v with
        queues := tabSet launchQD v.queues q (some ⟨par t.words 0, par t.words 1⟩) })
      s.mbFinish p k 0 [w32 q])

/-- QUEUE_DESTROY. -/
def State.queueDestroy (s : State) (p k : Nat) : State :=
  let n := p - 1
  s.command p k 0x203 2 (fun w => [bad (64 ≤ par w 0) 0x101]) (fun w => [bad (s.launchQ n (par w 0)).isNone 0x103])
    (fun t => (s.modSvc n (fun v => { v with queues := tabSet launchQD v.queues (par t.words 0) none })).mbFinish p k 0 [])

/-- The image's length, entry PC and arguments of a LAUNCH. -/
def laLen (w : List Word) : Nat := par w 3
def laPc (w : List Word) : Nat := par w 4
def laArgs (w : List Word) : List Nat := (List.range 8).map (fun i => par w (5 + i))

/-- An expert image that is not on this chip, in the partition's own addressable memory; the address of one of no bytes
must still be well formed (R13). -/
def State.imageOff (s : State) (n : Nat) (w : List Word) : Bool :=
  let g := par64 w 1
  let a := gAddr g
  rqExpert w && decide (laLen w ≤ 0x9F000) &&
    (!globalOk g (max 1 (laLen w)) || laLen w != 0 && (gChip g != s.chipId || !s.rangeOwned n a (laLen w) || inContext a ||
      inContext (a + laLen w - 1) || (isPail a && s.isCache (pailUnit a) (pailRegion a))))

/-- Whose turn it is among the launches that wait on a context: the highest priority, and among equal ones the queue
that follows the last (R320). -/
def State.launchTurn (s : State) (p c k : Nat) : Bool :=
  let n := p - 1
  let last := ((s.svcCtx n c).map (·.lastQ)).getD 0
  let rank := fun (q : Nat) => 64 * (3 - ((s.launchQ n q).map (·.prio)).getD 0) + (q + 127 - last) % 64
  let l := s.launchesOn p c
  l.any (fun x => x.1 == k && l.all (fun y => decide (rank x.2 < rank y.2) || (rank x.2 == rank y.2 && decide (x.1 ≤ y.1))))

/-- The launch block of tile t (R321). -/
def launchBlock (t o rows cols c n : Nat) (args : List Nat) : List Byte :=
  ([t, o, rows, cols, c, n, t * 2 ^ 28 % 2 ^ 32, t * 2 ^ 28 / 2 ^ 32] ++ args).flatMap (bytesOf 4)

/-- A tile at the start of a launch: image, launch block, and a core that starts at the entry PC. -/
def Tile.launch (x : Tile) (image block : List Byte) (pc : Nat) : Tile :=
  let x := ((x.wrBytes 0 image).wrBytes 0x9F000 block).setReg Reg.ladleScPc (w32 pc)
  { (x.setF Reg.ladleQctl 16 16 0).setF Reg.ladleQctl 2 2 0 with pc := w32 pc, fresh := false, stall := none, sbuf := [] }

/-- The image of a LAUNCH. -/
def State.fetchImage (s : State) (w : List Word) : State × List Byte :=
  if rqExpert w then
    let r := s.homeRead (gAddr (par64 w 1)) (laLen w)
    (r.1, r.2.1)
  else (s, memRead s.hostMem (par64 w 1) (laLen w))

/-- A LAUNCH starts on context c, placed at o. -/
def State.launchStart (s : State) (p k c o : Nat) (x : SvcCtx) (w : List Word) : State :=
  let n := p - 1
  let r := s.fetchImage w
  let s := x.tiles.foldl (fun s t => s.modTile t (fun y =>
    y.launch r.2 (launchBlock t o x.rows x.cols c n (laArgs w)) (laPc w))) r.1
  (s.modSvcCtx n c (fun y => { y with launch := some ⟨w, s.cyc, []⟩, lastQ := par w 0 })).stay p k 2 [c]

/-- LAUNCH: it waits for its context's placement and its queue's turn, starts, and responds at LAUNCH_COMPLETE. -/
def State.launch (s : State) (p k : Nat) : State :=
  let n := p - 1
  s.command p k 0x204 2
    (fun w => [bad (64 ≤ par w 0) 0x101, bad (0x9F000 < laLen w) 0x101, bad (2 ^ 20 ≤ laPc w || laPc w % 4 ≠ 0) 0x101])
    (fun w => [bad (s.launchQ n (par w 0)).isNone 0x103, bad (s.imageOff n w) 0x101])
    (fun t =>
      let c := if t.stage = 0 then ((s.launchQ n (par t.words 0)).map (·.ctx)).getD 0 else t.aux.getD 0 0
      let s := if t.stage = 0 then s.stay p k 1 [c] else s
      if t.stage = 2 then s else
      match s.svcCtx n c with
      | none => s
      | some x =>
        match x.origin with
        | none => s
        | some o =>
          if x.launch.isSome || x.stopping || !s.launchTurn p c k then s
          else if !rqExpert t.words && !s.hostUp then s.mbFinish p k 0x105 []
          else s.launchStart p k c o x t.words)

/-- What a LAUNCH returns: nonzero exits, the lowest such tile, its code, and the mesh cycles. Without a nonzero exit the
spec states no tile and no code (log 101). -/
def State.launchResults (s : State) (ts : List Nat) (l : LaunchRun) : List Word :=
  let hot := ts.filter (fun t => 1 < tabGet natD l.exits t)
  let least := hot.foldl min tileCount
  let cycles := res64 (cycDiff s.cyc l.start)
  if hot.isEmpty then [0, w32 (Config.freeValue s.freeCount 0), w32 (Config.freeValue s.freeCount 1)] ++ cycles
  else [w32 hot.length, w32 least, w32 (tabGet natD l.exits least - 1)] ++ cycles

/-- LAUNCH_COMPLETE: every tile has exited and every engine reads IDLE (R321). -/
def State.launchComplete (s : State) (n c : Nat) : State :=
  if 16 ≤ n || !s.cmdUp (n + 1) then s else
  let s := s.asService n
  match s.svcCtx n c with
  | none => s
  | some x =>
    match x.launch with
    | none => s
    | some l =>
      if x.tiles.isEmpty || !x.tiles.all (fun t => tabGet natD l.exits t != 0 && (List.range 4).all (s.tile t).idle) then s else
      let res := s.launchResults x.tiles l
      let s := s.drawn.modSvcCtx n c (fun y => { y with launch := none })
      match (s.pair (n + 1)).taken.findIdx? (fun t => rqOp t.words == 0x204 && t.stage == 2 && t.aux.getD 0 0 == c) with
      | some k => s.mbFinish (n + 1) k 0 res
      | none => s

/-! ### Fault records and registers (R110, R113) -/

/-- The range of tiles a request names. -/
def tileFirst (w : List Word) : Nat := par w 0
def askedTiles (w : List Word) : Nat := if rqExpert w then par w 1 else 1

/-- FAULT_READ. -/
def State.faultRead (s : State) (p k : Nat) : State :=
  s.command p k 0x207 2 (fun w => [bad (askedTiles w == 0 || decide (7 < askedTiles w)) 0x101])
    (fun w => [bad (s.tilesBad p (tileFirst w) (askedTiles w)) 0x101])
    (fun t =>
      let w := t.words
      let regs := if rqExpert w then [Reg.ladleFault, Reg.ladleFaultSeq]
        else [Reg.ladleFault, Reg.ladleFaultSeq, Reg.rennetFirst, Reg.churnFirst, Reg.skimFirst]
      s.mbFinish p k 0 ((List.range (askedTiles w)).flatMap (fun i => regs.map (s.tileWord 1 (tileFirst w + i)))))

/-- FAULT_CLEAR: Service writes one to VALID and to MULTI of each tile, so that the whole record clears (log 54). -/
def State.faultClearCmd (s : State) (p k : Nat) : State :=
  s.command p k 0x208 2 (fun w => [bad (askedTiles w == 0 || decide (tileCount < askedTiles w)) 0x101])
    (fun w => [bad (decide (askedTiles w ≤ tileCount) && s.tilesBad p (tileFirst w) (askedTiles w)) 0x101])
    (fun t =>
      let w := t.words
      ((List.range (askedTiles w)).foldl (fun s i =>
        s.faultClear (.service (p - 1)) (tileFirst w + i) 0x81000000) s).mbFinish p k 0 [])

/-- The register a SEM_SET writes, and the value. -/
def semOff (w : List Word) : Nat := if rqExpert w then par w 1 else Reg.ladleSem + 4 * par w 1

/-- The code of SEM_SET's own checks: a semaphore of 16 bits, or a register with an RW field. -/
def semBad (w : List Word) : Bool :=
  if rqExpert w then
    (match tileRow? (par w 1) with | some r => r.rw == 0 | none => true) ||
      (decide (Reg.ladleSem ≤ par w 1) && decide (0xFFFF < par w 2))
  else decide (1024 ≤ par w 1) || decide (0xFFFF < par w 2)

/-- The engine whose Quiesce field a register holds (Table 4.10). -/
def quiesceEngine (o : Nat) : Option Nat :=
  if o = Reg.ladleLimits then some 3 else if o = Reg.ladleScPc then some 2 else none

/-- SEM_SET: a Quiesce field waits until Service has quiesced its engine (R318). -/
def State.semSet (s : State) (p k : Nat) : State :=
  let put := fun (s : State) (w : List Word) => s.tilePut (.service (p - 1)) (par w 0) (semOff w) (w32 (par w 2))
  s.command p k 0x209 2 (fun w => [bad (semBad w) 0x101])
    (fun w => [bad (s.tilesBad p (par w 0) 1) 0x101])
    (fun t =>
      let w := t.words
      match quiesceEngine (semOff w) with
      | none => (put s w).mbFinish p k 0 []
      | some e =>
        if t.stage = 0 then
          let r := s.stopTiles [par w 0] (2 ^ e)
          r.1.stay p k 1 r.2
        else if (s.tile (par w 0)).quiet e then ((put s w).restoreStops t.aux).mbFinish p k 0 []
        else s)

/-! ### Optimiser state (Table 7.3, R207, R208) -/

/-- The shard that a request moves: its number and STEP, its owner tile, and what its descriptor says. -/
structure ShardRef where
  shard : Nat
  step  : Nat
  tile  : Nat
  rule  : Nat
  root  : Nat
  rows  : Nat
  cols  : Nat
  wA    : Nat
  mA    : Nat
  lA    : Nat
  pA    : Nat
  buf   : Nat
  fault : Nat               -- the code that rejects the request; 0 for none
  deriving DecidableEq, Repr

/-- Elements, and m = min(ROWS, COLS). -/
def ShardRef.elems (r : ShardRef) : Nat := r.rows * r.cols
def ShardRef.m (r : ShardRef) : Nat := min r.rows r.cols

/-- The buffers in scratch, in the record's order: address and bytes. -/
def ShardRef.bufs (r : ShardRef) : List (Nat × Nat) :=
  [(r.wA, 2 * r.elems), (r.mA, 2 * r.elems)] ++
  (if r.rule = 1 then [(r.lA, 4 * r.m * r.m), (r.pA, 2 * r.m * r.m)] else [])

/-- Bytes of the record. -/
def ShardRef.size (r : ShardRef) : Nat := 64 + (r.bufs.map (·.2)).sum

/-- Is the shard one that a Churn job could work on? -/
def ShardRef.malformed (r : ShardRef) : Bool :=
  decide (2 ≤ r.rule) || decide (2 ≤ r.root) || r.rows == 0 || r.cols == 0 || decide (128 < r.m) ||
  decide (32768 < r.elems) || r.bufs.any (fun b => b.1 % 64 != 0 || !inScratch b.1 b.2)

/-- The request's shard. `exp` tells an export, whose STEP shifts the words that follow. -/
def State.shardOf (s : State) (n : Nat) (w : List Word) (exp : Bool) : ShardRef :=
  let b := if exp then 3 else 1
  let step := if exp then par64 w 1 else 0
  let r : ShardRef :=
    if rqExpert w then
      ⟨par w 0, step, par w b, par w (b + 1), par w (b + 2), par w (b + 3), par w (b + 4), par w (b + 5), par w (b + 6),
        par w (b + 7), par w (b + 8), par64 w (b + 9), 0⟩
    else
      let own := (s.part n).reg (Reg.churnOwner + 4 * par w 0)
      let tile := fld own 10 0
      let d := (s.tile tile).churnDescAt (par w b)
      ⟨par w 0, step, tile, d.rule, d.root, d.rows, d.cols, d.wA, d.mA, d.lA, d.pA, par64 w (b + 1),
        if par w b % 64 ≠ 0 ∨ scratchSize < par w b + 64 then 0x101 else if !bit own 15 then 0x103 else 0⟩
  let fault := if 4096 ≤ r.shard then 0x101 else if r.fault ≠ 0 then r.fault
    else if !s.ownsTile n r.tile || r.malformed then 0x101 else 0
  { r with fault := fault }

/-- The first 64 bytes of a record. -/
def ShardRef.header (r : ShardRef) (t : Tile) : List Byte :=
  bytesOf 4 0x4F335A43 ++ bytesOf 2 1 ++ bytesOf 1 r.rule ++ bytesOf 1 r.root ++ bytesOf 2 r.rows ++ bytesOf 2 r.cols ++
  bytesOf 2 r.shard ++ bytesOf 2 0 ++ bytesOf 8 r.step ++ bytesOf 4 0x07080707 ++ bytesOf 4 0 ++
  bytesOf 8 (tabGet genD t.gens 0).toNat ++ bytesOf 4 (t.reg Reg.churnCoefA).toNat ++
  bytesOf 4 (t.reg Reg.churnCoefB).toNat ++ bytesOf 4 (t.reg Reg.churnCoefC).toNat ++ bytesOf 12 0

/-- STATE_EXPORT. -/
def State.stateExport (s : State) (p k : Nat) : State :=
  let sh := fun (w : List Word) => s.shardOf (p - 1) w true
  s.command p k 0x20A 2 noChecks (fun w => [bad ((sh w).fault ≠ 0) (sh w).fault, bad (!s.hostUp) 0x105])
    (fun t =>
      let r := sh t.words
      let x := s.tile r.tile
      let bytes := r.header x ++ r.bufs.flatMap (fun b => x.rdBytes b.1 b.2)
      { s with hostMem := memWrite s.hostMem r.buf bytes }.mbFinish p k 0 [w32 r.size])

/-- R208: magic, version, format codes, and the bytes marked zero. -/
def recordBad (h : List Byte) : Bool :=
  imgVal h 0 4 != 0x4F335A43 || imgVal h 4 2 != 1 || imgVal h 0x18 4 != 0x07080707 ||
  !imgZero h 0x0E 2 || !imgZero h 0x1C 4 || !imgZero h 0x34 12

/-- The record names another shard, rule or shape than the request: the spec states no result. -/
def ShardRef.differs (r : ShardRef) (h : List Byte) : Bool :=
  imgVal h 6 1 != r.rule || (r.rule == 1 && imgVal h 7 1 != r.root) || imgVal h 8 2 != r.rows || imgVal h 10 2 != r.cols ||
  imgVal h 12 2 != r.shard

/-- A record's buffers written to scratch. -/
def Tile.putBufs (t : Tile) : List (Nat × Nat) → List Byte → Tile
  | [], _ => t
  | b :: l, bs => (t.wrBytes b.1 (bs.take b.2)).putBufs l (bs.drop b.2)

/-- STATE_IMPORT: the buffers, the owner's quarter-0 generator and its coefficients are written. -/
def State.stateImport (s : State) (p k : Nat) : State :=
  let sh := fun (w : List Word) => s.shardOf (p - 1) w false
  let head := fun (w : List Word) => memRead s.hostMem (sh w).buf 64
  s.command p k 0x20B 2 noChecks
    (fun w => [bad ((sh w).fault ≠ 0) (sh w).fault, bad (!s.hostUp) 0x105,
      bad (s.hostUp && recordBad (head w)) 0x274, bad ((sh w).fault = 0 && s.hostUp && (sh w).differs (head w)) 0x101])
    (fun t =>
      let r := sh t.words
      let h := head t.words
      let body := memRead s.hostMem (r.buf + 64) (r.size - 64)
      let s := s.modTile r.tile (fun x =>
        let x := x.putBufs r.bufs body
        let x := ((x.setReg Reg.churnCoefA (w32 (imgVal h 0x28 4))).setReg Reg.churnCoefB (w32 (imgVal h 0x2C 4))).setReg
          Reg.churnCoefC (w32 (imgVal h 0x30 4))
        { x with gens := tabSet genD x.gens 0 (BitVec.ofNat 64 (imgVal h 0x20 8)) })
      s.mbFinish p k 0 (res64 (imgVal h 0x10 8)))

/-! ### Owners, groups, Pail modes, collectives (R153, R204, R255, R283) -/

/-- The owner entry that OWNER_SET writes. -/
def ownerEntry (w : List Word) : Nat := if rqExpert w then par w 2 else 0x8000 + par w 2

/-- OWNER_SET. -/
def State.ownerSet (s : State) (p k : Nat) : State :=
  s.command p k 0x20C 2
    (fun w => [bad (4096 < par w 0 + par w 1) 0x101, bad (!rqExpert w && decide (tileCount ≤ par w 2)) 0x101,
      bad (rqExpert w && outside (par w 2) 0x800087FF) 0x101])
    (fun w => [bad (!s.ownsTile (p - 1) (ownerEntry w % 2 ^ 11)) 0x101])
    (fun t =>
      let w := t.words
      ((List.range (par w 1)).foldl (fun s i =>
        s.partWrite (p - 1) (Reg.churnOwner + 4 * (par w 0 + i)) (w32 (ownerEntry w))) s).mbFinish p k 0 [])

/-- A group slot's registers, which GROUP_SET makes valid. -/
def Part.setGroup (x : Part) (w : List Word) : Part :=
  let o := 16 * par w 0
  let x := (((x.setF (Reg.collGrpCfg + o) 5 0 (par w 1)).setF (Reg.collGrpCfg + o) 31 31 1).put
    (Reg.collGrpOrigin + o) (par w 2)).put (Reg.collGrpKey + o) (par w 3)
  if rqExpert w then x.put (Reg.collGrpSeq + o) (par w 4) else x

/-- GROUP_SET: it waits until the slot is quiesced (R294, R318). -/
def State.groupSet (s : State) (p k : Nat) : State :=
  let n := p - 1
  s.command p k 0x20D 2
    (fun w => [bad (64 ≤ par w 0) 0x101, bad (64 ≤ par w 1) 0x101, bad (2 ^ 18 ≤ par w 2) 0x101])
    noChecks
    (fun t =>
      if s.grpQuiet n (par t.words 0) then (s.modPart n (fun x => x.setGroup t.words)).mbFinish p k 0 []
      else s.stay p k 1 [])

/-- Mesh cycles as microseconds; the rounding of a fraction is free (log 101). -/
def State.cyclesUs (s : State) (c : Nat) : Nat :=
  if c % s.mhzNow = 0 then c / s.mhzNow else c / s.mhzNow + Config.freeValue s.freeCount 8 % 2

/-- PAIL_MODE_SET: Service stops the partition's Ladles, waits until the regions are quiesced, writes, and restores. -/
def State.pailModeSet (s : State) (p k : Nat) : State :=
  let n := p - 1
  s.command p k 0x20E 2
    (fun w => [bad (18 ≤ par w 0) 0x101, bad (1 < par w 1) 0x101, bad (1 < par w 2) 0x101])
    (fun w => [bad (!s.ownsUnit n (par w 0)) 0x101])
    (fun t =>
      let w := t.words
      let val := par w 1 + 2 * par w 2
      let changed := (s.part n).f (Reg.pailMode + 4 * par w 0) 1 0 ^^^ val
      if t.stage = 0 && changed = 0 then s.mbFinish p k 0 [0]
      else if t.stage = 0 then
        let r := s.stopTiles (s.tilesOf n) 8
        r.1.stay p k 1 r.2
      else if s.pailQuiet n (par w 0) then
        let us := s.cyclesUs (zeroingCycles changed)
        ((s.drawn.pailModeWrite n (par w 0) (w32 val)).restoreStops t.aux).mbFinish p k 0 [w32 us]
      else s)

/-- COLL_CANCEL. -/
def State.collCancelCmd (s : State) (p k : Nat) : State :=
  s.command p k 0x20F 2 (fun w => [bad (64 ≤ par w 0) 0x101]) noChecks
    (fun t => (s.collCancel (p - 1) (par t.words 0)).mbFinish p k 0 [])

/-! ### Scheduler and telemetry -/

/-- SCHED_CFG: the basic form keeps ROT_OFF. -/
def State.schedCfg (s : State) (p k : Nat) : State :=
  s.command p k 0x210 2 (fun w => [bad (rqExpert w && decide (1 < par w 3)) 0x101]) noChecks
    (fun t =>
      let w := t.words
      (s.modSvc (p - 1) (fun v => { v with
        sliceMs := par w 0, rotMs := par w 1, rotThr := par w 2
        rotOff := if rqExpert w then par w 3 == 1 else v.rotOff })).mbFinish p k 0 [])

/-- One entry of a sample (Table 16.4). -/
def telemetryEntry (t : Nat) (l : List Nat) : List Byte :=
  let v := fun i => l.getD i 0
  bytesOf 2 t ++ bytesOf 1 (v 0) ++ bytesOf 1 (v 1) ++ bytesOf 2 (v 2) ++ bytesOf 2 (v 3) ++ bytesOf 2 (v 4) ++
  bytesOf 2 (v 5) ++ bytesOf 4 0 ++ bytesOf 8 (v 6) ++ bytesOf 8 (v 7)

/-- The latest sample of some tiles, for a pair: a partition's sample has zero chip fields; the chip ID is not among them
(log 96). -/
def State.telemetryBytes (s : State) (p : Nat) (ts : List Nat) : List Byte :=
  bytesOf 4 0x4D4C4554 ++ bytesOf 2 1 ++ bytesOf 2 (pairPart p) ++ bytesOf 2 ts.length ++ bytesOf 2 0 ++
  bytesOf 4 s.chipId ++ bytesOf 8 s.mgmt.sampleTime ++
  (List.range 8).flatMap (fun i => bytesOf 4 (if p = 0 then (s.mgmt.sample.getD i 0).toNat else 0)) ++ bytesOf 8 0 ++
  ts.flatMap (fun t => telemetryEntry t (tabGet natsD s.mgmt.tiles t))

/-- The tiles of a request. -/
def State.telemetryTiles (s : State) (p : Nat) (w : List Word) : List Nat :=
  if rqExpert w then (List.range (par w 3)).map (fun i => par w 2 + i)
  else if p = 0 then List.range tileCount else s.tilesOf (p - 1)

/-- TELEMETRY: also on pair 0 (R433). -/
def State.telemetryCmd (s : State) (p k : Nat) : State :=
  s.command p k 0x211 0
    (fun w => [bad (rqExpert w && (par w 3 == 0 || decide (tileCount < par w 3))) 0x101])
    (fun w => [bad (rqExpert w && decide (par w 3 ≤ tileCount) && s.tilesBad p (par w 2) (par w 3)) 0x101,
      bad (!s.hostUp) 0x105])
    (fun t =>
      let b := s.telemetryBytes p (s.telemetryTiles p t.words)
      { s with hostMem := memWrite s.hostMem (par64 t.words 0) b }.mbFinish p k 0 [w32 b.length])

end Sys2Proof.Machine
end

