-- ==== Sys2Proof/Machine/Bar2.lean ====
section
/-!
DEFINITION. Machine/Bar2.lean: the host's accesses through BAR2 (R163, R171, R182, R338).
-/

namespace Sys2Proof.Machine

/-- Do n bytes of the Pail meet a region in cache mode, which has no addresses of its own (R152)? -/
def State.meetsCache (s : State) (a n : Nat) : Bool :=
  decide (pailBase ≤ a) && (s.isCache (pailUnit a) (pailRegion a) || s.isCache (pailUnit (a + n - 1)) (pailRegion (a + n - 1)))

/-- Is an access of partition n's function at an offset allowed (R334, R338, R417): the partition is ACTIVE, and its
deciding window grants the access? -/
def State.bar2Grants (s : State) (n off len acc : Nat) : Bool :=
  s.partState n == 1 && decide (s.fw.powerDown < 2) && chipRangeOk off (max len 1) && !s.meetsCache off (max len 1) &&
  (s.part n).winGrantsAll (s.chipId * 2 ^ 40 + off) (max len 1) acc

/-- A refused access: counted, and logged at severity WARN. -/
def State.bar2Refused (s : State) (n off : Nat) (write : Bool) : State :=
  (s.modPart n (fun p => p.count Reg.mbPartRefused 15 0 1)).log 0x0603 Src.hostIf sevWarn n
    [w32 off, w32 (off / 2 ^ 32), w32 (b2n write)]

/-- BAR2_WRITE: an allowed write is accepted, and performed later at its home; a refused one is dropped. -/
def State.bar2Write (s : State) (n off : Nat) (data : List Byte) (relaxed : Bool) : State :=
  if !s.hostUp || 16 ≤ n || 2 ^ 40 ≤ off then s
  else if !s.bar2Grants n off data.length accHwr then s.bar2Refused n off true
  else { s with ingressQ := s.ingressQ ++ [⟨s.ingressIn, n, off, data, relaxed⟩], ingressIn := s.ingressIn + 1 }

/-- The ingress at work: a free choice of none, or of one write that may be performed (R171; log 99). -/
def State.ingressTurn (s : State) : State :=
  match (List.range s.ingressQ.length).filter s.ingressReady with
  | [] => s
  | l => match ((0 :: l.map (· + 1))[Config.freeValue s.freeCount 6 % (l.length + 1)]?).getD 0 with
    | 0 => s.drawn
    | i + 1 => s.drawn.ingressPerform i

/-- Bytes of uncorrectable sectors read as free values (log 99). -/
def maskBad (a : Nat) (bs : List Byte) (bads : List Nat) (draw : Nat) : List Byte :=
  bs.zipIdx.map (fun x =>
    if bads.contains (32 * ((a + x.2) / 32) - a) then BitVec.ofNat 8 (Config.freeValue draw (4096 + x.2)) else x.1)

/-- Does a read of function n, that came after `after` accepted writes, wait: for an earlier write of its function, or for
its own range, to be zeroed first (R153, R171)? -/
def State.readWaits (s : State) (r : HostRead) : Bool :=
  s.ingressQ.any (fun g => g.vf == r.vf && decide (g.id < r.after)) || s.spanWaits r.addr (max r.len 1)

/-- A read that no longer waits: served by its home, or, of a partition that grants it no more, refused with the status
Unsupported Request and data of all ones (R171, R182). -/
def State.readServe (s : State) (r : HostRead) : State :=
  if !s.bar2Grants r.vf r.addr r.len accHrd then
    { s.bar2Refused r.vf r.addr false with hostRead := some (ones r.len), hostUr := true }
  else
    let d := s.homeRead r.addr r.len
    { d.1.drawn with hostRead := some (maskBad r.addr d.2.1 d.2.2 d.1.freeCount), hostUr := false }

/-- BAR2_READ: after every earlier write of the same function has been performed, the home serves it (R171); a refused
read returns all ones. It waits while a write before it, or its own range, waits for zeroing. -/
def State.bar2Read (s : State) (n off len : Nat) : State :=
  if !s.hostUp || 16 ≤ n || 2 ^ 40 ≤ off then s else
  let r : HostRead := ⟨s.ingressIn, n, off, len⟩
  let s := s.ingressFlush n
  if s.bar2Grants n off len accHrd && s.readWaits r then { s with readQ := s.readQ ++ [r] } else s.readServe r

/-- The oldest waiting read that may be served is. -/
def State.readTurn (s : State) : State :=
  match (List.range s.readQ.length).find? (fun i => s.readQ[i]?.any (fun r =>
      !s.readWaits r || !s.bar2Grants r.vf r.addr r.len accHrd)) with
  | some i => (match s.readQ[i]? with
    | some r => ({ s with readQ := listDrop1 s.readQ i } : State).readServe r
    | none => s)
  | none => s

end Sys2Proof.Machine
end

