-- ==== Sys2Proof/Machine/Cycle.lean ====
section
/-!
DEFINITION. Machine/Cycle.lean: what passes with a mesh cycle when no command waits: the cycle counter (Table 15.6), the
issue slots a grant gives (R371), the matrix arrays (R26 to R47), the store buffers (R166), and the host's ingress (R171).
-/

namespace Sys2Proof.Machine

/-- Slots of the first c cycles of a run of 64 under grant n: floor(c · n / 64) (R371). -/
def slotsBy (n c : Nat) : Nat := c * n / 64

/-- What a tile's new mesh cycle has not seen yet: nothing has been served and no fault has arisen in it. -/
def Now.next (w : Now) : Now := { Now.quiet with lost := w.lost }

/-- Mesh cycle cyc of a tile: a run of 64 cycles takes the grant of its first; in a clocked tile the array runs, its row
links held where the grant withholds the slot (R43). -/
def Tile.cycle (x : Tile) (cyc : Nat) (on : Bool) : Tile :=
  let c := cyc % 64
  let n := if c = 0 then x.grant else x.runGrant
  let k := slotsBy n (c + 1) - slotsBy n c
  let x := { x with runGrant := n, slots := x.slots + k, now := x.now.next }
  if on then x.arrayCycle cyc (k == 0) else x

/-- What mesh cycle cyc ends with in a tile: a waiting write of another tile's Ladle, and the oldest store of the core's
buffer, take what the cycle has left of their banks (R45, R166). -/
def Tile.cycleEnd (x : Tile) (cyc : Nat) : Tile :=
  let x := x.takeIn cyc
  if x.sbuf.isEmpty then x else x.onBanks cyc 7 x.storeSpan Tile.drainStore

/-- CLK_MESH_CYC counts on, modulo 2^48. -/
def State.setCyc (s : State) (c : Nat) : State :=
  (s.setReg Reg.clkMeshCycLo (w32 c)).setReg Reg.clkMeshCycHi (w32 (c / 2 ^ 32))

/-- A bit error appears in an SRAM, by the environment's choice (R158). -/
def Tile.upset (x : Tile) (array word kind : Nat) : Tile :=
  match array with
  | 0 => if word < scratchSize / 8 then { x with scrBad := tabMod natD x.scrBad word (max kind) } else x
  | 1 => if word < 0x1C0000 / 8 then { x with pailBad := tabMod natD x.pailBad word (max kind) } else x
  | _ => { x with cache := x.cache.map (fun p => if p.1 ≠ word / 8 then p else
      (p.1, p.2.map (fun c => { c with bad := c.bad.filter (fun b => b.1 != word % 8 || b.2 == 2) ++
        (if c.bad.contains (word % 8, 2) then [] else [(word % 8, kind)]) }))) }

/-- The bit error, if any, of this mesh cycle: a word that held one correctable error may gain a second. -/
def State.upsets (s : State) : State :=
  match Config.sramUpset s.freeCount with
  | none => s.drawn
  | some (t, array, word, kind) => s.drawn.inTile t (fun x => x.upset array word (if kind = 1 then 1 else 2))

/-- One mesh cycle: what a step does on an empty queue (log 60). -/
def State.meshCycle (s : State) : State :=
  if !s.meshUp then s else
  let ends := fun (s : State) t => if s.clocked t then s.modTile t (fun x => x.cycleEnd s.cyc) else s
  let s := (s.tiles.map (·.1)).foldl ends s
  let c := (s.cyc + 1) % 2 ^ 48
  let s := s.setCyc c
  let s := (s.tiles.map (·.1)).foldl (fun s t => s.faultTraced t (fun s => s.modTile t (fun x => x.cycle c (s.clocked t)))) s
  s.meshTurns.ingressTurn.readTurn.upsets

end Sys2Proof.Machine
end

