-- ==== Sys2Proof/Machine/ExecTile.lean ====
section
/-!
DEFINITION. Machine/ExecTile.lean: the meanings of the register accesses (R6 to R9), the matrix engine, Rennet, the queues, synchronisation,
the scalar core and the vector unit.
-/

namespace Sys2Proof.Machine

/-- A step of a unit of tile t, with the trace point of a fault that it records. -/
def State.unitStep (s : State) (t : Nat) (f : State → State) : State := s.inClock t (fun s => s.faultTraced t f)

/-- A step that changes tile t alone. -/
def State.tileUnit (s : State) (t : Nat) (f : Tile → Tile) : State := s.unitStep t (fun s => s.modTile t f)

/-- A write of a register of the tile block by an agent that reaches it (R419). -/
def State.tileReg (s : State) (a : Agent) (t o : Nat) (val : Word) : State :=
  s.reach a (s.mayTile a t) (fun s => s.tilePut a t o val)

/-- A write of a register of the partition block by an agent that reaches it (R419). -/
def State.partReg (s : State) (a : Agent) (n o : Nat) (val : Word) : State :=
  s.reach a (mayPart a n) (fun s => s.partWrite n o val)

/-- A write of a register of the chip block by an agent that reaches it (R418, R434). -/
def State.chipReg (s : State) (a : Agent) (o : Nat) (val : Word) : State :=
  s.reach a (a == .pf || a == .root) (fun s => s.chipWrite a o val)

/-- Does an agent reach pair p's window (R309, R418)? -/
def mayPair (a : Agent) (p : Nat) : Bool :=
  match a with
  | .pf => p == 0
  | .root => p == 0
  | .vf n => p == n + 1 && decide (n < 16)
  | .service n => p == n + 1 && decide (n < 16)
  | .core _ => false

/-- A write of a register of pair p's window. -/
def State.pairReg (s : State) (a : Agent) (p o : Nat) (val : Word) : State :=
  s.reach a (mayPair a p) (fun s => s.mbWrite p o val)

/-- A step under a condition on its operands. -/
def State.when (s : State) (b : Bool) (f : State → State) : State := if b then f s else s

/-- A step that takes free values: the next draw follows. -/
def State.drawing (s : State) (f : State → State) : State := (f s).drawn

/-- REGISTER_WRITE: a write of 4 or 8 bytes at a BAR0 address (R7, R8, R82, R83, R130, R131, R132, R133, R204, R210,
R253, R294, R295, R298, R310, R369, R378, R394, R414, R419). -/
def execRegisterWrite (a : Agent) (addr size : Nat) (val : DWord) (s : State) : Host.Outcome State Fault Refusal :=
  .next (s.registerWrite a addr size val)

/-- RC_READ: a read; RC bits clear (R8, R81, R100, R159, R225, R254). -/
def execRcRead (a : Agent) (addr size : Nat) (s : State) : Host.Outcome State Fault Refusal :=
  .next (s.registerRead a addr size)

/-- LOW_HALF_READ: a 4-byte read of a low half latches the high half (R6, R159, R254). -/
def execLowHalfRead (a : Agent) (addr : Nat) (s : State) : Host.Outcome State Fault Refusal :=
  .next (s.registerRead a addr 4)

/-- MATRIX_PASS (R23, R24, R26, R27, R28, R29, R30, R31, R32, R33, R34, R35, R36, R37, R38, R39, R43, R44, R45, R46,
R47, R48, R49, R50, R53, R54, R55, R58, R59, R60, R61, R62, R64, R65, R66, R67, R69, R70, R76, R81, R82, R83, R88,
R89, R90, R91, R92, R93, R94, R95, R98, R99, R107, R109, R452, R453, R455). -/
def execMatrixPass (t g : Nat) (s : State) : Host.Outcome State Fault Refusal :=
  .next (s.tileUnit t (fun x => x.matrixCommand 0x10 g (s.compat t) s.cyc))

/-- WEIGHT_LOAD (R24, R28, R31, R32, R33, R34, R35, R36, R44, R45, R55, R62, R70, R453). -/
def execWeightLoad (t g : Nat) (s : State) : Host.Outcome State Fault Refusal :=
  .next (s.tileUnit t (fun x => x.matrixCommand 0x11 g (s.compat t) s.cyc))

/-- MODE_CHANGE (R25, R34, R94). -/
def execModeChange (t : Nat) (s : State) : Host.Outcome State Fault Refusal :=
  .next (s.tileUnit t (fun x => x.modeChange))

/-- MATRIX_PASS_COMPLETE (R95, R108, R455). -/
def execMatrixPassComplete (t g : Nat) (s : State) : Host.Outcome State Fault Refusal :=
  .next (s.tileUnit t (fun x => x.passComplete g))

/-- DRAIN_ROW (R45, R53, R54, R57, R63, R68, R71, R72, R73, R74, R77, R78, R79, R80, R81, R82, R83, R91, R95, R96,
R97, R99, R108, R162, R451, R455). -/
def execDrainRow (t q : Nat) (s : State) : Host.Outcome State Fault Refusal :=
  .next (s.when (decide (q < 4)) (fun s => s.tileUnit t (fun x => x.drainTurn s.cyc q)))

/-- ROW_LINK_HOLD (R38, R39, R40, R42, R454). -/
def execRowLinkHold (t g i0 n0 d : Nat) (s : State) : Host.Outcome State Fault Refusal :=
  .next (s.tileUnit t (fun x => x.rowHold g i0 n0 d))

/-- COLUMN_LINK_REFUSE (R39, R41, R42, R99, R454). -/
def execColumnLinkRefuse (t g j0 n0 d : Nat) (s : State) : Host.Outcome State Fault Refusal :=
  .next (s.tileUnit t (fun x => x.colHold g j0 n0 d))

/-- SEED_EXPANSION: the write of the high half of RENNET_SEEDn starts the expansion (R75, R76). -/
def execSeedExpansion (a : Agent) (t n : Nat) (hi : Word) (s : State) : Host.Outcome State Fault Refusal :=
  .next (s.when (decide (n < 16)) (fun s => s.tileReg a t (Reg.rennetSeedLo + 8 * n + 4) hi))

/-- SEED_EXPANSION_DONE (R75, R76). -/
def execSeedExpansionDone (t n : Nat) (how : SeedEnd) (s : State) : Host.Outcome State Fault Refusal :=
  .next (s.when (decide (n < 16)) (fun s => s.tileUnit t (fun x => x.seedDone n (how != .failed) (how == .good))))

/-- SR_SEED_WRITE (R80). -/
def execSrSeedWrite (a : Agent) (t : Nat) (hi : Word) (s : State) : Host.Outcome State Fault Refusal :=
  .next (s.tileReg a t Reg.rennetSrSeedHi hi)

/-- SR_RESEED_TAKE (R80, R193). -/
def execSrReseedTake (t q : Nat) (s : State) : Host.Outcome State Fault Refusal :=
  .next (s.when (decide (q < 4)) (fun s => s.tileUnit t (fun x => x.reseedTake q)))

/-- RENNET_PART_CLEAR (R84, R85). -/
def execRennetPartClear (a : Agent) (n : Nat) (val : Word) (s : State) : Host.Outcome State Fault Refusal :=
  .next (s.partReg a n Reg.rennetPartClear val)

/-- DRAIN_PUSH (R98). -/
def execDrainPush (a : Agent) (t g : Nat) (val : Word) (s : State) : Host.Outcome State Fault Refusal :=
  .next (s.when (decide (g < 4)) (fun s => s.tileReg a t (Reg.rennetDrainPush + 8 * g) val))

/-- QUEUE_PUSH: the write of word 7 of a push window; queue 0 matrix, 1 vector, 2 Ladle (R106, R166, R452). -/
def execQueuePush (a : Agent) (t queue : Nat) (w7 : Word) (s : State) : Host.Outcome State Fault Refusal :=
  .next (s.when (decide (queue < 3)) (fun s => s.tileReg a t (Reg.ladleQpushMx + 0x20 * queue + 28) w7))

/-- Q_OPCODE_REJECT (R105, R109). -/
def execQOpcodeReject (t e : Nat) (s : State) : Host.Outcome State Fault Refusal :=
  .next (s.when (decide (e < 4)) (fun s => s.unitStep t (fun s => s.qOpcodeReject t e)))

/-- SEM_WAIT (R107, R112, R113, R169, R453). -/
def execSemWait (t e : Nat) (s : State) : Host.Outcome State Fault Refusal :=
  .next (s.when (decide (e < 4)) (fun s => s.unitStep t (fun s => s.semWait t e)))

/-- SEM_SIGNAL (R107, R112, R113, R114, R168, R453). -/
def execSemSignal (t e : Nat) (s : State) : Host.Outcome State Fault Refusal :=
  .next (s.when (decide (e < 4)) (fun s => s.unitStep t (fun s => s.semSignal t e)))

/-- SEM_SIGNAL_ARRIVE (R113, R114, R116). -/
def execSemSignalArrive (t sem count : Nat) (s : State) : Host.Outcome State Fault Refusal :=
  .next (s.when (decide (t < tileCount)) (fun s => s.faultTraced t (fun s => s.semSignalArrive t sem count)))

/-- BAR_SYNC (R107, R112, R115, R116, R168, R169, R453). -/
def execBarSync (t e : Nat) (s : State) : Host.Outcome State Fault Refusal :=
  .next (s.when (decide (e < 4)) (fun s => s.unitStep t (fun s => s.barSync t e)))

/-- BAR_ARRIVE (R107, R112, R115, R116, R133, R168, R453). -/
def execBarArrive (t e : Nat) (s : State) : Host.Outcome State Fault Refusal :=
  .next (s.when (decide (e < 4)) (fun s => s.unitStep t (fun s => s.barArrive t e)))

/-- FENCE (R107, R108, R112, R169, R172, R453). -/
def execFence (t e : Nat) (s : State) : Host.Outcome State Fault Refusal :=
  .next (s.when (decide (e < 4)) (fun s => s.unitStep t (fun s => s.fence t e)))

/-- SYNC_TIMEOUT (R109, R117). -/
def execSyncTimeout (t e : Nat) (s : State) : Host.Outcome State Fault Refusal :=
  .next (s.when (decide (e < 4)) (fun s => s.unitStep t (fun s => s.syncTimeout t e)))

/-- FAULT_RECORD_CLEAR: only Ittan Service's write acts (R110, R177, R190). -/
def execFaultRecordClear (a : Agent) (t : Nat) (val : Word) (s : State) : Host.Outcome State Fault Refusal :=
  .next (s.tileReg a t Reg.ladleFault val)

/-- SCALAR_INSTRUCTION (R44, R45, R109, R111, R158, R166, R409). -/
def execScalarInstruction (t : Nat) (s : State) : Host.Outcome State Fault Refusal :=
  .next (s.unitStep t (fun s => s.scalarInstruction t))

/-- ECALL (R111, R321). -/
def execEcall (t : Nat) (s : State) : Host.Outcome State Fault Refusal :=
  .next (s.unitStep t (fun s => s.ecall t))

/-- EBREAK (R111). -/
def execEbreak (t : Nat) (s : State) : Host.Outcome State Fault Refusal :=
  .next (s.unitStep t (fun s => s.ebreak t))

/-- SVC_REQ_CLEAR: a write to LADLE_QCTL whose bit 16 clears SVC_REQ (R111). -/
def execSvcReqClear (a : Agent) (t : Nat) (val : Word) (s : State) : Host.Outcome State Fault Refusal :=
  .next (s.tileReg a t Reg.ladleQctl val)

/-- QCTL_STOP_WRITE: a write to LADLE_QCTL stores STOP (R111, R132). -/
def execQctlStopWrite (a : Agent) (t : Nat) (val : Word) (s : State) : Host.Outcome State Fault Refusal :=
  .next (s.tileReg a t Reg.ladleQctl val)

/-- VLOAD (R44, R45, R82, R109, R119, R120, R122, R158, R453). -/
def execVload (t : Nat) (s : State) : Host.Outcome State Fault Refusal :=
  .next (s.tileUnit t (fun x => x.vectorCommand 0x20 Tile.vload1 s.cyc))

/-- VSTORE (R44, R45, R119, R122, R453). -/
def execVstore (t : Nat) (s : State) : Host.Outcome State Fault Refusal :=
  .next (s.tileUnit t (fun x => x.vectorCommand 0x21 Tile.vstore1 s.cyc))

/-- VOP (R57, R118, R119, R120, R122, R453). -/
def execVop (t : Nat) (s : State) : Host.Outcome State Fault Refusal :=
  .next (s.tileUnit t (fun x => x.vectorCommand 0x22 Tile.vop1 s.cyc))

/-- VSUM (R119, R122, R453). -/
def execVsum (t : Nat) (s : State) : Host.Outcome State Fault Refusal :=
  .next (s.tileUnit t (fun x => x.vectorCommand 0x23 Tile.vsum1 s.cyc))

/-- VNARROW (R45, R53, R57, R60, R63, R71, R72, R73, R74, R76, R77, R78, R79, R80, R119, R121, R122, R451, R453). -/
def execVnarrow (t : Nat) (s : State) : Host.Outcome State Fault Refusal :=
  .next (s.tileUnit t (fun x => x.vectorCommand 0x24 Tile.vnarrow1 s.cyc))

end Sys2Proof.Machine
end

