-- ==== Sys2Proof/Machine/ExecFabric.lean ====
section
/-!
DEFINITION. Machine/ExecFabric.lean: the meanings of the fabric and collective rows.
-/

namespace Sys2Proof.Machine

/-- PORT_ENABLE: Root writes EN = 1 (R233, R240). -/
def execPortEnable (a : Agent) (p : Nat) (s : State) : Host.Outcome State Fault Refusal :=
  .next (s.reach a (mayChip a) (fun s => s.portEnable p))

/-- PORT_DISABLE: Root writes EN = 0 (R240). -/
def execPortDisable (a : Agent) (p : Nat) (s : State) : Host.Outcome State Fault Refusal :=
  .next (s.reach a (mayChip a) (fun s => s.portDisable p))

/-- LINK_TRAINED (R227, R231, R233, R234, R235). -/
def execLinkTrained (p : Nat) (lanes : Nat) (info : PartnerInfo) (s : State) : Host.Outcome State Fault Refusal :=
  .next (s.linkTrained p lanes info)

/-- TRAIN_TIMEOUT (R233). -/
def execTrainTimeout (p : Nat) (s : State) : Host.Outcome State Fault Refusal :=
  .next (s.trainTimeout p)

/-- TRAIN_RETRY (R233). -/
def execTrainRetry (p : Nat) (s : State) : Host.Outcome State Fault Refusal :=
  .next (s.when (decide (p < portCount)) (fun s => s.modPort p Port.trainRetry))

/-- LEAD_REQ (R235, R236). -/
def execLeadReq (p : Nat) (s : State) : Host.Outcome State Fault Refusal :=
  .next (s.leadReq p)

/-- LEAD_ACK (R235). -/
def execLeadAck (p : Nat) (s : State) : Host.Outcome State Fault Refusal :=
  .next (s.when (decide (p < portCount)) (fun s => s.modPort p Port.leadAck))

/-- LEAD_NAK (R236). -/
def execLeadNak (p : Nat) (s : State) : Host.Outcome State Fault Refusal :=
  .next (s.leadNak p)

/-- LEAD_BACKOFF_EXPIRY (R236). -/
def execLeadBackoffExpiry (p : Nat) (s : State) : Host.Outcome State Fault Refusal :=
  .next (s.leadBackoffExpiry p)

/-- LEAD_REQ_TIMEOUT (R236). -/
def execLeadReqTimeout (p : Nat) (s : State) : Host.Outcome State Fault Refusal :=
  .next (s.leadReqTimeout p)

/-- FAB_CHIP_ID_WRITE (R236). -/
def execFabChipIdWrite (a : Agent) (val : Word) (s : State) : Host.Outcome State Fault Refusal :=
  .next (s.chipReg a Reg.fabChipId val)

/-- HEARTBEAT_SEND (R237, R406). -/
def execHeartbeatSend (p : Nat) (s : State) : Host.Outcome State Fault Refusal :=
  .next (s.heartbeatSend p)

/-- HEARTBEAT_RECEIVE (R235, R405, R406, R407, R408). -/
def execHeartbeatReceive (p : Nat) (hb : Heartbeat) (s : State) : Host.Outcome State Fault Refusal :=
  .next (s.heartbeatReceive p hb)

/-- HEARTBEAT_TIMEOUT (R238, R239, R240, R283). -/
def execHeartbeatTimeout (p : Nat) (s : State) : Host.Outcome State Fault Refusal :=
  .next (s.heartbeatTimeout p)

/-- LOSS_OF_SIGNAL (R238, R239, R240). -/
def execLossOfSignal (p : Nat) (s : State) : Host.Outcome State Fault Refusal :=
  .next (s.lossOfSignal p)

/-- DOWN_NOTICE (R238, R239, R240). -/
def execDownNotice (p : Nat) (s : State) : Host.Outcome State Fault Refusal :=
  .next (s.downNotice p)

/-- LINK_RETRAIN (R239). -/
def execLinkRetrain (p : Nat) (s : State) : Host.Outcome State Fault Refusal :=
  .next (s.linkRetrain p)

/-- FLIT_RECEIVE (R228, R241, R244). -/
def execFlitReceive (p : Nat) (f : Flit) (crc : Word) (s : State) : Host.Outcome State Fault Refusal :=
  .next (s.flitReceive p f crc)

/-- REPLAY_TIMEOUT (R238, R239, R241). -/
def execReplayTimeout (p : Nat) (s : State) : Host.Outcome State Fault Refusal :=
  .next (s.replayTimeout p)

/-- FLIT_TRANSMIT (R224, R228, R229, R242, R244, R249). -/
def execFlitTransmit (p vc : Nat) (dclass : Bool) (s : State) : Host.Outcome State Fault Refusal :=
  .next (s.when (decide (p < portCount)) (fun s => s.modPort p (fun x => x.transmit (s.arb p) vc dclass)))

/-- FLIT_ROUTE (R230, R248, R250, R251, R252). -/
def execFlitRoute (p : Nat) (s : State) : Host.Outcome State Fault Refusal :=
  .next (s.flitRoute p)

/-- LADLE_PACKET_ARRIVE (R179, R182, R229, R247, R334, R337, R339). -/
def execLadlePacketArrive (s : State) : Host.Outcome State Fault Refusal :=
  .next (s.when s.meshUp State.ladlePacketArrive)

/-- COLL_POST (R13, R258, R260, R261, R262, R276, R283, R292, R293, R337, R452, R453). -/
def execCollPost (a : Agent) (t : Nat) (val : Word) (s : State) : Host.Outcome State Fault Refusal :=
  .next (s.tileReg a t Reg.collPost val)

/-- COLL_CONTEXT_GRANT (R84, R256, R263, R276, R279, R282, R286, R292). -/
def execCollContextGrant (s : State) : Host.Outcome State Fault Refusal :=
  .next (s.when s.meshUp State.collContextGrant)

/-- COLL_SIGNATURE (R255, R278, R279, R283, R292, R342). -/
def execCollSignature (n g nb : Nat) (x : Signature) (tag : Option DWord) (s : State) :
    Host.Outcome State Fault Refusal :=
  .next (s.when s.meshUp (fun s => s.collSignature n g nb x tag))

/-- COLL_COUNTS (R270, R283, R292). -/
def execCollCounts (n g : Nat) (m : CollMsg) (count : Nat) (s : State) : Host.Outcome State Fault Refusal :=
  .next (s.collCounts n g m.seq m.rank count m.jflags)

/-- COLL_FRAGMENT (R223, R257, R259, R261, R264, R265, R266, R267, R268, R269, R271, R273, R274, R275, R282, R283,
R292). -/
def execCollFragment (slot idx : Nat) (place : FragPlace) (offset len jflags scount : Nat) (data : List Byte) (s : State) :
    Host.Outcome State Fault Refusal :=
  .next (s.when s.meshUp (fun s => 
    s.collFragment slot idx ⟨place.step, place.axis, place.ring, offset, len, jflags, scount⟩ data))

/-- COLL_GRANT (R273, R274). -/
def execCollGrant (n g : Nat) (grant : SlotGrant) (s : State) : Host.Outcome State Fault Refusal :=
  .next (s.collGrant n g grant.nb grant.slots)

/-- COLL_COMPLETE (R115, R170, R263, R272, R280, R281, R282, R292). -/
def execCollComplete (n g : Nat) (s : State) : Host.Outcome State Fault Refusal :=
  .next (s.collComplete n g)

/-- COLL_ABORT_NOTICE (R284, R285, R286, R342). -/
def execCollAbortNotice (n g nb seq code origin : Nat) (tag : Option DWord) (s : State) :
    Host.Outcome State Fault Refusal :=
  .next (s.when s.meshUp (fun s => s.collAbortNotice n g nb seq code origin tag))

/-- COLL_ENTRY_TIMEOUT (R283, R284). -/
def execCollEntryTimeout (n g : Nat) (s : State) : Host.Outcome State Fault Refusal :=
  .next (s.collEntryTimeout n g)

/-- COLL_PROGRESS_TIMEOUT (R283, R284, R289). -/
def execCollProgressTimeout (n g : Nat) (s : State) : Host.Outcome State Fault Refusal :=
  .next (s.collProgressTimeout n g)

/-- COLL_ABORT_FINISH (R180, R263, R281, R284, R287, R292). -/
def execCollAbortFinish (n g : Nat) (s : State) : Host.Outcome State Fault Refusal :=
  .next (s.collAbortFinish n g)

/-- PARTNER_SIGNAL_DETECT (R233). -/
def execPartnerSignalDetect (p : Nat) (s : State) : Host.Outcome State Fault Refusal :=
  .next (s.when (decide (p < portCount)) (fun s => s.modPort p Port.signalDetect))

/-- CODEWORD_DECODE (R228, R238, R239). -/
def execCodewordDecode (p : Nat) (r : CodewordResult) (s : State) : Host.Outcome State Fault Refusal :=
  .next (s.codewordDecode p r)

/-- COLL_BARRIER_ARRIVAL (R280). -/
def execCollBarrierArrival (n g : Nat) (m : CollMsg) (s : State) : Host.Outcome State Fault Refusal :=
  .next (s.collBarrierArrival n g m.seq m.rank m.jflags)

end Sys2Proof.Machine
end

