-- ==== Sys2Proof/Machine/ExecFirm.lean ====
section
/-!
DEFINITION. Machine/ExecFirm.lean: the meanings of boot, Ittan Service and Root, the mailbox commands, resets and BAR2.
-/

namespace Sys2Proof.Machine

/-- BOOT_GO (R17, R149, R302, R303, R304, R305, R362, R364, R453). -/
def execBootGo (a : Agent) (val : Word) (s : State) : Host.Outcome State Fault Refusal :=
  .next (s.pairReg a 0 Reg.mbBootGo val)

/-- SVC_WINDOW (R298, R300). -/
def execSvcWindow (core : Nat) (s : State) : Host.Outcome State Fault Refusal :=
  .next (s.serviceFails 0x110 core)

/-- SVC_WATCHDOG (R300). -/
def execSvcWatchdog (core : Nat) (s : State) : Host.Outcome State Fault Refusal :=
  .next (s.serviceFails 0x111 core)

/-- SVC_TRAP (R300). -/
def execSvcTrap (core : Nat) (s : State) : Host.Outcome State Fault Refusal :=
  .next (s.serviceFails 0x113 core)

/-- SVC_RESTART (R300, R315). -/
def execSvcRestart (s : State) : Host.Outcome State Fault Refusal :=
  .next (s.svcRestart)

/-- ROOT_LOCKSTEP (R301). -/
def execRootLockstep (s : State) : Host.Outcome State Fault Refusal :=
  .next (s.rootLockstep)

/-- DOORBELL (R312). -/
def execDoorbell (a : Agent) (p : Nat) (val : Word) (s : State) : Host.Outcome State Fault Refusal :=
  .next (s.pairReg a p Reg.mbReqTail val)

/-- REQUEST_TAKE (R299, R311, R312, R314, R317, R453). -/
def execRequestTake (p : Nat) (s : State) : Host.Outcome State Fault Refusal :=
  .next (s.requestTake p)

/-- RSP_HEAD_WRITE (R313). -/
def execRspHeadWrite (a : Agent) (p : Nat) (val : Word) (s : State) : Host.Outcome State Fault Refusal :=
  .next (s.pairReg a p Reg.mbRspHead val)

/-- EVT_HEAD_WRITE (R313). -/
def execEvtHeadWrite (a : Agent) (p : Nat) (val : Word) (s : State) : Host.Outcome State Fault Refusal :=
  .next (s.pairReg a p Reg.mbEvtHead val)

/-- HOST_VER_WRITE (R308). -/
def execHostVerWrite (a : Agent) (p : Nat) (val : Word) (s : State) : Host.Outcome State Fault Refusal :=
  .next (s.pairReg a p Reg.mbHostVer val)

/-- PING: request k of pair p acts (R318). -/
def execPing (p k : Nat) (s : State) : Host.Outcome State Fault Refusal :=
  .next ((s.serving p k 1).ping p k)

/-- GET_VERSION: request k of pair p acts (R318). -/
def execGetVersion (p k : Nat) (s : State) : Host.Outcome State Fault Refusal :=
  .next ((s.serving p k 2).getVersion p k)

/-- GET_INFO: request k of pair p acts (R318). -/
def execGetInfo (p k : Nat) (s : State) : Host.Outcome State Fault Refusal :=
  .next ((s.serving p k 3).getInfo p k)

/-- LOG_LEVEL: request k of pair p acts (R318, R327). -/
def execLogLevel (p k : Nat) (s : State) : Host.Outcome State Fault Refusal :=
  .next ((s.serving p k 4).logLevel p k)

/-- TRACE_CFG: request k of pair p acts (R318, R328). -/
def execTraceCfg (p k : Nat) (s : State) : Host.Outcome State Fault Refusal :=
  .next ((s.serving p k 5).traceCfg p k)

/-- TRACE_MARK: request k of pair p acts (R318, R328). -/
def execTraceMark (p k : Nat) (s : State) : Host.Outcome State Fault Refusal :=
  .next ((s.serving p k 6).traceMark p k)

/-- PART_CREATE: request k of pair p acts (R318, R330, R331, R332, R348, R377). -/
def execPartCreate (p k : Nat) (s : State) : Host.Outcome State Fault Refusal :=
  .next (s.partCreate p k)

/-- PART_DESTROY: request k of pair p acts (R35, R182, R291, R316, R318, R330, R332, R343). -/
def execPartDestroy (p k : Nat) (s : State) : Host.Outcome State Fault Refusal :=
  .next (s.partDestroy p k)

/-- PART_RESET: request k of pair p acts (R25, R35, R80, R115, R181, R182, R194, R219, R222, R283, R291, R316, R318,
R332, R343, R377). -/
def execPartReset (p k : Nat) (s : State) : Host.Outcome State Fault Refusal :=
  .next (s.partReset p k)

/-- PART_RESET_TIMEOUT (R344). -/
def execPartResetTimeout (n : Nat) (s : State) : Host.Outcome State Fault Refusal :=
  .next (s.partResetTimeout n)

/-- PART_BROKEN (R332, R344). -/
def execPartBroken (n : Nat) (s : State) : Host.Outcome State Fault Refusal :=
  .next (s.partBroken n)

/-- WINDOW_SET: request k of pair p acts (R318, R334, R335, R336, R340). -/
def execWindowSet (p k : Nat) (s : State) : Host.Outcome State Fault Refusal :=
  .next (s.windowSet p k)

/-- KEY_LOAD: request k of pair p acts (R318, R341). -/
def execKeyLoad (p k : Nat) (s : State) : Host.Outcome State Fault Refusal :=
  .next (s.keyLoad p k)

/-- POWER_LIMIT: request k of pair p acts (R318, R380, R383). -/
def execPowerLimit (p k : Nat) (s : State) : Host.Outcome State Fault Refusal :=
  .next (s.powerLimit p k)

/-- BUDGET_SOURCE: request k of pair p acts (R318, R380). -/
def execBudgetSource (p k : Nat) (s : State) : Host.Outcome State Fault Refusal :=
  .next (s.budgetSource p k)

/-- FABRIC_SET: request k of pair p acts (R318, R319). -/
def execFabricSet (p k : Nat) (s : State) : Host.Outcome State Fault Refusal :=
  .next (s.fabricSet p k)

/-- PORT_SET: request k of pair p acts (R318). -/
def execPortSet (p k : Nat) (s : State) : Host.Outcome State Fault Refusal :=
  .next (s.portSet p k)

/-- COLL_CFG: request k of pair p acts (R295, R318). -/
def execCollCfg (p k : Nat) (s : State) : Host.Outcome State Fault Refusal :=
  .next (s.collCfg p k)

/-- FW_STAGE: request k of pair p acts (R302, R303, R306, R318, R453). -/
def execFwStage (p k : Nat) (s : State) : Host.Outcome State Fault Refusal :=
  .next (s.fwStage p k)

/-- FW_ACTIVATE: request k of pair p acts (R306, R318). -/
def execFwActivate (p k : Nat) (s : State) : Host.Outcome State Fault Refusal :=
  .next (s.fwActivate p k)

/-- NV_READ: request k of pair p acts (R318, R391). -/
def execNvRead (p k : Nat) (s : State) : Host.Outcome State Fault Refusal :=
  .next (s.nvRead p k)

/-- DEVICE_RESET: request k of pair p acts (R318, R411). -/
def execDeviceReset (p k : Nat) (s : State) : Host.Outcome State Fault Refusal :=
  .next (s.deviceResetCmd p k)

/-- POWER_DOWN: request k of pair p acts (R181, R183, R318, R366, R391). -/
def execPowerDown (p k : Nat) (s : State) : Host.Outcome State Fault Refusal :=
  .next (s.powerDownCmd p k)

/-- CTX_CREATE: request k of pair p acts (R318, R320, R324). -/
def execCtxCreate (p k : Nat) (s : State) : Host.Outcome State Fault Refusal :=
  .next ((s.serving p k 0x200).ctxCreate p k)

/-- CTX_DESTROY: request k of pair p acts (R318). -/
def execCtxDestroy (p k : Nat) (s : State) : Host.Outcome State Fault Refusal :=
  .next ((s.serving p k 0x201).ctxDestroy p k)

/-- QUEUE_CREATE: request k of pair p acts (R318). -/
def execQueueCreate (p k : Nat) (s : State) : Host.Outcome State Fault Refusal :=
  .next ((s.serving p k 0x202).queueCreate p k)

/-- QUEUE_DESTROY: request k of pair p acts (R318). -/
def execQueueDestroy (p k : Nat) (s : State) : Host.Outcome State Fault Refusal :=
  .next ((s.serving p k 0x203).queueDestroy p k)

/-- LAUNCH: request k of pair p acts (R318, R321). -/
def execLaunch (p k : Nat) (s : State) : Host.Outcome State Fault Refusal :=
  .next ((s.serving p k 0x204).launch p k)

/-- LAUNCH_COMPLETE (R321). -/
def execLaunchComplete (n ctx : Nat) (s : State) : Host.Outcome State Fault Refusal :=
  .next (s.launchComplete n ctx)

/-- CTX_SAVE: request k of pair p acts (R101, R102, R181, R194, R222, R290, R318, R322, R323). -/
def execCtxSave (p k : Nat) (s : State) : Host.Outcome State Fault Refusal :=
  .next ((s.serving p k 0x205).ctxSave p k)

/-- CTX_RESTORE: request k of pair p acts (R25, R35, R101, R103, R318, R323). -/
def execCtxRestore (p k : Nat) (s : State) : Host.Outcome State Fault Refusal :=
  .next ((s.serving p k 0x206).ctxRestore p k)

/-- FAULT_READ: request k of pair p acts (R318). -/
def execFaultRead (p k : Nat) (s : State) : Host.Outcome State Fault Refusal :=
  .next ((s.serving p k 0x207).faultRead p k)

/-- FAULT_CLEAR: request k of pair p acts (R110, R318). -/
def execFaultClear (p k : Nat) (s : State) : Host.Outcome State Fault Refusal :=
  .next ((s.serving p k 0x208).faultClearCmd p k)

/-- SEM_SET: request k of pair p acts (R318). -/
def execSemSet (p k : Nat) (s : State) : Host.Outcome State Fault Refusal :=
  .next ((s.serving p k 0x209).semSet p k)

/-- STATE_EXPORT: request k of pair p acts (R207, R318). -/
def execStateExport (p k : Nat) (s : State) : Host.Outcome State Fault Refusal :=
  .next ((s.serving p k 0x20A).stateExport p k)

/-- STATE_IMPORT: request k of pair p acts (R207, R208, R318). -/
def execStateImport (p k : Nat) (s : State) : Host.Outcome State Fault Refusal :=
  .next ((s.serving p k 0x20B).stateImport p k)

/-- OWNER_SET: request k of pair p acts (R204, R318). -/
def execOwnerSet (p k : Nat) (s : State) : Host.Outcome State Fault Refusal :=
  .next ((s.serving p k 0x20C).ownerSet p k)

/-- GROUP_SET: request k of pair p acts (R255, R318). -/
def execGroupSet (p k : Nat) (s : State) : Host.Outcome State Fault Refusal :=
  .next ((s.serving p k 0x20D).groupSet p k)

/-- PAIL_MODE_SET: request k of pair p acts (R153, R318). -/
def execPailModeSet (p k : Nat) (s : State) : Host.Outcome State Fault Refusal :=
  .next ((s.serving p k 0x20E).pailModeSet p k)

/-- COLL_CANCEL: request k of pair p acts (R283, R294, R318). -/
def execCollCancel (p k : Nat) (s : State) : Host.Outcome State Fault Refusal :=
  .next ((s.serving p k 0x20F).collCancelCmd p k)

/-- SCHED_CFG: request k of pair p acts (R318, R324). -/
def execSchedCfg (p k : Nat) (s : State) : Host.Outcome State Fault Refusal :=
  .next ((s.serving p k 0x210).schedCfg p k)

/-- TELEMETRY: request k of pair p acts (R318, R433). -/
def execTelemetry (p k : Nat) (s : State) : Host.Outcome State Fault Refusal :=
  .next ((s.serving p k 0x211).telemetryCmd p k)

/-- SCHED_SLICE (R324). -/
def execSchedSlice (n : Nat) (s : State) : Host.Outcome State Fault Refusal :=
  .next (s.schedSlice n)

/-- ROTATION_PERIOD (R325). -/
def execRotationPeriod (n : Nat) (s : State) : Host.Outcome State Fault Refusal :=
  .next (s.rotationPeriod n)

/-- LOG_REPEAT_FLUSH (R315, R326, R327). -/
def execLogRepeatFlush (code src part : Nat) (s : State) : Host.Outcome State Fault Refusal :=
  .next (s.logFlush code src part)

/-- VF_FLR (R333). -/
def execVfFlr (n : Nat) (s : State) : Host.Outcome State Fault Refusal :=
  .next (s.vfFlr n)

/-- PF_FLR (R411). -/
def execPfFlr (s : State) : Host.Outcome State Fault Refusal :=
  .next (s.pfFlr)

/-- BAR2_READ (R164, R171, R182, R334, R336, R337, R338). -/
def execBar2Read (n off len : Nat) (s : State) : Host.Outcome State Fault Refusal :=
  .next (s.bar2Read n off len)

/-- BAR2_WRITE (R163, R171, R182, R334, R336, R337, R338). -/
def execBar2Write (n off : Nat) (data : List Byte) (relaxed : Bool) (s : State) : Host.Outcome State Fault Refusal :=
  .next (s.bar2Write n off data relaxed)

/-- PART_RESET_ZEROING_DONE (R332, R343). -/
def execPartResetZeroingDone (n : Nat) (s : State) : Host.Outcome State Fault Refusal :=
  .next (s.partResetZeroingDone n)

/-- COALESCE_EXPIRY (R310). -/
def execCoalesceExpiry (p vec : Nat) (s : State) : Host.Outcome State Fault Refusal :=
  .next (s.when (decide (p < 17)) (fun s => s.modPair p (fun x => x.coalesceEnd vec)))

end Sys2Proof.Machine
end

