-- ==== Sys2Proof/Machine/ExecMem.lean ====
section
/-!
DEFINITION. Machine/ExecMem.lean: the meanings of the Ladle, Vat and Pail rows.
-/

namespace Sys2Proof.Machine

/-- A step of a column controller that has started. -/
def State.inColumn (s : State) (c : Nat) (f : State → State) : State :=
  if decide (c < tileCount) && (s.tile c).f Reg.vatStatus 2 2 == 1 then f s else s

/-- May the partition of tile t send memory traffic out: it is ACTIVE, and no power-down has come past its command
boundaries (R182, R183)? -/
def State.maySend (s : State) (t : Nat) : Bool :=
  decide (s.fw.powerDown < 2) && (match s.tileOwner t with | some n => s.partState n == 1 | none => false)

/-- COPY (R13, R109, R123, R124, R134, R136, R152, R334, R336, R337, R453). -/
def execCopy (t : Nat) (s : State) : Host.Outcome State Fault Refusal :=
  .next (s.unitStep t (fun s => s.ladleCommand 0x40 t))

/-- GATHER (R13, R123, R124, R134, R452, R453). -/
def execGather (t : Nat) (s : State) : Host.Outcome State Fault Refusal :=
  .next (s.unitStep t (fun s => s.ladleCommand 0x41 t))

/-- SCATTER (R13, R123, R124, R134, R452, R453). -/
def execScatter (t : Nat) (s : State) : Host.Outcome State Fault Refusal :=
  .next (s.unitStep t (fun s => s.ladleCommand 0x42 t))

/-- ZERO (R13, R123, R124, R134, R453). -/
def execZero (t : Nat) (s : State) : Host.Outcome State Fault Refusal :=
  .next (s.unitStep t (fun s => s.ladleCommand 0x43 t))

/-- PAIL_INV (R13, R123, R124, R157, R174, R175, R453). -/
def execPailInv (t : Nat) (s : State) : Host.Outcome State Fault Refusal :=
  .next (s.unitStep t (fun s => s.ladleCommand 0x44 t))

/-- LADLE_TXN_ISSUE (R20, R44, R45, R125, R127, R155, R156, R158, R162). -/
def execLadleTxnIssue (t : Nat) (s : State) : Host.Outcome State Fault Refusal :=
  .next (s.when (s.maySend t) (fun s => s.unitStep t (fun s => s.ladleTxnIssue t)))

/-- FAB_TAG_TAKE (R125, R246). -/
def execFabTagTake (s : State) : Host.Outcome State Fault Refusal :=
  .next (s.when s.meshUp State.tagTake)

/-- LADLE_TXN_COMPLETE (R108, R109, R126, R128, R162, R163, R164, R174, R177, R246). -/
def execLadleTxnComplete (t k : Nat) (s : State) : Host.Outcome State Fault Refusal :=
  .next (s.unitStep t (fun s => s.ladleTxnComplete t k))

/-- LADLE_FABRIC_TIMEOUT (R179, R246). -/
def execLadleFabricTimeout (t k : Nat) (s : State) : Host.Outcome State Fault Refusal :=
  .next (s.unitStep t (fun s => s.ladleFabricTimeout t k))

/-- VAT_ENTRY_START (R135, R138, R139, R140, R145, R146, R147, R148, R150, R178). -/
def execVatEntryStart (c : Nat) (eligible : List Nat) (upsets : List (Nat × Byte)) (s : State) :
    Host.Outcome State Fault Refusal :=
  .next (s.inColumn c (fun s => s.vatEntryStart c eligible upsets))

/-- VAT_REFRESH (R138, R142, R143). -/
def execVatRefresh (c : Nat) (s : State) : Host.Outcome State Fault Refusal :=
  .next (s.inColumn c (fun s => s.modTile c Tile.vatRefresh))

/-- VAT_LANE_CAL (R142, R144). -/
def execVatLaneCal (c : Nat) (ok : Bool) (s : State) : Host.Outcome State Fault Refusal :=
  .next (s.inColumn c (fun s => s.vatLaneCal c ok))

/-- SENSE_LINE_TEST (R147, R149, R150). -/
def execSenseLineTest (c : Nat) (raw : List Bool) (s : State) : Host.Outcome State Fault Refusal :=
  .next (s.inColumn c (fun s => s.senseLineTest c raw))

/-- VAT_SCRUB_ROW (R142, R144, R145, R148, R176). -/
def execVatScrubRow (c : Nat) (upsets : List (Nat × Nat × Byte)) (s : State) : Host.Outcome State Fault Refusal :=
  .next (s.inColumn c (fun s => s.vatScrubRow c upsets))

/-- SCRUB_FORCE (R142, R144). -/
def execScrubForce (c : Nat) (s : State) : Host.Outcome State Fault Refusal :=
  .next (s.inColumn c (fun s => s.modTile c Tile.scrubForce))

/-- REPAIR_COPY_ROW (R142, R151, R176). -/
def execRepairCopyRow (c : Nat) (s : State) : Host.Outcome State Fault Refusal :=
  .next (s.inColumn c (fun s => s.repairCopyRow c))

/-- PAIL_MODE_WRITE (R152, R153, R160). -/
def execPailModeWrite (a : Agent) (n k : Nat) (val : Word) (s : State) : Host.Outcome State Fault Refusal :=
  .next (s.when (decide (k < 18)) (fun s => s.partReg a n (Reg.pailMode + 4 * k) val))

/-- PAIL_ZEROING_DONE (R153). -/
def execPailZeroingDone (k : Nat) (s : State) : Host.Outcome State Fault Refusal :=
  .next (s.when (decide (k < 18)) (fun s => (s.pailZeroingDone k).collResume))

/-- PAIL_SLICE_ACCESS (R136, R154, R158, R162). -/
def execPailSliceAccess (t : Nat) (s : State) : Host.Outcome State Fault Refusal :=
  .next (s.when s.meshUp (fun s => s.pailSliceAccess t))

/-- PAIL_FILL (R155, R156). -/
def execPailFill (t k : Nat) (s : State) : Host.Outcome State Fault Refusal :=
  .next (s.when s.meshUp (fun s => s.pailFill t k))

/-- INV_ALL: a write of PAIL_CTL (R157, R174). -/
def execInvAll (a : Agent) (t : Nat) (val : Word) (s : State) : Host.Outcome State Fault Refusal :=
  .next (s.tileReg a t Reg.pailCtl val)

/-- INV_ALL_DONE (R157). -/
def execInvAllDone (t : Nat) (s : State) : Host.Outcome State Fault Refusal :=
  .next (s.inTile t (fun x => x.invAllDone s.cyc))

end Sys2Proof.Machine
end

