-- ==== Sys2Proof/Machine/ExecMgmt.lean ====
section
/-!
DEFINITION. Machine/ExecMgmt.lean: the meanings of the management target, the console, JTAG and telemetry rows.
-/

namespace Sys2Proof.Machine

/-- DYNAMIC_ADDRESS (R421). -/
def execDynamicAddress (addr : Nat) (s : State) : Host.Outcome State Fault Refusal :=
  .next (s.dynamicAddress addr)

/-- IDENT: Table 16.3 (R422). -/
def execIdent (s : State) : Host.Outcome State Fault Refusal :=
  .next (s.mgmtIdent)

/-- CAUSE: Table 16.3 (R422). -/
def execCause (s : State) : Host.Outcome State Fault Refusal :=
  .next (s.mgmtCause)

/-- ALERT: Table 16.3 (R422). -/
def execAlert (s : State) : Host.Outcome State Fault Refusal :=
  .next (s.mgmtAlert)

/-- ALERT_CLR (R422, R424, R434). -/
def execAlertClr (data : List Byte) (s : State) : Host.Outcome State Fault Refusal :=
  .next (s.mgmtAlertClr data)

/-- STATUS: Table 16.3 (R422). -/
def execStatus (s : State) : Host.Outcome State Fault Refusal :=
  .next (s.mgmtStatus)

/-- INPUT: Table 16.3 (R422). -/
def execInput (s : State) : Host.Outcome State Fault Refusal :=
  .next (s.mgmtInput)

/-- POWER: Table 16.3 (R422). -/
def execPower (s : State) : Host.Outcome State Fault Refusal :=
  .next (s.mgmtPower)

/-- TEMPS: Table 16.3 (R422). -/
def execTemps (s : State) : Host.Outcome State Fault Refusal :=
  .next (s.mgmtTemps)

/-- BUDGET_STAT: Table 16.3 (R422). -/
def execBudgetStat (s : State) : Host.Outcome State Fault Refusal :=
  .next (s.mgmtBudgetStat)

/-- BUDGET (R380, R383, R422, R423). -/
def execBudget (write : Option (List Byte)) (s : State) : Host.Outcome State Fault Refusal :=
  .next (s.mgmtBudget write)

/-- COOL: Table 16.3 (R422). -/
def execCool (code : Nat) (s : State) : Host.Outcome State Fault Refusal :=
  .next (s.mgmtCool code)

/-- TCYC: Table 16.3 (R422). -/
def execTcyc (s : State) : Host.Outcome State Fault Refusal :=
  .next (s.mgmtTcyc)

/-- TIME: Table 16.3 (R422). -/
def execTime (s : State) : Host.Outcome State Fault Refusal :=
  .next (s.mgmtTime)

/-- ALERT_RESPONSE (R424). -/
def execAlertResponse (s : State) : Host.Outcome State Fault Refusal :=
  .next (s.alertResponse)

/-- SCL_TIMEOUT (R425). -/
def execSclTimeout (s : State) : Host.Outcome State Fault Refusal :=
  .next (s.sclTimeout)

/-- UART_FRAME (R429, R430, R431). -/
def execUartFrame (bits : List (Bool × Bool × Bool)) (lowAtArm : Bool) (s : State) :
    Host.Outcome State Fault Refusal :=
  .next (s.uartFrame bits lowAtArm)

/-- JTAG_INSTRUCTION (R432). -/
def execJtagInstruction (ir : JtagIr) (s : State) : Host.Outcome State Fault Refusal :=
  .next (s.jtagInstruction ir)

/-- TAP_RESET (R432). -/
def execTapReset (s : State) : Host.Outcome State Fault Refusal :=
  .next (s.tapReset)

/-- TELEMETRY_SAMPLE (R433). -/
def execTelemetrySample (s : State) : Host.Outcome State Fault Refusal :=
  .next (s.telemetrySample)

/-- PCIE_LINK_UP (R420). -/
def execPcieLinkUp (speed width : Nat) (s : State) : Host.Outcome State Fault Refusal :=
  .next (s.pcieLinkUp speed width)

end Sys2Proof.Machine
end

