-- ==== Sys2Proof/Machine/ExecPower.lean ====
section
/-!
DEFINITION. Machine/ExecPower.lean: the meanings of power delivery, the cap controller, temperatures, cooling, clocks and resets.
-/

namespace Sys2Proof.Machine

/-- INPUT_TRIP (R17, R181, R350, R355). -/
def execInputTrip (s : State) : Host.Outcome State Fault Refusal :=
  .next (s.inputTrip)

/-- BLOCKING_SWITCH_OPEN (R352). -/
def execBlockingSwitchOpen (s : State) : Host.Outcome State Fault Refusal :=
  .next (s.blockingSwitchOpen)

/-- BUS_LOW (R43, R354). -/
def execBusLow (s : State) : Host.Outcome State Fault Refusal :=
  .next (s.busLow)

/-- BUS_RECOVER (R354). -/
def execBusRecover (s : State) : Host.Outcome State Fault Refusal :=
  .next (s.busRecover)

/-- VAON_START (R17, R360, R392, R443). -/
def execVaonStart (straps : Nat) (s : State) : Host.Outcome State Fault Refusal :=
  .next (s.vaonStart straps)

/-- STARTUP (R17, R361). -/
def execStartup (s : State) : Host.Outcome State Fault Refusal :=
  .next (s.startup)

/-- RAIL_GROUP_TIMEOUT (R364). -/
def execRailGroupTimeout (rail : Nat) (s : State) : Host.Outcome State Fault Refusal :=
  .next (s.railGroupTimeout rail)

/-- TILE_WAVE_START (R357, R362, R363). -/
def execTileWaveStart (w : Nat) (s : State) : Host.Outcome State Fault Refusal :=
  .next (s.tileWaveStart w)

/-- STARTUP_ZEROING_DONE (R365). -/
def execStartupZeroingDone (k : Nat) (s : State) : Host.Outcome State Fault Refusal :=
  .next (s.startupZeroingDone k)

/-- RAIL_CAL_SLOT (R357, R358, R367, R368, R398). -/
def execRailCalSlot (rail r temp : Nat) (m : Margin) (s : State) : Host.Outcome State Fault Refusal :=
  .next (s.railCalSlot rail r temp m)

/-- MESH_FREQ_CHANGE (R357, R358, R399). -/
def execMeshFreqChange (a : Agent) (val : Word) (s : State) : Host.Outcome State Fault Refusal :=
  .next (s.chipReg a Reg.clkMeshReq val)

/-- MESH_CLOCK_SWITCH (R289, R358, R399). -/
def execMeshClockSwitch (s : State) : Host.Outcome State Fault Refusal :=
  .next (s.meshClockSwitch)

/-- RAIL_LOOP_TICK (R43, R372, R373). -/
def execRailLoopTick (t ma : Nat) (s : State) : Host.Outcome State Fault Refusal :=
  .next (s.railLoopTick t ma)

/-- SLEW_LOOP_TICK (R43, R353, R354, R371, R374, R375). -/
def execSlewLoopTick (vin iin : Nat) (s : State) : Host.Outcome State Fault Refusal :=
  .next (s.slewLoopTick vin iin)

/-- BUDGET_LOOP_TICK (R43, R371, R376, R379). -/
def execBudgetLoopTick (pin : Nat) (railPower : List Nat) (conv : Nat) (s : State) :
    Host.Outcome State Fault Refusal :=
  .next (s.budgetLoopTick pin railPower conv)

/-- PHASE_MARK (R377, R393). -/
def execPhaseMark (a : Agent) (t : Nat) (val : Word) (s : State) : Host.Outcome State Fault Refusal :=
  .next (s.tileReg a t Reg.capPhaseMark val)

/-- PHASE_MARKER_APPLY (R209, R377, R378). -/
def execPhaseMarkerApply (n : Nat) (s : State) : Host.Outcome State Fault Refusal :=
  .next (s.when (decide (n < 16)) (fun s => s.phaseMarkerApply n))

/-- BUDGET_RAMP_TICK (R381). -/
def execBudgetRampTick (s : State) : Host.Outcome State Fault Refusal :=
  .next (s.budgetRampTick)

/-- BUDGET_PIN_PERIOD (R382, R383). -/
def execBudgetPinPeriod (period high : Nat) (complementOk : Bool) (s : State) : Host.Outcome State Fault Refusal :=
  .next (s.budgetPinPeriod period high complementOk)

/-- BUDGET_PIN_LOSS (R383). -/
def execBudgetPinLoss (s : State) : Host.Outcome State Fault Refusal :=
  .next (s.budgetPinLoss)

/-- BUDGET_I3C_LOSS (R383). -/
def execBudgetI3cLoss (s : State) : Host.Outcome State Fault Refusal :=
  .next (s.budgetI3cLoss)

/-- BUDGET_HOLD_EXPIRY (R383). -/
def execBudgetHoldExpiry (s : State) : Host.Outcome State Fault Refusal :=
  .next (s.budgetHoldExpiry)

/-- DEMAND_FORGET (R379, R394). -/
def execDemandForget (a : Agent) (n : Nat) (val : Word) (s : State) : Host.Outcome State Fault Refusal :=
  .next (s.partReg a n Reg.capPartPhase val)

/-- DIE_TEMP_READ (R17, R384, R385, R386). -/
def execDieTempRead (t temp : Nat) (s : State) : Host.Outcome State Fault Refusal :=
  .next (s.dieTempRead t temp)

/-- VAT_TEMP_READ (R17, R143, R384, R385, R386). -/
def execVatTempRead (t : Nat) (layers : List Nat) (s : State) : Host.Outcome State Fault Refusal :=
  .next (s.vatTempRead t layers)

/-- THERMAL_LOOP_TICK (R43, R385). -/
def execThermalLoopTick (t : Nat) (s : State) : Host.Outcome State Fault Refusal :=
  .next (s.thermalLoopTick t)

/-- COOLING_READING (R315, R387, R388, R389, R426, R427, R428). -/
def execCoolingReading (rs : List SensorResult) (s : State) : Host.Outcome State Fault Refusal :=
  .next (s.coolingReading rs)

/-- SENSOR_RETRY (R427). -/
def execSensorRetry (rs : List SensorResult) (s : State) : Host.Outcome State Fault Refusal :=
  .next (s.sensorRetry rs)

/-- SENSOR_TIMEOUT (R428). -/
def execSensorTimeout (rs : List SensorResult) (s : State) : Host.Outcome State Fault Refusal :=
  .next (s.sensorTimeout rs)

/-- THERMAL_CYCLE_TICK (R390). -/
def execThermalCycleTick (die vat : Nat) (s : State) : Host.Outcome State Fault Refusal :=
  .next (s.thermalCycleTick die vat)

/-- TCYC_RECORD_WRITE (R391). -/
def execTcycRecordWrite (ok : Bool) (s : State) : Host.Outcome State Fault Refusal :=
  .next (s.tcycRecordWrite ok)

/-- OSC_READY (R361, R400, R403). -/
def execOscReady (s : State) : Host.Outcome State Fault Refusal :=
  .next (s.oscReady)

/-- OSC_TIMEOUT (R401). -/
def execOscTimeout (s : State) : Host.Outcome State Fault Refusal :=
  .next (s.oscTimeout)

/-- REF_LOSS (R402). -/
def execRefLoss (ref : Nat) (s : State) : Host.Outcome State Fault Refusal :=
  .next (s.refLoss ref)

/-- REF_RESTORE (R402). -/
def execRefRestore (ref : Nat) (s : State) : Host.Outcome State Fault Refusal :=
  .next (s.refRestore ref)

/-- TIME_TICK (R403). -/
def execTimeTick (s : State) : Host.Outcome State Fault Refusal :=
  .next (s.timeTick)

/-- TIME_SET (R404, R405). -/
def execTimeSet (a : Agent) (hi : Word) (s : State) : Host.Outcome State Fault Refusal :=
  .next (s.chipReg a Reg.clkTimeSetHi hi)

/-- SYNC_LOSS (R315, R405, R408). -/
def execSyncLoss (s : State) : Host.Outcome State Fault Refusal :=
  .next (s.when s.vctlUp State.syncLoss)

/-- RESET_ASSERT (R17, R181, R410, R411, R437). -/
def execResetAssert (s : State) : Host.Outcome State Fault Refusal :=
  .next (s.resetAssert)

/-- RESET_RELEASE (R410). -/
def execResetRelease (s : State) : Host.Outcome State Fault Refusal :=
  .next (s.resetRelease)

/-- PERST (R439). -/
def execPerst (s : State) : Host.Outcome State Fault Refusal :=
  .next (s.perst)

/-- PCIE_LINK_DOWN (R420). -/
def execPcieLinkDown (speed width : Nat) (s : State) : Host.Outcome State Fault Refusal :=
  .next (s.pcieLinkDown speed width)

/-- RAIL_GROUP_READY (R361, R362, R364, R365). -/
def execRailGroupReady (g : Nat) (s : State) : Host.Outcome State Fault Refusal :=
  .next (s.railGroupReady g)

/-- VAON_FALL (R355). -/
def execVaonFall (s : State) : Host.Outcome State Fault Refusal :=
  .next (s.vaonFall)

/-- MESH_CHANGE_END (R399). -/
def execMeshChangeEnd (s : State) : Host.Outcome State Fault Refusal :=
  .next (s.meshChangeEnd)

end Sys2Proof.Machine
end

