-- ==== Sys2Proof/Machine/ExecTrain.lean ====
section
/-!
DEFINITION. Machine/ExecTrain.lean: the meanings of the Churn and Skimmer rows.
-/

namespace Sys2Proof.Machine

/-- CHURN_GO (R186, R187). -/
def execChurnGo (a : Agent) (t : Nat) (val : Word) (s : State) : Host.Outcome State Fault Refusal :=
  .next (s.tileReg a t Reg.churnGo val)

/-- CHURN_JOB_START (R45, R78, R184, R187, R188, R189, R192, R193, R195, R196, R198, R199, R200, R202, R203, R204,
R452, R453). -/
def execChurnJobStart (t : Nat) (s : State) : Host.Outcome State Fault Refusal :=
  .next (s.drawing (fun s => s.tileUnit t (fun x => x.churnStart s.freeCount)))

/-- CHURN_JOB_FAULT (R189). -/
def execChurnJobFault (t : Nat) (s : State) : Host.Outcome State Fault Refusal :=
  .next (s.drawing (fun s => s.tileUnit t (fun x => x.churnFault s.freeCount)))

/-- CHURN_JOB_COMPLETE (R25, R35, R190, R191). -/
def execChurnJobComplete (t : Nat) (s : State) : Host.Outcome State Fault Refusal :=
  .next (s.drawing (fun s => s.tileUnit t (fun x => x.churnComplete (s.compat t) s.cyc s.freeCount)))

/-- CHURN_PART_CLEAR (R203, R211). -/
def execChurnPartClear (a : Agent) (n : Nat) (val : Word) (s : State) : Host.Outcome State Fault Refusal :=
  .next (s.partReg a n Reg.churnPartClear val)

/-- STEP_STATS_CLEAR (R209, R211). -/
def execStepStatsClear (a : Agent) (n : Nat) (val : Word) (s : State) : Host.Outcome State Fault Refusal :=
  .next (s.partReg a n Reg.capStepCtl val)

/-- SKIM_GO (R13, R45, R212, R213, R214, R215, R216, R217, R218, R219, R220, R221, R337, R452, R453). -/
def execSkimGo (a : Agent) (t : Nat) (val : Word) (s : State) : Host.Outcome State Fault Refusal :=
  .next (s.tileReg a t Reg.skimGo val)

/-- SKIM_JOB_FAULT (R222). -/
def execSkimJobFault (t : Nat) (s : State) : Host.Outcome State Fault Refusal :=
  .next (s.unitStep t (fun s => s.skimFault t))

/-- SKIM_JOB_COMPLETE (R221). -/
def execSkimJobComplete (t : Nat) (s : State) : Host.Outcome State Fault Refusal :=
  .next (s.unitStep t (fun s => s.skimComplete t))

/-- SKIM_PART_CLEAR (R226). -/
def execSkimPartClear (a : Agent) (n : Nat) (val : Word) (s : State) : Host.Outcome State Fault Refusal :=
  .next (s.partReg a n Reg.skimPartClear val)

end Sys2Proof.Machine
end

