-- ==== Sys2Proof/Machine/Dispatch.lean ====
section
/-!
DEFINITION. Machine/Dispatch.lean: the meaning of each command, one arm per constructor of Instr.
-/

namespace Sys2Proof.Machine

def exec (i : Instr) (s : State) : Host.Outcome State Fault Refusal :=
  match i with
  | .registerWrite a addr size val => Sys2Proof.Machine.execRegisterWrite a addr size val s
  | .rcRead a addr size => Sys2Proof.Machine.execRcRead a addr size s
  | .lowHalfRead a addr => Sys2Proof.Machine.execLowHalfRead a addr s
  | .matrixPass t g => Sys2Proof.Machine.execMatrixPass t g s
  | .weightLoad t g => Sys2Proof.Machine.execWeightLoad t g s
  | .modeChange t => Sys2Proof.Machine.execModeChange t s
  | .matrixPassComplete t g => Sys2Proof.Machine.execMatrixPassComplete t g s
  | .drainRow t q => Sys2Proof.Machine.execDrainRow t q s
  | .rowLinkHold t g i0 n0 d => Sys2Proof.Machine.execRowLinkHold t g i0 n0 d s
  | .columnLinkRefuse t g j0 n0 d => Sys2Proof.Machine.execColumnLinkRefuse t g j0 n0 d s
  | .seedExpansion a t n hi => Sys2Proof.Machine.execSeedExpansion a t n hi s
  | .seedExpansionDone t n how => Sys2Proof.Machine.execSeedExpansionDone t n how s
  | .srSeedWrite a t hi => Sys2Proof.Machine.execSrSeedWrite a t hi s
  | .srReseedTake t q => Sys2Proof.Machine.execSrReseedTake t q s
  | .rennetPartClear a n val => Sys2Proof.Machine.execRennetPartClear a n val s
  | .drainPush a t g val => Sys2Proof.Machine.execDrainPush a t g val s
  | .queuePush a t queue w7 => Sys2Proof.Machine.execQueuePush a t queue w7 s
  | .qOpcodeReject t e => Sys2Proof.Machine.execQOpcodeReject t e s
  | .semWait t e => Sys2Proof.Machine.execSemWait t e s
  | .semSignal t e => Sys2Proof.Machine.execSemSignal t e s
  | .semSignalArrive t sem count => Sys2Proof.Machine.execSemSignalArrive t sem count s
  | .barSync t e => Sys2Proof.Machine.execBarSync t e s
  | .barArrive t e => Sys2Proof.Machine.execBarArrive t e s
  | .fence t e => Sys2Proof.Machine.execFence t e s
  | .syncTimeout t e => Sys2Proof.Machine.execSyncTimeout t e s
  | .faultRecordClear a t val => Sys2Proof.Machine.execFaultRecordClear a t val s
  | .scalarInstruction t => Sys2Proof.Machine.execScalarInstruction t s
  | .ecall t => Sys2Proof.Machine.execEcall t s
  | .ebreak t => Sys2Proof.Machine.execEbreak t s
  | .svcReqClear a t val => Sys2Proof.Machine.execSvcReqClear a t val s
  | .qctlStopWrite a t val => Sys2Proof.Machine.execQctlStopWrite a t val s
  | .vload t => Sys2Proof.Machine.execVload t s
  | .vstore t => Sys2Proof.Machine.execVstore t s
  | .vop t => Sys2Proof.Machine.execVop t s
  | .vsum t => Sys2Proof.Machine.execVsum t s
  | .vnarrow t => Sys2Proof.Machine.execVnarrow t s
  | .copy t => Sys2Proof.Machine.execCopy t s
  | .gather t => Sys2Proof.Machine.execGather t s
  | .scatter t => Sys2Proof.Machine.execScatter t s
  | .zero t => Sys2Proof.Machine.execZero t s
  | .pailInv t => Sys2Proof.Machine.execPailInv t s
  | .ladleTxnIssue t => Sys2Proof.Machine.execLadleTxnIssue t s
  | .fabTagTake => Sys2Proof.Machine.execFabTagTake s
  | .ladleTxnComplete t k => Sys2Proof.Machine.execLadleTxnComplete t k s
  | .ladleFabricTimeout t k => Sys2Proof.Machine.execLadleFabricTimeout t k s
  | .vatEntryStart c eligible upsets => Sys2Proof.Machine.execVatEntryStart c eligible upsets s
  | .vatRefresh c => Sys2Proof.Machine.execVatRefresh c s
  | .vatLaneCal c ok => Sys2Proof.Machine.execVatLaneCal c ok s
  | .senseLineTest c raw => Sys2Proof.Machine.execSenseLineTest c raw s
  | .vatScrubRow c upsets => Sys2Proof.Machine.execVatScrubRow c upsets s
  | .scrubForce c => Sys2Proof.Machine.execScrubForce c s
  | .repairCopyRow c => Sys2Proof.Machine.execRepairCopyRow c s
  | .pailModeWrite a n k val => Sys2Proof.Machine.execPailModeWrite a n k val s
  | .pailZeroingDone k => Sys2Proof.Machine.execPailZeroingDone k s
  | .pailSliceAccess t => Sys2Proof.Machine.execPailSliceAccess t s
  | .pailFill t k => Sys2Proof.Machine.execPailFill t k s
  | .invAll a t val => Sys2Proof.Machine.execInvAll a t val s
  | .invAllDone t => Sys2Proof.Machine.execInvAllDone t s
  | .churnGo a t val => Sys2Proof.Machine.execChurnGo a t val s
  | .churnJobStart t => Sys2Proof.Machine.execChurnJobStart t s
  | .churnJobFault t => Sys2Proof.Machine.execChurnJobFault t s
  | .churnJobComplete t => Sys2Proof.Machine.execChurnJobComplete t s
  | .churnPartClear a n val => Sys2Proof.Machine.execChurnPartClear a n val s
  | .stepStatsClear a n val => Sys2Proof.Machine.execStepStatsClear a n val s
  | .skimGo a t val => Sys2Proof.Machine.execSkimGo a t val s
  | .skimJobFault t => Sys2Proof.Machine.execSkimJobFault t s
  | .skimJobComplete t => Sys2Proof.Machine.execSkimJobComplete t s
  | .skimPartClear a n val => Sys2Proof.Machine.execSkimPartClear a n val s
  | .portEnable a p => Sys2Proof.Machine.execPortEnable a p s
  | .portDisable a p => Sys2Proof.Machine.execPortDisable a p s
  | .linkTrained p lanes info => Sys2Proof.Machine.execLinkTrained p lanes info s
  | .trainTimeout p => Sys2Proof.Machine.execTrainTimeout p s
  | .trainRetry p => Sys2Proof.Machine.execTrainRetry p s
  | .leadReq p => Sys2Proof.Machine.execLeadReq p s
  | .leadAck p => Sys2Proof.Machine.execLeadAck p s
  | .leadNak p => Sys2Proof.Machine.execLeadNak p s
  | .leadBackoffExpiry p => Sys2Proof.Machine.execLeadBackoffExpiry p s
  | .leadReqTimeout p => Sys2Proof.Machine.execLeadReqTimeout p s
  | .fabChipIdWrite a val => Sys2Proof.Machine.execFabChipIdWrite a val s
  | .heartbeatSend p => Sys2Proof.Machine.execHeartbeatSend p s
  | .heartbeatReceive p hb => Sys2Proof.Machine.execHeartbeatReceive p hb s
  | .heartbeatTimeout p => Sys2Proof.Machine.execHeartbeatTimeout p s
  | .lossOfSignal p => Sys2Proof.Machine.execLossOfSignal p s
  | .downNotice p => Sys2Proof.Machine.execDownNotice p s
  | .linkRetrain p => Sys2Proof.Machine.execLinkRetrain p s
  | .flitReceive p f crc => Sys2Proof.Machine.execFlitReceive p f crc s
  | .replayTimeout p => Sys2Proof.Machine.execReplayTimeout p s
  | .flitTransmit p vc dclass => Sys2Proof.Machine.execFlitTransmit p vc dclass s
  | .flitRoute p => Sys2Proof.Machine.execFlitRoute p s
  | .ladlePacketArrive => Sys2Proof.Machine.execLadlePacketArrive s
  | .collPost a t val => Sys2Proof.Machine.execCollPost a t val s
  | .collContextGrant => Sys2Proof.Machine.execCollContextGrant s
  | .collSignature n g nb x tag => Sys2Proof.Machine.execCollSignature n g nb x tag s
  | .collCounts n g m count => Sys2Proof.Machine.execCollCounts n g m count s
  | .collFragment slot idx place offset len jflags scount data => Sys2Proof.Machine.execCollFragment slot idx place offset len jflags scount data s
  | .collGrant n g grant => Sys2Proof.Machine.execCollGrant n g grant s
  | .collComplete n g => Sys2Proof.Machine.execCollComplete n g s
  | .collAbortNotice n g nb seq code origin tag => Sys2Proof.Machine.execCollAbortNotice n g nb seq code origin tag s
  | .collEntryTimeout n g => Sys2Proof.Machine.execCollEntryTimeout n g s
  | .collProgressTimeout n g => Sys2Proof.Machine.execCollProgressTimeout n g s
  | .collAbortFinish n g => Sys2Proof.Machine.execCollAbortFinish n g s
  | .bootGo a val => Sys2Proof.Machine.execBootGo a val s
  | .svcWindow core => Sys2Proof.Machine.execSvcWindow core s
  | .svcWatchdog core => Sys2Proof.Machine.execSvcWatchdog core s
  | .svcTrap core => Sys2Proof.Machine.execSvcTrap core s
  | .svcRestart => Sys2Proof.Machine.execSvcRestart s
  | .rootLockstep => Sys2Proof.Machine.execRootLockstep s
  | .doorbell a p val => Sys2Proof.Machine.execDoorbell a p val s
  | .requestTake p => Sys2Proof.Machine.execRequestTake p s
  | .rspHeadWrite a p val => Sys2Proof.Machine.execRspHeadWrite a p val s
  | .evtHeadWrite a p val => Sys2Proof.Machine.execEvtHeadWrite a p val s
  | .hostVerWrite a p val => Sys2Proof.Machine.execHostVerWrite a p val s
  | .ping p k => Sys2Proof.Machine.execPing p k s
  | .getVersion p k => Sys2Proof.Machine.execGetVersion p k s
  | .getInfo p k => Sys2Proof.Machine.execGetInfo p k s
  | .logLevel p k => Sys2Proof.Machine.execLogLevel p k s
  | .traceCfg p k => Sys2Proof.Machine.execTraceCfg p k s
  | .traceMark p k => Sys2Proof.Machine.execTraceMark p k s
  | .partCreate p k => Sys2Proof.Machine.execPartCreate p k s
  | .partDestroy p k => Sys2Proof.Machine.execPartDestroy p k s
  | .partReset p k => Sys2Proof.Machine.execPartReset p k s
  | .partResetTimeout n => Sys2Proof.Machine.execPartResetTimeout n s
  | .partBroken n => Sys2Proof.Machine.execPartBroken n s
  | .windowSet p k => Sys2Proof.Machine.execWindowSet p k s
  | .keyLoad p k => Sys2Proof.Machine.execKeyLoad p k s
  | .powerLimit p k => Sys2Proof.Machine.execPowerLimit p k s
  | .budgetSource p k => Sys2Proof.Machine.execBudgetSource p k s
  | .fabricSet p k => Sys2Proof.Machine.execFabricSet p k s
  | .portSet p k => Sys2Proof.Machine.execPortSet p k s
  | .collCfg p k => Sys2Proof.Machine.execCollCfg p k s
  | .fwStage p k => Sys2Proof.Machine.execFwStage p k s
  | .fwActivate p k => Sys2Proof.Machine.execFwActivate p k s
  | .nvRead p k => Sys2Proof.Machine.execNvRead p k s
  | .deviceReset p k => Sys2Proof.Machine.execDeviceReset p k s
  | .powerDown p k => Sys2Proof.Machine.execPowerDown p k s
  | .ctxCreate p k => Sys2Proof.Machine.execCtxCreate p k s
  | .ctxDestroy p k => Sys2Proof.Machine.execCtxDestroy p k s
  | .queueCreate p k => Sys2Proof.Machine.execQueueCreate p k s
  | .queueDestroy p k => Sys2Proof.Machine.execQueueDestroy p k s
  | .launch p k => Sys2Proof.Machine.execLaunch p k s
  | .launchComplete n ctx => Sys2Proof.Machine.execLaunchComplete n ctx s
  | .ctxSave p k => Sys2Proof.Machine.execCtxSave p k s
  | .ctxRestore p k => Sys2Proof.Machine.execCtxRestore p k s
  | .faultRead p k => Sys2Proof.Machine.execFaultRead p k s
  | .faultClear p k => Sys2Proof.Machine.execFaultClear p k s
  | .semSet p k => Sys2Proof.Machine.execSemSet p k s
  | .stateExport p k => Sys2Proof.Machine.execStateExport p k s
  | .stateImport p k => Sys2Proof.Machine.execStateImport p k s
  | .ownerSet p k => Sys2Proof.Machine.execOwnerSet p k s
  | .groupSet p k => Sys2Proof.Machine.execGroupSet p k s
  | .pailModeSet p k => Sys2Proof.Machine.execPailModeSet p k s
  | .collCancel p k => Sys2Proof.Machine.execCollCancel p k s
  | .schedCfg p k => Sys2Proof.Machine.execSchedCfg p k s
  | .telemetry p k => Sys2Proof.Machine.execTelemetry p k s
  | .schedSlice n => Sys2Proof.Machine.execSchedSlice n s
  | .rotationPeriod n => Sys2Proof.Machine.execRotationPeriod n s
  | .logRepeatFlush code src part => Sys2Proof.Machine.execLogRepeatFlush code src part s
  | .vfFlr n => Sys2Proof.Machine.execVfFlr n s
  | .pfFlr => Sys2Proof.Machine.execPfFlr s
  | .bar2Read n off len => Sys2Proof.Machine.execBar2Read n off len s
  | .bar2Write n off data relaxed => Sys2Proof.Machine.execBar2Write n off data relaxed s
  | .inputTrip => Sys2Proof.Machine.execInputTrip s
  | .blockingSwitchOpen => Sys2Proof.Machine.execBlockingSwitchOpen s
  | .busLow => Sys2Proof.Machine.execBusLow s
  | .busRecover => Sys2Proof.Machine.execBusRecover s
  | .vaonStart straps => Sys2Proof.Machine.execVaonStart straps s
  | .startup => Sys2Proof.Machine.execStartup s
  | .railGroupTimeout rail => Sys2Proof.Machine.execRailGroupTimeout rail s
  | .tileWaveStart w => Sys2Proof.Machine.execTileWaveStart w s
  | .startupZeroingDone k => Sys2Proof.Machine.execStartupZeroingDone k s
  | .railCalSlot rail r temp m => Sys2Proof.Machine.execRailCalSlot rail r temp m s
  | .meshFreqChange a val => Sys2Proof.Machine.execMeshFreqChange a val s
  | .meshClockSwitch => Sys2Proof.Machine.execMeshClockSwitch s
  | .railLoopTick t ma => Sys2Proof.Machine.execRailLoopTick t ma s
  | .slewLoopTick vin iin => Sys2Proof.Machine.execSlewLoopTick vin iin s
  | .budgetLoopTick pin railPower conv => Sys2Proof.Machine.execBudgetLoopTick pin railPower conv s
  | .phaseMark a t val => Sys2Proof.Machine.execPhaseMark a t val s
  | .phaseMarkerApply n => Sys2Proof.Machine.execPhaseMarkerApply n s
  | .budgetRampTick => Sys2Proof.Machine.execBudgetRampTick s
  | .budgetPinPeriod period high complementOk => Sys2Proof.Machine.execBudgetPinPeriod period high complementOk s
  | .budgetPinLoss => Sys2Proof.Machine.execBudgetPinLoss s
  | .budgetI3cLoss => Sys2Proof.Machine.execBudgetI3cLoss s
  | .budgetHoldExpiry => Sys2Proof.Machine.execBudgetHoldExpiry s
  | .demandForget a n val => Sys2Proof.Machine.execDemandForget a n val s
  | .dieTempRead t temp => Sys2Proof.Machine.execDieTempRead t temp s
  | .vatTempRead t layers => Sys2Proof.Machine.execVatTempRead t layers s
  | .thermalLoopTick t => Sys2Proof.Machine.execThermalLoopTick t s
  | .coolingReading rs => Sys2Proof.Machine.execCoolingReading rs s
  | .sensorRetry rs => Sys2Proof.Machine.execSensorRetry rs s
  | .sensorTimeout rs => Sys2Proof.Machine.execSensorTimeout rs s
  | .thermalCycleTick die vat => Sys2Proof.Machine.execThermalCycleTick die vat s
  | .tcycRecordWrite ok => Sys2Proof.Machine.execTcycRecordWrite ok s
  | .oscReady => Sys2Proof.Machine.execOscReady s
  | .oscTimeout => Sys2Proof.Machine.execOscTimeout s
  | .refLoss ref => Sys2Proof.Machine.execRefLoss ref s
  | .refRestore ref => Sys2Proof.Machine.execRefRestore ref s
  | .timeTick => Sys2Proof.Machine.execTimeTick s
  | .timeSet a hi => Sys2Proof.Machine.execTimeSet a hi s
  | .syncLoss => Sys2Proof.Machine.execSyncLoss s
  | .resetAssert => Sys2Proof.Machine.execResetAssert s
  | .resetRelease => Sys2Proof.Machine.execResetRelease s
  | .perst => Sys2Proof.Machine.execPerst s
  | .pcieLinkDown speed width => Sys2Proof.Machine.execPcieLinkDown speed width s
  | .dynamicAddress addr => Sys2Proof.Machine.execDynamicAddress addr s
  | .ident => Sys2Proof.Machine.execIdent s
  | .cause => Sys2Proof.Machine.execCause s
  | .alert => Sys2Proof.Machine.execAlert s
  | .alertClr data => Sys2Proof.Machine.execAlertClr data s
  | .status => Sys2Proof.Machine.execStatus s
  | .input => Sys2Proof.Machine.execInput s
  | .power => Sys2Proof.Machine.execPower s
  | .temps => Sys2Proof.Machine.execTemps s
  | .budgetStat => Sys2Proof.Machine.execBudgetStat s
  | .budget write => Sys2Proof.Machine.execBudget write s
  | .cool code => Sys2Proof.Machine.execCool code s
  | .tcyc => Sys2Proof.Machine.execTcyc s
  | .time => Sys2Proof.Machine.execTime s
  | .alertResponse => Sys2Proof.Machine.execAlertResponse s
  | .sclTimeout => Sys2Proof.Machine.execSclTimeout s
  | .uartFrame bits lowAtArm => Sys2Proof.Machine.execUartFrame bits lowAtArm s
  | .jtagInstruction ir => Sys2Proof.Machine.execJtagInstruction ir s
  | .tapReset => Sys2Proof.Machine.execTapReset s
  | .telemetrySample => Sys2Proof.Machine.execTelemetrySample s
  | .partnerSignalDetect p => Sys2Proof.Machine.execPartnerSignalDetect p s
  | .codewordDecode p r => Sys2Proof.Machine.execCodewordDecode p r s
  | .railGroupReady g => Sys2Proof.Machine.execRailGroupReady g s
  | .vaonFall => Sys2Proof.Machine.execVaonFall s
  | .pcieLinkUp speed width => Sys2Proof.Machine.execPcieLinkUp speed width s
  | .partResetZeroingDone n => Sys2Proof.Machine.execPartResetZeroingDone n s
  | .meshChangeEnd => Sys2Proof.Machine.execMeshChangeEnd s
  | .coalesceExpiry p vec => Sys2Proof.Machine.execCoalesceExpiry p vec s
  | .collBarrierArrival n g m => Sys2Proof.Machine.execCollBarrierArrival n g m s

end Sys2Proof.Machine
end

