-- ==== Sys2Proof/Machine/Step.lean ====
section
/-!
DEFINITION. Machine/Step.lean: the step. The command at the front of the queue runs; with no command waiting, one mesh
cycle passes.
-/

namespace Sys2Proof.Machine

/-- The queue without its front command. -/
def State.withPending (s : State) (q : List Instr) : State := { s with pending := q }

/-- One step. -/
def step (s : State) : Host.Outcome State Fault Refusal :=
  match s.pending with
  | [] => .next s.meshCycle
  | c :: q => exec c (s.withPending q)

/-- The state with the command that a table word spells at the front of its queue. The table gives no command bits, so
no word spells one. -/
def State.withFetchWord (s : State) (nbits w : Nat) : State :=
  match decodeTableWord nbits w with
  | some c => s.withPending (c :: s.pending)
  | none => s

end Sys2Proof.Machine
end

