-- ==== Sys2Proof/Safety.lean ====
section
/-!
DEFINITION. Safety.lean: what counts as a safe step, the invariant that every step keeps, and the words in which
statements say what a command leaves unchanged: the parts of a tile and of the device, named once.
-/

namespace Sys2Proof.Machine

/-- A step that goes on. -/
def Safe (s : State) : Prop := ∃ t, step s = .next t

/-- Vat and Pail memory, and the host's, are in canonical form. -/
def State.memOk (s : State) : Prop := Memory.wf s.mem = true ∧ Memory.wf s.hostMem = true

/-! ### Parts of a tile that stay as they are -/

/-- The matrix engine: mode, weights, accumulators, output tiles, passes, drains, drain targets, streams and the array. -/
structure Tile.MatrixSame (x y : Tile) : Prop where
  gang     : y.gang = x.gang
  wAct     : y.wAct = x.wAct
  wPend    : y.wPend = x.wPend
  wPendOn  : y.wPendOn = x.wPendOn
  wValid   : y.wValid = x.wValid
  acc      : y.acc = x.acc
  accOpen  : y.accOpen = x.accOpen
  fill     : y.fill = x.fill
  openTile : y.openTile = x.openTile
  passes   : y.passes = x.passes
  drains   : y.drains = x.drains
  targets  : y.targets = x.targets
  drainBaseLocal : y.drainBaseLocal = x.drainBaseLocal
  streams  : y.streams = x.streams
  arr      : y.arr = x.arr

/-- The Rennet: seeds, sign patterns and generators. -/
structure Tile.RennetSame (x y : Tile) : Prop where
  expanding : y.expanding = x.expanding
  patterns  : y.patterns = x.patterns
  patBad    : y.patBad = x.patBad
  gens      : y.gens = x.gens
  reseed    : y.reseed = x.reseed

/-- The command queues, the words held for them, and the synchronisation commands in progress. -/
structure Tile.QueuesSame (x y : Tile) : Prop where
  queues : y.queues = x.queues
  holdW  : y.holdW = x.holdW
  waits  : y.waits = x.waits

/-- The scalar core and the vector registers. -/
structure Tile.CoreSame (x y : Tile) : Prop where
  xr    : y.xr = x.xr
  pc    : y.pc = x.pc
  sbuf  : y.sbuf = x.sbuf
  stall : y.stall = x.stall
  fresh : y.fresh = x.fresh
  vr    : y.vr = x.vr

/-- The scratch memory, its standing errors and the turn of its ports. -/
structure Tile.ScratchSame (x y : Tile) : Prop where
  scratch : y.scratch = x.scratch
  scrBad  : y.scrBad = x.scrBad
  turn    : y.turn = x.turn

/-- The Ladle, the Pail cache and slice, and the Vat column. -/
structure Tile.MemorySame (x y : Tile) : Prop where
  issuing  : y.issuing = x.issuing
  txns     : y.txns = x.txns
  txnNext  : y.txnNext = x.txnNext
  inScr    : y.inScr = x.inScr
  scrAcks  : y.scrAcks = x.scrAcks
  cache    : y.cache = x.cache
  stamp    : y.stamp = x.stamp
  fills    : y.fills = x.fills
  sliceQ   : y.sliceQ = x.sliceQ
  pailBad  : y.pailBad = x.pailBad
  invStart : y.invStart = x.invStart
  col      : y.col = x.col

/-- The Churn and the Skimmer. -/
structure Tile.TrainSame (x y : Tile) : Prop where
  churn      : y.churn = x.churn
  skim       : y.skim = x.skim
  skimGen    : y.skimGen = x.skimGen
  skimReseed : y.skimReseed = x.skimReseed

/-- The power and temperature records and the issue counts. -/
structure Tile.PowerSame (x y : Tile) : Prop where
  railSamples : y.railSamples = x.railSamples
  tripSeen    : y.tripSeen = x.tripSeen
  vatTripSeen : y.vatTripSeen = x.vatTripSeen
  layerTemps  : y.layerTemps = x.layerTemps
  runGrant    : y.runGrant = x.runGrant
  slots       : y.slots = x.slots
  gated       : y.gated = x.gated

/-- Registers outside a list of offsets. -/
def Tile.RegsSame (x y : Tile) (but : List Nat) : Prop := ∀ o, o ∉ but → y.reg o = x.reg o

/-- The registers in which the Rennet counts and flags events (Table 2.9). -/
def rennetEventRegs : List Nat :=
  [Reg.rennetFlags, Reg.rennetFirst, Reg.rennetSatCnt, Reg.rennetOvfCnt, Reg.rennetNonfinCnt, Reg.rennetSubCnt,
   Reg.rennetAlignCnt, Reg.rennetAccOvfCnt, Reg.rennetNoncanonCnt]

/-- Two states differ at most in tile t, in the trace counters of the mailbox pairs, and in the host memory that trace
records go to. -/
def State.TileOnly (s u : State) (t : Nat) : Prop :=
  ∃ x pairs hostMem, u = { s.setTile t x with pairs := pairs, hostMem := hostMem }

/-! ### Words for hypotheses and for what a command writes -/

/-- Offsets of the tile block whose writes do nothing but store (Table 16.2): every other register of it has an effect
of its own. -/
def plainTileOff (o : Nat) : Bool :=
  o != Reg.ladleFault && o != Reg.ladleQctl && o != Reg.rennetFlags && !(decide (0x100 ≤ o) && decide (o < 0x120)) &&
  !(decide (0x40 ≤ o) && decide (o < 0xC0)) && o != Reg.rennetSrSeedHi && o != Reg.ladleLimits &&
  o != Reg.ladleScPc && !(decide (0x440 ≤ o) && decide (o < 0x4A0)) && o != Reg.ladleSyncCmd && o != Reg.pailCtl &&
  o != Reg.churnGo && o != Reg.churnStatus && o != Reg.skimGo && o != Reg.skimStatus && o != Reg.skimSrSeedHi &&
  o != Reg.collPost && o != Reg.capPhaseMark

/-- The BAR0 address of offset o of tile t's register block (Table 16.1). -/
def tileAddr (t o : Nat) : Nat := 0x100000 + 0x2000 * t + o

/-- A vector command of opcode `op` heads the vector queue and may start: the unit runs, no synchronisation command and no
Churn job holds it, and neither its sign pattern nor a rounding seed of its stage is still owed (R76, R80, R107). -/
structure Tile.VecHead (x : Tile) (op : Nat) (e : QEntry) (l : List QEntry) : Prop where
  ready : x.vecReady = true
  head  : x.queue 1 = e :: l
  opc   : opc e = op
  goes  : vWaits x e = false

/-- The banks serve a vector command in mesh cycle `cyc`: no write of another tile's Ladle waits at the tile, and the lines
that the command writes (the pack path of VNARROW at rank 2) and reads are free for it (R44, R45). -/
structure Tile.VecServed (x : Tile) (op : Nat) (e : QEntry) (cyc : Nat) : Prop where
  quiet  : x.inScr = []
  writes : x.banksFree cyc (if op = 0x24 then 2 else 5) (vSpans x e).2 = true
  reads  : x.banksFree cyc 5 (vSpans x e).1 = true

/-! ### What records and traces change -/

/-- The offsets of a pair's window that log records, events and trace records write: EVT_TAIL, EVT_LOST, LOG_SEQ,
TRACE_WR, the event slots and the log ring (Table 12.7). -/
def recordOff (o : Nat) : Bool :=
  o == Reg.mbEvtTail || o == Reg.mbEvtLost || o == Reg.mbLogSeq || o == Reg.mbTraceWr ||
  (decide (Reg.mbEvtSlot ≤ o) && decide (o < Reg.mbEvtSlot + 0x1000)) || decide (Reg.mbLogRec ≤ o)

/-- Two pairs differ at most in the words that records write and in the interrupts that they raise. -/
structure Pair.RecordsOnly (x y : Pair) : Prop where
  form : y = { x with regs := y.regs, irqPend := y.irqPend, irqCount := y.irqCount }
  regs : ∀ o, recordOff o = false → y.reg o = x.reg o

/-- Two states differ at most in what logging and tracing write (the record words of the pairs, the log windows, trace
records in host memory, the lines of the console) and in the count of free values drawn. -/
def State.RecordsOnly (s u : State) : Prop :=
  ∃ pairs logWins hostMem con k,
    u = { s with pairs := pairs, logWins := logWins, hostMem := hostMem, console := con, freeCount := k } ∧
    ∀ p, (s.pair p).RecordsOnly (tabGet pairD pairs p)

/-- Two states differ at most in what records write and in the alert output: MB_ALERT and the in-band interrupts sent
(R424). -/
def State.NotesOnly (s u : State) : Prop :=
  ∃ pairs logWins hostMem con k chip ibis,
    u = { s with pairs := pairs, logWins := logWins, hostMem := hostMem, console := con, freeCount := k, chip := chip,
                 mgmt := { s.mgmt with ibis := ibis } } ∧
    (∀ p, (s.pair p).RecordsOnly (tabGet pairD pairs p)) ∧ ∀ o, o ≠ Reg.mbAlert → tabGet chipRegD chip o = s.reg o

/-- Two states differ at most in tile t, in what records write, and in the alert output. -/
def State.TileOnlyNotes (s u : State) (t : Nat) : Prop := ∃ x, (s.setTile t x).NotesOnly u

/-- The device with every rail but VAON off (Table 13.1 steps 2 to 4, R410): its functions are as at reset, outputs inert,
while the always-on registers outside `but`, the reference bits, chip time, Vat contents and the non-volatile store stay. -/
structure State.InReset (s u : State) (but : List Nat) : Prop where
  tiles : u.tiles = tabMap tileD Tile.cleared s.tiles
  parts : u.parts = [] ∧ u.partSys = [] ∧ u.pairs = []
  fabric : u.ports = [] ∧ u.tags = [] ∧ u.arrivals = [] ∧ u.mesh = [] ∧ u.ingressQ = [] ∧ u.readQ = []
  cap   : u.cap = .reset
  aon   : ∀ o, alwaysOn o = true → o ∉ but → u.reg o = s.reg o
  rest  : ∀ o, alwaysOn o = false → o ∉ Reg.clkStatus :: but → u.reg o = chipRegD o
  refs  : u.f Reg.clkStatus 2 0 = s.f Reg.clkStatus 2 0
  time  : u.timeAcc = s.timeAcc
  mem   : u.mem = s.mem
  nv    : u.fw.nvCycles = s.fw.nvCycles ∧ u.fw.svnRoot = s.fw.svnRoot ∧ u.fw.svnSvc = s.fw.svnSvc
  outs  : u.power.meshOn = false ∧ u.power.pgood = false ∧ u.power.faultN = false ∧ u.power.ready = 0

/-! ### Requests -/

/-- Command k of pair p may act: it is a taken request of this opcode whose turn has come and that has not started, its
FLAGS are legal, the pair and the expert form are allowed it, a command of a partition pair finds its partition ACTIVE, and a service core holds that partition's window
set (R299, R314, R317, R332). Where none does, Root loads it first: `State.serving`. -/
structure State.InOrder (s : State) (p k op col : Nat) (t : Taken) : Prop where
  taken  : s.takenCmd p k op = some t
  fresh  : t.stage = 0
  flags  : (t.words.getD 1 0).toNat ≤ 1
  may    : s.denied p t.words col = false
  active : p = 0 ∨ op < 0x200 ∨ s.partState (p - 1) = 1
  served : p = 0 ∨ (s.svcCore (p - 1)).isSome = true

/-- Command k of pair p has started, and is at a stage of its own; a service core holds the partition's window set. -/
structure State.Started (s : State) (p k op stage : Nat) (t : Taken) : Prop where
  taken : s.takenCmd p k op = some t
  at_   : t.stage = stage
  served : p = 0 ∨ (s.svcCore (p - 1)).isSome = true

end Sys2Proof.Machine
end

