-- ==== Sys2Proof/Certificates/Slice0/Obligations.lean ====
section
/-!
DEFINITION. Certificates/Slice0/Obligations.lean: the statements about the model, by the numbered rules of the spec.
-/

open Sys2Proof Sys2Proof.Machine

/-- A step with a command at the front of the queue is that command's effect on the state with the queue's rest. -/
def Obligations.StepRunsTheFrontCommand : Prop :=
  ∀ (s : State) (c : Instr) (q : List Instr), step (s.withPending (c :: q)) = exec c (s.withPending q)

/-- With an empty queue a step is one mesh cycle (the model's choice, log 60): while the mesh clock is off nothing
changes; while it runs and no access of the host waits, CLK_MESH_CYC counts on modulo 2^48, and partitions, firmware and
power stay. -/
def Obligations.EmptyQueueIsOneMeshCycle : Prop :=
  ∀ s : State, s.pending = [] →
    (s.meshUp = false → step s = .next s) ∧
    (s.meshUp = true → s.ingressQ = [] → s.readQ = [] → ∃ u, step s = .next u ∧ u.cyc = (s.cyc + 1) % 2 ^ 48 ∧
      u.parts = s.parts ∧ u.power = s.power ∧ u.fw = s.fw)

/-- REGISTER_WRITE (R8, R418, R419): the owner's 4-byte write of a tile register that only stores gives each RW bit the
written value, clears a W1C bit written with one, and leaves every other bit, register, tile and unit as it was. -/
def Obligations.RegisterWriteActsByAccessType : Prop :=
  ∀ (s : State) (n t o : Nat) (val : DWord) (r : RegRow), s.hostUp = true → n < 16 → s.ownsTile n t = true →
    tileRow? o = some r → plainTileOff o = true → o % 4 = 0 → o < 0x2000 →
    ∃ w, exec (.registerWrite (.vf n) (tileAddr t o) 4 val) s = .next (s.setTile t ((s.tile t).setReg o w)) ∧
      ∀ b, b < 32 → w.getLsbD b =
        (if r.rw.testBit b then val.getLsbD b
         else if r.w1c.testBit b && val.getLsbD b then false else ((s.tile t).reg o).getLsbD b)

/-- RC_READ (R8, R81): a read of a Rennet event counter returns its value and leaves it zero; nothing else changes.
LOW_HALF_READ (R6): a read of CLK_TIME's low half returns it and latches the high half of that moment, and the next
read of the high half, in any state that still holds the latch, returns the latched value and ends the latch. -/
def Obligations.RegisterReadsHaveTheirEffects : Prop :=
  (∀ (s : State) (n t o : Nat), s.hostUp = true → n < 16 → s.ownsTile n t = true →
    o ∈ [Reg.rennetSatCnt, Reg.rennetOvfCnt, Reg.rennetNonfinCnt, Reg.rennetSubCnt, Reg.rennetAlignCnt,
      Reg.rennetAccOvfCnt, Reg.rennetNoncanonCnt] → tabGet latchD (s.tile t).latch o = none →
    exec (.rcRead (.vf n) (tileAddr t o) 4) s =
      .next { s.setTile t ((s.tile t).setReg o 0) with
        hostRead := some (bytesOf 4 ((s.tile t).reg o).toNat), hostUr := false }) ∧
  ((∀ s : State, s.hostUp = true → tabGet latchD s.chipLatch Reg.clkTimeLo = none →
    ∃ u, exec (.lowHalfRead .pf (0x40000 + Reg.clkTimeLo)) s = .next u ∧
      u.hostRead = some (bytesOf 4 (s.time % 2 ^ 32)) ∧ u.hostUr = false ∧
      tabGet latchD u.chipLatch Reg.clkTimeHi = some (BitVec.ofNat 32 (s.time / 2 ^ 32)) ∧
      u.timeAcc = s.timeAcc ∧ u.chip = s.chip ∧ u.tiles = s.tiles ∧ u.parts = s.parts ∧ u.pairs = s.pairs) ∧
  (∀ (s : State) (w : Word), s.hostUp = true → tabGet latchD s.chipLatch Reg.clkTimeHi = some w →
    ∃ u, exec (.rcRead .pf (0x40000 + Reg.clkTimeHi) 4) s = .next u ∧ u.hostRead = some (bytesOf 4 w.toNat) ∧
      u.hostUr = false ∧ tabGet latchD u.chipLatch Reg.clkTimeHi = none ∧ u.timeAcc = s.timeAcc ∧ u.chip = s.chip))

/-- MATRIX_PASS (R24, R34, R69, R93, R98): the command at the head of gang g's order, free to start in this mesh cycle and
its checks passed, leaves the queue, is counted, and becomes a started pass with the command's fields, all its sums still
to come. With ACC_LAST it pops the drain target at the head of its queue and closes the output tile; without it the
output tile stays open. Accumulators, active weights, drains, scratch, generators, sign patterns and every other unit
stay. -/
def Obligations.MatrixPassStarts : Prop :=
  ∀ (s : State) (t g i : Nat) (e : QEntry) (x : Tile), x = s.tile t → s.clocked t = true → x.mxReady = true →
    gangHead x.gang g 0 (x.queue 0) = some (i, e) → opc e = 0x10 → x.startsNow i e s.cyc = true → mxCheck x e = 0 →
    (x.scrReads (startReads x e)).2 = false →
    ∃ y p, exec (.matrixPass t g) s = .next (s.setTile t y) ∧
      y.queue 0 = listDrop1 (x.queue 0) i ∧ y.reg Reg.ladleCmdcntMx = x.reg Reg.ladleCmdcntMx + 1 ∧
      y.passes = x.passes ++ [p] ∧ p.qsel = g ∧ p.gang = x.gang ∧ p.first = mxFirst e ∧ p.last = mxLast e ∧
      p.tCount = mxT e ∧ p.nCols = mxN e ∧ p.cvt = mxCvt e ∧ p.seq = (y.reg Reg.ladleCmdcntMx).toNat ∧
      p.setL < 2 ∧ p.setR < 2 ∧ p.tCount ≤ 64 ∧ p.nCols ≤ gangCols p.gang ∧ p.fed = [] ∧
      p.toLink = mxT e * mxN e ∧ p.left = mxT e * mxN e ∧
      (mxLast e = true → (p.base, p.pitch) = (x.target g).getD (0, 0) ∧
        tabGet targetsD y.targets g = (tabGet targetsD x.targets g).tail ∧ tabGet openTileD y.openTile g = none) ∧
      (mxLast e = false → y.targets = x.targets ∧ y.fill = x.fill ∧
        tabGet openTileD y.openTile g = some (mxT e, mxN e)) ∧
      y.gang = x.gang ∧ y.acc = x.acc ∧ y.wAct = x.wAct ∧ y.wPend = x.wPend ∧ y.drains = x.drains ∧
      y.queue 1 = x.queue 1 ∧ y.queue 3 = x.queue 3 ∧
      y.waits = x.waits ∧ x.RennetSame y ∧ x.CoreSame y ∧ x.ScratchSame y ∧ x.MemorySame y ∧ x.TrainSame y ∧
      x.PowerSame y ∧ x.RegsSame y (Reg.ladleCmdcntMx :: Reg.ladleScrEcc :: rennetEventRegs)

/-- A matrix command that fails a check (R34, R109, R453): with the lowest code of its failing checks the command leaves
the queue and the engine stops; a first fault records the code, engine 0 and the command count, a further one sets
MULTI. No weight, accumulator, target, scratch byte or other unit changes. WEIGHT_LOAD and MODE_CHANGE (R25, R28, R35,
R36). A weight load that passes its checks leaves the queue, is counted, marks the gang's quarters valid and pending, and
is handed to the weight loader, which has written no row of it yet; active and pending registers stay. A mode change,
every quarter's last item in its column link, sets the mode to the head command's GANG, which stays at the head of the
queue, and changes nothing else, so cell weights survive it. -/
def Obligations.MatrixChecksWeightsAndModes : Prop :=
  (∀ (s : State) (t g i : Nat) (e : QEntry) (x : Tile), x = s.tile t → s.clocked t = true → x.mxReady = true →
    gangHead x.gang g 0 (x.queue 0) = some (i, e) → x.startsNow i e s.cyc = true → mxCheck x e ≠ 0 →
    ∀ c, (opc e = 0x10 ∧ c = Instr.matrixPass t g) ∨ (opc e = 0x11 ∧ c = Instr.weightLoad t g) →
    ∃ u y, exec c s = .next u ∧ s.TileOnly u t ∧ y = u.tile t ∧ y.queue 0 = listDrop1 (x.queue 0) i ∧
      y.f Reg.ladleFault 31 31 = 1 ∧ y.f Reg.ladleFault 20 20 = 1 ∧
      (x.f Reg.ladleFault 31 31 = 0 → y.f Reg.ladleFault 15 0 = mxCheck x e ∧ y.f Reg.ladleFault 18 16 = 0 ∧
        y.reg Reg.ladleFaultSeq = x.reg Reg.ladleCmdcntMx + 1) ∧
      (x.f Reg.ladleFault 31 31 = 1 → y.f Reg.ladleFault 24 24 = 1 ∧
        y.f Reg.ladleFault 15 0 = x.f Reg.ladleFault 15 0) ∧
      x.MatrixSame y ∧ x.RennetSame y ∧ x.CoreSame y ∧ x.ScratchSame y ∧ x.MemorySame y ∧ x.TrainSame y ∧ x.PowerSame y) ∧
  ((∀ (s : State) (t g i : Nat) (e : QEntry) (x : Tile), x = s.tile t → s.clocked t = true → x.mxReady = true →
    gangHead x.gang g 0 (x.queue 0) = some (i, e) → opc e = 0x11 → x.startsNow i e s.cyc = true → mxCheck x e = 0 →
    ∃ y kept, exec (.weightLoad t g) s = .next (s.setTile t y) ∧ y.queue 0 = listDrop1 (x.queue 0) i ∧
      y.reg Reg.ladleCmdcntMx = x.reg Reg.ladleCmdcntMx + 1 ∧
      y.arr = { x.arr with
        started := some s.cyc
        loads := kept ++ [⟨(x.reg Reg.ladleCmdcntMx + 1).toNat, false, e, []⟩] } ∧
      (∀ l ∈ kept, l ∈ x.arr.loads) ∧
      (∀ q, q ∈ gangQuarters x.gang g → bit y.wValid q = true ∧ bit y.wPendOn q = true) ∧
      y.wAct = x.wAct ∧ y.wPend = x.wPend ∧ y.gang = x.gang ∧ y.acc = x.acc ∧ y.passes = x.passes ∧
      y.drains = x.drains ∧ y.targets = x.targets ∧ y.openTile = x.openTile ∧ x.RennetSame y ∧ x.CoreSame y ∧
      x.ScratchSame y ∧ x.MemorySame y ∧ x.TrainSame y ∧ x.PowerSame y ∧ x.RegsSame y [Reg.ladleCmdcntMx]) ∧
  (∀ (s : State) (t : Nat) (e : QEntry) (l : List QEntry) (x : Tile), x = s.tile t → s.clocked t = true →
    x.mxReady = true → x.queue 0 = e :: l → isMatrixOp (opc e) = true → mxGang e ≠ x.gang → mxWaits x e = false →
    x.linksFed = true → mxCheck x e = 0 → exec (.modeChange t) s = .next (s.setTile t { x with gang := mxGang e })))

/-- Sums reach their accumulator entries, and MATRIX_PASS_COMPLETE (R88, R93, R95, R99). The sum that an accumulator takes
from its column link replaces its entry when its pass is the first of its output tile, and is added to it otherwise; no
other entry changes, and the link loses that sum alone. The oldest pass of gang g whose last addition is made, no earlier
pass sharing its column quarters, then ends: with ACC_LAST one drain per column quarter follows those already waiting,
and else none; nothing else changes but the count of open output tiles. -/
def Obligations.MatrixPassCompletes : Prop :=
  (∀ (x y : Tile) (cyc q col : Nat) (e : SumEntry) (rest : List SumEntry) (p : PassRec) (ev : List (Nat × RnEvt)),
    tabGet colD x.arr.cols (q * 64 + col) = e :: rest → x.passOf e.seq = some p → x.accTakes cyc q col p e = true →
    Tile.accumulate cyc q col x = (y, ev) →
    (p.first = true → tabGet accD y.acc (accKey q (p.setIn q) e.tok col) = e.val) ∧
    (p.first = false → tabGet accD y.acc (accKey q (p.setIn q) e.tok col) =
      (acc56Add p.compat (tabGet accD x.acc (accKey q (p.setIn q) e.tok col)) (acc56Num e.val)).1) ∧
    (∀ k, k ≠ accKey q (p.setIn q) e.tok col → tabGet accD y.acc k = tabGet accD x.acc k) ∧
    tabGet colD y.arr.cols (q * 64 + col) = rest ∧
    (∀ k, k ≠ q * 64 + col → tabGet colD y.arr.cols k = tabGet colD x.arr.cols k)) ∧
  (∀ (s : State) (t g : Nat) (p : PassRec) (x : Tile), x = s.tile t → s.clocked t = true → x.passEnds g = some p →
    ∃ y, exec (.matrixPassComplete t g) s = .next (s.setTile t y) ∧ y.passes = dropFirst (· == p) x.passes ∧
      (p.last = true → ∃ js, y.drains = x.drains ++ js ∧ js.map (·.quarter) = columnQuarters p.gang p.qsel ∧
        ∀ j ∈ js, j.base = p.base ∧ j.pitch = p.pitch ∧ j.cvt = p.cvt ∧ j.seq = p.seq ∧ j.row = 0) ∧
      (p.last = false → y.drains = x.drains) ∧
      y = { x with passes := y.passes, drains := y.drains, accOpen := y.accOpen })

/-- ROW_LINK_HOLD and COLUMN_LINK_REFUSE (R40, R41, R42): with no hold of the stream before it, a hold of d cycles at the
empty row link of an enabled row i0 for position n0 of a started pass delays exactly the items (i, j, n) of that gang
with n + min(i, i0) ≥ n0 + i0, and the refusal of a full column link j0 exactly those with
n + i + min(j, j0) ≥ n0 + gr + j0, each by d cycles (in M16 mode d rounded up to a multiple of 4). No other gang's
stream, no other part of the tile but the links' gaps, and no other tile changes. -/
def Obligations.HoldsDelayExactlyTheirItems : Prop :=
  ∀ (s : State) (t g k0 n0 d : Nat) (st : Stream) (x : Tile), x = s.tile t → s.clocked t = true →
    tabGet streamD x.streams g = some st → st.holds = [] →
    ∀ row c,
      (row = true ∧ c = Instr.rowLinkHold t g k0 n0 d ∧ k0 < gangRows st.gang ∧
        tabGet linkD x.arr.rows (rowKey st.gang g k0) = [] ∧
        ∃ p ∈ x.passes, p.qsel = g ∧ k0 < mxK p.entry ∧ p.pos ≤ n0 ∧ n0 < p.pos + p.tCount) ∨
      (row = false ∧ c = Instr.columnLinkRefuse t g k0 n0 d ∧ k0 < gangCols st.gang ∧
        8 ≤ (tabGet colD x.arr.cols (colKey st.gang g k0)).length) →
    ∃ y gaps st', exec c s = .next (s.setTile t { x with streams := y, arr := { x.arr with gaps := gaps } }) ∧
      tabGet streamD y g = some st' ∧ (∀ g', g' ≠ g → tabGet streamD y g' = tabGet streamD x.streams g') ∧
      ∀ i j n, st'.itemCycle i j n = st.itemCycle i j n +
        (if (if row then n0 + k0 ≤ n + min i k0 else n0 + gangRows st.gang + k0 ≤ n + i + min j k0) then
          (if st.m16 then 4 * ceilDiv d 4 else d) else 0)

/-- DRAIN_ROW (R45, R80, R95, R96, R97, R455). A drain with no row to write ends. Otherwise, unless its quarter owes a
reseed, and with the banks of its row's bytes free for it, its next row is written: only the bytes of that row change in
scratch (for a 64-bit container row of a scratch without errors each container holds the accumulator's 56 bits), the
accumulators stay, and the drain goes to its next row, or ends after its last. A 128-column gang with ROT = 2 writes the
rows of both its quarters at once. -/
def Obligations.DrainRowWritesItsRow : Prop :=
  (∀ (s : State) (t q : Nat) (j : DrainJob) (x : Tile), x = s.tile t → s.clocked t = true → q < 4 →
    x.drainHead q = some j → j.tCount = 0 →
    exec (.drainRow t q) s = .next (s.setTile t { x with drains := dropFirst (fun d => d.quarter == q) x.drains })) ∧
  (∀ (s : State) (t q : Nat) (j : DrainJob) (x : Tile), x = s.tile t → s.clocked t = true → q < 4 →
    x.drainHead q = some j → j.tCount ≠ 0 → j.owes x = false → ¬(j.wide = true ∧ cvRot j.cvt = 2) →
    x.banksFree s.cyc 2 j.spans = true →
    ∃ y, exec (.drainRow t q) s = .next (s.setTile t y) ∧
      (j.row + 1 < j.tCount → y.drainHead q = some { j with row := j.row + 1 }) ∧
      (j.tCount ≤ j.row + 1 → y.drains = dropFirst (fun d => d.quarter == q) x.drains) ∧
      (∀ a, (∀ r ∈ j.spans, a < r.1 ∨ r.1 + r.2 ≤ a) → tabGet byteD y.scratch a = tabGet byteD x.scratch a) ∧
      (cvOfmt j.cvt = 9 → x.scrBad = [] → ∀ c k, c < j.cols → k < 8 →
        (tabGet byteD y.scratch (j.base + j.row * j.pitch + 8 * (j.col0 + c) + k)).toNat =
          (tabGet accD x.acc (accKey q j.set j.row c)).toNat / 256 ^ k % 256) ∧
      y.acc = x.acc ∧ y.passes = x.passes ∧ y.targets = x.targets ∧ y.wAct = x.wAct ∧ y.openTile = x.openTile ∧
      y.arr = x.arr ∧ (∀ q', q' ≠ q → y.gen q' = x.gen q') ∧ y.patterns = x.patterns ∧ y.reseed = x.reseed ∧
      x.QueuesSame y ∧ x.CoreSame y ∧ x.MemorySame y ∧ y.skimGen = x.skimGen ∧ y.skimReseed = x.skimReseed ∧
      x.PowerSame y ∧ x.RegsSame y (Reg.ladleScrEcc :: rennetEventRegs)) ∧
  (∀ (s : State) (t q : Nat) (l r : DrainJob) (x : Tile), x = s.tile t → s.clocked t = true → q < 3 →
    x.drainHead q = some l → x.drainHead (q + 1) = some r → l.wide = true → r.wide = true → cvRot l.cvt = 2 →
    r.cvt = l.cvt → l.col0 = 0 → r.col0 = 64 → l.nCols = 128 → r.nCols = 128 → r.seq = l.seq → r.row = l.row →
    r.tCount = l.tCount → l.tCount ≠ 0 → l.owes x = false → r.owes x = false →
    x.banksFree s.cyc 2 (l.spans ++ r.spans) = true →
    ∀ c, c = Instr.drainRow t q ∨ c = Instr.drainRow t (q + 1) →
    ∃ y, exec c s = .next (s.setTile t y) ∧
      (l.row + 1 < l.tCount → y.drainHead q = some { l with row := l.row + 1 } ∧
        y.drainHead (q + 1) = some { r with row := r.row + 1 }) ∧
      (∀ a, (∀ z ∈ l.spans ++ r.spans, a < z.1 ∨ z.1 + z.2 ≤ a) →
        tabGet byteD y.scratch a = tabGet byteD x.scratch a) ∧
      y.acc = x.acc ∧ y.passes = x.passes ∧ y.targets = x.targets ∧ y.patterns = x.patterns ∧ y.arr = x.arr ∧
      x.QueuesSame y ∧ x.CoreSame y ∧ x.MemorySame y ∧ y.skimGen = x.skimGen ∧ y.skimReseed = x.skimReseed ∧
      x.RegsSame y (Reg.ladleScrEcc :: rennetEventRegs))

/-- SEED_EXPANSION and SEED_EXPANSION_DONE (R75, R76). The write of slot n's high half sets BUSY[n], clears FAIL[n] and
fixes the seed; the expansion's end stores the seed's sign pattern, clears BUSY[n], and sets FAIL[n] exactly when the
parity check failed. Other slots, and everything else, stay. SR_SEED_WRITE and SR_RESEED_TAKE (R80, R193). The write
of the rounding seed S gives each quarter without a drain in progress (and, for quarter 0, without a Churn job) the
generator S + (q + 1) × 0x9E37_79B9_7F4A_7C15 modulo 2^64, that constant where the sum is zero; a quarter with one
owes it and takes it in SR_RESEED_TAKE once the drain has ended. -/
def Obligations.SeedsReachTheRennet : Prop :=
  ((∀ (s : State) (n t k : Nat) (hi : Word) (x : Tile), x = s.tile t → s.hostUp = true → s.ownsTile n t = true → k < 16 →
    ∃ y, exec (.seedExpansion (.vf n) t k hi) s = .next (s.setTile t y) ∧
      y.reg (Reg.rennetSeedHi + 8 * k) = hi ∧ y.f Reg.rennetSeedBusy k k = 1 ∧
      y.f Reg.rennetSeedBusy (16 + k) (16 + k) = 0 ∧
      tabGet expandD y.expanding k = some (BitVec.ofNat 64 ((x.reg (Reg.rennetSeedLo + 8 * k)).toNat + 2 ^ 32 * hi.toNat)) ∧
      (∀ b, b < 32 → b ≠ k → b ≠ 16 + k → y.f Reg.rennetSeedBusy b b = x.f Reg.rennetSeedBusy b b) ∧
      y.patterns = x.patterns ∧ y.gens = x.gens ∧ x.MatrixSame y ∧ x.QueuesSame y ∧ x.CoreSame y ∧ x.ScratchSame y ∧
      x.RegsSame y [Reg.rennetSeedHi + 8 * k, Reg.rennetSeedBusy]) ∧
  (∀ (s : State) (t k : Nat) (seed : DWord) (how : SeedEnd) (x : Tile), x = s.tile t → s.clocked t = true → k < 16 →
    tabGet expandD x.expanding k = some seed →
    ∃ y, exec (.seedExpansionDone t k how) s = .next (s.setTile t y) ∧
      tabGet patternD y.patterns k = signPattern seed ∧ (∀ k', k' ≠ k → tabGet patternD y.patterns k' = tabGet patternD x.patterns k') ∧
      tabGet expandD y.expanding k = none ∧ y.f Reg.rennetSeedBusy k k = 0 ∧
      (how = .failed → y.f Reg.rennetSeedBusy (16 + k) (16 + k) = 1) ∧
      (how ≠ .failed → y.f Reg.rennetSeedBusy (16 + k) (16 + k) = x.f Reg.rennetSeedBusy (16 + k) (16 + k)) ∧
      y.gens = x.gens ∧ x.MatrixSame y ∧ x.QueuesSame y ∧ x.CoreSame y ∧ x.ScratchSame y ∧
      x.RegsSame y [Reg.rennetSeedBusy])) ∧
  ((∀ (s : State) (n t : Nat) (hi : Word) (x : Tile), x = s.tile t → s.hostUp = true → s.ownsTile n t = true →
    ∃ y, exec (.srSeedWrite (.vf n) t hi) s = .next (s.setTile t y) ∧ y.reg Reg.rennetSrSeedHi = hi ∧
      (∀ q, q < 4 → ((x.drainHead q).isSome || (q == 0 && x.churn.isSome)) = false →
        y.gen q = (let v := BitVec.ofNat 64 ((x.reg Reg.rennetSrSeedLo).toNat + 2 ^ 32 * hi.toNat) +
          0x9E3779B97F4A7C15 * BitVec.ofNat 64 (q + 1); if v = 0 then 0x9E3779B97F4A7C15 else v) ∧ bit y.reseed q = false) ∧
      (∀ q, q < 4 → ((x.drainHead q).isSome || (q == 0 && x.churn.isSome)) = true →
        y.gen q = x.gen q ∧ bit y.reseed q = true) ∧
      y.acc = x.acc ∧ y.passes = x.passes ∧ y.patterns = x.patterns ∧ x.QueuesSame y ∧ x.CoreSame y ∧ x.ScratchSame y ∧
      x.RegsSame y [Reg.rennetSrSeedHi]) ∧
  (∀ (s : State) (t q : Nat) (x : Tile), x = s.tile t → s.clocked t = true → q < 4 → bit x.reseed q = true →
    x.drainBusy q = false → (q = 0 → x.churn = none) →
    ∃ y, exec (.srReseedTake t q) s = .next (s.setTile t y) ∧
      y.gen q = genSeed (x.reg64 Reg.rennetSrSeedLo) (q + 1) ∧ (∀ q', q' ≠ q → y.gen q' = x.gen q') ∧
      bit y.reseed q = false ∧ y = { x with gens := y.gens, reseed := y.reseed }))

/-- RENNET_PART_CLEAR, CHURN_PART_CLEAR and SKIM_PART_CLEAR (R84, R85, R203, R226). A write through a partition's register
clears the flags written with one in every tile of the partition, and clears a tile's first-event record when its
flags return to zero; the tile's other registers and units, and every other tile and unit, stay. STEP_STATS_CLEAR and
DEMAND_FORGET (R209, R379). Bit 0 of CAP_STEP_CTL restores every phase's shortest and longest visit and forgets the
history, where no step has ended in the same mesh cycle; bit 31 of CAP_PART_PHASE gives the five learned demands their
reset values. Neither changes any other partition, tile or unit; a write without the bit changes nothing. -/
def Obligations.PartitionWideClears : Prop :=
  (∀ (s : State) (n : Nat) (val : Word), s.hostUp = true → n < 16 →
    ∀ c o first mask hi lo, (c, o, first, mask, hi, lo) ∈
      [(Instr.rennetPartClear (.vf n) n val, Reg.rennetFlags, Reg.rennetFirst, fld val 8 0, 31, 0),
       (Instr.churnPartClear (.vf n) n val, Reg.churnStatus, Reg.churnFirst, 16 * fld val 2 0, 6, 4),
       (Instr.skimPartClear (.vf n) n val, Reg.skimStatus, Reg.skimFirst, 16 * fld val 1 0, 5, 4)] →
    ∃ ts, exec c s = .next { s with tiles := ts } ∧
      (∀ t, s.ownsTile n t = false → tabGet tileD ts t = s.tile t) ∧
      (∀ t, s.ownsTile n t = true → ∃ rg, tabGet tileD ts t = { s.tile t with regs := rg } ∧
        tabGet tileRegD rg o = (s.tile t).reg o &&& ~~~(BitVec.ofNat 32 mask) ∧
        tabGet tileRegD rg first = (if fld (tabGet tileRegD rg o) hi lo = 0 then 0 else (s.tile t).reg first) ∧
        ∀ o', o' ≠ o → o' ≠ first → tabGet tileRegD rg o' = (s.tile t).reg o')) ∧
  ((∀ (s : State) (n : Nat) (val : Word), s.hostUp = true → n < 16 → bit val 0 = true → (s.sys n).ph.ended.1 ≠ s.cyc →
    ∃ p y, exec (.stepStatsClear (.vf n) n val) s = .next ((s.setPart n p).setSys n y) ∧
      (∀ ph, ph < 5 → p.reg (Reg.capPhaseMin + 16 * ph) = 0xFFFFFFFF ∧ p.reg (Reg.capPhaseMax + 16 * ph) = 0) ∧
      y = { s.sys n with ph := { (s.sys n).ph with hist := [] } } ∧ p = { s.part n with regs := p.regs }) ∧
  (∀ (s : State) (n : Nat) (val : Word), s.hostUp = true → n < 16 → bit val 31 = true →
    ∃ p, exec (.demandForget (.vf n) n val) s = .next (s.setPart n p) ∧
      (∀ ph, ph < 5 → p.reg (Reg.capDemand + 4 * ph) = regReset partRegs (Reg.capDemand + 4 * ph)) ∧
      p = { s.part n with regs := p.regs } ∧
      ∀ o, (∀ ph, ph < 5 → o ≠ Reg.capDemand + 4 * ph) → p.reg o = (s.part n).reg o) ∧
  (∀ (s : State) (n : Nat) (val : Word), bit val 0 = false → exec (.stepStatsClear (.vf n) n val) s = .next s) ∧
  (∀ (s : State) (n : Nat) (val : Word), bit val 31 = false → exec (.demandForget (.vf n) n val) s = .next s))

/-- DRAIN_PUSH and QUEUE_PUSH (R98, R106). A push appends to its queue: the pair of the pushing path's BASE and the
written PITCH, or the seven held words of the path and the written one; of pushes of both paths in one mesh cycle the local
port's goes before those of BAR0. A full queue takes nothing: through BAR0 the push sets the queue's OVERRUN bit, and
through the local port it stalls the scalar core with that write. -/
def Obligations.PushesAppendOrOverrun : Prop :=
  (∀ (s : State) (n t g : Nat) (val : Word) (x : Tile) (q : List (Nat × Nat)), x = s.tile t → s.hostUp = true →
    s.ownsTile n t = true → g < 4 → q = tabGet targetsD x.targets g →
    (q.length < 4 → ∃ y nw, exec (.drainPush (.vf n) t g val) s = .next (s.setTile t { x with targets := y, now := nw }) ∧
      tabGet targetsD y g = q ++ [(x.f (Reg.rennetDrainBase + 8 * g) 19 0, fld val 19 0)] ∧
      ∀ g', g' ≠ g → tabGet targetsD y g' = tabGet targetsD x.targets g') ∧
    (4 ≤ q.length →
      exec (.drainPush (.vf n) t g val) s = .next (s.setTile t (x.setF Reg.rennetDrainLevel (12 + g) (12 + g) 1)))) ∧
  (∀ (s : State) (t g : Nat) (val : Word) (x : Tile) (q : List (Nat × Nat)), x = s.tile t → s.clocked t = true → g < 4 →
    q = tabGet targetsD x.targets g →
    (∀ b, b = tabGet natD x.now.bar0 (8 + g) → b ≠ 0 → ∃ y, exec (.drainPush (.core t) t g val) s = .next (s.setTile t y) ∧
      tabGet targetsD y.targets g = (q.take (q.length - b) ++
        (fld (tabGet wordD x.drainBaseLocal g) 19 0, fld val 19 0) :: q.drop (q.length - b)).take 4) ∧
    (tabGet natD x.now.bar0 (8 + g) = 0 → q.length < 4 → ∃ y, exec (.drainPush (.core t) t g val) s = .next (s.setTile t { x with targets := y }) ∧
      tabGet targetsD y g = q ++ [(fld (tabGet wordD x.drainBaseLocal g) 19 0, fld val 19 0)] ∧
      ∀ g', g' ≠ g → tabGet targetsD y g' = tabGet targetsD x.targets g') ∧
    (tabGet natD x.now.bar0 (8 + g) = 0 → 4 ≤ q.length → ∃ y, exec (.drainPush (.core t) t g val) s = .next (s.setTile t { x with stall := y }) ∧
      y = some (.store (BitVec.ofNat 32 (0xF0000000 + Reg.rennetDrainPush + 8 * g)) 4 val))) ∧
  (∀ (s : State) (n t k e : Nat) (w7 : Word) (x : Tile), x = s.tile t → s.hostUp = true → s.ownsTile n t = true → k < 3 →
    e = queueEngine k →
    ((x.queue e).length < queueSize k → ∃ y nw, exec (.queuePush (.vf n) t k w7) s =
        .next (s.setTile t { x with queues := y, now := nw }) ∧
      tabGet queueD y e = x.queue e ++ [(List.range 7).map (fun w => tabGet wordD x.holdW (32 + k * 8 + w)) ++ [w7]] ∧
      ∀ e', e' ≠ e → tabGet queueD y e' = x.queue e') ∧
    (queueSize k ≤ (x.queue e).length →
      exec (.queuePush (.vf n) t k w7) s = .next (s.setTile t (x.setF Reg.ladleQlevel (24 + k) (24 + k) 1)))) ∧
  (∀ (s : State) (t k e : Nat) (w7 : Word) (x : Tile), x = s.tile t → s.clocked t = true → k < 3 → e = queueEngine k →
    (∀ b, b = tabGet natD x.now.bar0 e → b ≠ 0 → ∃ y, exec (.queuePush (.core t) t k w7) s = .next (s.setTile t y) ∧
      y.queue e = ((x.queue e).take ((x.queue e).length - b) ++
        ((List.range 7).map (fun w => tabGet wordD x.holdW (k * 8 + w)) ++ [w7]) ::
          (x.queue e).drop ((x.queue e).length - b)).take (queueSize k)) ∧
    (tabGet natD x.now.bar0 e = 0 → (x.queue e).length < queueSize k → ∃ y, exec (.queuePush (.core t) t k w7) s = .next (s.setTile t { x with queues := y }) ∧
      tabGet queueD y e = x.queue e ++ [(List.range 7).map (fun w => tabGet wordD x.holdW (k * 8 + w)) ++ [w7]] ∧
      ∀ e', e' ≠ e → tabGet queueD y e' = x.queue e') ∧
    (tabGet natD x.now.bar0 e = 0 → queueSize k ≤ (x.queue e).length → ∃ y, exec (.queuePush (.core t) t k w7) s = .next (s.setTile t { x with stall := y }) ∧
      y = some (.store (pushAddr k) 4 w7)))

/-- Q_OPCODE_REJECT, SYNC_TIMEOUT and FAULT_RECORD_CLEAR (R105, R109, R110, R117, R130). A reserved opcode at the head of
a queue is taken and stops the engine with CZ_ERR_Q_OPCODE (0x0201); a SEM_WAIT still unsatisfied, or a BAR_SYNC
that has not arrived, after more than its limit of 1,024-cycle units ends and stops its engine with CZ_ERR_SYNC_TIMEOUT
(0x0243). Ittan Service's write of one to VALID, no fault arising in the same mesh cycle, clears VALID and every STOPPED
bit, so the engines go on; a write by the host clears nothing. -/
def Obligations.QueueFaultsAndTheirClearing : Prop :=
  (∀ (s : State) (t e : Nat) (en : QEntry) (l : List QEntry) (x : Tile), x = s.tile t → s.clocked t = true →
    e ∈ [0, 1, 3] → x.runs e = true → tabGet waitD x.waits e = none → x.issuing = none → x.churn = none →
    x.queue e = en :: l → accepts e (opc en) = false → x.f Reg.ladleFault 31 31 = 0 →
    ∃ u, exec (.qOpcodeReject t e) s = .next u ∧ s.TileOnly u t ∧ (u.tile t).queue e = l ∧
      (u.tile t).f Reg.ladleFault 15 0 = 0x201 ∧ (u.tile t).f Reg.ladleFault 18 16 = e ∧
      (u.tile t).f Reg.ladleFault 31 31 = 1 ∧ (u.tile t).f Reg.ladleFault (20 + e) (20 + e) = 1 ∧
      x.MatrixSame (u.tile t) ∧ x.ScratchSame (u.tile t) ∧ x.CoreSame (u.tile t)) ∧
  (∀ (s : State) (t e : Nat) (w : Wait) (x : Tile), x = s.tile t → s.clocked t = true → e < 4 →
    tabGet waitD x.waits e = some w →
    (fld w.w0 7 0 = 0x50 ∧ x.sem (fld w.w0 17 8) < fld w.w0 25 18) ∨ (fld w.w0 7 0 = 0x52 ∧ w.arrived = false) → w.limit ≠ 0 →
    w.limit * 1024 < cycDiff s.cyc w.start → x.stopped e = false → x.f Reg.ladleFault 31 31 = 0 →
    ∃ u, exec (.syncTimeout t e) s = .next u ∧ s.TileOnly u t ∧ tabGet waitD (u.tile t).waits e = none ∧
      (u.tile t).f Reg.ladleFault 15 0 = 0x243 ∧ (u.tile t).f Reg.ladleFault 18 16 = e ∧
      (u.tile t).f Reg.ladleFault 31 31 = 1 ∧ (u.tile t).f Reg.ladleFault (20 + e) (20 + e) = 1 ∧
      (u.tile t).queues = x.queues ∧ x.ScratchSame (u.tile t) ∧
      ∀ k, (u.tile t).sem k = x.sem k) ∧
  (∀ (s : State) (n t : Nat) (val : Word) (x : Tile), x = s.tile t → s.rootUp = true → s.fw.down = false →
    (s.svcCore n).isSome = true → s.ownsTile n t = true → x.now.fault = false → x.f Reg.ladleFault 31 31 = 1 → bit val 31 = true → x.churn = none →
    ∃ y k, exec (.faultRecordClear (.service n) t val) s = .next { s.setTile t y with freeCount := k } ∧
      y.f Reg.ladleFault 31 31 = 0 ∧ (∀ e, e < 4 → y.stopped e = false) ∧ y = { x with regs := y.regs } ∧
      x.RegsSame y [Reg.ladleFault]) ∧
  (∀ (s : State) (n t : Nat) (val : Word), s.hostUp = true → s.ownsTile n t = true →
    exec (.faultRecordClear (.vf n) t val) s = .next s)

/-- A synchronisation command at the head of a queue (R107, R112, R114, R115). One that fails its checks is taken and
stops its engine with the code of the lowest check that fails; one that passes is taken, its two words, the wait limit
and the mesh cycle are held, and the command then acts at once, as it does from a state that holds it already. -/
def Obligations.SynchronisationCommandsStart : Prop :=
  ∀ (s : State) (t e op : Nat) (c : Instr) (en : QEntry) (l : List QEntry) (x : Tile), x = s.tile t →
    s.clocked t = true → e ∈ [0, 1, 3] → x.mayStartSync e s.cyc = true → x.queue e = en :: l →
    (c, op) ∈ [(Instr.semWait t e, 0x50), (Instr.semSignal t e, 0x51), (Instr.barSync t e, 0x52),
      (Instr.barArrive t e, 0x53), (Instr.fence t e, 0x54)] → opc en = op →
    (s.syncCheck t (ew en 0) (ew en 1) (en.drop 2) = 0 → ∃ y w, exec c s = exec c (s.setTile t y) ∧
      y = { x with regs := y.regs, queues := y.queues, waits := y.waits, arr := y.arr } ∧ (e ≠ 0 → y.arr = x.arr) ∧ x.RegsSame y [cmdCntReg e] ∧
      y.queue e = l ∧ (∀ e', e' ≠ e → y.queue e' = x.queue e') ∧
      tabGet waitD y.waits e = some w ∧ (∀ e', e' ≠ e → tabGet waitD y.waits e' = tabGet waitD x.waits e') ∧
      w.w0 = ew en 0 ∧ w.w1 = ew en 1 ∧ w.start = s.cyc ∧ w.limit = (x.reg Reg.ladleWaitLimit).toNat ∧ w.arrived = false) ∧
    (s.syncCheck t (ew en 0) (ew en 1) (en.drop 2) ≠ 0 → ∃ u, exec c s = .next u ∧ s.TileOnly u t ∧
      (u.tile t).queue e = l ∧ (u.tile t).waits = x.waits ∧ (u.tile t).f Reg.ladleFault 31 31 = 1 ∧
      (u.tile t).f Reg.ladleFault (20 + e) (20 + e) = 1 ∧
      (x.f Reg.ladleFault 31 31 = 0 → (u.tile t).f Reg.ladleFault 15 0 =
        s.syncCheck t (ew en 0) (ew en 1) (en.drop 2) % 65536 ∧ (u.tile t).f Reg.ladleFault 18 16 = e))

/-- SEM_WAIT, SEM_SIGNAL and SEM_SIGNAL_ARRIVE (R112, R113, R114). A held wait takes its N and ends once the value is at
least N, and changes nothing before; a held local signal adds N once everything ahead is complete, and a remote one
leaves for its tile, which it reaches 8 + hops cycles later; the signals of one cycle to one semaphore are summed. A sum above 0xFFFF leaves 0xFFFF and records CZ_ERR_SEM_OVERFLOW (0x0242) with ENGINE = 4, the first of its mesh cycle
at that semaphore. -/
def Obligations.SemaphoresWaitAndSignal : Prop :=
  (∀ (s : State) (t e k n : Nat) (w : Wait) (x : Tile), x = s.tile t → s.clocked t = true → e < 4 →
    tabGet waitD x.waits e = some w → fld w.w0 7 0 = 0x50 → k = fld w.w0 17 8 → n = fld w.w0 25 18 → x.stopped e = false →
    (n ≤ x.sem k → ∃ y, exec (.semWait t e) s = .next (s.setTile t y) ∧ y.sem k = x.sem k - n ∧
      tabGet waitD y.waits e = none ∧ (∀ e', e' ≠ e → tabGet waitD y.waits e' = tabGet waitD x.waits e') ∧
      x.RegsSame y [Reg.ladleSem + 4 * k] ∧ y = { x with regs := y.regs, waits := y.waits, stall := y.stall }) ∧
    (x.sem k < n → exec (.semWait t e) s = .next s)) ∧
  (∀ (s : State) (t e k n : Nat) (w : Wait) (x : Tile), x = s.tile t → s.clocked t = true → e < 4 →
    tabGet waitD x.waits e = some w → fld w.w0 7 0 = 0x51 → k = fld w.w0 17 8 → n = fld w.w0 25 18 → x.stopped e = false →
    (x.aheadDone e = false → exec (.semSignal t e) s = .next s) ∧
    (x.aheadDone e = true → bit w.w0 26 = false → x.sem k + n ≤ 0xFFFF →
      ∃ y, exec (.semSignal t e) s = .next (s.setTile t y) ∧ y.sem k = x.sem k + n ∧ tabGet waitD y.waits e = none ∧
        x.RegsSame y [Reg.ladleSem + 4 * k] ∧ y = { x with regs := y.regs, waits := y.waits, stall := y.stall }) ∧
    (x.aheadDone e = true → bit w.w0 26 = false → 0xFFFF < x.sem k + n → k ∉ x.now.sems → x.f Reg.ladleFault 31 31 = 0 →
      ∃ u, exec (.semSignal t e) s = .next u ∧ s.TileOnly u t ∧ (u.tile t).sem k = 0xFFFF ∧
        (u.tile t).f Reg.ladleFault 15 0 = 0x242 ∧ (u.tile t).f Reg.ladleFault 18 16 = 4 ∧
        (u.tile t).f Reg.ladleFault 31 31 = 1 ∧ ∀ e', e' < 4 → (u.tile t).stopped e' = x.stopped e') ∧
    (x.aheadDone e = true → bit w.w0 26 = true → ∃ y, exec (.semSignal t e) s =
        .next { s.setTile t y with signals := s.signals ++ [⟨t, e, fld w.w1 10 0, k, n, s.cyc⟩] } ∧
      tabGet waitD y.waits e = none ∧ y = { x with waits := y.waits, stall := y.stall })) ∧
  (∀ (s : State) (t k count sum : Nat) (due : List Signal) (x : Tile), x = s.tile t → t < tileCount → k < 1024 →
    due = s.signals.filter (fun g => g.tile == t && g.sem == k && g.arrived s.cyc) → due ≠ [] → due.length ≤ count →
    sum = (due.map (·.n)).sum → x.sem k + sum ≤ 0xFFFF →
    ∃ y, exec (.semSignalArrive t k count) s = .next { s.setTile t y with
        signals := s.signals.filter (fun g => !(g.tile == t && g.sem == k && g.arrived s.cyc)) } ∧ y.sem k = x.sem k + sum ∧
      x.RegsSame y [Reg.ladleSem + 4 * k] ∧ y = { x with regs := y.regs })

/-- BAR_SYNC, BAR_ARRIVE and FENCE (R112, R115, R172). An arrival counts toward the current generation: the one that
brings ARRIVED to COUNT clears ARRIVED and advances GEN, and any other adds one. BAR_ARRIVE ends with its arrival,
BAR_SYNC when the generation that it counted toward is released. A fence ends once what its scope lists has happened:
everything ahead complete; for CHIP and SYSTEM no remote signal of its engine on its way; for SYSTEM no write from the
host or fabric, accepted before it started, still to land. -/
def Obligations.BarriersAndFences : Prop :=
  (∀ (s : State) (t e n b a c g op st : Nat) (i : Instr) (w : Wait) (x : Tile) (q : Part), x = s.tile t → s.clocked t = true →
    e < 4 → tabGet waitD x.waits e = some w → (i, op) ∈ [(Instr.barSync t e, 0x52), (Instr.barArrive t e, 0x53)] →
    fld w.w0 7 0 = op → w.arrived = false → x.stopped e = false → x.aheadDone e = true → s.tileOwner t = some n →
    q = s.part n → b = fld w.w0 13 8 → st = Reg.collBarState + 8 * b → a = q.f st 12 0 → c = q.barCount b → c ≠ 0 →
    g = tabGet natD q.barGen b →
    ∃ y p, exec i s = .next ((s.setPart n p).setTile t y) ∧ y = { x with waits := y.waits, stall := y.stall } ∧
      p = { q with regs := p.regs, barGen := p.barGen } ∧ (∀ o, o ≠ st → p.reg o = q.reg o) ∧
      (∀ b', b' ≠ b → tabGet natD p.barGen b' = tabGet natD q.barGen b') ∧
      (c ≤ a + 1 → p.f st 12 0 = 0 ∧ p.f st 23 16 = (q.f st 23 16 + 1) % 256 ∧ tabGet natD p.barGen b = g + 1 ∧
        tabGet waitD y.waits e = none) ∧
      (a + 1 < c → p.f st 12 0 = a + 1 ∧ p.f st 23 16 = q.f st 23 16 ∧ tabGet natD p.barGen b = g ∧
        tabGet waitD y.waits e = if op = 0x53 then none else some { w with arrived := true, gen := g })) ∧
  (∀ (s : State) (t e n : Nat) (w : Wait) (x : Tile), x = s.tile t → s.clocked t = true → e < 4 →
    tabGet waitD x.waits e = some w → fld w.w0 7 0 = 0x52 → w.arrived = true → x.stopped e = false → s.tileOwner t = some n →
    (w.gen < tabGet natD (s.part n).barGen (fld w.w0 13 8) → ∃ y, exec (.barSync t e) s = .next (s.setTile t y) ∧
      tabGet waitD y.waits e = none ∧ y = { x with waits := y.waits, stall := y.stall }) ∧
    (¬ w.gen < tabGet natD (s.part n).barGen (fld w.w0 13 8) → exec (.barSync t e) s = .next s)) ∧
  (∀ (s : State) (t e : Nat) (w : Wait) (x : Tile), x = s.tile t → s.clocked t = true → e < 4 →
    tabGet waitD x.waits e = some w → fld w.w0 7 0 = 0x54 → x.stopped e = false →
    (x.aheadDone e = true → (1 ≤ fld w.w0 9 8 → ∀ g ∈ s.signals, g.src ≠ t ∨ g.engine ≠ e) →
      (2 ≤ fld w.w0 9 8 → (∀ g ∈ s.ingressQ, w.ingress ≤ g.id) ∧ ∀ g ∈ s.arrivals, w.ingress ≤ g.id ∨ g.pkt.op ≠ 2) →
      ∃ y, exec (.fence t e) s = .next (s.setTile t y) ∧ tabGet waitD y.waits e = none ∧
        y = { x with waits := y.waits, stall := y.stall }) ∧
    (x.aheadDone e = false → exec (.fence t e) s = .next s) ∧
    (1 ≤ fld w.w0 9 8 → (∃ g ∈ s.signals, g.src = t ∧ g.engine = e) → exec (.fence t e) s = .next s))

/-- ECALL, EBREAK, SVC_REQ_CLEAR and QCTL_STOP_WRITE (R111, R132). Its scratch banks
free for it, ECALL with a0 = 0 sets SVC_REQ and stalls the core
behind the instruction; EBREAK sets the core's STOP bit, raises no fault and stalls nothing; a write to LADLE_QCTL
stores the four STOP bits, and a one in bit 16 clears SVC_REQ and releases the stalled core. -/
def Obligations.ServiceCallsAndStops : Prop :=
  (∀ (s : State) (t : Nat) (x : Tile), x = s.tile t → s.clocked t = true → x.scReady = true → s.launchOf t = none →
    x.pc.toNat + 4 ≤ scratchSize → x.pc.toNat % 4 = 0 → (x.scrReads [(x.pc.toNat, 4)]).2 = false →
    x.inScr = [] → x.banksFree s.cyc 7 x.scReads = true →
    (BitVec.ofNat 32 (x.rd32 x.pc.toNat) = 0x00000073 → tabGet wordD x.xr 10 = 0 →
      ∃ y, exec (.ecall t) s = .next (s.setTile t y) ∧ y.f Reg.ladleQctl 16 16 = 1 ∧ y.stall = some .ecall ∧
        y.pc = x.pc + 4 ∧ x.RegsSame y [Reg.ladleQctl, Reg.ladleScrEcc] ∧
        y = { x with regs := y.regs, pc := y.pc, stall := y.stall, now := y.now }) ∧
    (BitVec.ofNat 32 (x.rd32 x.pc.toNat) = 0x00100073 →
      ∃ y, exec (.ebreak t) s = .next (s.setTile t y) ∧ y.f Reg.ladleQctl 2 2 = 1 ∧ y.pc = x.pc + 4 ∧
        x.RegsSame y [Reg.ladleQctl, Reg.ladleScrEcc] ∧ y = { x with regs := y.regs, pc := y.pc, now := y.now })) ∧
  (∀ (s : State) (n t : Nat) (val : Word) (x : Tile) (c : Instr), x = s.tile t → s.hostUp = true → s.ownsTile n t = true →
    x.fresh = false → c ∈ [Instr.svcReqClear (.vf n) t val, Instr.qctlStopWrite (.vf n) t val] →
    ∃ y, exec c s = .next (s.setTile t y) ∧ y.f Reg.ladleQctl 3 0 = fld val 3 0 ∧
      y.f Reg.ladleQctl 16 16 = (if bit val 16 then 0 else x.f Reg.ladleQctl 16 16) ∧
      y.stall = (if bit val 16 && x.stall == some .ecall then none else x.stall) ∧
      x.RegsSame y [Reg.ladleQctl] ∧ y = { x with regs := y.regs, stall := y.stall })

/-- SCALAR_INSTRUCTION (R45, R109, R111, R166; the encodings are RISC-V's: log 43). A ready core, with the banks of what it
reads free for it, executes the instruction at its pc: a computed result reaches rd (x0 discards it), a jump or taken branch goes to an aligned target, a load takes
scratch as its store buffer would leave it, a store enters the buffer, and an illegal instruction stops the core with
CZ_ERR_SC_TRAP (0x0251). -/
def Obligations.ScalarInstructionsExecute : Prop :=
  ∀ (s : State) (t : Nat) (i : Word) (x : Tile), x = s.tile t → s.clocked t = true → x.scReady = true →
    x.pc.toNat + 4 ≤ scratchSize → x.pc.toNat % 4 = 0 → (x.scrReads [(x.pc.toNat, 4)]).2 = false →
    i = BitVec.ofNat 32 (x.rd32 x.pc.toNat) →
    x.inScr = [] → x.banksFree s.cyc 7 x.scReads = true →
    (∀ rd v, scDecode x x.pc i = .alu rd v → ∃ y, exec (.scalarInstruction t) s = .next (s.setTile t y) ∧ y.pc = x.pc + 4 ∧
      (∀ r, r ≠ 0 → y.x r = if r = rd then v else x.x r) ∧ x.RegsSame y [Reg.ladleScrEcc] ∧
      y = { x with regs := y.regs, xr := y.xr, pc := y.pc, now := y.now }) ∧
    (∀ rd target, scDecode x x.pc i = .jump rd target → target.toNat % 4 = 0 →
      ∃ y, exec (.scalarInstruction t) s = .next (s.setTile t y) ∧ y.pc = target ∧
        (∀ r, r ≠ 0 → y.x r = if r = rd then x.pc + 4 else x.x r) ∧ x.RegsSame y [Reg.ladleScrEcc] ∧
        y = { x with regs := y.regs, xr := y.xr, pc := y.pc, now := y.now }) ∧
    (∀ taken target, scDecode x x.pc i = .branch taken target → target.toNat % 4 = 0 →
      ∃ y, exec (.scalarInstruction t) s = .next (s.setTile t y) ∧ y.pc = (if taken then target else x.pc + 4) ∧
        x.RegsSame y [Reg.ladleScrEcc] ∧ y = { x with regs := y.regs, pc := y.pc, now := y.now }) ∧
    (∀ rd addr size signed, scDecode x x.pc i = .load rd addr size signed → addr.toNat + size ≤ scratchSize →
      addr.toNat % size = 0 → (x.scrReads [(addr.toNat, size)]).2 = false →
      ∃ y, exec (.scalarInstruction t) s = .next (s.setTile t y) ∧ y.pc = x.pc + 4 ∧
        (∀ r, r ≠ 0 → y.x r = if r = rd then (if signed then sext (8 * size) (x.sees addr.toNat size)
          else BitVec.ofNat 32 (x.sees addr.toNat size)) else x.x r) ∧ x.RegsSame y [Reg.ladleScrEcc] ∧
        y = { x with regs := y.regs, xr := y.xr, pc := y.pc, now := y.now }) ∧
    (∀ addr size val, scDecode x x.pc i = .store addr size val → addr.toNat + size ≤ scratchSize →
      addr.toNat % size = 0 → x.sbuf.length < 4 →
      ∃ y, exec (.scalarInstruction t) s = .next (s.setTile t y) ∧ y.pc = x.pc + 4 ∧
        y.sbuf = x.sbuf ++ [⟨addr.toNat, size, BitVec.ofNat 32 (val.toNat % 2 ^ (8 * size))⟩] ∧
        x.RegsSame y [Reg.ladleScrEcc] ∧ y = { x with regs := y.regs, pc := y.pc, sbuf := y.sbuf, now := y.now }) ∧
    (scDecode x x.pc i = .illegal → ∃ u, exec (.scalarInstruction t) s = .next u ∧ s.TileOnly u t ∧
      (u.tile t).f Reg.ladleFault 31 31 = 1 ∧ (u.tile t).stopped 2 = true ∧
      (x.f Reg.ladleFault 31 31 = 0 → (u.tile t).f Reg.ladleFault 15 0 = 0x251 ∧ (u.tile t).f Reg.ladleFault 18 16 = 2) ∧
      (u.tile t).xr = x.xr)

/-- VLOAD, VSTORE, VOP and VSUM (R45, R119, R120, R122). A vector command at the head of the queue that passes its checks, its
banks free for it, is taken and carries out its repetitions in order: z 0 is the tile with the command taken, z (r + 1) the tile after
repetition r. -/
def Obligations.VectorCommandsRepeat : Prop :=
  ∀ (s : State) (t op : Nat) (e : QEntry) (l : List QEntry) (x : Tile), x = s.tile t → s.clocked t = true →
    x.VecHead op e l → x.VecServed op e s.cyc → vCheck x e = 0 → (x.scrReads (vReads e)).2 = false →
    ∀ c, (c, op) ∈ [(Instr.vload t, 0x20), (Instr.vstore t, 0x21), (Instr.vop t, 0x22), (Instr.vsum t, 0x23)] →
    ∃ z : Nat → Tile, exec c s = .next (s.setTile t (z (vRep e))) ∧ (z 0).queue 1 = l ∧
      x.RegsSame (z 0) [Reg.ladleScrEcc, Reg.ladleCmdcntVec] ∧
      z 0 = { x with regs := (z 0).regs, queues := (z 0).queues, now := (z 0).now } ∧ ∀ r, r < vRep e →
      (op = 0x20 → z (r + 1) = { z r with regs := (z (r + 1)).regs, now := (z (r + 1)).now, vr := (z (r + 1)).vr } ∧
        (z r).RegsSame (z (r + 1)) rennetEventRegs ∧ ∀ v k, k < 64 → (z (r + 1)).lane v k =
          if v = vReg e 0 r then b32Of ((fmtOf (vFmt e)).decode (bit (ew e 4) 4)
            (packedGet (z r).rd8 (vAddr e + r * vStride e) (fmtOf (vFmt e)) k)) else (z r).lane v k) ∧
      (op = 0x21 → (z (r + 1)).vr = (z r).vr ∧
        (∀ a, a < vAddr e + r * vStride e ∨ vAddr e + r * vStride e + 256 ≤ a →
          tabGet byteD (z (r + 1)).scratch a = tabGet byteD (z r).scratch a) ∧
        (x.scrBad = [] → ∀ k b, k < 64 → b < 4 →
          (tabGet byteD (z (r + 1)).scratch (vAddr e + r * vStride e + 4 * k + b)).toNat =
            ((z r).lane (vReg e 1 r) k).toNat / 256 ^ b % 256) ∧
        z (r + 1) = { z r with regs := (z (r + 1)).regs, scratch := (z (r + 1)).scratch, scrBad := (z (r + 1)).scrBad, churn := (z (r + 1)).churn, skim := (z (r + 1)).skim }) ∧
      (op = 0x22 → z (r + 1) = { z r with vr := (z (r + 1)).vr } ∧ ∀ v k, k < 64 → (z (r + 1)).lane v k =
        if v = vReg e 0 r then vLane (vFunc e) ((z r).lane (vReg e 1 r) k) ((z r).lane (vReg e 2 r) k)
          ((z r).lane (vReg e 3 r) k) else (z r).lane v k) ∧
      (op = 0x23 → z (r + 1) = { z r with vr := (z (r + 1)).vr } ∧ ∀ v k, k < 64 → (z (r + 1)).lane v k =
        if v = vReg e 0 r then (if k = 0 then treeSum (if vFunc e = 0 then b32Add else vExtreme true)
          ((List.range 64).map ((z r).lane (vReg e 1 r))) else 0) else (z r).lane v k)

/-- VNARROW and the checks of vector commands (R78, R121, R122). Row r goes through the output stage of quarter QSEL: the
row's bytes are the packed codes that the stage gives for the lanes (rotated where ROT is not 0), its generator moves
on, and no byte outside the row and its scale codes changes. A vector command that fails its checks is taken, changes
no vector register and no byte, and stops the unit with the lowest code that fails. -/
def Obligations.VnarrowAndVectorChecks : Prop :=
  (∀ (s : State) (t : Nat) (e : QEntry) (l : List QEntry) (x : Tile), x = s.tile t → s.clocked t = true →
    x.VecHead 0x24 e l → x.VecServed 0x24 e s.cyc → vCheck x e = 0 → (x.scrReads (vReads e)).2 = false →
    ∃ z : Nat → Tile, exec (.vnarrow t) s = .next (s.setTile t (z (vRep e))) ∧ (z 0).queue 1 = l ∧
      z 0 = { x with regs := (z 0).regs, queues := (z 0).queues, now := (z 0).now } ∧ ∀ r, r < vRep e →
      ∀ sd xs o, sd = scaleAt (z r) (cvSdesc (vCvt e)) →
        xs = (List.range (vRegs e)).flatMap (fun i => ((z r).lanes ((ef e 0 21 17 + r * vRegs e + i * vStep e) % 32)).map b32Num) →
        o = narrowRow (fmtOf (cvOfmt (vCvt e))) (vCvt e) ((z r).gen (vQsel e)) (if cvRot (vCvt e) = 0 then xs else
          (rotRow (cvFlush (vCvt e)) (cvInv (vCvt e)) (tabGet patternD (z r).patterns (cvSeed (vCvt e)))
            (rotBlock (cvRot (vCvt e))) xs).map Prod.fst) →
        (z (r + 1)).gen (vQsel e) = o.gen ∧ (∀ q, q ≠ vQsel e → (z (r + 1)).gen q = (z r).gen q) ∧
        (x.scrBad = [] → cvOscale (vCvt e) = false → ∀ i, i < packedBytes (fmtOf (cvOfmt (vCvt e))) o.codes.length →
          (tabGet byteD (z (r + 1)).scratch (vAddr e + r * vStride e + i)).toNat =
            packCodes (fmtOf (cvOfmt (vCvt e))).bits o.codes / 256 ^ i % 256) ∧
        (x.scrBad = [] → cvOscale (vCvt e) = true → ∀ i, i < o.scales.length →
          tabGet byteD (z (r + 1)).scratch (sd.oscBase + r * sd.oscPitch + i) = BitVec.ofNat 8 (o.scales.getD i 0)) ∧
        (∀ a, (a < vAddr e + r * vStride e ∨ vAddr e + r * vStride e + packedBytes (fmtOf (cvOfmt (vCvt e))) o.codes.length ≤ a) →
          (cvOscale (vCvt e) = true → a < sd.oscBase + r * sd.oscPitch ∨ sd.oscBase + r * sd.oscPitch + o.scales.length ≤ a) →
          tabGet byteD (z (r + 1)).scratch a = tabGet byteD (z r).scratch a) ∧
        z (r + 1) = { z r with regs := (z (r + 1)).regs, gens := (z (r + 1)).gens, scratch := (z (r + 1)).scratch,
                               scrBad := (z (r + 1)).scrBad, now := (z (r + 1)).now, churn := (z (r + 1)).churn,
                               skim := (z (r + 1)).skim }) ∧
  (∀ (s : State) (t op : Nat) (e : QEntry) (l : List QEntry) (x : Tile), x = s.tile t → s.clocked t = true →
    x.VecHead op e l → x.inScr = [] → vCheck x e ≠ 0 →
    ∀ c, (c, op) ∈ [(Instr.vload t, 0x20), (Instr.vstore t, 0x21), (Instr.vop t, 0x22), (Instr.vsum t, 0x23),
      (Instr.vnarrow t, 0x24)] →
    ∃ u, exec c s = .next u ∧ s.TileOnly u t ∧ (u.tile t).queue 1 = l ∧ (u.tile t).f Reg.ladleFault 31 31 = 1 ∧
      (u.tile t).stopped 1 = true ∧ (x.f Reg.ladleFault 31 31 = 0 → (u.tile t).f Reg.ladleFault 15 0 = vCheck x e ∧
        (u.tile t).f Reg.ladleFault 18 16 = 1) ∧
      (u.tile t).vr = x.vr ∧ x.ScratchSame (u.tile t) ∧ x.MatrixSame (u.tile t))

/-- COPY, GATHER, SCATTER, ZERO and PAIL_INV (R123, R124, R125). The descriptor at the head of the Ladle queue, with the
previous one issued, is checked: one that passes is taken and starts at its first row with the ALLOC in force; one
that fails is taken, moves nothing, and stops the Ladle with the lowest code that fails. A zero count, DIR = 3 or a
set reserved bit is CZ_ERR_LADLE_DESC (0x0220) before every other check. -/
def Obligations.LadleDescriptorsStart : Prop :=
  ∀ (s : State) (t op : Nat) (c : Instr) (e : QEntry) (l : List QEntry) (x : Tile), x = s.tile t → s.clocked t = true →
    (c, op) ∈ [(Instr.copy t, 0x40), (Instr.gather t, 0x41), (Instr.scatter t, 0x42), (Instr.zero t, 0x43),
      (Instr.pailInv t, 0x44)] → x.runs 3 = true → x.issuing = none → tabGet waitD x.waits 3 = none →
    x.queue 3 = e :: l → opc e = op →
    (s.ladleCheck t e = 0 → ∃ y r, exec c s = .next (s.setTile t y) ∧ y.queue 3 = l ∧ y.issuing = some r ∧
      r.entry = e ∧ r.row = 0 ∧ r.off = 0 ∧ r.alloc = x.f Reg.pailCtl 1 0 ∧ r.fail = 0 ∧
      y.reg Reg.ladleCmdcntLd = x.reg Reg.ladleCmdcntLd + 1 ∧ r.seq = (y.reg Reg.ladleCmdcntLd).toNat ∧
      x.RegsSame y [Reg.ladleCmdcntLd] ∧ y = { x with regs := y.regs, queues := y.queues, issuing := y.issuing }) ∧
    (s.ladleCheck t e ≠ 0 → ∃ u, exec c s = .next u ∧ s.TileOnly u t ∧ (u.tile t).queue 3 = l ∧
      (u.tile t).issuing = none ∧ (u.tile t).txns = x.txns ∧ (u.tile t).f Reg.ladleFault 31 31 = 1 ∧
      (u.tile t).stopped 3 = true ∧ x.ScratchSame (u.tile t) ∧
      (x.f Reg.ladleFault 31 31 = 0 → (u.tile t).f Reg.ladleFault 15 0 = s.ladleCheck t e % 65536)) ∧
    (ldBytes e = 0 ∨ ldRows e = 0 ∨ ldDir e = 3 ∨ ef e 0 11 10 ≠ 0 → s.ladleCheck t e = 0x220)

/-- LADLE_TXN_ISSUE and FAB_TAG_TAKE (R45, R125, R153, R246). In a mesh cycle in which the Ladle has issued nothing, a slot
is free and the banks of the local bytes that it reads are free, the next transaction of a row runs to the next 64-byte boundary of its
far address or to the row's end, takes a slot with the next number, and the descriptor advances past its bytes. With no
collective under way, the transaction that has waited longest for the fabric takes a tag that no transaction holds. -/
def Obligations.LadleTransactionsGoOut : Prop :=
  (∀ (s : State) (t a n loc : Nat) (r : LadleRun) (x : Tile) (g : TxnTarget), x = s.tile t → t < tileCount →
    s.clocked t = true → s.maySend t = true → x.issuing = some r → r.fail = 0 → x.stopped 3 = false →
    ldIndexed r.entry = false → opc r.entry ≠ 0x44 → a = x.rowAddr r.entry r.row + r.off →
    n = min (64 - a % 64) (ldBytes r.entry - r.off) → loc = ldSaddr r.entry + r.row * ldSpitch r.entry + r.off →
    g = (if ldDir r.entry = 2 then .scratch (ldTile r.entry) a
      else if ldGlobal r.entry then s.globalTarget a else .scratch t a) → x.now.issued = false →
    s.issueWaits t (!(ldGlobal r.entry && ldDir r.entry == 0)) g = false →
    x.banksFree s.cyc 3 (if ldReadsLocal r.entry then [(loc, n)] else []) = true →
    (x.scrReads (if ldReadsLocal r.entry then [(loc, n)] else [])).2 = false →
    ∃ u, exec (.ladleTxnIssue t) s = .next u ∧ (u.tile t).issuing = r.advance n ∧ (u.tile t).txnNext = x.txnNext + 1 ∧
      (u.tile t).txns.map (fun y => (y.id, y.target, y.saddr, y.len, y.seq, y.write, y.issued)) =
        x.txns.map (fun y => (y.id, y.target, y.saddr, y.len, y.seq, y.write, y.issued)) ++
        [(x.txnNext, g, loc, n, r.seq, !(ldGlobal r.entry && ldDir r.entry == 0), s.time)] ∧
      (u.tile t).scratch = x.scratch ∧ (u.tile t).queues = x.queues ∧ ∀ t', t' ≠ t → (u.tile t').scratch = (s.tile t').scratch) ∧
  (∀ (s : State) (t id : Nat) (l : List (Nat × Nat)) (y : Txn), s.meshUp = true → s.tagQ = (t, id) :: l →
    s.allCtxs = [] → s.tags.length < 20480 → s.ladleTags < 20480 - s.f Reg.fabTagCfg 14 0 →
    (s.tile t).txns.find? (fun y => y.id == id) = some y →
    ∃ tag, tag < 20480 ∧ (∀ z ∈ s.tags, z.1 ≠ tag) ∧
      (let u := ({ s with tagQ := l, tags := s.tags ++ [(tag, .ladle t id)], freeCount := s.freeCount + 1 } : State).noteTags
       exec .fabTagTake s = .next ((u.modTile t (fun x => x.modTxn id (fun z => { z with tag := some tag, phase := .sent }))).sendPacket
        (u.requestPacket t y tag))))

/-- LADLE_TXN_COMPLETE and LADLE_FABRIC_TIMEOUT (R45, R126, R128, R162, R177, R179, R246). A completed read, its
banks free, puts its bytes into the destination, a completed write to the own scratch puts them there, and the slot is
free; a bank lost leaves all but the count of losses; a write of another tile's Ladle that waits enters the scratch when
its banks are free, and is then acknowledged; a read with an uncorrectable
sector records CZ_ERR_LADLE_POISON (0x0225) and nothing more of its descriptor issues. A transaction to another chip
not acknowledged 50 µs after its issue, stops of the mesh clock not counted, gives up its slot and its tag, writes nothing, and records CZ_ERR_LADLE_FABRIC
(0x0226). -/
def Obligations.LadleTransactionsEnd : Prop :=
  (∀ (s : State) (t k : Nat) (y : Txn) (x : Tile), x = s.tile t → t < tileCount → s.clocked t = true →
    x.txns[k]? = some y → y.phase = .back → y.err = 0 → y.bad = [] → (∀ r, x.issuing = some r → r.fail = 0) →
    (y.write = false → (∀ v b, y.target ≠ .scratch v b) → x.banksFree s.cyc 3 [(y.saddr, y.len)] = true →
      ∃ nw tn, exec (.ladleTxnComplete t k) s = .next (s.setTile t { x.wrBytes y.saddr (y.data.take y.len) with
        txns := listDrop1 x.txns k, now := nw, turn := tn })) ∧
    (y.write = false → (∀ v b, y.target ≠ .scratch v b) → x.banksFree s.cyc 3 [(y.saddr, y.len)] = false →
      ∃ nw, exec (.ladleTxnComplete t k) s = .next (s.setTile t { x with now := nw })) ∧
    (y.write = true → (∀ b, y.target ≠ .scratch t b) →
      exec (.ladleTxnComplete t k) s = .next (s.setTile t { x with txns := listDrop1 x.txns k })) ∧
    (∀ b, y.write = true → y.target = .scratch t b → x.banksFree s.cyc 3 [(b, y.len)] = true →
      ∃ nw tn, exec (.ladleTxnComplete t k) s = .next (s.setTile t { x.wrBytes b y.data with
        txns := listDrop1 x.txns k, now := nw, turn := tn }))) ∧
  (∀ (x : Tile) (cyc : Nat) (w : ScrIn) (l : List ScrIn), x.inScr = w :: l →
    x.banksFree cyc 4 [(w.addr, w.bytes.length)] = true → ∃ nw tn, x.takeIn cyc = { x.wrBytes w.addr w.bytes with
      inScr := l, scrAcks := x.scrAcks ++ [(w.src, w.txn)], now := nw, turn := tn }) ∧
  (∀ (s : State) (t k : Nat) (y : Txn) (x : Tile), x = s.tile t → t < tileCount → s.clocked t = true →
    x.txns[k]? = some y → y.phase = .back → y.err = 0 → y.bad ≠ [] → y.write = false →
    (∀ v b, y.target ≠ .scratch v b) → x.banksFree s.cyc 3 (y.ownSpans t) = true → x.f Reg.ladleFault 31 31 = 0 →
    ∃ u, exec (.ladleTxnComplete t k) s = .next u ∧ s.TileOnly u t ∧ (u.tile t).f Reg.ladleFault 15 0 = 0x225 ∧
      (u.tile t).f Reg.ladleFault 18 16 = 3 ∧ (u.tile t).stopped 3 = true ∧ (u.tile t).issuing = none ∧
      (u.tile t).txns = listDrop1 x.txns k) ∧
  (∀ (s : State) (t k : Nat) (y : Txn) (x : Tile), x = s.tile t → t < tileCount → s.clocked t = true →
    x.txns[k]? = some y → slotClass t y.target = 2 → y.answered = false → y.since + 50000 ≤ s.engineTime →
    x.f Reg.ladleFault 31 31 = 0 →
    ∃ u, exec (.ladleFabricTimeout t k) s = .next u ∧ (u.tile t).f Reg.ladleFault 15 0 = 0x226 ∧
      (u.tile t).f Reg.ladleFault 18 16 = 3 ∧ (u.tile t).stopped 3 = true ∧ (u.tile t).issuing = none ∧
      (u.tile t).txns = x.txns.filter (fun z => z.id != y.id) ∧ x.ScratchSame (u.tile t) ∧ (∀ t', t' ≠ t → u.tile t' = s.tile t') ∧
      (∀ g, y.tag = some g → ∀ z ∈ u.tags, z.1 ≠ g) ∧ (y.tag = none → (t, y.id) ∉ u.tagQ))

/-- R135. A Vat chip address lies in the column of tile A[38:28] at column offset A[27:0]; A[4:0] is the byte in the
sector, A[9:5] the sector in the row, A[14:10] XOR A[19:15] the bank and A[27:15] the row; and column, row, bank and
sector in row give the sector back, so no two sectors share a place. -/
def Obligations.VatAddressNamesItsPlace : Prop :=
  (∀ a, a < vatEnd → vatCol a = a / 2 ^ 28 ∧ sectorCol (a / 32) = a / 2 ^ 28 ∧ a / 32 % colSectors = a % 2 ^ 28 / 32 ∧
    a = 32 * (a / 32) + a % 2 ^ 5 ∧ sectorInRow (a / 32) = a / 2 ^ 5 % 2 ^ 5 ∧
    sectorBank (a / 32) = (a / 2 ^ 10 % 2 ^ 5) ^^^ (a / 2 ^ 15 % 2 ^ 5) ∧ sectorRow (a / 32) = a / 2 ^ 15 % 2 ^ 13) ∧
  (∀ x, sectorAt (sectorCol x) (sectorRow x) (sectorBank x) (sectorInRow x) = x) ∧
  (∀ c r b p, r < 8192 → b < 32 → p < 32 → sectorCol (sectorAt c r b p) = c ∧ sectorRow (sectorAt c r b p) = r ∧
    sectorBank (sectorAt c r b p) = b ∧ sectorInRow (sectorAt c r b p) = p)

/-- VAT_ENTRY_START (R139, R142, R145, R162). With no forced scrub row due, an entry starts. The entry that starts is eligible and none before it in the queue touches its
sector; an aged entry that may start goes first, and otherwise, outside a run of writes, the oldest. A full-sector
write leaves its sector without errors and counts one written sector; a clean read counts one read sector and delivers
the bytes its entry holds, and with its transaction's last sector the answer enters the mesh. The entry leaves the queue, and each entry left counts that it was passed over. -/
def Obligations.VatEntryStarts : Prop :=
  (∀ (q : Column) (el : List Nat) (i : Nat), q.choose el = some i → i ∈ el ∧ ∃ e, q.queue[i]? = some e ∧
    ∀ y ∈ q.queue.take i, y.sector ≠ e.sector) ∧
  (∀ (q : Column) (el : List Nat) (i : Nat) (e : VatEntry), q.queue[i]? = some e → 64 ≤ e.passed → i ∈ el →
    (∀ y ∈ q.queue.take i, y.sector ≠ e.sector ∧ y.passed < 64) → q.choose el = some i) ∧
  (∀ (q : Column) (el : List Nat) (i : Nat) (e : VatEntry), (∀ y ∈ q.queue, y.passed < 64) →
    (q.writing = false ∨ 16 ≤ q.wrun) → q.queue[i]? = some e → i ∈ el → (∀ y ∈ q.queue.take i, y.sector ≠ e.sector) →
    (∀ j, j < i → j ∉ el) → q.choose el = some i) ∧
  (∀ (s : State) (c i : Nat) (el : List Nat) (ups : List (Nat × Byte)) (e : VatEntry) (x y : Tile), x = s.tile c → c < tileCount →
    x.f Reg.vatStatus 2 2 = 1 → x.forcedScrub = false → x.col.waitQ = [] → x.col.choose el = some i → x.col.queue[i]? = some e →
    y = { x with col := x.col.started i e } →
    (e.write = true → e.len = 32 → exec (.vatEntryStart c el ups) s = .next { s with
        tiles := (s.setTile c ((y.setErr e.sector .clean).sectors Reg.vatWrSectLo 1)).tiles, freeCount := s.freeCount + 1 }) ∧
    (∀ k id, e.write = false → e.src = .ladle k id → k ≠ c → k < tileCount →
      tabGet errD x.col.errs (e.sector % colSectors) = .clean → ups = [] →
      ∃ u, exec (.vatEntryStart c el ups) s = .next u ∧
        u.tile c = (y.sectors Reg.vatRdSectLo 1).setErr e.sector .clean ∧
        u.tile k = ((s.tile k).vatDeliver id e e.old false s.cyc).modTxn id (fun z => { z with left := z.left - 1 }) ∧
        (∀ w, w ≠ c → w ≠ k → u.tile w = s.tile w) ∧
        u.mesh = (if (s.tile k).txns.any (fun z => z.id == id && decide (z.left ≤ 1)) then
          s.mesh ++ [⟨k, id, true, .tile k, c, 0, s.cyc + meshEntry⟩] else s.mesh) ∧
        u = { s with tiles := u.tiles, mesh := u.mesh, freeCount := s.freeCount + 1 })) ∧
  (∀ (q : Column) (i : Nat) (e : VatEntry), (q.started i e).queue = (listDrop1 q.queue i).map (fun y => { y with passed := y.passed + 1 }) ∧
    (q.started i e).writing = e.write ∧ (q.started i e).errs = q.errs)

/-- VAT_REFRESH, VAT_LANE_CAL, SCRUB_FORCE, VAT_SCRUB_ROW, SENSE_LINE_TEST and REPAIR_COPY_ROW on a column that has
started (R142, R143, R144, R147 to R151). A refresh advances its row, closes the banks and puts HOT in force; a
calibration closes the banks, and a failed one sets CAL_FAIL and logs; a scrub that is on forces its row after 64 ms; a scrub of a row goes on to the
next, counting passes; a sense-line test takes the first due signature out of its table; a repair copies its next row. -/
def Obligations.VatUpkeep : Prop :=
  ∀ (s : State) (c : Nat) (x : Tile), x = s.tile c → c < tileCount → x.f Reg.vatStatus 2 2 = 1 →
    exec (.vatRefresh c) s = .next (s.setTile c { x with col := { x.col with
      refRow := (x.col.refRow + 1) % 8192, rowOpen := [], hotNow := decide (x.f Reg.vatStatus 0 0 = 1) } }) ∧
    exec (.vatLaneCal c true) s = .next (s.setTile c { x with col := { x.col with rowOpen := [] } }) ∧
    (∃ u, exec (.vatLaneCal c false) s = .next u ∧ (s.setTile c (({ x with col := { x.col with rowOpen := [] } } : Tile).setF Reg.vatStatus 1 1 1)).RecordsOnly u) ∧
    (x.f Reg.vatScrubCfg 31 31 = 1 → exec (.scrubForce c) s =
      .next (s.setTile c { x with col := { x.col with scrubDue := true } })) ∧
    (∀ ups, x.f Reg.vatScrubCfg 31 31 = 1 → (x.col.queue = [] ∨ x.col.scrubDue = true) →
      ∃ u, exec (.vatScrubRow c ups) s = .next u ∧ (u.tile c).col.scrubDue = false ∧ (u.tile c).col.rowOpen = [] ∧
        (u.tile c).col.scrubRow = (if x.col.scrubRow = 262143 then 0 else x.col.scrubRow + 1)) ∧
    (∀ raw g, raw.length = 64 → x.col.sigs.find? (·.due) = some g → (∃ b ∈ raw, b ≠ raw.headD false) →
      ∃ u, exec (.senseLineTest c raw) s = .next u ∧
        (s.setTile c { x with col := { x.col with sigs := x.col.sigs.filter (· != g), rowOpen := [] } }).RecordsOnly u) ∧
    (∀ r, x.col.copying = some r → ∃ u, exec (.repairCopyRow c) s = .next u ∧ (u.tile c).col.rowOpen = [] ∧
      (u.tile c).col.copying = (if r.column = true ∧ r.ptr < 8191 then some { r with ptr := r.ptr + 1 } else
        (((s.backgroundRow c (if r.column then r.ptr else r.row) r.bank [] true).tile c).col.waiting).head?))

/-- PAIL_MODE_WRITE and PAIL_ZEROING_DONE (R131, R153). A write that changes a quiesced unit's modes stores them, sets
ZEROING, starts the zeroing of the changed regions and drops their cached lines in the unit's 64 slices; a write to a
unit that is not quiesced, or not the partition's, sets bit 31 alone. When the zeroing's cycles have passed, the
regions read as zero, every other byte is as it was, and ZEROING clears. PAIL_SLICE_ACCESS, PAIL_FILL, INV_ALL and
INV_ALL_DONE (R154 to R157). A slice serves one line in a mesh cycle: the request first in its order whose region is
not being zeroed, unless a cache fill came no later; a transaction's read gets the bytes of the slice, and its answer
enters the mesh; a sector in flight is installed in the cache unless it was written or invalidated meanwhile; INV_ALL drops every line, sets INV_BUSY for 4,096 cycles, and keeps fills in flight from being
installed. -/
def Obligations.PailModesSlicesAndCaches : Prop :=
  ((∀ (s : State) (n k o old new : Nat) (v : Word), n < 16 → k < 18 → o = Reg.pailMode + 4 * k → s.hostUp = true →
    old = (s.part n).f o 1 0 → new = fld v 1 0 → bit v 31 = false →
    (s.ownsUnit n k = false ∨ (new ≠ old ∧ s.pailQuiet n k = false) →
      exec (.pailModeWrite (.vf n) n k v) s = .next (s.setPart n ((s.part n).setF o 31 31 1))) ∧
    (s.ownsUnit n k = true → new = old → exec (.pailModeWrite (.vf n) n k v) s = .next s) ∧
    (s.ownsUnit n k = true → new ≠ old → s.pailQuiet n k = true → ∃ u, exec (.pailModeWrite (.vf n) n k v) s = .next u ∧
      u.part n = ((s.part n).setF o 1 0 new).setF o 8 8 1 ∧ (∀ m, m ≠ n → u.part m = s.part m) ∧
      (∀ t, u.tile t = if 64 * k ≤ t ∧ t < 64 * k + 64 then (s.tile t).dropWays (old ^^^ new) else s.tile t) ∧
      tabGet zeroingD u.zeroing k = some ⟨(match tabGet zeroingD s.zeroing k with | some z => z.regions | none => 0) ||| (old ^^^ new), s.cyc⟩ ∧
      u = { s with parts := u.parts, tiles := u.tiles, zeroing := u.zeroing })) ∧
  (∀ (s : State) (k : Nat) (z : Zeroing), k < 18 → tabGet zeroingD s.zeroing k = some z →
    zeroingCycles z.regions ≤ cycDiff s.cyc z.start → s.allCtxs = [] → ∃ u, exec (.pailZeroingDone k) s = .next u ∧
      tabGet zeroingD u.zeroing k = none ∧ (∀ a, tabGet byteD u.mem a =
        if (z.regions.testBit 0 ∧ regionBase k 0 ≤ a ∧ a < regionBase k 0 + 2 ^ 26) ∨
          (z.regions.testBit 1 ∧ regionBase k 1 ≤ a ∧ a < regionBase k 1 + 2 ^ 26) then 0 else tabGet byteD s.mem a) ∧
      (∀ n, s.unitOwner k = some n → u.part n = (s.part n).setF (Reg.pailMode + 4 * k) 8 8 0) ∧
      u = { s with parts := u.parts, tiles := u.tiles, zeroing := u.zeroing, mem := u.mem }) ∧
  zeroingCycles 1 = 16384 ∧ zeroingCycles 2 = 12288 ∧ zeroingCycles 3 = 28672) ∧
  ((∀ (s : State) (t i k id : Nat) (r : PailReq) (x : Tile), x = s.tile t → t < tileCount → s.meshUp = true →
    s.sliceNext x.sliceQ = some i → x.sliceQ[i]? = some r → r.src = .ladle k id → pailTile r.addr = t →
    x.pailBad = [] → k ≠ t → k < tileCount → x.now.slice = false → (∀ f ∈ x.fills, s.sliceBefore x.sliceQ s.cyc f.at_ = true) →
    ∃ u, exec (.pailSliceAccess t) s = .next u ∧
      (u.tile t) = { x with sliceQ := listDrop1 x.sliceQ i, now := { x.now with slice := true } } ∧
      u.tile k = (s.tile k).modTxn id (fun y => { y with
        data := if r.write then y.data else memRead s.mem r.addr r.len, bad := [], left := 0 }) ∧
      u.mem = (if r.write then putBytes (fun _ => false) s.mem r.addr r.bytes else s.mem) ∧
      u.mesh = (if (s.tile k).txns.any (fun y => y.id == id) then
        s.mesh ++ [⟨k, id, true, .tile k, t, 0, s.cyc + meshEntry⟩] else s.mesh) ∧
      (∀ w, w ≠ t → w ≠ k → u.tile w = s.tile w) ∧ u = { s with tiles := u.tiles, mem := u.mem, mesh := u.mesh }) ∧
  (∀ (s : State) (t k : Nat) (f : Fill) (x y : Tile), x = s.tile t → t < tileCount → s.meshUp = true → x.fills[k]? = some f →
    x.now.slice = false → s.cacheWaits (t / 64) = false → s.sliceBefore x.sliceQ s.cyc f.at_ = false →
    (∀ g ∈ x.fills.take k, g.at_ = f.at_) →
    y = { x with fills := listDrop1 x.fills k, now := { x.now with slice := true } } → exec (.pailFill t k) s = .next (s.setTile t
      (if f.install = true then y.install (s.cacheWays t) f.sector f.bytes else y))) ∧
  (∀ (s : State) (n t : Nat) (v : Word) (x : Tile), x = s.tile t → s.hostUp = true → s.ownsTile n t = true → bit v 8 = true →
    exec (.invAll (.vf n) t v) s = .next (s.setTile t { (x.setF Reg.pailCtl 1 0 (fld v 1 0)).setF Reg.pailCtl 9 9 1 with
      cache := [], invStart := s.cyc, fills := x.fills.map (fun f => { f with install := false })
      txns := x.txns.map (fun y => { y with install := false }) })) ∧
  (∀ (s : State) (t : Nat) (x : Tile), x = s.tile t → t < tileCount → x.f Reg.pailCtl 9 9 = 1 →
    (4096 ≤ cycDiff s.cyc x.invStart → exec (.invAllDone t) s = .next (s.setTile t (x.setF Reg.pailCtl 9 9 0))) ∧
    (cycDiff s.cyc x.invStart < 4096 → exec (.invAllDone t) s = .next (s.setTile t x))))

/-- R186. A write of one to CHURN_GO, by the tile's own core or by the partition's function, starts a job at the scratch
address that CHURN_DESC holds at that moment, with the coefficients of that moment and the seed that quarter 0 still owes; while BUSY is 1 it starts nothing and sets OVERRUN. -/
def Obligations.ChurnGoStartsAJob : Prop :=
  ∀ (s : State) (a : Agent) (t : Nat) (v : Word) (x : Tile), x = s.tile t →
    ((a = .core t ∧ s.clocked t = true) ∨ ∃ n, a = .vf n ∧ s.hostUp = true ∧ s.ownsTile n t = true) → bit v 0 = true →
    (x.f Reg.churnStatus 0 0 = 1 → exec (.churnGo a t v) s = .next (s.setTile t (x.setF Reg.churnStatus 1 1 1))) ∧
    (x.f Reg.churnStatus 0 0 = 0 → ∃ j, exec (.churnGo a t v) s =
        .next (s.setTile t { x.setF Reg.churnStatus 0 0 1 with churn := some j, reseed := setBit x.reseed 0 false }) ∧
      j.desc = x.f Reg.churnDesc 19 0 ∧ j.start = s.cyc ∧ j.begun = false ∧ j.faulted = false ∧
      j.bigExp = x.f Reg.churnBigExp 7 0 ∧ j.wrote = [] ∧
      j.ownerOk = s.ownerNames t (fld (BitVec.ofNat 32 (x.rd32 (j.desc + 56))) 11 0) ∧
      j.owed = (if bit x.reseed 0 then some (x.reg64 Reg.rennetSrSeedLo) else none) ∧ j.coefA = x.reg Reg.churnCoefA ∧ j.coefB = x.reg Reg.churnCoefB ∧ j.coefC = x.reg Reg.churnCoefC)

/-- CHURN_JOB_START, CHURN_JOB_FAULT and CHURN_JOB_COMPLETE (R187, R189, R190, R191). A job reads its descriptor once
engines 0 and 1 are idle and no set drains; one that passes begins and changes nothing else, one that fails records
its code with ENGINE = 5 and changes no buffer; quarter 0 takes the seed it owed. An uncorrectable scratch word records CZ_ERR_SCR_UNCORR. A completed
job is gone, with BUSY clear, every cell weight invalid, the gang mode FULL, every accumulator set IDLE, and its count
one higher. -/
def Obligations.ChurnJobsRun : Prop :=
  ∀ (s : State) (t : Nat) (j : Job) (x : Tile), x = s.tile t → s.clocked t = true → x.churn = some j → j.faulted = false →
    x.f Reg.ladleFault 31 31 = 0 →
    (j.begun = false → x.churnMayRead = true → (x.scrReads [(j.desc, 64)]).2 = false →
      ∀ y k, y = (x.takeOwed.scrReads [(j.desc, 64)]).1 → k = { j with owed := none, words := y.churnWords j.desc } →
      (y.churnCheck j = 0 → exec (.churnJobStart t) s =
        .next { s.setTile t { y with churn := some { k with begun := true } } with freeCount := s.freeCount + 1 }) ∧
      (y.churnCheck j ≠ 0 → ∃ u, exec (.churnJobStart t) s = .next u ∧
        ({ s with freeCount := s.freeCount + 1 } : State).TileOnly u t ∧ x.ScratchSame (u.tile t) ∧
        (u.tile t).f Reg.ladleFault 15 0 = y.churnCheck j % 65536 ∧ (u.tile t).f Reg.ladleFault 18 16 = 5 ∧
        (u.tile t).churn = some { k with faulted := true })) ∧
    (j.begun = false → x.churnMayRead = true → (x.scrReads [(j.desc, 64)]).2 = true → ∃ u, exec (.churnJobStart t) s = .next u ∧
      (u.tile t).f Reg.ladleFault 15 0 = 0x260 ∧ (u.tile t).f Reg.ladleFault 18 16 = 5) ∧
    (j.begun = true → (x.scrReads (j.d.reads j.desc)).2 = true → ∃ u, exec (.churnJobFault t) s = .next u ∧
      (u.tile t).f Reg.ladleFault 31 31 = 1 ∧ (u.tile t).churn = some { j with faulted := true }) ∧
    (j.begun = true → (x.scrReads (j.d.reads j.desc)).2 = false → ∃ u y, exec (.churnJobComplete t) s = .next u ∧
      y = (((x.scrReads (j.d.reads j.desc)).1.churnRun j (s.compat t) s.freeCount).churnLeaves s.freeCount) ∧
      u.tile t = { ((((y.setReg Reg.churnLastCyc (BitVec.ofNat 32 (cycDiff s.cyc j.start))).setReg Reg.churnJobs
          (y.reg Reg.churnJobs + 1)).setF Reg.churnStatus 0 0 0).addSem j.d.sem 1) with churn := none } ∧
      (u.tile t).wValid = 0 ∧ (u.tile t).wPendOn = 0 ∧ (u.tile t).gang = 3 ∧ (u.tile t).accOpen = [] ∧ (u.tile t).fill = 0 ∧
      (u.tile t).queues = x.queues ∧ (∀ w, w ≠ t → u.tile w = s.tile w))

/-- SKIM_GO, SKIM_JOB_FAULT and SKIM_JOB_COMPLETE (R212, R214, R221, R222). A job that passes its checks starts with the
descriptor it read; one that fails records its code with ENGINE = 6 and changes nothing else; a write while BUSY is 1
sets OVERRUN alone. A job whose banks are free and that completes clears BUSY, counts, and signals its semaphore; one that meets an uncorrectable
word or sector stops with its code. -/
def Obligations.SkimJobsRun : Prop :=
  (∀ (s : State) (n t : Nat) (v : Word) (x : Tile), x = s.tile t → s.hostUp = true → s.ownsTile n t = true → bit v 0 = true →
    (x.f Reg.skimStatus 0 0 = 1 → exec (.skimGo (.vf n) t v) s = .next (s.setTile t (x.setF Reg.skimStatus 1 1 1))) ∧
    (x.f Reg.skimStatus 0 0 = 0 → (x.scrReads [(x.f Reg.skimDesc 19 0, 32)]).2 = false →
      let y := (x.scrReads [(x.f Reg.skimDesc 19 0, 32)]).1.skimReseeds
      (s.skimCheck t = 0 → exec (.skimGo (.vf n) t v) s =
        .next (s.setTile t { y.setF Reg.skimStatus 0 0 1 with skim := some ⟨y.f Reg.skimDesc 19 0, y.skimWords, s.cyc, [], []⟩ })) ∧
      (s.skimCheck t ≠ 0 → x.f Reg.ladleFault 31 31 = 0 → ∃ u, exec (.skimGo (.vf n) t v) s = .next u ∧ s.TileOnly u t ∧
        (u.tile t).f Reg.ladleFault 15 0 = s.skimCheck t % 65536 ∧ (u.tile t).f Reg.ladleFault 18 16 = 6 ∧
        (u.tile t) = { x with regs := (u.tile t).regs }))) ∧
  (∀ (s : State) (t : Nat) (j : SkimJob) (x : Tile) (r : SkimRun), x = s.tile t → s.clocked t = true → x.skim = some j → x.inScr = [] →
    x.banksFree s.cyc 6 j.lastSpans = true →
    (r = (s.setTile t (x.wonBanks 6 j.lastSpans)).skimJobRun t j → r.code = 0 → ∃ u, exec (.skimJobComplete t) s = .next u ∧ r.st.RecordsOnly { u with tiles := r.st.tiles } ∧
      (∀ w, w ≠ t → u.tile w = r.st.tile w) ∧
      u.tile t = { ((((r.st.tile t).setReg Reg.skimLastCyc (BitVec.ofNat 32 (cycDiff s.cyc j.start))).setReg Reg.skimJobs
        ((r.st.tile t).reg Reg.skimJobs + 1)).setF Reg.skimStatus 0 0 0).addSem (skSem j.words) 1 with skim := none }) ∧
    (r = s.skimJobRun t j → r.code ≠ 0 → ∃ u, exec (.skimJobFault t) s = .next u ∧ r.st.RecordsOnly { u with tiles := r.st.tiles } ∧
      (∀ w, w ≠ t → u.tile w = r.st.tile w) ∧
      u.tile t = { (((r.st.tile t).setF Reg.skimStatus 0 0 0).recordFault r.code 6 0) with skim := none }))

/-- PORT_ENABLE, PARTNER_SIGNAL_DETECT, TRAIN_TIMEOUT, TRAIN_RETRY, LINK_RETRAIN and PORT_DISABLE (R233, R240, R253).
With VFAB up, Ittan Root's EN starts a DISABLED port's training, as does 1 ms after a link down; before that EN is only
stored: TRAINING, with the DEGRADE_OK of that moment and no role, width,
partner, credit or flit of an earlier link. A training that is not done 50 ms after the partner's signal is logged and
starts again after its pause. EN written 0 leaves a port that neither trains nor runs DISABLED, a FAILED one FAILED. -/
def Obligations.PortsTrain : Prop :=
  ∀ (s : State) (p : Nat) (x : Port), x = s.port p → p < 12 →
    (s.fabricUp = true → ∀ c, (c = .portEnable .root p ∧ s.rootUp = true ∧ x.st = 0 ∧ x.en = false) ∨ (c = .linkRetrain p ∧ x.st = 4 ∧ x.en = true) →
      ∃ u y, exec c s = .next u ∧ (s.setPort p y).RecordsOnly u ∧ y.st = 1 ∧ y.en = true ∧ y.f Reg.fabPortStatus 4 3 = 0 ∧
        y.f Reg.fabPortStatus 7 5 = 0 ∧ y.f Reg.fabPortPartner 31 31 = 0 ∧ y.txq = [] ∧ y.rxq = [] ∧ y.replay = [] ∧
        y.used = [] ∧ y.owed = [] ∧ y.seen = false ∧ y.txSeq = 0 ∧ y.downs = x.downs ∧
        y.degradeOk = (x.f Reg.fabPortCtl 1 1 == 1)) ∧
    (s.fabricUp = false → s.rootUp = true → exec (.portEnable .root p) s = .next (s.setPort p (x.setF Reg.fabPortCtl 0 0 1))) ∧
    (x.st = 1 → exec (.partnerSignalDetect p) s = .next (s.setPort p { x with seen := true })) ∧
    (x.st = 1 → x.seen = true → x.retry = false → ∃ u, exec (.trainTimeout p) s = .next u ∧
      (s.setPort p { x with seen := false, retry := true }).RecordsOnly u) ∧
    (x.st = 1 → x.retry = true → exec (.trainRetry p) s = .next (s.setPort p { x.latchWants with retry := false })) ∧
    (s.rootUp = true → x.st = 5 → exec (.portDisable .root p) s = .next (s.setPort p (x.setF Reg.fabPortCtl 0 0 0))) ∧
    (s.rootUp = true → x.st = 4 → ∃ u y, exec (.portDisable .root p) s = .next u ∧ (s.setPort p y).RecordsOnly u ∧ y.st = 0 ∧
      y.en = false ∧ y.cause = x.cause ∧ y.f Reg.fabPortStatus 31 31 = 1 ∧ y = { x with regs := y.regs })

/-- LINK_TRAINED (R233, R234, R235): with all four lanes a port runs at width 4 and is UP, with lanes 0 and 1 or 2 and 3,
if DEGRADE_OK was set as the training began, at width 2 and DEGRADED, and its first heartbeat leaves; with fewer the training goes on. A partner that is not the neighbour
across the port, or has other dimensions, leaves the port FAILED. Of two ends that do not ask, the higher chip ID
leads. -/
def Obligations.LinksComeUp : Prop :=
  ∀ (s : State) (p lanes : Nat) (i : PartnerInfo) (x : Port), x = s.port p → p < 12 → x.st = 1 → x.retry = false →
    (x.width lanes = 0 → exec (.linkTrained p lanes i) s = .next s) ∧
    (x.width lanes ≠ 0 → ∃ u, exec (.linkTrained p lanes i) s = .next u ∧ u.tiles = s.tiles ∧ u.mem = s.mem ∧
      (u.port p).f Reg.fabPortPartner 17 0 = i.chipId % 2 ^ 18 ∧ (u.port p).f Reg.fabPortPartner 31 31 = 1 ∧
      (∀ q, q ≠ p → u.port q = s.port q) ∧
      ((s.setPort p { x.setReg Reg.fabPortPartner (BitVec.ofNat 32 (i.chipId % 2 ^ 18 + 2 ^ 18 * (i.port % 16) + 2 ^ 31)) with
          pStratum := i.stratum }).identityOk p i = false → (u.port p).st = 5 ∧ (u.port p).cause = 6) ∧
      ((s.setPort p { x.setReg Reg.fabPortPartner (BitVec.ofNat 32 (i.chipId % 2 ^ 18 + 2 ^ 18 * (i.port % 16) + 2 ^ 31)) with
          pStratum := i.stratum }).identityOk p i = true →
        (u.port p).st = (if x.width lanes = 4 then 2 else 3) ∧ (u.port p).f Reg.fabPortStatus 7 5 = x.width lanes ∧
        (u.port p).cause = 0 ∧ (u.port p).hbOut.isSome = true ∧ (x.forceLead = false → x.pendRole = 0 → i.stratum ≤ s.stratum → i.asks = false →
          (u.port p).f Reg.fabPortStatus 4 3 = if i.chipId < s.chipId then 1 else 2))) ∧
    (lanes % 16 = 15 → x.width lanes = 4) ∧
    (lanes % 16 ≠ 15 → x.degradeOk = true → lanes % 4 = 3 ∨ lanes / 4 % 4 = 3 → x.width lanes = 2) ∧
    (lanes % 16 ≠ 15 → x.degradeOk = false ∨ (lanes % 4 ≠ 3 ∧ lanes / 4 % 4 ≠ 3) → x.width lanes = 0)

/-- HEARTBEAT_TIMEOUT, LOSS_OF_SIGNAL, DOWN_NOTICE, CODEWORD_DECODE and REPLAY_TIMEOUT (R238, R239, R240, R241). A link
that runs goes down with its cause, counted and with CHANGED set, its role and width cleared, its queue and replay
buffer empty; the eighth down within 1 s leaves it FAILED. Before 2,250 ticks of 2 ns without a heartbeat
the link stays up. The eighth uncorrectable codeword in a row is such a cause,
a corrected one is counted; flits without acknowledgement are resent from the oldest, and the sixteenth time marks the
link down. No tile and no byte of memory changes. -/
def Obligations.LinksGoDown : Prop :=
  ∀ (s : State) (p : Nat) (x : Port), x = s.port p → p < 12 → x.isUp = true →
    (∀ c cause, (c, cause) ∈ [(Instr.lossOfSignal p, 2), (.downNotice p, 5)] ∨
        (c = .heartbeatTimeout p ∧ cause = 1 ∧ x.alive + 2250 ≤ s.ticks) ∨
        (c = .codewordDecode p .uncorrectable ∧ cause = 3 ∧ 7 ≤ x.uncorr) ∨
        (c = .replayTimeout p ∧ cause = 4 ∧ 16 ≤ x.replays ∧ x.replay ≠ []) →
      ∃ u, exec c s = .next u ∧ u.tiles = s.tiles ∧ u.mem = s.mem ∧
        (u.port p).st = (if 7 ≤ (x.downs.filter (fun t => decide (s.time < t + 1000000000))).length then 5 else 4) ∧
        ((u.port p).st = 4 → (u.port p).cause = cause) ∧ (u.port p).f Reg.fabPortStatus 31 31 = 1 ∧
        (u.port p).f Reg.fabPortStatus 4 3 = 0 ∧ (u.port p).f Reg.fabPortStatus 7 5 = 0) ∧
    (s.ticks < x.alive + 2250 → exec (.heartbeatTimeout p) s = .next s) ∧
    exec (.codewordDecode p .clean) s = .next (s.setPort p { x with uncorr := 0 }) ∧
    exec (.codewordDecode p .corrected) s = .next (s.setPort p { x.count Reg.fabPortFecCorr 1 with uncorr := 0 }) ∧
    (x.uncorr < 7 → exec (.codewordDecode p .uncorrectable) s =
      .next (s.setPort p { x.count Reg.fabPortFecUncorr 1 with uncorr := x.uncorr + 1 })) ∧
    (x.replay ≠ [] → x.replays < 16 → exec (.replayTimeout p) s = .next (s.setPort p
      { x.count Reg.fabPortReplay x.replay.length with replays := x.replays + 1, wire := x.replay.getLast?.map (fun f => (f, f.crc)) }))

/-- LEAD_REQ, LEAD_ACK, LEAD_NAK, LEAD_BACKOFF_EXPIRY and LEAD_REQ_TIMEOUT on a running link (R235, R236). An end without
a request of its own grants LEAD_REQ and follows from the leader's next heartbeat; of two requests that collide, each
end counts one, and the higher chip ID answers LEAD_NAK and keeps its request while the lower withdraws its own and
grants. A LEAD_NAK, and 10 µs without an answer, draw a backoff of 1 to 64 µs from the fabric's generator, after which
the end asks again if it still may. -/
def Obligations.LeadRolesMove : Prop :=
  ∀ (s : State) (p : Nat) (x : Port), x = s.port p → p < 12 → x.isUp = true →
    (x.asking = false → exec (.leadReq p) s = .next (s.setPort p { x.sendCtrl .leadAck with pendRole := 2 })) ∧
    (x.asking = true → exec (.leadReq p) s = .next (s.setPort p
      (if x.f Reg.fabPortPartner 17 0 < s.chipId then (x.count Reg.fabPortLeadColl 1).sendCtrl .leadNak
       else { (x.count Reg.fabPortLeadColl 1).sendCtrl .leadAck with asking := false, pendRole := 2 }))) ∧
    (x.asking = true → exec (.leadAck p) s = .next (s.setPort p { x with asking := false, pendRole := 1 })) ∧
    (∀ c, c = .leadNak p ∨ (c = .leadReqTimeout p ∧ x.asking = true) → ∃ d, 1 ≤ d ∧ d ≤ 64 ∧
      exec c s = .next ({ s with fabGen := xorshift s.fabGen }.setPort p { x with asking := false, backoff := some d })) ∧
    (∀ d, x.backoff = some d → (s.wantsLead p = false → exec (.leadBackoffExpiry p) s = .next (s.setPort p { x with backoff := none })) ∧
      (s.wantsLead p = true → x.asking = false → x.pendRole = 0 → exec (.leadBackoffExpiry p) s =
        .next (s.setPort p { x.sendCtrl .leadReq with asking := true, backoff := none })))

/-- FAB_CHIP_ID_WRITE, HEARTBEAT_SEND and HEARTBEAT_RECEIVE (R235, R236, R237, R253, R405). Ittan Root's write stores the
chip ID and seeds the fabric's generator again; one that would change the ID while the fabric is not quiesced is
ignored and recorded. A heartbeat leaves with the next number, the chip's stratum and the role, in which a granted
role takes effect; one that arrives renews the link and gives the partner's stratum, and a follower takes its role
with the leader's heartbeat. -/
def Obligations.HeartbeatsAndChipId : Prop :=
  (∀ (s : State) (v : Word), s.rootUp = true →
    (fld v 17 0 = s.chipId ∨ s.fabricQuiet = true → ∃ u, exec (.fabChipIdWrite .root v) s = .next u ∧ u.chipId = fld v 17 0 ∧
      u.fabGen = u.fabSeed ∧ u = { s with chip := u.chip, fabGen := u.fabGen }) ∧
    (fld v 17 0 ≠ s.chipId → s.fabricQuiet = false → exec (.fabChipIdWrite .root v) s =
      .next ((s.setF Reg.fabCfgStatus 0 0 1).setF Reg.fabCfgStatus 31 16 Reg.fabChipId))) ∧
  (∀ (s : State) (p role : Nat) (x : Port), x = s.port p → p < 12 → x.isUp = true →
    role = (if x.pendRole = 1 then 1 else x.f Reg.fabPortStatus 4 3) → ∃ y hb, exec (.heartbeatSend p) s = .next (s.setPort p y).restrata ∧
      y.hbOut = some hb ∧ hb.seq = x.hbSeq ∧ hb.stratum = s.stratum ∧ (hb.leader = true ↔ role = 1) ∧
      y.hbSeq = (x.hbSeq + 1) % 65536 ∧ y.f Reg.fabPortStatus 4 3 = role ∧ (x.pendRole = 1 → y.pendRole = 0) ∧
      y = { x with regs := y.regs, pendRole := y.pendRole, hbSeq := y.hbSeq, hbOut := y.hbOut, hbSent := y.hbSent, wire := y.wire, owed := y.owed }) ∧
  (∀ (s : State) (p : Nat) (hb : Heartbeat) (x : Port), x = s.port p → p < 12 → x.isUp = true → x.hbSent = none →
    ∃ y, exec (.heartbeatReceive p hb) s = .next ((s.setPort p y).restrata.askLead p) ∧ y.hbIn = some s.time ∧
      y.pStratum = hb.stratum ∧ y.f Reg.fabPortHb 15 0 = hb.seq % 2 ^ 16 ∧
      y.f Reg.fabPortStatus 4 3 = (if x.pendRole = 2 ∧ hb.leader = true then 2 else x.f Reg.fabPortStatus 4 3) ∧
      y = { x with regs := y.regs, hbIn := y.hbIn, alive := s.ticks, hbHeld := y.hbHeld, pStratum := y.pStratum, pendRole := y.pendRole })

/-- FLIT_RECEIVE, FLIT_TRANSMIT and FLIT_ROUTE on a running port (R228, R241 to R244, R248, R249). A flit whose CRC-32C fails is
counted and discarded; one in order is taken, and flits its ACK covers leave the replay buffer; one out of order is
not; a heartbeat acts as HEARTBEAT_RECEIVE. Arbitration gives a flit time to VC 0 within its limit; the flit that leaves
takes the next number and the latest ACK, spends a credit and stays in the replay buffer; with none an idle flit
leaves. A link-control flit acts, and a flit for this chip gives up its packets in order. -/
def Obligations.FlitsMove : Prop :=
  ∀ (s : State) (p : Nat) (x : Port), x = s.port p → p < 12 → x.isUp = true →
    (∀ f crc, crc ≠ f.crc → exec (.flitReceive p f crc) s = .next (s.setPort p (x.count Reg.fabPortCrcErr 1))) ∧
    (∀ f hb, f.typ = 1 → f.body = .heartbeat hb →
      exec (.flitReceive p f f.crc) s = exec (.heartbeatReceive p hb) (s.setPort p (x.receive f f.crc))) ∧
    (∀ f, f.typ ≠ 1 → ∃ y, exec (.flitReceive p f f.crc) s = .next (s.setPort p y) ∧
      y.replay = x.replay.filter (fun g => !seqLe g.seq f.ack) ∧ y.txq = x.txq ∧ y.txSeq = x.txSeq ∧
      (f.typ = 0 ∨ f.typ = 2 → f.seq = (x.rxSeq + 1) % 4096 → y.rxSeq = f.seq ∧ y.rxq = x.rxq ++ [f]) ∧
      (3 ≤ f.typ ∨ f.seq ≠ (x.rxSeq + 1) % 4096 → y.rxSeq = x.rxSeq ∧ y.rxq = x.rxq)) ∧
    (∀ want cl v c i f, x.pickVc (s.arb p) want = some v → c = (if x.maySend v cl then cl else !cl) →
      x.waiting v c = some i → x.txq[i]? = some f →
      ∃ y g, exec (.flitTransmit p want cl) s = .next (s.setPort p y) ∧ g.seq = x.txSeq ∧ g.ack = x.rxSeq ∧ g.body = f.body ∧
        g.dest = f.dest ∧ y.replay = x.replay ++ [g] ∧ y.wire = some (g, g.crc) ∧ y.txq = listDrop1 x.txq i ∧
        y.txSeq = (x.txSeq + 1) % 4096 ∧ y.spent v c = x.spent v c + 1 ∧ y.rxq = x.rxq ∧ y.rxSeq = x.rxSeq) ∧
    (∀ want cl, x.pickVc (s.arb p) want = none → ∃ y g, exec (.flitTransmit p want cl) s = .next (s.setPort p y) ∧
      g.typ = 3 ∧ g.ack = x.rxSeq ∧ y.wire = some (g, g.crc) ∧ y.replay = x.replay ∧ y.txq = x.txq ∧ y.txSeq = x.txSeq) ∧
    (∀ want v, x.pickVc (s.arb p) want = some v → x.ready v = true) ∧
    (∀ want, x.ready 0 = true → (x.ctl.filter (fun t => decide (s.time < t + 1000))).length < x.ctlLimit →
      x.pickVc (s.arb p) want = some 0) ∧
    (∀ f l m, x.rxq = f :: l → f.typ = 2 → f.body = .ctrl m → exec (.flitRoute p) s =
      .next ((s.setPort p { x with rxq := l, owed := tabMod natD x.owed f.vc (· + 1) }).deliverCtrl p m)) ∧
    (∀ f l ps, x.rxq = f :: l → f.typ ≠ 2 → f.dest = s.chipId → f.detour = false → f.body = .packets ps → exec (.flitRoute p) s =
      .next ((s.setPort p { x with rxq := l, owed := tabMod natD x.owed f.vc (· + 1) }).arrive ps)) ∧
    (∀ f l, x.rxq = f :: l → f.typ ≠ 2 → f.dest ≠ s.chipId → exec (.flitRoute p) s =
      .next ((s.setPort p { x with rxq := l, owed := tabMod natD x.owed f.vc (· + 1) }).forward f (some (p / 4))))

/-- R339, and LADLE_PACKET_ARRIVE (R153, R179, R182, R247). The first arrived packet that does not wait for a region's
zeroing is treated. A request is refused, with an error response carrying CZ_ERR_LADLE_WINDOW (0x0223) and one more in
MB_PART_REFUSED.IN, unless its partition is ACTIVE here, the address lies in its own units, and its deciding window
grants IN_RD or IN_WR; a granted write is performed, recorded and acknowledged. A request that was older than 40 µs as
it arrived is dropped and counted; a recorded one is not performed again. -/
def Obligations.ArrivingTransactionsAreChecked : Prop :=
  ∀ (s : State) (x : Arrival) (p : Packet) (u : State) (acc : Nat), s.meshUp = true →
    s.arrivals.find? (fun y => !s.arrivalWaits y) = some x → p = x.pkt →
    u = { s with arrivals := s.arrivals.erase x } → (p.op = 1 ∧ acc = accInRd ∨ p.op = 2 ∧ acc = accInWr) →
    (2500 < x.age → exec .ladlePacketArrive s = .next (u.count Reg.fabLateCnt 31 0 1)) ∧
    (x.age ≤ 2500 →
      ((∃ r ∈ s.recent, r.src = p.src ∧ r.tag = p.tag ∧ r.issue = p.issue ∧ s.time < r.time + 50000) →
        exec .ladlePacketArrive s = .next (if p.op = 2 then (u.count Reg.fabDupCnt 31 0 1).respond p 4 p.addr [] else u.count Reg.fabDupCnt 31 0 1)) ∧
      ((∀ r ∈ s.recent, r.src = p.src → r.tag = p.tag → r.issue = p.issue → r.time + 50000 ≤ s.time) →
        (16 ≤ p.part ∨ s.partState p.part ≠ 1 ∨ 2 ≤ s.fw.powerDown ∨ s.rangeOwned p.part p.addr (p.len + 1) = false ∨
            (s.part p.part).winGrantsAll (s.chipId * 2 ^ 40 + p.addr) (p.len + 1) acc = false →
          exec .ladlePacketArrive s = .next ((u.modPart p.part (fun x => x.count Reg.mbPartRefused 31 16 1)).sendPacket
            { p with op := 5, src := s.chipId, dest := p.src, addr := 0x223, data := [] })) ∧
        (s.grantsIn p acc = true → p.op = 2 → (isPail p.addr && s.isCache (pailUnit p.addr) (pailRegion p.addr)) = false →
          exec .ladlePacketArrive s = .next ((({ u with recent := s.recent.filter (fun (r : Performed) => decide (s.time < r.time + 50000)) ++
            [⟨p.src, p.tag, p.issue, s.time⟩] } : State).homeWrite p.addr (packetBytes p)).respond p 4 p.addr []))))

/-- DOORBELL, RSP_HEAD_WRITE, EVT_HEAD_WRITE, HOST_VER_WRITE and COALESCE_EXPIRY (R308, R310, R312, R313). A doorbell that
moves the request tail forward by no more than the ring holds is taken; any other leaves the ring and sets OVERRUN. A
head moves as far as its tail, and responses that wait enter the ring; past the tail it is ignored and sets OVERRUN. A
host version that does not match the firmware's sets VER_MISMATCH. At the end of the coalescing time the vector's
interrupt is sent. Beside what is named, only records and traces are written. -/
def Obligations.MailboxRegistersAct : Prop :=
  (∀ (s : State) (a : Agent) (p : Nat) (v : Word) (x : Pair), s.agentUp a = true → mayPair a p = true →
    (∀ n, a = .service n → (s.svcCore n).isSome = true) → s.mbOpen = true → x = s.pair p →
    (ringDiff (x.reg Reg.mbReqTail) (x.reg Reg.mbReqHead) ≤ ringDiff v (x.reg Reg.mbReqHead) → ringDiff v (x.reg Reg.mbReqHead) ≤ 256 →
      ∃ u, exec (.doorbell a p v) s = .next u ∧ (s.setPair p (x.setReg Reg.mbReqTail v)).RecordsOnly u) ∧
    (256 < ringDiff v (x.reg Reg.mbReqHead) ∨ ringDiff v (x.reg Reg.mbReqHead) < ringDiff (x.reg Reg.mbReqTail) (x.reg Reg.mbReqHead) →
      ∃ u, exec (.doorbell a p v) s = .next u ∧ (s.setPair p (x.setF Reg.mbStatus 9 9 1)).RecordsOnly u) ∧
    exec (.rspHeadWrite a p v) s = .next ((s.setPair p
      (if ringDiff v (x.reg Reg.mbRspHead) ≤ ringDiff (x.reg Reg.mbRspTail) (x.reg Reg.mbRspHead) then x.setReg Reg.mbRspHead v
       else x.setF Reg.mbStatus 9 9 1)).flushRsp p) ∧
    exec (.evtHeadWrite a p v) s = .next (s.setPair p
      (if ringDiff v (x.reg Reg.mbEvtHead) ≤ ringDiff (x.reg Reg.mbEvtTail) (x.reg Reg.mbEvtHead) then x.setReg Reg.mbEvtHead v
       else x.setF Reg.mbStatus 9 9 1)) ∧
    ∃ u, exec (.hostVerWrite a p v) s = .next u ∧
      State.RecordsOnly (s.setPair p
        (if fld v 31 16 = fld (x.reg Reg.mbFwVer) 31 16 ∧ fld v 15 0 ≤ fld (x.reg Reg.mbFwVer) 15 0 then x.setReg Reg.mbHostVer v
         else (x.setReg Reg.mbHostVer v).setF Reg.mbStatus 8 8 1)) u) ∧
  ∀ (s : State) (p vec : Nat) (x : Pair), p < 17 → vec < 2 → x = s.pair p → bit x.irqPend vec = true →
    exec (.coalesceExpiry p vec) s = .next (s.setPair p { x with
      irqPend := setBit x.irqPend vec false, irqCount := tabMod natD x.irqCount vec (· + 1) })

/-- REQUEST_TAKE (R299, R312, R314, R317). While the pair is enabled, has its turn among the partition pairs, and fewer than
eight requests are in progress, the request at MB_REQ_HEAD is taken behind the others, its head advances, and beside it only traces are written; an unknown opcode
without ORDER is answered with CZ_ERR_MB_OPCODE (0x0100) instead. PING, and how a response is posted (R311, R313,
R318). The command leaves the taken requests; with room in the ring, the slot at MB_RSP_TAIL receives the request's
opcode and tag, the code 0, and chip time in two words, or in the expert form the request's own 14 words; the tail
advances; beside it only the pair's interrupt, and traces, change. A
request of a partition for which no service core holds a window set runs as if Root had loaded one before. -/
def Obligations.RequestsAreTakenAndAnswered : Prop :=
  (∀ (s : State) (p k : Nat) (c : Instr) (op : Nat), s.fw.sets.length = 4 → (c, op) ∈ [(Instr.ping p k, 1),
      (.getVersion p k, 2), (.getInfo p k, 3), (.logLevel p k, 4), (.traceCfg p k, 5), (.traceMark p k, 6),
      (.ctxCreate p k, 0x200), (.ctxDestroy p k, 0x201), (.queueCreate p k, 0x202), (.queueDestroy p k, 0x203),
      (.launch p k, 0x204), (.ctxSave p k, 0x205), (.ctxRestore p k, 0x206), (.faultRead p k, 0x207),
      (.faultClear p k, 0x208), (.semSet p k, 0x209), (.stateExport p k, 0x20A), (.stateImport p k, 0x20B),
      (.ownerSet p k, 0x20C), (.groupSet p k, 0x20D), (.pailModeSet p k, 0x20E), (.collCancel p k, 0x20F),
      (.schedCfg p k, 0x210), (.telemetry p k, 0x211)] → exec c s = exec c (s.serving p k op)) ∧
  (∀ (s : State) (p : Nat) (x : Pair) (w : List Word), p < 17 → x = s.pair p → s.cmdUp p = true → x.f Reg.mbStatus 0 0 ≠ 0 →
    x.reg Reg.mbReqHead ≠ x.reg Reg.mbReqTail → x.taken.length + x.rspWait.length < 8 → (p = 0 ∨ s.fw.activate = none) →
    s.pairTurn p = true → (p = 0 ∨ (s.svcCore (p - 1)).isSome = true) →
    ∀ v, v = ({ s with fw := { s.fw with pairTurn := if p = 0 then s.fw.pairTurn else p - 1 } } : State) →
    (∀ t ∈ x.taken, t.stage ≠ rejectedStage) →
    w = (List.range 16).map (fun i => x.reg (Reg.mbReqSlot + 64 * ((x.reg Reg.mbReqHead).toNat % 256) + 4 * i)) →
    (knownOp (rqOp w) = true → ∃ u, exec (.requestTake p) s = .next u ∧
      (v.setPair p { x.setReg Reg.mbReqHead (x.reg Reg.mbReqHead + 1) with taken := x.taken ++ [⟨w, 0, []⟩] }).RecordsOnly u) ∧
    (knownOp (rqOp w) = false → rqOrder w = false → ∃ u, exec (.requestTake p) s = .next (u.mbFinish p x.taken.length 0x100 []) ∧
      (v.setPair p { x.setReg Reg.mbReqHead (x.reg Reg.mbReqHead + 1) with
        taken := x.taken ++ [⟨w, rejectedStage, []⟩] }).RecordsOnly u)) ∧
  (∀ (s : State) (p k : Nat) (t : Taken) (x : Pair) (r : List Word) (o : Nat), s.InOrder p k 1 0 t → x = s.pair p →
    (∀ c ∈ x.taken, c.stage ≠ rejectedStage) → x.rspWait = [] → x.rspFull = false →
    r = (if rqExpert t.words = true then t.words.drop 2 else [BitVec.ofNat 32 s.time, BitVec.ofNat 32 (s.time / 2 ^ 32)]) →
    o = Reg.mbRspSlot + 64 * ((x.reg Reg.mbRspTail).toNat % 256) →
    ∃ y u, exec (.ping p k) s = .next u ∧ (s.setPair p y).RecordsOnly u ∧ y.taken = listDrop1 x.taken k ∧ y.rspWait = [] ∧
      y.reg o = t.words.getD 0 0 ∧ y.reg (o + 4) = 0 ∧ (∀ i, i < 14 → y.reg (o + 8 + 4 * i) = r.getD i 0) ∧
      y.reg Reg.mbRspTail = x.reg Reg.mbRspTail + 1 ∧
      (∀ q, q ≠ Reg.mbRspTail → (q < o ∨ o + 64 ≤ q) → y.reg q = x.reg q))

/-- BOOT_GO (R302 to R305). A boot runs through its checks in order: a Root image that fails leaves STAGE 15 and its code;
a Service image that fails after it does the same; with both in order the pairs report the versions, Service runs, the
bundle is kept, STAGE is 4 and the first of the rails that Root starts is under way. Each stage may print its line. Everything
else stays. A bundle of more than 32 MiB fails with 0x0B00 (the model's choice, log 85). -/
def Obligations.BootRunsTheChain : Prop :=
  ∀ (s : State) (v : Word) (b img : List Byte) (x : Pair), s.hostUp = true → s.mgmt.scan = false → x = s.pair 0 →
    (s.bootStage = 0 ∨ s.bootStage = 15) → bit v 0 = true → img = svcImage b →
    b = memRead s.hostMem ((x.reg Reg.mbBootAddrLo).toNat + 2 ^ 32 * (x.reg Reg.mbBootAddrHi).toNat) (x.reg Reg.mbBootLen).toNat →
    (∀ c, (2 ^ 25 < (x.reg Reg.mbBootLen).toNat ∧ c = 0xB00) ∨
        ((x.reg Reg.mbBootLen).toNat ≤ 2 ^ 25 ∧ c = imgCheck 1 s.fw.svnRoot none b ∧ c ≠ 0) →
      ∃ y con k, exec (.bootGo .pf v) s = .next { s.setPair 0 y with console := con, freeCount := k } ∧
      y.f Reg.mbBootStatus 3 0 = 15 ∧ y.f Reg.mbBootStatus 31 16 = c ∧ ∀ o, o ≠ Reg.mbBootStatus → y.reg o = x.reg o) ∧
    ((x.reg Reg.mbBootLen).toNat ≤ 2 ^ 25 → imgCheck 1 s.fw.svnRoot none b = 0 → ∀ c, c = imgCheck 2 s.fw.svnSvc (some (imgIface b / 2 ^ 16)) img →
      (c ≠ 0 → ∃ u, exec (.bootGo .pf v) s = .next u ∧ u.bootStage = 15 ∧ (u.pair 0).f Reg.mbBootStatus 31 16 = c ∧
        u = { s with pairs := u.pairs, console := u.console, freeCount := u.freeCount }) ∧
      (c = 0 → ∃ u, exec (.bootGo .pf v) s = .next u ∧ u.bootStage = 4 ∧ (u.pair 0).f Reg.mbBootStatus 31 16 = 0 ∧
        (∀ p, p < 17 → (u.pair p).reg Reg.mbFwVer = BitVec.ofNat 32 (imgIface b) ∧
          (u.pair p).reg Reg.mbRootVer = BitVec.ofNat 32 (imgVer b) ∧ (u.pair p).reg Reg.mbSvcVer = BitVec.ofNat 32 (imgVer img) ∧
          (u.pair p).f Reg.mbStatus 1 1 = 1) ∧
        u.reg Reg.capStart = 3 ∧ (∀ o, o ≠ Reg.capStart → u.reg o = s.reg o) ∧
        u.fw = { s.fw with
          kept := b, rootRun := imgPart b, svcRun := imgPart img, rootNext := false, rootSec := imgSec b, rootSlot := imgSlot b, svcSec := imgSec img, svcSlot := imgSlot img } ∧
        u = { s with pairs := u.pairs, chip := u.chip, fw := u.fw, console := u.console, freeCount := u.freeCount }))

/-- SVC_WINDOW, SVC_WATCHDOG, SVC_TRAP, SVC_RESTART and ROOT_LOCKSTEP (R300, R301). A Service core that fails stops
Service: every pair reads SVC_UP = 0 and of the commands of the partition pairs only LAUNCHes stay, no
core holds a window set; a restart sets
SVC_UP again and otherwise only writes records. When Root fails, FAULT_N is asserted, every pair reads ROOT_FAIL = 1,
the cause is kept, and every queue of every tile stops. -/
def Obligations.ServiceAndRootFail : Prop :=
  (∀ (s : State) (c : Instr) (core : Nat), s.rootUp = true → s.fw.down = false → core < 4 →
    (c = .svcWindow core ∨ c = .svcWatchdog core ∨ c = .svcTrap core) →
    ∃ u, exec c s = .next u ∧ u.fw = { s.fw with down := true, sets := List.replicate 4 none } ∧ (∀ p, p < 17 → (u.pair p).f Reg.mbStatus 1 1 = 0) ∧
      (∀ n, n < 16 → (u.pair (n + 1)).taken = (s.pair (n + 1)).taken.filter (fun t => rqOp t.words == 0x204)) ∧
      u.parts = s.parts ∧ u.mem = s.mem ∧ u.chip = s.chip) ∧
  (∀ (s : State), s.rootUp = true → s.fw.down = true → s.fw.activate = none → ∃ u, exec .svcRestart s = .next u ∧
    ({ s.eachPair (fun p => p.setF Reg.mbStatus 1 1 1) with
      fw := { s.fw with down := false, svcRun := imgPart (svcImage s.fw.kept) } } : State).RecordsOnly u) ∧
  (∀ (s : State), s.rootUp = true → s.f Reg.capAonCause 31 31 = 0 → ∃ u, exec .rootLockstep s = .next u ∧
    u.power.faultN = true ∧ u.reg Reg.capAonCause = BitVec.ofNat 32 (0x0114 + 2 ^ 16 * 0x7FF + 2 ^ 31) ∧
    (∀ p, p < 17 → (u.pair p).f Reg.mbStatus 2 2 = 1) ∧ (∀ t, t < 1152 → (u.tile t).f Reg.ladleQctl 3 0 = 15) ∧
    (∀ t o, o ≠ Reg.ladleQctl → (u.tile t).reg o = (s.tile t).reg o) ∧ u.mem = s.mem)

/-- GET_VERSION, GET_INFO, LOG_LEVEL, TRACE_CFG, TRACE_MARK and TELEMETRY (R318, R327, R328, R433). Each that is in order
with legal parameters responds with code 0 and the results Table 11.5 gives, and changes what it configures or the
host memory it writes, nothing else. On pair 0 the unit mask and the free context slots of GET_INFO are free values, and
on another pair the slots counted are the eight of R322 (log 97: the model's reading of Table 11.5). -/
def Obligations.RequestsOfEveryPairAct : Prop :=
  ∀ (s : State) (p k : Nat) (t : Taken) (w : List Word) (x : Pair), w = t.words → x = s.pair p →
    (s.InOrder p k 2 0 t → exec (.getVersion p k) s = .next (s.mbFinish p k 0
      ([x.reg Reg.mbFwVer, x.reg Reg.mbRootVer, x.reg Reg.mbSvcVer, BitVec.ofNat 32 Config.romVersion] ++
        if rqExpert w = true then [w32 s.fw.rootSec, w32 s.fw.svcSec, w32 s.fw.rootSlot, w32 s.fw.svcSlot] else []))) ∧
    (s.InOrder p k 3 0 t → rqExpert w = false →
      (p = 0 → ∃ a b u, s.RecordsOnly u ∧ exec (.getInfo p k) s = .next (u.mbFinish p k 0 [w32 s.chipId, 31, a, b])) ∧
      (p ≠ 0 → exec (.getInfo p k) s = .next (s.mbFinish p k 0 [w32 s.chipId, w32 (p - 1),
        w32 ((s.part (p - 1)).f Reg.mbPartCfg 17 0), w32 (s.sys (p - 1)).svc.freeSlotCount]))) ∧
    (s.InOrder p k 3 0 t → rqExpert w = true → 1 ≤ par w 1 → par w 1 ≤ 24 → par w 0 + par w 1 ≤ 1152 →
      (p = 0 ∨ ∀ i, i < par w 1 → s.ownsTile (p - 1) (par w 0 + i) = true) → exec (.getInfo p k) s = .next (s.mbFinish p k 0
        (halfWords ((List.range (par w 1)).map (fun i => s.railMv (par w 0 + i) s.mhzNow))))) ∧
    (s.InOrder p k 4 0 t → (∀ v ∈ levelsOf w, v ≤ 4) → ∃ y, exec (.logLevel p k) s = .next ((s.setPair p y).mbFinish p k 0 []) ∧
      (∀ i, i < 16 → tabGet natD y.logLevel i = if rqExpert w = true then par64 w 0 / 16 ^ i % 16 else par w 0) ∧
      y = { x with logLevel := y.logLevel }) ∧
    (s.InOrder p k 5 0 t → (rqExpert w = true ∨ par w 0 ≤ 255 ∧ par w 1 ≤ 1) → (∃ i, i ≤ 10 ∧ traceSize w = 2 ^ (16 + i)) →
      exec (.traceCfg p k) s = .next ((s.setPair p { x with
        trace := ⟨tracePoints w x.trace.points, traceAddr w, traceSize w⟩ }).mbFinish p k 0 [])) ∧
    (s.InOrder p k 6 0 t → 0xF0 ≤ par w 0 → par w 0 ≤ 0xFF →
      (∃ u, s.RecordsOnly u ∧ exec (.traceMark p k) s = .next (u.mbFinish p k 0 [])) ∧
      (p = 0 → s.hostUp = true → x.trace.size ≠ 0 → bit x.trace.points (par w 0) = true → exec (.traceMark p k) s =
        .next ({ s.setPair 0 (x.setReg Reg.mbTraceWr (x.reg Reg.mbTraceWr + 1)) with
          hostMem := memWrite s.hostMem (x.trace.addr + 16 * (x.reg Reg.mbTraceWr).toNat % x.trace.size)
            (bytesOf 16 (s.time % 2 ^ 48 + 2 ^ 48 * par w 0 + 2 ^ 64 * par64 w 1)) }.mbFinish p k 0 []))) ∧
    (s.InOrder p k 0x211 0 t → s.hostUp = true → (rqExpert w = true → 1 ≤ par w 3 ∧ par w 2 + par w 3 ≤ 1152 ∧
        (p = 0 ∨ ∀ i, i < par w 3 → s.ownsTile (p - 1) (par w 2 + i) = true)) →
      ∀ b, b = s.telemetryBytes p (s.telemetryTiles p w) → exec (.telemetry p k) s =
        .next ({ s with hostMem := memWrite s.hostMem (par64 w 0) b }.mbFinish p k 0 [w32 b.length]))

/-- POWER_LIMIT, BUDGET_SOURCE, FABRIC_SET, PORT_SET, COLL_CFG and KEY_LOAD (R295, R318, R319, R341, R380). The first two
write their fields and the budget is recomputed; FABRIC_SET disables the ports, waits until no tag is held, writes the
fields and enables the ports that were on; PORT_SET enables the ports of its mask and disables the others; COLL_CFG
writes the reservation, and in its expert form the quotas; KEY_LOAD fills the slot with the unwrapped key. -/
def Obligations.RootCommandsConfigureTheChip : Prop :=
  ∀ (s : State) (p k : Nat) (t : Taken) (w : List Word), w = t.words →
    (s.InOrder p k 0x105 1 t → par w 0 ≤ 1023 → (rqExpert w = true → 200 ≤ par w 1 ∧ par w 1 ≤ 1600 ∧ 900 ≤ par w 2 ∧
        par w 2 ≤ 1050 ∧ par w 3 ≤ 100) → ∀ u v, u = s.setF Reg.capBudgetReq 9 0 (par w 0) →
      v = (if rqExpert w = true then ((u.setF Reg.capTileLimit 10 0 (par w 1)).setF Reg.capEnvelope 10 0 (par w 2)).setF
        Reg.capEnvelope 22 16 (par w 3) else u).retarget.alertSync →
      exec (.powerLimit p k) s = .next (v.mbFinish p k 0 [w32 (v.f Reg.capBudgetStat 9 0)])) ∧
    (s.InOrder p k 0x106 1 t → par w 0 ≤ 2 → (rqExpert w = true → par w 1 ≤ 1023 ∧ par w 2 ≤ 1023 ∧ par w 3 ≤ 65535) →
      ∀ u, u = s.setF Reg.capBudgetCfg 1 0 (par w 0) → exec (.budgetSource p k) s = .next (State.mbFinish (State.alertSync (State.retarget
        (if rqExpert w = true then ((u.setF Reg.capBudgetCfg 13 4 (par w 1)).setF Reg.capBudgetReq 25 16 (par w 2)).setF
          Reg.capBudgetCfg 31 16 (par w 3) else u))) p k 0 [])) ∧
    (s.InOrder p k 0x107 1 t → par w 0 < 2 ^ 18 → outside (par w 1) 0x73F3F3F = false →
      (if rqExpert w = true then par w 2 % 8 ≤ 5 ∧ outside (par w 2) 0x17 = false ∧ outside (par w 3) 0xFF = false ∧ par w 4 ≤ 20480
        else par w 2 ≤ 5) →
      exec (.fabricSet p k) s = .next (((List.range portCount).foldl State.portDisable s).stay p k 1 [s.enabledPorts])) ∧
    (s.Started p k 0x107 1 t → (s.f Reg.fabTags 14 0 ≠ 0 → exec (.fabricSet p k) s = .next s) ∧
      (s.f Reg.fabTags 14 0 = 0 → exec (.fabricSet p k) s = .next ((((List.range portCount).filter (fun i =>
        (t.aux.getD 0 0).testBit i)).foldl State.portEnable (s.fabricWords w)).mbFinish p k 0 []))) ∧
    (s.InOrder p k 0x108 1 t → rqExpert w = false → par w 0 < 4096 → ∀ u, u = (List.range portCount).foldl (fun u i =>
        if (par w 0).testBit i = true then u.portEnable i else u.portDisable i) s →
      exec (.portSet p k) s = .next (u.mbFinish p k 0 (res64 (((List.range portCount).map (fun i => (u.port i).st * 8 ^ i)).sum)))) ∧
    (s.InOrder p k 0x109 1 t →
      (rqExpert w = false → par w 0 ≤ 3 → par w 1 ≤ 8 → exec (.collCfg p k) s =
        .next ((s.setReg Reg.collDenseCfg (w32 (par w 0 + 16 * par w 1))).mbFinish p k 0 [])) ∧
      (rqExpert w = true → outside (par w 0) 0xF3 = false → par w 0 / 16 % 16 ≤ 8 → (∀ n, n < 16 → quotaOf w n ≤ 32) →
        ∃ u : State, exec (.collCfg p k) s = .next (u.mbFinish p k 0 []) ∧ u.reg Reg.collDenseCfg = w32 (par w 0) ∧
          (∀ n, n < 16 → u.reg (Reg.collQuota + 4 * n) = w32 (quotaOf w n)) ∧
          (∀ o, o ≠ Reg.collDenseCfg → (o < Reg.collQuota ∨ Reg.collQuota + 64 ≤ o) → u.reg o = s.reg o) ∧ u = { s with chip := u.chip })) ∧
    (s.InOrder p k 0x104 1 t → ∀ n i key x, n = par w 0 → i = par w 1 → x = s.part n → n < 16 → i < 4 →
      (rqExpert w = true → par w 10 ≤ 1) → s.partState n = 1 →
      sivOpen Config.kek ((List.range 8).flatMap (fun j => bytesOf 4 (par w (2 + j)))) = some key →
      exec (.keyLoad p k) s = .next ((s.setPart n { (x.setF Reg.mbPartKeys i i 1).setF Reg.mbPartKeys (8 + i) (8 + i)
          (if rqExpert w = true then par w 10 else 1) with keys := tabSet keyD x.keys i key }).mbFinish p k 0 []))

/-- FW_STAGE, FW_ACTIVATE, NV_READ, DEVICE_RESET, POWER_DOWN and PF_FLR (R183, R306, R318, R366, R391, R411). A bundle
whose Service image passes its checks is staged, and one that fails leaves what was staged; activation waits until
only LAUNCHes are in progress and then replaces Service; the thermal-cycle record is copied to the host; a device
reset is announced and, once its response stands, done; a power-down stops every queue at a command boundary,
then lets the traffic drain, writes the record and lets the rails fall. -/
def Obligations.FirmwareCommandsAct : Prop :=
  ∀ (s : State) (p k : Nat) (t : Taken) (w : List Word), w = t.words →
    (s.InOrder p k 0x10A 1 t → ∀ b c, b = s.stagedBundle w → c = (rqExpert w && par w 3 == 1) → (rqExpert w = true → par w 3 ≤ 1) →
      (s.stageCode w ≠ 0 → exec (.fwStage p k) s = .next (s.mbFinish p k (s.stageCode w) [])) ∧
      (s.stageCode w = 0 → ∃ u : State, exec (.fwStage p k) s = .next (u.mbFinish p k 0 [w32 (imgVer (svcImage b))]) ∧
        State.RecordsOnly { s with fw := { s.fw with
          staged := some b, svnSvc := if c = true then max s.fw.svnSvc (min 64 (imgSec (svcImage b))) else s.fw.svnSvc } } u)) ∧
    (s.InOrder p k 0x10B 1 t → (rqExpert w = true → par w 0 ≤ 1) →
      (s.fw.staged = none → exec (.fwActivate p k) s = .next (s.mbFinish p k 0x103 [])) ∧
      (s.fw.staged ≠ none → exec (.fwActivate p k) s =
        .next ({ s with fw := { s.fw with activate := some w, activateAt := s.time } }.stay p k 1 []))) ∧
    (s.Started p k 0x10B 1 t → s.fw.down = false →
      (s.onlyLaunches = false → exec (.fwActivate p k) s = .next s) ∧
      (s.onlyLaunches = true → exec (.fwActivate p k) s = .next ((s.swapService (rqExpert w && par w 0 == 1)).stay p k 2 []))) ∧
    (s.InOrder p k 0x10C 1 t → s.hostUp = true → par w 0 = 3 → par w 1 = 0 →
      ∀ r, r = (s.fw.nvCycles.getD 0 []).flatMap (fun x => bytesOf 4 x.toNat) → exec (.nvRead p k) s =
        .next ({ s with freeCount := s.freeCount + 1, hostMem := memWrite s.hostMem (par64 w 2) r }.mbFinish p k 0 [w32 r.length])) ∧
    (s.fw.deviceReset = none → s.InOrder p k 0x10D 1 t → (rqExpert w = true → par w 0 ≤ 1) →
      ∃ u : State, exec (.deviceReset p k) s = .next (u.mbFinish p k 0 []) ∧
        State.RecordsOnly { s with fw := { s.fw with deviceReset := some (rqExpert w && par w 0 == 1) } } u) ∧
    (∀ new, s.fw.deviceReset = some new → exec (.deviceReset p k) s = .next (s.warmReset new)) ∧
    (s.hostUp = true → s.fw.kept = [] → ∃ u : State, exec .pfFlr s = .next u ∧ u.power.stage = .rom ∧ u.bootStage = 0 ∧ u.pairs = [] ∧ u.parts = [] ∧
      u.timeAcc = s.timeAcc ∧ u.ticks = s.ticks ∧ u.mem = s.mem ∧ u.reg Reg.capAonCause = s.reg Reg.capAonCause ∧
      ∀ t, (u.tile t).regs = [] ∧ (u.tile t).acc = [] ∧ (u.tile t).scratch = []) ∧
    (s.fw.powerDown ≠ 3 →
      (s.InOrder p k 0x10E 1 t → ∃ u : State, exec (.powerDown p k) s = .next (u.stay p k 1 []) ∧ u.fw = { s.fw with powerDown := 1 } ∧
        (∀ i, i < 1152 → (u.tile i).f Reg.ladleQctl 3 0 = 15)) ∧
      (s.Started p k 0x10E 1 t → s.fw.powerDown = 1 →
        ((∃ i, i < 1152 ∧ (s.tile i).atBoundary = false) → exec (.powerDown p k) s = .next s) ∧
        ((∀ i, i < 1152 → (s.tile i).atBoundary = true) → ∀ u, u = (List.range 16).foldl (fun u n => u.ingressFlush n) s →
          exec (.powerDown p k) s = .next { u with fw := { u.fw with powerDown := 2 } })) ∧
      (s.Started p k 0x10E 1 t → s.fw.powerDown = 2 → ((List.range 16).all s.trafficDone = false ∨ s.tags ≠ [] →
        exec (.powerDown p k) s = .next s)) ∧
      (s.Started p k 0x10E 1 t → s.fw.powerDown = 2 → (List.range 16).all s.trafficDone = true → s.tags = [] → ∃ r, exec (.powerDown p k) s =
        .next ({ s with fw := { s.fw with powerDown := 3, nvCycles := (r :: s.fw.nvCycles).take 2, nvWrites := s.fw.nvWrites + 1 } }.mbFinish p k 0 []))) ∧
    (s.fw.powerDown = 3 → ∃ u : State, exec (.powerDown p k) s = .next u ∧ u.power.stage = .held ∧ u.power.meshOn = false ∧ u.timeAcc = s.timeAcc)

/-- PART_CREATE, PART_DESTROY, PART_RESET, PART_RESET_ZEROING_DONE, PART_RESET_TIMEOUT, PART_BROKEN, WINDOW_SET and VF_FLR
(R316, R318, R330 to R336, R340, R343, R344). A created partition is ACTIVE with the units asked for, no windows and
no keys, and its pair is READY; a reset begins, waits until its traffic has drained, zeroes its units and ends with
the partition ACTIVE, or FREE after PART_DESTROY; one that takes over 1 s leaves it BROKEN. A window applies at once,
and its response follows the end of what was checked before. -/
def Obligations.PartitionsBeginAndEnd : Prop :=
  (∀ (s : State) (p k : Nat) (t : Taken) (w : List Word) (n : Nat), w = t.words → n = par w 0 → n < 16 →
    (s.InOrder p k 0x100 1 t → par w 2 ≤ 3 → s.partState n = 0 → s.unitsBad w = false → ∀ m, m = unitMask (s.askedUnits w) →
      ∃ u : State, exec (.partCreate p k) s = .next (u.mbFinish p k 0 [w32 m]) ∧
        (u.part n).reg Reg.mbPartCfg = BitVec.ofNat 32 (m + 2 ^ 24 * par w 2 + 2 ^ 28) ∧ (u.part n).keys = [] ∧ (u.part n).f Reg.capPartPhase 2 0 = 4 ∧
        (∀ o, o ≠ Reg.mbPartCfg → o ≠ Reg.capPartPhase → (u.part n).reg o = Part.reset.reg o) ∧ (∀ j, j ≠ n → u.part j = s.part j) ∧
        (u.pair (n + 1)).f Reg.mbStatus 0 0 = 1 ∧ u = { s with parts := u.parts, partSys := u.partSys, pairs := u.pairs }) ∧
    (s.InOrder p k 0x102 1 t → (rqExpert w = true → par w 1 ≤ 1) → s.partState n = 1 → exec (.partReset p k) s =
      .next ((s.resetStart n (rqExpert w && par w 1 == 1) false w).stay p k 1 [])) ∧
    (s.InOrder p k 0x101 1 t → s.partState n ≠ 0 → exec (.partDestroy p k) s = .next ((s.resetStart n false true w).stay p k 1 [])) ∧
    (∀ c op, (c = .partReset p k ∧ op = 0x102 ∨ c = .partDestroy p k ∧ op = 0x101) → s.Started p k op 1 t →
      (s.trafficDone n = false → exec c s = .next s) ∧
      ((s.sys n).rst.step = 1 → s.trafficDone n = true → exec c s = .next (s.resetZeroes n))) ∧
    (∀ i base size acc prio, i = par w 1 → base = wBase w → size = wSize w → acc = par w 6 → prio = wPrio w →
      i < 16 → base % 2 ^ 16 = 0 → size % 2 ^ 16 = 0 → acc < 64 → base < 2 ^ 58 → base + size ≤ 2 ^ 58 → prio ≤ 3 → s.partState n = 1 →
      (rqExpert w = true ∨ (s.part n).windowClash i base size = false) → s.windowOutside n base size = false →
      s.InOrder p k 0x103 1 t → ∀ u, u = s.setPart n ((s.part n).setWindow i base size acc prio) →
        (s.checkedWork n = [] → exec (.windowSet p k) s = .next (u.mbFinish p k 0 [])) ∧
        (s.checkedWork n ≠ [] → exec (.windowSet p k) s = .next (u.stay p k 1 (s.checkedWork n)))) ∧
    (s.Started p k 0x103 1 t → (∀ x ∈ s.checkedWork n, x ∉ t.aux) → exec (.windowSet p k) s = .next (s.mbFinish p k 0 []))) ∧
  (∀ (s : State) (n : Nat) (r : ResetRun), n < 16 → r = (s.sys n).rst →
    (r.step = 2 → s.partState n = 2 → ∃ u, (s.resetUnits n r.keepVat).RecordsOnly u ∧
      (r.destroy = true → exec (.partResetZeroingDone n) s =
        .next (((u.setPart n .reset).modPair (n + 1) (fun x => x.setF Reg.mbStatus 0 0 0)).resetResponds n 0 [])) ∧
      (r.destroy = false → ∃ v us, State.RecordsOnly ((u.modPart n (fun x => x.setF Reg.mbPartCfg 30 28 1)).phaseIdle n) v ∧
        exec (.partResetZeroingDone n) s = .next (v.resetResponds n 0 [us]))) ∧
    (r.step ≠ 0 → r.logged = false → r.bound < (s.time + 2 ^ 64 - r.start) % 2 ^ 64 → ∃ u : State, exec (.partResetTimeout n) s = .next u ∧
      (s.modSys n (fun x => { x with rst := { x.rst with logged := true } })).RecordsOnly u) ∧
    (r.step ≠ 0 → 1000000000 ≤ (s.time + 2 ^ 64 - r.start) % 2 ^ 64 → exec (.partBroken n) s =
      .next (((s.modSys n (fun x => { x with svc := .reset, rst := .none })).modPart n (fun x => x.setF Reg.mbPartCfg 30 28 3)).resetResponds n 0x604 [])) ∧
    (s.hostUp = true → ∃ u : State, exec (.vfFlr n) s = .next u ∧ ((s.abortPair (n + 1) false).modPair (n + 1) Pair.flr).RecordsOnly u))

/-- CTX_CREATE, CTX_DESTROY, QUEUE_CREATE, QUEUE_DESTROY, CTX_SAVE and CTX_RESTORE (R318, R320, R322, R323). A context
takes a free number and is placed as soon as it fits; it goes with its queues, when no launch is on it. A queue takes
a free number on an existing context. A save stops the context's queues and, once every tile is at rest, writes the
images into a free slot; a restore places the context at its origin again, or at the one given. -/
def Obligations.ContextsAndQueues : Prop :=
  ∀ (s : State) (p k : Nat) (t : Taken) (w : List Word) (n c : Nat), w = t.words → n = p - 1 →
    (s.InOrder p k 0x200 2 t → c = s.pick (freeNumbers ((s.ctxsOf n).map (·.1)) 32) →
      1 ≤ par w 0 → par w 0 ≤ 36 → 1 ≤ par w 1 → par w 1 ≤ 32 → par w 2 ≤ 3 → par w 3 ≤ 3 → par w 4 ≤ 248 →
      originOff (par w 0) (par w 1) (fixedOrigin w 5) = false → s.originForeign n (par w 0) (par w 1) (fixedOrigin w 5) = false →
      (s.sys n).svc.ctxCount < 32 → ∃ u, (s.setSvcCtx n c (some (makeCtx w))).RecordsOnly u ∧ exec (.ctxCreate p k) s =
        .next ((u.tryPlace n c (fixedOrigin w 5)).placedResponse p k c (fun o => [w32 c, w32 o]))) ∧
    (c = par w 0 → c < 32 → ∀ x, s.svcCtx n c = some x →
      (s.InOrder p k 0x201 2 t → x.launch = none → x.stopping = false → s.launchesOn p c = [] → ∃ u, exec (.ctxDestroy p k) s =
        .next (u.mbFinish p k 0 []) ∧ ((s.setSvcCtx n c none).modSvc n (fun v => { v with queues := v.queues.filter (fun q =>
          match q.2 with | some y => y.ctx != c | none => false) })).RecordsOnly u) ∧
      (s.InOrder p k 0x202 2 t → par w 1 ≤ 3 → (s.queuesOf n).length < 64 → ∀ q, q = s.pick (freeNumbers ((s.queuesOf n).map (·.1)) 64) →
        exec (.queueCreate p k) s = .next ((s.drawn.modSvc n (fun v => { v with
          queues := tabSet launchQD v.queues q (some ⟨c, par w 1⟩) })).mbFinish p k 0 [w32 q])) ∧
      (x.stopping = false → ∀ o, x.origin = some o → s.InOrder p k 0x205 2 t →
        (if rqExpert w = true then par w 1 ≤ 7 ∧ par w 1 ∈ s.freeSlots n x.tiles else s.freeSlots n x.tiles ≠ []) →
        exec (.ctxSave p k) s = .next (((s.stopTiles x.tiles 15).1.modSvcCtx n c (fun y => { y with stopping := true })).stay p k 1
          (s.stopTiles x.tiles 15).2)) ∧
      (s.Started p k 0x205 1 t →
        (x.tiles.all (s.tileAtRest n) = false → exec (.ctxSave p k) s = .next s) ∧
        (x.tiles.all (s.tileAtRest n) = true → ∀ slot, slot = (if rqExpert w = true then par w 1 else s.pick (s.freeSlots n x.tiles)) →
          exec (.ctxSave p k) s = .next ((s.drawn.saveCtx n c slot t.aux false).mbFinish p k 0 [w32 slot]))) ∧
      (∀ slot old o, x.saved = some (slot, old) → o = (if rqExpert w = true then par w 1 else old) → s.InOrder p k 0x206 2 t →
        (rqExpert w = true → o < 1152 ∧ originOff x.rows x.cols (some o) = false ∧ s.originForeign n x.rows x.cols (some o) = false) →
        exec (.ctxRestore p k) s = .next (((s.modSvcCtx n c (fun y => { y with waiting := true })).tryPlace n c (some o)).placedResponse p k c
          (fun o => [w32 o])))) ∧
    (s.InOrder p k 0x203 2 t → par w 0 < 64 → s.launchQ n (par w 0) ≠ none → exec (.queueDestroy p k) s =
      .next ((s.modSvc n (fun v => { v with queues := tabSet launchQD v.queues (par w 0) none })).mbFinish p k 0 []))

/-- LAUNCH, LAUNCH_COMPLETE, SCHED_SLICE and ROTATION_PERIOD (R320, R321, R324, R325). A launch waits for its context's
placement and its turn, then starts the tiles from the image, and ends, once every tile has exited and every engine is
idle, with the number of nonzero exits, the least such tile, its code and the mesh cycles. At a slice the first
waiting context that fits, or for which others can give way, is placed or has them give way; a rotation concerns contexts that ask for it, between launches. -/
def Obligations.LaunchesAndTurns : Prop :=
  (∀ (s : State) (p k : Nat) (t : Taken) (w : List Word) (n c : Nat) (q : LaunchQ) (u : State), w = t.words → n = p - 1 → c = q.ctx →
    s.launchQ n (par w 0) = some q → par w 0 < 64 → laLen w ≤ 0x9F000 → laPc w < 2 ^ 20 → laPc w % 4 = 0 → s.imageOff n w = false →
    s.InOrder p k 0x204 2 t → u = s.stay p k 1 [c] →
      (∀ x, u.svcCtx n c = some x → (x.origin = none ∨ x.launch ≠ none ∨ x.stopping = true ∨ u.launchTurn p c k = false) →
        exec (.launch p k) s = .next u) ∧
      (∀ x o, u.svcCtx n c = some x → x.origin = some o → x.launch = none → x.stopping = false → u.launchTurn p c k = true →
        (rqExpert w = true ∨ s.hostUp = true) → exec (.launch p k) s = .next (u.launchStart p k c o x w))) ∧
  (∀ (s : State) (n c k : Nat) (x : SvcCtx) (l : LaunchRun), n < 16 → s.cmdUp (n + 1) = true → (s.svcCore n).isSome = true → s.svcCtx n c = some x → x.launch = some l →
    x.tiles ≠ [] → (∀ t ∈ x.tiles, tabGet natD l.exits t ≠ 0 ∧ ∀ e, e < 4 → (s.tile t).idle e = true) →
    (s.pair (n + 1)).taken.findIdx? (fun t => rqOp t.words == 0x204 && t.stage == 2 && t.aux.getD 0 0 == c) = some k →
    exec (.launchComplete n c) s = .next ((s.drawn.modSvcCtx n c (fun y => { y with launch := none })).mbFinish (n + 1) k 0
      (s.launchResults x.tiles l))) ∧
  (∀ (s : State) (n c : Nat) (x : SvcCtx), n < 16 → s.partState n = 1 → s.rootUp = true → s.fw.down = false →
    (s.svcCore n).isSome = true →
    (∀ l, l = s.ctxsOf n →
      ((waitingOrder l).find? (fun y => (s.findOrigin n y.1 y.2 y.2.fixed).isSome || (s.originOver n y.2 l).isSome) = some (c, x) →
        (∀ o, s.findOrigin n c x x.fixed = some o → exec (.schedSlice n) s = .next (s.restoreCtx n c o)) ∧
        (∀ o, s.findOrigin n c x x.fixed = none → s.originOver n x l = some o → exec (.schedSlice n) s = .next
          ((l.filter (fun y => y.2.tiles.any (rectTiles o x.rows x.cols).contains)).foldl (fun u y => u.giveWay n y.1) s))) ∧
      ((∀ y ∈ waitingOrder l, s.findOrigin n y.1 y.2 y.2.fixed = none ∧ s.originOver n y.2 l = none) →
        exec (.schedSlice n) s = .next s)) ∧
    ((s.sys n).svc.rotOff = true → exec (.rotationPeriod n) s = .next s) ∧
    ((s.sys n).svc.rotOff = false → s.ctxsOf n = [(c, x)] → s.svcCtx n c = some x → x.stopping = false →
      exec (.rotationPeriod n) s = .next (if x.rotate = true ∧ x.launch = none then s.rotateCtx n c x else s)))

/-- FAULT_READ, FAULT_CLEAR, SEM_SET, OWNER_SET, GROUP_SET, PAIL_MODE_SET, COLL_CANCEL and SCHED_CFG (R110, R153, R204,
R255, R283, R294, R318, R324). Each acts on tiles, shards, groups or units of the partition alone. A write of a
Quiesce field first stops its engine and follows once the engine is quiet; a group slot is written once it is quiet; a
Pail mode once the partition's Ladles are stopped and its regions are quiet. -/
def Obligations.ServiceCommandsAct : Prop :=
  ∀ (s : State) (p k : Nat) (t : Taken) (w : List Word) (n : Nat), w = t.words → n = p - 1 → p ≠ 0 →
    (∀ m, m = askedTiles w → 1 ≤ m → par w 0 + m ≤ 1152 → (∀ i, i < m → s.ownsTile n (par w 0 + i) = true) →
      (s.InOrder p k 0x207 2 t → m ≤ 7 → exec (.faultRead p k) s = .next (s.mbFinish p k 0 ((List.range m).flatMap (fun i =>
        ([Reg.ladleFault, Reg.ladleFaultSeq] ++ if rqExpert w = true then [] else [Reg.rennetFirst, Reg.churnFirst, Reg.skimFirst]).map
          (s.tileWord 1 (par w 0 + i)))))) ∧
      (s.InOrder p k 0x208 2 t → exec (.faultClear p k) s = .next (((List.range m).foldl (fun u i =>
        u.faultClear (.service n) (par w 0 + i) 0x81000000) s).mbFinish p k 0 []))) ∧
    (s.InOrder p k 0x209 2 t → par w 0 < 1152 → s.ownsTile n (par w 0) = true → semBad w = false →
      (rqExpert w = false → exec (.semSet p k) s =
        .next ((s.tilePut (.service n) (par w 0) (Reg.ladleSem + 4 * par w 1) (w32 (par w 2))).mbFinish p k 0 [])) ∧
      (∀ e, quiesceEngine (semOff w) = some e → exec (.semSet p k) s =
        .next ((s.stopTiles [par w 0] (2 ^ e)).1.stay p k 1 (s.stopTiles [par w 0] (2 ^ e)).2))) ∧
    (s.Started p k 0x209 1 t → ∀ e, quiesceEngine (semOff w) = some e →
      ((s.tile (par w 0)).quiet e = false → exec (.semSet p k) s = .next s) ∧
      ((s.tile (par w 0)).quiet e = true → exec (.semSet p k) s =
        .next (((s.tilePut (.service n) (par w 0) (semOff w) (w32 (par w 2))).restoreStops t.aux).mbFinish p k 0 []))) ∧
    (s.InOrder p k 0x20C 2 t → par w 0 + par w 1 ≤ 4096 → (if rqExpert w = true then outside (par w 2) 0x800087FF = false else par w 2 < 1152) →
      s.ownsTile n (ownerEntry w % 2 ^ 11) = true → exec (.ownerSet p k) s = .next (((List.range (par w 1)).foldl (fun u i =>
        u.partWrite n (Reg.churnOwner + 4 * (par w 0 + i)) (w32 (ownerEntry w))) s).mbFinish p k 0 [])) ∧
    (s.InOrder p k 0x20D 2 t → par w 0 < 64 → par w 1 < 64 → par w 2 < 2 ^ 18 → exec (.groupSet p k) s = .next
      (if s.grpQuiet n (par w 0) = true then (s.setPart n ((s.part n).setGroup w)).mbFinish p k 0 [] else s.stay p k 1 [])) ∧
    (∀ c, c = (s.part n).f (Reg.pailMode + 4 * par w 0) 1 0 ^^^ (par w 1 + 2 * par w 2) →
      (s.InOrder p k 0x20E 2 t → par w 0 < 18 → par w 1 ≤ 1 → par w 2 ≤ 1 → s.ownsUnit n (par w 0) = true → exec (.pailModeSet p k) s = .next
        (if c = 0 then s.mbFinish p k 0 [0] else (s.stopTiles (s.tilesOf n) 8).1.stay p k 1 (s.stopTiles (s.tilesOf n) 8).2)) ∧
      (s.Started p k 0x20E 1 t → s.pailQuiet n (par w 0) = true → ∃ us u, s.RecordsOnly u ∧ exec (.pailModeSet p k) s = .next
        (((u.pailModeWrite n (par w 0) (w32 (par w 1 + 2 * par w 2))).restoreStops t.aux).mbFinish p k 0 [w32 us]))) ∧
    (s.InOrder p k 0x20F 2 t → par w 0 < 64 → exec (.collCancel p k) s = .next ((s.collCancel n (par w 0)).mbFinish p k 0 [])) ∧
    (s.InOrder p k 0x210 2 t → (rqExpert w = true → par w 3 ≤ 1) → exec (.schedCfg p k) s = .next ((s.modSvc n (fun v => { v with
      sliceMs := par w 0, rotMs := par w 1, rotThr := par w 2
      rotOff := if rqExpert w = true then par w 3 == 1 else v.rotOff })).mbFinish p k 0 []))

/-- STATE_EXPORT and STATE_IMPORT (R207, R208, R318). An export writes the shard's header and buffers to the host's memory
and responds with the record's size; an import puts the record's buffers, the owner's quarter-0 generator and its
coefficients back and responds with STEP; a record of another format is answered with 0x0274 and leaves everything. -/
def Obligations.OptimiserStateMoves : Prop :=
  ∀ (s : State) (p k : Nat) (t : Taken) (w : List Word), w = t.words → p ≠ 0 → s.hostUp = true →
    (∀ (r : ShardRef) (x : Tile), r = s.shardOf (p - 1) w true → x = s.tile r.tile → r.fault = 0 → s.InOrder p k 0x20A 2 t → exec (.stateExport p k) s =
      .next ({ s with hostMem := memWrite s.hostMem r.buf (r.header x ++ r.bufs.flatMap (fun b : Nat × Nat => x.rdBytes b.1 b.2)) }.mbFinish p k 0 [w32 r.size])) ∧
    (∀ (r : ShardRef) (h : List Byte), r = s.shardOf (p - 1) w false → h = memRead s.hostMem r.buf 64 → r.fault = 0 → s.InOrder p k 0x20B 2 t →
      (recordBad h = false → r.differs h = false → ∃ y, exec (.stateImport p k) s = .next ((s.setTile r.tile y).mbFinish p k 0 (res64 (imgVal h 0x10 8))) ∧
        y.scratch = ((s.tile r.tile).putBufs r.bufs (memRead s.hostMem (r.buf + 64) (r.size - 64))).scratch ∧
        tabGet genD y.gens 0 = BitVec.ofNat 64 (imgVal h 0x20 8) ∧ (∀ q, q ≠ 0 → tabGet genD y.gens q = tabGet genD (s.tile r.tile).gens q) ∧
        y.reg Reg.churnCoefA = w32 (imgVal h 0x28 4) ∧ y.reg Reg.churnCoefB = w32 (imgVal h 0x2C 4) ∧ y.reg Reg.churnCoefC = w32 (imgVal h 0x30 4) ∧
        y.acc = (s.tile r.tile).acc ∧ y.queues = (s.tile r.tile).queues) ∧
      (recordBad h = true → r.differs h = false → exec (.stateImport p k) s = .next (s.mbFinish p k 0x274 [])))

/-- The collective rows but for aborts: COLL_POST, COLL_CONTEXT_GRANT, COLL_SIGNATURE, COLL_COUNTS, COLL_BARRIER_ARRIVAL,
COLL_FRAGMENT, COLL_GRANT and COLL_COMPLETE (R258, R262, R263, R270, R273, R274, R279 to R282). A legal post is copied
with its source and queued, of two posts of one cycle the lower-numbered tile's first, and a full queue stalls the core
or sets OVERRUN; a context takes the first post that may have one; a neighbour's signature is noted, and one that
differs aborts with 0x0510; a rank's count or arrival is noted, held until the member has left ENTRY, and passed on
once; a flit of a fragment is held in its granted slot; grants of a neighbour let fragments to it leave; a collective
without outstanding fragments writes its record and ends. -/
def Obligations.CollectivesRun : Prop :=
  (∀ (s : State) (t n : Nat) (v : Word) (x : Tile) (w : List Word), s.clocked t = true → s.tileOwner t = some n → x = s.tile t →
    s.partState n = 1 → w = (List.range 16).map (fun i => BitVec.ofNat 32 (x.rd32 (fld v 19 0 + 4 * i))) →
    ((s.part n).qLevel < 16 → (x.scrReads [(fld v 19 0, 64)]).2 = false → s.collCheck n (fld v 19 0) w = 0 →
      ∃ u, exec (.collPost (.core t) t v) s = .next u ∧
        (State.groupNext ((s.setTile t (x.scrReads [(fld v 19 0, 64)]).1).modPart n (fun p => { p with
          postQ := insertPost ⟨w, t, s.cyc, false, memRead s.mem (gAddr (coSrc w)) (coSrcBytes w (s.grpRank n (coGroup w)))⟩
            p.postQ })) n (coGroup w)).RecordsOnly u) ∧
    (16 ≤ (s.part n).qLevel →
      exec (.collPost (.core t) t v) s = .next (s.setTile t { x with
        stall := some (.store (BitVec.ofNat 32 (0xF0000000 + Reg.collPost)) 4 v) }) ∧
      (s.hostUp = true → exec (.collPost (.vf n) t v) s = .next (s.setTile t (x.setF Reg.collPostStatus 0 0 1))))) ∧
  (∀ (q p : Post) (l : List Post), insertPost q (p :: l) =
    if p.cyc = q.cyc ∧ q.tile < p.tile then q :: p :: l else p :: insertPost q l) ∧
  (∀ (s : State) (n i : Nat), s.meshUp = true → n < 16 → s.nextPost n = some i → (∀ m, m < 16 → m ≠ n → s.nextPost m = none) →
    exec .collContextGrant s = .next ({ s with freeCount := s.freeCount + 1 }.grantCtx n i)) ∧
  (∀ (s : State) (n g nb : Nat) (x : Signature) (tag : Option DWord), s.meshUp = true → n < 16 → g < 64 → s.partState n = 1 →
    (s.ctx n g = none → exec (.collSignature n g nb x tag) s = .next (s.setHeld n g { s.held n g with
      sigs := (s.held n g).sigs.filter (fun h => h.1 != nb) ++ [(nb, x, tag == (s.part n).tagSig x)] })) ∧
    (∀ c u, s.ctx n g = some c → c.st = 2 → nb ∉ c.matched →
      u = s.setCtx n g (some { c with jflags := c.jflags ||| x.jflags, heard := s.engineTime, matched := c.matched ++ [nb] }) →
      exec (.collSignature n g nb x tag) s = .next (State.leaveEntry
        (if tag = (s.part n).tagSig x ∧ sigMatch (s.signature n g c) x = true then u else u.collCause n g 0x510) n g))) ∧
  (∀ (s : State) (n g : Nat) (c : Ctx), s.ctx n g = some c →
    (∀ rank k jf d u, rank < s.grpSize n g → tabGet natD c.counts rank = 0 →
      d = { c with counts := tabSet natD c.counts rank (k + 1), heard := s.engineTime, jflags := c.jflags ||| jf } →
      u = s.setCtx n g (some d) →
      (c.st = 2 → exec (.collCounts n g ⟨c.seq, rank, jf⟩ k) s = .next u) ∧
      (c.st = 3 → exec (.collCounts n g ⟨c.seq, rank, jf⟩ k) s = .next
        (((u.grpNbs n g).foldl (fun u nb => u.sendNb nb (.counts n g c.seq rank k d.jflags)) u).countsDone n g))) ∧
    (∀ rank jf d u v, coOp c.words = 6 → rank < s.grpSize n g → rank ∉ c.ranks →
      d = { c with ranks := c.ranks ++ [rank], heard := s.engineTime, jflags := c.jflags ||| jf } → u = s.setCtx n g (some d) →
      v = (u.grpNbs n g).foldl (fun u nb => u.sendNb nb (.barrier n g c.seq rank d.jflags)) u →
      (c.st = 2 → exec (.collBarrierArrival n g ⟨c.seq, rank, jf⟩) s = .next u) ∧
      (c.st = 4 → (∃ q, q < s.grpSize n g ∧ q ∉ d.ranks) → exec (.collBarrierArrival n g ⟨c.seq, rank, jf⟩) s = .next v) ∧
      (c.st = 4 → (∀ q, q < s.grpSize n g → q ∈ d.ranks) →
        exec (.collBarrierArrival n g ⟨c.seq, rank, jf⟩) s = .next (v.finish n g))) ∧
    (∀ slot idx pl off len jf sc data u old, s.meshUp = true → tabGet slotD s.pool slot = some u → u.part = n → u.group = g → u.live = true →
      c.st = 4 → s.partState n = 1 → old = (c.fragsIn.find? (fun f => f.slot == slot)).getD ⟨slot, none, []⟩ →
      exec (.collFragment slot idx pl off len jf sc data) s = .next ((s.setCtx n g (some { c with
        fragsIn := c.fragsIn.filter (fun f => f.slot != slot) ++ [{ old with
          hdr := if idx = 0 then some ⟨pl.step, pl.axis, pl.ring, off, len, jf, sc⟩ else old.hdr
          flits := old.flits.filter (fun x => x.1 != idx) ++ [(idx, data.take (if idx = 0 then 224 else 240))] }]
        heard := s.engineTime })).collGo n g)) ∧
    (∀ nb l, 2 ≤ c.st → c.st ≤ 5 → exec (.collGrant n g ⟨nb, l⟩) s =
      .next (((s.ackSlots n g nb l).setCtx n g (some { c with
        slots := c.slots ++ l.map (fun k => (nb, k)), heard := s.engineTime })).pump n g)) ∧
    (c.st = 5 → c.outQ = [] → s.collTagged n g = false → s.collWaits n g c = false → cw c.words 7 22 22 = 0 →
      cw c.words 7 23 23 = 0 → (s.part n).queuedFor g = [] → ∀ u, s.collWrite (coRecord c.words) (s.collRecord n g c 0 0xFFFFFFFF
        ((List.range (s.grpSize n g)).map (coWritten c.words (s.grpSize n g) c.count))) = (u, false) →
      ∃ v, exec (.collComplete n g) s = .next v ∧ v.ctx n g = none ∧
        (v.part n).reg (Reg.collGrpSeq + 16 * g) = BitVec.ofNat 32 (c.seq + 1) ∧ v.mem = u.mem ∧ v.tiles = u.tiles))

/-- The state at power-on (R17, R196): memories are in canonical form, no command waits, no rail is up, every partition is
FREE, and the registers whose reset values rules state hold them: the Churn's coefficients 3.0, −3.2 and 1.2. -/
def Obligations.ResetIsCanonical : Prop :=
  State.reset.memOk ∧ State.reset.pending = [] ∧ State.reset.power.stage = .off ∧ State.reset.power.meshOn = false ∧
  (∀ n, State.reset.partState n = 0) ∧ (∀ c, step State.reset = .next c → c.mem = [] ∧ c.hostMem = []) ∧
  ∀ t, (State.reset.tile t).reg Reg.churnCoefA = 0x40400000 ∧ (State.reset.tile t).reg Reg.churnCoefB = 0xC04CCCCD ∧
    (State.reset.tile t).reg Reg.churnCoefC = 0x3F99999A

/-- Every step keeps the memories in canonical form: addresses strictly rising, and no listed byte equal to what an
unlisted address reads, so that equal memories are equal data. -/
def Obligations.StepKeepsMemoryCanonical : Prop := ∀ s u : State, s.memOk → step s = .next u → u.memOk

/-- Holds, trips and start-up. INPUT_TRIP (R350, R355, R369): with the input out of 10.8 V to 13.2 V the device is held in
reset and 0x0703 is the first cause. RESET_ASSERT and RESET_RELEASE (R410): every function but the always-on domain, chip
time and the non-volatile store is reset, no cause is recorded, and the release ends the hold and THERMTRIP_N. VAON_START
and VAON_FALL (R355, R360, R392, R403): the always-on registers take their reset values, but the thermal-cycle registers,
which load from the newer record, and the target's static address, 0x58 plus the straps; at the fall everything of them
and chip time ends. STARTUP, OSC_READY and OSC_TIMEOUT (R361, R400, R401, R403): a released device starts group 1 once OSC
is ready, chip time starts at 0 at the first readiness since VAON started, and a timeout holds the device with 0x0800. -/
def Obligations.HoldsTripsAndStartUp : Prop :=
  (∀ s : State, s.power.stage ≠ .off → s.inputInRange = false →
    ∃ u, exec .inputTrip s = .next u ∧ u.power.stage = .held ∧ s.InReset u [Reg.capAonCause] ∧
      u.reg Reg.capAonCause = (if s.f Reg.capAonCause 31 31 = 1 then s.reg Reg.capAonCause
        else BitVec.ofNat 32 (0x0703 + 2 ^ 16 * 0x7FF + 2 ^ 31))) ∧
  ((∀ s : State, s.power.stage ≠ .off →
    ∃ u, exec .resetAssert s = .next u ∧ u.power.resetLow = true ∧ s.InReset u [] ∧
      u.power.stage = (if s.power.stage = .held then .held else .waiting)) ∧
  (∀ s : State, s.power.resetLow = true →
    exec .resetRelease s = .next { s with power := { s.power with resetLow := false, thermtripN := false, stage := (if s.power.stage = .held then .waiting else s.power.stage) } })) ∧
  ((∀ (s : State) (straps : Nat), s.power.stage = .off →
    ∃ u, exec (.vaonStart straps) s = .next u ∧ u.power.stage = .waiting ∧ u.power.oscReady = false ∧
      u.power.timeOn = false ∧ u.power.resetLow = s.power.resetLow ∧ u.fw.nvCycles = s.fw.nvCycles ∧
      u.reg Reg.mbI3cTgt = BitVec.ofNat 32 (0x58 + straps % 4) ∧
      (∀ r l i, s.fw.nvCycles = r :: l → i < 8 → u.reg (Reg.capTcycB + 4 * i) = r.getD i 0) ∧
      (∀ r l, s.fw.nvCycles = r :: l → u.f Reg.capTcycStat 23 0 = (r.getD 8 0).toNat % 2 ^ 24) ∧
      (s.fw.nvCycles = [] → ∀ i, i < 8 → u.reg (Reg.capTcycB + 4 * i) = 0) ∧
      ∀ o, o ≠ Reg.mbI3cTgt → o ≠ Reg.capTcycStat → (∀ i, i < 8 → o ≠ Reg.capTcycB + 4 * i) → u.reg o = chipRegD o) ∧
  (∀ s : State, ∃ u, exec .vaonFall s = .next u ∧ u.chip = [] ∧ u.timeAcc = 0 ∧ u.gmSet = false ∧
      u.power = { Power.reset with resetLow := s.power.resetLow } ∧ u.tiles = tabMap tileD Tile.cleared s.tiles ∧
      u.parts = [] ∧ u.pairs = [] ∧ u.ports = [] ∧ u.mgmt.reply = none ∧ u.fw.nvCycles = s.fw.nvCycles)) ∧
  ((∀ s : State, s.power.stage = .waiting → s.power.resetLow = false →
    ∃ u, exec .startup s = .next u ∧
      (s.power.oscReady = false → u = { s with power := { s.power with stage := .osc } }) ∧
      (s.power.oscReady = true → u.power = { s.power with stage := .bus } ∧ u.f Reg.capStart 5 0 = 1 ∧
        ∀ o, o ≠ Reg.capStart → u.reg o = s.reg o)) ∧
  (∀ s : State, s.power.oscReady = false → s.power.stage ≠ .off →
    ∃ u, exec .oscReady s = .next u ∧ u.power.oscReady = true ∧ u.power.timeOn = true ∧ u.f Reg.clkStatus 0 0 = 1 ∧
      u.timeAcc = (if s.power.timeOn then s.timeAcc else 0) ∧
      (s.power.stage = .osc → u.power.stage = .bus ∧ u.f Reg.capStart 5 0 = 1) ∧
      (s.power.stage ≠ .osc → u.power.stage = s.power.stage ∧ u.reg Reg.capStart = s.reg Reg.capStart) ∧
      (∀ o, o ≠ Reg.capStart → o ≠ Reg.clkStatus → u.reg o = s.reg o) ∧
      u.tiles = s.tiles ∧ u.parts = s.parts ∧ u.mem = s.mem) ∧
  (∀ s : State, s.power.stage = .osc →
    ∃ u, exec .oscTimeout s = .next u ∧ u.power.stage = .held ∧ s.InReset u [Reg.capAonCause, Reg.capStart] ∧
      u.f Reg.capStart 9 9 = 1 ∧ u.reg Reg.capAonCause = (if s.f Reg.capAonCause 31 31 = 1 then s.reg Reg.capAonCause
        else BitVec.ofNat 32 (0x0800 + 2 ^ 16 * 0x7FF + 2 ^ 31))))

/-- Rail groups (R362 to R365, R417, R149, Tables 13.3 and 13.4). RAIL_GROUP_READY: the latest group started, reporting
ready with nothing held, switches its rails on; groups 1 and 2 lead to VCTL and to the boot ROM with PGOOD, groups 3 to 15
start the next group, and group 52 ends the start-up: the mesh clock runs at the requested frequency, the zeroing of every
unit starts, STAGE is 5 and pair 0 is READY. TILE_WAVE_START starts wave w once the group before it is ready; with wave 0
every column is READY. RAIL_GROUP_TIMEOUT records 0x0700 with the rail, and holds: all rails off before the boot ROM runs, and
else those of group 3 and up, with STAGE 15. STARTUP_ZEROING_DONE: the unit's Vat and Pail bytes read zero, no error of its
columns stands, and it is free. -/
def Obligations.RailGroupsComeUp : Prop :=
  ((∀ s : State, s.f Reg.capStart 5 0 = 1 → s.f Reg.capStart 9 9 = 0 → s.power.stage = .bus →
    ∃ u, exec (.railGroupReady 1) s = .next u ∧ u.power.stage = .vctl ∧ u.power.ready = 1 ∧ u.f Reg.capStart 5 0 = 2 ∧
      u.tiles = s.tiles) ∧
  (∀ s : State, s.f Reg.capStart 5 0 = 2 → s.f Reg.capStart 9 9 = 0 → s.power.stage = .vctl →
    ∃ u, exec (.railGroupReady 2) s = .next u ∧ u.power.stage = .rom ∧ u.power.ready = 2 ∧ u.power.pgood = true ∧
      (∀ i, i = 1166 ∨ i = 1167 → fld (u.railReg i Reg.capRailStatus) 0 0 = 1 ∧
        fld (u.railReg i Reg.capRailV) 11 0 = fixedMv i) ∧ u.tiles = s.tiles) ∧
  (∀ (s : State) (g : Nat), 3 ≤ g → g < 52 → s.f Reg.capStart 5 0 = g → s.f Reg.capStart 9 9 = 0 →
    s.power.stage = .rom → s.bootStage = 4 → s.power.ready < g →
    ∃ u, exec (.railGroupReady g) s = .next u ∧ u.power.ready = g ∧ u.power.stage = .rom ∧
      u.f Reg.capStart 5 0 = (if g < 16 then g + 1 else g) ∧ u.power.meshOn = s.power.meshOn ∧
      ∀ i ∈ groupRails g, fld (u.railReg i Reg.capRailStatus) 0 0 = 1) ∧
  (∀ s : State, s.f Reg.capStart 5 0 = 52 → s.f Reg.capStart 9 9 = 0 → s.power.stage = .rom → s.bootStage = 4 →
    s.power.ready < 52 →
    ∃ u, exec (.railGroupReady 52) s = .next u ∧ u.power.meshOn = true ∧ u.bootStage = 5 ∧ u.f Reg.capStart 8 8 = 1 ∧
      u.f Reg.capStart 27 10 = 0x3FFFF ∧ (u.pair 0).f Reg.mbStatus 0 0 = 1 ∧
      u.f Reg.clkMeshCur 10 0 = meshMhz (s.f Reg.clkMeshReq 10 0) ∧ u.parts = s.parts ∧ u.mem = s.mem)) ∧
  (∀ (s : State) (w : Nat), w ≤ 35 → s.power.ready = 16 + w → s.f Reg.capStart 5 0 = 16 + w → s.bootStage = 4 →
    s.f Reg.capStart 9 9 = 0 →
    ∃ u, exec (.tileWaveStart w) s = .next u ∧ u.f Reg.capStart 5 0 = 17 + w ∧ u.power = s.power ∧
      (∀ o, o ≠ Reg.capStart → u.reg o = s.reg o) ∧ (w ≠ 0 → u.tiles = s.tiles) ∧
      (w = 0 → ∀ t, t < tileCount → (u.tile t).f Reg.vatStatus 2 2 = 1)) ∧
  ((∀ (s : State) (rail : Nat), s.f Reg.capStart 5 0 ≠ 0 → s.power.ready < s.f Reg.capStart 5 0 →
    s.f Reg.capStart 9 9 = 0 → (s.power.stage = .bus ∨ s.power.stage = .vctl) →
    ∃ u, exec (.railGroupTimeout rail) s = .next u ∧ u.power.stage = .held ∧
      s.InReset u [Reg.capAonCause, Reg.capStart] ∧ u.f Reg.capStart 9 9 = 1 ∧
      u.f Reg.capStart 5 0 = s.f Reg.capStart 5 0 ∧
      u.reg Reg.capAonCause = (if s.f Reg.capAonCause 31 31 = 1 then s.reg Reg.capAonCause else BitVec.ofNat 32
        (0x0700 + 2 ^ 16 * (if s.f Reg.capStart 5 0 = 1 then 0x7FF else rail) + 2 ^ 31))) ∧
  (∀ (s : State) (rail : Nat), s.f Reg.capStart 5 0 ≠ 0 → s.power.ready < s.f Reg.capStart 5 0 →
    s.f Reg.capStart 9 9 = 0 → s.power.stage = .rom → s.bootStage = 4 →
    ∃ u, exec (.railGroupTimeout rail) s = .next u ∧ u.bootStage = 15 ∧ u.f Reg.capStart 9 9 = 1 ∧
      (u.pair 0).f Reg.mbBootStatus 31 16 = 0x0700 ∧ u.power.ready = 2 ∧ u.power.meshOn = false ∧
      u.power.stage = .rom ∧ (∀ i, i ≤ 1165 → fld (u.railReg i Reg.capRailStatus) 0 0 = 0) ∧
      u.reg Reg.capAonCause = (if s.f Reg.capAonCause 31 31 = 1 then s.reg Reg.capAonCause
        else BitVec.ofNat 32 (0x0700 + 2 ^ 16 * rail + 2 ^ 31)))) ∧
  (∀ (s : State) (k : Nat), k < 18 → s.f Reg.capStart (10 + k) (10 + k) = 1 →
    ∃ u, exec (.startupZeroingDone k) s = .next u ∧ u.f Reg.capStart (10 + k) (10 + k) = 0 ∧
      (∀ a, (k * 2 ^ 34 ≤ a ∧ a < (k + 1) * 2 ^ 34) ∨ (regionBase k 0 ≤ a ∧ a < regionBase k 1 + 2 ^ 26) →
        tabGet byteD u.mem a = 0) ∧
      (∀ a, ¬(k * 2 ^ 34 ≤ a ∧ a < (k + 1) * 2 ^ 34) → ¬(regionBase k 0 ≤ a ∧ a < regionBase k 1 + 2 ^ 26) →
        tabGet byteD u.mem a = tabGet byteD s.mem a) ∧
      (∀ t, t < tileCount → t / 64 = k → (u.tile t).col.errs = []) ∧ (∀ t, t / 64 ≠ k → u.tile t = s.tile t) ∧
      u.parts = s.parts ∧ u.power = s.power)

/-- BLOCKING_SWITCH_OPEN, BUS_LOW, BUS_RECOVER (R352, R354): the flags of CAP_INPUT_FLAGS, and while the bus is low every
tile's grant is 0. RAIL_CAL_SLOT (R367, R368): R_run follows the measurement, a tile rail's CAL_OFS and set voltage follow
the monitors, and a rail whose droop first exceeds its model is marked and shown in CAP_CONN_LAST. MESH_FREQ_CHANGE,
MESH_CLOCK_SWITCH, MESH_CHANGE_END (R399, Table 15.2): a request starts a change at once, or waits for the one in progress
and replaces one that waits; at the switch a rise ends, and a fall goes on until the rails have fallen; CLK_MESH_CUR then
takes the new value and CHANGING clears, or the request that waited starts. The clock stops for at most 500 ns.
RAIL_LOOP_TICK (R372, R373): with eight samples, RAIL falls by 16 above 15/16 of the limit and rises by 1 below 13/16, the
grant falls with it at once, and a window above the limit at RAIL = 0 is counted. Nothing of any other tile changes. -/
def Obligations.RailsBusAndMeshClock : Prop :=
  ((∀ s : State, s.power.stage ≠ .off → ∃ u, exec .blockingSwitchOpen s = .next u ∧ u.f Reg.capInputFlags 0 0 = 1 ∧
      u.power = { s.power with blockOpen := true } ∧ (∀ o, o ≠ Reg.capInputFlags → u.reg o = s.reg o) ∧ u.tiles = s.tiles) ∧
  (∀ s : State, s.power.meshOn = true → s.power.busLow = false →
    ∃ u, exec .busLow s = .next u ∧ u.power = { s.power with busLow := true } ∧ u.f Reg.capInputFlags 2 2 = 1 ∧
      (∀ t, (u.tile t).grant = 0) ∧ u.parts = s.parts ∧ u.mem = s.mem) ∧
  (∀ s : State, exec .busRecover s = .next { s with power := { s.power with busLow := false } })) ∧
  (∀ (s : State) (i r temp : Nat) (m : Margin) (run base : Nat), i < railCount → s.f Reg.capCalCfg 0 0 = 1 →
    fld (s.railReg i Reg.capRailStatus) 0 0 = 1 → run = runNext (tabGet natD s.power.runFrac i) r temp s.freeCount →
    base = fld (s.railReg i Reg.capRailR) 15 0 →
    ∃ u, exec (.railCalSlot i r temp m) s = .next u ∧ tabGet natD u.power.runFrac i = run ∧
      fld (u.railReg i Reg.capRailR) 31 16 = min 0xFFFF (run / 4096) ∧ fld (u.railReg i Reg.capRailR) 15 0 = base ∧
      (i < tileCount → toSigned 4 (fld (u.railReg i Reg.capRailStatus) 7 4) =
          calOfs (toSigned 4 (fld (s.railReg i Reg.capRailStatus) 7 4)) m ∧
        fld (u.railReg i Reg.capRailV) 11 0 =
          tileMv i s.mhzNow (calOfs (toSigned 4 (fld (s.railReg i Reg.capRailStatus) 7 4)) m)) ∧
      (64 * base * 4096 + max (s.f Reg.capConnCfg 5 0 * base * 4096) (64 * s.f Reg.capConnCfg 23 8 * 4096) ≤ 64 * run →
        s.power.suspects.contains i = false → u.power.suspects = insertNat i s.power.suspects ∧
        fld (u.railReg i Reg.capRailStatus) 1 1 = 1 ∧ u.f Reg.capConnLast 31 31 = 1 ∧ u.f Reg.capConnLast 15 0 = i) ∧
      (64 * run < 64 * base * 4096 + max (s.f Reg.capConnCfg 5 0 * base * 4096) (64 * s.f Reg.capConnCfg 23 8 * 4096) →
        u.power.suspects = s.power.suspects ∧ u.reg Reg.capConnLast = s.reg Reg.capConnLast) ∧
      ∀ t, t ≠ i → u.tile t = s.tile t) ∧
  ((∀ (s : State) (a : Agent) (val : Word), (a = .pf ∨ a = .root) → s.agentUp a = true → s.power.meshOn = true →
    s.rootUp = true →
    ∃ u, exec (.meshFreqChange a val) s = .next u ∧ u.f Reg.clkMeshReq 10 0 = fld val 10 0 ∧
      (s.power.change = .none → u.power.change = .locking (meshMhz (fld val 10 0)) ∧ u.f Reg.clkMeshCur 31 31 = 1 ∧
        u.f Reg.clkMeshCur 10 0 = s.f Reg.clkMeshCur 10 0 ∧
        (s.f Reg.clkMeshCur 10 0 < meshMhz (fld val 10 0) → ∀ t, t < tileCount → (u.tile t).f Reg.capRailV 11 0 =
          tileMv t (meshMhz (fld val 10 0)) (toSigned 4 ((s.tile t).f Reg.capRailStatus 7 4)))) ∧
      (s.power.change ≠ .none → u.power = { s.power with nextMhz := some (fld val 10 0) } ∧ u.tiles = s.tiles)) ∧
  (∀ (s : State) (mhz : Nat), s.power.change = .locking mhz →
    ∃ u, exec .meshClockSwitch s = .next u ∧ s.meshStop ≤ u.meshStop ∧ u.meshStop ≤ s.meshStop + 500 ∧
      (mhz < s.f Reg.clkMeshCur 10 0 → u.power.change = .falling mhz ∧ u.reg Reg.clkMeshCur = s.reg Reg.clkMeshCur ∧
        ∀ t, t < tileCount → (u.tile t).f Reg.capRailV 11 0 =
          tileMv t mhz (toSigned 4 ((s.tile t).f Reg.capRailStatus 7 4))) ∧
      (s.f Reg.clkMeshCur 10 0 ≤ mhz → mhz < 2 ^ 11 → s.power.nextMhz = none → u.power.change = .none ∧
        u.f Reg.clkMeshCur 10 0 = mhz ∧ u.f Reg.clkMeshCur 31 31 = 0 ∧ u.tiles = s.tiles)) ∧
  (∀ (s : State) (mhz : Nat), s.power.change = .falling mhz → mhz < 2 ^ 11 →
    ∃ u, exec .meshChangeEnd s = .next u ∧ u.f Reg.clkMeshCur 10 0 = mhz ∧
      (s.power.nextMhz = none → u.power.change = .none ∧ u.f Reg.clkMeshCur 31 31 = 0 ∧ u.tiles = s.tiles) ∧
      (∀ req, s.power.nextMhz = some req → u.power.change = .locking (meshMhz req) ∧ u.power.nextMhz = none ∧
        u.f Reg.clkMeshCur 31 31 = 1))) ∧
  (∀ (s : State) (t ma : Nat) (x : Tile) (sum lim : Nat), x = s.tile t → t < tileCount →
    x.f Reg.capRailStatus 0 0 = 1 → 7 ≤ x.railSamples.length →
    sum = (((ma, 0) :: x.railSamples.take 7).map (·.1)).sum → lim = s.f Reg.capTileLimit 10 0 →
    ∃ u y, exec (.railLoopTick t ma) s = .next u ∧ s.TileOnlyNotes u t ∧ y = u.tile t ∧
      y.railSamples = (ma, 0) :: x.railSamples.take 7 ∧
      y.f Reg.capTileGrant 14 8 = (if lim * 15 * 8 < 16 * sum then x.f Reg.capTileGrant 14 8 - 16
        else if 16 * sum < lim * 13 * 8 then min 64 (x.f Reg.capTileGrant 14 8 + 1) else x.f Reg.capTileGrant 14 8) ∧
      y.grant = min x.grant (y.f Reg.capTileGrant 14 8) ∧ y.f Reg.capTileGrant 22 16 = x.f Reg.capTileGrant 22 16 ∧
      (lim * 8 < sum ∧ x.f Reg.capTileGrant 14 8 = 0 →
        y.f Reg.capTileLimcnt 31 0 = min 0xFFFFFFFF (x.f Reg.capTileLimcnt 31 0 + 1)) ∧
      (¬(lim * 8 < sum ∧ x.f Reg.capTileGrant 14 8 = 0) → y.reg Reg.capTileLimcnt = x.reg Reg.capTileLimcnt) ∧
      x.MatrixSame y ∧ x.RennetSame y ∧ x.QueuesSame y ∧ x.CoreSame y ∧ x.ScratchSame y ∧ x.MemorySame y ∧ x.TrainSame y)

/-- Temperatures. DIE_TEMP_READ and VAT_TEMP_READ (R143, R384 to R386): the tile's fields take the die's reading and its
hottest layer's, HOT follows the 85 °C and 80 °C limits, a reading that reaches its warning limit sets WARN, and a second
reading in a row at or above 115 °C (105 °C in the Vat) trips: the device is held, with THERMTRIP_N and 0x0900.
THERMAL_LOOP_TICK (R385): THERM falls by 4, to 8 at least, at a throttle limit, and rises by 4, to 64 at most, 3 K below
both; the grant falls with it. COOLING_READING, SENSOR_RETRY, SENSOR_TIMEOUT (R387, R426 to R428): a reading of all three
sensors stores their values and ends; a lost arbitration is counted and waits for a retry, until its third loss; a sensor
that times out fails, and the reading goes on with the next. THERMAL_CYCLE_TICK and TCYC_RECORD_WRITE (R390, R391): each
source's half cycles are counted by bin; an hour is counted, and the record replaces the older copy, or NV_FAIL is set. -/
def Obligations.TemperaturesAndCooling : Prop :=
  ((∀ (s : State) (t temp : Nat) (x : Tile), x = s.tile t → t < tileCount → s.vctlUp = true → temp < 4096 →
    ∃ u, exec (.dieTempRead t temp) s = .next u ∧
      (¬(16 * 115 ≤ temp ∧ x.tripSeen = true) →
        u.tile t = { x.setF Reg.capTileTemp 11 0 temp with tripSeen := decide (16 * 115 ≤ temp) } ∧
        (∀ t', t' ≠ t → u.tile t' = s.tile t') ∧ u.parts = s.parts ∧ u.power = s.power ∧
        (x.f Reg.capTileTemp 11 0 < 16 * min 110 (s.f Reg.capThermCfg 7 0) →
          16 * min 110 (s.f Reg.capThermCfg 7 0) ≤ temp → u.f Reg.capThermStat 30 30 = 1)) ∧
      (16 * 115 ≤ temp ∧ x.tripSeen = true → u.power.stage = .held ∧ u.power.thermtripN = true ∧ u.parts = [] ∧
        u.reg Reg.capAonCause = (if s.f Reg.capAonCause 31 31 = 1 then s.reg Reg.capAonCause
          else BitVec.ofNat 32 (0x0900 + 2 ^ 16 * 0x7FF + 2 ^ 31)))) ∧
  (∀ (s : State) (t : Nat) (ls : List Nat) (x : Tile), x = s.tile t → t < tileCount → s.vctlUp = true →
    ls.length = 12 → (∀ l ∈ ls, l < 4096) →
    ∃ u, exec (.vatTempRead t ls) s = .next u ∧
      (¬((∃ l ∈ ls, 16 * 105 ≤ l) ∧ (∃ b ∈ x.vatTripSeen, b = true)) →
        (u.tile t).layerTemps = ls ∧ (∀ l ∈ ls, l ≤ (u.tile t).f Reg.capTileTemp 27 16) ∧
        (u.tile t).f Reg.capTileTemp 27 16 ∈ ls ∧ (u.tile t).f Reg.capTileTemp 11 0 = x.f Reg.capTileTemp 11 0 ∧
        ((∃ l ∈ ls, 16 * 85 < l) → (u.tile t).f Reg.vatStatus 0 0 = 1) ∧
        ((∀ l ∈ ls, l < 16 * 80) → (u.tile t).f Reg.vatStatus 0 0 = 0) ∧
        ((∀ l ∈ ls, l ≤ 16 * 85) → (∃ l ∈ ls, 16 * 80 ≤ l) → (u.tile t).f Reg.vatStatus 0 0 = x.f Reg.vatStatus 0 0) ∧
        (∀ t', t' ≠ t → u.tile t' = s.tile t') ∧ u.parts = s.parts ∧ u.power = s.power) ∧
      ((∃ l ∈ ls, 16 * 105 ≤ l) ∧ (∃ b ∈ x.vatTripSeen, b = true) → u.power.stage = .held ∧
        u.power.thermtripN = true ∧ u.parts = [])) ∧
  (∀ (s : State) (t : Nat) (x : Tile) (ld lv d v : Nat), x = s.tile t → t < tileCount → s.vctlUp = true →
    ld = 16 * min 110 (s.f Reg.capThermCfg 15 8) → lv = 16 * min 100 (s.f Reg.capThermCfg 31 24) →
    d = x.f Reg.capTileTemp 11 0 → v = x.f Reg.capTileTemp 27 16 →
    ∃ u y, exec (.thermalLoopTick t) s = .next u ∧ y = u.tile t ∧
      y.f Reg.capTileGrant 22 16 = (if ld ≤ d ∨ lv ≤ v then max 8 (x.f Reg.capTileGrant 22 16 - 4)
        else if d + 48 ≤ ld ∧ v + 48 ≤ lv then min 64 (x.f Reg.capTileGrant 22 16 + 4) else x.f Reg.capTileGrant 22 16) ∧
      y.grant = min x.grant (y.f Reg.capTileGrant 22 16) ∧ y.f Reg.capTileGrant 14 8 = x.f Reg.capTileGrant 14 8 ∧
      (y.f Reg.capTileGrant 22 16 < 64 → u.f Reg.capThermStat 29 29 = 1) ∧
      (∀ t', t' ≠ t → u.tile t' = s.tile t') ∧ u.parts = s.parts ∧ u.power = s.power)) ∧
  ((∀ (s : State) (a b c d e f : Byte), s.vctlUp = true → s.f Reg.capCoolCfg 0 0 = 1 → s.mgmt.reading = none →
    ∃ u, exec (.coolingReading [.data a b true, .data c d true, .data e f true]) s = .next u ∧ u.mgmt.reading = none ∧
      u.f Reg.capCoolTemp 11 0 = ofSigned 12 (s.sensorValue 0 a b) ∧
      u.f Reg.capCoolTemp 27 16 = ofSigned 12 (s.sensorValue 1 c d) ∧
      u.f Reg.capCoolFlow 15 0 = ofSigned 16 (s.sensorValue 2 e f) ∧ u.cap.paused = false ∧
      (∀ n, n < 3 → tabGet natD u.cap.fails n = 0) ∧ u.tiles = s.tiles ∧ u.parts = s.parts ∧ u.power = s.power) ∧
  (∀ (s : State) (r : Reading), s.vctlUp = true → s.mgmt.reading = some r → r.sensor < 3 → s.f Reg.mbI3ccCfg 0 0 = 0 →
    ∃ u, exec (.sensorRetry [.arbLost]) s = .next u ∧
      u.f Reg.mbI3cStat 15 0 = min 0xFFFF (s.f Reg.mbI3cStat 15 0 + 1) ∧
      (r.losses + 1 < 3 → u.mgmt.reading = some { r with losses := r.losses + 1 }) ∧
      (3 ≤ r.losses + 1 → r.sensor < 2 → u.mgmt.reading = some ⟨r.sensor + 1, 0, r.vals ++ [none]⟩) ∧
      u.tiles = s.tiles ∧ u.parts = s.parts) ∧
  (∀ (s : State) (r : Reading), s.vctlUp = true → s.mgmt.reading = some r → r.sensor < 3 →
    ∃ u, exec (.sensorTimeout []) s = .next u ∧
      (r.sensor < 2 → u = { s with mgmt := { s.mgmt with reading := some ⟨r.sensor + 1, 0, r.vals ++ [none]⟩ } }) ∧
      (r.sensor = 2 → u.mgmt.reading = none ∧ (r.vals.length = 2 → u.reg Reg.capCoolFlow = s.reg Reg.capCoolFlow ∧
        tabGet natD u.cap.fails 2 = tabGet natD s.cap.fails 2 + 1 ∧
        (tabGet natD s.cap.fails 2 = 2 → u.f Reg.capCoolStat 29 29 = 1 ∧ u.cap.paused = true))))) ∧
  ((∀ (s : State) (die vat : Nat), s.vctlUp = true →
    ∃ u, exec (.thermalCycleTick die vat) s = .next u ∧
      (∀ src v, (src = 0 ∧ v = die) ∨ (src = 1 ∧ v = vat) →
        tabGet cycRunD u.cap.cycs src = ((tabGet cycRunD s.cap.cycs src).tick v).1 ∧
        ∀ b, b < 4 → u.reg (Reg.capTcycB + 16 * src + 4 * b) = s.reg (Reg.capTcycB + 16 * src + 4 * b) +
          (if ((tabGet cycRunD s.cap.cycs src).tick v).2 = some b then 1 else 0)) ∧
      (∀ o, (∀ i, i < 8 → o ≠ Reg.capTcycB + 4 * i) → u.reg o = s.reg o) ∧ u.tiles = s.tiles ∧ u.parts = s.parts) ∧
  (∀ (s : State) (ok : Bool), s.power.stage ≠ .off →
    ∃ u, exec (.tcycRecordWrite ok) s = .next u ∧
      u.f Reg.capTcycStat 23 0 = (s.f Reg.capTcycStat 23 0 + 1) % 2 ^ 24 ∧
      (ok = true → u.fw.nvWrites = s.fw.nvWrites + 1 ∧ u.fw.nvCycles =
        ((List.range 8).map (fun i => s.reg (Reg.capTcycB + 4 * i)) ++
          [BitVec.ofNat 32 (u.f Reg.capTcycStat 23 0), BitVec.ofNat 32 (s.fw.nvWrites + 1), BitVec.ofNat 32 s.time,
           BitVec.ofNat 32 (s.time / 2 ^ 32)]) :: s.fw.nvCycles.take 1) ∧
      (ok = false → u.fw = s.fw ∧ u.f Reg.capTcycStat 31 31 = 1) ∧ u.tiles = s.tiles ∧ u.parts = s.parts))

/-- References, chip time and the host link. REF_LOSS and REF_RESTORE (R402, Table 15.3): the reference's OK bit falls; OSC
holds the device with 0x0801, PCIE_REFCLK takes the host link down, FAB_REFCLK switches the fabric to its fallback; a
restored one's bit rises again. TIME_TICK (R403, R404): a tick adds 2 ns × (1 + FREQ × 10⁻⁹). TIME_SET (R404, R407,
R408): on a grandmaster the write sets chip time as a step and makes the chip SYNCED at stratum 0; on another chip it only
stores. SYNC_LOSS (R408): 1 s without an exchange clears SYNCED. PERST and PCIE_LINK_DOWN (R420, R439): the link goes
down, counted and latched as cause 8, or retrains lower and is counted. PCIE_LINK_UP (R402, R416, R420): it comes up
with its rate and width while PCIE_REFCLK is present. -/
def Obligations.ReferencesTimeAndHostLink : Prop :=
  ((∀ (s : State) (ref : Nat), s.power.stage ≠ .off → ref ≤ 2 → s.f Reg.clkStatus ref ref = 1 →
    ∃ u, exec (.refLoss ref) s = .next u ∧ u.f Reg.clkStatus ref ref = 0 ∧
      (ref = 0 → u.power.stage = .held ∧ u.power.oscReady = false ∧ u.power.timeOn = s.power.timeOn ∧ u.timeAcc = s.timeAcc ∧
        u.parts = [] ∧ u.reg Reg.capAonCause = (if s.f Reg.capAonCause 31 31 = 1 then s.reg Reg.capAonCause
          else BitVec.ofNat 32 (0x0801 + 2 ^ 16 * 0x7FF + 2 ^ 31))) ∧
      (ref = 1 → u.f Reg.clkStatus 31 31 = 1 ∧ u.f Reg.mbPcieStat 9 9 = 0 ∧
        (s.f Reg.mbPcieStat 9 9 = 1 → u.power = { s.power with linkDown := true }) ∧ u.tiles = s.tiles ∧ u.parts = s.parts) ∧
      (ref = 2 → u.f Reg.clkStatus 31 31 = 1 ∧ u.f Reg.clkStatus 3 3 = 1 ∧ u.power = s.power ∧ u.ports = s.ports ∧
        u.tiles = s.tiles ∧ u.parts = s.parts)) ∧
  (∀ (s : State) (ref : Nat), s.power.stage ≠ .off →
    (ref = 1 ∨ ref = 2 → ∃ u, exec (.refRestore ref) s = .next u ∧ u.f Reg.clkStatus ref ref = 1 ∧
      u.power = s.power ∧ (∀ o, o ≠ Reg.clkStatus → u.reg o = s.reg o) ∧ u.tiles = s.tiles) ∧
    (ref = 0 → s.power.timeOn = true → s.power.oscReady = false → s.power.stage ≠ .osc →
      ∃ u, exec (.refRestore ref) s = .next u ∧ u.f Reg.clkStatus 0 0 = 1 ∧ u.power = { s.power with oscReady := true } ∧
        u.timeAcc = s.timeAcc ∧ u.tiles = s.tiles))) ∧
  ((∀ s : State, s.power.timeOn = true →
    exec .timeTick s = .next { s with ticks := s.ticks + 1, timeAcc := (s.timeAcc +
      (2 ^ 33 * (10 ^ 9 + (if s.f Reg.clkTimeCfg 0 0 = 1 then 0 else toSigned 32 (s.reg Reg.clkTimeFreq).toNat)) / 10 ^ 9 : Int).toNat)
        % 2 ^ 96 }) ∧
  (∀ (s : State) (a : Agent) (hi : Word), (a = .pf ∨ a = .root) → s.agentUp a = true →
    ∃ u, exec (.timeSet a hi) s = .next u ∧ u.reg Reg.clkTimeSetHi = hi ∧
      (s.f Reg.clkTimeCfg 0 0 = 0 → u.timeAcc = s.timeAcc ∧ u.gmSet = s.gmSet ∧ u.reg Reg.clkStatus = s.reg Reg.clkStatus) ∧
      (s.f Reg.clkTimeCfg 0 0 = 1 → u.time = (s.reg Reg.clkTimeSetLo).toNat + 2 ^ 32 * hi.toNat ∧ u.gmSet = true ∧
        u.f Reg.clkTimeSteps 15 0 = min 0xFFFF (s.f Reg.clkTimeSteps 15 0 + 1) ∧ u.f Reg.clkStatus 8 8 = 1 ∧
        u.f Reg.clkStatus 23 16 = 0 ∧ u.f Reg.clkStatus 27 24 = 15) ∧ u.tiles = s.tiles ∧ u.parts = s.parts) ∧
  (∀ s : State, s.vctlUp = true → (s.f Reg.clkTimeCfg 0 0 = 0 ∨ s.gmSet = false) → s.syncAt + 500000000 ≤ s.ticks →
    ∃ u, exec .syncLoss s = .next u ∧ u.f Reg.clkStatus 8 8 = 0 ∧ u.f Reg.clkStatus 23 16 = 255 ∧
      u.f Reg.clkStatus 27 24 = 15 ∧ u.syncRun = 0 ∧ u.timeAcc = s.timeAcc ∧
      ∀ o, o ≠ Reg.clkStatus → u.reg o = s.reg o)) ∧
  ((∀ s : State, s.hostUp = true → ∀ c, (c = Instr.perst ∧ s.power.resetLow = false) ∨
      (∃ sp w, c = Instr.pcieLinkDown sp w ∧ (sp = 0 ∨ w = 0)) →
    ∃ u, exec c s = .next u ∧ u.f Reg.mbPcieStat 9 9 = 0 ∧ u.power = { s.power with linkDown := true } ∧
      u.f Reg.mbPcieStat 31 16 = min 0xFFFF (s.f Reg.mbPcieStat 31 16 + 1) ∧ u.hostUp = false ∧
      u.f Reg.mbAlert 8 8 = 1 ∧ u.tiles = s.tiles ∧ u.parts = s.parts ∧ u.mem = s.mem) ∧
  (∀ (s : State) (sp w : Nat), s.hostUp = true → sp ≠ 0 → w ≠ 0 → sp ≤ s.f Reg.mbPcieStat 3 0 →
    w ≤ s.f Reg.mbPcieStat 8 4 → ¬(sp = s.f Reg.mbPcieStat 3 0 ∧ w = s.f Reg.mbPcieStat 8 4) →
    ∃ u, exec (.pcieLinkDown sp w) s = .next u ∧ u.f Reg.mbPcieStat 3 0 = sp ∧ u.f Reg.mbPcieStat 8 4 = w ∧
      u.f Reg.mbPcieStat 31 16 = min 0xFFFF (s.f Reg.mbPcieStat 31 16 + 1) ∧ u.hostUp = true ∧ u.power = s.power ∧
      u.tiles = s.tiles ∧ u.parts = s.parts) ∧
  (∀ (s : State) (sp w : Nat), s.vctlUp = true → s.f Reg.clkStatus 1 1 = 1 → s.f Reg.mbPcieStat 9 9 = 0 →
    1 ≤ sp → sp ≤ 6 → 1 ≤ w → w ≤ 16 →
    ∃ u, exec (.pcieLinkUp sp w) s = .next u ∧ u.f Reg.mbPcieStat 3 0 = sp ∧ u.f Reg.mbPcieStat 8 4 = w ∧
      u.hostUp = true ∧ u.power = { s.power with linkDown := false } ∧ u.f Reg.mbAlert 8 8 = 0 ∧ u.tiles = s.tiles ∧
      u.parts = s.parts))

/-- The management target, the console, JTAG and telemetry. Reads (R421 to R424, Table 16.3): IDENT, CAUSE, ALERT, INPUT,
TCYC and TIME answer once VAON is ready and RESET_N released, the others while VCTL is up too, and else a NACK; a COOL code
that the table does not list is NACKed. BUDGET's write (R380, R383) sets the request, ends a loss, and moves the target when
it is selected. ALERT_CLR (R434) clears the source flag of each cause named; cut short it changes nothing (log 94).
DYNAMIC_ADDRESS, ALERT_RESPONSE, SCL_TIMEOUT (R421, R424, R425). UART_FRAME (R430, R431): a frame with a valid stop bit
gives Root a character, a CR ends the line; one without is counted. JTAG_INSTRUCTION and TAP_RESET (R432): a boundary
scan acts only at STAGE 0; else it, and an unpublished instruction, is BYPASS. TELEMETRY_SAMPLE (R433): the chip fields and
every tile's entry are taken. -/
def Obligations.ManagementInterfacesAnswer : Prop :=
  ((∀ (s : State) (c : Instr) (code : Nat) (aon : Bool) (bytes : List Byte), (c, code, aon, bytes) ∈
      [(Instr.ident, 0x00, true, bytesOf 4 (0x0C31 + 2 ^ 16 * (Config.dieRevision % 256) + 2 ^ 24)),
       (Instr.cause, 0x01, true, bytesOf 4 (s.reg Reg.capAonCause).toNat),
       (Instr.alert, 0x02, true, bytesOf 4 (s.reg Reg.mbAlert).toNat),
       (Instr.input, 0x10, true, bytesOf 4 (s.reg Reg.capInput).toNat),
       (Instr.tcyc, 0x30, true, (List.range 9).flatMap (fun i => bytesOf 4 (s.reg (Reg.capTcycB + 4 * i)).toNat)),
       (Instr.time, 0x40, true, bytesOf 8 s.time),
       (Instr.status, 0x04, false, bytesOf 2 ((s.pair 0).f Reg.mbBootStatus 15 0)),
       (Instr.power, 0x11, false, bytesOf 4 (s.reg Reg.capPkgPower).toNat),
       (Instr.temps, 0x12, false, bytesOf 4 (s.reg Reg.capThermStat).toNat),
       (Instr.budgetStat, 0x13, false, bytesOf 4 (s.reg Reg.capBudgetStat).toNat),
       (Instr.budget none, 0x14, false, bytesOf 2 (s.f Reg.capBudgetI3c 9 0)),
       (Instr.cool 0x20, 0x20, false, bytesOf 4 (s.reg Reg.capCoolStat).toNat),
       (Instr.cool 0x21, 0x21, false, bytesOf 4 (s.reg Reg.capCoolTemp).toNat),
       (Instr.cool 0x22, 0x22, false, bytesOf 4 (s.reg Reg.capCoolFlow).toNat),
       (Instr.cool 0x23, 0x23, false, bytesOf 4 (s.reg Reg.capCoolHeat).toNat)] →
    (s.power.stage ≠ .off ∧ s.power.resetLow = false ∧ (aon = true ∨ s.power.stage = .rom) →
      exec c s = .next { s with mgmt := { s.mgmt with reply := some bytes, pec := s.replyPec code bytes } }) ∧
    (¬(s.power.stage ≠ .off ∧ s.power.resetLow = false ∧ (aon = true ∨ s.power.stage = .rom)) →
      exec c s = .next { s with mgmt := { s.mgmt with reply := none, pec := none } })) ∧
  (∀ (s : State) (code : Nat), code < 0x20 ∨ 0x24 ≤ code →
    exec (.cool code) s = .next { s with mgmt := { s.mgmt with reply := none, pec := none } }) ∧
  (∀ (s : State) (a b : Byte) (l : List Byte), s.targetUp = true → s.vctlUp = true →
    ∃ u, exec (.budget (some (a :: b :: l))) s = .next u ∧ u.mgmt.reply = some [] ∧
      u.f Reg.capBudgetI3c 9 0 = (a.toNat + 256 * b.toNat) % 2 ^ 10 ∧ u.cap.i3cLost = false ∧ u.cap.i3cAt = s.time ∧
      (s.budgetSrc = 2 → u.f Reg.capBudgetStat 25 16 =
        max s.budgetFloor (min 900 ((a.toNat + 256 * b.toNat) % 2 ^ 10)) ∧ u.f Reg.capBudgetStat 28 28 = 0) ∧
      u.tiles = s.tiles ∧ u.parts = s.parts ∧ u.power = s.power)) ∧
  ((∀ (s : State) (data : List Byte), s.targetUp = true →
    (data.length < 4 → exec (.alertClr data) s = .next { s with mgmt := { s.mgmt with reply := some [], pec := none } }) ∧
    (4 ≤ data.length → ∃ u, exec (.alertClr data) s = .next u ∧ u.mgmt.reply = some [] ∧
      (∀ b o k, (b, o, k) ∈ [(0, Reg.capThermStat, 30), (1, Reg.capCoolStat, 29), (2, Reg.capCoolStat, 28),
          (3, Reg.capBudgetStat, 28), (4, Reg.capConnLast, 31), (5, Reg.capTcycStat, 31), (6, Reg.clkStatus, 31)] →
        u.f o k k = (if (natOfBytes (data.take 4)).testBit b then 0 else s.f o k k)) ∧
      (∀ p, p < 17 → (u.pair p).f Reg.mbStatus 2 2 =
        (if (natOfBytes (data.take 4)).testBit 7 then 0 else (s.pair p).f Reg.mbStatus 2 2)) ∧
      u.power = (if (natOfBytes (data.take 4)).testBit 8 then { s.power with linkDown := false } else s.power) ∧
      u.tiles = s.tiles ∧ u.parts = s.parts)) ∧
  (∀ (s : State) (addr : Nat), s.targetUp = true → 1 ≤ addr → addr < 128 →
    ∃ u, exec (.dynamicAddress addr) s = .next u ∧ u.f Reg.mbI3cTgt 14 8 = addr ∧ u.f Reg.mbI3cTgt 16 16 = 1 ∧
      u.f Reg.mbI3cTgt 6 0 = s.f Reg.mbI3cTgt 6 0 ∧ (∀ o, o ≠ Reg.mbI3cTgt → u.reg o = s.reg o) ∧ u.power = s.power) ∧
  (∀ s : State, exec .alertResponse s = .next { s with mgmt := { s.mgmt with pec := none, reply := (if s.targetUp && s.f Reg.mbI3cTgt 16 16 == 0 && s.alertN then some [BitVec.ofNat 8 (2 * s.f Reg.mbI3cTgt 6 0)] else none) } }) ∧
  (∀ s : State, exec .sclTimeout s = .next { s with mgmt := { s.mgmt with reply := none, pec := none } })) ∧
  ((∀ (s : State) (bits : List (Bool × Bool × Bool)), s.vctlUp = true →
    (majority (bits.getD 8 (false, false, false)) = true → s.rootUp = true →
      (frameByte bits ≠ 0x0D → exec (.uartFrame bits false) s =
        .next { s with mgmt := { s.mgmt with line := (s.mgmt.line ++ [frameByte bits]).take 81 } }) ∧
      (frameByte bits = 0x0D → exec (.uartFrame bits false) s = .next { s with mgmt := { s.mgmt with
        line := []
        answers := s.mgmt.answers ++ (if s.mgmt.line.length ≤ 80 then (s.consoleAnswer s.mgmt.line).toList else []) } })) ∧
    (majority (bits.getD 8 (false, false, false)) = false → ∀ low,
      ∃ u, exec (.uartFrame bits low) s = .next u ∧
        u.f Reg.mbUartStat 15 0 = min 0xFFFF (s.f Reg.mbUartStat 15 0 + 1) ∧ u.mgmt = s.mgmt ∧ u.tiles = s.tiles)) ∧
  (∀ (s : State) (ir : JtagIr), s.power.stage ≠ .off →
    ∃ u, exec (.jtagInstruction ir) s = .next u ∧
      (scanIr ir = true → s.vctlUp = true → s.bootStage = 0 → u.mgmt.jtag = ir ∧ u.mgmt.scan = true) ∧
      (scanIr ir = true → s.vctlUp = false ∨ s.bootStage ≠ 0 → u.mgmt.jtag = .bypass ∧ u.mgmt.scan = false) ∧
      (ir = .unpublished → u.mgmt.jtag = .bypass ∧ u.mgmt.scan = false) ∧
      (scanIr ir = false → ir ≠ .unpublished → u.mgmt.jtag = ir ∧ u.mgmt.scan = false) ∧
      u.tiles = s.tiles ∧ u.parts = s.parts) ∧
  (∀ s : State, ∃ u, exec .tapReset s = .next u ∧ u.mgmt.jtag = .idcode ∧ u.mgmt.scan = false ∧ u.tiles = s.tiles ∧
    u.parts = s.parts) ∧
  (∀ s : State, s.power.meshOn = true → exec .telemetrySample s = .next { s with mgmt := { s.mgmt with
    sample := [Reg.capPkgPower, Reg.capBudgetStat, Reg.capCtrl, Reg.capThermStat, Reg.capCoolHeat, Reg.clkMeshCur,
      Reg.clkStatus, Reg.capCoolStat].map s.reg
    sampleTime := s.time
    tiles := (List.range tileCount).map (fun t => (t, (s.tile t).telemetry)) } }))

/-- BAR2_WRITE and BAR2_READ (R163, R171, R182, R338): an access that the function's partition and window grant is
accepted (a write waits at the ingress, a read whose function has no write waiting and whose range is not being zeroed is
served by its home, with the memory's bytes where it lies in a Pail without errors), and any other is counted, logged, and
changes no memory; a refused read returns all ones as an unsupported request. LOG_REPEAT_FLUSH (R301, R327): a window that is
over ends, or, with repeats counted, writes one record that opens the next. COLL_ABORT_NOTICE (R284 to R286, R342): a notice
of the current sequence with a right tag starts the abort, one of a later sequence is held, one with a wrong tag is dropped.
COLL_ENTRY_TIMEOUT and COLL_PROGRESS_TIMEOUT (R283, R289) abort with 0x0517. COLL_ABORT_FINISH (R284): 250 µs after the
abort the books are kept, Service is interrupted, and the context is free. -/
def Obligations.HostAccessesLogsAndAborts : Prop :=
  ((∀ (s : State) (n off : Nat) (data : List Byte) (rlx : Bool), s.hostUp = true → n < 16 → off < 2 ^ 40 →
    (s.bar2Grants n off data.length accHwr = true → exec (.bar2Write n off data rlx) s = .next { s with
      ingressQ := s.ingressQ ++ [⟨s.ingressIn, n, off, data, rlx⟩], ingressIn := s.ingressIn + 1 }) ∧
    (s.bar2Grants n off data.length accHwr = false →
      ∃ u, exec (.bar2Write n off data rlx) s = .next u ∧ u.mem = s.mem ∧ u.ingressQ = s.ingressQ ∧ u.tiles = s.tiles ∧
        (u.part n).f Reg.mbPartRefused 15 0 = min 0xFFFF ((s.part n).f Reg.mbPartRefused 15 0 + 1))) ∧
  (∀ (s : State) (n off len : Nat), s.hostUp = true → n < 16 → off < 2 ^ 40 → s.ingressQ = [] →
    (s.bar2Grants n off len accHrd = true → s.spanWaits off (max len 1) = false →
      ∃ u bs, exec (.bar2Read n off len) s = .next u ∧ u.hostRead = some bs ∧ u.hostUr = false ∧ u.readQ = s.readQ ∧
        (vatEnd ≤ off → (s.tile (pailTile off)).sliceQ = [] → (s.tile (pailTile off)).pailBad = [] →
          bs = memRead s.mem off len ∧ u.mem = s.mem)) ∧
    (s.bar2Grants n off len accHrd = true → s.spanWaits off (max len 1) = true →
      exec (.bar2Read n off len) s = .next { s with readQ := s.readQ ++ [⟨s.ingressIn, n, off, len⟩] }) ∧
    (s.bar2Grants n off len accHrd = false →
      ∃ u, exec (.bar2Read n off len) s = .next u ∧ u.hostRead = some (ones len) ∧ u.hostUr = true ∧ u.mem = s.mem ∧
        u.tiles = s.tiles ∧
        (u.part n).f Reg.mbPartRefused 15 0 = min 0xFFFF ((s.part n).f Reg.mbPartRefused 15 0 + 1)))) ∧
  (∀ (s : State) (code src part : Nat) (w : LogWin), s.logWins.find? (fun x => x.same code src part) = some w →
    1000000 ≤ (s.time + 2 ^ 64 - w.at_) % 2 ^ 64 → s.power.faultN = false →
    (w.count = 0 → exec (.logRepeatFlush code src part) s =
      .next { s with logWins := s.logWins.filter (fun x => !x.same code src part) }) ∧
    (w.count ≠ 0 → ∃ u, exec (.logRepeatFlush code src part) s = .next u ∧ s.RecordsOnly u ∧
      u.logWins = s.logWins.map (fun x => if x.same code src part then { x with count := 0, at_ := s.time } else x) ∧
      ∀ p ∈ logPairs w.part, u.pair p = (s.pair p).logRecord p s.time w w.count)) ∧
  (∀ (s : State) (n g : Nat) (c : Ctx), n < 16 → g < 64 → s.ctx n g = some c →
    (∀ nb seq code origin, s.meshUp = true → s.partState n = 1 →
      (∀ tag, tag ≠ (s.part n).tagNotice [n, g, seq, code, origin] →
        exec (.collAbortNotice n g nb seq code origin tag) s = .next s) ∧
      (seq = (s.part n).grpSeq g → c.st ≠ 6 →
        ∃ u c', exec (.collAbortNotice n g nb seq code origin ((s.part n).tagNotice [n, g, seq, code, origin])) s = .next u ∧
          u.part n = { s.part n with ctxs := tabSet ctxD (s.part n).ctxs g (some c') } ∧ c'.st = 6 ∧
          c'.abortAt = s.engineTime ∧ c'.fragsIn = [] ∧ c'.outQ = [] ∧ (code, origin) ∈ c'.causes ∧
          (c.best = none → c'.best = some (code, origin)) ∧ u.tiles = s.tiles ∧ u.mem = s.mem) ∧
      (∀ ahead, 1 ≤ ahead → ahead < 2 ^ 31 → seq = ((s.part n).grpSeq g + ahead) % 2 ^ 32 →
        ∃ u, exec (.collAbortNotice n g nb seq code origin ((s.part n).tagNotice [n, g, seq, code, origin])) s = .next u ∧
          ⟨nb, seq, code, origin⟩ ∈ (u.held n g).notices ∧ u.ctx n g = some c ∧ u.tiles = s.tiles ∧ u.mem = s.mem)) ∧
    (∀ i, (i = Instr.collEntryTimeout n g ∧ c.st = 2 ∧ c.entryMs ≠ 0 ∧ c.start + c.entryMs * 1000000 < s.engineTime) ∨
        (i = Instr.collProgressTimeout n g ∧ (c.st = 3 ∨ c.st = 4) ∧ c.progUs ≠ 0 ∧
          c.heard + c.progUs * 1000 ≤ s.engineTime) →
      ∃ u c', exec i s = .next u ∧ u.ctx n g = some c' ∧ c'.st = 6 ∧ c'.abortAt = s.engineTime ∧ c'.outQ = [] ∧
        (0x517, s.grpRank n g) ∈ c'.causes ∧ u.tiles = s.tiles ∧ u.mem = s.mem) ∧
    (∀ v w, c.st = 6 → c.abortAt + 250000 ≤ s.engineTime → c.bad = false → s.collWaits n g c = false → cw c.words 8 22 22 = 0 →
      (s.part n).queuedFor g = [] → w = s.dropCollTags n g →
      v = (w.collWrite (coRecord c.words) (w.collRecord n g c (c.best.getD (0, 0)).1 (c.best.getD (0, 0)).2
        (freeCounts s.freeCount (s.grpSize n g)))).1 →
      ∃ u, exec (.collAbortFinish n g) s = .next u ∧ u.ctx n g = none ∧
        (u.part n).reg (Reg.collGrpSeq + 16 * g) = BitVec.ofNat 32 (c.seq + 1) ∧
        (u.part n).reg Reg.collLastErr = BitVec.ofNat 32 ((c.best.getD (0, 0)).1 + 2 ^ 16 * g + 2 ^ 31) ∧
        (u.part n).reg Reg.collLastSeq = BitVec.ofNat 32 c.seq ∧ u.fw.irqSvc = v.fw.irqSvc + 1 ∧ u.mem = v.mem ∧
        u.tiles = v.tiles))

/-- SLEW_LOOP_TICK (R371, R374, R375): CAP_INPUT takes the sample; E changes by (B − P) × 1 µs within 0 to Emax; only
grants change in the tiles, and the sum of D × N rises by at most 2 A × VIN. BUDGET_LOOP_TICK (R376, R379): the means of
the input power are shown; F is the largest fraction in 64ths that meets the limit (CAPW while E is above 0, and else B),
or 0 with UNMET set; a partition that changed its phase keeps its demands. PHASE_MARK (R377): a marker of 0 to 4 waits
with its tile's partition, and 5 to 7 is ignored. PHASE_MARKER_APPLY (R209, R377): the markers of the oldest cycle arrive,
of two tiles' the higher-numbered last; one marker sets the phase, and a move from another phase into the forward phase
ends the step.
BUDGET_RAMP_TICK (R381): the budget in force moves by at most RAMP toward the target.
BUDGET_PIN_PERIOD (R382, R383): an invalid period is counted; a valid one ends the run of invalid ones, its duty enters the
mean of 16, the fourth valid one ends a loss, and with the pin selected the target follows it. BUDGET_PIN_LOSS,
BUDGET_I3C_LOSS and BUDGET_HOLD_EXPIRY (R383): a source without a valid period or write for its time is lost; of the
selected source LOST is set and the target holds, and HOLD_MS later it is FLOOR. -/
def Obligations.LoopsPhasesAndBudgets : Prop :=
  (((∀ (s : State) (vin iin : Nat), s.power.stage ≠ .off →
    ∃ u, exec (.slewLoopTick vin iin) s = .next u ∧ u.f Reg.capInput 15 0 = min 0xFFFF vin ∧
      u.f Reg.capInput 31 16 = min 0xFFFF (iin / 10) ∧ u.power = s.power ∧
      (s.power.meshOn = false → u.tiles = s.tiles ∧ u.cap = s.cap ∧ ∀ o, o ≠ Reg.capInput → u.reg o = s.reg o) ∧
      (s.power.meshOn = true →
        (u.cap.bucket : Int) = max 0 (min (s.emax : Int)
          ((s.cap.bucket : Int) + (s.f Reg.capBudgetStat 9 0 : Nat) * 10 ^ 6 - ((vin * iin : Nat) : Int))) ∧
        u.cap.lastSum = demandSum s.slewTiles (fun x => (u.tile x.t).grant) ∧
        u.cap.lastSum ≤ s.cap.lastSum + 2 * vin * 64 ∧
        u.f Reg.capCtrl 23 8 = u.cap.bucket / 10 ^ 6 % 2 ^ 16 ∧ u.f Reg.capCtrl 6 0 = s.f Reg.capCtrl 6 0 ∧
        u.cap = { s.cap with bucket := u.cap.bucket, lastSum := u.cap.lastSum } ∧
        (∀ t, t < tileCount → u.tile t = (s.tile t).setF Reg.capTileGrant 6 0 (u.tile t).grant) ∧ u.mem = s.mem)) ∧
  (∀ (s : State) (pin : Nat) (rp : List Nat) (conv lim : Nat) (base : Int) (load : Nat → Int),
    s.power.meshOn = true →
    lim = (if 0 < s.cap.bucket then s.f Reg.capEnvelope 10 0 else s.f Reg.capBudgetStat 9 0) →
    base = 64 * (pin : Int) - (((List.range 16).map (fun n =>
      s.share n (s.sys n).ph.tickPh (s.sys n).ph.tickPh (s.f Reg.capCtrl 6 0))).sum : Nat) →
    (∀ x, load x = base + (((List.range 16).map (fun n => s.share n (s.phase n) (s.phase n) x)).sum : Nat)) →
    ∃ u, exec (.budgetLoopTick pin rp conv) s = .next u ∧ u.f Reg.capPkgPower 11 0 = pin / 1000 % 2 ^ 12 ∧
      u.cap = { s.cap with pinHist := (pin :: s.cap.pinHist).take 100 } ∧ u.f Reg.capConv 15 0 = conv % 2 ^ 16 ∧
      u.f Reg.capCtrl 6 0 ≤ 64 ∧ (∀ x, x ≤ 64 → u.f Reg.capCtrl 6 0 < x → (64 * 1000 * lim : Nat) < load x) ∧
      (load (u.f Reg.capCtrl 6 0) ≤ (64 * 1000 * lim : Nat) ∨
        (u.f Reg.capCtrl 6 0 = 0 ∧ u.f Reg.capBudgetStat 30 30 = 1)) ∧
      (∀ n, (s.sys n).ph.moved = true → u.part n = s.part n) ∧ u.tiles = s.tiles ∧ u.mem = s.mem ∧ u.power = s.power)) ∧
  ((∀ (s : State) (a : Agent) (t n : Nat) (val : Word), (a = .vf n ∨ a = .core t) → s.agentUp a = true →
    s.mayTile a t = true → s.tileOwner t = some n → fld val 2 0 ≤ 4 →
    exec (.phaseMark a t val) s = .next (s.setSys n { s.sys n with ph :=
      { (s.sys n).ph with marks := (s.sys n).ph.marks ++ [(s.cyc, t, fld val 2 0)] } })) ∧
  (∀ (s : State) (a : Agent) (t : Nat) (val : Word), (∀ n, a ≠ .service n) → 4 < fld val 2 0 →
    exec (.phaseMark a t val) s = .next s)) ∧
  ((∀ (s : State) (n c t ph : Nat) (l : List (Nat × Nat × Nat)), n < 16 → (s.sys n).ph.marks = (c, t, ph) :: l →
    (∀ m ∈ l, m.1 ≠ c) → ph ≤ 4 →
    ∃ u, exec (.phaseMarkerApply n) s = .next u ∧ u.phase n = ph ∧ (u.sys n).ph.marks = l ∧
      (u.sys n).ph.since = s.time16 ∧ ((u.sys n).ph.moved = true ↔ (s.sys n).ph.moved = true ∨ ph ≠ s.phase n) ∧
      (ph = 0 ∧ s.phase n ≠ 0 → (u.sys n).ph.stepOn = true ∧ (u.sys n).ph.stepAt = s.time16 ∧ (u.sys n).ph.sums = []) ∧
      (ph = 0 ∧ s.phase n ≠ 0 ∧ (s.sys n).ph.stepOn = true →
        (u.part n).reg Reg.capStepCnt = (s.part n).reg Reg.capStepCnt + 1 ∧
        (u.part n).reg Reg.capStepLast = BitVec.ofNat 32 (hold32 (diff16 s.time16 (s.sys n).ph.stepAt))) ∧
      (¬(ph = 0 ∧ s.phase n ≠ 0 ∧ (s.sys n).ph.stepOn = true) →
        (u.part n).reg Reg.capStepCnt = (s.part n).reg Reg.capStepCnt) ∧
      (∀ k, k ≠ n → u.part k = s.part k ∧ u.sys k = s.sys k) ∧ u.tiles = s.tiles ∧ u.mem = s.mem) ∧
  (∀ (s : State) (n c t1 t2 p1 p2 : Nat), n < 16 → (s.sys n).ph.marks = [(c, t1, p1), (c, t2, p2)] → t1 ≠ t2 →
    p1 ≤ 4 → p2 ≤ 4 →
    ∃ u, exec (.phaseMarkerApply n) s = .next u ∧ (u.sys n).ph.marks = [] ∧ u.phase n = (if t1 < t2 then p2 else p1)))) ∧
  ((∀ (s : State) (b t r : Nat), s.vctlUp = true → b = s.f Reg.capBudgetStat 9 0 → t = s.f Reg.capBudgetStat 25 16 →
    r = max 10 (s.f Reg.capBudgetCfg 13 4) →
    ∃ u, exec .budgetRampTick s = .next u ∧
      u.f Reg.capBudgetStat 9 0 = (if b < t then min t (b + r) else max t (b - r)) ∧
      (u.f Reg.capBudgetStat 29 29 = 0 ↔ u.f Reg.capBudgetStat 9 0 = t) ∧ u.f Reg.capBudgetStat 25 16 = t ∧
      (∀ o, o ≠ Reg.capBudgetStat → u.reg o = s.reg o) ∧ u.tiles = s.tiles ∧ u.cap = s.cap) ∧
  (∀ (s : State) (p h : Nat) (ok valid : Bool), s.vctlUp = true →
    valid = (decide (45000 ≤ p) && decide (p ≤ 55000) && ok && decide (20 * p ≤ 1000 * h) && decide (1000 * h ≤ 980 * p)) →
    ∃ u, exec (.budgetPinPeriod p h ok) s = .next u ∧ u.tiles = s.tiles ∧ u.parts = s.parts ∧
      (valid = false → u.f Reg.capBudgetPin 31 16 = min 0xFFFF (s.f Reg.capBudgetPin 31 16 + 1) ∧
        u.cap = { s.cap with badRun := s.cap.badRun + 1 } ∧ ∀ o, o ≠ Reg.capBudgetPin → u.reg o = s.reg o) ∧
      (valid = true → u.cap.badRun = 0 ∧ u.cap.pinAt = s.time ∧
        u.cap.duties = (h * 1000 * 2 ^ 20 / p :: s.cap.duties).take 16 ∧
        u.cap.pinLost = (s.cap.pinLost && decide (s.cap.goodRun + 1 < 4)) ∧
        (∃ c, c ≤ 1 ∧ u.f Reg.capBudgetPin 9 0 = (u.cap.duties.sum / (u.cap.duties.length * 2 ^ 20) + c) % 2 ^ 10) ∧
        (s.budgetSrc = 1 → u.cap.pinLost = false → u.f Reg.capBudgetStat 28 28 = 0 ∧
          u.f Reg.capBudgetStat 25 16 = max s.budgetFloor (min 900 (u.f Reg.capBudgetPin 9 0 - 50))))) ∧
  (∀ (s : State), s.vctlUp = true → ∀ c src,
    (c = Instr.budgetPinLoss ∧ src = 1 ∧ s.cap.pinLost = false ∧ (20 ≤ s.cap.badRun ∨ s.passed s.cap.pinAt 1000000 = true)) ∨
    (c = Instr.budgetI3cLoss ∧ src = 2 ∧ s.cap.i3cLost = false ∧ s.passed s.cap.i3cAt 10000000000 = true) →
    ∃ u, exec c s = .next u ∧ u.budgetLost src = true ∧ u.tiles = s.tiles ∧ u.parts = s.parts ∧
      (s.budgetSrc ≠ src → u.chip = s.chip ∧ u.pairs = s.pairs) ∧
      (s.budgetSrc = src → s.cap.lostOn = false → u.f Reg.capBudgetStat 28 28 = 1 ∧ u.cap.lostAt = s.time ∧
        u.cap.lostOn = true ∧ u.cap.expired = false ∧ u.f Reg.capBudgetStat 25 16 = s.f Reg.capBudgetStat 25 16 ∧
        u.f Reg.capBudgetStat 9 0 = s.f Reg.capBudgetStat 9 0)) ∧
  (∀ s : State, s.vctlUp = true → s.budgetLost s.budgetSrc = true → s.cap.lostOn = true → s.cap.expired = false →
    s.passed s.cap.lostAt (1000000 * s.f Reg.capBudgetCfg 31 16) = true →
    ∃ u, exec .budgetHoldExpiry s = .next u ∧ u.cap = { s.cap with expired := true } ∧
      u.f Reg.capBudgetStat 25 16 = s.budgetFloor ∧ u.f Reg.capBudgetStat 28 28 = s.f Reg.capBudgetStat 28 28 ∧
      u.tiles = s.tiles ∧ u.parts = s.parts))
end

