-- ==== Sys2Proof/Laws/Tab.lean ====
section
/-!
SUPPORT. Laws/Tab.lean: what a sparse table reads as after a write, and that every write keeps the canonical form.
-/

namespace Sys2Proof.Machine

variable {α : Type} [DecidableEq α]

theorem tabGet_erase_same (d : Nat → α) (m : Tab α) (k : Nat) : tabGet d (tabErase m k) k = d k := by
  induction m with
  | nil => rfl
  | cons p m ih =>
    obtain ⟨k', v⟩ := p
    by_cases h : k = k' <;> simp [tabErase, tabGet, h, ih] <;> simpa [h] using ih

theorem tabGet_erase_ne (d : Nat → α) (m : Tab α) {k j : Nat} (h : j ≠ k) :
    tabGet d (tabErase m k) j = tabGet d m j := by
  induction m with
  | nil => rfl
  | cons p m ih =>
    obtain ⟨k', v⟩ := p
    by_cases h1 : k = k'
    · subst h1; simp [tabErase, tabGet, h, ih]
    · by_cases h2 : j = k' <;> simp [tabErase, tabGet, h1, h2, ih] <;> simpa [h2] using ih

theorem tabGet_insert_same (d : Nat → α) (m : Tab α) (k : Nat) (v : α) (hk : ∀ p ∈ m, p.1 ≠ k) :
    tabGet d (tabInsert m k v) k = v := by
  induction m with
  | nil => simp [tabInsert, tabGet]
  | cons p m ih =>
    obtain ⟨k', v'⟩ := p
    have hne : k ≠ k' := fun e => hk (k', v') (by simp) e.symm
    by_cases h : k < k'
    · simp [tabInsert, tabGet, h]
    · simp [tabInsert, tabGet, h, hne, ih (fun p hp => hk p (by simp [hp]))]

theorem tabGet_insert_ne (d : Nat → α) (m : Tab α) {k j : Nat} (v : α) (h : j ≠ k) :
    tabGet d (tabInsert m k v) j = tabGet d m j := by
  induction m with
  | nil => simp [tabInsert, tabGet, h]
  | cons p m ih =>
    obtain ⟨k', v'⟩ := p
    by_cases h1 : k < k'
    · simp [tabInsert, tabGet, h1, h]
    · by_cases h2 : j = k' <;> simp [tabInsert, tabGet, h1, h2, ih] <;> simpa [h2] using ih

theorem tabErase_keys (m : Tab α) (k : Nat) : ∀ p ∈ tabErase m k, p.1 ≠ k := by
  induction m with
  | nil => simp [tabErase]
  | cons p m ih =>
    obtain ⟨k', v⟩ := p
    intro q hq
    by_cases h : k = k'
    · simp only [tabErase, h, if_true] at hq; subst h; exact ih q hq
    · simp only [tabErase, h, if_false, List.mem_cons] at hq
      rcases hq with rfl | hq
      · exact fun e => h e.symm
      · exact ih q hq

/-- A table reads back what was written. -/
@[simp] theorem tabGet_set_same (d : Nat → α) (m : Tab α) (k : Nat) (v : α) : tabGet d (tabSet d m k v) k = v := by
  unfold tabSet
  split
  · rename_i h; rw [tabGet_erase_same, h]
  · exact tabGet_insert_same d _ k v (tabErase_keys m k)

/-- A write leaves every other key alone. -/
theorem tabGet_set_ne (d : Nat → α) (m : Tab α) {k j : Nat} (v : α) (h : j ≠ k) :
    tabGet d (tabSet d m k v) j = tabGet d m j := by
  unfold tabSet
  split
  · exact tabGet_erase_ne d m h
  · rw [tabGet_insert_ne d _ v h, tabGet_erase_ne d m h]

/-- Both cases at once, for rewriting. -/
theorem tabGet_set (d : Nat → α) (m : Tab α) (k j : Nat) (v : α) :
    tabGet d (tabSet d m k v) j = if j = k then v else tabGet d m j := by
  by_cases h : j = k
  · subst h; simp
  · simp [h, tabGet_set_ne d m v h]

@[simp] theorem tabGet_mod_same (d : Nat → α) (m : Tab α) (k : Nat) (f : α → α) :
    tabGet d (tabMod d m k f) k = f (tabGet d m k) := by simp [tabMod]

theorem tabGet_mod_ne (d : Nat → α) (m : Tab α) {k j : Nat} (f : α → α) (h : j ≠ k) :
    tabGet d (tabMod d m k f) j = tabGet d m j := by simp [tabMod, tabGet_set_ne d m _ h]

theorem tabSorted_mono {lo lo' : Nat} {m : Tab α} (h : lo' ≤ lo) (hs : tabSorted lo m = true) :
    tabSorted lo' m = true := by
  cases m with
  | nil => rfl
  | cons p m =>
    simp only [tabSorted, Bool.and_eq_true, decide_eq_true_eq] at hs ⊢
    exact ⟨by omega, hs.2⟩

theorem tabSorted_erase {lo : Nat} {m : Tab α} (k : Nat) (hs : tabSorted lo m = true) :
    tabSorted lo (tabErase m k) = true := by
  induction m generalizing lo with
  | nil => rfl
  | cons p m ih =>
    obtain ⟨k', v⟩ := p
    simp only [tabSorted, Bool.and_eq_true, decide_eq_true_eq] at hs
    by_cases h : k = k'
    · subst h
      simp only [tabErase, if_true]
      exact ih (tabSorted_mono (by omega) hs.2)
    · simp only [tabErase, h, if_false, tabSorted, Bool.and_eq_true, decide_eq_true_eq]
      exact ⟨hs.1, ih hs.2⟩

theorem tabSorted_insert {lo : Nat} {m : Tab α} {k : Nat} (v : α) (hlo : lo ≤ k) (hs : tabSorted lo m = true)
    (hk : ∀ p ∈ m, p.1 ≠ k) : tabSorted lo (tabInsert m k v) = true := by
  induction m generalizing lo with
  | nil => simp [tabInsert, tabSorted, hlo]
  | cons p m ih =>
    obtain ⟨k', v'⟩ := p
    simp only [tabSorted, Bool.and_eq_true, decide_eq_true_eq] at hs
    have hne : k' ≠ k := hk (k', v') (by simp)
    by_cases h : k < k'
    · simp only [tabInsert, h, if_true, tabSorted, Bool.and_eq_true, decide_eq_true_eq]
      exact ⟨hlo, by omega, hs.2⟩
    · simp only [tabInsert, h, if_false, tabSorted, Bool.and_eq_true, decide_eq_true_eq]
      exact ⟨hs.1, ih (by omega) hs.2 (fun p hp => hk p (by simp [hp]))⟩

theorem tabErase_mem {m : Tab α} {k : Nat} {p : Nat × α} (h : p ∈ tabErase m k) : p ∈ m := by
  induction m with
  | nil => simp [tabErase] at h
  | cons q m ih =>
    by_cases hk : k = q.1 <;> simp [tabErase, hk] at h
    · exact List.mem_cons_of_mem _ (ih (by simpa [hk] using h))
    · rcases h with rfl | h
      · simp
      · exact List.mem_cons_of_mem _ (ih h)

theorem tabInsert_mem {m : Tab α} {k : Nat} {v : α} {p : Nat × α} (h : p ∈ tabInsert m k v) : p = (k, v) ∨ p ∈ m := by
  induction m with
  | nil => simpa [tabInsert] using h
  | cons q m ih =>
    by_cases hk : k < q.1 <;> simp [tabInsert, hk] at h
    · rcases h with rfl | rfl | h <;> simp_all
    · rcases h with rfl | h
      · simp
      · rcases ih h with h | h <;> simp_all

/-- Every write keeps the canonical form. -/
theorem tabSet_wf (d : Nat → α) {m : Tab α} (k : Nat) (v : α) (h : tabWf d m = true) :
    tabWf d (tabSet d m k v) = true := by
  simp only [tabWf, Bool.and_eq_true, List.all_eq_true, decide_eq_true_eq] at h ⊢
  unfold tabSet
  split
  · exact ⟨tabSorted_erase k h.1, fun p hp => h.2 p (tabErase_mem hp)⟩
  · rename_i hv
    refine ⟨tabSorted_insert v (Nat.zero_le _) (tabSorted_erase k h.1) (tabErase_keys m k), fun p hp => ?_⟩
    rcases tabInsert_mem hp with rfl | hp
    · exact hv
    · exact h.2 p (tabErase_mem hp)

theorem tabMod_wf (d : Nat → α) {m : Tab α} (k : Nat) (f : α → α) (h : tabWf d m = true) :
    tabWf d (tabMod d m k f) = true := tabSet_wf d k _ h

/-! ### Two writes at one key -/

theorem tabErase_erase (m : Tab α) (k : Nat) : tabErase (tabErase m k) k = tabErase m k := by
  induction m with
  | nil => rfl
  | cons p m ih =>
    by_cases h : k = p.1
    · subst h; simp only [tabErase, if_true]; exact ih
    · simp only [tabErase, h, if_false, ih]

theorem tabErase_insert (m : Tab α) (k : Nat) (v : α) : tabErase (tabInsert m k v) k = tabErase m k := by
  induction m with
  | nil => simp [tabInsert, tabErase]
  | cons p m ih =>
    by_cases h : k < p.1
    · simp only [tabInsert, h, if_true, tabErase]
    · by_cases h' : k = p.1
      · subst h'; simp only [tabInsert, h, if_false, tabErase, if_true]; exact ih
      · simp only [tabInsert, h, if_false, tabErase, h', ih]

/-- The later of two writes at one key stands. -/
theorem tabSet_set (d : Nat → α) (m : Tab α) (k : Nat) (v w : α) : tabSet d (tabSet d m k v) k w = tabSet d m k w := by
  have h : tabErase (tabSet d m k v) k = tabErase m k := by
    unfold tabSet; split
    · exact tabErase_erase m k
    · rw [tabErase_insert, tabErase_erase]
  unfold tabSet at h ⊢
  rw [h]

end Sys2Proof.Machine
end

