-- ==== Sys2Proof/Laws/State.lean ====
section
/-!
SUPPORT. Laws/State.lean: one lemma per field per update of the state, true by rfl, and what a tile, a partition, a pair,
a port or a register reads as after an update of one of them.
-/

namespace Sys2Proof.Machine

/-! ### setTile -/

@[simp] theorem State.setTile_pending (s : State) (t : Nat) (x : Tile) : (s.setTile t x).pending = s.pending := rfl
@[simp] theorem State.setTile_parts (s : State) (t : Nat) (x : Tile) : (s.setTile t x).parts = s.parts := rfl
@[simp] theorem State.setTile_chip (s : State) (t : Nat) (x : Tile) : (s.setTile t x).chip = s.chip := rfl
@[simp] theorem State.setTile_chipLatch (s : State) (t : Nat) (x : Tile) : (s.setTile t x).chipLatch = s.chipLatch := rfl
@[simp] theorem State.setTile_pairs (s : State) (t : Nat) (x : Tile) : (s.setTile t x).pairs = s.pairs := rfl
@[simp] theorem State.setTile_logWins (s : State) (t : Nat) (x : Tile) : (s.setTile t x).logWins = s.logWins := rfl
@[simp] theorem State.setTile_timeAcc (s : State) (t : Nat) (x : Tile) : (s.setTile t x).timeAcc = s.timeAcc := rfl
@[simp] theorem State.setTile_ticks (s : State) (t : Nat) (x : Tile) : (s.setTile t x).ticks = s.ticks := rfl
@[simp] theorem State.setTile_signals (s : State) (t : Nat) (x : Tile) : (s.setTile t x).signals = s.signals := rfl
@[simp] theorem State.setTile_zeroing (s : State) (t : Nat) (x : Tile) : (s.setTile t x).zeroing = s.zeroing := rfl
@[simp] theorem State.setTile_mem (s : State) (t : Nat) (x : Tile) : (s.setTile t x).mem = s.mem := rfl
@[simp] theorem State.setTile_hostMem (s : State) (t : Nat) (x : Tile) : (s.setTile t x).hostMem = s.hostMem := rfl
@[simp] theorem State.setTile_ingressIn (s : State) (t : Nat) (x : Tile) : (s.setTile t x).ingressIn = s.ingressIn := rfl
@[simp] theorem State.setTile_ingressQ (s : State) (t : Nat) (x : Tile) : (s.setTile t x).ingressQ = s.ingressQ := rfl
@[simp] theorem State.setTile_readQ (s : State) (t : Nat) (x : Tile) : (s.setTile t x).readQ = s.readQ := rfl
@[simp] theorem State.setTile_homeGot (s : State) (t : Nat) (x : Tile) : (s.setTile t x).homeGot = s.homeGot := rfl
@[simp] theorem State.setTile_mesh (s : State) (t : Nat) (x : Tile) : (s.setTile t x).mesh = s.mesh := rfl
@[simp] theorem State.setTile_ports (s : State) (t : Nat) (x : Tile) : (s.setTile t x).ports = s.ports := rfl
@[simp] theorem State.setTile_arrivals (s : State) (t : Nat) (x : Tile) : (s.setTile t x).arrivals = s.arrivals := rfl
@[simp] theorem State.setTile_tags (s : State) (t : Nat) (x : Tile) : (s.setTile t x).tags = s.tags := rfl
@[simp] theorem State.setTile_tagQ (s : State) (t : Nat) (x : Tile) : (s.setTile t x).tagQ = s.tagQ := rfl
@[simp] theorem State.setTile_recent (s : State) (t : Nat) (x : Tile) : (s.setTile t x).recent = s.recent := rfl
@[simp] theorem State.setTile_pool (s : State) (t : Nat) (x : Tile) : (s.setTile t x).pool = s.pool := rfl
@[simp] theorem State.setTile_meshStop (s : State) (t : Nat) (x : Tile) : (s.setTile t x).meshStop = s.meshStop := rfl
@[simp] theorem State.setTile_fabGen (s : State) (t : Nat) (x : Tile) : (s.setTile t x).fabGen = s.fabGen := rfl
@[simp] theorem State.setTile_gmSet (s : State) (t : Nat) (x : Tile) : (s.setTile t x).gmSet = s.gmSet := rfl
@[simp] theorem State.setTile_syncRun (s : State) (t : Nat) (x : Tile) : (s.setTile t x).syncRun = s.syncRun := rfl
@[simp] theorem State.setTile_syncAt (s : State) (t : Nat) (x : Tile) : (s.setTile t x).syncAt = s.syncAt := rfl
@[simp] theorem State.setTile_partSys (s : State) (t : Nat) (x : Tile) : (s.setTile t x).partSys = s.partSys := rfl
@[simp] theorem State.setTile_power (s : State) (t : Nat) (x : Tile) : (s.setTile t x).power = s.power := rfl
@[simp] theorem State.setTile_cap (s : State) (t : Nat) (x : Tile) : (s.setTile t x).cap = s.cap := rfl
@[simp] theorem State.setTile_fw (s : State) (t : Nat) (x : Tile) : (s.setTile t x).fw = s.fw := rfl
@[simp] theorem State.setTile_mgmt (s : State) (t : Nat) (x : Tile) : (s.setTile t x).mgmt = s.mgmt := rfl
@[simp] theorem State.setTile_console (s : State) (t : Nat) (x : Tile) : (s.setTile t x).console = s.console := rfl
@[simp] theorem State.setTile_hostRead (s : State) (t : Nat) (x : Tile) : (s.setTile t x).hostRead = s.hostRead := rfl
@[simp] theorem State.setTile_hostUr (s : State) (t : Nat) (x : Tile) : (s.setTile t x).hostUr = s.hostUr := rfl
@[simp] theorem State.setTile_freeCount (s : State) (t : Nat) (x : Tile) : (s.setTile t x).freeCount = s.freeCount := rfl
@[simp] theorem State.setTile_part (s : State) (t : Nat) (x : Tile) (k : Nat) : (s.setTile t x).part k = s.part k := rfl
@[simp] theorem State.setTile_sys (s : State) (t : Nat) (x : Tile) (k : Nat) : (s.setTile t x).sys k = s.sys k := rfl
@[simp] theorem State.setTile_pair (s : State) (t : Nat) (x : Tile) (k : Nat) : (s.setTile t x).pair k = s.pair k := rfl
@[simp] theorem State.setTile_port (s : State) (t : Nat) (x : Tile) (k : Nat) : (s.setTile t x).port k = s.port k := rfl
@[simp] theorem State.setTile_reg (s : State) (t : Nat) (x : Tile) (k : Nat) : (s.setTile t x).reg k = s.reg k := rfl

/-! ### setPart -/

@[simp] theorem State.setPart_pending (s : State) (n : Nat) (x : Part) : (s.setPart n x).pending = s.pending := rfl
@[simp] theorem State.setPart_tiles (s : State) (n : Nat) (x : Part) : (s.setPart n x).tiles = s.tiles := rfl
@[simp] theorem State.setPart_chip (s : State) (n : Nat) (x : Part) : (s.setPart n x).chip = s.chip := rfl
@[simp] theorem State.setPart_chipLatch (s : State) (n : Nat) (x : Part) : (s.setPart n x).chipLatch = s.chipLatch := rfl
@[simp] theorem State.setPart_pairs (s : State) (n : Nat) (x : Part) : (s.setPart n x).pairs = s.pairs := rfl
@[simp] theorem State.setPart_logWins (s : State) (n : Nat) (x : Part) : (s.setPart n x).logWins = s.logWins := rfl
@[simp] theorem State.setPart_timeAcc (s : State) (n : Nat) (x : Part) : (s.setPart n x).timeAcc = s.timeAcc := rfl
@[simp] theorem State.setPart_ticks (s : State) (n : Nat) (x : Part) : (s.setPart n x).ticks = s.ticks := rfl
@[simp] theorem State.setPart_signals (s : State) (n : Nat) (x : Part) : (s.setPart n x).signals = s.signals := rfl
@[simp] theorem State.setPart_zeroing (s : State) (n : Nat) (x : Part) : (s.setPart n x).zeroing = s.zeroing := rfl
@[simp] theorem State.setPart_mem (s : State) (n : Nat) (x : Part) : (s.setPart n x).mem = s.mem := rfl
@[simp] theorem State.setPart_hostMem (s : State) (n : Nat) (x : Part) : (s.setPart n x).hostMem = s.hostMem := rfl
@[simp] theorem State.setPart_ingressIn (s : State) (n : Nat) (x : Part) : (s.setPart n x).ingressIn = s.ingressIn := rfl
@[simp] theorem State.setPart_ingressQ (s : State) (n : Nat) (x : Part) : (s.setPart n x).ingressQ = s.ingressQ := rfl
@[simp] theorem State.setPart_readQ (s : State) (n : Nat) (x : Part) : (s.setPart n x).readQ = s.readQ := rfl
@[simp] theorem State.setPart_homeGot (s : State) (n : Nat) (x : Part) : (s.setPart n x).homeGot = s.homeGot := rfl
@[simp] theorem State.setPart_mesh (s : State) (n : Nat) (x : Part) : (s.setPart n x).mesh = s.mesh := rfl
@[simp] theorem State.setPart_ports (s : State) (n : Nat) (x : Part) : (s.setPart n x).ports = s.ports := rfl
@[simp] theorem State.setPart_arrivals (s : State) (n : Nat) (x : Part) : (s.setPart n x).arrivals = s.arrivals := rfl
@[simp] theorem State.setPart_tags (s : State) (n : Nat) (x : Part) : (s.setPart n x).tags = s.tags := rfl
@[simp] theorem State.setPart_tagQ (s : State) (n : Nat) (x : Part) : (s.setPart n x).tagQ = s.tagQ := rfl
@[simp] theorem State.setPart_recent (s : State) (n : Nat) (x : Part) : (s.setPart n x).recent = s.recent := rfl
@[simp] theorem State.setPart_pool (s : State) (n : Nat) (x : Part) : (s.setPart n x).pool = s.pool := rfl
@[simp] theorem State.setPart_meshStop (s : State) (n : Nat) (x : Part) : (s.setPart n x).meshStop = s.meshStop := rfl
@[simp] theorem State.setPart_fabGen (s : State) (n : Nat) (x : Part) : (s.setPart n x).fabGen = s.fabGen := rfl
@[simp] theorem State.setPart_gmSet (s : State) (n : Nat) (x : Part) : (s.setPart n x).gmSet = s.gmSet := rfl
@[simp] theorem State.setPart_syncRun (s : State) (n : Nat) (x : Part) : (s.setPart n x).syncRun = s.syncRun := rfl
@[simp] theorem State.setPart_syncAt (s : State) (n : Nat) (x : Part) : (s.setPart n x).syncAt = s.syncAt := rfl
@[simp] theorem State.setPart_partSys (s : State) (n : Nat) (x : Part) : (s.setPart n x).partSys = s.partSys := rfl
@[simp] theorem State.setPart_power (s : State) (n : Nat) (x : Part) : (s.setPart n x).power = s.power := rfl
@[simp] theorem State.setPart_cap (s : State) (n : Nat) (x : Part) : (s.setPart n x).cap = s.cap := rfl
@[simp] theorem State.setPart_fw (s : State) (n : Nat) (x : Part) : (s.setPart n x).fw = s.fw := rfl
@[simp] theorem State.setPart_mgmt (s : State) (n : Nat) (x : Part) : (s.setPart n x).mgmt = s.mgmt := rfl
@[simp] theorem State.setPart_console (s : State) (n : Nat) (x : Part) : (s.setPart n x).console = s.console := rfl
@[simp] theorem State.setPart_hostRead (s : State) (n : Nat) (x : Part) : (s.setPart n x).hostRead = s.hostRead := rfl
@[simp] theorem State.setPart_hostUr (s : State) (n : Nat) (x : Part) : (s.setPart n x).hostUr = s.hostUr := rfl
@[simp] theorem State.setPart_freeCount (s : State) (n : Nat) (x : Part) : (s.setPart n x).freeCount = s.freeCount := rfl
@[simp] theorem State.setPart_tile (s : State) (n : Nat) (x : Part) (k : Nat) : (s.setPart n x).tile k = s.tile k := rfl
@[simp] theorem State.setPart_sys (s : State) (n : Nat) (x : Part) (k : Nat) : (s.setPart n x).sys k = s.sys k := rfl
@[simp] theorem State.setPart_pair (s : State) (n : Nat) (x : Part) (k : Nat) : (s.setPart n x).pair k = s.pair k := rfl
@[simp] theorem State.setPart_port (s : State) (n : Nat) (x : Part) (k : Nat) : (s.setPart n x).port k = s.port k := rfl
@[simp] theorem State.setPart_reg (s : State) (n : Nat) (x : Part) (k : Nat) : (s.setPart n x).reg k = s.reg k := rfl

/-! ### setSys -/

@[simp] theorem State.setSys_pending (s : State) (n : Nat) (x : PartSys) : (s.setSys n x).pending = s.pending := rfl
@[simp] theorem State.setSys_tiles (s : State) (n : Nat) (x : PartSys) : (s.setSys n x).tiles = s.tiles := rfl
@[simp] theorem State.setSys_parts (s : State) (n : Nat) (x : PartSys) : (s.setSys n x).parts = s.parts := rfl
@[simp] theorem State.setSys_chip (s : State) (n : Nat) (x : PartSys) : (s.setSys n x).chip = s.chip := rfl
@[simp] theorem State.setSys_chipLatch (s : State) (n : Nat) (x : PartSys) : (s.setSys n x).chipLatch = s.chipLatch := rfl
@[simp] theorem State.setSys_pairs (s : State) (n : Nat) (x : PartSys) : (s.setSys n x).pairs = s.pairs := rfl
@[simp] theorem State.setSys_logWins (s : State) (n : Nat) (x : PartSys) : (s.setSys n x).logWins = s.logWins := rfl
@[simp] theorem State.setSys_timeAcc (s : State) (n : Nat) (x : PartSys) : (s.setSys n x).timeAcc = s.timeAcc := rfl
@[simp] theorem State.setSys_ticks (s : State) (n : Nat) (x : PartSys) : (s.setSys n x).ticks = s.ticks := rfl
@[simp] theorem State.setSys_signals (s : State) (n : Nat) (x : PartSys) : (s.setSys n x).signals = s.signals := rfl
@[simp] theorem State.setSys_zeroing (s : State) (n : Nat) (x : PartSys) : (s.setSys n x).zeroing = s.zeroing := rfl
@[simp] theorem State.setSys_mem (s : State) (n : Nat) (x : PartSys) : (s.setSys n x).mem = s.mem := rfl
@[simp] theorem State.setSys_hostMem (s : State) (n : Nat) (x : PartSys) : (s.setSys n x).hostMem = s.hostMem := rfl
@[simp] theorem State.setSys_ingressIn (s : State) (n : Nat) (x : PartSys) : (s.setSys n x).ingressIn = s.ingressIn := rfl
@[simp] theorem State.setSys_ingressQ (s : State) (n : Nat) (x : PartSys) : (s.setSys n x).ingressQ = s.ingressQ := rfl
@[simp] theorem State.setSys_readQ (s : State) (n : Nat) (x : PartSys) : (s.setSys n x).readQ = s.readQ := rfl
@[simp] theorem State.setSys_homeGot (s : State) (n : Nat) (x : PartSys) : (s.setSys n x).homeGot = s.homeGot := rfl
@[simp] theorem State.setSys_mesh (s : State) (n : Nat) (x : PartSys) : (s.setSys n x).mesh = s.mesh := rfl
@[simp] theorem State.setSys_ports (s : State) (n : Nat) (x : PartSys) : (s.setSys n x).ports = s.ports := rfl
@[simp] theorem State.setSys_arrivals (s : State) (n : Nat) (x : PartSys) : (s.setSys n x).arrivals = s.arrivals := rfl
@[simp] theorem State.setSys_tags (s : State) (n : Nat) (x : PartSys) : (s.setSys n x).tags = s.tags := rfl
@[simp] theorem State.setSys_tagQ (s : State) (n : Nat) (x : PartSys) : (s.setSys n x).tagQ = s.tagQ := rfl
@[simp] theorem State.setSys_recent (s : State) (n : Nat) (x : PartSys) : (s.setSys n x).recent = s.recent := rfl
@[simp] theorem State.setSys_pool (s : State) (n : Nat) (x : PartSys) : (s.setSys n x).pool = s.pool := rfl
@[simp] theorem State.setSys_meshStop (s : State) (n : Nat) (x : PartSys) : (s.setSys n x).meshStop = s.meshStop := rfl
@[simp] theorem State.setSys_fabGen (s : State) (n : Nat) (x : PartSys) : (s.setSys n x).fabGen = s.fabGen := rfl
@[simp] theorem State.setSys_gmSet (s : State) (n : Nat) (x : PartSys) : (s.setSys n x).gmSet = s.gmSet := rfl
@[simp] theorem State.setSys_syncRun (s : State) (n : Nat) (x : PartSys) : (s.setSys n x).syncRun = s.syncRun := rfl
@[simp] theorem State.setSys_syncAt (s : State) (n : Nat) (x : PartSys) : (s.setSys n x).syncAt = s.syncAt := rfl
@[simp] theorem State.setSys_power (s : State) (n : Nat) (x : PartSys) : (s.setSys n x).power = s.power := rfl
@[simp] theorem State.setSys_cap (s : State) (n : Nat) (x : PartSys) : (s.setSys n x).cap = s.cap := rfl
@[simp] theorem State.setSys_fw (s : State) (n : Nat) (x : PartSys) : (s.setSys n x).fw = s.fw := rfl
@[simp] theorem State.setSys_mgmt (s : State) (n : Nat) (x : PartSys) : (s.setSys n x).mgmt = s.mgmt := rfl
@[simp] theorem State.setSys_console (s : State) (n : Nat) (x : PartSys) : (s.setSys n x).console = s.console := rfl
@[simp] theorem State.setSys_hostRead (s : State) (n : Nat) (x : PartSys) : (s.setSys n x).hostRead = s.hostRead := rfl
@[simp] theorem State.setSys_hostUr (s : State) (n : Nat) (x : PartSys) : (s.setSys n x).hostUr = s.hostUr := rfl
@[simp] theorem State.setSys_freeCount (s : State) (n : Nat) (x : PartSys) : (s.setSys n x).freeCount = s.freeCount := rfl
@[simp] theorem State.setSys_tile (s : State) (n : Nat) (x : PartSys) (k : Nat) : (s.setSys n x).tile k = s.tile k := rfl
@[simp] theorem State.setSys_part (s : State) (n : Nat) (x : PartSys) (k : Nat) : (s.setSys n x).part k = s.part k := rfl
@[simp] theorem State.setSys_pair (s : State) (n : Nat) (x : PartSys) (k : Nat) : (s.setSys n x).pair k = s.pair k := rfl
@[simp] theorem State.setSys_port (s : State) (n : Nat) (x : PartSys) (k : Nat) : (s.setSys n x).port k = s.port k := rfl
@[simp] theorem State.setSys_reg (s : State) (n : Nat) (x : PartSys) (k : Nat) : (s.setSys n x).reg k = s.reg k := rfl

/-! ### setPair -/

@[simp] theorem State.setPair_pending (s : State) (p : Nat) (x : Pair) : (s.setPair p x).pending = s.pending := rfl
@[simp] theorem State.setPair_tiles (s : State) (p : Nat) (x : Pair) : (s.setPair p x).tiles = s.tiles := rfl
@[simp] theorem State.setPair_parts (s : State) (p : Nat) (x : Pair) : (s.setPair p x).parts = s.parts := rfl
@[simp] theorem State.setPair_chip (s : State) (p : Nat) (x : Pair) : (s.setPair p x).chip = s.chip := rfl
@[simp] theorem State.setPair_chipLatch (s : State) (p : Nat) (x : Pair) : (s.setPair p x).chipLatch = s.chipLatch := rfl
@[simp] theorem State.setPair_logWins (s : State) (p : Nat) (x : Pair) : (s.setPair p x).logWins = s.logWins := rfl
@[simp] theorem State.setPair_timeAcc (s : State) (p : Nat) (x : Pair) : (s.setPair p x).timeAcc = s.timeAcc := rfl
@[simp] theorem State.setPair_ticks (s : State) (p : Nat) (x : Pair) : (s.setPair p x).ticks = s.ticks := rfl
@[simp] theorem State.setPair_signals (s : State) (p : Nat) (x : Pair) : (s.setPair p x).signals = s.signals := rfl
@[simp] theorem State.setPair_zeroing (s : State) (p : Nat) (x : Pair) : (s.setPair p x).zeroing = s.zeroing := rfl
@[simp] theorem State.setPair_mem (s : State) (p : Nat) (x : Pair) : (s.setPair p x).mem = s.mem := rfl
@[simp] theorem State.setPair_hostMem (s : State) (p : Nat) (x : Pair) : (s.setPair p x).hostMem = s.hostMem := rfl
@[simp] theorem State.setPair_ingressIn (s : State) (p : Nat) (x : Pair) : (s.setPair p x).ingressIn = s.ingressIn := rfl
@[simp] theorem State.setPair_ingressQ (s : State) (p : Nat) (x : Pair) : (s.setPair p x).ingressQ = s.ingressQ := rfl
@[simp] theorem State.setPair_readQ (s : State) (p : Nat) (x : Pair) : (s.setPair p x).readQ = s.readQ := rfl
@[simp] theorem State.setPair_homeGot (s : State) (p : Nat) (x : Pair) : (s.setPair p x).homeGot = s.homeGot := rfl
@[simp] theorem State.setPair_mesh (s : State) (p : Nat) (x : Pair) : (s.setPair p x).mesh = s.mesh := rfl
@[simp] theorem State.setPair_ports (s : State) (p : Nat) (x : Pair) : (s.setPair p x).ports = s.ports := rfl
@[simp] theorem State.setPair_arrivals (s : State) (p : Nat) (x : Pair) : (s.setPair p x).arrivals = s.arrivals := rfl
@[simp] theorem State.setPair_tags (s : State) (p : Nat) (x : Pair) : (s.setPair p x).tags = s.tags := rfl
@[simp] theorem State.setPair_tagQ (s : State) (p : Nat) (x : Pair) : (s.setPair p x).tagQ = s.tagQ := rfl
@[simp] theorem State.setPair_recent (s : State) (p : Nat) (x : Pair) : (s.setPair p x).recent = s.recent := rfl
@[simp] theorem State.setPair_pool (s : State) (p : Nat) (x : Pair) : (s.setPair p x).pool = s.pool := rfl
@[simp] theorem State.setPair_meshStop (s : State) (p : Nat) (x : Pair) : (s.setPair p x).meshStop = s.meshStop := rfl
@[simp] theorem State.setPair_fabGen (s : State) (p : Nat) (x : Pair) : (s.setPair p x).fabGen = s.fabGen := rfl
@[simp] theorem State.setPair_gmSet (s : State) (p : Nat) (x : Pair) : (s.setPair p x).gmSet = s.gmSet := rfl
@[simp] theorem State.setPair_syncRun (s : State) (p : Nat) (x : Pair) : (s.setPair p x).syncRun = s.syncRun := rfl
@[simp] theorem State.setPair_syncAt (s : State) (p : Nat) (x : Pair) : (s.setPair p x).syncAt = s.syncAt := rfl
@[simp] theorem State.setPair_partSys (s : State) (p : Nat) (x : Pair) : (s.setPair p x).partSys = s.partSys := rfl
@[simp] theorem State.setPair_power (s : State) (p : Nat) (x : Pair) : (s.setPair p x).power = s.power := rfl
@[simp] theorem State.setPair_cap (s : State) (p : Nat) (x : Pair) : (s.setPair p x).cap = s.cap := rfl
@[simp] theorem State.setPair_fw (s : State) (p : Nat) (x : Pair) : (s.setPair p x).fw = s.fw := rfl
@[simp] theorem State.setPair_mgmt (s : State) (p : Nat) (x : Pair) : (s.setPair p x).mgmt = s.mgmt := rfl
@[simp] theorem State.setPair_console (s : State) (p : Nat) (x : Pair) : (s.setPair p x).console = s.console := rfl
@[simp] theorem State.setPair_hostRead (s : State) (p : Nat) (x : Pair) : (s.setPair p x).hostRead = s.hostRead := rfl
@[simp] theorem State.setPair_hostUr (s : State) (p : Nat) (x : Pair) : (s.setPair p x).hostUr = s.hostUr := rfl
@[simp] theorem State.setPair_freeCount (s : State) (p : Nat) (x : Pair) : (s.setPair p x).freeCount = s.freeCount := rfl
@[simp] theorem State.setPair_tile (s : State) (p : Nat) (x : Pair) (k : Nat) : (s.setPair p x).tile k = s.tile k := rfl
@[simp] theorem State.setPair_part (s : State) (p : Nat) (x : Pair) (k : Nat) : (s.setPair p x).part k = s.part k := rfl
@[simp] theorem State.setPair_sys (s : State) (p : Nat) (x : Pair) (k : Nat) : (s.setPair p x).sys k = s.sys k := rfl
@[simp] theorem State.setPair_port (s : State) (p : Nat) (x : Pair) (k : Nat) : (s.setPair p x).port k = s.port k := rfl
@[simp] theorem State.setPair_reg (s : State) (p : Nat) (x : Pair) (k : Nat) : (s.setPair p x).reg k = s.reg k := rfl

/-! ### setPort -/

@[simp] theorem State.setPort_pending (s : State) (p : Nat) (x : Port) : (s.setPort p x).pending = s.pending := rfl
@[simp] theorem State.setPort_tiles (s : State) (p : Nat) (x : Port) : (s.setPort p x).tiles = s.tiles := rfl
@[simp] theorem State.setPort_parts (s : State) (p : Nat) (x : Port) : (s.setPort p x).parts = s.parts := rfl
@[simp] theorem State.setPort_chip (s : State) (p : Nat) (x : Port) : (s.setPort p x).chip = s.chip := rfl
@[simp] theorem State.setPort_chipLatch (s : State) (p : Nat) (x : Port) : (s.setPort p x).chipLatch = s.chipLatch := rfl
@[simp] theorem State.setPort_pairs (s : State) (p : Nat) (x : Port) : (s.setPort p x).pairs = s.pairs := rfl
@[simp] theorem State.setPort_logWins (s : State) (p : Nat) (x : Port) : (s.setPort p x).logWins = s.logWins := rfl
@[simp] theorem State.setPort_timeAcc (s : State) (p : Nat) (x : Port) : (s.setPort p x).timeAcc = s.timeAcc := rfl
@[simp] theorem State.setPort_ticks (s : State) (p : Nat) (x : Port) : (s.setPort p x).ticks = s.ticks := rfl
@[simp] theorem State.setPort_signals (s : State) (p : Nat) (x : Port) : (s.setPort p x).signals = s.signals := rfl
@[simp] theorem State.setPort_zeroing (s : State) (p : Nat) (x : Port) : (s.setPort p x).zeroing = s.zeroing := rfl
@[simp] theorem State.setPort_mem (s : State) (p : Nat) (x : Port) : (s.setPort p x).mem = s.mem := rfl
@[simp] theorem State.setPort_hostMem (s : State) (p : Nat) (x : Port) : (s.setPort p x).hostMem = s.hostMem := rfl
@[simp] theorem State.setPort_ingressIn (s : State) (p : Nat) (x : Port) : (s.setPort p x).ingressIn = s.ingressIn := rfl
@[simp] theorem State.setPort_ingressQ (s : State) (p : Nat) (x : Port) : (s.setPort p x).ingressQ = s.ingressQ := rfl
@[simp] theorem State.setPort_readQ (s : State) (p : Nat) (x : Port) : (s.setPort p x).readQ = s.readQ := rfl
@[simp] theorem State.setPort_homeGot (s : State) (p : Nat) (x : Port) : (s.setPort p x).homeGot = s.homeGot := rfl
@[simp] theorem State.setPort_mesh (s : State) (p : Nat) (x : Port) : (s.setPort p x).mesh = s.mesh := rfl
@[simp] theorem State.setPort_arrivals (s : State) (p : Nat) (x : Port) : (s.setPort p x).arrivals = s.arrivals := rfl
@[simp] theorem State.setPort_tags (s : State) (p : Nat) (x : Port) : (s.setPort p x).tags = s.tags := rfl
@[simp] theorem State.setPort_tagQ (s : State) (p : Nat) (x : Port) : (s.setPort p x).tagQ = s.tagQ := rfl
@[simp] theorem State.setPort_recent (s : State) (p : Nat) (x : Port) : (s.setPort p x).recent = s.recent := rfl
@[simp] theorem State.setPort_pool (s : State) (p : Nat) (x : Port) : (s.setPort p x).pool = s.pool := rfl
@[simp] theorem State.setPort_meshStop (s : State) (p : Nat) (x : Port) : (s.setPort p x).meshStop = s.meshStop := rfl
@[simp] theorem State.setPort_fabGen (s : State) (p : Nat) (x : Port) : (s.setPort p x).fabGen = s.fabGen := rfl
@[simp] theorem State.setPort_gmSet (s : State) (p : Nat) (x : Port) : (s.setPort p x).gmSet = s.gmSet := rfl
@[simp] theorem State.setPort_syncRun (s : State) (p : Nat) (x : Port) : (s.setPort p x).syncRun = s.syncRun := rfl
@[simp] theorem State.setPort_syncAt (s : State) (p : Nat) (x : Port) : (s.setPort p x).syncAt = s.syncAt := rfl
@[simp] theorem State.setPort_partSys (s : State) (p : Nat) (x : Port) : (s.setPort p x).partSys = s.partSys := rfl
@[simp] theorem State.setPort_power (s : State) (p : Nat) (x : Port) : (s.setPort p x).power = s.power := rfl
@[simp] theorem State.setPort_cap (s : State) (p : Nat) (x : Port) : (s.setPort p x).cap = s.cap := rfl
@[simp] theorem State.setPort_fw (s : State) (p : Nat) (x : Port) : (s.setPort p x).fw = s.fw := rfl
@[simp] theorem State.setPort_mgmt (s : State) (p : Nat) (x : Port) : (s.setPort p x).mgmt = s.mgmt := rfl
@[simp] theorem State.setPort_console (s : State) (p : Nat) (x : Port) : (s.setPort p x).console = s.console := rfl
@[simp] theorem State.setPort_hostRead (s : State) (p : Nat) (x : Port) : (s.setPort p x).hostRead = s.hostRead := rfl
@[simp] theorem State.setPort_hostUr (s : State) (p : Nat) (x : Port) : (s.setPort p x).hostUr = s.hostUr := rfl
@[simp] theorem State.setPort_freeCount (s : State) (p : Nat) (x : Port) : (s.setPort p x).freeCount = s.freeCount := rfl
@[simp] theorem State.setPort_tile (s : State) (p : Nat) (x : Port) (k : Nat) : (s.setPort p x).tile k = s.tile k := rfl
@[simp] theorem State.setPort_part (s : State) (p : Nat) (x : Port) (k : Nat) : (s.setPort p x).part k = s.part k := rfl
@[simp] theorem State.setPort_sys (s : State) (p : Nat) (x : Port) (k : Nat) : (s.setPort p x).sys k = s.sys k := rfl
@[simp] theorem State.setPort_pair (s : State) (p : Nat) (x : Port) (k : Nat) : (s.setPort p x).pair k = s.pair k := rfl
@[simp] theorem State.setPort_reg (s : State) (p : Nat) (x : Port) (k : Nat) : (s.setPort p x).reg k = s.reg k := rfl

/-! ### setReg -/

@[simp] theorem State.setReg_pending (s : State) (o : Nat) (v : Word) : (s.setReg o v).pending = s.pending := rfl
@[simp] theorem State.setReg_tiles (s : State) (o : Nat) (v : Word) : (s.setReg o v).tiles = s.tiles := rfl
@[simp] theorem State.setReg_parts (s : State) (o : Nat) (v : Word) : (s.setReg o v).parts = s.parts := rfl
@[simp] theorem State.setReg_chipLatch (s : State) (o : Nat) (v : Word) : (s.setReg o v).chipLatch = s.chipLatch := rfl
@[simp] theorem State.setReg_pairs (s : State) (o : Nat) (v : Word) : (s.setReg o v).pairs = s.pairs := rfl
@[simp] theorem State.setReg_logWins (s : State) (o : Nat) (v : Word) : (s.setReg o v).logWins = s.logWins := rfl
@[simp] theorem State.setReg_timeAcc (s : State) (o : Nat) (v : Word) : (s.setReg o v).timeAcc = s.timeAcc := rfl
@[simp] theorem State.setReg_ticks (s : State) (o : Nat) (v : Word) : (s.setReg o v).ticks = s.ticks := rfl
@[simp] theorem State.setReg_signals (s : State) (o : Nat) (v : Word) : (s.setReg o v).signals = s.signals := rfl
@[simp] theorem State.setReg_zeroing (s : State) (o : Nat) (v : Word) : (s.setReg o v).zeroing = s.zeroing := rfl
@[simp] theorem State.setReg_mem (s : State) (o : Nat) (v : Word) : (s.setReg o v).mem = s.mem := rfl
@[simp] theorem State.setReg_hostMem (s : State) (o : Nat) (v : Word) : (s.setReg o v).hostMem = s.hostMem := rfl
@[simp] theorem State.setReg_ingressIn (s : State) (o : Nat) (v : Word) : (s.setReg o v).ingressIn = s.ingressIn := rfl
@[simp] theorem State.setReg_ingressQ (s : State) (o : Nat) (v : Word) : (s.setReg o v).ingressQ = s.ingressQ := rfl
@[simp] theorem State.setReg_readQ (s : State) (o : Nat) (v : Word) : (s.setReg o v).readQ = s.readQ := rfl
@[simp] theorem State.setReg_homeGot (s : State) (o : Nat) (v : Word) : (s.setReg o v).homeGot = s.homeGot := rfl
@[simp] theorem State.setReg_mesh (s : State) (o : Nat) (v : Word) : (s.setReg o v).mesh = s.mesh := rfl
@[simp] theorem State.setReg_ports (s : State) (o : Nat) (v : Word) : (s.setReg o v).ports = s.ports := rfl
@[simp] theorem State.setReg_arrivals (s : State) (o : Nat) (v : Word) : (s.setReg o v).arrivals = s.arrivals := rfl
@[simp] theorem State.setReg_tags (s : State) (o : Nat) (v : Word) : (s.setReg o v).tags = s.tags := rfl
@[simp] theorem State.setReg_tagQ (s : State) (o : Nat) (v : Word) : (s.setReg o v).tagQ = s.tagQ := rfl
@[simp] theorem State.setReg_recent (s : State) (o : Nat) (v : Word) : (s.setReg o v).recent = s.recent := rfl
@[simp] theorem State.setReg_pool (s : State) (o : Nat) (v : Word) : (s.setReg o v).pool = s.pool := rfl
@[simp] theorem State.setReg_meshStop (s : State) (o : Nat) (v : Word) : (s.setReg o v).meshStop = s.meshStop := rfl
@[simp] theorem State.setReg_fabGen (s : State) (o : Nat) (v : Word) : (s.setReg o v).fabGen = s.fabGen := rfl
@[simp] theorem State.setReg_gmSet (s : State) (o : Nat) (v : Word) : (s.setReg o v).gmSet = s.gmSet := rfl
@[simp] theorem State.setReg_syncRun (s : State) (o : Nat) (v : Word) : (s.setReg o v).syncRun = s.syncRun := rfl
@[simp] theorem State.setReg_syncAt (s : State) (o : Nat) (v : Word) : (s.setReg o v).syncAt = s.syncAt := rfl
@[simp] theorem State.setReg_partSys (s : State) (o : Nat) (v : Word) : (s.setReg o v).partSys = s.partSys := rfl
@[simp] theorem State.setReg_power (s : State) (o : Nat) (v : Word) : (s.setReg o v).power = s.power := rfl
@[simp] theorem State.setReg_cap (s : State) (o : Nat) (v : Word) : (s.setReg o v).cap = s.cap := rfl
@[simp] theorem State.setReg_fw (s : State) (o : Nat) (v : Word) : (s.setReg o v).fw = s.fw := rfl
@[simp] theorem State.setReg_mgmt (s : State) (o : Nat) (v : Word) : (s.setReg o v).mgmt = s.mgmt := rfl
@[simp] theorem State.setReg_console (s : State) (o : Nat) (v : Word) : (s.setReg o v).console = s.console := rfl
@[simp] theorem State.setReg_hostRead (s : State) (o : Nat) (v : Word) : (s.setReg o v).hostRead = s.hostRead := rfl
@[simp] theorem State.setReg_hostUr (s : State) (o : Nat) (v : Word) : (s.setReg o v).hostUr = s.hostUr := rfl
@[simp] theorem State.setReg_freeCount (s : State) (o : Nat) (v : Word) : (s.setReg o v).freeCount = s.freeCount := rfl
@[simp] theorem State.setReg_tile (s : State) (o : Nat) (v : Word) (k : Nat) : (s.setReg o v).tile k = s.tile k := rfl
@[simp] theorem State.setReg_part (s : State) (o : Nat) (v : Word) (k : Nat) : (s.setReg o v).part k = s.part k := rfl
@[simp] theorem State.setReg_sys (s : State) (o : Nat) (v : Word) (k : Nat) : (s.setReg o v).sys k = s.sys k := rfl
@[simp] theorem State.setReg_pair (s : State) (o : Nat) (v : Word) (k : Nat) : (s.setReg o v).pair k = s.pair k := rfl
@[simp] theorem State.setReg_port (s : State) (o : Nat) (v : Word) (k : Nat) : (s.setReg o v).port k = s.port k := rfl

/-! ### setF -/

@[simp] theorem State.setF_pending (s : State) (o hi lo v : Nat) : (s.setF o hi lo v).pending = s.pending := rfl
@[simp] theorem State.setF_tiles (s : State) (o hi lo v : Nat) : (s.setF o hi lo v).tiles = s.tiles := rfl
@[simp] theorem State.setF_parts (s : State) (o hi lo v : Nat) : (s.setF o hi lo v).parts = s.parts := rfl
@[simp] theorem State.setF_chipLatch (s : State) (o hi lo v : Nat) : (s.setF o hi lo v).chipLatch = s.chipLatch := rfl
@[simp] theorem State.setF_pairs (s : State) (o hi lo v : Nat) : (s.setF o hi lo v).pairs = s.pairs := rfl
@[simp] theorem State.setF_logWins (s : State) (o hi lo v : Nat) : (s.setF o hi lo v).logWins = s.logWins := rfl
@[simp] theorem State.setF_timeAcc (s : State) (o hi lo v : Nat) : (s.setF o hi lo v).timeAcc = s.timeAcc := rfl
@[simp] theorem State.setF_ticks (s : State) (o hi lo v : Nat) : (s.setF o hi lo v).ticks = s.ticks := rfl
@[simp] theorem State.setF_signals (s : State) (o hi lo v : Nat) : (s.setF o hi lo v).signals = s.signals := rfl
@[simp] theorem State.setF_zeroing (s : State) (o hi lo v : Nat) : (s.setF o hi lo v).zeroing = s.zeroing := rfl
@[simp] theorem State.setF_mem (s : State) (o hi lo v : Nat) : (s.setF o hi lo v).mem = s.mem := rfl
@[simp] theorem State.setF_hostMem (s : State) (o hi lo v : Nat) : (s.setF o hi lo v).hostMem = s.hostMem := rfl
@[simp] theorem State.setF_ingressIn (s : State) (o hi lo v : Nat) : (s.setF o hi lo v).ingressIn = s.ingressIn := rfl
@[simp] theorem State.setF_ingressQ (s : State) (o hi lo v : Nat) : (s.setF o hi lo v).ingressQ = s.ingressQ := rfl
@[simp] theorem State.setF_readQ (s : State) (o hi lo v : Nat) : (s.setF o hi lo v).readQ = s.readQ := rfl
@[simp] theorem State.setF_homeGot (s : State) (o hi lo v : Nat) : (s.setF o hi lo v).homeGot = s.homeGot := rfl
@[simp] theorem State.setF_mesh (s : State) (o hi lo v : Nat) : (s.setF o hi lo v).mesh = s.mesh := rfl
@[simp] theorem State.setF_ports (s : State) (o hi lo v : Nat) : (s.setF o hi lo v).ports = s.ports := rfl
@[simp] theorem State.setF_arrivals (s : State) (o hi lo v : Nat) : (s.setF o hi lo v).arrivals = s.arrivals := rfl
@[simp] theorem State.setF_tags (s : State) (o hi lo v : Nat) : (s.setF o hi lo v).tags = s.tags := rfl
@[simp] theorem State.setF_tagQ (s : State) (o hi lo v : Nat) : (s.setF o hi lo v).tagQ = s.tagQ := rfl
@[simp] theorem State.setF_recent (s : State) (o hi lo v : Nat) : (s.setF o hi lo v).recent = s.recent := rfl
@[simp] theorem State.setF_pool (s : State) (o hi lo v : Nat) : (s.setF o hi lo v).pool = s.pool := rfl
@[simp] theorem State.setF_meshStop (s : State) (o hi lo v : Nat) : (s.setF o hi lo v).meshStop = s.meshStop := rfl
@[simp] theorem State.setF_fabGen (s : State) (o hi lo v : Nat) : (s.setF o hi lo v).fabGen = s.fabGen := rfl
@[simp] theorem State.setF_gmSet (s : State) (o hi lo v : Nat) : (s.setF o hi lo v).gmSet = s.gmSet := rfl
@[simp] theorem State.setF_syncRun (s : State) (o hi lo v : Nat) : (s.setF o hi lo v).syncRun = s.syncRun := rfl
@[simp] theorem State.setF_syncAt (s : State) (o hi lo v : Nat) : (s.setF o hi lo v).syncAt = s.syncAt := rfl
@[simp] theorem State.setF_partSys (s : State) (o hi lo v : Nat) : (s.setF o hi lo v).partSys = s.partSys := rfl
@[simp] theorem State.setF_power (s : State) (o hi lo v : Nat) : (s.setF o hi lo v).power = s.power := rfl
@[simp] theorem State.setF_cap (s : State) (o hi lo v : Nat) : (s.setF o hi lo v).cap = s.cap := rfl
@[simp] theorem State.setF_fw (s : State) (o hi lo v : Nat) : (s.setF o hi lo v).fw = s.fw := rfl
@[simp] theorem State.setF_mgmt (s : State) (o hi lo v : Nat) : (s.setF o hi lo v).mgmt = s.mgmt := rfl
@[simp] theorem State.setF_console (s : State) (o hi lo v : Nat) : (s.setF o hi lo v).console = s.console := rfl
@[simp] theorem State.setF_hostRead (s : State) (o hi lo v : Nat) : (s.setF o hi lo v).hostRead = s.hostRead := rfl
@[simp] theorem State.setF_hostUr (s : State) (o hi lo v : Nat) : (s.setF o hi lo v).hostUr = s.hostUr := rfl
@[simp] theorem State.setF_freeCount (s : State) (o hi lo v : Nat) : (s.setF o hi lo v).freeCount = s.freeCount := rfl
@[simp] theorem State.setF_tile (s : State) (o hi lo v : Nat) (k : Nat) : (s.setF o hi lo v).tile k = s.tile k := rfl
@[simp] theorem State.setF_part (s : State) (o hi lo v : Nat) (k : Nat) : (s.setF o hi lo v).part k = s.part k := rfl
@[simp] theorem State.setF_sys (s : State) (o hi lo v : Nat) (k : Nat) : (s.setF o hi lo v).sys k = s.sys k := rfl
@[simp] theorem State.setF_pair (s : State) (o hi lo v : Nat) (k : Nat) : (s.setF o hi lo v).pair k = s.pair k := rfl
@[simp] theorem State.setF_port (s : State) (o hi lo v : Nat) (k : Nat) : (s.setF o hi lo v).port k = s.port k := rfl

/-! ### modTile -/

@[simp] theorem State.modTile_pending (s : State) (t : Nat) (f : Tile → Tile) : (s.modTile t f).pending = s.pending := rfl
@[simp] theorem State.modTile_parts (s : State) (t : Nat) (f : Tile → Tile) : (s.modTile t f).parts = s.parts := rfl
@[simp] theorem State.modTile_chip (s : State) (t : Nat) (f : Tile → Tile) : (s.modTile t f).chip = s.chip := rfl
@[simp] theorem State.modTile_chipLatch (s : State) (t : Nat) (f : Tile → Tile) : (s.modTile t f).chipLatch = s.chipLatch := rfl
@[simp] theorem State.modTile_pairs (s : State) (t : Nat) (f : Tile → Tile) : (s.modTile t f).pairs = s.pairs := rfl
@[simp] theorem State.modTile_logWins (s : State) (t : Nat) (f : Tile → Tile) : (s.modTile t f).logWins = s.logWins := rfl
@[simp] theorem State.modTile_timeAcc (s : State) (t : Nat) (f : Tile → Tile) : (s.modTile t f).timeAcc = s.timeAcc := rfl
@[simp] theorem State.modTile_ticks (s : State) (t : Nat) (f : Tile → Tile) : (s.modTile t f).ticks = s.ticks := rfl
@[simp] theorem State.modTile_signals (s : State) (t : Nat) (f : Tile → Tile) : (s.modTile t f).signals = s.signals := rfl
@[simp] theorem State.modTile_zeroing (s : State) (t : Nat) (f : Tile → Tile) : (s.modTile t f).zeroing = s.zeroing := rfl
@[simp] theorem State.modTile_mem (s : State) (t : Nat) (f : Tile → Tile) : (s.modTile t f).mem = s.mem := rfl
@[simp] theorem State.modTile_hostMem (s : State) (t : Nat) (f : Tile → Tile) : (s.modTile t f).hostMem = s.hostMem := rfl
@[simp] theorem State.modTile_ingressIn (s : State) (t : Nat) (f : Tile → Tile) : (s.modTile t f).ingressIn = s.ingressIn := rfl
@[simp] theorem State.modTile_ingressQ (s : State) (t : Nat) (f : Tile → Tile) : (s.modTile t f).ingressQ = s.ingressQ := rfl
@[simp] theorem State.modTile_readQ (s : State) (t : Nat) (f : Tile → Tile) : (s.modTile t f).readQ = s.readQ := rfl
@[simp] theorem State.modTile_homeGot (s : State) (t : Nat) (f : Tile → Tile) : (s.modTile t f).homeGot = s.homeGot := rfl
@[simp] theorem State.modTile_mesh (s : State) (t : Nat) (f : Tile → Tile) : (s.modTile t f).mesh = s.mesh := rfl
@[simp] theorem State.modTile_ports (s : State) (t : Nat) (f : Tile → Tile) : (s.modTile t f).ports = s.ports := rfl
@[simp] theorem State.modTile_arrivals (s : State) (t : Nat) (f : Tile → Tile) : (s.modTile t f).arrivals = s.arrivals := rfl
@[simp] theorem State.modTile_tags (s : State) (t : Nat) (f : Tile → Tile) : (s.modTile t f).tags = s.tags := rfl
@[simp] theorem State.modTile_tagQ (s : State) (t : Nat) (f : Tile → Tile) : (s.modTile t f).tagQ = s.tagQ := rfl
@[simp] theorem State.modTile_recent (s : State) (t : Nat) (f : Tile → Tile) : (s.modTile t f).recent = s.recent := rfl
@[simp] theorem State.modTile_pool (s : State) (t : Nat) (f : Tile → Tile) : (s.modTile t f).pool = s.pool := rfl
@[simp] theorem State.modTile_meshStop (s : State) (t : Nat) (f : Tile → Tile) : (s.modTile t f).meshStop = s.meshStop := rfl
@[simp] theorem State.modTile_fabGen (s : State) (t : Nat) (f : Tile → Tile) : (s.modTile t f).fabGen = s.fabGen := rfl
@[simp] theorem State.modTile_gmSet (s : State) (t : Nat) (f : Tile → Tile) : (s.modTile t f).gmSet = s.gmSet := rfl
@[simp] theorem State.modTile_syncRun (s : State) (t : Nat) (f : Tile → Tile) : (s.modTile t f).syncRun = s.syncRun := rfl
@[simp] theorem State.modTile_syncAt (s : State) (t : Nat) (f : Tile → Tile) : (s.modTile t f).syncAt = s.syncAt := rfl
@[simp] theorem State.modTile_partSys (s : State) (t : Nat) (f : Tile → Tile) : (s.modTile t f).partSys = s.partSys := rfl
@[simp] theorem State.modTile_power (s : State) (t : Nat) (f : Tile → Tile) : (s.modTile t f).power = s.power := rfl
@[simp] theorem State.modTile_cap (s : State) (t : Nat) (f : Tile → Tile) : (s.modTile t f).cap = s.cap := rfl
@[simp] theorem State.modTile_fw (s : State) (t : Nat) (f : Tile → Tile) : (s.modTile t f).fw = s.fw := rfl
@[simp] theorem State.modTile_mgmt (s : State) (t : Nat) (f : Tile → Tile) : (s.modTile t f).mgmt = s.mgmt := rfl
@[simp] theorem State.modTile_console (s : State) (t : Nat) (f : Tile → Tile) : (s.modTile t f).console = s.console := rfl
@[simp] theorem State.modTile_hostRead (s : State) (t : Nat) (f : Tile → Tile) : (s.modTile t f).hostRead = s.hostRead := rfl
@[simp] theorem State.modTile_hostUr (s : State) (t : Nat) (f : Tile → Tile) : (s.modTile t f).hostUr = s.hostUr := rfl
@[simp] theorem State.modTile_freeCount (s : State) (t : Nat) (f : Tile → Tile) : (s.modTile t f).freeCount = s.freeCount := rfl
@[simp] theorem State.modTile_part (s : State) (t : Nat) (f : Tile → Tile) (k : Nat) : (s.modTile t f).part k = s.part k := rfl
@[simp] theorem State.modTile_sys (s : State) (t : Nat) (f : Tile → Tile) (k : Nat) : (s.modTile t f).sys k = s.sys k := rfl
@[simp] theorem State.modTile_pair (s : State) (t : Nat) (f : Tile → Tile) (k : Nat) : (s.modTile t f).pair k = s.pair k := rfl
@[simp] theorem State.modTile_port (s : State) (t : Nat) (f : Tile → Tile) (k : Nat) : (s.modTile t f).port k = s.port k := rfl
@[simp] theorem State.modTile_reg (s : State) (t : Nat) (f : Tile → Tile) (k : Nat) : (s.modTile t f).reg k = s.reg k := rfl

/-! ### modPart -/

@[simp] theorem State.modPart_pending (s : State) (n : Nat) (f : Part → Part) : (s.modPart n f).pending = s.pending := rfl
@[simp] theorem State.modPart_tiles (s : State) (n : Nat) (f : Part → Part) : (s.modPart n f).tiles = s.tiles := rfl
@[simp] theorem State.modPart_chip (s : State) (n : Nat) (f : Part → Part) : (s.modPart n f).chip = s.chip := rfl
@[simp] theorem State.modPart_chipLatch (s : State) (n : Nat) (f : Part → Part) : (s.modPart n f).chipLatch = s.chipLatch := rfl
@[simp] theorem State.modPart_pairs (s : State) (n : Nat) (f : Part → Part) : (s.modPart n f).pairs = s.pairs := rfl
@[simp] theorem State.modPart_logWins (s : State) (n : Nat) (f : Part → Part) : (s.modPart n f).logWins = s.logWins := rfl
@[simp] theorem State.modPart_timeAcc (s : State) (n : Nat) (f : Part → Part) : (s.modPart n f).timeAcc = s.timeAcc := rfl
@[simp] theorem State.modPart_ticks (s : State) (n : Nat) (f : Part → Part) : (s.modPart n f).ticks = s.ticks := rfl
@[simp] theorem State.modPart_signals (s : State) (n : Nat) (f : Part → Part) : (s.modPart n f).signals = s.signals := rfl
@[simp] theorem State.modPart_zeroing (s : State) (n : Nat) (f : Part → Part) : (s.modPart n f).zeroing = s.zeroing := rfl
@[simp] theorem State.modPart_mem (s : State) (n : Nat) (f : Part → Part) : (s.modPart n f).mem = s.mem := rfl
@[simp] theorem State.modPart_hostMem (s : State) (n : Nat) (f : Part → Part) : (s.modPart n f).hostMem = s.hostMem := rfl
@[simp] theorem State.modPart_ingressIn (s : State) (n : Nat) (f : Part → Part) : (s.modPart n f).ingressIn = s.ingressIn := rfl
@[simp] theorem State.modPart_ingressQ (s : State) (n : Nat) (f : Part → Part) : (s.modPart n f).ingressQ = s.ingressQ := rfl
@[simp] theorem State.modPart_readQ (s : State) (n : Nat) (f : Part → Part) : (s.modPart n f).readQ = s.readQ := rfl
@[simp] theorem State.modPart_homeGot (s : State) (n : Nat) (f : Part → Part) : (s.modPart n f).homeGot = s.homeGot := rfl
@[simp] theorem State.modPart_mesh (s : State) (n : Nat) (f : Part → Part) : (s.modPart n f).mesh = s.mesh := rfl
@[simp] theorem State.modPart_ports (s : State) (n : Nat) (f : Part → Part) : (s.modPart n f).ports = s.ports := rfl
@[simp] theorem State.modPart_arrivals (s : State) (n : Nat) (f : Part → Part) : (s.modPart n f).arrivals = s.arrivals := rfl
@[simp] theorem State.modPart_tags (s : State) (n : Nat) (f : Part → Part) : (s.modPart n f).tags = s.tags := rfl
@[simp] theorem State.modPart_tagQ (s : State) (n : Nat) (f : Part → Part) : (s.modPart n f).tagQ = s.tagQ := rfl
@[simp] theorem State.modPart_recent (s : State) (n : Nat) (f : Part → Part) : (s.modPart n f).recent = s.recent := rfl
@[simp] theorem State.modPart_pool (s : State) (n : Nat) (f : Part → Part) : (s.modPart n f).pool = s.pool := rfl
@[simp] theorem State.modPart_meshStop (s : State) (n : Nat) (f : Part → Part) : (s.modPart n f).meshStop = s.meshStop := rfl
@[simp] theorem State.modPart_fabGen (s : State) (n : Nat) (f : Part → Part) : (s.modPart n f).fabGen = s.fabGen := rfl
@[simp] theorem State.modPart_gmSet (s : State) (n : Nat) (f : Part → Part) : (s.modPart n f).gmSet = s.gmSet := rfl
@[simp] theorem State.modPart_syncRun (s : State) (n : Nat) (f : Part → Part) : (s.modPart n f).syncRun = s.syncRun := rfl
@[simp] theorem State.modPart_syncAt (s : State) (n : Nat) (f : Part → Part) : (s.modPart n f).syncAt = s.syncAt := rfl
@[simp] theorem State.modPart_partSys (s : State) (n : Nat) (f : Part → Part) : (s.modPart n f).partSys = s.partSys := rfl
@[simp] theorem State.modPart_power (s : State) (n : Nat) (f : Part → Part) : (s.modPart n f).power = s.power := rfl
@[simp] theorem State.modPart_cap (s : State) (n : Nat) (f : Part → Part) : (s.modPart n f).cap = s.cap := rfl
@[simp] theorem State.modPart_fw (s : State) (n : Nat) (f : Part → Part) : (s.modPart n f).fw = s.fw := rfl
@[simp] theorem State.modPart_mgmt (s : State) (n : Nat) (f : Part → Part) : (s.modPart n f).mgmt = s.mgmt := rfl
@[simp] theorem State.modPart_console (s : State) (n : Nat) (f : Part → Part) : (s.modPart n f).console = s.console := rfl
@[simp] theorem State.modPart_hostRead (s : State) (n : Nat) (f : Part → Part) : (s.modPart n f).hostRead = s.hostRead := rfl
@[simp] theorem State.modPart_hostUr (s : State) (n : Nat) (f : Part → Part) : (s.modPart n f).hostUr = s.hostUr := rfl
@[simp] theorem State.modPart_freeCount (s : State) (n : Nat) (f : Part → Part) : (s.modPart n f).freeCount = s.freeCount := rfl
@[simp] theorem State.modPart_tile (s : State) (n : Nat) (f : Part → Part) (k : Nat) : (s.modPart n f).tile k = s.tile k := rfl
@[simp] theorem State.modPart_sys (s : State) (n : Nat) (f : Part → Part) (k : Nat) : (s.modPart n f).sys k = s.sys k := rfl
@[simp] theorem State.modPart_pair (s : State) (n : Nat) (f : Part → Part) (k : Nat) : (s.modPart n f).pair k = s.pair k := rfl
@[simp] theorem State.modPart_port (s : State) (n : Nat) (f : Part → Part) (k : Nat) : (s.modPart n f).port k = s.port k := rfl
@[simp] theorem State.modPart_reg (s : State) (n : Nat) (f : Part → Part) (k : Nat) : (s.modPart n f).reg k = s.reg k := rfl

/-! ### modSys -/

@[simp] theorem State.modSys_pending (s : State) (n : Nat) (f : PartSys → PartSys) : (s.modSys n f).pending = s.pending := rfl
@[simp] theorem State.modSys_tiles (s : State) (n : Nat) (f : PartSys → PartSys) : (s.modSys n f).tiles = s.tiles := rfl
@[simp] theorem State.modSys_parts (s : State) (n : Nat) (f : PartSys → PartSys) : (s.modSys n f).parts = s.parts := rfl
@[simp] theorem State.modSys_chip (s : State) (n : Nat) (f : PartSys → PartSys) : (s.modSys n f).chip = s.chip := rfl
@[simp] theorem State.modSys_chipLatch (s : State) (n : Nat) (f : PartSys → PartSys) : (s.modSys n f).chipLatch = s.chipLatch := rfl
@[simp] theorem State.modSys_pairs (s : State) (n : Nat) (f : PartSys → PartSys) : (s.modSys n f).pairs = s.pairs := rfl
@[simp] theorem State.modSys_logWins (s : State) (n : Nat) (f : PartSys → PartSys) : (s.modSys n f).logWins = s.logWins := rfl
@[simp] theorem State.modSys_timeAcc (s : State) (n : Nat) (f : PartSys → PartSys) : (s.modSys n f).timeAcc = s.timeAcc := rfl
@[simp] theorem State.modSys_ticks (s : State) (n : Nat) (f : PartSys → PartSys) : (s.modSys n f).ticks = s.ticks := rfl
@[simp] theorem State.modSys_signals (s : State) (n : Nat) (f : PartSys → PartSys) : (s.modSys n f).signals = s.signals := rfl
@[simp] theorem State.modSys_zeroing (s : State) (n : Nat) (f : PartSys → PartSys) : (s.modSys n f).zeroing = s.zeroing := rfl
@[simp] theorem State.modSys_mem (s : State) (n : Nat) (f : PartSys → PartSys) : (s.modSys n f).mem = s.mem := rfl
@[simp] theorem State.modSys_hostMem (s : State) (n : Nat) (f : PartSys → PartSys) : (s.modSys n f).hostMem = s.hostMem := rfl
@[simp] theorem State.modSys_ingressIn (s : State) (n : Nat) (f : PartSys → PartSys) : (s.modSys n f).ingressIn = s.ingressIn := rfl
@[simp] theorem State.modSys_ingressQ (s : State) (n : Nat) (f : PartSys → PartSys) : (s.modSys n f).ingressQ = s.ingressQ := rfl
@[simp] theorem State.modSys_readQ (s : State) (n : Nat) (f : PartSys → PartSys) : (s.modSys n f).readQ = s.readQ := rfl
@[simp] theorem State.modSys_homeGot (s : State) (n : Nat) (f : PartSys → PartSys) : (s.modSys n f).homeGot = s.homeGot := rfl
@[simp] theorem State.modSys_mesh (s : State) (n : Nat) (f : PartSys → PartSys) : (s.modSys n f).mesh = s.mesh := rfl
@[simp] theorem State.modSys_ports (s : State) (n : Nat) (f : PartSys → PartSys) : (s.modSys n f).ports = s.ports := rfl
@[simp] theorem State.modSys_arrivals (s : State) (n : Nat) (f : PartSys → PartSys) : (s.modSys n f).arrivals = s.arrivals := rfl
@[simp] theorem State.modSys_tags (s : State) (n : Nat) (f : PartSys → PartSys) : (s.modSys n f).tags = s.tags := rfl
@[simp] theorem State.modSys_tagQ (s : State) (n : Nat) (f : PartSys → PartSys) : (s.modSys n f).tagQ = s.tagQ := rfl
@[simp] theorem State.modSys_recent (s : State) (n : Nat) (f : PartSys → PartSys) : (s.modSys n f).recent = s.recent := rfl
@[simp] theorem State.modSys_pool (s : State) (n : Nat) (f : PartSys → PartSys) : (s.modSys n f).pool = s.pool := rfl
@[simp] theorem State.modSys_meshStop (s : State) (n : Nat) (f : PartSys → PartSys) : (s.modSys n f).meshStop = s.meshStop := rfl
@[simp] theorem State.modSys_fabGen (s : State) (n : Nat) (f : PartSys → PartSys) : (s.modSys n f).fabGen = s.fabGen := rfl
@[simp] theorem State.modSys_gmSet (s : State) (n : Nat) (f : PartSys → PartSys) : (s.modSys n f).gmSet = s.gmSet := rfl
@[simp] theorem State.modSys_syncRun (s : State) (n : Nat) (f : PartSys → PartSys) : (s.modSys n f).syncRun = s.syncRun := rfl
@[simp] theorem State.modSys_syncAt (s : State) (n : Nat) (f : PartSys → PartSys) : (s.modSys n f).syncAt = s.syncAt := rfl
@[simp] theorem State.modSys_power (s : State) (n : Nat) (f : PartSys → PartSys) : (s.modSys n f).power = s.power := rfl
@[simp] theorem State.modSys_cap (s : State) (n : Nat) (f : PartSys → PartSys) : (s.modSys n f).cap = s.cap := rfl
@[simp] theorem State.modSys_fw (s : State) (n : Nat) (f : PartSys → PartSys) : (s.modSys n f).fw = s.fw := rfl
@[simp] theorem State.modSys_mgmt (s : State) (n : Nat) (f : PartSys → PartSys) : (s.modSys n f).mgmt = s.mgmt := rfl
@[simp] theorem State.modSys_console (s : State) (n : Nat) (f : PartSys → PartSys) : (s.modSys n f).console = s.console := rfl
@[simp] theorem State.modSys_hostRead (s : State) (n : Nat) (f : PartSys → PartSys) : (s.modSys n f).hostRead = s.hostRead := rfl
@[simp] theorem State.modSys_hostUr (s : State) (n : Nat) (f : PartSys → PartSys) : (s.modSys n f).hostUr = s.hostUr := rfl
@[simp] theorem State.modSys_freeCount (s : State) (n : Nat) (f : PartSys → PartSys) : (s.modSys n f).freeCount = s.freeCount := rfl
@[simp] theorem State.modSys_tile (s : State) (n : Nat) (f : PartSys → PartSys) (k : Nat) : (s.modSys n f).tile k = s.tile k := rfl
@[simp] theorem State.modSys_part (s : State) (n : Nat) (f : PartSys → PartSys) (k : Nat) : (s.modSys n f).part k = s.part k := rfl
@[simp] theorem State.modSys_pair (s : State) (n : Nat) (f : PartSys → PartSys) (k : Nat) : (s.modSys n f).pair k = s.pair k := rfl
@[simp] theorem State.modSys_port (s : State) (n : Nat) (f : PartSys → PartSys) (k : Nat) : (s.modSys n f).port k = s.port k := rfl
@[simp] theorem State.modSys_reg (s : State) (n : Nat) (f : PartSys → PartSys) (k : Nat) : (s.modSys n f).reg k = s.reg k := rfl

/-! ### modPair -/

@[simp] theorem State.modPair_pending (s : State) (p : Nat) (f : Pair → Pair) : (s.modPair p f).pending = s.pending := rfl
@[simp] theorem State.modPair_tiles (s : State) (p : Nat) (f : Pair → Pair) : (s.modPair p f).tiles = s.tiles := rfl
@[simp] theorem State.modPair_parts (s : State) (p : Nat) (f : Pair → Pair) : (s.modPair p f).parts = s.parts := rfl
@[simp] theorem State.modPair_chip (s : State) (p : Nat) (f : Pair → Pair) : (s.modPair p f).chip = s.chip := rfl
@[simp] theorem State.modPair_chipLatch (s : State) (p : Nat) (f : Pair → Pair) : (s.modPair p f).chipLatch = s.chipLatch := rfl
@[simp] theorem State.modPair_logWins (s : State) (p : Nat) (f : Pair → Pair) : (s.modPair p f).logWins = s.logWins := rfl
@[simp] theorem State.modPair_timeAcc (s : State) (p : Nat) (f : Pair → Pair) : (s.modPair p f).timeAcc = s.timeAcc := rfl
@[simp] theorem State.modPair_ticks (s : State) (p : Nat) (f : Pair → Pair) : (s.modPair p f).ticks = s.ticks := rfl
@[simp] theorem State.modPair_signals (s : State) (p : Nat) (f : Pair → Pair) : (s.modPair p f).signals = s.signals := rfl
@[simp] theorem State.modPair_zeroing (s : State) (p : Nat) (f : Pair → Pair) : (s.modPair p f).zeroing = s.zeroing := rfl
@[simp] theorem State.modPair_mem (s : State) (p : Nat) (f : Pair → Pair) : (s.modPair p f).mem = s.mem := rfl
@[simp] theorem State.modPair_hostMem (s : State) (p : Nat) (f : Pair → Pair) : (s.modPair p f).hostMem = s.hostMem := rfl
@[simp] theorem State.modPair_ingressIn (s : State) (p : Nat) (f : Pair → Pair) : (s.modPair p f).ingressIn = s.ingressIn := rfl
@[simp] theorem State.modPair_ingressQ (s : State) (p : Nat) (f : Pair → Pair) : (s.modPair p f).ingressQ = s.ingressQ := rfl
@[simp] theorem State.modPair_readQ (s : State) (p : Nat) (f : Pair → Pair) : (s.modPair p f).readQ = s.readQ := rfl
@[simp] theorem State.modPair_homeGot (s : State) (p : Nat) (f : Pair → Pair) : (s.modPair p f).homeGot = s.homeGot := rfl
@[simp] theorem State.modPair_mesh (s : State) (p : Nat) (f : Pair → Pair) : (s.modPair p f).mesh = s.mesh := rfl
@[simp] theorem State.modPair_ports (s : State) (p : Nat) (f : Pair → Pair) : (s.modPair p f).ports = s.ports := rfl
@[simp] theorem State.modPair_arrivals (s : State) (p : Nat) (f : Pair → Pair) : (s.modPair p f).arrivals = s.arrivals := rfl
@[simp] theorem State.modPair_tags (s : State) (p : Nat) (f : Pair → Pair) : (s.modPair p f).tags = s.tags := rfl
@[simp] theorem State.modPair_tagQ (s : State) (p : Nat) (f : Pair → Pair) : (s.modPair p f).tagQ = s.tagQ := rfl
@[simp] theorem State.modPair_recent (s : State) (p : Nat) (f : Pair → Pair) : (s.modPair p f).recent = s.recent := rfl
@[simp] theorem State.modPair_pool (s : State) (p : Nat) (f : Pair → Pair) : (s.modPair p f).pool = s.pool := rfl
@[simp] theorem State.modPair_meshStop (s : State) (p : Nat) (f : Pair → Pair) : (s.modPair p f).meshStop = s.meshStop := rfl
@[simp] theorem State.modPair_fabGen (s : State) (p : Nat) (f : Pair → Pair) : (s.modPair p f).fabGen = s.fabGen := rfl
@[simp] theorem State.modPair_gmSet (s : State) (p : Nat) (f : Pair → Pair) : (s.modPair p f).gmSet = s.gmSet := rfl
@[simp] theorem State.modPair_syncRun (s : State) (p : Nat) (f : Pair → Pair) : (s.modPair p f).syncRun = s.syncRun := rfl
@[simp] theorem State.modPair_syncAt (s : State) (p : Nat) (f : Pair → Pair) : (s.modPair p f).syncAt = s.syncAt := rfl
@[simp] theorem State.modPair_partSys (s : State) (p : Nat) (f : Pair → Pair) : (s.modPair p f).partSys = s.partSys := rfl
@[simp] theorem State.modPair_power (s : State) (p : Nat) (f : Pair → Pair) : (s.modPair p f).power = s.power := rfl
@[simp] theorem State.modPair_cap (s : State) (p : Nat) (f : Pair → Pair) : (s.modPair p f).cap = s.cap := rfl
@[simp] theorem State.modPair_fw (s : State) (p : Nat) (f : Pair → Pair) : (s.modPair p f).fw = s.fw := rfl
@[simp] theorem State.modPair_mgmt (s : State) (p : Nat) (f : Pair → Pair) : (s.modPair p f).mgmt = s.mgmt := rfl
@[simp] theorem State.modPair_console (s : State) (p : Nat) (f : Pair → Pair) : (s.modPair p f).console = s.console := rfl
@[simp] theorem State.modPair_hostRead (s : State) (p : Nat) (f : Pair → Pair) : (s.modPair p f).hostRead = s.hostRead := rfl
@[simp] theorem State.modPair_hostUr (s : State) (p : Nat) (f : Pair → Pair) : (s.modPair p f).hostUr = s.hostUr := rfl
@[simp] theorem State.modPair_freeCount (s : State) (p : Nat) (f : Pair → Pair) : (s.modPair p f).freeCount = s.freeCount := rfl
@[simp] theorem State.modPair_tile (s : State) (p : Nat) (f : Pair → Pair) (k : Nat) : (s.modPair p f).tile k = s.tile k := rfl
@[simp] theorem State.modPair_part (s : State) (p : Nat) (f : Pair → Pair) (k : Nat) : (s.modPair p f).part k = s.part k := rfl
@[simp] theorem State.modPair_sys (s : State) (p : Nat) (f : Pair → Pair) (k : Nat) : (s.modPair p f).sys k = s.sys k := rfl
@[simp] theorem State.modPair_port (s : State) (p : Nat) (f : Pair → Pair) (k : Nat) : (s.modPair p f).port k = s.port k := rfl
@[simp] theorem State.modPair_reg (s : State) (p : Nat) (f : Pair → Pair) (k : Nat) : (s.modPair p f).reg k = s.reg k := rfl

/-! ### modPort -/

@[simp] theorem State.modPort_pending (s : State) (p : Nat) (f : Port → Port) : (s.modPort p f).pending = s.pending := rfl
@[simp] theorem State.modPort_tiles (s : State) (p : Nat) (f : Port → Port) : (s.modPort p f).tiles = s.tiles := rfl
@[simp] theorem State.modPort_parts (s : State) (p : Nat) (f : Port → Port) : (s.modPort p f).parts = s.parts := rfl
@[simp] theorem State.modPort_chip (s : State) (p : Nat) (f : Port → Port) : (s.modPort p f).chip = s.chip := rfl
@[simp] theorem State.modPort_chipLatch (s : State) (p : Nat) (f : Port → Port) : (s.modPort p f).chipLatch = s.chipLatch := rfl
@[simp] theorem State.modPort_pairs (s : State) (p : Nat) (f : Port → Port) : (s.modPort p f).pairs = s.pairs := rfl
@[simp] theorem State.modPort_logWins (s : State) (p : Nat) (f : Port → Port) : (s.modPort p f).logWins = s.logWins := rfl
@[simp] theorem State.modPort_timeAcc (s : State) (p : Nat) (f : Port → Port) : (s.modPort p f).timeAcc = s.timeAcc := rfl
@[simp] theorem State.modPort_ticks (s : State) (p : Nat) (f : Port → Port) : (s.modPort p f).ticks = s.ticks := rfl
@[simp] theorem State.modPort_signals (s : State) (p : Nat) (f : Port → Port) : (s.modPort p f).signals = s.signals := rfl
@[simp] theorem State.modPort_zeroing (s : State) (p : Nat) (f : Port → Port) : (s.modPort p f).zeroing = s.zeroing := rfl
@[simp] theorem State.modPort_mem (s : State) (p : Nat) (f : Port → Port) : (s.modPort p f).mem = s.mem := rfl
@[simp] theorem State.modPort_hostMem (s : State) (p : Nat) (f : Port → Port) : (s.modPort p f).hostMem = s.hostMem := rfl
@[simp] theorem State.modPort_ingressIn (s : State) (p : Nat) (f : Port → Port) : (s.modPort p f).ingressIn = s.ingressIn := rfl
@[simp] theorem State.modPort_ingressQ (s : State) (p : Nat) (f : Port → Port) : (s.modPort p f).ingressQ = s.ingressQ := rfl
@[simp] theorem State.modPort_readQ (s : State) (p : Nat) (f : Port → Port) : (s.modPort p f).readQ = s.readQ := rfl
@[simp] theorem State.modPort_homeGot (s : State) (p : Nat) (f : Port → Port) : (s.modPort p f).homeGot = s.homeGot := rfl
@[simp] theorem State.modPort_mesh (s : State) (p : Nat) (f : Port → Port) : (s.modPort p f).mesh = s.mesh := rfl
@[simp] theorem State.modPort_arrivals (s : State) (p : Nat) (f : Port → Port) : (s.modPort p f).arrivals = s.arrivals := rfl
@[simp] theorem State.modPort_tags (s : State) (p : Nat) (f : Port → Port) : (s.modPort p f).tags = s.tags := rfl
@[simp] theorem State.modPort_tagQ (s : State) (p : Nat) (f : Port → Port) : (s.modPort p f).tagQ = s.tagQ := rfl
@[simp] theorem State.modPort_recent (s : State) (p : Nat) (f : Port → Port) : (s.modPort p f).recent = s.recent := rfl
@[simp] theorem State.modPort_pool (s : State) (p : Nat) (f : Port → Port) : (s.modPort p f).pool = s.pool := rfl
@[simp] theorem State.modPort_meshStop (s : State) (p : Nat) (f : Port → Port) : (s.modPort p f).meshStop = s.meshStop := rfl
@[simp] theorem State.modPort_fabGen (s : State) (p : Nat) (f : Port → Port) : (s.modPort p f).fabGen = s.fabGen := rfl
@[simp] theorem State.modPort_gmSet (s : State) (p : Nat) (f : Port → Port) : (s.modPort p f).gmSet = s.gmSet := rfl
@[simp] theorem State.modPort_syncRun (s : State) (p : Nat) (f : Port → Port) : (s.modPort p f).syncRun = s.syncRun := rfl
@[simp] theorem State.modPort_syncAt (s : State) (p : Nat) (f : Port → Port) : (s.modPort p f).syncAt = s.syncAt := rfl
@[simp] theorem State.modPort_partSys (s : State) (p : Nat) (f : Port → Port) : (s.modPort p f).partSys = s.partSys := rfl
@[simp] theorem State.modPort_power (s : State) (p : Nat) (f : Port → Port) : (s.modPort p f).power = s.power := rfl
@[simp] theorem State.modPort_cap (s : State) (p : Nat) (f : Port → Port) : (s.modPort p f).cap = s.cap := rfl
@[simp] theorem State.modPort_fw (s : State) (p : Nat) (f : Port → Port) : (s.modPort p f).fw = s.fw := rfl
@[simp] theorem State.modPort_mgmt (s : State) (p : Nat) (f : Port → Port) : (s.modPort p f).mgmt = s.mgmt := rfl
@[simp] theorem State.modPort_console (s : State) (p : Nat) (f : Port → Port) : (s.modPort p f).console = s.console := rfl
@[simp] theorem State.modPort_hostRead (s : State) (p : Nat) (f : Port → Port) : (s.modPort p f).hostRead = s.hostRead := rfl
@[simp] theorem State.modPort_hostUr (s : State) (p : Nat) (f : Port → Port) : (s.modPort p f).hostUr = s.hostUr := rfl
@[simp] theorem State.modPort_freeCount (s : State) (p : Nat) (f : Port → Port) : (s.modPort p f).freeCount = s.freeCount := rfl
@[simp] theorem State.modPort_tile (s : State) (p : Nat) (f : Port → Port) (k : Nat) : (s.modPort p f).tile k = s.tile k := rfl
@[simp] theorem State.modPort_part (s : State) (p : Nat) (f : Port → Port) (k : Nat) : (s.modPort p f).part k = s.part k := rfl
@[simp] theorem State.modPort_sys (s : State) (p : Nat) (f : Port → Port) (k : Nat) : (s.modPort p f).sys k = s.sys k := rfl
@[simp] theorem State.modPort_pair (s : State) (p : Nat) (f : Port → Port) (k : Nat) : (s.modPort p f).pair k = s.pair k := rfl
@[simp] theorem State.modPort_reg (s : State) (p : Nat) (f : Port → Port) (k : Nat) : (s.modPort p f).reg k = s.reg k := rfl

/-! ### What is read after an update -/

@[simp] theorem State.setTile_tile_same (s : State) (k : Nat) (x : Tile) : (s.setTile k x).tile k = x := tabGet_set_same _ _ _ _
theorem State.setTile_tile_ne (s : State) {k j : Nat} (x : Tile) (h : j ≠ k) : (s.setTile k x).tile j = s.tile j :=
  tabGet_set_ne _ _ _ h
theorem State.setTile_tile (s : State) (k j : Nat) (x : Tile) : (s.setTile k x).tile j = if j = k then x else s.tile j :=
  tabGet_set _ _ _ _ _
@[simp] theorem State.modTile_tile_same (s : State) (k : Nat) (f : Tile → Tile) : (s.modTile k f).tile k = f (s.tile k) :=
  tabGet_set_same _ _ _ _
theorem State.modTile_tile_ne (s : State) {k j : Nat} (f : Tile → Tile) (h : j ≠ k) : (s.modTile k f).tile j = s.tile j :=
  tabGet_set_ne _ _ _ h
@[simp] theorem State.setPart_part_same (s : State) (k : Nat) (x : Part) : (s.setPart k x).part k = x := tabGet_set_same _ _ _ _
theorem State.setPart_part_ne (s : State) {k j : Nat} (x : Part) (h : j ≠ k) : (s.setPart k x).part j = s.part j :=
  tabGet_set_ne _ _ _ h
theorem State.setPart_part (s : State) (k j : Nat) (x : Part) : (s.setPart k x).part j = if j = k then x else s.part j :=
  tabGet_set _ _ _ _ _
@[simp] theorem State.modPart_part_same (s : State) (k : Nat) (f : Part → Part) : (s.modPart k f).part k = f (s.part k) :=
  tabGet_set_same _ _ _ _
theorem State.modPart_part_ne (s : State) {k j : Nat} (f : Part → Part) (h : j ≠ k) : (s.modPart k f).part j = s.part j :=
  tabGet_set_ne _ _ _ h
@[simp] theorem State.setSys_sys_same (s : State) (k : Nat) (x : PartSys) : (s.setSys k x).sys k = x := tabGet_set_same _ _ _ _
theorem State.setSys_sys_ne (s : State) {k j : Nat} (x : PartSys) (h : j ≠ k) : (s.setSys k x).sys j = s.sys j :=
  tabGet_set_ne _ _ _ h
theorem State.setSys_sys (s : State) (k j : Nat) (x : PartSys) : (s.setSys k x).sys j = if j = k then x else s.sys j :=
  tabGet_set _ _ _ _ _
@[simp] theorem State.modSys_sys_same (s : State) (k : Nat) (f : PartSys → PartSys) : (s.modSys k f).sys k = f (s.sys k) :=
  tabGet_set_same _ _ _ _
theorem State.modSys_sys_ne (s : State) {k j : Nat} (f : PartSys → PartSys) (h : j ≠ k) : (s.modSys k f).sys j = s.sys j :=
  tabGet_set_ne _ _ _ h
@[simp] theorem State.setPair_pair_same (s : State) (k : Nat) (x : Pair) : (s.setPair k x).pair k = x := tabGet_set_same _ _ _ _
theorem State.setPair_pair_ne (s : State) {k j : Nat} (x : Pair) (h : j ≠ k) : (s.setPair k x).pair j = s.pair j :=
  tabGet_set_ne _ _ _ h
theorem State.setPair_pair (s : State) (k j : Nat) (x : Pair) : (s.setPair k x).pair j = if j = k then x else s.pair j :=
  tabGet_set _ _ _ _ _
@[simp] theorem State.modPair_pair_same (s : State) (k : Nat) (f : Pair → Pair) : (s.modPair k f).pair k = f (s.pair k) :=
  tabGet_set_same _ _ _ _
theorem State.modPair_pair_ne (s : State) {k j : Nat} (f : Pair → Pair) (h : j ≠ k) : (s.modPair k f).pair j = s.pair j :=
  tabGet_set_ne _ _ _ h
@[simp] theorem State.setPort_port_same (s : State) (k : Nat) (x : Port) : (s.setPort k x).port k = x := tabGet_set_same _ _ _ _
theorem State.setPort_port_ne (s : State) {k j : Nat} (x : Port) (h : j ≠ k) : (s.setPort k x).port j = s.port j :=
  tabGet_set_ne _ _ _ h
theorem State.setPort_port (s : State) (k j : Nat) (x : Port) : (s.setPort k x).port j = if j = k then x else s.port j :=
  tabGet_set _ _ _ _ _
@[simp] theorem State.modPort_port_same (s : State) (k : Nat) (f : Port → Port) : (s.modPort k f).port k = f (s.port k) :=
  tabGet_set_same _ _ _ _
theorem State.modPort_port_ne (s : State) {k j : Nat} (f : Port → Port) (h : j ≠ k) : (s.modPort k f).port j = s.port j :=
  tabGet_set_ne _ _ _ h
@[simp] theorem State.setReg_reg_same (s : State) (k : Nat) (x : Word) : (s.setReg k x).reg k = x := tabGet_set_same _ _ _ _
theorem State.setReg_reg_ne (s : State) {k j : Nat} (x : Word) (h : j ≠ k) : (s.setReg k x).reg j = s.reg j :=
  tabGet_set_ne _ _ _ h
theorem State.setReg_reg (s : State) (k j : Nat) (x : Word) : (s.setReg k x).reg j = if j = k then x else s.reg j :=
  tabGet_set _ _ _ _ _

/-! ### Registers within a tile, a partition, a pair, a port -/

@[simp] theorem Tile.setReg_reg_same (t : Tile) (o : Nat) (w : Word) : (t.setReg o w).reg o = w := tabGet_set_same _ _ _ _
theorem Tile.setReg_reg_ne (t : Tile) {o q : Nat} (w : Word) (h : q ≠ o) : (t.setReg o w).reg q = t.reg q :=
  tabGet_set_ne _ _ _ h
theorem Tile.setReg_reg (t : Tile) (o q : Nat) (w : Word) : (t.setReg o w).reg q = if q = o then w else t.reg q :=
  tabGet_set _ _ _ _ _
@[simp] theorem Part.setReg_reg_same (p : Part) (o : Nat) (w : Word) : (p.setReg o w).reg o = w := tabGet_set_same _ _ _ _
theorem Part.setReg_reg_ne (p : Part) {o q : Nat} (w : Word) (h : q ≠ o) : (p.setReg o w).reg q = p.reg q :=
  tabGet_set_ne _ _ _ h
theorem Part.setReg_reg (p : Part) (o q : Nat) (w : Word) : (p.setReg o w).reg q = if q = o then w else p.reg q :=
  tabGet_set _ _ _ _ _
@[simp] theorem Pair.setReg_reg_same (p : Pair) (o : Nat) (w : Word) : (p.setReg o w).reg o = w := tabGet_set_same _ _ _ _
theorem Pair.setReg_reg_ne (p : Pair) {o q : Nat} (w : Word) (h : q ≠ o) : (p.setReg o w).reg q = p.reg q :=
  tabGet_set_ne _ _ _ h
theorem Pair.setReg_reg (p : Pair) (o q : Nat) (w : Word) : (p.setReg o w).reg q = if q = o then w else p.reg q :=
  tabGet_set _ _ _ _ _
@[simp] theorem Port.setReg_reg_same (p : Port) (o : Nat) (w : Word) : (p.setReg o w).reg o = w := tabGet_set_same _ _ _ _
theorem Port.setReg_reg_ne (p : Port) {o q : Nat} (w : Word) (h : q ≠ o) : (p.setReg o w).reg q = p.reg q :=
  tabGet_set_ne _ _ _ h
theorem Port.setReg_reg (p : Port) (o q : Nat) (w : Word) : (p.setReg o w).reg q = if q = o then w else p.reg q :=
  tabGet_set _ _ _ _ _

/-! ### Tile.setReg and Tile.setF -/

@[simp] theorem Tile.setReg_latch (t : Tile) (o : Nat) (w : Word) : (t.setReg o w).latch = t.latch := rfl
@[simp] theorem Tile.setF_latch (t : Tile) (o hi lo x : Nat) : (t.setF o hi lo x).latch = t.latch := rfl
@[simp] theorem Tile.setReg_scratch (t : Tile) (o : Nat) (w : Word) : (t.setReg o w).scratch = t.scratch := rfl
@[simp] theorem Tile.setF_scratch (t : Tile) (o hi lo x : Nat) : (t.setF o hi lo x).scratch = t.scratch := rfl
@[simp] theorem Tile.setReg_scrBad (t : Tile) (o : Nat) (w : Word) : (t.setReg o w).scrBad = t.scrBad := rfl
@[simp] theorem Tile.setF_scrBad (t : Tile) (o hi lo x : Nat) : (t.setF o hi lo x).scrBad = t.scrBad := rfl
@[simp] theorem Tile.setReg_turn (t : Tile) (o : Nat) (w : Word) : (t.setReg o w).turn = t.turn := rfl
@[simp] theorem Tile.setF_turn (t : Tile) (o hi lo x : Nat) : (t.setF o hi lo x).turn = t.turn := rfl
@[simp] theorem Tile.setReg_gang (t : Tile) (o : Nat) (w : Word) : (t.setReg o w).gang = t.gang := rfl
@[simp] theorem Tile.setF_gang (t : Tile) (o hi lo x : Nat) : (t.setF o hi lo x).gang = t.gang := rfl
@[simp] theorem Tile.setReg_wAct (t : Tile) (o : Nat) (w : Word) : (t.setReg o w).wAct = t.wAct := rfl
@[simp] theorem Tile.setF_wAct (t : Tile) (o hi lo x : Nat) : (t.setF o hi lo x).wAct = t.wAct := rfl
@[simp] theorem Tile.setReg_wPend (t : Tile) (o : Nat) (w : Word) : (t.setReg o w).wPend = t.wPend := rfl
@[simp] theorem Tile.setF_wPend (t : Tile) (o hi lo x : Nat) : (t.setF o hi lo x).wPend = t.wPend := rfl
@[simp] theorem Tile.setReg_wPendOn (t : Tile) (o : Nat) (w : Word) : (t.setReg o w).wPendOn = t.wPendOn := rfl
@[simp] theorem Tile.setF_wPendOn (t : Tile) (o hi lo x : Nat) : (t.setF o hi lo x).wPendOn = t.wPendOn := rfl
@[simp] theorem Tile.setReg_wValid (t : Tile) (o : Nat) (w : Word) : (t.setReg o w).wValid = t.wValid := rfl
@[simp] theorem Tile.setF_wValid (t : Tile) (o hi lo x : Nat) : (t.setF o hi lo x).wValid = t.wValid := rfl
@[simp] theorem Tile.setReg_acc (t : Tile) (o : Nat) (w : Word) : (t.setReg o w).acc = t.acc := rfl
@[simp] theorem Tile.setF_acc (t : Tile) (o hi lo x : Nat) : (t.setF o hi lo x).acc = t.acc := rfl
@[simp] theorem Tile.setReg_accOpen (t : Tile) (o : Nat) (w : Word) : (t.setReg o w).accOpen = t.accOpen := rfl
@[simp] theorem Tile.setF_accOpen (t : Tile) (o hi lo x : Nat) : (t.setF o hi lo x).accOpen = t.accOpen := rfl
@[simp] theorem Tile.setReg_fill (t : Tile) (o : Nat) (w : Word) : (t.setReg o w).fill = t.fill := rfl
@[simp] theorem Tile.setF_fill (t : Tile) (o hi lo x : Nat) : (t.setF o hi lo x).fill = t.fill := rfl
@[simp] theorem Tile.setReg_openTile (t : Tile) (o : Nat) (w : Word) : (t.setReg o w).openTile = t.openTile := rfl
@[simp] theorem Tile.setF_openTile (t : Tile) (o hi lo x : Nat) : (t.setF o hi lo x).openTile = t.openTile := rfl
@[simp] theorem Tile.setReg_passes (t : Tile) (o : Nat) (w : Word) : (t.setReg o w).passes = t.passes := rfl
@[simp] theorem Tile.setF_passes (t : Tile) (o hi lo x : Nat) : (t.setF o hi lo x).passes = t.passes := rfl
@[simp] theorem Tile.setReg_drains (t : Tile) (o : Nat) (w : Word) : (t.setReg o w).drains = t.drains := rfl
@[simp] theorem Tile.setF_drains (t : Tile) (o hi lo x : Nat) : (t.setF o hi lo x).drains = t.drains := rfl
@[simp] theorem Tile.setReg_targets (t : Tile) (o : Nat) (w : Word) : (t.setReg o w).targets = t.targets := rfl
@[simp] theorem Tile.setF_targets (t : Tile) (o hi lo x : Nat) : (t.setF o hi lo x).targets = t.targets := rfl
@[simp] theorem Tile.setReg_drainBaseLocal (t : Tile) (o : Nat) (w : Word) : (t.setReg o w).drainBaseLocal = t.drainBaseLocal := rfl
@[simp] theorem Tile.setF_drainBaseLocal (t : Tile) (o hi lo x : Nat) : (t.setF o hi lo x).drainBaseLocal = t.drainBaseLocal := rfl
@[simp] theorem Tile.setReg_streams (t : Tile) (o : Nat) (w : Word) : (t.setReg o w).streams = t.streams := rfl
@[simp] theorem Tile.setF_streams (t : Tile) (o hi lo x : Nat) : (t.setF o hi lo x).streams = t.streams := rfl
@[simp] theorem Tile.setReg_arr (t : Tile) (o : Nat) (w : Word) : (t.setReg o w).arr = t.arr := rfl
@[simp] theorem Tile.setF_arr (t : Tile) (o hi lo x : Nat) : (t.setF o hi lo x).arr = t.arr := rfl
@[simp] theorem Tile.setReg_now (t : Tile) (o : Nat) (w : Word) : (t.setReg o w).now = t.now := rfl
@[simp] theorem Tile.setF_now (t : Tile) (o hi lo x : Nat) : (t.setF o hi lo x).now = t.now := rfl
@[simp] theorem Tile.setReg_expanding (t : Tile) (o : Nat) (w : Word) : (t.setReg o w).expanding = t.expanding := rfl
@[simp] theorem Tile.setF_expanding (t : Tile) (o hi lo x : Nat) : (t.setF o hi lo x).expanding = t.expanding := rfl
@[simp] theorem Tile.setReg_patterns (t : Tile) (o : Nat) (w : Word) : (t.setReg o w).patterns = t.patterns := rfl
@[simp] theorem Tile.setF_patterns (t : Tile) (o hi lo x : Nat) : (t.setF o hi lo x).patterns = t.patterns := rfl
@[simp] theorem Tile.setReg_patBad (t : Tile) (o : Nat) (w : Word) : (t.setReg o w).patBad = t.patBad := rfl
@[simp] theorem Tile.setF_patBad (t : Tile) (o hi lo x : Nat) : (t.setF o hi lo x).patBad = t.patBad := rfl
@[simp] theorem Tile.setReg_gens (t : Tile) (o : Nat) (w : Word) : (t.setReg o w).gens = t.gens := rfl
@[simp] theorem Tile.setF_gens (t : Tile) (o hi lo x : Nat) : (t.setF o hi lo x).gens = t.gens := rfl
@[simp] theorem Tile.setReg_reseed (t : Tile) (o : Nat) (w : Word) : (t.setReg o w).reseed = t.reseed := rfl
@[simp] theorem Tile.setF_reseed (t : Tile) (o hi lo x : Nat) : (t.setF o hi lo x).reseed = t.reseed := rfl
@[simp] theorem Tile.setReg_queues (t : Tile) (o : Nat) (w : Word) : (t.setReg o w).queues = t.queues := rfl
@[simp] theorem Tile.setF_queues (t : Tile) (o hi lo x : Nat) : (t.setF o hi lo x).queues = t.queues := rfl
@[simp] theorem Tile.setReg_holdW (t : Tile) (o : Nat) (w : Word) : (t.setReg o w).holdW = t.holdW := rfl
@[simp] theorem Tile.setF_holdW (t : Tile) (o hi lo x : Nat) : (t.setF o hi lo x).holdW = t.holdW := rfl
@[simp] theorem Tile.setReg_waits (t : Tile) (o : Nat) (w : Word) : (t.setReg o w).waits = t.waits := rfl
@[simp] theorem Tile.setF_waits (t : Tile) (o hi lo x : Nat) : (t.setF o hi lo x).waits = t.waits := rfl
@[simp] theorem Tile.setReg_xr (t : Tile) (o : Nat) (w : Word) : (t.setReg o w).xr = t.xr := rfl
@[simp] theorem Tile.setF_xr (t : Tile) (o hi lo x : Nat) : (t.setF o hi lo x).xr = t.xr := rfl
@[simp] theorem Tile.setReg_pc (t : Tile) (o : Nat) (w : Word) : (t.setReg o w).pc = t.pc := rfl
@[simp] theorem Tile.setF_pc (t : Tile) (o hi lo x : Nat) : (t.setF o hi lo x).pc = t.pc := rfl
@[simp] theorem Tile.setReg_sbuf (t : Tile) (o : Nat) (w : Word) : (t.setReg o w).sbuf = t.sbuf := rfl
@[simp] theorem Tile.setF_sbuf (t : Tile) (o hi lo x : Nat) : (t.setF o hi lo x).sbuf = t.sbuf := rfl
@[simp] theorem Tile.setReg_stall (t : Tile) (o : Nat) (w : Word) : (t.setReg o w).stall = t.stall := rfl
@[simp] theorem Tile.setF_stall (t : Tile) (o hi lo x : Nat) : (t.setF o hi lo x).stall = t.stall := rfl
@[simp] theorem Tile.setReg_fresh (t : Tile) (o : Nat) (w : Word) : (t.setReg o w).fresh = t.fresh := rfl
@[simp] theorem Tile.setF_fresh (t : Tile) (o hi lo x : Nat) : (t.setF o hi lo x).fresh = t.fresh := rfl
@[simp] theorem Tile.setReg_vr (t : Tile) (o : Nat) (w : Word) : (t.setReg o w).vr = t.vr := rfl
@[simp] theorem Tile.setF_vr (t : Tile) (o hi lo x : Nat) : (t.setF o hi lo x).vr = t.vr := rfl
@[simp] theorem Tile.setReg_issuing (t : Tile) (o : Nat) (w : Word) : (t.setReg o w).issuing = t.issuing := rfl
@[simp] theorem Tile.setF_issuing (t : Tile) (o hi lo x : Nat) : (t.setF o hi lo x).issuing = t.issuing := rfl
@[simp] theorem Tile.setReg_txns (t : Tile) (o : Nat) (w : Word) : (t.setReg o w).txns = t.txns := rfl
@[simp] theorem Tile.setF_txns (t : Tile) (o hi lo x : Nat) : (t.setF o hi lo x).txns = t.txns := rfl
@[simp] theorem Tile.setReg_txnNext (t : Tile) (o : Nat) (w : Word) : (t.setReg o w).txnNext = t.txnNext := rfl
@[simp] theorem Tile.setF_txnNext (t : Tile) (o hi lo x : Nat) : (t.setF o hi lo x).txnNext = t.txnNext := rfl
@[simp] theorem Tile.setReg_inScr (t : Tile) (o : Nat) (w : Word) : (t.setReg o w).inScr = t.inScr := rfl
@[simp] theorem Tile.setF_inScr (t : Tile) (o hi lo x : Nat) : (t.setF o hi lo x).inScr = t.inScr := rfl
@[simp] theorem Tile.setReg_scrAcks (t : Tile) (o : Nat) (w : Word) : (t.setReg o w).scrAcks = t.scrAcks := rfl
@[simp] theorem Tile.setF_scrAcks (t : Tile) (o hi lo x : Nat) : (t.setF o hi lo x).scrAcks = t.scrAcks := rfl
@[simp] theorem Tile.setReg_cache (t : Tile) (o : Nat) (w : Word) : (t.setReg o w).cache = t.cache := rfl
@[simp] theorem Tile.setF_cache (t : Tile) (o hi lo x : Nat) : (t.setF o hi lo x).cache = t.cache := rfl
@[simp] theorem Tile.setReg_stamp (t : Tile) (o : Nat) (w : Word) : (t.setReg o w).stamp = t.stamp := rfl
@[simp] theorem Tile.setF_stamp (t : Tile) (o hi lo x : Nat) : (t.setF o hi lo x).stamp = t.stamp := rfl
@[simp] theorem Tile.setReg_fills (t : Tile) (o : Nat) (w : Word) : (t.setReg o w).fills = t.fills := rfl
@[simp] theorem Tile.setF_fills (t : Tile) (o hi lo x : Nat) : (t.setF o hi lo x).fills = t.fills := rfl
@[simp] theorem Tile.setReg_sliceQ (t : Tile) (o : Nat) (w : Word) : (t.setReg o w).sliceQ = t.sliceQ := rfl
@[simp] theorem Tile.setF_sliceQ (t : Tile) (o hi lo x : Nat) : (t.setF o hi lo x).sliceQ = t.sliceQ := rfl
@[simp] theorem Tile.setReg_pailBad (t : Tile) (o : Nat) (w : Word) : (t.setReg o w).pailBad = t.pailBad := rfl
@[simp] theorem Tile.setF_pailBad (t : Tile) (o hi lo x : Nat) : (t.setF o hi lo x).pailBad = t.pailBad := rfl
@[simp] theorem Tile.setReg_invStart (t : Tile) (o : Nat) (w : Word) : (t.setReg o w).invStart = t.invStart := rfl
@[simp] theorem Tile.setF_invStart (t : Tile) (o hi lo x : Nat) : (t.setF o hi lo x).invStart = t.invStart := rfl
@[simp] theorem Tile.setReg_col (t : Tile) (o : Nat) (w : Word) : (t.setReg o w).col = t.col := rfl
@[simp] theorem Tile.setF_col (t : Tile) (o hi lo x : Nat) : (t.setF o hi lo x).col = t.col := rfl
@[simp] theorem Tile.setReg_churn (t : Tile) (o : Nat) (w : Word) : (t.setReg o w).churn = t.churn := rfl
@[simp] theorem Tile.setF_churn (t : Tile) (o hi lo x : Nat) : (t.setF o hi lo x).churn = t.churn := rfl
@[simp] theorem Tile.setReg_skim (t : Tile) (o : Nat) (w : Word) : (t.setReg o w).skim = t.skim := rfl
@[simp] theorem Tile.setF_skim (t : Tile) (o hi lo x : Nat) : (t.setF o hi lo x).skim = t.skim := rfl
@[simp] theorem Tile.setReg_skimGen (t : Tile) (o : Nat) (w : Word) : (t.setReg o w).skimGen = t.skimGen := rfl
@[simp] theorem Tile.setF_skimGen (t : Tile) (o hi lo x : Nat) : (t.setF o hi lo x).skimGen = t.skimGen := rfl
@[simp] theorem Tile.setReg_skimReseed (t : Tile) (o : Nat) (w : Word) : (t.setReg o w).skimReseed = t.skimReseed := rfl
@[simp] theorem Tile.setF_skimReseed (t : Tile) (o hi lo x : Nat) : (t.setF o hi lo x).skimReseed = t.skimReseed := rfl
@[simp] theorem Tile.setReg_railSamples (t : Tile) (o : Nat) (w : Word) : (t.setReg o w).railSamples = t.railSamples := rfl
@[simp] theorem Tile.setF_railSamples (t : Tile) (o hi lo x : Nat) : (t.setF o hi lo x).railSamples = t.railSamples := rfl
@[simp] theorem Tile.setReg_tripSeen (t : Tile) (o : Nat) (w : Word) : (t.setReg o w).tripSeen = t.tripSeen := rfl
@[simp] theorem Tile.setF_tripSeen (t : Tile) (o hi lo x : Nat) : (t.setF o hi lo x).tripSeen = t.tripSeen := rfl
@[simp] theorem Tile.setReg_vatTripSeen (t : Tile) (o : Nat) (w : Word) : (t.setReg o w).vatTripSeen = t.vatTripSeen := rfl
@[simp] theorem Tile.setF_vatTripSeen (t : Tile) (o hi lo x : Nat) : (t.setF o hi lo x).vatTripSeen = t.vatTripSeen := rfl
@[simp] theorem Tile.setReg_layerTemps (t : Tile) (o : Nat) (w : Word) : (t.setReg o w).layerTemps = t.layerTemps := rfl
@[simp] theorem Tile.setF_layerTemps (t : Tile) (o hi lo x : Nat) : (t.setF o hi lo x).layerTemps = t.layerTemps := rfl
@[simp] theorem Tile.setReg_runGrant (t : Tile) (o : Nat) (w : Word) : (t.setReg o w).runGrant = t.runGrant := rfl
@[simp] theorem Tile.setF_runGrant (t : Tile) (o hi lo x : Nat) : (t.setF o hi lo x).runGrant = t.runGrant := rfl
@[simp] theorem Tile.setReg_slots (t : Tile) (o : Nat) (w : Word) : (t.setReg o w).slots = t.slots := rfl
@[simp] theorem Tile.setF_slots (t : Tile) (o hi lo x : Nat) : (t.setF o hi lo x).slots = t.slots := rfl
@[simp] theorem Tile.setReg_gated (t : Tile) (o : Nat) (w : Word) : (t.setReg o w).gated = t.gated := rfl
@[simp] theorem Tile.setF_gated (t : Tile) (o hi lo x : Nat) : (t.setF o hi lo x).gated = t.gated := rfl

/-! ### Part.setReg and Part.setF -/

@[simp] theorem Part.setReg_latch (p : Part) (o : Nat) (w : Word) : (p.setReg o w).latch = p.latch := rfl
@[simp] theorem Part.setF_latch (p : Part) (o hi lo x : Nat) : (p.setF o hi lo x).latch = p.latch := rfl
@[simp] theorem Part.setReg_barGen (p : Part) (o : Nat) (w : Word) : (p.setReg o w).barGen = p.barGen := rfl
@[simp] theorem Part.setF_barGen (p : Part) (o hi lo x : Nat) : (p.setF o hi lo x).barGen = p.barGen := rfl
@[simp] theorem Part.setReg_postQ (p : Part) (o : Nat) (w : Word) : (p.setReg o w).postQ = p.postQ := rfl
@[simp] theorem Part.setF_postQ (p : Part) (o hi lo x : Nat) : (p.setF o hi lo x).postQ = p.postQ := rfl
@[simp] theorem Part.setReg_ctxs (p : Part) (o : Nat) (w : Word) : (p.setReg o w).ctxs = p.ctxs := rfl
@[simp] theorem Part.setF_ctxs (p : Part) (o hi lo x : Nat) : (p.setF o hi lo x).ctxs = p.ctxs := rfl
@[simp] theorem Part.setReg_held (p : Part) (o : Nat) (w : Word) : (p.setReg o w).held = p.held := rfl
@[simp] theorem Part.setF_held (p : Part) (o hi lo x : Nat) : (p.setF o hi lo x).held = p.held := rfl
@[simp] theorem Part.setReg_keys (p : Part) (o : Nat) (w : Word) : (p.setReg o w).keys = p.keys := rfl
@[simp] theorem Part.setF_keys (p : Part) (o hi lo x : Nat) : (p.setF o hi lo x).keys = p.keys := rfl

/-! ### Pair.setReg and Pair.setF -/

@[simp] theorem Pair.setReg_latch (p : Pair) (o : Nat) (w : Word) : (p.setReg o w).latch = p.latch := rfl
@[simp] theorem Pair.setF_latch (p : Pair) (o hi lo x : Nat) : (p.setF o hi lo x).latch = p.latch := rfl
@[simp] theorem Pair.setReg_taken (p : Pair) (o : Nat) (w : Word) : (p.setReg o w).taken = p.taken := rfl
@[simp] theorem Pair.setF_taken (p : Pair) (o hi lo x : Nat) : (p.setF o hi lo x).taken = p.taken := rfl
@[simp] theorem Pair.setReg_logLevel (p : Pair) (o : Nat) (w : Word) : (p.setReg o w).logLevel = p.logLevel := rfl
@[simp] theorem Pair.setF_logLevel (p : Pair) (o hi lo x : Nat) : (p.setF o hi lo x).logLevel = p.logLevel := rfl
@[simp] theorem Pair.setReg_trace (p : Pair) (o : Nat) (w : Word) : (p.setReg o w).trace = p.trace := rfl
@[simp] theorem Pair.setF_trace (p : Pair) (o hi lo x : Nat) : (p.setF o hi lo x).trace = p.trace := rfl
@[simp] theorem Pair.setReg_irqPend (p : Pair) (o : Nat) (w : Word) : (p.setReg o w).irqPend = p.irqPend := rfl
@[simp] theorem Pair.setF_irqPend (p : Pair) (o hi lo x : Nat) : (p.setF o hi lo x).irqPend = p.irqPend := rfl
@[simp] theorem Pair.setReg_irqCount (p : Pair) (o : Nat) (w : Word) : (p.setReg o w).irqCount = p.irqCount := rfl
@[simp] theorem Pair.setF_irqCount (p : Pair) (o hi lo x : Nat) : (p.setF o hi lo x).irqCount = p.irqCount := rfl
@[simp] theorem Pair.setReg_rspWait (p : Pair) (o : Nat) (w : Word) : (p.setReg o w).rspWait = p.rspWait := rfl
@[simp] theorem Pair.setF_rspWait (p : Pair) (o hi lo x : Nat) : (p.setF o hi lo x).rspWait = p.rspWait := rfl

/-! ### Port.setReg and Port.setF -/

@[simp] theorem Port.setReg_latch (p : Port) (o : Nat) (w : Word) : (p.setReg o w).latch = p.latch := rfl
@[simp] theorem Port.setF_latch (p : Port) (o hi lo x : Nat) : (p.setF o hi lo x).latch = p.latch := rfl
@[simp] theorem Port.setReg_seen (p : Port) (o : Nat) (w : Word) : (p.setReg o w).seen = p.seen := rfl
@[simp] theorem Port.setF_seen (p : Port) (o hi lo x : Nat) : (p.setF o hi lo x).seen = p.seen := rfl
@[simp] theorem Port.setReg_retry (p : Port) (o : Nat) (w : Word) : (p.setReg o w).retry = p.retry := rfl
@[simp] theorem Port.setF_retry (p : Port) (o hi lo x : Nat) : (p.setF o hi lo x).retry = p.retry := rfl
@[simp] theorem Port.setReg_asking (p : Port) (o : Nat) (w : Word) : (p.setReg o w).asking = p.asking := rfl
@[simp] theorem Port.setF_asking (p : Port) (o hi lo x : Nat) : (p.setF o hi lo x).asking = p.asking := rfl
@[simp] theorem Port.setReg_backoff (p : Port) (o : Nat) (w : Word) : (p.setReg o w).backoff = p.backoff := rfl
@[simp] theorem Port.setF_backoff (p : Port) (o hi lo x : Nat) : (p.setF o hi lo x).backoff = p.backoff := rfl
@[simp] theorem Port.setReg_pendRole (p : Port) (o : Nat) (w : Word) : (p.setReg o w).pendRole = p.pendRole := rfl
@[simp] theorem Port.setF_pendRole (p : Port) (o hi lo x : Nat) : (p.setF o hi lo x).pendRole = p.pendRole := rfl
@[simp] theorem Port.setReg_pStratum (p : Port) (o : Nat) (w : Word) : (p.setReg o w).pStratum = p.pStratum := rfl
@[simp] theorem Port.setF_pStratum (p : Port) (o hi lo x : Nat) : (p.setF o hi lo x).pStratum = p.pStratum := rfl
@[simp] theorem Port.setReg_hbSeq (p : Port) (o : Nat) (w : Word) : (p.setReg o w).hbSeq = p.hbSeq := rfl
@[simp] theorem Port.setF_hbSeq (p : Port) (o hi lo x : Nat) : (p.setF o hi lo x).hbSeq = p.hbSeq := rfl
@[simp] theorem Port.setReg_hbOut (p : Port) (o : Nat) (w : Word) : (p.setReg o w).hbOut = p.hbOut := rfl
@[simp] theorem Port.setF_hbOut (p : Port) (o hi lo x : Nat) : (p.setF o hi lo x).hbOut = p.hbOut := rfl
@[simp] theorem Port.setReg_hbIn (p : Port) (o : Nat) (w : Word) : (p.setReg o w).hbIn = p.hbIn := rfl
@[simp] theorem Port.setF_hbIn (p : Port) (o hi lo x : Nat) : (p.setF o hi lo x).hbIn = p.hbIn := rfl
@[simp] theorem Port.setReg_alive (p : Port) (o : Nat) (w : Word) : (p.setReg o w).alive = p.alive := rfl
@[simp] theorem Port.setF_alive (p : Port) (o hi lo x : Nat) : (p.setF o hi lo x).alive = p.alive := rfl
@[simp] theorem Port.setReg_want (p : Port) (o : Nat) (w : Word) : (p.setReg o w).want = p.want := rfl
@[simp] theorem Port.setF_want (p : Port) (o hi lo x : Nat) : (p.setF o hi lo x).want = p.want := rfl
@[simp] theorem Port.setReg_lanes (p : Port) (o : Nat) (w : Word) : (p.setReg o w).lanes = p.lanes := rfl
@[simp] theorem Port.setF_lanes (p : Port) (o hi lo x : Nat) : (p.setF o hi lo x).lanes = p.lanes := rfl
@[simp] theorem Port.setReg_hbHeld (p : Port) (o : Nat) (w : Word) : (p.setReg o w).hbHeld = p.hbHeld := rfl
@[simp] theorem Port.setF_hbHeld (p : Port) (o hi lo x : Nat) : (p.setF o hi lo x).hbHeld = p.hbHeld := rfl
@[simp] theorem Port.setReg_hbSent (p : Port) (o : Nat) (w : Word) : (p.setReg o w).hbSent = p.hbSent := rfl
@[simp] theorem Port.setF_hbSent (p : Port) (o hi lo x : Nat) : (p.setF o hi lo x).hbSent = p.hbSent := rfl
@[simp] theorem Port.setReg_offs (p : Port) (o : Nat) (w : Word) : (p.setReg o w).offs = p.offs := rfl
@[simp] theorem Port.setF_offs (p : Port) (o hi lo x : Nat) : (p.setF o hi lo x).offs = p.offs := rfl
@[simp] theorem Port.setReg_txSeq (p : Port) (o : Nat) (w : Word) : (p.setReg o w).txSeq = p.txSeq := rfl
@[simp] theorem Port.setF_txSeq (p : Port) (o hi lo x : Nat) : (p.setF o hi lo x).txSeq = p.txSeq := rfl
@[simp] theorem Port.setReg_rxSeq (p : Port) (o : Nat) (w : Word) : (p.setReg o w).rxSeq = p.rxSeq := rfl
@[simp] theorem Port.setF_rxSeq (p : Port) (o hi lo x : Nat) : (p.setF o hi lo x).rxSeq = p.rxSeq := rfl
@[simp] theorem Port.setReg_replay (p : Port) (o : Nat) (w : Word) : (p.setReg o w).replay = p.replay := rfl
@[simp] theorem Port.setF_replay (p : Port) (o hi lo x : Nat) : (p.setF o hi lo x).replay = p.replay := rfl
@[simp] theorem Port.setReg_replays (p : Port) (o : Nat) (w : Word) : (p.setReg o w).replays = p.replays := rfl
@[simp] theorem Port.setF_replays (p : Port) (o hi lo x : Nat) : (p.setF o hi lo x).replays = p.replays := rfl
@[simp] theorem Port.setReg_uncorr (p : Port) (o : Nat) (w : Word) : (p.setReg o w).uncorr = p.uncorr := rfl
@[simp] theorem Port.setF_uncorr (p : Port) (o hi lo x : Nat) : (p.setF o hi lo x).uncorr = p.uncorr := rfl
@[simp] theorem Port.setReg_used (p : Port) (o : Nat) (w : Word) : (p.setReg o w).used = p.used := rfl
@[simp] theorem Port.setF_used (p : Port) (o hi lo x : Nat) : (p.setF o hi lo x).used = p.used := rfl
@[simp] theorem Port.setReg_owed (p : Port) (o : Nat) (w : Word) : (p.setReg o w).owed = p.owed := rfl
@[simp] theorem Port.setF_owed (p : Port) (o hi lo x : Nat) : (p.setF o hi lo x).owed = p.owed := rfl
@[simp] theorem Port.setReg_txq (p : Port) (o : Nat) (w : Word) : (p.setReg o w).txq = p.txq := rfl
@[simp] theorem Port.setF_txq (p : Port) (o hi lo x : Nat) : (p.setF o hi lo x).txq = p.txq := rfl
@[simp] theorem Port.setReg_rxq (p : Port) (o : Nat) (w : Word) : (p.setReg o w).rxq = p.rxq := rfl
@[simp] theorem Port.setF_rxq (p : Port) (o hi lo x : Nat) : (p.setF o hi lo x).rxq = p.rxq := rfl
@[simp] theorem Port.setReg_wire (p : Port) (o : Nat) (w : Word) : (p.setReg o w).wire = p.wire := rfl
@[simp] theorem Port.setF_wire (p : Port) (o hi lo x : Nat) : (p.setF o hi lo x).wire = p.wire := rfl
@[simp] theorem Port.setReg_ctl (p : Port) (o : Nat) (w : Word) : (p.setReg o w).ctl = p.ctl := rfl
@[simp] theorem Port.setF_ctl (p : Port) (o hi lo x : Nat) : (p.setF o hi lo x).ctl = p.ctl := rfl
@[simp] theorem Port.setReg_turn (p : Port) (o : Nat) (w : Word) : (p.setReg o w).turn = p.turn := rfl
@[simp] theorem Port.setF_turn (p : Port) (o hi lo x : Nat) : (p.setF o hi lo x).turn = p.turn := rfl
@[simp] theorem Port.setReg_dense (p : Port) (o : Nat) (w : Word) : (p.setReg o w).dense = p.dense := rfl
@[simp] theorem Port.setF_dense (p : Port) (o hi lo x : Nat) : (p.setF o hi lo x).dense = p.dense := rfl
@[simp] theorem Port.setReg_wColl (p : Port) (o : Nat) (w : Word) : (p.setReg o w).wColl = p.wColl := rfl
@[simp] theorem Port.setF_wColl (p : Port) (o hi lo x : Nat) : (p.setF o hi lo x).wColl = p.wColl := rfl
@[simp] theorem Port.setReg_wLadle (p : Port) (o : Nat) (w : Word) : (p.setReg o w).wLadle = p.wLadle := rfl
@[simp] theorem Port.setF_wLadle (p : Port) (o hi lo x : Nat) : (p.setF o hi lo x).wLadle = p.wLadle := rfl
@[simp] theorem Port.setReg_downs (p : Port) (o : Nat) (w : Word) : (p.setReg o w).downs = p.downs := rfl
@[simp] theorem Port.setF_downs (p : Port) (o hi lo x : Nat) : (p.setF o hi lo x).downs = p.downs := rfl

/-! ### The later of two writes stands -/

@[simp] theorem State.setTile_setTile (s : State) (k : Nat) (x y : Tile) : (s.setTile k x).setTile k y = s.setTile k y := by
  unfold State.setTile; rw [tabSet_set]
@[simp] theorem State.setPart_setPart (s : State) (k : Nat) (x y : Part) : (s.setPart k x).setPart k y = s.setPart k y := by
  unfold State.setPart; rw [tabSet_set]
@[simp] theorem State.setSys_setSys (s : State) (k : Nat) (x y : PartSys) : (s.setSys k x).setSys k y = s.setSys k y := by
  unfold State.setSys; rw [tabSet_set]
@[simp] theorem State.setPair_setPair (s : State) (k : Nat) (x y : Pair) : (s.setPair k x).setPair k y = s.setPair k y := by
  unfold State.setPair; rw [tabSet_set]
@[simp] theorem State.setPort_setPort (s : State) (k : Nat) (x y : Port) : (s.setPort k x).setPort k y = s.setPort k y := by
  unfold State.setPort; rw [tabSet_set]

end Sys2Proof.Machine
end

