-- ==== Sys2Proof/Laws/Word.lean ====
section
/-!
SUPPORT. Laws/Word.lean: bit fields of words: what a field reads as after a field has been written.
-/

namespace Sys2Proof.Machine

/-- A field is below the power of two of its width. -/
theorem fld_lt {n : Nat} (w : BitVec n) (hi lo : Nat) : fld w hi lo < 2 ^ (hi + 1 - lo) := Nat.mod_lt _ (Nat.two_pow_pos _)

/-- Splitting a number at a field. -/
theorem fld_split (x lo k : Nat) :
    x = x % 2 ^ lo + 2 ^ lo * (x / 2 ^ lo % 2 ^ k) + 2 ^ (lo + k) * (x / 2 ^ (lo + k)) := by
  have h1 := Nat.div_add_mod x (2 ^ lo)
  have h2 := Nat.div_add_mod (x / 2 ^ lo) (2 ^ k)
  rw [Nat.div_div_eq_div_mul, ← Nat.pow_add] at h2
  have h3 : 2 ^ lo * (x / 2 ^ lo) = 2 ^ lo * (x / 2 ^ lo % 2 ^ k) + 2 ^ (lo + k) * (x / 2 ^ (lo + k)) := by
    conv_lhs => rw [← h2]
    rw [Nat.mul_add, ← Nat.mul_assoc, ← Nat.pow_add, Nat.add_comm]
  omega

/-- The value of a word whose field has been written. -/
theorem setFld_toNat {n : Nat} (w : BitVec n) {hi lo : Nat} (v : Nat) (h1 : lo ≤ hi) (h2 : hi < n) :
    (setFld w hi lo v).toNat = w.toNat % 2 ^ lo + 2 ^ lo * (v % 2 ^ (hi + 1 - lo)) +
      2 ^ (hi + 1) * (w.toNat / 2 ^ (hi + 1)) := by
  have e : lo + (hi + 1 - lo) = hi + 1 := by omega
  have hs := fld_split w.toNat lo (hi + 1 - lo)
  rw [e] at hs
  have hv : v % 2 ^ (hi + 1 - lo) < 2 ^ (hi + 1 - lo) := Nat.mod_lt _ (Nat.two_pow_pos _)
  have hw := w.isLt
  have hm : w.toNat % 2 ^ lo < 2 ^ lo := Nat.mod_lt _ (Nat.two_pow_pos _)
  have hp : 2 ^ lo * 2 ^ (hi + 1 - lo) = 2 ^ (hi + 1) := by rw [← Nat.pow_add, e]
  have hn : 2 ^ (hi + 1) * 2 ^ (n - (hi + 1)) = 2 ^ n := by rw [← Nat.pow_add]; congr 1; omega
  have hq : w.toNat / 2 ^ (hi + 1) < 2 ^ (n - (hi + 1)) := by
    rw [Nat.div_lt_iff_lt_mul (Nat.two_pow_pos _), Nat.mul_comm, hn]; exact hw
  simp only [setFld, fld, Nat.shiftRight_eq_div_pow, BitVec.toNat_ofNat]
  have key : w.toNat - w.toNat / 2 ^ lo % 2 ^ (hi + 1 - lo) * 2 ^ lo + v % 2 ^ (hi + 1 - lo) * 2 ^ lo =
      w.toNat % 2 ^ lo + 2 ^ lo * (v % 2 ^ (hi + 1 - lo)) + 2 ^ (hi + 1) * (w.toNat / 2 ^ (hi + 1)) := by
    rw [Nat.mul_comm _ (2 ^ lo), Nat.mul_comm _ (2 ^ lo)]; omega
  rw [key]
  apply Nat.mod_eq_of_lt
  have h3 : 2 ^ lo * (v % 2 ^ (hi + 1 - lo)) + 2 ^ lo ≤ 2 ^ (hi + 1) := by
    rw [← hp, ← Nat.mul_succ]; exact Nat.mul_le_mul_left _ hv
  have h4 : 2 ^ (hi + 1) * (w.toNat / 2 ^ (hi + 1)) + 2 ^ (hi + 1) ≤ 2 ^ n := by
    rw [← hn, ← Nat.mul_succ]; exact Nat.mul_le_mul_left _ hq
  omega

/-- A written field reads what was written, cut to its width. -/
theorem fld_setFld_same {n : Nat} (w : BitVec n) {hi lo : Nat} (v : Nat) (h1 : lo ≤ hi) (h2 : hi < n) :
    fld (setFld w hi lo v) hi lo = v % 2 ^ (hi + 1 - lo) := by
  have e : lo + (hi + 1 - lo) = hi + 1 := by omega
  have hv : v % 2 ^ (hi + 1 - lo) < 2 ^ (hi + 1 - lo) := Nat.mod_lt _ (Nat.two_pow_pos _)
  have hm : w.toNat % 2 ^ lo < 2 ^ lo := Nat.mod_lt _ (Nat.two_pow_pos _)
  rw [fld, setFld_toNat w v h1 h2, Nat.shiftRight_eq_div_pow]
  have hp : 2 ^ (hi + 1) = 2 ^ lo * 2 ^ (hi + 1 - lo) := by rw [← Nat.pow_add, e]
  rw [show w.toNat % 2 ^ lo + 2 ^ lo * (v % 2 ^ (hi + 1 - lo)) + 2 ^ (hi + 1) * (w.toNat / 2 ^ (hi + 1)) =
      w.toNat % 2 ^ lo + 2 ^ lo * (v % 2 ^ (hi + 1 - lo) + 2 ^ (hi + 1 - lo) * (w.toNat / 2 ^ (hi + 1))) by
    rw [Nat.mul_add, ← Nat.mul_assoc, ← hp, Nat.add_assoc]]
  rw [Nat.add_mul_div_left _ _ (Nat.two_pow_pos _), Nat.div_eq_of_lt hm, Nat.zero_add, Nat.add_mul_mod_self_left,
    Nat.mod_eq_of_lt hv]

/-- A field above the written one keeps its value. -/
theorem fld_setFld_above {n : Nat} (w : BitVec n) {hi lo hi' lo' : Nat} (v : Nat) (h1 : lo ≤ hi) (h2 : hi < n)
    (h : hi < lo') : fld (setFld w hi lo v) hi' lo' = fld w hi' lo' := by
  have e : hi + 1 + (lo' - (hi + 1)) = lo' := by omega
  have hp : 2 ^ (hi + 1) = 2 ^ lo * 2 ^ (hi + 1 - lo) := by rw [← Nat.pow_add]; congr 1; omega
  have hv : v % 2 ^ (hi + 1 - lo) < 2 ^ (hi + 1 - lo) := Nat.mod_lt _ (Nat.two_pow_pos _)
  have hm : w.toNat % 2 ^ lo < 2 ^ lo := Nat.mod_lt _ (Nat.two_pow_pos _)
  have h3 : w.toNat % 2 ^ lo + 2 ^ lo * (v % 2 ^ (hi + 1 - lo)) < 2 ^ (hi + 1) := by
    have : 2 ^ lo * (v % 2 ^ (hi + 1 - lo)) + 2 ^ lo ≤ 2 ^ (hi + 1) := by
      rw [hp, ← Nat.mul_succ]; exact Nat.mul_le_mul_left _ hv
    omega
  have h4 : (setFld w hi lo v).toNat / 2 ^ (hi + 1) = w.toNat / 2 ^ (hi + 1) := by
    rw [setFld_toNat w v h1 h2, Nat.add_mul_div_left _ _ (Nat.two_pow_pos _), Nat.div_eq_of_lt h3, Nat.zero_add]
  rw [fld, fld, Nat.shiftRight_eq_div_pow, Nat.shiftRight_eq_div_pow]
  rw [← e, Nat.pow_add, ← Nat.div_div_eq_div_mul, ← Nat.div_div_eq_div_mul, h4]

/-- A field below the written one keeps its value. -/
theorem fld_setFld_below {n : Nat} (w : BitVec n) {hi lo hi' lo' : Nat} (v : Nat) (h1 : lo ≤ hi) (h2 : hi < n)
    (h : hi' < lo) : fld (setFld w hi lo v) hi' lo' = fld w hi' lo' := by
  by_cases hl : hi' + 1 ≤ lo'
  · simp [fld, show hi' + 1 - lo' = 0 by omega, Nat.mod_one]
  · have e : lo' + (hi' + 1 - lo') = hi' + 1 := by omega
    have key : ∀ x : Nat, (x >>> lo') % 2 ^ (hi' + 1 - lo') = (x % 2 ^ lo) % 2 ^ (hi' + 1) / 2 ^ lo' := by
      intro x
      rw [Nat.shiftRight_eq_div_pow, Nat.mod_mod_of_dvd _ (Nat.pow_dvd_pow 2 (by omega : hi' + 1 ≤ lo))]
      conv_rhs => rw [← e, Nat.pow_add, Nat.mod_mul_right_div_self]
    rw [fld, fld, key, key, setFld_toNat w v h1 h2]
    have : (w.toNat % 2 ^ lo + 2 ^ lo * (v % 2 ^ (hi + 1 - lo)) + 2 ^ (hi + 1) * (w.toNat / 2 ^ (hi + 1))) % 2 ^ lo =
        w.toNat % 2 ^ lo := by
      have hp : 2 ^ (hi + 1) = 2 ^ lo * 2 ^ (hi + 1 - lo) := by rw [← Nat.pow_add]; congr 1; omega
      rw [hp, Nat.mul_assoc, Nat.add_assoc, ← Nat.mul_add, Nat.add_mul_mod_self_left, Nat.mod_mod]
    rw [this]

end Sys2Proof.Machine
end

