-- ==== Sys2Proof/Laws/Tile.lean ====
section
/-!
SUPPORT. Laws/Tile.lean: what the shared operations of a tile can do: counting events, recording a fault, taking a
command, scratch reads; and when a step of a unit is a change of its tile alone.
-/

namespace Sys2Proof.Machine

/-! ### Reading a field of a register that has been set -/

theorem Tile.setF_reg_same (t : Tile) (o hi lo v : Nat) : (t.setF o hi lo v).reg o = setFld (t.reg o) hi lo v :=
  Tile.setReg_reg_same _ _ _

theorem Tile.setF_reg_ne (t : Tile) {o q : Nat} (hi lo v : Nat) (h : q ≠ o) : (t.setF o hi lo v).reg q = t.reg q :=
  Tile.setReg_reg_ne _ _ h

theorem Tile.setF_f_same (t : Tile) (o : Nat) {hi lo : Nat} (v : Nat) (h1 : lo ≤ hi) (h2 : hi < 32) :
    (t.setF o hi lo v).f o hi lo = v % 2 ^ (hi + 1 - lo) := by
  rw [Tile.f, Tile.setF_reg_same, fld_setFld_same _ _ h1 h2]

theorem Tile.setF_f_ne (t : Tile) {o q : Nat} (hi lo v hi' lo' : Nat) (h : q ≠ o) :
    (t.setF o hi lo v).f q hi' lo' = t.f q hi' lo' := by
  rw [Tile.f, Tile.setF_reg_ne _ _ _ _ h, Tile.f]

theorem Tile.setF_f_above (t : Tile) (o : Nat) {hi lo hi' lo' : Nat} (v : Nat) (h1 : lo ≤ hi) (h2 : hi < 32)
    (h : hi < lo') : (t.setF o hi lo v).f o hi' lo' = t.f o hi' lo' := by
  rw [Tile.f, Tile.setF_reg_same, fld_setFld_above _ _ h1 h2 h, Tile.f]

theorem Tile.setF_f_below (t : Tile) (o : Nat) {hi lo hi' lo' : Nat} (v : Nat) (h1 : lo ≤ hi) (h2 : hi < 32)
    (h : hi' < lo) : (t.setF o hi lo v).f o hi' lo' = t.f o hi' lo' := by
  rw [Tile.f, Tile.setF_reg_same, fld_setFld_below _ _ h1 h2 h, Tile.f]

theorem Tile.setReg_f_ne (t : Tile) {o q : Nat} (w : Word) (hi lo : Nat) (h : q ≠ o) :
    (t.setReg o w).f q hi lo = t.f q hi lo := by
  rw [Tile.f, Tile.setReg_reg_ne _ _ h, Tile.f]

/-! ### Event counts change registers alone -/

/-- Two tiles differ in their registers alone, and in the note of what the cycle has seen. -/
def Tile.RegsOnly (x y : Tile) : Prop := y = { x with regs := y.regs, now := y.now }

theorem Tile.RegsOnly.refl (x : Tile) : x.RegsOnly x := rfl

theorem Tile.RegsOnly.trans {x y z : Tile} (h : x.RegsOnly y) (h' : y.RegsOnly z) : x.RegsOnly z := by
  unfold Tile.RegsOnly at *; rw [h', h]

theorem Tile.RegsOnly.setReg (x : Tile) (o : Nat) (w : Word) : x.RegsOnly (x.setReg o w) := rfl
theorem Tile.RegsOnly.setF (x : Tile) (o hi lo v : Nat) : x.RegsOnly (x.setF o hi lo v) := rfl
theorem Tile.RegsOnly.andReg {x y : Tile} (h : x.RegsOnly y) (o : Nat) (w : Word) : x.RegsOnly (y.setReg o w) :=
  h.trans (.setReg _ _ _)
theorem Tile.RegsOnly.andF {x y : Tile} (h : x.RegsOnly y) (o hi lo v : Nat) : x.RegsOnly (y.setF o hi lo v) :=
  h.trans (.setF _ _ _ _ _)
theorem Tile.RegsOnly.count (x : Tile) (o hi lo v : Nat) : x.RegsOnly (x.count o hi lo v) := rfl

theorem Tile.RegsOnly.foldl {α : Type} (f : Tile → α → Tile) (h : ∀ (x : Tile) (a : α), x.RegsOnly (f x a)) (l : List α)
    (x : Tile) :
    x.RegsOnly (l.foldl f x) := by
  induction l generalizing x with
  | nil => exact .refl _
  | cons a l ih => exact (h x a).trans (ih _)

theorem Tile.rnCount_only (t : Tile) (o n : Nat) : t.RegsOnly (t.rnCount o n) := by
  unfold Tile.rnCount
  split
  · exact .refl _
  · simp only []
    split
    · exact (Tile.RegsOnly.setReg _ _ _).trans (.setF _ _ _ _ _)
    · exact .setReg _ _ _

theorem Tile.rnEvent_only (t : Tile) (seq : Nat) (e : RnEvt) : t.RegsOnly (t.rnEvent seq e) := by
  unfold Tile.rnEvent
  split
  · exact .refl _
  · generalize hx : (evtCounters [e]).foldl (fun t c => t.rnCount c.1 c.2) t = x
    have hxx : t.RegsOnly x :=
      hx ▸ Tile.RegsOnly.foldl (fun (t : Tile) (c : Nat × Nat) => t.rnCount c.1 c.2) (fun x a => Tile.rnCount_only x a.1 a.2) _ t
    refine hxx.trans ?_
    simp only [Tile.recordFirst]
    repeat' split
    all_goals repeat (with_reducible first
      | exact .refl _
      | apply Tile.RegsOnly.andF
      | apply Tile.RegsOnly.andReg)

theorem Tile.rnEventsBy_only (t : Tile) (l : List (Nat × RnEvt)) : t.RegsOnly (t.rnEventsBy l) :=
  Tile.RegsOnly.foldl (fun (t : Tile) (e : Nat × RnEvt) => t.rnEvent e.1 e.2) (fun x a => Tile.rnEvent_only x a.1 a.2) _ t

theorem Tile.rnEvents_only (t : Tile) (seq : Nat) (l : List RnEvt) : t.RegsOnly (t.rnEvents seq l) :=
  t.rnEventsBy_only _

/-- Registers outside a list keep their words. -/
theorem Tile.regs_foldl {α : Type} (f : Tile → α → Tile) (o : Nat) (l : List α)
    (h : ∀ x a, a ∈ l → (f x a).reg o = x.reg o) (x : Tile) : (l.foldl f x).reg o = x.reg o := by
  induction l generalizing x with
  | nil => rfl
  | cons a l ih => exact (ih (fun x b hb => h x b (List.mem_cons_of_mem _ hb)) _).trans (h x a List.mem_cons_self)

theorem Tile.rnCount_reg (t : Tile) {o n q : Nat} (h : q ≠ o) (h0 : q ≠ Reg.rennetFlags) :
    (t.rnCount o n).reg q = t.reg q := by
  unfold Tile.rnCount
  split
  · rfl
  · simp only []
    split
    · rw [Tile.setF_reg_ne _ _ _ _ h0, Tile.setReg_reg_ne _ _ h]
    · rw [Tile.setReg_reg_ne _ _ h]

/-- An event changes the registers of Table 2.9 that count and flag it, and no other. -/
theorem Tile.rnEvent_reg (t : Tile) (seq : Nat) (e : RnEvt) {q : Nat} (h : q ∉ rennetEventRegs) :
    (t.rnEvent seq e).reg q = t.reg q := by
  simp only [rennetEventRegs, List.mem_cons, List.not_mem_nil, or_false, not_or] at h
  obtain ⟨hf, hfi, h1, h2, h3, h4, h5, h6, h7⟩ := h
  unfold Tile.rnEvent
  simp only []
  split
  · rfl
  · have e1 : ∀ x : Tile, ((evtCounters [e]).foldl (fun t c => t.rnCount c.1 c.2) x).reg q = x.reg q := by
      intro x
      apply Tile.regs_foldl
      intro x a ha
      apply Tile.rnCount_reg _ _ hf
      simp only [evtCounters, List.mem_cons, List.not_mem_nil, or_false] at ha
      rcases ha with rfl | rfl | rfl | rfl | rfl | rfl | rfl <;> assumption
    repeat' split
    all_goals simp only [Tile.recordFirst, Tile.setReg_reg_ne _ _ hfi, Tile.setF_reg_ne _ _ _ _ hf, e1]

theorem Tile.rnEventsBy_reg (t : Tile) (l : List (Nat × RnEvt)) {q : Nat} (h : q ∉ rennetEventRegs) :
    (t.rnEventsBy l).reg q = t.reg q :=
  Tile.regs_foldl _ q _ (fun x a _ => Tile.rnEvent_reg x a.1 a.2 h) t

theorem Tile.rnEvents_reg (t : Tile) (seq : Nat) (l : List RnEvt) {q : Nat} (h : q ∉ rennetEventRegs) :
    (t.rnEvents seq l).reg q = t.reg q := t.rnEventsBy_reg _ h

/-- The ECC counts of scratch reads change one register alone. -/
theorem Tile.scrReads_only (t : Tile) (rs : List (Nat × Nat)) : t.RegsOnly (t.scrReads rs).1 := rfl

theorem Tile.scrReads_reg (t : Tile) (rs : List (Nat × Nat)) {q : Nat} (h : q ≠ Reg.ladleScrEcc) :
    (t.scrReads rs).1.reg q = t.reg q := by
  simp only [Tile.scrReads, Tile.count, Tile.setF_reg_ne _ _ _ _ h]

/-! ### The fault record (R109) -/

theorem Tile.recordFault_only (t : Tile) (code engine seq : Nat) : t.RegsOnly (t.recordFault code engine seq) := by
  unfold Tile.recordFault
  generalize hn : ({ t with now := { t.now with fault := true } } : Tile) = x
  have hx : t.RegsOnly x := hn ▸ rfl
  refine hx.trans ?_
  simp only []
  repeat' split
  all_goals repeat (with_reducible first
    | exact .refl _
    | apply Tile.RegsOnly.andF
    | apply Tile.RegsOnly.andReg)

theorem Tile.recordFault_reg (t : Tile) (code engine seq : Nat) {q : Nat} (h : q ≠ Reg.ladleFault)
    (h' : q ≠ Reg.ladleFaultSeq) : (t.recordFault code engine seq).reg q = t.reg q := by
  unfold Tile.recordFault
  simp only []
  repeat' split
  all_goals simp only [Tile.setReg_reg_ne _ _ h', Tile.setF_reg_ne _ _ _ _ h]
  all_goals rfl

/-- What a fault leaves: VALID is set, an engine's STOPPED bit is set; the first fault's code and engine are recorded,
a further one sets MULTI and leaves the record. -/
theorem Tile.recordFault_facts (t : Tile) (code engine seq : Nat) :
    (t.recordFault code engine seq).f Reg.ladleFault 31 31 = 1 ∧
    (engine < 4 → (t.recordFault code engine seq).f Reg.ladleFault (20 + engine) (20 + engine) = 1) ∧
    (t.f Reg.ladleFault 31 31 = 0 → (t.recordFault code engine seq).f Reg.ladleFault 15 0 = code % 65536 ∧
      (t.recordFault code engine seq).f Reg.ladleFault 18 16 = engine % 8 ∧
      (t.recordFault code engine seq).reg Reg.ladleFaultSeq = BitVec.ofNat 32 seq) ∧
    (t.f Reg.ladleFault 31 31 = 1 → (t.recordFault code engine seq).f Reg.ladleFault 24 24 = 1 ∧
      (t.recordFault code engine seq).f Reg.ladleFault 15 0 = t.f Reg.ladleFault 15 0 ∧
      (t.recordFault code engine seq).f Reg.ladleFault 18 16 = t.f Reg.ladleFault 18 16 ∧
      (t.recordFault code engine seq).reg Reg.ladleFaultSeq = t.reg Reg.ladleFaultSeq) := by
  have hne : Reg.ladleFaultSeq ≠ Reg.ladleFault := by decide
  have hne' : Reg.ladleFault ≠ Reg.ladleFaultSeq := by decide
  -- the note of the cycle is no register
  unfold Tile.recordFault
  generalize hn : ({ t with now := { t.now with fault := true } } : Tile) = t'
  have hr : ∀ o, t.reg o = t'.reg o := fun o => hn ▸ rfl
  have hf : ∀ o hi lo, t.f o hi lo = t'.f o hi lo := fun o hi lo => hn ▸ rfl
  simp only [hr, hf]
  clear hr hf hn t
  revert t'
  intro t
  -- the STOPPED bit of an engine touches no other field
  have key : ∀ u : Tile, (u = t ∨ (engine < 4 ∧ u = t.setF Reg.ladleFault (20 + engine) (20 + engine) 1)) →
      u.f Reg.ladleFault 31 31 = t.f Reg.ladleFault 31 31 ∧ u.f Reg.ladleFault 15 0 = t.f Reg.ladleFault 15 0 ∧
      u.f Reg.ladleFault 18 16 = t.f Reg.ladleFault 18 16 ∧ u.reg Reg.ladleFaultSeq = t.reg Reg.ladleFaultSeq := by
    rintro u (rfl | ⟨he, rfl⟩)
    · exact ⟨rfl, rfl, rfl, rfl⟩
    · exact ⟨Tile.setF_f_above _ _ _ (Nat.le_refl _) (by omega) (by omega),
        Tile.setF_f_below _ _ _ (Nat.le_refl _) (by omega) (by omega),
        Tile.setF_f_below _ _ _ (Nat.le_refl _) (by omega) (by omega), Tile.setF_reg_ne _ _ _ _ hne⟩
  have hv : t.f Reg.ladleFault 31 31 < 2 := fld_lt _ 31 31
  generalize hu : (if engine < 4 then t.setF Reg.ladleFault (20 + engine) (20 + engine) 1 else t) = u
  have hcase : u = t ∨ (engine < 4 ∧ u = t.setF Reg.ladleFault (20 + engine) (20 + engine) 1) := by
    split at hu
    · right; exact ⟨by assumption, hu.symm⟩
    · left; exact hu.symm
  obtain ⟨k1, k2, k3, k4⟩ := key u hcase
  have hst : engine < 4 → u.f Reg.ladleFault (20 + engine) (20 + engine) = 1 := by
    intro he
    rcases hcase with rfl | ⟨-, rfl⟩
    · rw [if_pos he] at hu
      rw [← hu, Tile.setF_f_same _ _ _ (Nat.le_refl _) (by omega)]
      simp
    · rw [Tile.setF_f_same _ _ _ (Nat.le_refl _) (by omega)]; simp
  by_cases h1 : u.f Reg.ladleFault 31 31 = 1
  · rw [if_pos h1]
    refine ⟨?_, ?_, ?_, ?_⟩
    · rw [Tile.setF_f_above _ _ _ (by omega) (by omega) (by omega)]; exact h1
    · intro he
      rw [Tile.setF_f_below _ _ _ (by omega) (by omega) (by omega)]; exact hst he
    · intro h0; omega
    · intro _
      refine ⟨?_, ?_, ?_, ?_⟩
      · rw [Tile.setF_f_same _ _ _ (by omega) (by omega)]; rfl
      · rw [Tile.setF_f_below _ _ _ (by omega) (by omega) (by omega)]; exact k2
      · rw [Tile.setF_f_below _ _ _ (by omega) (by omega) (by omega)]; exact k3
      · rw [Tile.setF_reg_ne _ _ _ _ hne]; exact k4
  · rw [if_neg h1]
    refine ⟨?_, ?_, ?_, ?_⟩
    · rw [Tile.setReg_f_ne _ _ _ _ hne', Tile.setF_f_same _ _ _ (by omega) (by omega)]; rfl
    · intro he
      rw [Tile.setReg_f_ne _ _ _ _ hne', Tile.setF_f_below _ _ _ (by omega) (by omega) (by omega),
        Tile.setF_f_above _ _ _ (by omega) (by omega) (by omega), Tile.setF_f_above _ _ _ (by omega) (by omega) (by omega)]
      exact hst he
    · intro _
      refine ⟨?_, ?_, ?_⟩
      · rw [Tile.setReg_f_ne _ _ _ _ hne', Tile.setF_f_below _ _ _ (by omega) (by omega) (by omega),
          Tile.setF_f_below _ _ _ (by omega) (by omega) (by omega), Tile.setF_f_same _ _ _ (by omega) (by omega)]; rfl
      · rw [Tile.setReg_f_ne _ _ _ _ hne', Tile.setF_f_below _ _ _ (by omega) (by omega) (by omega),
          Tile.setF_f_same _ _ _ (by omega) (by omega)]; rfl
      · exact Tile.setReg_reg_same _ _ _
    · intro h0; omega

/-! ### A unit's step (R328) -/

/-- A trace record changes its pair's write count and host memory alone. -/
theorem State.traceTo_only (s : State) (pair point core : Nat) (args : List Nat) :
    ∃ pairs hostMem, s.traceTo pair point core args = { s with pairs := pairs, hostMem := hostMem } := by
  unfold State.traceTo
  simp only []
  split
  · exact ⟨s.pairs, s.hostMem, rfl⟩
  · exact ⟨_, _, rfl⟩

theorem State.tracePart_only (s : State) (point core n : Nat) (args : List Nat) :
    ∃ pairs hostMem, s.tracePart point core n args = { s with pairs := pairs, hostMem := hostMem } := by
  obtain ⟨p, h, e⟩ := s.traceTo_only 0 point core args
  obtain ⟨p', h', e'⟩ := (s.traceTo 0 point core args).traceTo_only (n + 1) point core args
  exact ⟨p', h', by rw [State.tracePart, e', e]⟩

/-- A step in which no fault is recorded leaves no trace record. -/
theorem State.faultTraced_same (s : State) (t : Nat) (f : State → State)
    (h : ((f s).tile t).reg Reg.ladleFault = (s.tile t).reg Reg.ladleFault) : s.faultTraced t f = f s := by
  simp [State.faultTraced, faultSeen, h]

/-- A step with its trace record: the state the step gives but for a pair's write count and host memory. -/
theorem State.faultTraced_only (s : State) (t : Nat) (f : State → State) :
    ∃ pairs hostMem, s.faultTraced t f = { f s with pairs := pairs, hostMem := hostMem } := by
  unfold State.faultTraced
  simp only []
  split
  · split
    · exact State.tracePart_only _ _ _ _ _
    · exact ⟨_, _, rfl⟩
  · exact ⟨_, _, rfl⟩

theorem State.tileUnit_tile (s : State) {t : Nat} (f : Tile → Tile) (h : s.clocked t = true) :
    (s.tileUnit t f).tile t = f (s.tile t) := by
  obtain ⟨p, m, e⟩ := s.faultTraced_only t (fun s => s.modTile t f)
  simp only [State.tileUnit, State.unitStep, State.inClock, h, if_true, e]
  exact State.modTile_tile_same s t f

theorem State.tileUnit_only (s : State) {t : Nat} (f : Tile → Tile) (h : s.clocked t = true) :
    s.TileOnly (s.tileUnit t f) t := by
  obtain ⟨p, m, e⟩ := s.faultTraced_only t (fun s => s.modTile t f)
  simp only [State.tileUnit, State.unitStep, State.inClock, h, if_true]
  exact ⟨f (s.tile t), p, m, e⟩

/-- A unit's step that records no fault changes its tile alone. -/
theorem State.tileUnit_same (s : State) {t : Nat} (f : Tile → Tile) (h : s.clocked t = true)
    (hf : (f (s.tile t)).reg Reg.ladleFault = (s.tile t).reg Reg.ladleFault) :
    s.tileUnit t f = s.setTile t (f (s.tile t)) := by
  simp only [State.tileUnit, State.unitStep, State.inClock, h, if_true]
  rw [State.faultTraced_same]
  · rfl
  · simpa using hf

end Sys2Proof.Machine
end

