-- ==== Sys2Proof/Laws/Wrap.lean ====
section
/-!
SUPPORT. Laws/Wrap.lean: what the wrappers of the meanings do: a step of a unit, a register write by an agent that
reaches the register, and a step over every tile of a partition.
-/

namespace Sys2Proof.Machine

theorem unitStep_eq (s : State) (t : Nat) (f : State → State) (h : s.clocked t = true) : s.unitStep t f = s.faultTraced t f := by
  simp [State.unitStep, State.inClock, h]

theorem unitStep_same (s : State) (t : Nat) (f : State → State) (h : s.clocked t = true)
    (hf : ((f s).tile t).reg Reg.ladleFault = (s.tile t).reg Reg.ladleFault) : s.unitStep t f = f s := by
  rw [unitStep_eq _ _ _ h, State.faultTraced_same _ _ _ hf]

/-- A unit of a clocked tile that records no fault: the tile becomes what the unit makes of it. -/
theorem tileUnit_eq (s : State) (t : Nat) (x y : Tile) (f : Tile → Tile) (hx : x = s.tile t) (hc : s.clocked t = true)
    (hf : f x = y) (hk : y.reg Reg.ladleFault = x.reg Reg.ladleFault) : s.tileUnit t f = s.setTile t y := by
  subst hx hf
  unfold State.tileUnit
  rw [unitStep_same _ _ _ hc]
  · rfl
  · rw [State.modTile_tile_same]; exact hk

theorem tileReg_vf (s : State) (n t o : Nat) (v : Word) (hu : s.hostUp = true) (ho : s.ownsTile n t = true) :
    s.tileReg (.vf n) t o v = s.faultTraced t (fun s => s.tileWrite (.vf n) t o v) := by
  simp [State.tileReg, State.reach, State.asAgent, State.agentUp, State.mayTile, hu, ho, State.tilePut]

theorem tileReg_mod (s : State) (n t o : Nat) (v : Word) (f : Tile → Tile) (hu : s.hostUp = true) (ho : s.ownsTile n t = true)
    (hf : s.tileWrite (.vf n) t o v = s.modTile t f) (hk : (f (s.tile t)).reg Reg.ladleFault = (s.tile t).reg Reg.ladleFault) :
    s.tileReg (.vf n) t o v = s.setTile t (f (s.tile t)) := by
  rw [tileReg_vf _ _ _ _ _ hu ho, State.faultTraced_same]
  · exact hf
  · rw [hf]; simpa using hk

theorem clocked_lt {s : State} {t : Nat} (h : s.clocked t = true) : t < tileCount := by
  unfold State.clocked at h
  simp only [Bool.and_eq_true] at h
  unfold State.tileOwner at h
  by_contra hn
  simp [hn] at h

theorem tileReg_core (s : State) (t o : Nat) (v : Word) (f : Tile → Tile) (hc : s.clocked t = true)
    (hf : s.tileWrite (.core t) t o v = s.modTile t f) (hk : (f (s.tile t)).reg Reg.ladleFault = (s.tile t).reg Reg.ladleFault) :
    s.tileReg (.core t) t o v = s.setTile t (f (s.tile t)) := by
  have ht := clocked_lt hc
  have : s.tileReg (.core t) t o v = s.faultTraced t (fun s => s.tileWrite (.core t) t o v) := by
    simp [State.tileReg, State.reach, State.asAgent, State.agentUp, State.mayTile, hc, ht, State.tilePut]
  rw [this, State.faultTraced_same]
  · exact hf
  · rw [hf]; simpa using hk

theorem foldl_modTile (f : Tile → Tile) : ∀ (l : List Nat) (s : State), l.Nodup →
    ∃ ts, l.foldl (fun s t => s.modTile t f) s = { s with tiles := ts } ∧ (∀ t, t ∉ l → tabGet tileD ts t = s.tile t) ∧
      (∀ t, t ∈ l → tabGet tileD ts t = f (s.tile t)) := by
  intro l
  induction l with
  | nil => intro s _; exact ⟨s.tiles, rfl, fun _ _ => rfl, fun _ h => by cases h⟩
  | cons a l ih =>
    intro s hn
    rw [List.nodup_cons] at hn
    obtain ⟨ts, e, h1, h2⟩ := ih (s.modTile a f) hn.2
    refine ⟨ts, e, ?_, ?_⟩
    · intro t ht
      simp only [List.mem_cons, not_or] at ht
      rw [h1 t ht.2, State.modTile_tile_ne _ _ ht.1]
    · intro t ht
      by_cases hta : t = a
      · subst hta; rw [h1 t hn.1, State.modTile_tile_same]
      · rw [h2 t (by simpa [hta] using ht), State.modTile_tile_ne _ _ hta]

theorem mem_tilesOf (s : State) (n t : Nat) : t ∈ s.tilesOf n ↔ s.ownsTile n t = true := by
  simp [State.tilesOf, State.ownsTile]


theorem clear_facts (x : Tile) (o first mask hi lo : Nat) (hne : first ≠ o) (y : Tile)
    (hy : y = (let v := x.reg o &&& ~~~(BitVec.ofNat 32 mask); let t := x.setReg o v; if fld v hi lo = 0 then t.setReg first 0 else t)) :
    ∃ rg, y = { x with regs := rg } ∧ tabGet tileRegD rg o = x.reg o &&& ~~~(BitVec.ofNat 32 mask) ∧
      tabGet tileRegD rg first = (if fld (tabGet tileRegD rg o) hi lo = 0 then 0 else x.reg first) ∧
      ∀ o', o' ≠ o → o' ≠ first → tabGet tileRegD rg o' = x.reg o' := by
  simp only [] at hy
  split at hy
  · rename_i h
    subst hy
    refine ⟨_, rfl, ?_, ?_, ?_⟩
    · show ((x.setReg o _).setReg first 0).reg o = _
      rw [Tile.setReg_reg_ne _ _ (Ne.symm hne), Tile.setReg_reg_same]
    · show ((x.setReg o _).setReg first 0).reg first = (if fld (((x.setReg o _).setReg first 0).reg o) hi lo = 0 then 0 else _)
      rw [Tile.setReg_reg_same, Tile.setReg_reg_ne _ _ (Ne.symm hne), Tile.setReg_reg_same, if_pos h]
    · intro o' h1 h2
      show ((x.setReg o _).setReg first 0).reg o' = _
      rw [Tile.setReg_reg_ne _ _ h2, Tile.setReg_reg_ne _ _ h1]
  · rename_i h
    subst hy
    refine ⟨_, rfl, ?_, ?_, ?_⟩
    · exact Tile.setReg_reg_same _ _ _
    · show (x.setReg o _).reg first = (if fld ((x.setReg o _).reg o) hi lo = 0 then 0 else _)
      rw [Tile.setReg_reg_same, if_neg h, Tile.setReg_reg_ne _ _ hne]
    · intro o' h1 h2; exact Tile.setReg_reg_ne _ _ h1

theorem fld_31_0 (w : Word) : fld w 31 0 = 0 ↔ w = 0 := by
  unfold fld
  simp only [Nat.shiftRight_zero]
  rw [Nat.mod_eq_of_lt w.isLt]
  constructor
  · intro h; exact BitVec.eq_of_toNat_eq (by simpa using h)
  · intro h; rw [h]; rfl

theorem reg_congr {x y : Tile} (h : y.regs = x.regs) (o : Nat) : y.reg o = x.reg o := by unfold Tile.reg; rw [h]

theorem partReg_vf (s : State) (n o : Nat) (v : Word) (hu : s.hostUp = true) (hn : n < 16) : s.partReg (.vf n) n o v = s.partWrite n o v := by
  simp [State.partReg, State.reach, State.asAgent, State.agentUp, hu, mayPart, hn]

theorem range5 : List.range 5 = [0, 1, 2, 3, 4] := rfl

/-- A trace record leaves every tile. -/
theorem State.traced_tile (s : State) (p : Tab Pair) (m : List Host.Cell) (t : Nat) :
    ({ s with pairs := p, hostMem := m } : State).tile t = s.tile t := rfl

end Sys2Proof.Machine
end

