-- ==== Sys2Proof/Laws/Part.lean ====
section
/-!
SUPPORT. Laws/Part.lean: reading a field of a partition's or the chip's register that has been set, and who owns a tile
when no partition's configuration changes.
-/

namespace Sys2Proof.Machine

theorem Part.setF_reg_same (p : Part) (o hi lo v : Nat) : (p.setF o hi lo v).reg o = setFld (p.reg o) hi lo v :=
  Part.setReg_reg_same _ _ _

theorem Part.setF_reg_ne (p : Part) {o q : Nat} (hi lo v : Nat) (h : q ≠ o) : (p.setF o hi lo v).reg q = p.reg q :=
  Part.setReg_reg_ne _ _ h

theorem Part.setF_f_same (p : Part) (o : Nat) {hi lo : Nat} (v : Nat) (h1 : lo ≤ hi) (h2 : hi < 32) :
    (p.setF o hi lo v).f o hi lo = v % 2 ^ (hi + 1 - lo) := by
  rw [Part.f, Part.setF_reg_same, fld_setFld_same _ _ h1 h2]

theorem Part.setF_f_ne (p : Part) {o q : Nat} (hi lo v hi' lo' : Nat) (h : q ≠ o) :
    (p.setF o hi lo v).f q hi' lo' = p.f q hi' lo' := by
  rw [Part.f, Part.setF_reg_ne _ _ _ _ h, Part.f]

theorem Part.setF_f_above (p : Part) (o : Nat) {hi lo hi' lo' : Nat} (v : Nat) (h1 : lo ≤ hi) (h2 : hi < 32)
    (h : hi < lo') : (p.setF o hi lo v).f o hi' lo' = p.f o hi' lo' := by
  rw [Part.f, Part.setF_reg_same, fld_setFld_above _ _ h1 h2 h, Part.f]

theorem Part.setF_f_below (p : Part) (o : Nat) {hi lo hi' lo' : Nat} (v : Nat) (h1 : lo ≤ hi) (h2 : hi < 32)
    (h : hi' < lo) : (p.setF o hi lo v).f o hi' lo' = p.f o hi' lo' := by
  rw [Part.f, Part.setF_reg_same, fld_setFld_below _ _ h1 h2 h, Part.f]

theorem State.setF_reg_same (s : State) (o hi lo v : Nat) : (s.setF o hi lo v).reg o = setFld (s.reg o) hi lo v :=
  State.setReg_reg_same _ _ _

theorem State.setF_reg_ne (s : State) {o q : Nat} (hi lo v : Nat) (h : q ≠ o) : (s.setF o hi lo v).reg q = s.reg q :=
  State.setReg_reg_ne _ _ h

theorem State.setF_f_same (s : State) (o : Nat) {hi lo : Nat} (v : Nat) (h1 : lo ≤ hi) (h2 : hi < 32) :
    (s.setF o hi lo v).f o hi lo = v % 2 ^ (hi + 1 - lo) := by
  rw [State.f, State.setF_reg_same, fld_setFld_same _ _ h1 h2]

theorem State.setF_f_ne (s : State) {o q : Nat} (hi lo v hi' lo' : Nat) (h : q ≠ o) :
    (s.setF o hi lo v).f q hi' lo' = s.f q hi' lo' := by
  rw [State.f, State.setF_reg_ne _ _ _ _ h, State.f]

theorem State.setF_f_above (s : State) (o : Nat) {hi lo hi' lo' : Nat} (v : Nat) (h1 : lo ≤ hi) (h2 : hi < 32)
    (h : hi < lo') : (s.setF o hi lo v).f o hi' lo' = s.f o hi' lo' := by
  rw [State.f, State.setF_reg_same, fld_setFld_above _ _ h1 h2 h, State.f]

theorem State.setF_f_below (s : State) (o : Nat) {hi lo hi' lo' : Nat} (v : Nat) (h1 : lo ≤ hi) (h2 : hi < 32)
    (h : hi' < lo) : (s.setF o hi lo v).f o hi' lo' = s.f o hi' lo' := by
  rw [State.f, State.setF_reg_same, fld_setFld_below _ _ h1 h2 h, State.f]

theorem State.tileOwner_congr {s u : State} (h : ∀ n, (u.part n).reg Reg.mbPartCfg = (s.part n).reg Reg.mbPartCfg) (t : Nat) :
    u.tileOwner t = s.tileOwner t := by
  unfold State.tileOwner State.unitOwner State.ownsUnit
  simp only [h]

theorem State.ownsTile_congr {s u : State} (h : ∀ n, (u.part n).reg Reg.mbPartCfg = (s.part n).reg Reg.mbPartCfg)
    (n t : Nat) : u.ownsTile n t = s.ownsTile n t := by
  unfold State.ownsTile State.ownsUnit
  rw [h]

end Sys2Proof.Machine
end

