-- ==== Sys2Proof/Laws/Coll.lean ====
section
/-!
SUPPORT. Laws/Coll.lean: what messages to ring neighbours and changes of a context leave as they were.
-/

namespace Sys2Proof.Machine

theorem sendNb_form (s : State) (nb : Nat) (m : CtrlMsg) : ∃ pp, s.sendNb nb m = { s with ports := pp } := by
  unfold State.sendNb
  split
  · exact ⟨_, rfl⟩
  · exact ⟨s.ports, rfl⟩

theorem sendNbs_form (n g : Nat) (m : CtrlMsg) : ∀ (l : List Nat) (s : State), ∃ pp, l.foldl (fun u nb => u.sendNb nb m) s = { s with ports := pp } := by
  intro l
  induction l with
  | nil => intro s; exact ⟨s.ports, rfl⟩
  | cons a l ih =>
    intro s
    obtain ⟨p1, e1⟩ := sendNb_form s a m
    obtain ⟨p2, e2⟩ := ih (s.sendNb a m)
    refine ⟨p2, ?_⟩
    rw [List.foldl_cons, e2, e1]

theorem setCtx_part (s : State) (n g : Nat) (c : Option Ctx) (m o : Nat) : ((s.setCtx n g c).part m).reg o = (s.part m).reg o := by
  unfold State.setCtx
  by_cases h : m = n
  · subst h; rw [State.modPart_part_same]; rfl
  · rw [State.modPart_part_ne _ _ h]

theorem grpSize_setCtx (s : State) (n g : Nat) (c : Option Ctx) (k : Nat) : (s.setCtx n k c).grpSize n g = s.grpSize n g := by
  unfold State.grpSize State.grpLen Part.grpMode Part.f
  simp only [setCtx_part]
  rfl

theorem setCtx_ctx (s : State) (n g : Nat) (c : Option Ctx) : (s.setCtx n g c).ctx n g = c := by
  unfold State.setCtx State.ctx
  rw [State.modPart_part_same]
  exact tabGet_set_same _ _ _ _

theorem sendNotices_form (n g seq code o : Nat) (e : Option Nat) (s : State) : ∃ pp, s.sendNotices n g seq code o e = { s with ports := pp } := by
  unfold State.sendNotices
  suffices h : ∀ (l : List Nat) (s : State), ∃ pp, l.foldl (fun s nb => if some nb = e then s else
      s.sendNb nb (.abort n g seq code o ((s.part n).tagNotice [n, g, seq, code, o]))) s = { s with ports := pp } from h _ s
  intro l
  induction l with
  | nil => intro s; exact ⟨s.ports, rfl⟩
  | cons a l ih =>
    intro s
    rw [List.foldl_cons]
    split
    · exact ih s
    · obtain ⟨p1, e1⟩ := sendNb_form s a (.abort n g seq code o ((s.part n).tagNotice [n, g, seq, code, o]))
      rw [e1]
      obtain ⟨p2, e2⟩ := ih { s with ports := p1 }
      exact ⟨p2, e2⟩

end Sys2Proof.Machine
end

