-- ==== Sys2Proof/Laws/Matrix.lean ====
section
/-!
SUPPORT. Laws/Matrix.lean: what the operations of the matrix engine do: finding, checking and taking a command, loading
weights, starting and completing a pass.
-/

namespace Sys2Proof.Machine

theorem gangHead_facts {m g : Nat} : ∀ (l : List QEntry) (k i : Nat) (e : QEntry), gangHead m g k l = some (i, e) →
    mxGang e = m ∧ mxQsel e = g ∧ isMatrixOp (opc e) = true := by
  intro l
  induction l with
  | nil => intro k i e h; simp [gangHead] at h
  | cons a l ih =>
    intro k i e h
    unfold gangHead at h
    split at h
    · cases h
    · rename_i hn
      split at h
      · rename_i hq
        simp only [Option.some.injEq, Prod.mk.injEq] at h
        obtain ⟨-, rfl⟩ := h
        simp only [Bool.or_eq_true, Bool.not_eq_true', bne_iff_ne, ne_eq, not_or, Bool.not_eq_false, Decidable.not_not] at hn
        exact ⟨hn.2, hq, hn.1⟩
      · exact ih _ _ _ h

theorem mxCheck_congr (x y : Tile) (e : QEntry) (h1 : y.gang = x.gang) (h2 : y.targets = x.targets) (h3 : y.openTile = x.openTile)
    (h4 : y.scratch = x.scratch) (h5 : y.wValid = x.wValid) (h6 : y.seedFails (cvSeed (mxCvt e)) = x.seedFails (cvSeed (mxCvt e))) :
    mxCheck y e = mxCheck x e := by
  have r8 : y.rd8 = x.rd8 := by funext a; simp only [Tile.rd8, h4]
  have r32 : y.rd32 = x.rd32 := by funext a; simp only [Tile.rd32, r8]
  have hd : ∀ a, descWords y a = descWords x a := by intro a; simp only [descWords, r32]
  have hw : ∀ a, walkAt y a = walkAt x a := by intro a; simp only [walkAt, hd]
  have hsc : ∀ a, scaleAt y a = scaleAt x a := by intro a; simp only [scaleAt, hd]
  have ht : y.target = x.target := by funext g; simp only [Tile.target, h2]
  have e1 : mxRangeBad y e = mxRangeBad x e := by simp only [mxRangeBad, mxWalkOf, passReads, hw, hsc, ht]; rfl
  have e2 : mxNoWeights y e = mxNoWeights x e := by simp only [mxNoWeights, h5]
  have e3 : mxWalkBad y e = mxWalkBad x e := by simp only [mxWalkBad, mxWalkOf, hw]
  have e4 : mxCvtBad y e = mxCvtBad x e := by simp only [mxCvtBad, mxWalkOf, hw, hsc, h6]; rfl
  have e5 : mxAccBad y e = mxAccBad x e := by simp only [mxAccBad, h1, h3, ht]
  unfold mxCheck
  rw [e1, e2, e3, e4, e5]

theorem takePattern_check (x : Tile) (e : QEntry) : mxCheck (x.takePattern e) e = mxCheck x e := by
  unfold Tile.takePattern
  split
  · unfold Tile.seedTake
    split
    · rename_i hb
      exact mxCheck_congr _ _ _ rfl rfl rfl rfl rfl (by simp only [Tile.seedFails, Tile.setF_patBad, hb, Bool.or_true])
    · rfl
  · rfl

theorem takePattern_ok (x : Tile) (e : QEntry) (h : mxCheck x e = 0) : x.takePattern e = x := by
  unfold Tile.takePattern
  split
  · rename_i hc
    simp only [Bool.and_eq_true, beq_iff_eq, decide_eq_true_eq] at hc
    obtain ⟨⟨ho, hl⟩, hr⟩ := hc
    unfold Tile.seedTake
    split
    · rename_i hb
      exfalso
      have : mxCvtBad x e = true := by
        simp [mxCvtBad, ho, hl, hr, Tile.seedFails, hb]
      unfold mxCheck at h
      rw [this] at h
      repeat' (split at h)
      all_goals simp_all
    · rfl
  · rfl

/-- What a matrix event does when its command may start now. -/
theorem matrixCommand_eq (x : Tile) (op g i cyc : Nat) (e : QEntry) (compat : Bool) (hr : x.mxReady = true)
    (hh : gangHead x.gang g 0 (x.queue 0) = some (i, e)) (ho : opc e = op) (hw : x.startsNow i e cyc = true) :
    x.matrixCommand op g compat cyc =
      if mxCheck x e ≠ 0 then (x.takePattern e).reject 0 i (mxCheck x e)
      else if op = 0x11 then x.startLoad i e cyc
      else x.startPass i e compat cyc := by
  unfold Tile.matrixCommand
  simp only [hr, Bool.not_true, Bool.false_eq_true, if_false, hh, ho, hw, ne_eq, not_true, decide_false, Bool.or_false,
    takePattern_check]
  by_cases hc : mxCheck x e = 0
  · simp only [hc, not_true, if_false, takePattern_ok x e hc]
  · simp only [hc, not_false_eq_true, if_true]

theorem takePattern_only (x : Tile) (e : QEntry) : x.RegsOnly (x.takePattern e) := by
  unfold Tile.takePattern; split
  · unfold Tile.seedTake; split
    · exact .setF _ _ _ _ _
    · exact .refl _
  · exact .refl _

theorem takePattern_reg (x : Tile) (e : QEntry) {o : Nat} (ho : o ≠ Reg.rennetSeedBusy) : (x.takePattern e).reg o = x.reg o := by
  unfold Tile.takePattern; split
  · unfold Tile.seedTake; split
    · exact Tile.setF_reg_ne _ _ _ _ ho
    · rfl
  · rfl

theorem get_set (d : Nat → α) [DecidableEq α] (m : Tab α) (k j : Nat) (v : α) : tabGet d (tabSet d m k v) j = if j = k then v else tabGet d m j :=
  tabGet_set d m k j v

/-- A list of writes: a key gets the value of a write to it when all writes to it carry one value. -/

theorem foldSet_hit {β α : Type} [DecidableEq α] (d : Nat → α) (key : β → Nat) (val : β → α) (l : List β) (m : Tab α) (c : β)
    (hc : c ∈ l) (h : ∀ b ∈ l, key b = key c → val b = val c) :
    tabGet d (l.foldl (fun w b => tabSet d w (key b) (val b)) m) (key c) = val c := by
  induction l using List.reverseRecOn generalizing m with
  | nil => cases hc
  | append_singleton l a ih =>
    simp only [List.foldl_append, List.foldl_cons, List.foldl_nil]
    by_cases hk : key a = key c
    · rw [hk, tabGet_set_same]
      exact h a (by simp) hk
    · rw [tabGet_set_ne _ _ _ (fun h => hk h.symm)]
      apply ih
      · simp only [List.mem_append, List.mem_singleton] at hc
        rcases hc with hc | rfl
        · exact hc
        · exact absurd rfl hk
      · intro b hb; exact h b (by simp [hb])

theorem foldSet_miss {β α : Type} [DecidableEq α] (d : Nat → α) (key : β → Nat) (val : β → α) (l : List β) (m : Tab α) (k : Nat)
    (h : ∀ b ∈ l, k ≠ key b) :
    tabGet d (l.foldl (fun w b => tabSet d w (key b) (val b)) m) k = tabGet d m k := by
  induction l generalizing m with
  | nil => rfl
  | cons a l ih =>
    rw [List.foldl_cons, ih _ (fun b hb => h b (by simp [hb])), tabGet_set_ne _ _ _ (h a (by simp))]

theorem bit_setBit_same (b : BitVec 4) (q : Nat) (v : Bool) (h : q < 4) : bit (setBit b q v) q = v := by
  have : q = 0 ∨ q = 1 ∨ q = 2 ∨ q = 3 := by omega
  rcases this with rfl | rfl | rfl | rfl <;> revert b v <;> decide

theorem bit_setBit_ne (b : BitVec 4) (q r : Nat) (v : Bool) (h : q < 4) (hr : r < 4) (hn : r ≠ q) : bit (setBit b q v) r = bit b r := by
  have : q = 0 ∨ q = 1 ∨ q = 2 ∨ q = 3 := by omega
  have : r = 0 ∨ r = 1 ∨ r = 2 ∨ r = 3 := by omega
  rcases ‹q = 0 ∨ _› with rfl | rfl | rfl | rfl <;> rcases ‹r = 0 ∨ _› with rfl | rfl | rfl | rfl <;>
    first | (exact absurd rfl hn) | (clear hn h hr; revert b v; decide)

theorem setBits_hit (qs : List Nat) : ∀ (b : BitVec 4) (q : Nat), (∀ q ∈ qs, q < 4) → q < 4 → (q ∈ qs ∨ bit b q = true) → bit (setBits b qs true) q = true := by
  induction qs with
  | nil => intro b q _ _ h; simpa [setBits] using h
  | cons a l ih =>
    intro b q hl hq h
    simp only [setBits, List.foldl_cons]
    apply ih _ _ (fun r hr => hl r (by simp [hr])) hq
    by_cases haq : q = a
    · right; subst haq; exact bit_setBit_same _ _ _ hq
    · rcases h with h | h
      · simp only [List.mem_cons, haq, false_or] at h; exact .inl h
      · right; rw [bit_setBit_ne _ _ _ _ (hl a (by simp)) hq haq]; exact h

theorem gangQuarters_lt (m g : Nat) (hm : m < 4) (hg : g < gangCount m) : ∀ q ∈ gangQuarters m g, q < 4 := by
  have : m = 0 ∨ m = 1 ∨ m = 2 ∨ m = 3 := by omega
  rcases this with rfl | rfl | rfl | rfl <;> simp [gangQuarters, gangCount] at * <;> omega

theorem cellKey_inj (m g : Nat) (hm : m < 4) {r c r' c' : Nat} (hr : r < gangRows m) (hc : c < gangCols m) (hr' : r' < gangRows m)
    (hc' : c' < gangCols m) (h : cellKey m g r c = cellKey m g r' c') : r = r' ∧ c = c' := by
  have : m = 0 ∨ m = 1 ∨ m = 2 ∨ m = 3 := by omega
  rcases this with rfl | rfl | rfl | rfl <;> simp [gangRows, gangCols, cellKey, cellQuarter] at * <;> omega

theorem mxCheck_shape (x : Tile) (e : QEntry) (h : mxCheck x e = 0) : mxShapeBad e = false := by
  unfold mxCheck at h
  by_contra hb
  simp only [Bool.not_eq_false] at hb
  rw [hb] at h
  split at h <;> simp at h

theorem scrReads_form (x : Tile) (rs : List (Nat × Nat)) : ∃ rg, (x.scrReads rs).1 = { x with regs := rg } ∧
    ∀ o, o ≠ Reg.ladleScrEcc → tabGet tileRegD rg o = x.reg o :=
  ⟨(x.scrReads rs).1.regs, rfl, fun _ h => Tile.scrReads_reg x rs h⟩

theorem takeCmd_form (x : Tile) (en i : Nat) : ∃ rg, x.takeCmd en i =
      { x with regs := rg, queues := tabSet queueD x.queues en (listDrop1 (x.queue en) i) } ∧
    tabGet tileRegD rg (cmdCntReg en) = x.reg (cmdCntReg en) + 1 ∧
    ∀ o, o ≠ cmdCntReg en → tabGet tileRegD rg o = x.reg o :=
  ⟨(x.takeCmd en i).regs, rfl, tabGet_set_same _ _ _ _, fun _ h => tabGet_set_ne _ _ _ h⟩

theorem rnEvents_form (x : Tile) (seq : Nat) (l : List RnEvt) : ∃ rg nw, x.rnEvents seq l = { x with regs := rg, now := nw } ∧
    ∀ o, o ∉ rennetEventRegs → tabGet tileRegD rg o = x.reg o :=
  ⟨_, _, Tile.rnEvents_only x seq l, fun _ h => Tile.rnEvents_reg x seq l h⟩

/-- A weight load takes its command, counts it, and hands it to the loader; a set of its quarters then waits. -/
theorem startLoad_form (x : Tile) (i : Nat) (e : QEntry) (cyc : Nat) (he : opc e = 0x11) :
    ∃ rg lo, x.startLoad i e cyc = { x with
        regs := rg
        queues := tabSet queueD x.queues 0 (listDrop1 (x.queue 0) i)
        wValid := setBits x.wValid (gangQuarters (mxGang e) (mxQsel e)) true
        wPendOn := setBits x.wPendOn (gangQuarters (mxGang e) (mxQsel e)) true
        arr := { x.arr with started := some cyc, loads := lo } } ∧
      (∃ kept, lo = kept ++ [⟨(x.reg Reg.ladleCmdcntMx + 1).toNat, false, e, []⟩] ∧ ∀ l ∈ kept, l ∈ x.arr.loads) ∧
      tabGet tileRegD rg Reg.ladleCmdcntMx = x.reg Reg.ladleCmdcntMx + 1 ∧
      ∀ o, o ≠ Reg.ladleCmdcntMx → tabGet tileRegD rg o = x.reg o := by
  obtain ⟨rg, e2, c2, g2⟩ := takeCmd_form x 0 i
  have hb : (opc e == 0x10) = false := by rw [he]; rfl
  have hs : (x.takeCmd 0 i).cmdSeq 0 = (x.reg Reg.ladleCmdcntMx + 1).toNat := by rw [e2]; exact congrArg BitVec.toNat c2
  refine ⟨rg, (x.startLoad i e cyc).arr.loads, ?_, ⟨x.arr.loads.filter (fun l => l.own ||
      !((gangQuarters (mxGang l.entry) (mxQsel l.entry)).any (fun q => (gangQuarters (mxGang e) (mxQsel e)).contains q &&
        bit x.wPendOn q))), ?_, fun l hl => (List.mem_filter.1 hl).1⟩, c2, g2⟩
  · unfold Tile.startLoad Tile.startLoader
    simp only [hb, Bool.not_false, hs]
    simp only [e2]
  · unfold Tile.startLoad Tile.startLoader
    simp only [hb, hs]
    rw [e2]

theorem fillSet_lt (x : Tile) (q : Nat) : x.fillSet q < 2 := by unfold Tile.fillSet b2n; split <;> omega

/-- What a pass that starts leaves: its record at the end of the passes, its command taken and counted, its stream, its
output tile and its target; the loader's list and the sets that wait follow WLOAD. -/
theorem startPass_form (x : Tile) (i : Nat) (e : QEntry) (compat : Bool) (cyc : Nat)
    (h : (x.scrReads (startReads x e)).2 = false) :
    ∃ rg nw wo wv st ao ar p, x.startPass i e compat cyc = { x with
        regs := rg, now := nw
        queues := tabSet queueD x.queues 0 (listDrop1 (x.queue 0) i)
        wPendOn := wo, wValid := wv, streams := st, accOpen := ao, arr := ar
        passes := x.passes ++ [p]
        openTile := tabSet openTileD x.openTile (mxQsel e) (if mxLast e then none else some (mxT e, mxN e))
        targets := if mxLast e then tabMod targetsD x.targets (mxQsel e) List.tail else x.targets
        fill := if mxLast e then (columnQuarters (mxGang e) (mxQsel e)).foldl (fun b q => setBit b q (!bit b q)) x.fill else x.fill } ∧
      p.qsel = mxQsel e ∧ p.gang = mxGang e ∧ p.first = mxFirst e ∧ p.last = mxLast e ∧ p.tCount = mxT e ∧ p.nCols = mxN e ∧
      p.cvt = mxCvt e ∧ p.entry = e ∧ (p.base, p.pitch) = (x.target (mxQsel e)).getD (0, 0) ∧ p.setL < 2 ∧ p.setR < 2 ∧
      p.seq = (x.reg Reg.ladleCmdcntMx + 1).toNat ∧ p.fed = [] ∧ p.toSwap = mxK e * mxN e ∧
      p.toLink = mxT e * mxN e ∧ p.left = mxT e * mxN e ∧
      tabGet tileRegD rg Reg.ladleCmdcntMx = x.reg Reg.ladleCmdcntMx + 1 ∧
      ∀ o, o ∉ Reg.ladleCmdcntMx :: Reg.ladleScrEcc :: rennetEventRegs → tabGet tileRegD rg o = x.reg o := by
  obtain ⟨r1, e1, g1⟩ := scrReads_form x (startReads x e)
  have hp : x.scrReads (startReads x e) = ({ x with regs := r1 }, false) := by rw [← e1, ← h]
  obtain ⟨r2, e2, c2, g2⟩ := takeCmd_form ({ x with regs := r1 } : Tile) 0 i
  have c2' : tabGet tileRegD r2 Reg.ladleCmdcntMx = x.reg Reg.ladleCmdcntMx + 1 := by
    rw [show Reg.ladleCmdcntMx = cmdCntReg 0 from rfl, c2]
    show tabGet tileRegD r1 (cmdCntReg 0) + 1 = _
    rw [g1 _ (by decide)]
  have hseq : (({ x with regs := r1 } : Tile).takeCmd 0 i).cmdSeq 0 = (x.reg Reg.ladleCmdcntMx + 1).toNat := by
    rw [e2]; exact congrArg BitVec.toNat c2'
  unfold Tile.startPass
  simp only [hp, Bool.false_eq_true, if_false, hseq]
  simp only [e2]
  have fin : ∀ (y : Tile) (seq : Nat) (l : List RnEvt), y.regs = r2 →
      tabGet tileRegD (y.rnEvents seq l).regs Reg.ladleCmdcntMx = x.reg Reg.ladleCmdcntMx + 1 ∧
      ∀ o, o ∉ Reg.ladleCmdcntMx :: Reg.ladleScrEcc :: rennetEventRegs → tabGet tileRegD (y.rnEvents seq l).regs o = x.reg o := by
    intro y seq l hy
    have hyr : ∀ o, y.reg o = tabGet tileRegD r2 o := fun o => by show tabGet tileRegD y.regs o = _; rw [hy]
    refine ⟨?_, ?_⟩
    · exact (Tile.rnEvents_reg y seq l (by decide)).trans ((hyr _).trans c2')
    · intro o ho
      simp only [List.mem_cons, not_or] at ho
      exact (Tile.rnEvents_reg y seq l (by simpa using ho.2.2)).trans
        ((hyr o).trans ((g2 _ ho.1).trans (g1 _ ho.2.1)))
  cases hwl : mxWload e <;> simp only [Bool.false_eq_true, if_false, if_true]
  all_goals
    rw [Tile.rnEvents_only]
    exact ⟨_, _, _, _, _, _, _, _, rfl, rfl, rfl, rfl, rfl, rfl, rfl, rfl, rfl, rfl, fillSet_lt _ _, fillSet_lt _ _, rfl, rfl,
      rfl, rfl, rfl, (fin _ _ _ rfl).1, (fin _ _ _ rfl).2⟩

/-- What the completion of a pass leaves: the record goes, and with ACC_LAST its drains join the list. -/
theorem passComplete_form (x : Tile) (g : Nat) (p : PassRec) (h : x.passEnds g = some p) :
    ∃ ao, x.passComplete g = { x with
        accOpen := ao
        passes := dropFirst (· == p) x.passes
        drains := if p.last then x.drains ++ ((columnQuarters p.gang p.qsel).zipIdx).map (fun x => drainJob p x.2 x.1) else x.drains } := by
  unfold Tile.passComplete
  simp only [h]
  cases p.last
  · exact ⟨x.accOpen, rfl⟩
  · exact ⟨_, rfl⟩

end Sys2Proof.Machine
end

