-- ==== Sys2Proof/Laws/Drain.lean ====
section
/-!
SUPPORT. Laws/Drain.lean: bytes written to scratch, the lengths of packed rows, and what the output stage of a quarter does.
-/

namespace Sys2Proof.Machine

theorem drainHead_q {x : Tile} {q : Nat} {j : DrainJob} (h : x.drainHead q = some j) : j.quarter = q := by
  have := List.find?_some h; simpa using this

theorem setGen_reseed (x : Tile) (q : Nat) (g : DWord) : ({x.setGen q g with reseed := setBit (x.setGen q g).reseed q false} : Tile) =
    { x with gens := tabSet genD x.gens q g, reseed := setBit x.reseed q false } := rfl

theorem takeSeed_eq (x : Tile) (q : Nat) : x.takeSeed q = { x with
    gens := tabSet genD x.gens q (genSeed (x.reg64 Reg.rennetSrSeedLo) (q + 1)), reseed := setBit x.reseed q false } := by
  rw [← setGen_reseed]; unfold Tile.takeSeed; with_reducible rfl

/-- A written rounding seed at one quarter: taken at once, or owed while a drain or, for quarter 0, a Churn job is in
progress (R80, R193). -/
theorem reseedQuarter_form (x : Tile) (q : Nat) (hq : q < 4) : ∃ ge rs dr, x.reseedQuarter q = { x with gens := ge, reseed := rs, drains := dr } ∧
    (∀ q', q' < 4 → q' ≠ q → tabGet genD ge q' = x.gen q' ∧ bit rs q' = bit x.reseed q') ∧
    (((x.drainHead q).isSome || (q == 0 && x.churn.isSome)) = false → tabGet genD ge q = genSeed (x.reg64 Reg.rennetSrSeedLo) (q + 1) ∧ bit rs q = false ∧ dr = x.drains) ∧
    (((x.drainHead q).isSome || (q == 0 && x.churn.isSome)) = true → tabGet genD ge q = x.gen q ∧ bit rs q = true) ∧
    (∀ q', (List.find? (fun j : DrainJob => j.quarter == q') dr).isSome = (x.drainHead q').isSome) := by
  unfold Tile.reseedQuarter
  split
  · rename_i h
    refine ⟨x.gens, setBit x.reseed q true, x.drains, rfl, ?_, ?_, ?_, fun _ => rfl⟩
    · intro q' h1 h2; exact ⟨rfl, bit_setBit_ne _ _ _ _ hq h1 h2⟩
    · intro h'; rw [h, Bool.or_true] at h'; cases h'
    · intro _; exact ⟨rfl, bit_setBit_same _ _ _ hq⟩
  rename_i hc
  split
  · rename_i h
    refine ⟨x.gens, setBit x.reseed q true, modDrain q (fun j => { j with begun := true }) x.drains, rfl, ?_, ?_, ?_, ?_⟩
    · intro q' h1 h2; exact ⟨rfl, bit_setBit_ne _ _ _ _ hq h1 h2⟩
    · intro h'; rw [h, Bool.true_or] at h'; cases h'
    · intro _; exact ⟨rfl, bit_setBit_same _ _ _ hq⟩
    · intro q'
      simp only [Tile.drainHead]
      induction x.drains with
      | nil => rfl
      | cons a l ih =>
        unfold modDrain
        split
        · rename_i ha
          by_cases hqq : a.quarter == q' <;> simp [List.find?_cons, hqq]
        · by_cases hqq : a.quarter == q' <;> simp [List.find?_cons, hqq, ih]
  · rename_i h
    rw [takeSeed_eq]
    generalize genSeed (x.reg64 Reg.rennetSrSeedLo) (q + 1) = g
    refine ⟨tabSet genD x.gens q g, setBit x.reseed q false, x.drains, rfl, ?_, ?_, ?_, ?_⟩
    · intro q' h1 h2; exact ⟨tabGet_set_ne _ _ _ h2, bit_setBit_ne _ _ _ _ hq h1 h2⟩
    · intro _; exact ⟨tabGet_set_same _ _ _ _, bit_setBit_same _ _ _ hq, rfl⟩
    · intro h'; exact absurd h' (by simp only [Bool.or_eq_true, not_or]; exact ⟨h, hc⟩)
    · intro q'; rfl

theorem putBytes_out (keep : Nat → Bool) (l : List Byte) : ∀ (m : Tab Byte) (a b : Nat), b < a ∨ a + l.length ≤ b →
    tabGet byteD (putBytes keep m a l) b = tabGet byteD m b := by
  induction l with
  | nil => intro m a b _; rfl
  | cons x l ih =>
    intro m a b h
    simp only [List.length_cons] at h
    unfold putBytes
    rw [ih _ _ _ (by omega)]
    split
    · rfl
    · exact tabGet_set_ne _ _ _ (by omega)

theorem putBytes_in (keep : Nat → Bool) (l : List Byte) : ∀ (m : Tab Byte) (a i : Nat), i < l.length → keep (a + i) = false →
    tabGet byteD (putBytes keep m a l) (a + i) = l.getD i 0 := by
  induction l with
  | nil => intro m a i h; simp at h
  | cons x l ih =>
    intro m a i h hk
    unfold putBytes
    cases i with
    | zero =>
      simp only [Nat.add_zero] at hk ⊢
      rw [putBytes_out _ _ _ _ _ (by omega), hk]
      simp
    | succ i =>
      rw [show a + (i + 1) = a + 1 + i by omega] at hk ⊢
      rw [ih _ _ _ (by simpa using h) hk]
      simp

theorem wrBytes_form (x : Tile) (a : Nat) (bs : List Byte) : ∃ rg sc sb ch sk, x.wrBytes a bs = { x with regs := rg, scratch := sc, scrBad := sb, churn := ch, skim := sk } ∧
    (∀ o, o ≠ Reg.ladleScrEcc → tabGet tileRegD rg o = x.reg o) ∧
    (∀ b, b < a ∨ a + bs.length ≤ b → tabGet byteD sc b = tabGet byteD x.scratch b) ∧
    (x.scrBad = [] → sb = [] ∧ ∀ i, i < bs.length → tabGet byteD sc (a + i) = bs.getD i 0) := by
  refine ⟨(x.wrBytes a bs).regs, (x.wrBytes a bs).scratch, (x.wrBytes a bs).scrBad, (x.wrBytes a bs).churn,
    (x.wrBytes a bs).skim, rfl, ?_, ?_, ?_⟩
  · intro o ho
    show (x.wrBytes a bs).reg o = _
    unfold Tile.wrBytes
    show ((x.count Reg.ladleScrEcc 15 0 _).count Reg.ladleScrEcc 31 16 _).reg o = _
    rw [Tile.count, Tile.setF_reg_ne _ _ _ _ ho, Tile.count, Tile.setF_reg_ne _ _ _ _ ho]
  · intro b hb; exact putBytes_out _ _ _ _ _ hb
  · intro h
    refine ⟨by show x.scrBad.filter _ = []; rw [h]; rfl, ?_⟩
    intro i hi
    unfold Tile.wrBytes
    simp only [h, List.filter_nil, List.any_nil]
    exact putBytes_in _ _ _ _ _ hi rfl

theorem bytesOf_length (n v : Nat) : (bytesOf n v).length = n := by
  induction n generalizing v with
  | zero => rfl
  | succ n ih => simp [bytesOf, ih]

theorem bytesOf_getD (n v i : Nat) (h : i < n) : ((bytesOf n v).getD i 0).toNat = v / 256 ^ i % 256 := by
  induction n generalizing v i with
  | zero => omega
  | succ n ih =>
    cases i with
    | zero => simp [bytesOf]
    | succ i =>
      simp only [bytesOf, List.getD_cons_succ]
      rw [ih _ _ (by omega), Nat.div_div_eq_div_mul, Nat.pow_succ, Nat.mul_comm]

theorem flatMap8_length (l : List Nat) : (l.flatMap (bytesOf 8)).length = 8 * l.length := by
  induction l with
  | nil => rfl
  | cons a l ih => simp only [List.flatMap_cons, List.length_append, bytesOf_length, ih, List.length_cons]; omega

theorem flatMap8_getD (l : List Nat) (c k : Nat) (hc : c < l.length) (hk : k < 8) :
    (((l.flatMap (bytesOf 8)).getD (8 * c + k) 0)).toNat = (l.getD c 0) / 256 ^ k % 256 := by
  induction l generalizing c with
  | nil => simp at hc
  | cons a l ih =>
    simp only [List.flatMap_cons]
    cases c with
    | zero =>
      rw [List.getD_append _ _ _ _ (by rw [bytesOf_length]; omega)]
      simpa using bytesOf_getD 8 a k hk
    | succ c =>
      rw [List.getD_append_right _ _ _ _ (by rw [bytesOf_length]; omega), bytesOf_length,
        show 8 * (c + 1) + k - 8 = 8 * c + k by omega, ih c (by simpa using hc)]
      simp

theorem pieces_flatten_length {α : Type} (n : Nat) : ∀ (fuel : Nat) (l : List α), ((pieces n fuel l).map List.length).sum ≤ l.length ∧ (pieces n fuel l).length ≤ ceilDiv l.length n ∨ n = 0 := by
  by_cases hn : n = 0
  · intro _ _; exact .inr hn
  · intro fuel
    induction fuel with
    | zero => intro l; left; simp [pieces]
    | succ f ih =>
      intro l
      left
      cases l with
      | nil => simp [pieces]
      | cons a l =>
        simp only [pieces, List.map_cons, List.sum_cons, List.length_cons]
        rcases ih ((a :: l).drop n) with ⟨h1, h2⟩ | h
        · rw [List.length_drop] at h1 h2
          simp only [List.length_take, List.length_cons] at h1 h2 ⊢
          refine ⟨by omega, ?_⟩
          unfold ceilDiv at h2 ⊢
          have : (l.length + 1 + n - 1) / n = (l.length + 1 - 1) / n + 1 := by
            rw [show l.length + 1 + n - 1 = (l.length + 1 - 1) + n by omega, Nat.add_div_right _ (by omega)]
          rw [this]
          have h0 : 0 ≤ (l.length + 1 - 1) / n := Nat.zero_le _
          have : (l.length + 1 - n + n - 1) / n ≤ (l.length + 1 - 1) / n ∨ l.length + 1 ≤ n := by
            by_cases hh : n ≤ l.length + 1
            · left; apply Nat.div_le_div_right; omega
            · right; omega
          rcases this with h | h
          · omega
          · rw [show l.length + 1 - n + n - 1 = n - 1 by omega, Nat.div_eq_of_lt (by omega)] at h2
            generalize (l.length + 1 - 1) / n = w at *
            omega
        · exact absurd h hn

theorem narrowList_length (f : Fmt) (sg fl : Bool) (rnd : Nat) : ∀ (xs : List XNum) (g : DWord), (narrowList f sg fl rnd g xs).1.length = xs.length := by
  intro xs
  induction xs with
  | nil => intro g; rfl
  | cons x xs ih =>
    intro g
    simp only [narrowList, List.length_cons, ih]

theorem scaleGroup_length (f : Fmt) (sg fl : Bool) (rnd : Nat) (g : DWord) (xs : List XNum) : (scaleGroup f sg fl rnd g xs).2.1.length = xs.length := by
  unfold scaleGroup
  split
  · simp only [narrowList_length, List.length_map]
  · simp

theorem scaleGroups_length (f : Fmt) (sg fl : Bool) (rnd : Nat) : ∀ (l : List (List XNum)) (g : DWord),
    (scaleGroups f sg fl rnd g l).1.length = l.length ∧ (scaleGroups f sg fl rnd g l).2.1.length = (l.map List.length).sum := by
  intro l
  induction l with
  | nil => intro g; exact ⟨rfl, rfl⟩
  | cons a l ih =>
    intro g
    unfold scaleGroups
    rcases h1 : scaleGroup f sg fl rnd g a with ⟨s, ys, g'⟩
    have e1 := scaleGroup_length f sg fl rnd g a; rw [h1] at e1
    simp only []
    rcases h2 : scaleGroups f sg fl rnd g' l with ⟨ss, zs, g''⟩
    have e2 := ih g'; rw [h2] at e2
    simp only [List.length_cons, List.map_cons, List.sum_cons, List.length_append] at e1 e2 ⊢
    omega

theorem narrowRow_length (f : Fmt) (cvt : Word) (g : DWord) (xs : List XNum) :
    (narrowRow f cvt g xs).codes.length ≤ xs.length ∧ (narrowRow f cvt g xs).scales.length ≤ ceilDiv xs.length 32 := by
  unfold narrowRow
  cases cvOscale cvt <;> simp only [Bool.false_eq_true, if_true, if_false, List.length_map, List.length_nil]
  · have e2 := narrowList_length f (cvOsign cvt) (cvFlush cvt) (cvRnd cvt) xs g
    omega
  · have e2 := scaleGroups_length f (cvOsign cvt) (cvFlush cvt) (cvRnd cvt) (pieces 32 xs.length xs) g
    rw [e2.1, e2.2]
    rcases pieces_flatten_length 32 xs.length xs with ⟨h1, h3⟩ | h
    · exact ⟨h1, h3⟩
    · omega

theorem packedBytes_mono (f : Fmt) {a b : Nat} (h : a ≤ b) : packedBytes f a ≤ packedBytes f b := by
  unfold packedBytes ceilDiv
  apply Nat.div_le_div_right
  have := Nat.mul_le_mul_right f.bits h
  omega

theorem ceilDiv_mono {a b : Nat} (n : Nat) (h : a ≤ b) : ceilDiv a n ≤ ceilDiv b n := by
  unfold ceilDiv; apply Nat.div_le_div_right; omega

theorem writeRow_form (x : Tile) (j : DrainJob) (codes scales : List Nat) (hc : codes.length ≤ j.cols) (hs : scales.length ≤ ceilDiv j.cols 32) :
    ∃ rg sc sb ch sk, x.writeRow j codes scales = { x with regs := rg, scratch := sc, scrBad := sb, churn := ch, skim := sk } ∧
    (∀ o, o ≠ Reg.ladleScrEcc → tabGet tileRegD rg o = x.reg o) ∧
    (∀ a, (∀ r ∈ j.spans, a < r.1 ∨ r.1 + r.2 ≤ a) → tabGet byteD sc a = tabGet byteD x.scratch a) := by
  unfold Tile.writeRow DrainJob.spans
  simp only []
  generalize Fmt.ofCode (cvOfmt j.cvt) = fo
  cases fo with
  | none =>
    simp only []
    obtain ⟨rg, sc, sb, ch, sk, e, h1, h2, -⟩ := wrBytes_form x (j.base + j.row * j.pitch + 8 * j.col0) (codes.flatMap (bytesOf 8))
    refine ⟨rg, sc, sb, ch, sk, e, h1, ?_⟩
    intro a ha
    apply h2
    rw [flatMap8_length]
    have := ha _ (List.mem_singleton.2 rfl)
    simp only at this; omega
  | some f =>
    simp only []
    obtain ⟨rg, sc, sb, ch, sk, e, h1, h2, -⟩ := wrBytes_form x (j.base + j.row * j.pitch + j.col0 * f.bits / 8) (bytesOf (packedBytes f codes.length) (packCodes f.bits (padCodes f (j.base + j.row * j.pitch + j.col0 * f.bits / 8) codes)))
    rw [bytesOf_length] at h2
    rw [e]
    have hm := packedBytes_mono f hc
    split
    · obtain ⟨rg', sc', sb', ch', sk', e', h1', h2', -⟩ := wrBytes_form ({ x with regs := rg, scratch := sc, scrBad := sb, churn := ch, skim := sk } : Tile) (j.oscBase + j.row * j.oscPitch + j.col0 / 32) (scales.map (BitVec.ofNat 8))
      refine ⟨rg', sc', sb', ch', sk', e', fun o ho => (h1' o ho).trans (h1 o ho), ?_⟩
      intro a ha
      have a1 := ha _ (List.mem_cons_self)
      have a2 := ha _ (List.mem_cons_of_mem _ (List.mem_singleton.2 rfl))
      simp only at a1 a2
      rw [h2' a (by rw [List.length_map]; omega)]
      exact h2 a (by omega)
    · refine ⟨rg, sc, sb, ch, sk, rfl, h1, ?_⟩
      intro a ha
      have a1 := ha _ (List.mem_cons_self)
      simp only at a1
      exact h2 a (by omega)

theorem find_modDrain_same (q : Nat) (f : DrainJob → DrainJob) (hf : ∀ j, (f j).quarter = j.quarter) (l : List DrainJob) (j : DrainJob)
    (h : l.find? (fun d => d.quarter == q) = some j) : (modDrain q f l).find? (fun d => d.quarter == q) = some (f j) := by
  induction l with
  | nil => cases h
  | cons a l ih =>
    unfold modDrain
    by_cases ha : a.quarter == q
    · simp only [ha, if_true, List.find?_cons, hf] at h ⊢; simp only [Option.some.injEq] at h ⊢; rw [h]
    · simp only [ha, List.find?_cons] at h; simp only [ha, Bool.false_eq_true, if_false, List.find?_cons]; exact ih h

theorem find_modDrain_ne (q q' : Nat) (hq : q' ≠ q) (f : DrainJob → DrainJob) (hf : ∀ j, (f j).quarter = j.quarter) (l : List DrainJob) :
    (modDrain q f l).find? (fun d => d.quarter == q') = l.find? (fun d => d.quarter == q') := by
  induction l with
  | nil => rfl
  | cons a l ih =>
    unfold modDrain
    by_cases ha : a.quarter == q
    · have : (a.quarter == q') = false := by simp only [beq_iff_eq] at ha; rw [ha]; simpa using fun h => hq h.symm
      simp [ha, List.find?_cons, hf, this]
    · by_cases hb : a.quarter == q'
      · simp [ha, List.find?_cons, hb]
      · simp [ha, List.find?_cons, hb, ih]

/-- What one row of one quarter leaves. -/
theorem drainPart_form (x : Tile) (j : DrainJob) (pre : List (XNum × List (Nat × Nat))) (h : x.drainHead j.quarter = some j) (hp : pre.length ≤ j.cols) :
    ∃ rg nw sc sb ch sk ge dr, x.drainPart j pre = { x with regs := rg, now := nw, scratch := sc, scrBad := sb, churn := ch, skim := sk, gens := ge, drains := dr } ∧
      dr = (if j.tCount ≤ j.row + 1 then dropFirst (fun d => d.quarter == j.quarter) x.drains else modDrain j.quarter (fun d => { d with row := d.row + 1 }) x.drains) ∧
      (∀ o, o ∉ Reg.ladleScrEcc :: rennetEventRegs → tabGet tileRegD rg o = x.reg o) ∧
      (∀ a, (∀ r ∈ j.spans, a < r.1 ∨ r.1 + r.2 ≤ a) → tabGet byteD sc a = tabGet byteD x.scratch a) ∧
      (∀ q', q' ≠ j.quarter → tabGet genD ge q' = x.gen q') ∧
      (cvOfmt j.cvt = 9 → x.scrBad = [] → ∀ c k, c < j.cols → k < 8 →
        (tabGet byteD sc (j.base + j.row * j.pitch + 8 * (j.col0 + c) + k)).toNat =
          (tabGet accD x.acc (accKey j.quarter j.set j.row c)).toNat / 256 ^ k % 256) := by
  have hstep : ∀ y : Tile, y.drains = x.drains → y.stepDrain j.quarter = { y with drains := (if j.tCount ≤ j.row + 1 then dropFirst (fun d => d.quarter == j.quarter) x.drains else modDrain j.quarter (fun d => { d with row := d.row + 1 }) x.drains) } := by
    intro y hy
    have h1 : y.drainHead j.quarter = some j := by unfold Tile.drainHead at h ⊢; rw [hy]; exact h
    unfold Tile.stepDrain
    rw [h1, hy]
    simp only []
    split <;> rfl
  unfold Tile.drainPart
  by_cases h9 : cvOfmt j.cvt = 9
  · simp only [h9, if_true]
    have hlen : (x.accRow j).length = j.cols := by simp [Tile.accRow]
    have hnone : Fmt.ofCode (cvOfmt j.cvt) = none := by rw [h9]; rfl
    obtain ⟨ge, hge, hge2⟩ : ∃ ge, (if cvRnd j.cvt = 1 then x.setGen j.quarter (foldN (fun _ g => xorshift g) (x.accRow j).length (x.gen j.quarter)) else x) = { x with gens := ge } ∧ ∀ q', q' ≠ j.quarter → tabGet genD ge q' = x.gen q' := by
      split
      · exact ⟨_, rfl, fun q' hq => tabGet_set_ne _ _ _ hq⟩
      · exact ⟨_, rfl, fun _ _ => rfl⟩
    rw [hge]
    obtain ⟨rg, sc, sb, ch, sk, e, h1, h2, h3⟩ := wrBytes_form ({ x with gens := ge } : Tile) (j.base + j.row * j.pitch + 8 * j.col0) (((x.accRow j).map (·.toNat)).flatMap (bytesOf 8))
    have hw : ({ x with gens := ge } : Tile).writeRow j ((x.accRow j).map (·.toNat)) [] = { x with gens := ge, regs := rg, scratch := sc, scrBad := sb, churn := ch, skim := sk } := by
      unfold Tile.writeRow; simp only [hnone]; exact e
    rw [hw, hstep ({ x with gens := ge, regs := rg, scratch := sc, scrBad := sb, churn := ch, skim := sk } : Tile) rfl]
    obtain ⟨r3, n3, e4, g3⟩ := rnEvents_form ({ x with gens := ge, regs := rg, scratch := sc, scrBad := sb, churn := ch, skim := sk, drains := (if j.tCount ≤ j.row + 1 then dropFirst (fun d => d.quarter == j.quarter) x.drains else modDrain j.quarter (fun d => { d with row := d.row + 1 }) x.drains) } : Tile)
      (Tile.cmdSeq { x with gens := ge } 0) [⟨3, j.quarter, 2, 4, ((x.accRow j).filter (fun w => !(acc56Num w).isFinite)).length⟩]
    refine ⟨r3, n3, sc, sb, ch, sk, ge, _, e4, rfl, ?_, ?_, hge2, ?_⟩
    · intro o ho
      simp only [List.mem_cons, not_or] at ho
      rw [g3 o ho.2]; exact h1 o ho.1
    · intro a ha
      unfold DrainJob.spans at ha
      rw [hnone] at ha
      have := ha _ (List.mem_singleton.2 rfl)
      simp only at this
      apply h2
      rw [flatMap8_length, List.length_map, hlen]; omega
    · intro _ hb c k hc hk
      obtain ⟨-, h4⟩ := h3 hb
      have := h4 (8 * c + k) (by rw [flatMap8_length, List.length_map, hlen]; omega)
      rw [show j.base + j.row * j.pitch + 8 * (j.col0 + c) + k = j.base + j.row * j.pitch + 8 * j.col0 + (8 * c + k) by omega, this,
        flatMap8_getD _ _ _ (by rw [List.length_map, hlen]; exact hc) hk]
      simp [Tile.accRow, hc]
  · simp only [h9, if_false]
    generalize hr : narrowRow (fmtOf (cvOfmt j.cvt)) j.cvt (x.gen j.quarter) (pre.map Prod.fst) = r
    have hl := narrowRow_length (fmtOf (cvOfmt j.cvt)) j.cvt (x.gen j.quarter) (pre.map Prod.fst)
    rw [hr, List.length_map] at hl
    obtain ⟨rg, sc, sb, ch, sk, e, h1, h2⟩ := writeRow_form (x.setGen j.quarter r.gen) j r.codes r.scales (by omega) (le_trans hl.2 (ceilDiv_mono 32 hp))
    rw [e, hstep ({ x.setGen j.quarter r.gen with regs := rg, scratch := sc, scrBad := sb, churn := ch, skim := sk } : Tile) rfl]
    obtain ⟨r3, n3, e4, g3⟩ := rnEvents_form ({ x.setGen j.quarter r.gen with regs := rg, scratch := sc, scrBad := sb, churn := ch, skim := sk, drains := (if j.tCount ≤ j.row + 1 then dropFirst (fun d => d.quarter == j.quarter) x.drains else modDrain j.quarter (fun d => { d with row := d.row + 1 }) x.drains) } : Tile)
      (Tile.cmdSeq { x.setGen j.quarter r.gen with regs := rg, scratch := sc, scrBad := sb, churn := ch, skim := sk, drains := (if j.tCount ≤ j.row + 1 then dropFirst (fun d => d.quarter == j.quarter) x.drains else modDrain j.quarter (fun d => { d with row := d.row + 1 }) x.drains) } 0) (rowEvts j.quarter 2 ((pre.map Prod.snd).flatten ++ atMoment 3 r.evts))
    refine ⟨r3, n3, sc, sb, ch, sk, _, _, e4, rfl, ?_, h2, ?_, fun h => h.elim⟩
    · intro o ho
      simp only [List.mem_cons, not_or] at ho
      rw [g3 o ho.2]; exact h1 o ho.1
    · intro q' hq; exact tabGet_set_ne _ _ _ hq

theorem rotRow_length (fl inv : Bool) (pat : BitVec 256) (n : Nat) (row : List XNum) : (rotRow fl inv pat n row).length ≤ row.length := by
  simp only [rotRow, List.length_zipWith, List.length_map]; omega

theorem rowAlone_length (x : Tile) (j : DrainJob) : (x.rowAlone j).length ≤ j.cols := by
  unfold Tile.rowAlone
  have h : (accVals (x.accRow j)).length = j.cols := by simp [accVals, Tile.accRow]
  simp only []
  split
  · rw [List.length_map, h]
  · exact h ▸ rotRow_length _ _ _ _ _

end Sys2Proof.Machine
end

