-- ==== Sys2Proof/Laws/Frame.lean ====
section
/-!
SUPPORT. Laws/Frame.lean: what logging and tracing leave unchanged (R315, R326 to R328).
-/

namespace Sys2Proof.Machine

theorem Pair.RecordsOnly.refl (x : Pair) : x.RecordsOnly x := ⟨rfl, fun _ _ => rfl⟩

theorem Pair.RecordsOnly.trans {x y z : Pair} (h : x.RecordsOnly y) (h' : y.RecordsOnly z) : x.RecordsOnly z := by
  refine ⟨?_, fun o ho => (h'.regs o ho).trans (h.regs o ho)⟩
  have := h.form
  have h2 := h'.form
  generalize z.regs = a at *
  generalize z.irqPend = b at *
  generalize z.irqCount = c at *
  rw [h2, this]

theorem Pair.RecordsOnly.setReg (x : Pair) (o : Nat) (w : Word) (h : recordOff o = true) : x.RecordsOnly (x.setReg o w) :=
  ⟨rfl, fun q hq => Pair.setReg_reg_ne _ _ (fun e => by rw [e, h] at hq; cases hq)⟩

theorem Pair.RecordsOnly.setWords (ws : List Word) : ∀ (x : Pair) (o : Nat),
    (∀ k, k < ws.length → recordOff (o + 4 * k) = true) → x.RecordsOnly (x.setWords o ws) := by
  induction ws with
  | nil => intro x o _; exact .refl x
  | cons w ws ih =>
    intro x o h
    refine (Pair.RecordsOnly.setReg x o w (by simpa using h 0 (by simp))).trans (ih _ _ ?_)
    intro k hk
    have := h (k + 1) (by simpa using hk)
    rw [show o + 4 + 4 * k = o + 4 * (k + 1) by omega]; exact this

theorem Pair.RecordsOnly.interrupt (x : Pair) (v : Nat) : x.RecordsOnly (x.interrupt v) := by
  unfold Pair.interrupt
  repeat' split
  · exact .refl x
  · exact ⟨rfl, fun _ _ => rfl⟩
  · exact ⟨rfl, fun _ _ => rfl⟩

theorem recordOff_evt (k j : Nat) (hk : k < 64) (hj : j < 16) : recordOff (Reg.mbEvtSlot + 64 * k + 4 * j) = true := by
  have h1 : Reg.mbEvtSlot ≤ Reg.mbEvtSlot + 64 * k + 4 * j := by omega
  have h2 : Reg.mbEvtSlot + 64 * k + 4 * j < Reg.mbEvtSlot + 0x1000 := by omega
  simp only [recordOff, h1, h2, decide_true, Bool.and_self, Bool.or_true, Bool.true_or]

theorem recordOff_log (k : Nat) : recordOff (Reg.mbLogRec + k) = true := by
  have h1 : Reg.mbLogRec ≤ Reg.mbLogRec + k := by omega
  simp only [recordOff, h1, decide_true, Bool.or_true]

theorem Pair.RecordsOnly.postEvent (x : Pair) (ws : List Word) (h : ws.length ≤ 16) : x.RecordsOnly (x.postEvent ws) := by
  unfold Pair.postEvent
  simp only []
  split
  · exact .setReg _ _ _ rfl
  · refine Pair.RecordsOnly.trans ?_ (.interrupt _ _)
    refine Pair.RecordsOnly.trans ?_ (.setReg _ _ _ rfl)
    refine .setWords _ _ _ ?_
    intro k hk
    exact recordOff_evt _ _ (Nat.mod_lt _ (by decide)) (by omega)

theorem Pair.RecordsOnly.logRecord (x : Pair) (pair time : Nat) (w : LogWin) (rep : Nat) :
    x.RecordsOnly (x.logRecord pair time w rep) := by
  unfold Pair.logRecord
  simp only []
  split
  · exact .refl x
  · have h1 : ∀ (n : Nat) (ws : List Word), x.RecordsOnly (x.setWords (Reg.mbLogRec + n) ws) := by
      intro n ws
      refine .setWords _ _ _ ?_
      intro k _
      rw [Nat.add_assoc]; exact recordOff_log _
    split
    · refine Pair.RecordsOnly.trans ((h1 _ _).trans (.setReg _ _ _ rfl)) (.postEvent _ _ ?_)
      simp only [List.length_append, List.length_cons, List.length_nil, List.length_replicate, args3]
      omega
    · exact (h1 _ _).trans (.setReg _ _ _ rfl)

theorem State.RecordsOnly.refl (s : State) : s.RecordsOnly s :=
  ⟨s.pairs, s.logWins, s.hostMem, s.console, s.freeCount, rfl, fun _ => .refl _⟩

theorem State.RecordsOnly.trans {s u v : State} (h : s.RecordsOnly u) (h' : u.RecordsOnly v) : s.RecordsOnly v := by
  obtain ⟨p, l, m, c, k, rfl, hp⟩ := h
  obtain ⟨p', l', m', c', k', rfl, hp'⟩ := h'
  exact ⟨p', l', m', c', k', rfl, fun q => (hp q).trans (hp' q)⟩

theorem State.RecordsOnly.setPair (s : State) (p : Nat) (x : Pair) (h : (s.pair p).RecordsOnly x) : s.RecordsOnly (s.setPair p x) := by
  refine ⟨_, s.logWins, s.hostMem, s.console, s.freeCount, rfl, fun q => ?_⟩
  by_cases hq : q = p
  · subst hq; rw [tabGet_set_same]; exact h
  · rw [tabGet_set_ne _ _ _ hq]; exact .refl _

theorem State.RecordsOnly.drawn (s : State) (k : Nat) : s.RecordsOnly { s with freeCount := k } :=
  ⟨s.pairs, s.logWins, s.hostMem, s.console, k, rfl, fun _ => .refl _⟩

theorem State.RecordsOnly.wins (s : State) (l : List LogWin) : s.RecordsOnly { s with logWins := l } :=
  ⟨s.pairs, l, s.hostMem, s.console, s.freeCount, rfl, fun _ => .refl _⟩

theorem State.RecordsOnly.host (s : State) (m : List Host.Cell) : s.RecordsOnly { s with hostMem := m } :=
  ⟨s.pairs, s.logWins, m, s.console, s.freeCount, rfl, fun _ => .refl _⟩

theorem State.RecordsOnly.foldl {α : Type} (f : State → α → State) (hf : ∀ (s : State) (a : α), s.RecordsOnly (f s a)) (l : List α) :
    ∀ s : State, s.RecordsOnly (l.foldl f s) := by
  induction l with
  | nil => intro s; exact .refl s
  | cons a l ih => intro s; exact (hf s a).trans (ih _)

theorem State.RecordsOnly.print (s : State) (l : ConsoleLine) : s.RecordsOnly (s.print l) := by
  unfold State.print
  split
  · exact ⟨s.pairs, s.logWins, s.hostMem, _, _, rfl, fun _ => .refl _⟩
  · exact ⟨s.pairs, s.logWins, s.hostMem, _, _, rfl, fun _ => .refl _⟩

theorem State.RecordsOnly.writeLog (s : State) (w : LogWin) (rep : Nat) : s.RecordsOnly (s.writeLog w rep) := by
  unfold State.writeLog
  refine State.RecordsOnly.trans ?_ (.foldl _ (fun s p => .setPair s p _ (.logRecord _ _ _ _ _)) _ _)
  split
  · exact .print _ _
  · exact .refl s

theorem State.RecordsOnly.logFlush (s : State) (code src part : Nat) : s.RecordsOnly (s.logFlush code src part) := by
  unfold State.logFlush
  repeat' split
  · exact .refl s
  · exact .refl s
  · exact .wins _ _
  · exact (State.RecordsOnly.writeLog s _ _).trans (.wins _ _)

theorem State.RecordsOnly.logTag (s : State) (code src sev part tag : Nat) (args : List Word) :
    s.RecordsOnly (s.logTag code src sev part tag args) := by
  unfold State.logTag
  simp only []
  split
  · exact .refl s
  · refine (State.RecordsOnly.logFlush s code src part).trans ?_
    repeat' split
    · exact .wins _ _
    · exact (State.RecordsOnly.writeLog _ _ _).trans (.wins _ _)
    · exact .refl _

theorem State.RecordsOnly.log (s : State) (code src sev part : Nat) (args : List Word) :
    s.RecordsOnly (s.log code src sev part args) := .logTag _ _ _ _ _ _ _

theorem State.RecordsOnly.logOpen (s : State) (code src part : Nat) : s.RecordsOnly (s.logOpen code src part) :=
  (State.RecordsOnly.drawn s _).trans (.log _ _ _ _ _ _)

theorem State.RecordsOnly.logSev (s : State) (code src sev part : Nat) : s.RecordsOnly (s.logSev code src sev part) :=
  (State.RecordsOnly.drawn s _).trans (.log _ _ _ _ _ _)

theorem State.RecordsOnly.traceTo (s : State) (pair point core : Nat) (args : List Nat) :
    s.RecordsOnly (s.traceTo pair point core args) := by
  unfold State.traceTo
  simp only []
  split
  · exact .refl s
  · exact (State.RecordsOnly.setPair s pair _ (.setReg _ _ _ rfl)).trans (.host _ _)

theorem State.RecordsOnly.trace (s : State) (point core : Nat) (args : List Nat) : s.RecordsOnly (s.trace point core args) :=
  .traceTo _ _ _ _ _

theorem State.RecordsOnly.tracePart (s : State) (point core n : Nat) (args : List Nat) :
    s.RecordsOnly (s.tracePart point core n args) := (State.RecordsOnly.traceTo s 0 _ _ _).trans (.traceTo _ _ _ _ _)

theorem State.RecordsOnly.faultTraced (s : State) (t : Nat) (f : State → State) : (f s).RecordsOnly (s.faultTraced t f) := by
  unfold State.faultTraced
  simp only []
  repeat' split
  · exact .tracePart _ _ _ _ _
  · exact .refl _
  · exact .refl _

/-! ### What stays -/

theorem State.RecordsOnly.tile {s u : State} (h : s.RecordsOnly u) (t : Nat) : u.tile t = s.tile t := by
  obtain ⟨p, l, m, c, k, rfl, -⟩ := h; rfl
theorem State.RecordsOnly.part {s u : State} (h : s.RecordsOnly u) (n : Nat) : u.part n = s.part n := by
  obtain ⟨p, l, m, c, k, rfl, -⟩ := h; rfl
theorem State.RecordsOnly.sys {s u : State} (h : s.RecordsOnly u) (n : Nat) : u.sys n = s.sys n := by
  obtain ⟨p, l, m, c, k, rfl, -⟩ := h; rfl
theorem State.RecordsOnly.port {s u : State} (h : s.RecordsOnly u) (n : Nat) : u.port n = s.port n := by
  obtain ⟨p, l, m, c, k, rfl, -⟩ := h; rfl
theorem State.RecordsOnly.reg {s u : State} (h : s.RecordsOnly u) (o : Nat) : u.reg o = s.reg o := by
  obtain ⟨p, l, m, c, k, rfl, -⟩ := h; rfl
theorem State.RecordsOnly.mem {s u : State} (h : s.RecordsOnly u) : u.mem = s.mem := by
  obtain ⟨p, l, m, c, k, rfl, -⟩ := h; rfl
theorem State.RecordsOnly.pair {s u : State} (h : s.RecordsOnly u) (p : Nat) : (s.pair p).RecordsOnly (u.pair p) := by
  obtain ⟨p', l, m, c, k, rfl, hp⟩ := h; exact hp p

end Sys2Proof.Machine
end

