-- ==== Sys2Proof/Laws/Mem.lean ====
section
/-!
SUPPORT. Laws/Mem.lean: what zeroing does to memory and to a run of tiles.
-/

namespace Sys2Proof.Machine

theorem foldl_range_tiles (f : Tile → Tile) (b : Nat) : ∀ (m : Nat) (s : State),
    ∃ ts, (List.range m).foldl (fun s i => s.modTile (b + i) f) s = { s with tiles := ts } ∧
      ∀ t, tabGet tileD ts t = if b ≤ t ∧ t < b + m then f (s.tile t) else s.tile t := by
  intro m s
  have hm : (List.range m).foldl (fun s i => s.modTile (b + i) f) s = ((List.range m).map (b + ·)).foldl (fun s t => s.modTile t f) s := by
    rw [List.foldl_map]
  have hn : ((List.range m).map (b + ·)).Nodup := List.Nodup.map (fun _ _ h => Nat.add_left_cancel h) List.nodup_range
  obtain ⟨ts, e, h1, h2⟩ := foldl_modTile f _ s hn
  refine ⟨ts, by rw [hm, e], fun t => ?_⟩
  split
  · rename_i h
    exact h2 t (List.mem_map.2 ⟨t - b, List.mem_range.2 (by omega), by omega⟩)
  · rename_i h
    apply h1 t
    intro hh
    obtain ⟨i, hi, e⟩ := List.mem_map.1 hh
    have := List.mem_range.1 hi
    omega

theorem tabGet_filter (m : List Host.Cell) (p : Nat → Bool) (a : Nat) :
    tabGet byteD (m.filter (fun x => p x.1)) a = if p a then tabGet byteD m a else 0 := by
  induction m with
  | nil => simp [tabGet, byteD]
  | cons x l ih =>
    rw [List.filter_cons]
    by_cases hx : a = x.1
    · subst hx
      cases h : p x.1 with
      | true => simp [tabGet]
      | false => simp only [Bool.false_eq_true, if_false]; rw [ih, h]; rfl
    · have e : tabGet byteD (x :: l) a = tabGet byteD l a := by show (if a = x.1 then _ else _) = _; rw [if_neg hx]
      rw [e]
      split
      · have : tabGet byteD (x :: l.filter (fun x => p x.1)) a = tabGet byteD (l.filter (fun x => p x.1)) a := by
          show (if a = x.1 then _ else _) = _; rw [if_neg hx]
        rw [this, ih]
      · exact ih

theorem memZero_get (m : List Host.Cell) (b n a : Nat) : tabGet byteD (memZero m b n) a = if b ≤ a ∧ a < b + n then 0 else tabGet byteD m a := by
  unfold memZero
  rw [tabGet_filter m (fun q => !(decide (b ≤ q) && decide (q < b + n)))]
  by_cases h : b ≤ a ∧ a < b + n
  · rw [if_pos h]; simp [h.1, h.2]
  · rw [if_neg h]
    have : (!(decide (b ≤ a) && decide (a < b + n))) = true := by
      simp only [Bool.not_eq_true', Bool.and_eq_false_iff, decide_eq_false_iff_not]; omega
    rw [this]; rfl

theorem zeroRegion_form (s : State) (k r : Nat) : ∃ ts, s.zeroRegion k r = { s with mem := memZero s.mem (regionBase k r) (2 ^ 26), tiles := ts } := by
  unfold State.zeroRegion
  obtain ⟨ts, e, -⟩ := foldl_range_tiles (fun t => { t with pailBad := t.pailBad.filter (fun p => p.1 / 2 ^ 17 != r) }) (64 * k) 64
    ({ s with mem := memZero s.mem (regionBase k r) (2 ^ 26) } : State)
  exact ⟨ts, e⟩

end Sys2Proof.Machine
end

