-- ==== Sys2Proof/Laws/Port.lean ====
section
/-!
SUPPORT. Laws/Port.lean: reading a field of a port's or a pair's register that has been set, and what stays through
records when a port changes.
-/

namespace Sys2Proof.Machine

theorem Port.setF_reg_same (p : Port) (o hi lo v : Nat) : (p.setF o hi lo v).reg o = setFld (p.reg o) hi lo v :=
  Port.setReg_reg_same _ _ _

theorem Port.setF_reg_ne (p : Port) {o q : Nat} (hi lo v : Nat) (h : q ≠ o) : (p.setF o hi lo v).reg q = p.reg q :=
  Port.setReg_reg_ne _ _ h

theorem Port.setF_f_same (p : Port) (o : Nat) {hi lo : Nat} (v : Nat) (h1 : lo ≤ hi) (h2 : hi < 32) :
    (p.setF o hi lo v).f o hi lo = v % 2 ^ (hi + 1 - lo) := by
  rw [Port.f, Port.setF_reg_same, fld_setFld_same _ _ h1 h2]

theorem Port.setF_f_ne (p : Port) {o q : Nat} (hi lo v hi' lo' : Nat) (h : q ≠ o) :
    (p.setF o hi lo v).f q hi' lo' = p.f q hi' lo' := by
  rw [Port.f, Port.setF_reg_ne _ _ _ _ h, Port.f]

theorem Port.setF_f_above (p : Port) (o : Nat) {hi lo hi' lo' : Nat} (v : Nat) (h1 : lo ≤ hi) (h2 : hi < 32)
    (h : hi < lo') : (p.setF o hi lo v).f o hi' lo' = p.f o hi' lo' := by
  rw [Port.f, Port.setF_reg_same, fld_setFld_above _ _ h1 h2 h, Port.f]

theorem Port.setF_f_below (p : Port) (o : Nat) {hi lo hi' lo' : Nat} (v : Nat) (h1 : lo ≤ hi) (h2 : hi < 32)
    (h : hi' < lo) : (p.setF o hi lo v).f o hi' lo' = p.f o hi' lo' := by
  rw [Port.f, Port.setF_reg_same, fld_setFld_below _ _ h1 h2 h, Port.f]

theorem Pair.setF_reg_same (p : Pair) (o hi lo v : Nat) : (p.setF o hi lo v).reg o = setFld (p.reg o) hi lo v :=
  Pair.setReg_reg_same _ _ _

theorem Pair.setF_reg_ne (p : Pair) {o q : Nat} (hi lo v : Nat) (h : q ≠ o) : (p.setF o hi lo v).reg q = p.reg q :=
  Pair.setReg_reg_ne _ _ h

theorem Pair.setF_f_same (p : Pair) (o : Nat) {hi lo : Nat} (v : Nat) (h1 : lo ≤ hi) (h2 : hi < 32) :
    (p.setF o hi lo v).f o hi lo = v % 2 ^ (hi + 1 - lo) := by
  rw [Pair.f, Pair.setF_reg_same, fld_setFld_same _ _ h1 h2]

theorem Pair.setF_f_ne (p : Pair) {o q : Nat} (hi lo v hi' lo' : Nat) (h : q ≠ o) :
    (p.setF o hi lo v).f q hi' lo' = p.f q hi' lo' := by
  rw [Pair.f, Pair.setF_reg_ne _ _ _ _ h, Pair.f]

theorem Pair.setF_f_above (p : Pair) (o : Nat) {hi lo hi' lo' : Nat} (v : Nat) (h1 : lo ≤ hi) (h2 : hi < 32)
    (h : hi < lo') : (p.setF o hi lo v).f o hi' lo' = p.f o hi' lo' := by
  rw [Pair.f, Pair.setF_reg_same, fld_setFld_above _ _ h1 h2 h, Pair.f]

theorem Pair.setF_f_below (p : Pair) (o : Nat) {hi lo hi' lo' : Nat} (v : Nat) (h1 : lo ≤ hi) (h2 : hi < 32)
    (h : hi' < lo) : (p.setF o hi lo v).f o hi' lo' = p.f o hi' lo' := by
  rw [Pair.f, Pair.setF_reg_same, fld_setFld_below _ _ h1 h2 h, Pair.f]

/-- What records wrote before a port changed, they wrote apart from that change. -/
theorem State.RecordsOnly.modPort {s u : State} (h : s.RecordsOnly u) (p : Nat) (f : Port → Port) :
    (s.modPort p f).RecordsOnly (u.modPort p f) := by
  obtain ⟨pr, l, m, con, k, rfl, hp⟩ := h
  exact ⟨pr, l, m, con, k, rfl, hp⟩

/-- The same for any chip register. -/
theorem State.RecordsOnly.setReg {s u : State} (h : s.RecordsOnly u) (o : Nat) (w : Word) :
    (s.setReg o w).RecordsOnly (u.setReg o w) := by
  obtain ⟨pr, l, m, con, k, rfl, hp⟩ := h
  exact ⟨pr, l, m, con, k, rfl, hp⟩

theorem State.RecordsOnly.setF {s u : State} (h : s.RecordsOnly u) (o hi lo v : Nat) :
    (s.setF o hi lo v).RecordsOnly (u.setF o hi lo v) := by
  unfold State.setF
  rw [h.reg]
  exact h.setReg _ _

theorem State.RecordsOnly.modTile {s u : State} (h : s.RecordsOnly u) (p : Nat) (f : Tile → Tile) :
    (s.modTile p f).RecordsOnly (u.modTile p f) := by
  obtain ⟨pr, l, m, con, k, rfl, hp⟩ := h
  exact ⟨pr, l, m, con, k, rfl, hp⟩

theorem State.RecordsOnly.modPart {s u : State} (h : s.RecordsOnly u) (p : Nat) (f : Part → Part) :
    (s.modPart p f).RecordsOnly (u.modPart p f) := by
  obtain ⟨pr, l, m, con, k, rfl, hp⟩ := h
  exact ⟨pr, l, m, con, k, rfl, hp⟩

theorem State.RecordsOnly.modSys {s u : State} (h : s.RecordsOnly u) (p : Nat) (f : PartSys → PartSys) :
    (s.modSys p f).RecordsOnly (u.modSys p f) := by
  obtain ⟨pr, l, m, con, k, rfl, hp⟩ := h
  exact ⟨pr, l, m, con, k, rfl, hp⟩

end Sys2Proof.Machine
end

