-- ==== Sys2Proof/Laws/Request.lean ====
section
/-!
SUPPORT. Laws/Request.lean: how a command of the mailbox runs: it acts once it is in order and its checks pass, and goes
on once it has started.
-/

namespace Sys2Proof.Machine

theorem lowestFailing_zero (l : List (Bool × Nat)) (h : ∀ c ∈ l, c.1 = false) : lowestFailing l = 0 := by
  have : (l.map (fun p => if p.1 then p.2 else 0)).filter (· != 0) = [] := by
    rw [List.filter_eq_nil_iff]
    intro x hx
    obtain ⟨c, hc, rfl⟩ := List.mem_map.mp hx
    simp [h c hc]
  unfold lowestFailing lowestCode
  rw [this]; rfl

theorem takenCmd_op {s : State} {p k op : Nat} {t : Taken} (h : s.takenCmd p k op = some t) : rqOp t.words = op := by
  unfold State.takenCmd at h
  split at h
  · cases h
  · split at h
    · cases h
    · split at h
      · rename_i hc
        cases h
        simp only [Bool.and_eq_true, decide_eq_true_eq] at hc
        exact hc.1.1
      · cases h

theorem State.InOrder.rejects_zero {s : State} {p k op col : Nat} {t : Taken} (h : s.InOrder p k op col t)
    {abs rel : List (Bool × Nat)} (ha : ∀ c ∈ abs, c.1 = false) (hr : ∀ c ∈ rel, c.1 = false) :
    s.rejects p t.words col abs rel = 0 := by
  unfold State.rejects
  refine lowestFailing_zero _ fun c hc => ?_
  simp only [List.mem_append, List.mem_cons, List.not_mem_nil, or_false] at hc
  obtain (((rfl | rfl) | hc) | hc) := hc
  · simpa using h.flags
  · exact h.may
  · exact ha c hc
  · split at hc
    · cases hc
    · obtain (rfl | hc) := List.mem_cons.mp hc
      · rw [takenCmd_op h.taken]
        obtain (h1 | h1 | h1) := h.active
        · simp [h1]
        · simp [Nat.not_le.mpr h1]
        · simp [h1]
      · exact hr c hc

theorem State.InOrder.acts {s : State} {p k op col : Nat} {t : Taken} (h : s.InOrder p k op col t)
    {abs rel : List Word → List (Bool × Nat)} (act : Taken → State) (ha : ∀ c ∈ abs t.words, c.1 = false)
    (hr : ∀ c ∈ rel t.words, c.1 = false) : s.command p k op col abs rel act = act t := by
  unfold State.command
  simp [h.taken, h.fresh, h.rejects_zero ha hr]

theorem State.Started.goes {s : State} {p k op stage : Nat} {t : Taken} (h : s.Started p k op stage t) (hs : stage ≠ 0)
    (col : Nat) (abs rel : List Word → List (Bool × Nat)) (act : Taken → State) :
    s.command p k op col abs rel act = act t := by
  unfold State.command
  rw [h.taken, ← h.at_] at *
  simp [hs, h.at_]

/-- The same for a pair, where its change does not read what records write. -/
theorem State.RecordsOnly.modPair {s u : State} (h : s.RecordsOnly u) (p : Nat) (f : Pair → Pair)
    (hf : ∀ x y : Pair, x.RecordsOnly y → (f x).RecordsOnly (f y)) : (s.modPair p f).RecordsOnly (u.modPair p f) := by
  have h0 := h
  obtain ⟨pr, l, m, con, k, rfl, hp⟩ := h
  refine ⟨_, l, m, con, k, rfl, fun q => ?_⟩
  by_cases hq : q = p
  · subst hq
    rw [tabGet_set_same, State.modPair, State.setPair_pair_same]
    exact hf _ _ (h0.pair q)
  · rw [tabGet_set_ne _ _ _ hq, State.modPair, State.setPair_pair_ne _ _ hq]
    exact h0.pair q

theorem modPair_eq (s : State) (p : Nat) (f : Pair → Pair) : s.modPair p f = s.setPair p (f (s.pair p)) := rfl

theorem sweep_none (s : State) (p : Nat) (h : ∀ t ∈ (s.pair p).taken, t.stage ≠ rejectedStage) : s.sweep p = s := by
  have h1 : s.sweepOne p = s := by
    unfold State.sweepOne
    split
    · rfl
    · rename_i t l e
      rw [if_neg (h t (by rw [e]; simp))]
  unfold State.sweep
  have : ∀ n, foldN (fun _ (s : State) => s.sweepOne p) n s = s := by
    intro n
    induction n with
    | zero => rfl
    | succ n ih => simp [foldN, ih, h1]
  exact this 8

theorem Pair.RecordsOnly.mkTaken {x y : Pair} (h : x.RecordsOnly y) (f : List Taken → List Taken) :
    ({ x with taken := f x.taken } : Pair).RecordsOnly { y with taken := f y.taken } := by
  have hf := h.form
  refine ⟨?_, h.regs⟩
  generalize y.regs = a at *
  generalize y.irqPend = b at *
  generalize y.irqCount = c at *
  rw [hf]

theorem Pair.setWords_reg_out (ws : List Word) : ∀ (x : Pair) (o q : Nat), q < o ∨ o + 4 * ws.length ≤ q → (x.setWords o ws).reg q = x.reg q := by
  induction ws with
  | nil => intro x o q _; rfl
  | cons w ws ih =>
    intro x o q h
    simp only [List.length_cons] at h
    show ((x.setReg o w).setWords (o + 4) ws).reg q = _
    rw [ih _ _ _ (by omega), Pair.setReg_reg_ne _ _ (by omega)]

theorem Pair.setWords_reg_in (ws : List Word) : ∀ (x : Pair) (o i : Nat), i < ws.length → (x.setWords o ws).reg (o + 4 * i) = ws.getD i 0 := by
  induction ws with
  | nil => intro x o i h; cases h
  | cons w ws ih =>
    intro x o i h
    show ((x.setReg o w).setWords (o + 4) ws).reg (o + 4 * i) = _
    cases i with
    | zero =>
      rw [Pair.setWords_reg_out _ _ _ _ (by omega)]
      simp
    | succ i =>
      have := ih (x.setReg o w) (o + 4) i (by simpa using h)
      rw [show o + 4 * (i + 1) = o + 4 + 4 * i by omega, this]
      rfl

theorem Pair.setWords_form (ws : List Word) : ∀ (x : Pair) (o : Nat), ∃ rg, x.setWords o ws = { x with regs := rg } := by
  induction ws with
  | nil => intro x o; exact ⟨_, rfl⟩
  | cons w ws ih => intro x o; obtain ⟨rg, e⟩ := ih (x.setReg o w) (o + 4); exact ⟨rg, e⟩

theorem Pair.interrupt_form (x : Pair) (v : Nat) : ∃ a b, x.interrupt v = { x with irqPend := a, irqCount := b } := by
  unfold Pair.interrupt
  repeat' split
  · exact ⟨_, _, rfl⟩
  · exact ⟨_, _, rfl⟩
  · exact ⟨_, _, rfl⟩

theorem postResponse_facts (x : Pair) (req : List Word) (code : Nat) (res : List Word) (o : Nat)
    (ho : o = Reg.mbRspSlot + 64 * ((x.reg Reg.mbRspTail).toNat % 256)) :
    (∃ rg a b, x.postResponse req code res = { x with regs := rg, irqPend := a, irqCount := b }) ∧
    (x.postResponse req code res).reg o = req.getD 0 0 ∧ (x.postResponse req code res).reg (o + 4) = BitVec.ofNat 32 code ∧
    (∀ i, i < 14 → (x.postResponse req code res).reg (o + 8 + 4 * i) = res.getD i 0) ∧
    (x.postResponse req code res).reg Reg.mbRspTail = x.reg Reg.mbRspTail + 1 ∧
    ∀ q, q ≠ Reg.mbRspTail → (q < o ∨ o + 64 ≤ q) → (x.postResponse req code res).reg q = x.reg q := by
  obtain ⟨ws, hws⟩ : ∃ ws, [req.getD 0 0, BitVec.ofNat 32 code] ++ (List.range 14).map (fun i => res.getD i 0) = ws := ⟨_, rfl⟩
  have hl : ws.length = 16 := by rw [← hws]; simp
  have ht : Reg.mbRspTail < o := by
    rw [ho]; exact Nat.lt_of_lt_of_le (by decide : Reg.mbRspTail < Reg.mbRspSlot) (Nat.le_add_right _ _)
  obtain ⟨y, hy⟩ : ∃ y, (x.setWords o ws).setReg Reg.mbRspTail (BitVec.ofNat 32 ((x.reg Reg.mbRspTail).toNat + 1)) = y := ⟨_, rfl⟩
  have hp : x.postResponse req code res = y.interrupt 0 := by
    rw [← hy, ← hws, ho]; rfl
  have fy : ∃ rg, y = { x with regs := rg } := by
    obtain ⟨rg, e⟩ := Pair.setWords_form ws x o
    rw [← hy, e]; exact ⟨_, rfl⟩
  have r1 : ∀ q, q ≠ Reg.mbRspTail → (q < o ∨ o + 64 ≤ q) → y.reg q = x.reg q := by
    intro q h1 h2
    rw [← hy, Pair.setReg_reg_ne _ _ h1, Pair.setWords_reg_out _ _ _ _ (by rw [hl]; omega)]
  have r2 : ∀ i, i < 16 → y.reg (o + 4 * i) = ws.getD i 0 := by
    intro i hi
    rw [← hy, Pair.setReg_reg_ne _ _ (by omega), Pair.setWords_reg_in _ _ _ _ (by omega)]
  have r3 : y.reg Reg.mbRspTail = x.reg Reg.mbRspTail + 1 := by
    rw [← hy, Pair.setReg_reg_same]
    apply BitVec.eq_of_toNat_eq
    simp [BitVec.toNat_add]
  obtain ⟨a, b, e⟩ := Pair.interrupt_form y 0
  have rr : ∀ q, (x.postResponse req code res).reg q = y.reg q := by
    intro q; rw [hp, e]; rfl
  obtain ⟨rg, hf⟩ := fy
  refine ⟨⟨rg, a, b, by rw [hp, e, hf]⟩, ?_, ?_, ?_, ?_, ?_⟩
  · have := r2 0 (by omega); rw [rr]; rw [← hws] at this; simpa using this
  · have := r2 1 (by omega); rw [rr]; rw [← hws] at this; simpa using this
  · intro i hi
    have := r2 (i + 2) (by omega)
    rw [rr, show o + 8 + 4 * i = o + 4 * (i + 2) by omega, this, ← hws]
    simp [List.getD, hi]
  · rw [rr, r3]
  · intro q h1 h2; rw [rr, r1 q h1 h2]

theorem listDrop1_mem {α : Type} : ∀ (l : List α) (k : Nat) (c : α), c ∈ listDrop1 l k → c ∈ l := by
  intro l
  induction l with
  | nil => intro k c h; cases k <;> exact h
  | cons a l ih =>
    intro k c h
    cases k with
    | zero => exact List.mem_cons_of_mem _ h
    | succ k =>
      rcases List.mem_cons.mp h with h | h
      · rw [h]; simp
      · exact List.mem_cons_of_mem _ (ih k c h)

theorem takenCmd_get {s : State} {p k op : Nat} {t : Taken} (h : s.takenCmd p k op = some t) : (s.pair p).taken[k]? = some t := by
  unfold State.takenCmd at h
  split at h
  · cases h
  · split at h
    · cases h
    · rename_i e
      split at h
      · cases h; exact e
      · cases h

theorem mbFinish_posts {s : State} {p k : Nat} {t : Taken} {x : Pair} (hx : x = s.pair p) (ht : x.taken[k]? = some t)
    (hr : ∀ c ∈ x.taken, c.stage ≠ rejectedStage) (hw : x.rspWait = []) (hf : x.rspFull = false)
    (hn : s.power.faultN = false) (code : Nat) (res : List Word) :
    (s.setPair p (({ x with taken := listDrop1 x.taken k } : Pair).postResponse t.words code res)).RecordsOnly (s.mbFinish p k code res) := by
  obtain ⟨y, hy⟩ : ∃ y : Pair, y = { x with taken := listDrop1 x.taken k } := ⟨_, rfl⟩
  obtain ⟨z, hz⟩ : ∃ z, z = y.postResponse t.words code res := ⟨_, rfl⟩
  have hzt : z.taken = listDrop1 x.taken k := by
    obtain ⟨⟨rg, a, b, e⟩, -⟩ := postResponse_facts y t.words code res _ rfl
    rw [hz, e, hy]
  have h1 : (s.setPair p z).RecordsOnly ((s.modPair p (fun x => { x with taken := listDrop1 x.taken k })).mbRespond p t.words code res) := by
    rw [modPair_eq, ← hx, ← hy]
    have c : ((s.setPair p y).pair p).rspFull = false ∧ (((s.setPair p y).pair p).rspWait.isEmpty) = true := by
      rw [State.setPair_pair_same]
      have h1 : y.rspFull = x.rspFull := by rw [hy]; rfl
      have h2 : y.rspWait = x.rspWait := by rw [hy]
      rw [h1, h2, hf, hw]; exact ⟨rfl, rfl⟩
    have hn' : (s.setPair p y).power.faultN = false := hn
    have e : (s.setPair p y).modPair p (fun x => x.postResponse t.words code res) = s.setPair p z := by
      rw [modPair_eq, State.setPair_pair_same, State.setPair_setPair, hz]
    unfold State.mbRespond
    rw [hn', c.1, c.2]
    simp only [Bool.false_eq_true, if_false, Bool.not_true, Bool.or_false, State.postRsp]
    rw [e]
    split
    · exact .trace _ _ _ _
    · exact .tracePart _ _ _ _ _
  rw [← hy, ← hz]
  unfold State.mbFinish
  rw [← hx, ht]
  simp only []
  rw [sweep_none]
  · exact h1
  · intro c hc
    have hq := (h1.pair p).form
    rw [State.setPair_pair_same] at hq
    rw [hq] at hc
    replace hc : c ∈ z.taken := hc
    rw [hzt] at hc
    refine hr c ?_
    exact listDrop1_mem _ _ _ hc

theorem foldl_modPair (f : Pair → Pair) : ∀ (l : List Nat) (s : State), l.Nodup →
    ∃ prs, l.foldl (fun s p => s.modPair p f) s = { s with pairs := prs } ∧
      ∀ p, tabGet pairD prs p = if p ∈ l then f (s.pair p) else s.pair p := by
  intro l
  induction l with
  | nil => intro s _; exact ⟨s.pairs, rfl, fun p => by simp; rfl⟩
  | cons a l ih =>
    intro s hn
    rw [List.nodup_cons] at hn
    obtain ⟨prs, e, h⟩ := ih (s.modPair a f) hn.2
    refine ⟨prs, e, fun p => ?_⟩
    rw [h p]
    by_cases hp : p = a
    · subst hp; simp [hn.1]
    · rw [State.modPair_pair_ne _ _ hp]; simp [hp]

theorem eachPair_facts (s : State) (f : Pair → Pair) : ∃ prs, s.eachPair f = { s with pairs := prs } ∧
    ∀ p, tabGet pairD prs p = if p < 17 then f (s.pair p) else s.pair p := by
  obtain ⟨prs, e, h⟩ := foldl_modPair f (List.range 17) s List.nodup_range
  exact ⟨prs, e, fun p => by rw [h p]; simp⟩

theorem RecordsOnly.taken {s u : State} (h : s.RecordsOnly u) (q : Nat) : (u.pair q).taken = (s.pair q).taken := by
  have h := (h.pair q).form
  rw [h]

theorem RecordsOnly.pf {s u : State} (h : s.RecordsOnly u) (q o hi lo : Nat) (ho : recordOff o = false) : (u.pair q).f o hi lo = (s.pair q).f o hi lo := by
  unfold Pair.f; rw [(h.pair q).regs o ho]

/-- What aborting keeps. -/
structure AbKeep (s u : State) : Prop where
  fw : u.fw = s.fw
  parts : u.parts = s.parts
  mem : u.mem = s.mem
  chip : u.chip = s.chip

theorem AbKeep.refl (s : State) : AbKeep s s := ⟨rfl, rfl, rfl, rfl⟩

theorem AbKeep.trans {s u v : State} (h : AbKeep s u) (h' : AbKeep u v) : AbKeep s v :=
  ⟨h'.fw.trans h.fw, h'.parts.trans h.parts, h'.mem.trans h.mem, h'.chip.trans h.chip⟩

theorem AbKeep.ofRec {s u : State} (h : s.RecordsOnly u) : AbKeep s u := by
  obtain ⟨p, l, m, con, k, rfl, -⟩ := h; exact ⟨rfl, rfl, rfl, rfl⟩

theorem AbKeep.modPair (s : State) (p : Nat) (f : Pair → Pair) : AbKeep s (s.modPair p f) := ⟨rfl, rfl, rfl, rfl⟩

theorem AbKeep.modTile (s : State) (p : Nat) (f : Tile → Tile) : AbKeep s (s.modTile p f) := ⟨rfl, rfl, rfl, rfl⟩

theorem AbKeep.foldl {α : Type} (f : State → α → State) (hf : ∀ s a, AbKeep s (f s a)) (l : List α) : ∀ s, AbKeep s (l.foldl f s) := by
  induction l with
  | nil => intro s; exact .refl s
  | cons a l ih => intro s; exact (hf s a).trans (ih _)

theorem undo_keep (s : State) (p : Nat) (t : Taken) : AbKeep s (s.undo p t) ∧ (s.undo p t).pairs = s.pairs := by
  have rs : ∀ (aux : List Nat) (s : State), AbKeep s (s.restoreStops aux) ∧ (s.restoreStops aux).pairs = s.pairs := by
    intro aux
    unfold State.restoreStops
    induction aux with
    | nil => intro s; exact ⟨.refl s, rfl⟩
    | cons a l ih =>
      intro s
      obtain ⟨h1, h2⟩ := ih (s.modTile (a / 16) (·.setStops (a % 16)))
      exact ⟨(AbKeep.modTile s _ _).trans h1, h2⟩
  unfold State.undo
  repeat' split
  · exact ⟨.refl _, rfl⟩
  · obtain ⟨h1, h2⟩ := rs t.aux s
    exact ⟨h1.trans ⟨rfl, rfl, rfl, rfl⟩, h2⟩
  · exact rs _ _
  · exact ⟨⟨rfl, rfl, rfl, rfl⟩, rfl⟩
  · exact ⟨⟨rfl, rfl, rfl, rfl⟩, rfl⟩
  · exact ⟨.refl _, rfl⟩

theorem post_taken (x : Pair) (w : List Word) (code : Nat) (res : List Word) : (x.postResponse w code res).taken = x.taken := by
  obtain ⟨⟨rg, a, b, e⟩, -⟩ := postResponse_facts x w code res _ rfl
  rw [e]

theorem wait_taken (x : Pair) (l : List (List Word)) : ({ x with rspWait := l } : Pair).taken = x.taken := rfl

theorem modPair_keep (s : State) (p : Nat) (f : Pair → Pair) (h : ∀ x, (f x).taken = x.taken) :
    AbKeep s (s.modPair p f) ∧ ∀ q, ((s.modPair p f).pair q).taken = (s.pair q).taken := by
  refine ⟨AbKeep.modPair s p f, fun q => ?_⟩
  by_cases hq : q = p
  · subst hq; rw [State.modPair_pair_same, h]
  · rw [State.modPair_pair_ne _ _ hq]

theorem postRsp_keep (s : State) (p : Nat) (w : List Word) (code : Nat) (res : List Word) :
    AbKeep s (s.postRsp p w code res) ∧ (∀ q, ((s.postRsp p w code res).pair q).taken = (s.pair q).taken) := by
  unfold State.postRsp
  simp only []
  have h1 := modPair_keep s p (fun x => x.postResponse w code res) (fun x => post_taken x w code res)
  split
  · refine ⟨h1.1.trans (.ofRec (.trace _ _ _ _)), fun q => ?_⟩
    rw [RecordsOnly.taken (.trace _ _ _ _) q, h1.2 q]
  · refine ⟨h1.1.trans (.ofRec (.tracePart _ _ _ _ _)), fun q => ?_⟩
    rw [RecordsOnly.taken (.tracePart _ _ _ _ _) q, h1.2 q]

theorem mbRespond_keep (s : State) (p : Nat) (w : List Word) (code : Nat) (res : List Word) :
    AbKeep s (s.mbRespond p w code res) ∧ (∀ q, ((s.mbRespond p w code res).pair q).taken = (s.pair q).taken) := by
  unfold State.mbRespond
  repeat' split
  · exact ⟨.refl s, fun _ => rfl⟩
  · exact modPair_keep s p _ (fun x => wait_taken x _)
  · exact postRsp_keep s p w code res

theorem abortPair_keep (s : State) (p : Nat) (keep : Bool) : AbKeep s (s.abortPair p keep) ∧
    ∀ q, ((s.abortPair p keep).pair q).taken = if q = p then (s.pair p).taken.filter (fun t => keep && rqOp t.words == 0x204) else (s.pair q).taken := by
  have fold : ∀ (l : List Taken) (s : State), AbKeep s (l.foldl (fun s t => (s.undo p t).mbRespond p t.words 0x107 []) s) ∧
      ∀ q, ((l.foldl (fun s t => (s.undo p t).mbRespond p t.words 0x107 []) s).pair q).taken = (s.pair q).taken := by
    intro l
    induction l with
    | nil => intro s; exact ⟨.refl s, fun _ => rfl⟩
    | cons t l ih =>
      intro s
      obtain ⟨h1, h2⟩ := undo_keep s p t
      obtain ⟨h3, h4⟩ := mbRespond_keep (s.undo p t) p t.words 0x107 []
      obtain ⟨h5, h6⟩ := ih ((s.undo p t).mbRespond p t.words 0x107 [])
      refine ⟨(h1.trans h3).trans h5, fun q => ?_⟩
      rw [List.foldl_cons, h6 q, h4 q]
      unfold State.pair; rw [h2]
  unfold State.abortPair
  simp only []
  obtain ⟨h1, h2⟩ := fold ((s.pair p).taken.filter (fun t => !(keep && rqOp t.words == 0x204)))
    (s.modPair p (fun x => { x with taken := (s.pair p).taken.filter (fun t => keep && rqOp t.words == 0x204) }))
  refine ⟨(AbKeep.modPair s p _).trans h1, fun q => ?_⟩
  rw [h2 q]
  by_cases hq : q = p
  · subst hq; rw [State.modPair_pair_same, if_pos rfl]
  · rw [State.modPair_pair_ne _ _ hq, if_neg hq]

theorem serviceStops_facts (s : State) : (s.serviceStops).fw = { s.fw with down := true, sets := List.replicate 4 none } ∧ (∀ p, p < 17 → (s.serviceStops.pair p).f Reg.mbStatus 1 1 = 0) ∧
      (∀ n, n < 16 → (s.serviceStops.pair (n + 1)).taken = (s.pair (n + 1)).taken.filter (fun t => rqOp t.words == 0x204)) ∧
      s.serviceStops.parts = s.parts ∧ s.serviceStops.mem = s.mem ∧ s.serviceStops.chip = s.chip := by
  have fold : ∀ (l : List Nat) (s : State), l.Nodup → AbKeep s (l.foldl (fun s n => s.abortPair (n + 1) true) s) ∧
      ∀ q, ((l.foldl (fun s n => s.abortPair (n + 1) true) s).pair q).taken =
        if q ≠ 0 ∧ q - 1 ∈ l then (s.pair q).taken.filter (fun t => rqOp t.words == 0x204) else (s.pair q).taken := by
    intro l
    induction l with
    | nil => intro s _; exact ⟨.refl s, fun _ => by simp⟩
    | cons n l ih =>
      intro s hn
      rw [List.nodup_cons] at hn
      obtain ⟨h1, h2⟩ := abortPair_keep s (n + 1) true
      obtain ⟨h3, h4⟩ := ih (s.abortPair (n + 1) true) hn.2
      refine ⟨h1.trans h3, fun q => ?_⟩
      rw [List.foldl_cons, h4 q, h2 q]
      by_cases hq : q = n + 1
      · subst hq; simp [hn.1]
      · have : q ≠ 0 → q - 1 ≠ n := by omega
        by_cases h0 : q = 0
        · simp [h0]
        · simp [h0, hq, this h0]
  obtain ⟨s0, hs0⟩ : ∃ s0, ({ s with fw := { s.fw with down := true, sets := List.replicate 4 none } } : State) = s0 := ⟨_, rfl⟩
  obtain ⟨h1, h2⟩ := fold (List.range 16) s0 List.nodup_range
  obtain ⟨s1, hs1⟩ : ∃ s1, (List.range 16).foldl (fun s n => s.abortPair (n + 1) true) s0 = s1 := ⟨_, rfl⟩
  rw [hs1] at h1 h2
  obtain ⟨prs, e, hp⟩ := eachPair_facts s1 (fun p => p.setF Reg.mbStatus 1 1 0)
  have key : s.serviceStops = { s1 with pairs := prs } := by
    unfold State.serviceStops
    simp only []
    rw [hs0, hs1, e]
  have hp0 : ∀ q, s0.pair q = s.pair q := fun q => by rw [← hs0]; rfl
  rw [key]
  refine ⟨h1.fw.trans (by rw [← hs0]), ?_, ?_, h1.parts.trans (by rw [← hs0]), h1.mem.trans (by rw [← hs0]),
    h1.chip.trans (by rw [← hs0])⟩
  · intro p hpp
    show (tabGet pairD prs p).f _ _ _ = 0
    rw [hp p, if_pos hpp, Pair.setF_f_same _ _ _ (by decide) (by decide)]; rfl
  · intro n hn
    show (tabGet pairD prs (n + 1)).taken = _
    rw [hp, if_pos (by omega)]
    show (s1.pair (n + 1)).taken = _
    rw [h2, hp0]; simp [hn]

theorem stopTiles_facts (s : State) (ts : List Nat) (hn : ts.Nodup) (mask : Nat) :
    ∃ tl, (s.stopTiles ts mask).1 = { s with tiles := tl } ∧
      ∀ t, tabGet tileD tl t = if t ∈ ts then (s.tile t).setStops ((s.tile t).f Reg.ladleQctl 3 0 ||| mask) else s.tile t := by
  obtain ⟨tl, e, h1, h2⟩ := foldl_modTile (fun x => x.setStops (x.f Reg.ladleQctl 3 0 ||| mask)) ts s hn
  refine ⟨tl, e, fun t => ?_⟩
  split
  · rename_i h; exact h2 t h
  · rename_i h; exact h1 t h

theorem alertSync_facts (s : State) : (∀ o, o ≠ Reg.mbAlert → s.alertSync.reg o = s.reg o) ∧
    s.alertSync = { s with chip := s.alertSync.chip, mgmt := s.alertSync.mgmt } := by
  unfold State.alertSync
  simp only []
  repeat' split
  · exact ⟨fun _ _ => rfl, rfl⟩
  · exact ⟨fun o ho => State.setReg_reg_ne _ _ ho, rfl⟩
  · exact ⟨fun o ho => State.setReg_reg_ne _ _ ho, rfl⟩

theorem lowest_one (l r : List (Bool × Nat)) (c : Nat) (hc : c ≠ 0) (hl : ∀ x ∈ l, x.1 = false) (hr : ∀ x ∈ r, x.1 = false) :
    lowestFailing (l ++ (true, c) :: r) = c := by
  have h0 : ∀ (l : List (Bool × Nat)), (∀ x ∈ l, x.1 = false) → (l.map (fun p => if p.1 then p.2 else 0)).filter (· != 0) = [] := by
    intro l h
    rw [List.filter_eq_nil_iff]
    intro x hx
    obtain ⟨c, hc, rfl⟩ := List.mem_map.mp hx
    simp [h c hc]
  unfold lowestFailing lowestCode
  rw [List.map_append, List.filter_append, h0 l hl, List.map_cons]
  simp [hc, h0 r hr]

theorem all1 {w : List Word} {f : List Word → List (Bool × Nat)} (h : ((f w).all (fun c => !c.1)) = true) : ∀ c ∈ f w, c.1 = false := by
  intro c hc
  have := List.all_eq_true.mp h c hc
  simpa using this

/-- One check of the second list fails. -/
theorem rejects_one {s : State} {p k op col : Nat} {t : Taken} (h : s.InOrder p k op col t) (hp : wrongPair p col = false)
    {abs rel : List Word → List (Bool × Nat)} (act : Taken → State) (c : Nat) (hc : c ≠ 0) (ha : ∀ x ∈ abs t.words, x.1 = false)
    (hr : rel t.words = [(true, c)]) : s.command p k op col abs rel act = s.mbFinish p k c [] := by
  have e : s.rejects p t.words col (abs t.words) (rel t.words) = c := by
    unfold State.rejects
    rw [hp, hr]
    simp only [Bool.false_eq_true, if_false]
    rw [List.append_cons _ _ [(true, c)]]
    have h1 := h.active
    rw [← takenCmd_op h.taken] at h1
    refine lowest_one _ [] c hc ?_ (by simp)
    intro x hx
    simp only [List.mem_append, List.mem_cons, List.not_mem_nil, or_false] at hx
    rcases hx with ((rfl | rfl) | hx) | rfl
    · simpa using h.flags
    · exact h.may
    · exact ha x hx
    · rcases h1 with h1 | h1 | h1
      · simp [h1]
      · simp [Nat.not_le.mpr h1]
      · simp [h1]
  unfold State.command
  simp only [h.taken, h.fresh, e]
  simp [hc]

theorem InOrder.wrong {s : State} {p k op col : Nat} {t : Taken} (h : s.InOrder p k op col t) : wrongPair p col = false := by
  have := h.may
  unfold State.denied at this
  simp only [Bool.or_eq_false_iff] at this
  exact this.1

/-- What tabMap holds at a key: a listed value's image, or the default. -/
theorem tabGet_map {α : Type} [DecidableEq α] (d : Nat → α) (f : α → α) (m : Tab α) (k : Nat) :
    (∃ v, tabGet d (tabMap d f m) k = f v) ∨ tabGet d (tabMap d f m) k = d k := by
  have : ∀ (m acc : Tab α), ((∃ v, tabGet d acc k = f v) ∨ tabGet d acc k = d k) →
      (∃ v, tabGet d (m.foldl (fun acc p => tabSet d acc p.1 (f p.2)) acc) k = f v) ∨
        tabGet d (m.foldl (fun acc p => tabSet d acc p.1 (f p.2)) acc) k = d k := by
    intro m
    induction m with
    | nil => intro acc h; exact h
    | cons p m ih =>
      intro acc h
      refine ih _ ?_
      by_cases hk : k = p.1
      · rw [hk, tabGet_set_same]; exact .inl ⟨_, rfl⟩
      · rw [tabGet_set_ne _ _ _ hk]; exact h
  exact this m [] (.inr rfl)

theorem deviceClear_facts (s : State) (r : Bool) : ∃ ch md fw pw con, s.deviceClear r = { s with
    tiles := tabMap tileD Tile.cleared s.tiles, parts := [], partSys := [], pairs := [], chip := ch, chipLatch := []
    logWins := [], signals := [], zeroing := [], ingressQ := [], readQ := [], mesh := [], ports := [], arrivals := [], tags := [], tagQ := []
    pool := [], meshStop := 0, recent := [], syncRun := 0, cap := .reset, fw := fw, mgmt := md, power := pw
    console := con } ∧
    tabGet chipRegD ch Reg.capAonCause = s.reg Reg.capAonCause ∧ (fw.kept = if r = true then s.fw.kept else []) ∧ pw.meshOn = false := by
  refine ⟨_, _, _, _, _, rfl, ?_, rfl, rfl⟩
  have : Reg.capAonCause ≠ Reg.clkStatus := by decide
  rw [tabGet_set_ne _ _ _ this]
  unfold State.reg
  have key : ∀ l : Tab Word, tabGet chipRegD (l.filter (fun p => alwaysOn p.1 || (r && railsUpKeep p.1))) Reg.capAonCause = tabGet chipRegD l Reg.capAonCause := by
    intro l
    induction l with
    | nil => rfl
    | cons a l ih =>
      obtain ⟨k, v⟩ := a
      by_cases hk : k = Reg.capAonCause
      · subst hk
        have : (alwaysOn Reg.capAonCause || (r && railsUpKeep Reg.capAonCause)) = true := by
          have : alwaysOn Reg.capAonCause = true := by decide
          rw [this]; rfl
        rw [List.filter_cons_of_pos (by exact this)]
        simp [tabGet]
      · by_cases hf : (alwaysOn k || (r && railsUpKeep k)) = true
        · rw [List.filter_cons_of_pos (by exact hf)]
          simp only [tabGet, Ne.symm hk, if_false]; exact ih
        · rw [List.filter_cons_of_neg (by exact hf)]
          simp only [tabGet, Ne.symm hk, if_false]; exact ih
  exact key _

theorem flag01 (w : List Word) (i : Nat) (h : rqExpert w = true → par w i ≤ 1) :
    ∀ x ∈ [bad (rqExpert w && decide (1 < par w i)) 0x101], x.1 = false := by
  intro x hx
  rw [List.mem_singleton] at hx
  subst hx
  cases he : rqExpert w
  · rfl
  · simp [bad, h he]

end Sys2Proof.Machine
end

