-- ==== Sys2Proof/Laws/Rail.lean ====
section
/-!
SUPPORT. Laws/Rail.lean: the rails' registers, and what a hold of the device leaves.
-/

namespace Sys2Proof.Machine

theorem aonCause_facts (s : State) (code rail : Nat) : (∃ ch, s.aonCause code rail = { s with chip := ch }) ∧
    (s.aonCause code rail).reg Reg.capAonCause = (if s.f Reg.capAonCause 31 31 = 1 then s.reg Reg.capAonCause
      else BitVec.ofNat 32 (code + 2 ^ 16 * rail + 2 ^ 31)) ∧ (∀ o, o ≠ Reg.capAonCause → (s.aonCause code rail).reg o = s.reg o) := by
  unfold State.aonCause
  split
  · exact ⟨⟨s.chip, rfl⟩, rfl, fun _ _ => rfl⟩
  · exact ⟨⟨_, rfl⟩, State.setReg_reg_same _ _ _, fun o ho => State.setReg_reg_ne _ _ ho⟩

theorem holdDevice_facts (s : State) : ∃ ch md fw pw con, s.holdDevice = { s with
    tiles := tabMap tileD Tile.cleared s.tiles, parts := [], partSys := [], pairs := [], chip := ch, chipLatch := []
    logWins := [], signals := [], zeroing := [], ingressQ := [], readQ := [], mesh := [], ports := [], arrivals := [], tags := [], tagQ := []
    pool := [], meshStop := 0, recent := [], syncRun := 0, cap := .reset, fw := fw, mgmt := md, power := pw
    console := con } ∧
    tabGet chipRegD ch Reg.capAonCause = s.reg Reg.capAonCause ∧ pw.meshOn = false ∧ pw.stage = .held ∧ pw.pgood = false := by
  obtain ⟨ch, md, fw, pw, con, e, h1, h2, h3⟩ := deviceClear_facts s false
  have hp : (s.deviceClear false).power.pgood = false := rfl
  have hp2 : pw.pgood = false := by rw [e] at hp; exact hp
  refine ⟨ch, md, fw, { pw with stage := .held }, con, ?_, h1, h3, rfl, hp2⟩
  unfold State.holdDevice
  rw [e]

theorem railReg_railSet (s : State) (i j o q hi lo v : Nat) (hi' : i < 1168) (hj : j < 1168)
    (ho : ∃ a, a < 4 ∧ o = 0x900 + 4 * a) (hq : ∃ a, a < 4 ∧ q = 0x900 + 4 * a) :
    (s.railSet i o hi lo v).railReg j q = if j = i ∧ q = o then setFld (s.railReg i o) hi lo v else s.railReg j q := by
  obtain ⟨a, ha, rfl⟩ := ho
  obtain ⟨b, hb, rfl⟩ := hq
  unfold State.railReg State.railSet
  by_cases h1 : i < tileCount <;> by_cases h2 : j < tileCount
  · rw [if_pos h1, if_pos h2, if_pos h1, if_pos h2]
    by_cases h : j = i
    · subst h
      rw [State.modTile_tile_same]
      by_cases h' : b = a
      · subst h'; simp only [and_self, if_true]; exact Tile.setF_reg_same _ _ _ _ _
      · rw [if_neg (by omega)]
        exact Tile.setF_reg_ne _ _ _ _ (by omega)
    · rw [State.modTile_tile_ne _ _ h, if_neg (by omega)]
  · rw [if_pos h1, if_neg h2, if_pos h1, if_neg h2, if_neg (by omega)]
    exact State.modTile_reg _ _ _ _
  · rw [if_neg h1, if_pos h2, if_neg h1, if_pos h2, if_neg (by omega), State.setF_tile]
  · have h1' : 1152 ≤ i := by unfold tileCount at h1; omega
    have h2' : 1152 ≤ j := by unfold tileCount at h2; omega
    rw [if_neg h1, if_neg h2, if_neg h1, if_neg h2]
    unfold tileCount
    by_cases h : j = i ∧ 0x900 + 4 * b = 0x900 + 4 * a
    · rw [if_pos h, h.1, h.2]; exact State.setF_reg_same _ _ _ _ _
    · rw [if_neg h]; exact State.setF_reg_ne _ _ _ _ (by omega)

/-- A step of one rail: it leaves the registers of the other rails, and all other registers of the chip. -/
structure RailKeep (s u : State) (i : Nat) : Prop where
  rails : ∀ j q, j < 1168 → j ≠ i → (∃ a, a < 4 ∧ q = 0x900 + 4 * a) → u.railReg j q = s.railReg j q
  regs  : ∀ o, o < 0x3100 ∨ 0x3200 ≤ o → u.reg o = s.reg o
  form  : ∃ ts ch rf, u = { s with tiles := ts, chip := ch, power := { s.power with runFrac := rf } }

theorem RailKeep.trans {s u v : State} {i : Nat} (h : RailKeep s u i) (h' : RailKeep u v i) : RailKeep s v i := by
  refine ⟨fun j q a b c => (h'.rails j q a b c).trans (h.rails j q a b c), fun o ho => (h'.regs o ho).trans (h.regs o ho), ?_⟩
  obtain ⟨a, b, c, e⟩ := h.form
  obtain ⟨a', b', c', e'⟩ := h'.form
  exact ⟨a', b', c', by rw [e', e]⟩

theorem RailKeep.set (s : State) (i o hi lo v : Nat) (hi' : i < 1168) (ho : ∃ a, a < 4 ∧ o = 0x900 + 4 * a) : RailKeep s (s.railSet i o hi lo v) i := by
  refine ⟨fun j q hj hne hq => ?_, fun q hq => ?_, ?_⟩
  · rw [railReg_railSet s i j o q hi lo v hi' hj ho hq, if_neg (fun h => hne h.1)]
  · unfold State.railSet
    split
    · rfl
    · rename_i h
      obtain ⟨a, ha, rfl⟩ := ho
      exact State.setF_reg_ne _ _ _ _ (by unfold tileCount at *; omega)
  · unfold State.railSet
    split
    · exact ⟨_, s.chip, s.power.runFrac, rfl⟩
    · exact ⟨s.tiles, _, s.power.runFrac, rfl⟩

theorem railsFold (f : State → Nat → State) (hf : ∀ s i, i < 1168 → RailKeep s (f s i) i) : ∀ (l : List Nat) (s : State), l.Nodup → (∀ i ∈ l, i < 1168) →
    (∃ ts ch rf, l.foldl f s = { s with tiles := ts, chip := ch, power := { s.power with runFrac := rf } }) ∧
    (∀ o, o < 0x3100 ∨ 0x3200 ≤ o → (l.foldl f s).reg o = s.reg o) ∧
    (∀ j q, j < 1168 → j ∉ l → (∃ a, a < 4 ∧ q = 0x900 + 4 * a) → (l.foldl f s).railReg j q = s.railReg j q) ∧
    (∀ i ∈ l, ∃ w, (∃ ts ch rf, w = { s with tiles := ts, chip := ch, power := { s.power with runFrac := rf } }) ∧
      (∀ o, o < 0x3100 ∨ 0x3200 ≤ o → w.reg o = s.reg o) ∧ (∀ q, (∃ a, a < 4 ∧ q = 0x900 + 4 * a) → w.railReg i q = s.railReg i q) ∧
      ∀ q, (∃ a, a < 4 ∧ q = 0x900 + 4 * a) → (l.foldl f s).railReg i q = (f w i).railReg i q) := by
  intro l
  induction l with
  | nil => intro s _ _; exact ⟨⟨s.tiles, s.chip, s.power.runFrac, rfl⟩, fun _ _ => rfl, fun _ _ _ _ _ => rfl, fun i hi => absurd hi (by simp)⟩
  | cons a l ih =>
    intro s hn hl
    rw [List.nodup_cons] at hn
    have ha := hl a (by simp)
    have k := hf s a ha
    obtain ⟨h1, h2, h3, h4⟩ := ih (f s a) hn.2 (fun i hi => hl i (by simp [hi]))
    rw [List.foldl_cons]
    obtain ⟨t0, c0, r0, e0⟩ := k.form
    refine ⟨?_, fun o ho => (h2 o ho).trans (k.regs o ho), fun j q hj hm hq => ?_, fun i hi => ?_⟩
    · obtain ⟨t1, c1, r1, e1⟩ := h1
      exact ⟨t1, c1, r1, by rw [e1, e0]⟩
    · simp only [List.mem_cons, not_or] at hm
      rw [h3 j q hj hm.2 hq, k.rails j q hj hm.1 hq]
    · by_cases hia : i = a
      · subst hia
        exact ⟨s, ⟨s.tiles, s.chip, s.power.runFrac, rfl⟩, fun _ _ => rfl, fun _ _ => rfl, fun q hq => h3 i q ha hn.1 hq⟩
      · obtain ⟨w, ⟨t1, c1, r1, e1⟩, w2, w3, w4⟩ := h4 i (by simpa [hia] using hi)
        exact ⟨w, ⟨t1, c1, r1, by rw [e1, e0]⟩, fun o ho => (w2 o ho).trans (k.regs o ho), fun q hq => (w3 q hq).trans (k.rails i q (hl i hi) hia hq), w4⟩

theorem rs4 : (∃ a, a < 4 ∧ Reg.capRailV = 0x900 + 4 * a) ∧ (∃ a, a < 4 ∧ Reg.capRailR = 0x900 + 4 * a) ∧ (∃ a, a < 4 ∧ Reg.capRailStatus = 0x900 + 4 * a) :=
  ⟨⟨0, by decide, rfl⟩, ⟨2, by decide, rfl⟩, ⟨3, by decide, rfl⟩⟩

theorem railUp_facts (s : State) (i : Nat) (hi : i < 1168) : RailKeep s (s.railUp i) i ∧
    fld ((s.railUp i).railReg i Reg.capRailStatus) 0 0 = 1 ∧ fld ((s.railUp i).railReg i Reg.capRailV) 11 0 = s.railMv i s.mhzNow % 2 ^ 12 := by
  obtain ⟨v, r, st⟩ := rs4
  unfold State.railUp State.railMove
  simp only []
  generalize hmv : s.railMv i s.mhzNow = mv
  generalize Config.railBase i % 2 ^ 16 = b
  obtain ⟨w1, h1⟩ : ∃ w, s.railSet i Reg.capRailV 11 0 mv = w := ⟨_, rfl⟩
  rw [h1]
  obtain ⟨w2, h2⟩ : ∃ w, w1.railSet i Reg.capRailStatus 0 0 1 = w := ⟨_, rfl⟩
  rw [h2]
  generalize (Config.freeValue w2.freeCount i) = fv
  generalize (Config.freeValue s.freeCount i) = fv'
  obtain ⟨w3, h3⟩ : ∃ w, w2.railSet i Reg.capRailV 27 16 fv' = w := ⟨_, rfl⟩
  rw [h3]
  obtain ⟨w4, h4⟩ : ∃ w, w3.railSet i Reg.capRailR 15 0 b = w := ⟨_, rfl⟩
  rw [h4]
  obtain ⟨w5, h5⟩ : ∃ w, w4.railSet i Reg.capRailR 31 16 b = w := ⟨_, rfl⟩
  rw [h5]
  have k : RailKeep s w5 i := by
    rw [← h5, ← h4, ← h3, ← h2, ← h1]
    exact ((((RailKeep.set _ _ _ _ _ _ hi v).trans (RailKeep.set _ _ _ _ _ _ hi st)).trans (RailKeep.set _ _ _ _ _ _ hi v)).trans
      (RailKeep.set _ _ _ _ _ _ hi r)).trans (RailKeep.set _ _ _ _ _ _ hi r)
  refine ⟨⟨fun j q a b c => k.rails j q a b c, fun o ho => k.regs o ho, ?_⟩, ?_, ?_⟩
  · obtain ⟨a, b', c, e⟩ := k.form
    exact ⟨a, b', tabSet natD w5.power.runFrac i (b * 4096), by rw [e]⟩
  · show fld (w5.railReg i Reg.capRailStatus) 0 0 = 1
    rw [← h5, railReg_railSet _ _ _ _ _ _ _ _ hi hi r st, if_neg (fun h => absurd h.2 (by decide)), ← h4, railReg_railSet _ _ _ _ _ _ _ _ hi hi r st, if_neg (fun h => absurd h.2 (by decide)),
      ← h3, railReg_railSet _ _ _ _ _ _ _ _ hi hi v st, if_neg (fun h => absurd h.2 (by decide)), ← h2, railReg_railSet _ _ _ _ _ _ _ _ hi hi st st, if_pos ⟨rfl, rfl⟩,
      fld_setFld_same _ _ (by decide) (by decide)]
    rfl
  · show fld (w5.railReg i Reg.capRailV) 11 0 = mv % 2 ^ 12
    rw [← h5, railReg_railSet _ _ _ _ _ _ _ _ hi hi r v, if_neg (fun h => absurd h.2 (by decide)), ← h4, railReg_railSet _ _ _ _ _ _ _ _ hi hi r v, if_neg (fun h => absurd h.2 (by decide)),
      ← h3, railReg_railSet _ _ _ _ _ _ _ _ hi hi v v, if_pos ⟨rfl, rfl⟩, fld_setFld_below _ _ (by decide) (by decide) (by decide),
      ← h2, railReg_railSet _ _ _ _ _ _ _ _ hi hi st v, if_neg (fun h => absurd h.2 (by decide)), ← h1, railReg_railSet _ _ _ _ _ _ _ _ hi hi v v, if_pos ⟨rfl, rfl⟩,
      fld_setFld_same _ _ (by decide) (by decide)]

theorem groupRails_ok (g : Nat) : (groupRails g).Nodup ∧ ∀ i ∈ groupRails g, i < 1168 := by
  unfold groupRails
  repeat' split
  all_goals first
    | exact ⟨by simp, by simp; try omega⟩
    | skip
  · refine ⟨List.Nodup.map (fun a b h => by simpa using h) List.nodup_range, fun i hi => ?_⟩
    obtain ⟨c, hc, rfl⟩ := List.mem_map.mp hi
    have := List.mem_range.mp hc
    omega

theorem railMv_congr (s w : State) (i : Nat) (hi : i < 1168) (hp : ∃ ts ch rf, w = { s with tiles := ts, chip := ch, power := { s.power with runFrac := rf } })
    (hr : ∀ o, o < 0x3100 ∨ 0x3200 ≤ o → w.reg o = s.reg o) (hq : w.railReg i Reg.capRailStatus = s.railReg i Reg.capRailStatus) :
    w.railMv i w.mhzNow = s.railMv i s.mhzNow := by
  have h1 : w.f Reg.clkMeshCur 10 0 = s.f Reg.clkMeshCur 10 0 := by
    unfold State.f; rw [hr _ (by decide)]
  have h2 : w.f Reg.clkMeshReq 10 0 = s.f Reg.clkMeshReq 10 0 := by
    unfold State.f; rw [hr _ (by decide)]
  have h3 : w.mhzNow = s.mhzNow := by
    unfold State.mhzNow
    rw [h1, h2]
    obtain ⟨ts, ch, rf, e⟩ := hp
    rw [e]
  unfold State.railMv
  rw [h3, hq]

theorem groupUp_facts (s : State) (g : Nat) : (∃ ts ch rf, s.groupUp g = { s with tiles := ts, chip := ch, power := { s.power with runFrac := rf }, freeCount := s.freeCount + 1 }) ∧
    (∀ o, o < 0x3100 ∨ 0x3200 ≤ o → (s.groupUp g).reg o = s.reg o) ∧
    (∀ i ∈ groupRails g, fld ((s.groupUp g).railReg i Reg.capRailStatus) 0 0 = 1 ∧
      fld ((s.groupUp g).railReg i Reg.capRailV) 11 0 = s.railMv i s.mhzNow % 2 ^ 12) := by
  obtain ⟨hn, hb⟩ := groupRails_ok g
  obtain ⟨v, r, st⟩ := rs4
  obtain ⟨⟨ts, ch, rf, e⟩, h2, h3, h4⟩ := railsFold State.railUp (fun s i hi => (railUp_facts s i hi).1) (groupRails g) s hn hb
  unfold State.groupUp
  obtain ⟨U, hU⟩ : ∃ U, (groupRails g).foldl State.railUp s = U := ⟨_, rfl⟩
  rw [hU] at e h2 h3 h4 ⊢
  refine ⟨⟨ts, ch, rf, by rw [e]⟩, h2, fun i hi => ?_⟩
  obtain ⟨w, wf, w2, w3, w4⟩ := h4 i hi
  have k := railUp_facts w i (hb i hi)
  rw [railMv_congr s w i (hb i hi) wf w2 (w3 _ st)] at k
  exact ⟨(congrArg (fun x => fld x 0 0) (w4 _ st)).trans k.2.1, (congrArg (fun x => fld x 11 0) (w4 _ v)).trans k.2.2⟩

theorem railReg_congr {s w : State} (ht : ∀ t, w.tile t = s.tile t) (hr : ∀ o, 0x3100 ≤ o → o < 0x3200 → w.reg o = s.reg o) (i q : Nat) (hi : i < 1168)
    (hq : ∃ a, a < 4 ∧ q = 0x900 + 4 * a) : w.railReg i q = s.railReg i q := by
  unfold State.railReg
  obtain ⟨a, ha, rfl⟩ := hq
  split
  · rw [ht]
  · rename_i h
    unfold tileCount at *
    exact hr _ (by omega) (by omega)

end Sys2Proof.Machine
end

