-- ==== Sys2Proof/Laws/Sync.lean ====
section
/-!
SUPPORT. Laws/Sync.lean: what the shared operations of the synchronisation commands do: a wait that is held, its end,
semaphores, the signals of one cycle, and a command that is taken.
-/

namespace Sys2Proof.Machine

theorem fault_not_sem (k : Nat) : Reg.ladleFault ≠ Reg.ladleSem + 4 * k := by simp only [Reg.ladleFault, Reg.ladleSem]; omega
theorem seq_not_sem (k : Nat) : Reg.ladleFaultSeq ≠ Reg.ladleSem + 4 * k := by simp only [Reg.ladleFaultSeq, Reg.ladleSem]; omega

theorem startSync_held (s : State) (op t e : Nat) (w : Wait) (h : tabGet waitD (s.tile t).waits e = some w) :
    s.startSync op t e = s := by
  unfold State.startSync Tile.mayStartSync
  simp [h]

theorem syncNow_held (x : Tile) (op e : Nat) (w : Wait) (h : tabGet waitD x.waits e = some w) (ho : fld w.w0 7 0 = op) (hs : x.stopped e = false) :
    x.syncNow op e = some w := by
  unfold Tile.syncNow
  simp [h, ho, hs]

theorem endSync_form (x : Tile) (e : Nat) : ∃ st, x.endSync e = { x with waits := tabSet waitD x.waits e none, stall := st } := ⟨_, rfl⟩

theorem endSync_wait (x : Tile) (e : Nat) : tabGet waitD (x.endSync e).waits e = none := by
  show tabGet waitD (tabSet waitD x.waits e none) e = none; exact tabGet_set_same _ _ _ _
theorem endSync_waits (x : Tile) (e e' : Nat) (h : e' ≠ e) : tabGet waitD (x.endSync e).waits e' = tabGet waitD x.waits e' := by
  show tabGet waitD (tabSet waitD x.waits e none) e' = _; exact tabGet_set_ne _ _ _ h
theorem endSync_reg (x : Tile) (e o : Nat) : (x.endSync e).reg o = x.reg o := reg_congr (by unfold Tile.endSync; rfl) o

theorem sem_setF (x : Tile) (k v : Nat) (hv : v ≤ 0xFFFF) : (x.setF (Reg.ladleSem + 4 * k) 15 0 v).sem k = v := by
  unfold Tile.sem
  rw [Tile.setF_f_same _ _ _ (by decide) (by decide)]
  exact Nat.mod_eq_of_lt (by simp; omega)

theorem addSem_fit (x : Tile) (k n : Nat) (h : x.sem k + n ≤ 0xFFFF) :
    x.addSem k n = x.setF (Reg.ladleSem + 4 * k) 15 0 (x.sem k + n) := by
  unfold Tile.addSem
  simp only []
  rw [if_neg (fun hc => by omega), Nat.min_eq_right h]

/-- A semaphore in which this cycle's overflow is noted. -/
def Tile.overflowed (x : Tile) (k : Nat) : Tile :=
  let y := x.setF (Reg.ladleSem + 4 * k) 15 0 0xFFFF
  { y with now := { y.now with sems := k :: y.now.sems } }

theorem addSem_over (x : Tile) (k n : Nat) (h : 0xFFFF < x.sem k + n) (hk : k ∉ x.now.sems) :
    x.addSem k n = (x.overflowed k).recordFault 0x242 4 0 := by
  unfold Tile.addSem
  simp only []
  rw [Nat.min_eq_left (by omega), if_pos ⟨by omega, hk⟩]
  rfl

/-- Does a signal of the list reach semaphore k of tile t by cycle cyc? -/
def Signal.hits (g : Signal) (cyc t k : Nat) : Bool := g.tile == t && g.sem == k && g.arrived cyc

theorem takeSignals_all (cyc t k : Nat) : ∀ (l : List Signal) (count : Nat), (l.filter (fun g => g.hits cyc t k)).length ≤ count →
    takeSignals cyc t k count l = (l.filter (fun g => g.hits cyc t k), l.filter (fun g => !g.hits cyc t k)) := by
  intro l
  induction l with
  | nil => intro c _; rcases c with _ | c <;> rfl
  | cons g l ih =>
    intro c hc
    cases hb : g.hits cyc t k
    · have hg : ¬(g.tile = t ∧ g.sem = k ∧ g.arrived cyc = true) := by
        intro h; simp [Signal.hits, h] at hb
      rw [List.filter_cons_of_neg (by rw [hb]; simp)] at hc ⊢
      rw [List.filter_cons_of_pos (by rw [hb]; rfl)]
      rcases c with _ | c
      · have : l.filter (fun g => g.hits cyc t k) = [] := by simpa using hc
        rw [this]
        have h2 : l.filter (fun g => !g.hits cyc t k) = l := by
          rw [List.filter_eq_self]
          intro a ha
          rw [List.filter_eq_nil_iff] at this
          have := this a ha
          simp only [Bool.not_eq_true] at this
          rw [this]; rfl
        rw [h2]; rfl
      · rw [takeSignals, if_neg hg]
        simp only []
        rw [ih (c + 1) hc]
    · have hg : g.tile = t ∧ g.sem = k ∧ g.arrived cyc = true := by
        simpa [Signal.hits, and_assoc] using hb
      rw [List.filter_cons_of_pos (by rw [hb])] at hc ⊢
      rw [List.filter_cons_of_neg (by rw [hb]; simp)]
      rcases c with _ | c
      · simp at hc
      · rw [takeSignals, if_pos hg]
        simp only []
        rw [ih c (by simpa using hc)]

theorem unitStep_start (s : State) (t : Nat) (y : Tile) (f : State → State) (hc : s.clocked t = true)
    (hr : y.reg Reg.ladleFault = (s.tile t).reg Reg.ladleFault)
    (hf : f s = f (s.setTile t y)) : s.unitStep t f = (s.setTile t y).unitStep t f := by
  have h2 : (s.setTile t y).tileOwner t = s.tileOwner t := rfl
  rw [unitStep_eq _ _ _ hc, unitStep_eq (s.setTile t y) _ _ hc]
  unfold State.faultTraced
  have : faultSeen (s.tile t) ((f (s.setTile t y)).tile t) = faultSeen ((s.setTile t y).tile t) ((f (s.setTile t y)).tile t) := by
    rw [State.setTile_tile_same]
    unfold faultSeen Tile.f; rw [hr]
  simp only [hf, h2, this]

theorem cnt_ne (e : Nat) : cmdCntReg e ≠ Reg.ladleFault ∧ cmdCntReg e ≠ Reg.ladleFaultSeq := by
  unfold cmdCntReg; split
  · decide
  · split <;> decide

theorem takeCmd_reg (x : Tile) (e i o : Nat) (h : o ≠ cmdCntReg e) : (x.takeCmd e i).reg o = x.reg o := by
  unfold Tile.takeCmd
  rw [Tile.setReg_reg_ne _ _ h]; exact reg_congr rfl _

theorem takeCmd_queue (x : Tile) (e : Nat) (en : QEntry) (l : List QEntry) (h : x.queue e = en :: l) : (x.takeCmd e 0).queue e = l := by
  show tabGet queueD (tabSet queueD x.queues e (listDrop1 (x.queue e) 0)) e = l
  rw [tabGet_set_same, h]; rfl

theorem takeCmd_queue_ne (x : Tile) (e e' : Nat) (h : e' ≠ e) : (x.takeCmd e 0).queue e' = x.queue e' := by
  show tabGet queueD (tabSet queueD x.queues e (listDrop1 (x.queue e) 0)) e' = _
  rw [tabGet_set_ne _ _ _ h]; rfl

theorem takeCmd_form' (x : Tile) (e i : Nat) : ∃ rg q, x.takeCmd e i = { x with regs := rg, queues := q } := ⟨_, _, rfl⟩

end Sys2Proof.Machine
end

