-- ==== Sys2Proof/Laws/Vector.lean ====
section
/-!
SUPPORT. Laws/Vector.lean: what an instruction of the scalar core and a repetition of a vector command do.
-/

namespace Sys2Proof.Machine

theorem scNext_word (x : Tile) (h1 : x.pc.toNat + 4 ≤ scratchSize) (h2 : x.pc.toNat % 4 = 0) (h3 : (x.scrReads [(x.pc.toNat, 4)]).2 = false) :
    x.scNext = ((x.scrReads [(x.pc.toNat, 4)]).1, .ok (scDecode x x.pc (BitVec.ofNat 32 (x.rd32 x.pc.toNat)))) := by
  unfold Tile.scNext Tile.scFetch
  simp only [show ¬ scratchSize < x.pc.toNat + 4 by omega, if_false, h2, ne_eq, not_true_eq_false, h3, Bool.false_eq_true]

theorem setX_form (x : Tile) (rd : Nat) (v : Word) : ∃ xr, x.setX rd v = { x with xr := xr } ∧
    ∀ r, r ≠ 0 → tabGet wordD xr r = if r = rd then v else tabGet wordD x.xr r := by
  unfold Tile.setX
  by_cases h : rd = 0
  · subst h
    refine ⟨x.xr, by rw [if_pos rfl], fun r hr => by rw [if_neg hr]⟩
  · refine ⟨tabSet wordD x.xr rd v, by rw [if_neg h], fun r _ => ?_⟩
    by_cases hr : r = rd
    · subst hr; rw [if_pos rfl, tabGet_set_same]
    · rw [if_neg hr, tabGet_set_ne _ _ _ hr]

theorem scReads_bad (x z : Tile) (h : z.scrBad = x.scrBad) (rs : List (Nat × Nat)) : (z.scrReads rs).2 = (x.scrReads rs).2 := by
  unfold Tile.scrReads; simp only [h]

/-- The core's next instruction, when it is fetched. -/
theorem scStep_ok (s : State) (t : Nat) (y : Tile) (act : ScAct) (h : (s.tile t).scNext = (y, .ok act)) :
    s.scStep t = s.scExecute t y act := by unfold State.scStep; rw [h]

/-- A step of the core that its banks serve, with no write of another Ladle waiting. -/
theorem scServed_ok (s : State) (t : Nat) (f : State → State) (hin : (s.tile t).inScr = [])
    (hb : (s.tile t).banksFree s.cyc 7 (s.tile t).scReads = true) :
    s.scServed t f = f (s.setTile t ((s.tile t).wonBanks 7 (s.tile t).scReads)) := by
  unfold State.scServed State.banked Tile.takeIn
  simp only [hin, show ¬ ((7 : Nat) < 5) by decide, if_false, hb, if_true]

/-- Two tiles differ at most in what the mesh cycle has served. -/
theorem nowOnly_trans {x y z : Tile} (h : y = { x with now := y.now }) (h' : z = { y with now := z.now }) :
    z = { x with now := z.now } := by rw [h', h]

/-- Winning banks below the Ladles changes only what the cycle has served. -/
theorem wonBanks_now (x : Tile) (rank : Rank) (rs : List (Nat × Nat)) (h3 : rank ≠ 3) (h4 : rank ≠ 4) :
    x.wonBanks rank rs = { x with now := (x.wonBanks rank rs).now } := by
  unfold Tile.wonBanks
  split
  · rfl
  · simp only [h3, h4, if_false]

theorem zipIdx_lanes (v : Nat) : ∀ (ws : List Word) (k : Nat) (m : Tab Word) (j : Nat),
    tabGet wordD ((ws.zipIdx k).foldl (fun m x => tabSet wordD m (v * 64 + x.2) x.1) m) j =
      if v * 64 + k ≤ j ∧ j < v * 64 + k + ws.length then ws.getD (j - (v * 64 + k)) 0 else tabGet wordD m j := by
  intro ws
  induction ws with
  | nil => intro k m j; rw [if_neg (by simp)]; rfl
  | cons w ws ih =>
    intro k m j
    simp only [List.zipIdx_cons, List.foldl_cons, List.length_cons]
    rw [ih]
    by_cases h1 : j = v * 64 + k
    · subst h1
      rw [if_neg (by omega), if_pos (by omega), tabGet_set_same]; simp
    · rw [tabGet_set_ne _ _ _ h1]
      by_cases h2 : v * 64 + (k + 1) ≤ j ∧ j < v * 64 + (k + 1) + ws.length
      · rw [if_pos h2, if_pos (by omega), show j - (v * 64 + k) = (j - (v * 64 + (k + 1))) + 1 by omega]; simp
      · rw [if_neg h2, if_neg (by omega)]

theorem setLanes_lane (t : Tile) (v : Nat) (ws : List Word) (hw : ws.length = 64) (v' k : Nat) (hk : k < 64) :
    (t.setLanes v ws).lane v' k = if v' = v then ws.getD k 0 else t.lane v' k := by
  show tabGet wordD ((ws.zipIdx 0).foldl (fun m x => tabSet wordD m (v * 64 + x.2) x.1) t.vr) (v' * 64 + k) = _
  rw [zipIdx_lanes]
  by_cases h : v' = v
  · subst h; rw [if_pos (by omega), if_pos rfl]; congr 1; omega
  · rw [if_neg (by omega), if_neg h]; rfl

theorem setLanes_form (t : Tile) (v : Nat) (ws : List Word) : ∃ vr, t.setLanes v ws = { t with vr := vr } := ⟨_, rfl⟩

theorem setLanes_only (t : Tile) (v : Nat) (ws : List Word) : t.setLanes v ws = { t with vr := (t.setLanes v ws).vr } := rfl

theorem seedTake_ok (x : Tile) (e : QEntry) (h : vCheck x e = 0) (ho : opc e = 0x24) (hr : cvRot (vCvt e) ≠ 0) : x.seedTake (cvSeed (vCvt e)) = x := by
  unfold Tile.seedTake
  split
  · rename_i hb
    exfalso
    have : vCvtBad x e = true := by
      simp [vCvtBad, ho, hr, Tile.seedFails, hb]
    unfold vCheck at h
    rw [this] at h
    repeat' (split at h)
    all_goals simp_all
  · rfl

theorem seedTake_if (x : Tile) (op : Nat) (e : QEntry) (h : vCheck x e = 0) (ho : opc e = op) :
    (if op = 0x24 && decide (cvRot (vCvt e) ≠ 0) then x.seedTake (cvSeed (vCvt e)) else x) = x := by
  split
  · rename_i hc
    simp only [Bool.and_eq_true, decide_eq_true_eq] at hc
    exact seedTake_ok x e h (by rw [ho, hc.1]) hc.2
  · rfl

/-- A vector command that may start, served by its banks: what is left to do is `vecRun` on the tile, of which winning the
banks has changed `now` alone. -/
theorem vectorCommand_served (x : Tile) (op : Nat) (e : QEntry) (l : List QEntry) (f : Tile → QEntry → Nat → Tile) (cyc : Nat)
    (hh : x.VecHead op e l) (hb : x.VecServed op e cyc) :
    ∃ w : Tile, x.vectorCommand op f cyc = w.vecRun e f ∧ w = { x with now := w.now } := by
  obtain ⟨h1, h2, h3, h4⟩ := hh
  obtain ⟨b1, b2, b3⟩ := hb
  refine ⟨(x.wonBanks (if op = 0x24 then 2 else 5) (vSpans x e).2).wonBanks 5 (vSpans x e).1, ?_,
    nowOnly_trans (wonBanks_now x (if op = 0x24 then 2 else 5) (vSpans x e).2 (by split <;> decide) (by split <;> decide))
      (wonBanks_now _ 5 (vSpans x e).1 (by decide) (by decide))⟩
  unfold Tile.vectorCommand Tile.servedBoth Tile.takeIn
  simp only [h1, h2, h3, h4, b1, b2, b3, Bool.not_true, Bool.false_eq_true, if_false, ne_eq, not_true_eq_false, decide_false,
    Bool.or_self, Bool.and_self, if_true]

theorem vec_form (x : Tile) (op : Nat) (e : QEntry) (l : List QEntry) (f : Tile → QEntry → Nat → Tile) (cyc : Nat) (hh : x.VecHead op e l)
    (hb : x.VecServed op e cyc) (hv : vCheck x e = 0) (hs : (x.scrReads (vReads e)).2 = false) :
    ∃ z0 : Tile, x.vectorCommand op f cyc = repeatN (fun t r => f t e r) (vRep e) z0 ∧ z0.queue 1 = l ∧
      x.RegsSame z0 [Reg.ladleScrEcc, Reg.ladleCmdcntVec] ∧ z0 = { x with regs := z0.regs, queues := z0.queues, now := z0.now } := by
  obtain ⟨w, hrun, hw⟩ := vectorCommand_served x op e l f cyc hh hb
  obtain ⟨h1, h2, h3, h4⟩ := hh
  rw [hrun]
  have hwv : vCheck w e = 0 := by rw [hw]; exact hv
  have hws : (w.scrReads (vReads e)).2 = false := by rw [hw]; exact hs
  obtain ⟨rg, hz, hrg⟩ := scrReads_form w (vReads e)
  obtain ⟨y, hy⟩ : ∃ y : Tile, y = { w with regs := rg } := ⟨_, rfl⟩
  obtain ⟨rg2, ht, -, ht2⟩ := takeCmd_form y 1 0
  have hyq : y.queues = x.queues := by rw [hy, hw]
  have hyr : ∀ o, y.reg o = tabGet tileRegD rg o := fun o => by rw [hy]; rfl
  have hq1 : (y.takeCmd 1 0).queue 1 = l := takeCmd_queue y 1 e l (by unfold Tile.queue at h2 ⊢; rw [hyq]; exact h2)
  refine ⟨y.takeCmd 1 0, ?_, hq1, ?_, ?_⟩
  · unfold Tile.vecRun
    have := seedTake_if w (opc e) e hwv rfl
    simp only [Bool.beq_eq_decide_eq] at this ⊢
    rw [this]
    simp only [hwv, ne_eq, not_true_eq_false, if_false]
    generalize hp : w.scrReads (vReads e) = p at hws hz
    obtain ⟨p1, p2⟩ := p
    simp only at hws hz
    subst hws
    simp only [Bool.false_eq_true, if_false, hz, ← hy]
  · intro o ho
    simp only [List.mem_cons, List.not_mem_nil, or_false, not_or] at ho
    rw [takeCmd_reg y 1 0 o ho.2, hyr, hrg o ho.1, hw]; rfl
  · rw [ht, hy, hw]

theorem repeat_fault (f : Tile → Nat → Tile) (z : Tile) (hf : ∀ t r, (f t r).reg Reg.ladleFault = t.reg Reg.ladleFault) :
    ∀ n, (repeatN f n z).reg Reg.ladleFault = z.reg Reg.ladleFault := by
  intro n
  induction n with
  | zero => rfl
  | succ n ih => rw [repeatN, hf, ih]

theorem vec_exec (s : State) (t op : Nat) (e : QEntry) (l : List QEntry) (x : Tile) (f : Tile → QEntry → Nat → Tile)
    (hx : x = s.tile t) (hc : s.clocked t = true) (hh : x.VecHead op e l) (hb : x.VecServed op e s.cyc) (hv : vCheck x e = 0) (hs : (x.scrReads (vReads e)).2 = false)
    (hf : ∀ t r, (f t e r).reg Reg.ladleFault = t.reg Reg.ladleFault) :
    ∃ z : Nat → Tile, s.tileUnit t (fun x => x.vectorCommand op f s.cyc) = s.setTile t (z (vRep e)) ∧ (z 0).queue 1 = l ∧
      x.RegsSame (z 0) [Reg.ladleScrEcc, Reg.ladleCmdcntVec] ∧ z 0 = { x with regs := (z 0).regs, queues := (z 0).queues, now := (z 0).now } ∧
      ∀ r, z (r + 1) = f (z r) e r := by
  obtain ⟨z0, h1, h2, h3, h4⟩ := vec_form x op e l f s.cyc hh hb hv hs
  refine ⟨fun n => repeatN (fun t r => f t e r) n z0, ?_, h2, h3, h4, fun r => rfl⟩
  unfold State.tileUnit
  rw [unitStep_same _ _ _ hc]
  · unfold State.modTile; simp only [← hx, h1]
  · rw [State.modTile_tile_same, ← hx, h1, repeat_fault _ _ hf, h3 _ (by decide)]

theorem vload_step (t : Tile) (e : QEntry) (r : Nat) : (t.vload1 e r) = { t with regs := (t.vload1 e r).regs, now := (t.vload1 e r).now, vr := (t.vload1 e r).vr } ∧
    t.RegsSame (t.vload1 e r) rennetEventRegs ∧ ∀ v k, k < 64 → (t.vload1 e r).lane v k =
          if v = vReg e 0 r then b32Of ((fmtOf (vFmt e)).decode (bit (ew e 4) 4)
            (packedGet t.rd8 (vAddr e + r * vStride e) (fmtOf (vFmt e)) k)) else t.lane v k := by
  unfold Tile.vload1
  simp only []
  generalize hxs : (List.range 64).map (fun i => (fmtOf (vFmt e)).decode (bit (ew e 4) 4) (packedGet t.rd8 (vAddr e + r * vStride e) (fmtOf (vFmt e)) i)) = xs
  have hlen : (xs.map b32Of).length = 64 := by rw [← hxs]; simp
  obtain ⟨vr, hvr⟩ := setLanes_form t (vReg e 0 r) (xs.map b32Of)
  have hl := setLanes_lane t (vReg e 0 r) (xs.map b32Of) hlen
  generalize t.setLanes (vReg e 0 r) (xs.map b32Of) = u at hvr hl
  have hcs : ∀ l, ∃ rg nw, u.rnEvents (u.cmdSeq 1) l = { u with regs := rg, now := nw } ∧ ∀ o, o ∉ rennetEventRegs → tabGet tileRegD rg o = u.reg o :=
    fun l => rnEvents_form u _ l
  obtain ⟨rg, nw, h1, h2⟩ := hcs [⟨r, 0, 3, 3, (xs.filter (fun x => !x.isFinite)).length⟩]
  rw [h1]
  refine ⟨?_, ?_, ?_⟩
  · rw [hvr]
  · intro o ho
    have := h2 o ho
    rw [hvr] at this ⊢; exact this
  · intro v k hk
    have := hl v k hk
    show u.lane v k = _
    rw [this, ← hxs]
    split
    · simp [hk]
    · rfl

theorem flatMap4_length (l : List Word) : (l.flatMap (fun w => bytesOf 4 w.toNat)).length = 4 * l.length := by
  induction l with
  | nil => rfl
  | cons a l ih => simp only [List.flatMap_cons, List.length_append, bytesOf_length, ih, List.length_cons]; omega

theorem flatMap4_getD (l : List Word) (c k : Nat) (hc : c < l.length) (hk : k < 4) :
    (((l.flatMap (fun w => bytesOf 4 w.toNat)).getD (4 * c + k) 0)).toNat = (l.getD c 0).toNat / 256 ^ k % 256 := by
  induction l generalizing c with
  | nil => simp at hc
  | cons a l ih =>
    simp only [List.flatMap_cons]
    cases c with
    | zero =>
      rw [List.getD_append _ _ _ _ (by rw [bytesOf_length]; omega)]
      simpa using bytesOf_getD 4 a.toNat k hk
    | succ c =>
      rw [List.getD_append_right _ _ _ _ (by rw [bytesOf_length]; omega), bytesOf_length,
        show 4 * (c + 1) + k - 4 = 4 * c + k by omega, ih c (by simpa using hc)]
      simp

theorem vstore_step (t : Tile) (e : QEntry) (r : Nat) :
    (t.vstore1 e r).reg Reg.ladleFault = t.reg Reg.ladleFault ∧ (t.scrBad = [] → (t.vstore1 e r).scrBad = []) ∧
    (t.vstore1 e r).vr = t.vr ∧
        (∀ a, a < vAddr e + r * vStride e ∨ vAddr e + r * vStride e + 256 ≤ a →
          tabGet byteD (t.vstore1 e r).scratch a = tabGet byteD t.scratch a) ∧
        (t.scrBad = [] → ∀ k b, k < 64 → b < 4 →
          (tabGet byteD (t.vstore1 e r).scratch (vAddr e + r * vStride e + 4 * k + b)).toNat =
            (t.lane (vReg e 1 r) k).toNat / 256 ^ b % 256) ∧
        t.vstore1 e r = { t with regs := (t.vstore1 e r).regs, scratch := (t.vstore1 e r).scratch, scrBad := (t.vstore1 e r).scrBad, churn := (t.vstore1 e r).churn, skim := (t.vstore1 e r).skim } := by
  unfold Tile.vstore1
  generalize hbs : (t.lanes (vReg e 1 r)).flatMap (fun w => bytesOf 4 w.toNat) = bs
  have hll : (t.lanes (vReg e 1 r)).length = 64 := by simp [Tile.lanes]
  have hlen : bs.length = 256 := by rw [← hbs, flatMap4_length, hll]
  obtain ⟨rg, sc, sb, ch, sk, h1, h2, h3, h4⟩ := wrBytes_form t (vAddr e + r * vStride e) bs
  rw [h1]
  rw [hlen] at h3 h4
  refine ⟨h2 _ (by decide), fun h => (h4 h).1, rfl, h3, ?_, rfl⟩
  intro h k b hk hb
  have := (h4 h).2 (4 * k + b) (by omega)
  show (tabGet byteD sc (vAddr e + r * vStride e + 4 * k + b)).toNat = _
  rw [show vAddr e + r * vStride e + 4 * k + b = vAddr e + r * vStride e + (4 * k + b) by omega, this, ← hbs,
    flatMap4_getD _ _ _ (by rw [hll]; exact hk) hb]
  simp [Tile.lanes, hk]

theorem vop_step (t : Tile) (e : QEntry) (r : Nat) : t.vop1 e r = { t with vr := (t.vop1 e r).vr } ∧ ∀ v k, k < 64 → (t.vop1 e r).lane v k =
        if v = vReg e 0 r then vLane (vFunc e) (t.lane (vReg e 1 r) k) (t.lane (vReg e 2 r) k)
          (t.lane (vReg e 3 r) k) else t.lane v k := by
  refine ⟨rfl, fun v k hk => ?_⟩
  unfold Tile.vop1
  rw [setLanes_lane _ _ _ (by simp) _ _ hk]
  split
  · simp [hk]
  · rfl

theorem getD_zeros (n k : Nat) : (List.replicate n (0 : Word)).getD k 0 = 0 := by
  rw [List.getD_eq_getElem?_getD, List.getElem?_replicate]; split <;> rfl

theorem cons_zeros (a : Word) (k : Nat) : (a :: List.replicate 63 (0 : Word)).getD k 0 = if k = 0 then a else 0 := by
  cases k with
  | zero => rfl
  | succ k => rw [if_neg (by omega), List.getD_cons_succ, getD_zeros]

theorem vsum_step (t : Tile) (e : QEntry) (r : Nat) : t.vsum1 e r = { t with vr := (t.vsum1 e r).vr } ∧ ∀ v k, k < 64 → (t.vsum1 e r).lane v k =
        if v = vReg e 0 r then (if k = 0 then treeSum (if vFunc e = 0 then b32Add else vExtreme true)
          ((List.range 64).map (t.lane (vReg e 1 r))) else 0) else t.lane v k := by
  obtain ⟨a, ha⟩ : ∃ a, treeSum (if vFunc e = 0 then b32Add else vExtreme true) (t.lanes (vReg e 1 r)) = a := ⟨_, rfl⟩
  have h1 : t.vsum1 e r = t.setLanes (vReg e 0 r) (a :: List.replicate 63 0) := by unfold Tile.vsum1; rw [ha]
  rw [show (List.range 64).map (t.lane (vReg e 1 r)) = t.lanes (vReg e 1 r) from rfl, ha, h1]
  clear h1 ha
  refine ⟨setLanes_only _ _ _, fun v k hk => ?_⟩
  rw [setLanes_lane _ _ _ (by rw [List.length_cons, List.length_replicate]) _ _ hk, cons_zeros]

theorem vReject_form (x : Tile) (op : Nat) (e : QEntry) (l : List QEntry) (f : Tile → QEntry → Nat → Tile) (cyc : Nat) (hh : x.VecHead op e l)
    (hb : x.VecServed op e cyc) (hv : vCheck x e ≠ 0) :
    ∃ y, x.vectorCommand op f cyc = y.reject 1 0 (vCheck x e) ∧ x.RegsOnly y ∧ y.reg Reg.ladleFault = x.reg Reg.ladleFault := by
  obtain ⟨w, hrun, hw⟩ := vectorCommand_served x op e l f cyc hh hb
  have hwv : vCheck w e = vCheck x e := by rw [hw]; rfl
  have hxw : x.RegsOnly w := by rw [hw]; rfl
  rw [hrun]
  obtain ⟨y, hy⟩ : ∃ y, (if opc e == 0x24 && decide (cvRot (vCvt e) ≠ 0) then w.seedTake (cvSeed (vCvt e)) else w) = y := ⟨_, rfl⟩
  have key : w.RegsOnly y ∧ y.reg Reg.ladleFault = w.reg Reg.ladleFault ∧ vCheck y e = vCheck w e := by
    rw [← hy]
    clear hwv hxw hrun hw hy
    split
    · unfold Tile.seedTake
      split
      · rename_i hbad
        have hon := Tile.RegsOnly.setF w Reg.rennetSeedBusy (16 + cvSeed (vCvt e)) (16 + cvSeed (vCvt e)) 1
        have hf : (w.setF Reg.rennetSeedBusy (16 + cvSeed (vCvt e)) (16 + cvSeed (vCvt e)) 1).reg Reg.ladleFault = w.reg Reg.ladleFault := Tile.setF_reg_ne _ _ _ _ (by decide)
        have h1 : (w.setF Reg.rennetSeedBusy (16 + cvSeed (vCvt e)) (16 + cvSeed (vCvt e)) 1).patBad = w.patBad := by rw [hon]
        have h2 : (w.setF Reg.rennetSeedBusy (16 + cvSeed (vCvt e)) (16 + cvSeed (vCvt e)) 1).scratch = w.scratch := by rw [hon]
        generalize w.setF Reg.rennetSeedBusy (16 + cvSeed (vCvt e)) (16 + cvSeed (vCvt e)) 1 = y at hon hf h1 h2
        refine ⟨hon, hf, ?_⟩
        have hsf : y.seedFails (cvSeed (vCvt e)) = w.seedFails (cvSeed (vCvt e)) := by
          unfold Tile.seedFails; rw [h1, hbad]; simp
        have hc : vCvtBad y e = vCvtBad w e := by unfold vCvtBad; simp only [hsf]
        have hsc : scaleAt y (cvSdesc (vCvt e)) = scaleAt w (cvSdesc (vCvt e)) := by
          unfold scaleAt descWords Tile.rd32 Tile.rd8; rw [h2]
        have hr : vRangeBad y e = vRangeBad w e := by
          unfold vRangeBad vWrites; rw [hsc]
        unfold vCheck; rw [hc, hr]
      · exact ⟨.refl _, rfl, rfl⟩
    · exact ⟨.refl _, rfl, rfl⟩
  refine ⟨y, ?_, hxw.trans key.1, key.2.1.trans (by rw [hw]; rfl)⟩
  unfold Tile.vecRun
  simp only [hy, key.2.2, hwv]
  rw [if_pos hv]

theorem vCheck_lt (x : Tile) (e : QEntry) : vCheck x e < 65536 := by
  unfold vCheck; repeat' split
  all_goals decide

theorem vnarrow_step (t : Tile) (e : QEntry) (r : Nat) (sd : ScaleDesc) (xs : List XNum) (o : OutRow) (hsd : sd = scaleAt t (cvSdesc (vCvt e)))
    (hxs : xs = (List.range (vRegs e)).flatMap (fun i => (t.lanes ((ef e 0 21 17 + r * vRegs e + i * vStep e) % 32)).map b32Num))
    (ho : o = narrowRow (fmtOf (cvOfmt (vCvt e))) (vCvt e) (t.gen (vQsel e)) (if cvRot (vCvt e) = 0 then xs else
          (rotRow (cvFlush (vCvt e)) (cvInv (vCvt e)) (tabGet patternD t.patterns (cvSeed (vCvt e)))
            (rotBlock (cvRot (vCvt e))) xs).map Prod.fst)) :
    ∃ evs z z2, t.vnarrow1 e r = (if cvOscale (vCvt e) then z2 else z).rnEvents ((if cvOscale (vCvt e) then z2 else z).cmdSeq 1) evs ∧
      z = (t.setGen (vQsel e) o.gen).wrBytes (vAddr e + r * vStride e) (bytesOf (packedBytes (fmtOf (cvOfmt (vCvt e))) o.codes.length) (packCodes (fmtOf (cvOfmt (vCvt e))).bits o.codes)) ∧
      z2 = z.wrBytes (sd.oscBase + r * sd.oscPitch) (o.scales.map (BitVec.ofNat 8)) := by
  have hpre : (if cvRot (vCvt e) = 0 then xs.map (fun x => (x, ([] : List (Nat × Nat))))
    else rotRow (cvFlush (vCvt e)) (cvInv (vCvt e)) (tabGet patternD t.patterns (cvSeed (vCvt e))) (rotBlock (cvRot (vCvt e))) xs).map Prod.fst = (if cvRot (vCvt e) = 0 then xs else
          (rotRow (cvFlush (vCvt e)) (cvInv (vCvt e)) (tabGet patternD t.patterns (cvSeed (vCvt e)))
            (rotBlock (cvRot (vCvt e))) xs).map Prod.fst) := by
    split
    · rw [List.map_map]; exact List.map_id xs
    · rfl
  unfold Tile.vnarrow1
  simp only [← hxs, ← hsd, hpre, ← ho]
  exact ⟨_, _, _, rfl, rfl, rfl⟩

theorem vnarrow_facts (t : Tile) (e : QEntry) (r : Nat) (sd : ScaleDesc) (xs : List XNum) (o : OutRow) (hsd : sd = scaleAt t (cvSdesc (vCvt e)))
    (hxs : xs = (List.range (vRegs e)).flatMap (fun i => (t.lanes ((ef e 0 21 17 + r * vRegs e + i * vStep e) % 32)).map b32Num))
    (ho : o = narrowRow (fmtOf (cvOfmt (vCvt e))) (vCvt e) (t.gen (vQsel e)) (if cvRot (vCvt e) = 0 then xs else
          (rotRow (cvFlush (vCvt e)) (cvInv (vCvt e)) (tabGet patternD t.patterns (cvSeed (vCvt e)))
            (rotBlock (cvRot (vCvt e))) xs).map Prod.fst)) (y : Tile) (hy : y = t.vnarrow1 e r) :
    y.reg Reg.ladleFault = t.reg Reg.ladleFault ∧ (t.scrBad = [] → y.scrBad = []) ∧
    y.gen (vQsel e) = o.gen ∧ (∀ q, q ≠ vQsel e → y.gen q = t.gen q) ∧
        (t.scrBad = [] → cvOscale (vCvt e) = false → ∀ i, i < packedBytes (fmtOf (cvOfmt (vCvt e))) o.codes.length →
          (tabGet byteD y.scratch (vAddr e + r * vStride e + i)).toNat =
            packCodes (fmtOf (cvOfmt (vCvt e))).bits o.codes / 256 ^ i % 256) ∧
        (t.scrBad = [] → cvOscale (vCvt e) = true → ∀ i, i < o.scales.length →
          tabGet byteD y.scratch (sd.oscBase + r * sd.oscPitch + i) = BitVec.ofNat 8 (o.scales.getD i 0)) ∧
        (∀ a, (a < vAddr e + r * vStride e ∨ vAddr e + r * vStride e + packedBytes (fmtOf (cvOfmt (vCvt e))) o.codes.length ≤ a) →
          (cvOscale (vCvt e) = true → a < sd.oscBase + r * sd.oscPitch ∨ sd.oscBase + r * sd.oscPitch + o.scales.length ≤ a) →
          tabGet byteD y.scratch a = tabGet byteD t.scratch a) ∧
        y = { t with regs := y.regs, now := y.now, gens := y.gens, scratch := y.scratch, scrBad := y.scrBad, churn := y.churn, skim := y.skim } := by
  obtain ⟨evs, z, z2, h1, h2, h3⟩ := vnarrow_step t e r sd xs o hsd hxs ho
  clear hsd hxs ho
  rw [h1] at hy
  generalize hbs : bytesOf (packedBytes (fmtOf (cvOfmt (vCvt e))) o.codes.length) (packCodes (fmtOf (cvOfmt (vCvt e))).bits o.codes) = bs at h2
  have hbl : bs.length = packedBytes (fmtOf (cvOfmt (vCvt e))) o.codes.length := by rw [← hbs, bytesOf_length]
  generalize hss : o.scales.map (BitVec.ofNat 8) = ss at h3
  have hsl : ss.length = o.scales.length := by rw [← hss]; simp
  obtain ⟨g, hg⟩ : ∃ g, tabSet genD t.gens (vQsel e) o.gen = g := ⟨_, rfl⟩
  have hgs : tabGet genD g (vQsel e) = o.gen := by rw [← hg, tabGet_set_same]
  have hgn : ∀ q, q ≠ vQsel e → tabGet genD g q = tabGet genD t.gens q := fun q h => by rw [← hg, tabGet_set_ne _ _ _ h]
  obtain ⟨u, hu⟩ : ∃ u : Tile, u = { t with gens := g } := ⟨_, rfl⟩
  rw [Tile.setGen, hg, ← hu] at h2
  obtain ⟨rg, sc, sb, ch, sk, w1, w2, w3, w4⟩ := wrBytes_form u (vAddr e + r * vStride e) bs
  have hub : u.scrBad = t.scrBad := by rw [hu]
  have hus : u.scratch = t.scratch := by rw [hu]
  have hur : ∀ o, u.reg o = t.reg o := fun o => by rw [hu]; rfl
  rw [w1] at h2
  rw [hub] at w4
  rw [hus] at w3
  have fin : ∀ w : Tile, y = w.rnEvents (w.cmdSeq 1) evs → w.gens = g → w.reg Reg.ladleFault = t.reg Reg.ladleFault →
      w = { t with regs := w.regs, gens := w.gens, scratch := w.scratch, scrBad := w.scrBad, churn := w.churn, skim := w.skim } →
      y.reg Reg.ladleFault = t.reg Reg.ladleFault ∧ y.scrBad = w.scrBad ∧ y.scratch = w.scratch ∧ y.gens = g ∧
      y = { t with regs := y.regs, now := y.now, gens := y.gens, scratch := y.scratch, scrBad := y.scrBad, churn := y.churn, skim := y.skim } := by
    intro w hw hwg hwf hwt
    obtain ⟨rg, nw, e1, e2⟩ := rnEvents_form w (w.cmdSeq 1) evs
    rw [e1] at hw
    refine ⟨?_, by rw [hw], by rw [hw], by rw [hw]; exact hwg, ?_⟩
    · rw [hw]; rw [← hwf]; exact e2 _ (by decide)
    · rw [hw]
      generalize w.gens = a at *
      generalize w.scratch = b at *
      generalize w.scrBad = c at *
      generalize w.churn = d at *
      generalize w.skim = e' at *
      rw [hwt]
  by_cases hos : cvOscale (vCvt e) = true
  · simp only [hos, if_true] at hy
    obtain ⟨rg2, sc2, sb2, ch2, sk2, v1, v2, v3, v4⟩ := wrBytes_form z (sd.oscBase + r * sd.oscPitch) ss
    rw [v1] at h3
    have hz2g : z2.gens = g := by rw [h3, h2, hu]
    have hz2s : z2.scratch = sc2 := by rw [h3]
    have hz2b : z2.scrBad = sb2 := by rw [h3]
    have hzs : z.scratch = sc := by rw [h2]
    have hzb : z.scrBad = sb := by rw [h2]
    obtain ⟨f1, f2, f3, f4, f5⟩ := fin z2 hy hz2g (by
      rw [h3]; show tabGet tileRegD rg2 _ = _
      rw [v2 _ (by decide), h2]; show tabGet tileRegD rg _ = _
      rw [w2 _ (by decide), hur]) (by rw [h3, h2, hu])
    rw [hz2s] at f3; rw [hz2b] at f2; rw [hzs] at v3; rw [hzb] at v4
    refine ⟨f1, ?_, ?_, ?_, ?_, ?_, ?_, f5⟩
    · intro h; rw [f2]; exact (v4 (w4 h).1).1
    · unfold Tile.gen; rw [f4, hgs]
    · intro q hq; unfold Tile.gen; rw [f4, hgn q hq]
    · intro _ h; rw [hos] at h; cases h
    · intro h _ i hi
      rw [f3, (v4 (w4 h).1).2 i (by omega), ← hss]
      simp [hi]
    · intro a ha hb
      rw [f3, v3 a (by rw [hsl]; exact hb hos), w3 a (by rw [hbl]; exact ha)]
  · have hos' : cvOscale (vCvt e) = false := by simpa using hos
    simp only [hos', Bool.false_eq_true, if_false] at hy
    have hzg : z.gens = g := by rw [h2, hu]
    have hzs : z.scratch = sc := by rw [h2]
    have hzb : z.scrBad = sb := by rw [h2]
    obtain ⟨f1, f2, f3, f4, f5⟩ := fin z hy hzg (by
      rw [h2]; show tabGet tileRegD rg _ = _
      rw [w2 _ (by decide), hur]) (by rw [h2, hu])
    rw [hzs] at f3; rw [hzb] at f2
    refine ⟨f1, ?_, ?_, ?_, ?_, ?_, ?_, f5⟩
    · intro h; rw [f2]; exact (w4 h).1
    · unfold Tile.gen; rw [f4, hgs]
    · intro q hq; unfold Tile.gen; rw [f4, hgn q hq]
    · intro h _ i hi
      rw [f3, (w4 h).2 i (by omega), ← hbs, bytesOf_getD _ _ _ hi]
    · intro _ h; exact absurd h hos
    · intro a ha _
      rw [f3, w3 a (by rw [hbl]; exact ha)]

theorem reject_facts (y : Tile) (en code : Nat) (e : QEntry) (l : List QEntry) (h : y.queue en = e :: l) (hen : en < 4) :
    ∃ z, y.reject en 0 code = z ∧ z = { y with regs := z.regs, queues := z.queues, now := z.now } ∧ z.queue en = l ∧ z.f Reg.ladleFault 31 31 = 1 ∧
      z.f Reg.ladleFault (20 + en) (20 + en) = 1 ∧
      (y.f Reg.ladleFault 31 31 = 0 → z.f Reg.ladleFault 15 0 = code % 65536 ∧ z.f Reg.ladleFault 18 16 = en) := by
  have hq := takeCmd_queue y en e l h
  have hv : (y.takeCmd en 0).f Reg.ladleFault 31 31 = y.f Reg.ladleFault 31 31 := by
    unfold Tile.f; rw [takeCmd_reg _ _ _ _ (Ne.symm (cnt_ne en).1)]
  obtain ⟨rg, htk, -, -⟩ := takeCmd_form y en 0
  unfold Tile.reject
  simp only []
  generalize (y.takeCmd en 0).cmdSeq en = sq
  have htk' : ∃ qs, y.takeCmd en 0 = { y with regs := rg, queues := qs } := ⟨_, htk⟩
  clear htk
  obtain ⟨qs, htk⟩ := htk'
  generalize y.takeCmd en 0 = w at *
  have hro := Tile.recordFault_only w code en sq
  obtain ⟨f1, f2, f3, -⟩ := Tile.recordFault_facts w code en sq
  generalize w.recordFault code en sq = z at *
  have hzq : z.queues = w.queues := by rw [hro]
  refine ⟨z, rfl, ?_, ?_, f1, f2 hen, ?_⟩
  · rw [hzq]; rw [hro, htk]
  · unfold Tile.queue at hq ⊢; rw [hzq]; exact hq
  · intro h0
    obtain ⟨g1, g2, -⟩ := f3 (by rw [hv]; exact h0)
    exact ⟨g1, by rw [g2]; omega⟩

end Sys2Proof.Machine
end

