-- ==== Sys2Proof/WellFormed.lean ====
section
/-!
DEFINITION. WellFormed.lean: the operands a command may carry: tiles, partitions, pairs and ports that exist, and fields
within their widths. A command outside these ranges has no effect (Machine/Ops.lean, the operations' own guards).
-/

namespace Sys2Proof

/-- Ranges of the numbered things (R10, R230, R309, R330). -/
def okTile (t : Nat) : Bool := decide (t < 1152)
def okPart (n : Nat) : Bool := decide (n < 16)
def okPair (p : Nat) : Bool := decide (p < 17)
def okPort (p : Nat) : Bool := decide (p < 12)
def okGang (g : Nat) : Bool := decide (g < 4)

/-- An agent that exists. -/
def okAgent : Agent → Bool
  | .pf => true
  | .vf n => okPart n
  | .core t => okTile t
  | .service n => okPart n
  | .root => true

/-- An access that BAR0 or the local port takes (R419). -/
def okAccess (addr size : Nat) : Bool := (size == 4 || size == 8) && addr % size == 0

/-- The checks of each command. -/
def Instr.wellFormed (i : Instr) : Bool :=
  match i with
  | .registerWrite a addr size _ => okAgent a && okAccess addr size
  | .rcRead a addr size => okAgent a && okAccess addr size
  | .lowHalfRead a addr => okAgent a && okAccess addr 4
  | .matrixPass t g => okTile t && okGang g
  | .weightLoad t g => okTile t && okGang g
  | .modeChange t => okTile t
  | .matrixPassComplete t g => okTile t && okGang g
  | .drainRow t q => okTile t && okGang q
  | .rowLinkHold t g i0 _ _ => okTile t && okGang g && decide (i0 < 128)
  | .columnLinkRefuse t g j0 _ _ => okTile t && okGang g && decide (j0 < 128)
  | .seedExpansion a t n _ => okAgent a && okTile t && decide (n < 16)
  | .seedExpansionDone t n _ => okTile t && decide (n < 16)
  | .srSeedWrite a t _ => okAgent a && okTile t
  | .srReseedTake t q => okTile t && okGang q
  | .rennetPartClear a n _ => okAgent a && okPart n
  | .drainPush a t g _ => okAgent a && okTile t && okGang g
  | .queuePush a t queue _ => okAgent a && okTile t && decide (queue < 3)
  | .qOpcodeReject t e => okTile t && decide (e < 4)
  | .semWait t e => okTile t && decide (e < 4)
  | .semSignal t e => okTile t && decide (e < 4)
  | .semSignalArrive t sem _ => okTile t && decide (sem < 1024)
  | .barSync t e => okTile t && decide (e < 4)
  | .barArrive t e => okTile t && decide (e < 4)
  | .fence t e => okTile t && decide (e < 4)
  | .syncTimeout t e => okTile t && decide (e < 4)
  | .faultRecordClear a t _ => okAgent a && okTile t
  | .scalarInstruction t => okTile t
  | .ecall t => okTile t
  | .ebreak t => okTile t
  | .svcReqClear a t _ => okAgent a && okTile t
  | .qctlStopWrite a t _ => okAgent a && okTile t
  | .vload t => okTile t
  | .vstore t => okTile t
  | .vop t => okTile t
  | .vsum t => okTile t
  | .vnarrow t => okTile t
  | .copy t => okTile t
  | .gather t => okTile t
  | .scatter t => okTile t
  | .zero t => okTile t
  | .pailInv t => okTile t
  | .ladleTxnIssue t => okTile t
  | .fabTagTake => true
  | .ladleTxnComplete t _ => okTile t
  | .ladleFabricTimeout t _ => okTile t
  | .vatEntryStart c _ _ => okTile c
  | .vatRefresh c => okTile c
  | .vatLaneCal c _ => okTile c
  | .senseLineTest c raw => okTile c && raw.length == 64
  | .vatScrubRow c _ => okTile c
  | .scrubForce c => okTile c
  | .repairCopyRow c => okTile c
  | .pailModeWrite a n k _ => okAgent a && okPart n && decide (k < 18)
  | .pailZeroingDone k => decide (k < 18)
  | .pailSliceAccess t => okTile t
  | .pailFill t _ => okTile t
  | .invAll a t _ => okAgent a && okTile t
  | .invAllDone t => okTile t
  | .churnGo a t _ => okAgent a && okTile t
  | .churnJobStart t => okTile t
  | .churnJobFault t => okTile t
  | .churnJobComplete t => okTile t
  | .churnPartClear a n _ => okAgent a && okPart n
  | .stepStatsClear a n _ => okAgent a && okPart n
  | .skimGo a t _ => okAgent a && okTile t
  | .skimJobFault t => okTile t
  | .skimJobComplete t => okTile t
  | .skimPartClear a n _ => okAgent a && okPart n
  | .portEnable a p => okAgent a && okPort p
  | .portDisable a p => okAgent a && okPort p
  | .linkTrained p lanes _ => okPort p && decide (lanes < 16)
  | .trainTimeout p => okPort p
  | .trainRetry p => okPort p
  | .leadReq p => okPort p
  | .leadAck p => okPort p
  | .leadNak p => okPort p
  | .leadBackoffExpiry p => okPort p
  | .leadReqTimeout p => okPort p
  | .fabChipIdWrite a _ => okAgent a
  | .heartbeatSend p => okPort p
  | .heartbeatReceive p _ => okPort p
  | .heartbeatTimeout p => okPort p
  | .lossOfSignal p => okPort p
  | .downNotice p => okPort p
  | .linkRetrain p => okPort p
  | .flitReceive p _ _ => okPort p
  | .replayTimeout p => okPort p
  | .flitTransmit p vc _ => okPort p && decide (vc < 5)
  | .flitRoute p => okPort p
  | .ladlePacketArrive => true
  | .collPost a t _ => okAgent a && okTile t
  | .collContextGrant => true
  | .collSignature n g nb _ _ => okPart n && decide (g < 64) && decide (nb < 6)
  | .collCounts n g _ _ => okPart n && decide (g < 64)
  | .collFragment slot idx _ _ _ _ _ _ => decide (slot < 256) && decide (idx < 64)
  | .collGrant n g x => okPart n && decide (g < 64) && decide (x.nb < 6)
  | .collComplete n g => okPart n && decide (g < 64)
  | .collAbortNotice n g nb _ _ _ _ => okPart n && decide (g < 64) && decide (nb < 6)
  | .collEntryTimeout n g => okPart n && decide (g < 64)
  | .collProgressTimeout n g => okPart n && decide (g < 64)
  | .collAbortFinish n g => okPart n && decide (g < 64)
  | .bootGo a _ => okAgent a
  | .svcWindow core => decide (core < 4)
  | .svcWatchdog core => decide (core < 4)
  | .svcTrap core => decide (core < 4)
  | .svcRestart => true
  | .rootLockstep => true
  | .doorbell a p _ => okAgent a && okPair p
  | .requestTake p => okPair p
  | .rspHeadWrite a p _ => okAgent a && okPair p
  | .evtHeadWrite a p _ => okAgent a && okPair p
  | .hostVerWrite a p _ => okAgent a && okPair p
  | .ping p _ => okPair p
  | .getVersion p _ => okPair p
  | .getInfo p _ => okPair p
  | .logLevel p _ => okPair p
  | .traceCfg p _ => okPair p
  | .traceMark p _ => okPair p
  | .partCreate p _ => okPair p
  | .partDestroy p _ => okPair p
  | .partReset p _ => okPair p
  | .partResetTimeout n => okPart n
  | .partBroken n => okPart n
  | .windowSet p _ => okPair p
  | .keyLoad p _ => okPair p
  | .powerLimit p _ => okPair p
  | .budgetSource p _ => okPair p
  | .fabricSet p _ => okPair p
  | .portSet p _ => okPair p
  | .collCfg p _ => okPair p
  | .fwStage p _ => okPair p
  | .fwActivate p _ => okPair p
  | .nvRead p _ => okPair p
  | .deviceReset p _ => okPair p
  | .powerDown p _ => okPair p
  | .ctxCreate p _ => okPair p
  | .ctxDestroy p _ => okPair p
  | .queueCreate p _ => okPair p
  | .queueDestroy p _ => okPair p
  | .launch p _ => okPair p
  | .launchComplete n ctx => okPart n && decide (ctx < 32)
  | .ctxSave p _ => okPair p
  | .ctxRestore p _ => okPair p
  | .faultRead p _ => okPair p
  | .faultClear p _ => okPair p
  | .semSet p _ => okPair p
  | .stateExport p _ => okPair p
  | .stateImport p _ => okPair p
  | .ownerSet p _ => okPair p
  | .groupSet p _ => okPair p
  | .pailModeSet p _ => okPair p
  | .collCancel p _ => okPair p
  | .schedCfg p _ => okPair p
  | .telemetry p _ => okPair p
  | .schedSlice n => okPart n
  | .rotationPeriod n => okPart n
  | .logRepeatFlush _ _ _ => true
  | .vfFlr n => okPart n
  | .pfFlr => true
  | .bar2Read n off len => okPart n && decide (off + len ≤ 2 ^ 40)
  | .bar2Write n off data _ => okPart n && decide (off + data.length ≤ 2 ^ 40)
  | .inputTrip => true
  | .blockingSwitchOpen => true
  | .busLow => true
  | .busRecover => true
  | .vaonStart _ => true
  | .startup => true
  | .railGroupTimeout _ => true
  | .tileWaveStart w => decide (w < 36)
  | .startupZeroingDone k => decide (k < 18)
  | .railCalSlot _ _ _ _ => true
  | .meshFreqChange a _ => okAgent a
  | .meshClockSwitch => true
  | .railLoopTick t _ => okTile t
  | .slewLoopTick _ _ => true
  | .budgetLoopTick _ _ _ => true
  | .phaseMark a t _ => okAgent a && okTile t
  | .phaseMarkerApply n => okPart n
  | .budgetRampTick => true
  | .budgetPinPeriod _ _ _ => true
  | .budgetPinLoss => true
  | .budgetI3cLoss => true
  | .budgetHoldExpiry => true
  | .demandForget a n _ => okAgent a && okPart n
  | .dieTempRead t _ => okTile t
  | .vatTempRead t layers => okTile t && layers.length == 12
  | .thermalLoopTick t => okTile t
  | .coolingReading rs => decide (rs.length ≤ 12)
  | .sensorRetry _ => true
  | .sensorTimeout _ => true
  | .thermalCycleTick _ _ => true
  | .tcycRecordWrite _ => true
  | .oscReady => true
  | .oscTimeout => true
  | .refLoss ref => decide (ref < 2)
  | .refRestore ref => decide (ref < 2)
  | .timeTick => true
  | .timeSet a _ => okAgent a
  | .syncLoss => true
  | .resetAssert => true
  | .resetRelease => true
  | .perst => true
  | .pcieLinkDown _ _ => true
  | .dynamicAddress addr => decide (0 < addr) && decide (addr < 128)
  | .ident => true
  | .cause => true
  | .alert => true
  | .alertClr _ => true
  | .status => true
  | .input => true
  | .power => true
  | .temps => true
  | .budgetStat => true
  | .budget _ => true
  | .cool code => decide (0x20 ≤ code) && decide (code ≤ 0x23)
  | .tcyc => true
  | .time => true
  | .alertResponse => true
  | .sclTimeout => true
  | .uartFrame bits _ => bits.length == 9
  | .jtagInstruction _ => true
  | .tapReset => true
  | .telemetrySample => true
  | .partnerSignalDetect p => okPort p
  | .codewordDecode p _ => okPort p
  | .railGroupReady g => decide (1 ≤ g) && decide (g ≤ 52)
  | .vaonFall => true
  | .pcieLinkUp _ _ => true
  | .partResetZeroingDone n => okPart n
  | .meshChangeEnd => true
  | .coalesceExpiry p vec => okPair p && decide (vec < 2)
  | .collBarrierArrival n g _ => okPart n && decide (g < 64)

end Sys2Proof
end

