-- ==== Sys2Proof/Tests/Slice0.lean ====
section
/-!
SUPPORT. Tests/Slice0.lean: commands that WellFormed refuses, one for each check; states in which the hypotheses of the
statements hold, so that no statement is empty; and single steps on small states, with the values worked out from the
rules.
-/

namespace Sys2Proof.Tests

set_option Elab.async false

open Sys2Proof Sys2Proof.Machine

/-! ### WellFormed -/

theorem test_wf_tile : (Instr.matrixPass 1152 0).wellFormed = false ∧ (Instr.matrixPass 1151 3).wellFormed = true := by decide
theorem test_wf_gang : (Instr.matrixPass 0 4).wellFormed = false := by decide
theorem test_wf_agent : (Instr.churnGo (.vf 16) 0 1).wellFormed = false ∧ (Instr.churnGo (.core 1152) 0 1).wellFormed = false := by
  decide
theorem test_wf_access : (Instr.registerWrite .pf 0x40002 4 0).wellFormed = false ∧
    (Instr.registerWrite .pf 0x40004 8 0).wellFormed = false ∧ (Instr.registerWrite .pf 0x40004 2 0).wellFormed = false := by decide
theorem test_wf_seed_slot : (Instr.seedExpansion .pf 0 16 0).wellFormed = false := by decide
theorem test_wf_queue : (Instr.queuePush .pf 0 3 0).wellFormed = false := by decide
theorem test_wf_engine : (Instr.semWait 0 4).wellFormed = false := by decide
theorem test_wf_semaphore : (Instr.semSignalArrive 0 1024 1).wellFormed = false := by decide
theorem test_wf_partition : (Instr.rennetPartClear .pf 16 0).wellFormed = false := by decide
theorem test_wf_unit : (Instr.pailZeroingDone 18).wellFormed = false := by decide
theorem test_wf_port : (Instr.trainTimeout 12).wellFormed = false := by decide
theorem test_wf_vc : (Instr.flitTransmit 0 5 false).wellFormed = false := by decide

/-! ### Small states -/

/-- A device that has started: VCTL and every rail up, Root in STAGE 5, the mesh clock on, the host link up, and partition 0
ACTIVE on allocation unit 0 with its window set on a service core. -/
def up : State :=
  let s : State := { State.reset with
    power := { Power.reset with stage := .rom, resetLow := false, ready := 52, meshOn := true, oscReady := true, timeOn := true, pgood := true }
    fw := { Fw.reset with sets := [some 0, none, none, none] } }
  let pr (p : Pair) := (p.setF Reg.mbStatus 1 0 3)
  (((s.setF Reg.mbPcieStat 9 0 0x305).setPair 0 ((pr .reset).setF Reg.mbBootStatus 3 0 5)).setPair 1 (pr .reset)).setPart 0
    (Part.reset.setReg Reg.mbPartCfg 0x10000001)

/-- The same with the STOP bits of tile 0 cleared, and tile 0 changed. -/
def upT (f : Tile → Tile) : State := up.modTile 0 (fun x => f (x.setF Reg.ladleQctl 3 0 0))

/-- What holds of tile 0 in that state. -/
abbrev onT (f : Tile → Tile) (p : Tile → Prop) : Prop := p ((upT f).tile 0)

/-- A queue entry from its words. -/
def entry (l : List Word) : QEntry := l ++ List.replicate (8 - l.length) 0

/-- A pass of 4 tokens on 2 rows and 2 columns of gang 0 in mode FULL-independent 0, I4 weights, E4M3 activations, both
ACC_FIRST and ACC_LAST, its weights loaded with it. -/
def passE : QEntry := entry [0x01C44010, 0x02020004, 0, 64, 0x1000, 64, 0]

theorem witness_up : up.hostUp = true ∧ up.rootUp = true ∧ up.ownsTile 0 0 = true ∧ up.clocked 0 = true ∧
    up.tileOwner 0 = some 0 ∧ (up.svcCore 0).isSome = true ∧ up.vctlUp = true ∧ up.targetUp = true := by decide +kernel

/-! ### Hypotheses that hold: the matrix engine and the Rennet -/

/-- A started pass of gang 0 in mode 0, of 4 tokens and 2 columns, whose sums have all entered their links. -/
def passP : PassRec :=
  { qsel := 0, gang := 0, first := true, last := true, tCount := 4, nCols := 2, seq := 1, compat := false, setL := 0,
    setR := 0, cvt := 0x9, base := 0, pitch := 64, oscBase := 0, oscPitch := 0, pattern := 0, entry := passE, walk := [],
    scale := [], wsc := [], start := 0, pos := 0, beat := 0, takes := 0, wts := [], fed := [], toSwap := 0, toLink := 0,
    left := 0 }

/-- A drain of quarter q of 4 rows. -/
def drainQ (q nCols : Nat) (wide : Bool) (cvt : Word) : DrainJob :=
  { quarter := q, set := 0, col0 := if wide then 64 * (q % 2) else 0, wide := wide, gang := 0, qsel := 0, tCount := 4,
    nCols := nCols, row := 0, begun := false, seq := 1, cvt := cvt, base := 0, pitch := 1024, oscBase := 0, oscPitch := 0,
    pattern := 0 }

def withQ (e : Nat) (l : List QEntry) (x : Tile) : Tile := x.setQueue e l
def loadE : QEntry := entry [0x00444011, 0x02020004, 0, 64, 0x1000, 64, 0]
def badE : QEntry := entry [0x00444011, 0x02020004, 0, 64, 0x1000, 64, 0, 0x80000000]

theorem witness_pass : onT (fun x => withQ 0 [passE] { x with targets := [(0, [(0, 64)])] }) (fun x =>
    x.mxReady ∧ gangHead x.gang 0 0 (x.queue 0) = some (0, passE) ∧ opc passE = 0x10 ∧ x.startsNow 0 passE 0 ∧
    mxCheck x passE = 0 ∧ (x.scrReads (startReads x passE)).2 = false) ∧ mxLast passE = true := by decide +kernel

theorem witness_rejected_command : onT (withQ 0 [badE]) (fun x => x.mxReady ∧
    gangHead x.gang 0 0 (x.queue 0) = some (0, badE) ∧ x.startsNow 0 badE 0 ∧ mxCheck x badE = 0x211) := by decide +kernel

theorem witness_load : onT (withQ 0 [loadE]) (fun x => x.mxReady ∧
    gangHead x.gang 0 0 (x.queue 0) = some (0, loadE) ∧ opc loadE = 0x11 ∧ x.startsNow 0 loadE 0 ∧ mxCheck x loadE = 0) := by
  decide +kernel

theorem witness_mode_change : onT (fun x => withQ 0 [loadE] { x with gang := 3 }) (fun x => x.mxReady ∧
    x.queue 0 = [loadE] ∧ isMatrixOp (opc loadE) ∧ mxGang loadE ≠ x.gang ∧ mxWaits x loadE = false ∧ x.linksFed ∧
    mxCheck x loadE = 0) := by decide +kernel

/-- A sum at the head of a column link, of an opening pass and of a later one. -/
theorem witness_accumulate (first : Bool) : onT (fun x => { x with
      passes := [{ passP with first := first }]
      arr := { x.arr with cols := [(0, [⟨1, 0, 5, 0⟩])] } }) (fun x =>
    tabGet colD x.arr.cols 0 = [⟨1, 0, 5, 0⟩] ∧ x.passOf 1 = some { passP with first := first } ∧
    x.accTakes 10 0 0 { passP with first := first } ⟨1, 0, 5, 0⟩) := by cases first <;> decide +kernel

theorem witness_pass_complete : onT (fun x => { x with passes := [passP] }) (fun x => x.passEnds 0 = some passP) := by
  decide +kernel

def streamP : Stream := { gang := 0, m16 := false, start := 0, next := 4, holds := [] }

theorem witness_row_hold : onT (fun x => { x with streams := [(0, some streamP)], passes := [passP] }) (fun x =>
    tabGet streamD x.streams 0 = some streamP ∧ 0 < gangRows 0 ∧ tabGet linkD x.arr.rows (rowKey 0 0 0) = [] ∧
    ∃ p ∈ x.passes, p.qsel = 0 ∧ 0 < mxK p.entry ∧ p.pos ≤ 3 ∧ 3 < p.pos + p.tCount) := by decide +kernel

theorem witness_column_refusal : onT (fun x => { x with
      streams := [(0, some streamP)]
      arr := { x.arr with cols := [(1, List.replicate 8 ⟨1, 0, 5, 0⟩)] } }) (fun x =>
    tabGet streamD x.streams 0 = some streamP ∧ 1 < gangCols 0 ∧
    8 ≤ (tabGet colD x.arr.cols (colKey 0 0 1)).length) := by decide +kernel

theorem witness_drain_row : onT (fun x => { x with drains := [drainQ 0 2 false 9] }) (fun x =>
    x.drainHead 0 = some (drainQ 0 2 false 9) ∧ (drainQ 0 2 false 9).owes x = false ∧
    x.banksFree 0 2 (drainQ 0 2 false 9).spans) ∧ cvOfmt 9 = 9 ∧
    onT (fun x => { x with drains := [{ drainQ 1 2 true 9 with tCount := 0 }] }) (fun x => x.drainHead 1 =
      some { drainQ 1 2 true 9 with tCount := 0 }) := by decide +kernel

/-- Both quarters of a 128-column gang with ROT = 2 and a 4-bit result. -/
theorem witness_wide_drain : onT (fun x => { x with drains := [drainQ 0 128 true 0x82, drainQ 1 128 true 0x82] }) (fun x =>
    x.drainHead 0 = some (drainQ 0 128 true 0x82) ∧ x.drainHead 1 = some (drainQ 1 128 true 0x82) ∧ cvRot 0x82 = 2 ∧
    (drainQ 0 128 true 0x82).owes x = false ∧
    x.banksFree 0 2 ((drainQ 0 128 true 0x82).spans ++ (drainQ 1 128 true 0x82).spans)) := by decide +kernel

theorem witness_seeds : onT (fun x => { x with expanding := [(15, some 7)] }) (fun x =>
      tabGet expandD x.expanding 15 = some 7) ∧
    onT (fun x => { x with reseed := 8 }) (fun x => bit x.reseed 3 ∧ x.drainBusy 3 = false) ∧
    onT (fun x => { x with drains := [drainQ 3 2 false 9] }) (fun x => (x.drainHead 3).isSome ∧
      (x.drainHead 0).isSome = false) := by decide +kernel

/-! ### Queues, synchronisation, the scalar core, the vector unit -/

theorem witness_push_full : onT (fun x => { x with targets := [(3, List.replicate 4 (0, 0))] }) (fun x =>
      4 ≤ (tabGet targetsD x.targets 3).length ∧ (tabGet targetsD x.targets 0).length < 4 ∧ tabGet natD x.now.bar0 11 = 0) ∧
    onT (withQ 3 (List.replicate 64 [])) (fun x => queueSize 2 ≤ (x.queue 3).length ∧ (x.queue 0).length < queueSize 0) ∧
    onT (fun x => { x with now := { x.now with bar0 := [(0, 1), (8, 1)] } }) (fun x => tabGet natD x.now.bar0 0 ≠ 0 ∧
      tabGet natD x.now.bar0 8 ≠ 0) := by decide +kernel

theorem witness_opcode_reject : onT (withQ 3 [entry [0x10]]) (fun x => x.runs 3 ∧ tabGet waitD x.waits 3 = none ∧
    x.issuing = none ∧ x.churn = none ∧ x.queue 3 = [entry [0x10]] ∧ accepts 3 (opc (entry [0x10])) = false ∧
    x.f Reg.ladleFault 31 31 = 0) := by decide +kernel

/-- A held wait of engine e: SEM_WAIT of one on semaphore 1023, SEM_SIGNAL, BAR_SYNC on barrier 63, FENCE with scope SYSTEM. -/
def held (w0 w1 : Word) (arrived : Bool) : Wait := ⟨w0, w1, 0, 1, arrived, 0, 0⟩
def withWait (e : Nat) (w : Wait) (x : Tile) : Tile := { x with waits := [(e, some w)] }
def semWaitW : Wait := held 0x0007FF50 0 false
def semSignalW : Wait := held 0x0007FF51 0 false
def remoteW : Wait := held 0x0407FF51 1151 false
def barW (arrived : Bool) : Wait := held 0x00003F52 0 arrived
def barArriveW : Wait := held 0x00003F53 0 false
def fenceW : Wait := held 0x00000254 0 false

theorem witness_sync_timeout : onT (withWait 0 semWaitW) (fun x => tabGet waitD x.waits 0 = some semWaitW ∧
      fld semWaitW.w0 7 0 = 0x50 ∧ x.sem (fld semWaitW.w0 17 8) < fld semWaitW.w0 25 18 ∧ semWaitW.limit ≠ 0 ∧
      semWaitW.limit * 1024 < cycDiff 1025 semWaitW.start ∧ x.stopped 0 = false ∧ x.f Reg.ladleFault 31 31 = 0) ∧
    fld (barW false).w0 7 0 = 0x52 ∧ (barW false).arrived = false := by decide +kernel

theorem witness_fault_clear : up.rootUp = true ∧ up.fw.down = false ∧ (up.svcCore 0).isSome = true ∧
    onT (fun x => x.setF Reg.ladleFault 31 31 1) (fun x => x.now.fault = false ∧ x.f Reg.ladleFault 31 31 = 1 ∧ x.churn = none) ∧
    bit 0x80000000#32 31 = true := by decide +kernel

/-- FENCE, and a SEM_SIGNAL with N = 0, at the head of engine 1's queue. -/
theorem witness_sync_start : onT (withQ 1 [entry [0x254]]) (fun x => x.mayStartSync 1 0 ∧ x.queue 1 = [entry [0x254]] ∧
      opc (entry [0x254]) = 0x54) ∧ up.syncCheck 0 0x254 0 ((entry [0x254]).drop 2) = 0 ∧
    onT (withQ 1 [entry [0x51]]) (fun x => x.mayStartSync 1 0) ∧ up.syncCheck 0 0x51 0 ((entry [0x51]).drop 2) = 0x244 := by
  decide +kernel

theorem witness_semaphores : onT (withWait 1 semWaitW) (fun x => x.sem (fld semWaitW.w0 17 8) < fld semWaitW.w0 25 18 ∧
      x.stopped 1 = false) ∧
    onT (fun x => withWait 1 semWaitW (x.setReg (Reg.ladleSem + 4 * 1023) 1)) (fun x => fld semWaitW.w0 25 18 ≤ x.sem 1023) ∧
    onT (withWait 1 semSignalW) (fun x => x.aheadDone 1 ∧ bit semSignalW.w0 26 = false ∧ x.sem 1023 + 1 ≤ 0xFFFF) ∧
    onT (fun x => withWait 1 semSignalW (x.setReg (Reg.ladleSem + 4 * 1023) 0xFFFF)) (fun x =>
      0xFFFF < x.sem 1023 + 1 ∧ 1023 ∉ x.now.sems ∧ x.f Reg.ladleFault 31 31 = 0) ∧
    onT (fun x => withWait 2 semSignalW { x with sbuf := [⟨0, 4, 0⟩] }) (fun x => x.aheadDone 2 = false) ∧
    bit remoteW.w0 26 = true := by decide +kernel

theorem witness_signal_arrive : ({ up with signals := [⟨0, 1, 1151, 1023, 2, 0⟩] } : State).signals.filter (fun g =>
    g.tile == 1151 && g.sem == 1023 && g.arrived 1000) = [⟨0, 1, 1151, 1023, 2, 0⟩] := by decide +kernel

/-- A barrier with COUNT = 2 in partition 0. -/
def barS (a : Nat) : Part := ((up.part 0).setF (Reg.collBarCfg + 8 * 63) 12 0 2).setF (Reg.collBarState + 8 * 63) 12 0 a

theorem witness_barrier : onT (withWait 1 (barW false)) (fun x => tabGet waitD x.waits 1 = some (barW false) ∧
      fld (barW false).w0 7 0 = 0x52 ∧ x.stopped 1 = false ∧ x.aheadDone 1) ∧ fld barArriveW.w0 7 0 = 0x53 ∧
    up.tileOwner 0 = some 0 ∧ fld (barW false).w0 13 8 = 63 ∧ (barS 0).barCount 63 = 2 ∧
    (barS 1).barCount 63 ≤ (barS 1).f (Reg.collBarState + 8 * 63) 12 0 + 1 ∧
    (barS 0).f (Reg.collBarState + 8 * 63) 12 0 + 1 < (barS 0).barCount 63 ∧
    (barW true).gen < tabGet natD ({ barS 0 with barGen := [(63, 1)] } : Part).barGen 63 ∧
    ¬(barW true).gen < tabGet natD (barS 0).barGen 63 := by decide +kernel

theorem witness_fence : onT (withWait 3 fenceW) (fun x => x.aheadDone 3 ∧ 2 ≤ fld fenceW.w0 9 8 ∧ x.stopped 3 = false) ∧
    (∀ g ∈ up.signals, g.src ≠ 0 ∨ g.engine ≠ 3) ∧ (∀ g ∈ up.ingressQ, fenceW.ingress ≤ g.id) ∧ up.arrivals = [] ∧
    onT (fun x => withWait 3 fenceW { x with issuing := some ⟨entry [0x40], 1, 0, 0, 0, 0⟩ }) (fun x => x.aheadDone 3 = false) := by
  decide +kernel

/-- A core whose instruction at 0 is the given word. -/
def core (w : Nat) (x : Tile) : Tile := ({ x with fresh := false, pc := 0 } : Tile).wrBytes 0 (bytesOf 4 w)

theorem witness_ecall (w : Word) (h : w = 0x73 ∨ w = 0x100073) : onT (core w.toNat) (fun x => x.scReady ∧
    x.pc.toNat + 4 ≤ scratchSize ∧ x.pc.toNat % 4 = 0 ∧ (x.scrReads [(x.pc.toNat, 4)]).2 = false ∧ x.inScr = [] ∧
    x.banksFree 0 7 x.scReads ∧ BitVec.ofNat 32 (x.rd32 x.pc.toNat) = w ∧ tabGet wordD x.xr 10 = 0) ∧
    up.launchOf 0 = none := by rcases h with rfl | rfl <;> decide +kernel

theorem witness_qctl : onT (core 0) (fun x => x.fresh = false) := by decide +kernel

/-- ADDI x1, x0, 5; JAL x1, +8; BEQ x0, x0, +8; LW x1, 8(x0); SW x1, 8(x0); and a word that is no instruction. -/
theorem witness_scalar : onT (core 0x00500093) (fun x => scDecode x 0 0x00500093 = .alu 1 5) ∧
    onT (core 0x008000EF) (fun x => scDecode x 0 0x008000EF = .jump 1 8) ∧
    onT (core 0x00000463) (fun x => scDecode x 0 0x00000463 = .branch true 8) ∧
    onT (core 0x00802083) (fun x => scDecode x 0 0x00802083 = .load 1 8 4 true ∧ (x.scrReads [(8, 4)]).2 = false ∧
      x.banksFree 0 7 x.scReads) ∧
    onT (core 0x00102423) (fun x => scDecode x 0 0x00102423 = .store 8 4 0 ∧ x.sbuf.length < 4) ∧
    onT (core 0) (fun x => scDecode x 0 0 = .illegal) := by decide +kernel

/-- Vector commands with VD = v31, one repetition, at scratch 0x9FF00. -/
def vecE (op : Word) : QEntry := entry [op + 0x1F000, 1, 0x9FF00, 0, 0x8]

theorem witness_vector (op : Nat) (h : op ∈ [0x20, 0x21, 0x22, 0x23]) : ∀ e, e = vecE (BitVec.ofNat 32 op) →
    onT (withQ 1 [e]) (fun x => x.vecReady ∧ x.queue 1 = [e] ∧ opc e = op ∧ vWaits x e = false ∧ x.inScr = [] ∧
      x.banksFree 0 5 (vSpans x e).2 ∧ x.banksFree 0 5 (vSpans x e).1 ∧ vCheck x e = 0 ∧
      (x.scrReads (vReads e)).2 = false) := by
  rintro e rfl
  fin_cases h <;> decide +kernel

theorem witness_vnarrow : ∀ e, e = entry [0x24, 1, 0x9FF00, 0, 0, 0, 4] → onT (withQ 1 [e]) (fun x => x.vecReady ∧
      vWaits x e = false ∧ x.banksFree 0 2 (vSpans x e).2 ∧ x.banksFree 0 5 (vSpans x e).1 ∧ vCheck x e = 0 ∧ x.scrBad = [] ∧
      (x.scrReads (vReads e)).2 = false) ∧ onT (withQ 1 [vecE 0xF22]) (fun x =>
      x.vecReady ∧ opc (vecE 0xF22) = 0x22 ∧ vWaits x (vecE 0xF22) = false ∧ vCheck x (vecE 0xF22) = 0x230) := by
  rintro e rfl
  decide +kernel

/-! ### Ladle, Vat, Pail, Churn, Skimmer -/

/-- A COPY of 1 row of 128 bytes from scratch 0x9FF80 of tile 63, its reads inside the partition; and a COPY with no rows. -/
def copyE : QEntry := entry [0x240, 0, 63, 0x9FF80, 128, 1, 0, 0]
def run1 : LadleRun := ⟨copyE, 1, 0, 0, 0, 0⟩

theorem witness_ladle : onT (withQ 3 [copyE]) (fun x => x.runs 3 ∧ x.issuing = none ∧ tabGet waitD x.waits 3 = none ∧
      x.queue 3 = [copyE] ∧ opc copyE = 0x40) ∧ (upT (withQ 3 [copyE])).ladleCheck 0 copyE = 0 ∧
    up.ladleCheck 0 (entry [0x240]) = 0x220 ∧ up.ladleCheck 0 (entry [0x240, 0, 64, 0x9FF80, 128, 1, 0, 0]) = 0x224 := by
  decide +kernel

theorem witness_ladle_issue : ∀ s, s = upT (fun x => { x with issuing := some run1 }) → s.clocked 0 ∧ s.maySend 0 ∧
    (s.tile 0).stopped 3 = false ∧ ldIndexed copyE = false ∧ opc copyE ≠ 0x44 ∧ (s.tile 0).now.issued = false ∧
    s.issueWaits 0 (!(ldGlobal copyE && ldDir copyE == 0)) (.scratch 63 0) = false ∧
    (s.tile 0).banksFree s.cyc 3 [(0x9FF80, 64)] ∧ ((s.tile 0).scrReads [(0x9FF80, 64)]).2 = false := by
  rintro s rfl
  decide +kernel

def txn (write : Bool) (g : TxnTarget) (phase : TxnPhase) : Txn :=
  ⟨7, 1, write, g, 64, 64, List.replicate 64 1, phase, 0, [], false, 0, none, 0, 0⟩

theorem witness_fab_tag : ∀ s, s = { upT (fun x => { x with txns := [txn true (.fabric (2 ^ 40)) .tagWait] }) with
      tagQ := [(0, 7)] } → s.meshUp ∧ s.allCtxs = [] ∧ s.tags.length < 20480 ∧
    s.ladleTags < 20480 - s.f Reg.fabTagCfg 14 0 ∧
    (s.tile 0).txns.find? (fun y => y.id == 7) = some (txn true (.fabric (2 ^ 40)) .tagWait) := by
  rintro s rfl
  decide +kernel

theorem witness_txn_complete : onT (fun x => { x with
      txns := [txn false (.vat 0) .back, txn true (.vat 0) .back, txn true (.scratch 0 128) .back] }) (fun x =>
      x.txns[0]? = some (txn false (.vat 0) .back) ∧ x.banksFree 0 3 [(64, 64)] ∧ x.issuing = none ∧
      x.txns[1]? = some (txn true (.vat 0) .back) ∧ x.txns[2]? = some (txn true (.scratch 0 128) .back) ∧
      x.banksFree 0 3 [(128, 64)]) ∧
    onT (fun x => { x with now := { x.now with line := [(1, 100)] } }) (fun x => x.banksFree 0 3 [(64, 64)] = false) ∧
    onT (fun x => { x with inScr := [⟨5, 9, 0, [1]⟩] }) (fun x => x.inScr = [⟨5, 9, 0, [1]⟩] ∧ x.banksFree 0 4 [(0, 1)]) ∧
    onT (fun x => { x with txns := [{ txn false (.vat 0) .back with bad := [0] }] }) (fun x =>
      x.txns[0]?.any (fun y => y.bad != [] && x.banksFree 0 3 (y.ownSpans 0))) := by decide +kernel

theorem witness_fabric_timeout : ∀ s, s = { upT (fun x => { x with txns := [{ txn true (.fabric (2 ^ 40)) .sent with tag := some 20479 }] }) with
      timeAcc := 50000 * 2 ^ 32 } → slotClass 0 (.fabric (2 ^ 40)) = 2 ∧ ({ txn true (.fabric (2 ^ 40)) .sent with tag := some 20479 } : Txn).answered = false ∧
    0 + 50000 ≤ s.engineTime ∧ (s.tile 0).f Reg.ladleFault 31 31 = 0 := by
  rintro s rfl
  decide +kernel

/-- A column of tile 1151 that has started, with a full-sector write and a read of tile 3's Ladle behind it. -/
def colQ (write : Bool) (src : Requester) : VatEntry :=
  ⟨1151 * 2 ^ 23 + 1, write, 0, if write then List.replicate 32 1 else [], List.replicate 32 0, src, 0, 32, 0, false⟩
def withCol (f : Column → Column) (x : Tile) : Tile := ({ x with col := f x.col } : Tile).setF Reg.vatStatus 2 2 1
def colS (f : Column → Column) : State := up.modTile 1151 (withCol f)

theorem witness_vat : ∀ w, ∀ s, s = colS (fun c => { c with queue := [colQ w (.ladle 3 7)] }) →
    (s.tile 1151).f Reg.vatStatus 2 2 = 1 ∧ (s.tile 1151).forcedScrub = false ∧ (s.tile 1151).col.waitQ = [] ∧
    (s.tile 1151).col.choose [0] = some 0 ∧ (s.tile 1151).col.queue[0]? = some (colQ w (.ladle 3 7)) ∧
    tabGet errD (s.tile 1151).col.errs (1 % colSectors) = .clean := by
  rintro w s rfl
  cases w <;> decide +kernel

theorem witness_vat_age : (∀ q, q = ({ Column.reset with queue := [colQ true .agent, { colQ false .agent with
      sector := 2, passed := 64 }] } : Column) → q.choose [0, 1] = some 1) ∧
    (∀ q, q = ({ Column.reset with queue := [colQ true .agent, { colQ false .agent with sector := 2 }] } : Column) →
      q.choose [0, 1] = some 0) := by
  refine ⟨?_, ?_⟩ <;> rintro q rfl <;> decide +kernel

def sig4 : Signature4 := ⟨0, 0, 1, 0, 0, [1, 2], true⟩
def rep1 : Repair := ⟨true, 0, 0, 1, 0, 0, 0, 8190⟩

theorem witness_upkeep : ∀ s, s = (colS (fun c => { c with sigs := [sig4], copying := some rep1, scrubDue := true })).modTile 1151
      (fun x => x.setF Reg.vatScrubCfg 31 31 1) → (s.tile 1151).f Reg.vatStatus 2 2 = 1 ∧
    (s.tile 1151).f Reg.vatScrubCfg 31 31 = 1 ∧ (s.tile 1151).col.scrubDue ∧
    (s.tile 1151).col.sigs.find? (·.due) = some sig4 ∧ (s.tile 1151).col.copying = some rep1 := by
  rintro s rfl
  decide +kernel

/-- Partition 0 with its Ladles stopped. -/
def quiet : State := { up with tiles := (List.range 64).map (fun t => (t, (up.tile t).setF Reg.ladleQctl 3 0 15)) }

theorem witness_pail_mode : quiet.ownsUnit 0 0 ∧ quiet.pailQuiet 0 0 ∧ up.ownsUnit 0 1 = false ∧
    (upT id).pailQuiet 0 0 = false ∧ quiet.hostUp ∧ (quiet.part 0).f Reg.pailMode 1 0 = 0 ∧ fld 3#32 1 0 = 3 ∧
    bit 3#32 31 = false := by decide +kernel

theorem witness_zeroing_done : ∀ s, s = { up with zeroing := [(17, some ⟨3, 0⟩)], chip := up.chip } →
    tabGet zeroingD s.zeroing 17 = some ⟨3, 0⟩ ∧ zeroingCycles 3 ≤ cycDiff 28672 0 ∧ s.allCtxs = [] := by
  rintro s rfl
  decide +kernel

def pailR : PailReq := ⟨pailBase + 64, true, [1, 2], 2, .ladle 3 7, 0⟩

theorem witness_slice : ∀ s, s = up.modTile 0 (fun x => { x with sliceQ := [{ pailR with addr := pailBase }] }) → s.meshUp ∧
    pailTile pailBase = 0 ∧ s.sliceNext (s.tile 0).sliceQ = some 0 ∧ (s.tile 0).pailBad = [] ∧ (s.tile 0).now.slice = false ∧
    (s.tile 0).fills = [] := by
  rintro s rfl
  decide +kernel

theorem witness_fill : ∀ s, s = up.modTile 0 (fun x => { x with fills := [⟨5, List.replicate 32 1, true, 0⟩] }) → s.meshUp ∧
    (s.tile 0).fills[0]? = some ⟨5, List.replicate 32 1, true, 0⟩ ∧ s.cacheWaits 0 = false ∧
    s.sliceBefore (s.tile 0).sliceQ s.cyc 0 = false := by
  rintro s rfl
  decide +kernel

theorem witness_inv_all : bit 0x100#32 8 = true ∧ onT (fun x => x.setF Reg.pailCtl 9 9 1) (fun x => x.f Reg.pailCtl 9 9 = 1) ∧
    4096 ≤ cycDiff 4096 0 := by decide +kernel

theorem witness_churn_go : onT id (fun x => x.f Reg.churnStatus 0 0 = 0) ∧
    onT (fun x => x.setF Reg.churnStatus 0 0 1) (fun x => x.f Reg.churnStatus 0 0 = 1) ∧ bit 1#32 0 = true ∧
    up.ownsTile 0 0 ∧ up.clocked 0 := by decide +kernel

/-- A job whose descriptor at 64 asks for an ORTHO step on a 64 × 64 shard. -/
def jobW : List Word := [0x00000080, 0x00400040, 0x10000, 0x20000, 0x30000, 0x40000, 0, 0, 0, 0, 0, 0, 0, 0, 0, 0]
def job (begun : Bool) : Job := ⟨64, 0, 0, 0, 0, 0, true, begun, false, if begun then jobW else [], none, []⟩
def churnT (begun : Bool) (bad : Tab Nat) (w : List Word) (x : Tile) : Tile :=
  { (({ x with churn := some (job begun) } : Tile).wrBytes 64 (w.flatMap (fun v => bytesOf 4 v.toNat))) with
    churn := some (job begun), scrBad := bad }

theorem witness_churn_start : onT (churnT false [] jobW) (fun x => x.churn = some (job false) ∧ x.churnMayRead ∧
      (x.scrReads [(64, 64)]).2 = false ∧ x.f Reg.ladleFault 31 31 = 0 ∧
      ∀ y, y = (x.takeOwed.scrReads [(64, 64)]).1 → y.churnCheck (job false) = 0) ∧
    onT (churnT false [] [0]) (fun x => (x.takeOwed.scrReads [(64, 64)]).1.churnCheck (job false) ≠ 0) ∧
    onT (churnT false [(8, 2)] jobW) (fun x => (x.scrReads [(64, 64)]).2 = true) := by
  refine ⟨⟨by decide +kernel, by decide +kernel, by decide +kernel, by decide +kernel, ?_⟩, by decide +kernel, by decide +kernel⟩
  rintro y rfl
  decide +kernel

theorem witness_churn_run : onT (churnT true [] jobW) (fun x => (x.scrReads ((job true).d.reads 64)).2 = false) ∧
    onT (churnT true [(8, 2)] jobW) (fun x => (x.scrReads ((job true).d.reads 64)).2 = true) := by decide +kernel

/-- A Skimmer job of one block: SIGN, binary32 gradient, Whey at the start of the tile's column. -/
def skimW : List Word := [0x00000081, 1, 0x400, 0x1000, 0, 0, 0, 0]
def skimT (x : Tile) : Tile :=
  (x.wrBytes 0 (skimW.flatMap (fun v => bytesOf 4 v.toNat)))
def winP (p : Part) : Part := p.setWindow 0 0 (2 ^ 16) 0x3F 0

theorem witness_skim : ((upT skimT).modPart 0 winP).skimCheck 0 = 0 ∧ (upT id).skimCheck 0 = 0x280 ∧
    onT skimT (fun x => (x.scrReads [(x.f Reg.skimDesc 19 0, 32)]).2 = false ∧ x.f Reg.skimStatus 0 0 = 0 ∧
      x.banksFree 0 6 (SkimJob.lastSpans ⟨0, skimW, 0, [], []⟩)) ∧
    onT (fun x => x.setF Reg.skimStatus 0 0 1) (fun x => x.f Reg.skimStatus 0 0 = 1) := by decide +kernel

/-! ### Fabric -/

/-- Port p in a state of Table 9.8 (0 DISABLED, 1 TRAINING, 2 UP, 4 DOWN, 5 FAILED), changed. -/
def portS (p st : Nat) (f : Port → Port) : State := up.modPort p (fun x => f (x.setF Reg.fabPortStatus 2 0 st))

theorem witness_ports : up.fabricUp ∧ up.rootUp ∧ ((portS 11 0 id).port 11).st = 0 := by decide +kernel
theorem witness_port_states : ((portS 11 0 id).port 11).en = false ∧
    (∀ x, x = (portS 11 4 (·.setF Reg.fabPortCtl 0 0 1)).port 11 → x.st = 4 ∧ x.en) ∧
    (∀ x, x = (portS 11 1 (fun x => { x with seen := true })).port 11 → x.st = 1 ∧ x.seen ∧ x.retry = false) ∧
    (∀ x, x = (portS 11 1 (fun x => { x with retry := true })).port 11 → x.st = 1 ∧ x.retry) ∧
    ((portS 11 5 id).port 11).st = 5 ∧ State.fabricUp { up with power := { up.power with ready := 3 } } = false := by
  refine ⟨by decide +kernel, ?_, ?_, ?_, by decide +kernel, by decide +kernel⟩ <;> rintro x rfl <;> decide +kernel

/-- A chip at (0, 0, 0) of a 2 × 1 × 1 torus, whose port 0 trains with the chip at (1, 0, 0). -/
def trainS (deg : Bool) : State := (portS 0 1 (fun x => { x with want := if deg then 3 else 0 })).setReg Reg.fabDims 0x00010102
def partner : PartnerInfo := ⟨2 ^ 12, 2, 0x00010102, 3, false⟩

theorem witness_link_trained : ∀ s, s = trainS true → (s.port 0).st = 1 ∧ (s.port 0).retry = false ∧
    (s.port 0).width 15 = 4 ∧ (s.port 0).degradeOk ∧ (s.port 0).width 12 = 2 ∧ (s.port 0).width 6 = 0 ∧
    ((trainS false).port 0).width 3 = 0 ∧ s.identityOk 0 partner ∧ s.identityOk 0 { partner with port := 1 } = false := by
  rintro s rfl
  decide +kernel

def flit (typ seq dest : Nat) (b : FlitBody) : Flit := ⟨typ, seq, 4095, 1, false, false, 0, false, false, dest, 0, 0, 0, 0, b⟩

theorem witness_link_up : ∀ x, x = (portS 0 2 (fun x => { x with uncorr := 7, replays := 16, replay := [flit 0 0 1 .empty] })).port 0 →
    x.isUp ∧ x.alive + 2250 ≤ 2250 ∧ 7 ≤ x.uncorr ∧ 16 ≤ x.replays ∧ x.replay ≠ [] := by
  rintro x rfl
  decide +kernel

theorem witness_roles : (∀ s, s = portS 0 2 (fun x => ({ x with asking := true, backoff := some 64 } : Port).setF Reg.fabPortStatus 4 3 2) →
      (s.port 0).isUp ∧ (s.port 0).asking ∧ (s.port 0).backoff = some 64 ∧ s.wantsLead 0 = false) ∧
    (∀ s, s = portS 0 2 (fun x => ({ x with backoff := some 1 } : Port).setF Reg.fabPortStatus 4 3 2) →
      (s.port 0).asking = false ∧ (s.port 0).pendRole = 0) := by
  refine ⟨?_, ?_⟩ <;> rintro s rfl <;> decide +kernel

theorem witness_chip_id : up.rootUp ∧ up.fabricQuiet ∧ fld 0x3FFFF#32 17 0 ≠ up.chipId ∧ (portS 0 2 id).fabricQuiet = false := by
  decide +kernel

theorem witness_flits : (∀ x, x = (portS 0 2 (fun x => { x with txq := [flit 0 0 1 .empty], rxq := [flit 0 0 0 (.packets [])] })).port 0 →
      ∀ a, a = (portS 0 2 id).arb 0 → x.pickVc a 1 = some 1 ∧ x.maySend 1 false ∧ x.waiting 1 false = some 0 ∧
        x.txq[0]? = some (flit 0 0 1 .empty) ∧ x.rxq = [flit 0 0 0 (.packets [])]) ∧
    (∀ x, x = (portS 0 2 id).port 0 → x.pickVc ((portS 0 2 id).arb 0) 1 = none ∧ (0 : Nat) = (x.rxSeq + 1) % 4096) ∧
    (∀ x, x = (portS 0 2 (fun x => { x with txq := [{ flit 2 0 1 .empty with vc := 0 }] })).port 0 → x.ready 0 ∧
      (x.ctl.filter (fun t => decide (0 < t + 1000))).length < x.ctlLimit) := by
  refine ⟨?_, ?_, ?_⟩
  · rintro x rfl a rfl; decide +kernel
  · rintro x rfl; decide +kernel
  · rintro x rfl; decide +kernel

/-- A write of 2 bytes at Pail address 0 from another chip, 2,500 units of 16 ns old, and a window for it. -/
def pkt : Packet := ⟨2, 1, 5, 0, 0, pailBase, 1, 0, List.replicate 64 1⟩
def arrS (age : Nat) (p : Part → Part) : State :=
  { (up.modPart 0 p) with arrivals := [⟨0, 16 * age, pkt⟩], timeAcc := 16 * age * 2 ^ 32 }

theorem witness_arrival : (∀ s, s = arrS 2500 (fun p => p.setWindow 15 pailBase (2 ^ 16) 0x3F 0) → s.meshUp ∧
      s.arrivals.find? (fun y => !s.arrivalWaits y) = some ⟨0, 40000, pkt⟩ ∧ (⟨0, 40000, pkt⟩ : Arrival).age ≤ 2500 ∧
      s.grantsIn pkt accInWr ∧ s.isCache 0 0 = false) ∧
    (∀ s, s = arrS 2501 id → 2500 < (⟨0, 40016, pkt⟩ : Arrival).age ∧
      s.arrivals.find? (fun y => !s.arrivalWaits y) = some ⟨0, 40016, pkt⟩) ∧
    (up.part 0).winGrantsAll pailBase 2 accInWr = false := by
  refine ⟨?_, ?_, by decide +kernel⟩ <;> rintro s rfl <;> decide +kernel

/-! ### Firmware, mailboxes, partitions, contexts -/

/-- The started device with a request of these words taken on pair p, at a stage. -/
def rq (op stage : Nat) (ps : List Word) (aux : List Nat) : Taken := ⟨BitVec.ofNat 32 op :: 0 :: ps, stage, aux⟩
def asked (p op stage : Nat) (ps : List Word) (aux : List Nat) : State :=
  up.modPair p (fun x => { x with taken := [rq op stage ps aux] })

/-- Does pair p's request act in a state: what `State.InOrder` asks, as a test? -/
def acts (s : State) (p op col : Nat) (t : Taken) : Bool :=
  s.takenCmd p 0 op == some t && t.stage == 0 && decide ((t.words.getD 1 0).toNat ≤ 1) && !s.denied p t.words col &&
  (p == 0 || decide (op < 0x200) || s.partState (p - 1) == 1) && (p == 0 || (s.svcCore (p - 1)).isSome)

theorem in_order_of_acts {s : State} {p op col : Nat} {t : Taken} (h : acts s p op col t = true) : s.InOrder p 0 op col t := by
  simp only [acts, Bool.and_eq_true, Bool.or_eq_true, beq_iff_eq, decide_eq_true_eq, Bool.not_eq_true'] at h
  obtain ⟨⟨⟨⟨⟨h1, h2⟩, h3⟩, h4⟩, h5⟩, h6⟩ := h
  exact ⟨h1, h2, h3, h4, by rcases h5 with (h | h) | h <;> simp [h], by rcases h6 with h | h <;> simp [h]⟩

/-- Every opcode of Table 11.5 acts on a pair that may send it. -/
theorem witness_requests :
    (∀ p op, p = 0 ∨ p = 1 → op ∈ [1, 2, 3, 4, 5, 6, 0x211] → acts (asked p op 0 [] []) p op 0 (rq op 0 [] []) = true) ∧
    (∀ op, op ∈ [0x100, 0x101, 0x102, 0x103, 0x104, 0x105, 0x106, 0x107, 0x108, 0x109, 0x10A, 0x10B, 0x10C, 0x10D, 0x10E] →
      acts (asked 0 op 0 [] []) 0 op 1 (rq op 0 [] []) = true) ∧
    (∀ op, op ∈ [0x200, 0x201, 0x202, 0x203, 0x204, 0x205, 0x206, 0x207, 0x208, 0x209, 0x20A, 0x20B, 0x20C, 0x20D, 0x20E,
      0x20F, 0x210] → acts (asked 1 op 0 [] []) 1 op 2 (rq op 0 [] []) = true) := by
  refine ⟨?_, by decide +kernel, by decide +kernel⟩
  rintro p op (rfl | rfl) <;> revert op <;> decide +kernel

theorem witness_started : (∀ op, op ∈ [0x102, 0x101, 0x103, 0x107, 0x10B, 0x10E] →
      (asked 0 op 1 [0] []).takenCmd 0 0 op = some (rq op 1 [0] [])) ∧
    (∀ op, op ∈ [0x205, 0x209, 0x20E] → (asked 1 op 1 [0] []).takenCmd 1 0 op = some (rq op 1 [0] []) ∧
      ((asked 1 op 1 [0] []).svcCore 0).isSome) := by decide +kernel

theorem witness_mailbox : up.agentUp (.vf 0) ∧ mayPair (.vf 0) 1 ∧ up.mbOpen ∧ ringDiff 256#32 0 = 256 ∧
    bit ({ Pair.reset with irqPend := 2 } : Pair).irqPend 1 = true := by decide +kernel

/-- A PING, and an unknown opcode, wait in pair 1's ring. -/
def ringS (op : Word) : State := up.modPair 1 (fun x => (x.setReg Reg.mbReqTail 1).setReg Reg.mbReqSlot op)

theorem witness_request_take : (∀ s, s = ringS 1 → s.cmdUp 1 ∧ (s.pair 1).f Reg.mbStatus 0 0 ≠ 0 ∧
      (s.pair 1).reg Reg.mbReqHead ≠ (s.pair 1).reg Reg.mbReqTail ∧ (s.pair 1).taken = [] ∧ (s.pair 1).rspWait = [] ∧
      s.fw.activate = none ∧ s.pairTurn 1 ∧ (s.svcCore 0).isSome) ∧ knownOp 1 = true ∧ knownOp 7 = false ∧
    (ringS 7).pairTurn 1 ∧ (up.pair 1).rspFull = false := by
  refine ⟨?_, by decide, by decide, by decide +kernel, by decide +kernel⟩
  rintro s rfl
  decide +kernel

/-- Every opcode that a core has to be found for names its request: `State.serving`. -/
theorem witness_serving : up.fw.sets.length = 4 := by decide +kernel

theorem witness_boot : ∀ s, s = { up with hostMem := [], pairs := up.pairs } → ∀ u, u = s.modPair 0 (fun x =>
      x.setF Reg.mbBootStatus 3 0 15) → u.hostUp ∧ u.mgmt.scan = false ∧ u.bootStage = 15 ∧ bit 1#32 0 = true ∧
    ((u.pair 0).reg Reg.mbBootLen).toNat ≤ 2 ^ 25 ∧ imgCheck 1 u.fw.svnRoot none [] = 0xB00 := by
  rintro s rfl u rfl
  decide +kernel

theorem witness_service_fails : up.rootUp ∧ up.fw.down = false ∧ up.f Reg.capAonCause 31 31 = 0 ∧ up.fw.activate = none ∧
    State.rootUp { up with fw := { up.fw with down := true } } := by decide +kernel

theorem witness_every_pair : par [5, 0, 0, 24, 0] 1 = 24 ∧ up.hostUp ∧ (∀ v ∈ levelsOf [4, 0, 4], v ≤ 4) ∧
    traceSize [5, 0, 255, 1, 0, 0, 0x4000000] = 2 ^ (16 + 10) ∧ 0xF0 ≤ par [6, 0, 0xFF] 0 ∧ par [6, 0, 0xFF] 0 ≤ 0xFF ∧
    rqExpert [0x8005, 0] = true ∧
    bit ({ Pair.reset with trace := ⟨setBit 0 0xFF true, 0, 65536⟩ } : Pair).trace.points 0xFF = true := by decide +kernel

theorem witness_root_commands : par [0, 0, 1023] 0 ≤ 1023 ∧ outside 0x73F3F3F 0x73F3F3F = false ∧
    (up.f Reg.fabTags 14 0 = 0) ∧ (up.setF Reg.fabTags 14 0 1).f Reg.fabTags 14 0 ≠ 0 ∧
    outside 0x83 0xF3 = false ∧ 0x83 / 16 % 16 ≤ 8 ∧ up.partState 0 = 1 ∧
    (∀ n, n < 16 → quotaOf [0x8109, 0, 0x83] n ≤ 32) := by decide +kernel

theorem witness_firmware : up.fw.staged = none ∧ up.stageCode [0x10A, 0, 0, 0, 0] = 0xB00 ∧ up.fw.deviceReset = none ∧
    up.fw.kept = [] ∧ up.fw.powerDown = 0 ∧ (List.range 16).all up.trafficDone ∧ up.tags = [] ∧ up.onlyLaunches ∧
    (asked 1 1 0 [] []).onlyLaunches = false ∧ (∀ i, i ∈ List.range 1152 → (up.tile i).atBoundary = true) ∧
    ((upT (fun x => { x with issuing := some run1 })).tile 0).atBoundary = false ∧
    par [0x10C, 0, 3, 0] 0 = 3 ∧ par [0x10C, 0, 3, 0] 1 = 0 := by decide +kernel

theorem witness_partitions : up.partState 1 = 0 ∧ up.unitsBad [0x100, 0, 1, 17] = false ∧ up.unitsBad [0x100, 0, 1, 18] = true ∧
    up.partState 0 = 1 ∧ up.trafficDone 0 ∧ up.checkedWork 0 = [] ∧ (up.part 0).windowClash 15 0 (2 ^ 16) = false ∧
    up.windowOutside 0 0 (2 ^ 34) = false ∧ up.windowOutside 0 0 (2 ^ 34 + 2 ^ 16) = true ∧
    (upT (fun x => { x with issuing := some run1 })).checkedWork 0 = [4 * 2 ^ 11 + 1] ∧
    (upT (fun x => { x with txns := [txn true (.vat 0) .sent] })).trafficDone 0 = false := by decide +kernel

def resetting (step : Nat) (destroy logged : Bool) : State :=
  ({ up with timeAcc := 1000000001 * 2 ^ 32 } : State).modSys 0 (fun x => { x with rst := ⟨step, false, destroy, 0, logged, []⟩ })

theorem witness_partition_reset : (∀ s, s = (resetting 2 true false).modPart 0 (fun p => p.setF Reg.mbPartCfg 30 28 2) →
      (s.sys 0).rst.step = 2 ∧ s.partState 0 = 2) ∧ (∀ s, s = resetting 1 false false → (s.sys 0).rst.step = 1 ∧
      (s.sys 0).rst.logged = false ∧ (s.sys 0).rst.bound < (s.time + 2 ^ 64 - 0) % 2 ^ 64 ∧
      1000000000 ≤ (s.time + 2 ^ 64 - 0) % 2 ^ 64) := by
  refine ⟨?_, ?_⟩ <;> rintro s rfl <;> decide +kernel

/-- Context 31 of partition 0: 2 × 2 tiles, placed at tile 0, waiting, saved, or with a launch that has exited. -/
def ctxX : SvcCtx :=
  { rows := 2, cols := 2, preempt := true, rotate := true, prio := 1, rotVat := 0, fixed := none, origin := some 0, saved := none,
    stored := [], stops := [], launch := none, lastQ := 0, waiting := false, stopping := false, placedAt := 0 }
def ctxS (x : SvcCtx) : State := up.setSvcCtx 0 31 (some x)
def ran : LaunchRun := ⟨[0x204], 0, [(0, 1), (1, 1), (32, 1), (33, 1)]⟩

theorem witness_contexts : ((up.ctxsOf 0).map (·.1) = []) ∧ originOff 36 32 none = false ∧ originOff 36 32 (some 0) = false ∧
    originOff 2 2 (some 1151) = true ∧ up.originForeign 0 2 2 (some 0) = false ∧ up.originForeign 0 2 2 (some 1000) = true ∧
    (up.sys 0).svc.ctxCount = 0 ∧ (ctxS ctxX).svcCtx 0 31 = some ctxX ∧ (ctxS ctxX).launchesOn 1 31 = [] ∧
    ((ctxS ctxX).queuesOf 0).length = 0 ∧ (ctxS ctxX).freeSlots 0 ctxX.tiles = [0, 1, 2, 3, 4, 5, 6, 7] ∧
    (ctxX.tiles.all ((ctxS ctxX).tileAtRest 0)) = true ∧
    ctxX.tiles.all (((ctxS ctxX).modTile 33 (fun x => { x with passes := [passP] })).tileAtRest 0) = false := by decide +kernel

theorem witness_launch : ∀ s, s = (ctxS ctxX).modSvc 0 (fun v => { v with queues := [(63, some ⟨31, 3⟩)] }) →
    s.launchQ 0 63 = some ⟨31, 3⟩ ∧ s.imageOff 0 [0x204, 0, 63] = false ∧ s.svcCtx 0 31 = some ctxX ∧
    (s.modPair 1 (fun x => { x with taken := [⟨[0x204, 0, 63], 1, [31]⟩] })).launchTurn 1 31 0 = true := by
  rintro s rfl
  decide +kernel

theorem witness_launch_complete : ∀ s, s = (ctxS { ctxX with launch := some ran }).modPair 1 (fun x =>
      { x with taken := [⟨[0x204], 2, [31]⟩] }) → s.cmdUp 1 ∧ (s.svcCore 0).isSome ∧
    s.svcCtx 0 31 = some { ctxX with launch := some ran } ∧ ctxX.tiles ≠ [] ∧
    (∀ t ∈ ctxX.tiles, tabGet natD ran.exits t ≠ 0 ∧ ∀ e, e < 4 → (s.tile t).idle e = true) ∧
    (s.pair 1).taken.findIdx? (fun t => rqOp t.words == 0x204 && t.stage == 2 && t.aux.getD 0 0 == 31) = some 0 := by
  rintro s rfl
  decide +kernel

theorem witness_turns : (∀ s, s = ctxS { ctxX with origin := none, waiting := true } → ∀ l, l = s.ctxsOf 0 →
      (waitingOrder l).find? (fun y => (s.findOrigin 0 y.1 y.2 y.2.fixed).isSome || (s.originOver 0 y.2 l).isSome) =
        some (31, { ctxX with origin := none, waiting := true }) ∧
      s.findOrigin 0 31 { ctxX with origin := none, waiting := true } none = some 0) ∧
    (waitingOrder (up.ctxsOf 0) = []) ∧ (ctxS ctxX).ctxsOf 0 = [(31, ctxX)] ∧ ((ctxS ctxX).sys 0).svc.rotOff = false ∧
    up.partState 0 = 1 := by
  refine ⟨?_, by decide +kernel, by decide +kernel, by decide +kernel, by decide +kernel⟩
  rintro s rfl l rfl
  decide +kernel

/-- A context of priority 2 that waits for the whole unit takes the turn of one of priority 1. -/
theorem witness_gives_way : ∀ s, s = (ctxS ctxX).setSvcCtx 0 0 (some { ctxX with
      rows := 2, cols := 32, prio := 2, origin := none, waiting := true }) → ∀ x, s.svcCtx 0 0 = some x →
    s.findOrigin 0 0 x none = none ∧ s.originOver 0 x (s.ctxsOf 0) = some 0 := by
  rintro s rfl x h
  have : x = { ctxX with rows := 2, cols := 32, prio := 2, origin := none, waiting := true } := by
    have e : ((ctxS ctxX).setSvcCtx 0 0 (some { ctxX with rows := 2, cols := 32, prio := 2, origin := none, waiting := true })).svcCtx 0 0 =
      some { ctxX with rows := 2, cols := 32, prio := 2, origin := none, waiting := true } := by decide +kernel
    exact Option.some.inj (h.symm.trans e)
  subst this
  decide +kernel

theorem witness_service_commands : askedTiles [0x8207, 0, 57, 7] = 7 ∧ (∀ i, i < 7 → up.ownsTile 0 (57 + i) = true) ∧
    semBad [0x209, 0, 63, 1023, 0xFFFF] = false ∧ semBad [0x209, 0, 63, 1024, 0] = true ∧
    quiesceEngine (semOff [0x8209, 0, 0, BitVec.ofNat 32 Reg.ladleLimits]) = some 3 ∧
    quiesceEngine (semOff [0x8209, 0, 0, BitVec.ofNat 32 Reg.ladleScPc]) = some 2 ∧ semBad [0x8209, 0, 0, BitVec.ofNat 32 Reg.ladleScPc] = false ∧
    (upT (fun x => { x with sbuf := [⟨0, 4, 0⟩] }) |>.tile 0).quiet 2 = false ∧ (quiet.tile 0).quiet 3 = true ∧
    up.ownsTile 0 (ownerEntry [0x20C, 0, 4095, 1, 63] % 2 ^ 11) = true ∧ up.grpQuiet 0 63 = true ∧ quiet.pailQuiet 0 0 := by decide +kernel

/-! ### Optimiser state and collectives -/

/-- The expert forms for shard 5: rule ORTHO on 64 × 64, weights at 0x1_0000, moments at 0x2_0000, record at host address 0. -/
def exportW : List Word := [0x820A, 0, 5, 9, 0, 0, 0, 0, 64, 64, 0x10000, 0x20000, 0, 0, 0, 0]
def importW : List Word := [0x820B, 0, 5, 0, 0, 0, 64, 64, 0x10000, 0x20000, 0, 0, 0, 0, 0, 0]
def recordS (bad : Bool) : State :=
  { up with hostMem := memWrite [] 0 ((up.shardOf 0 exportW true).header (up.tile 0)) }.modPair 0 id |> fun s =>
    if bad then { s with hostMem := memWrite s.hostMem 4 [2] } else s

theorem witness_optimiser_state : (up.shardOf 0 exportW true).fault = 0 ∧ (up.shardOf 0 importW false).fault = 0 ∧
    (∀ b, recordBad (memRead (recordS b).hostMem 0 64) = b ∧
      ((recordS b).shardOf 0 importW false).differs (memRead (recordS b).hostMem 0 64) = false) := by decide +kernel

/-- A BARRIER of group 63 whose record lies at the start of the column, posted from the last 64 bytes of scratch. -/
def barrierW : List Word := [0x3F00006, 0, 0, 0, 0, 0, 0, 0, 0, 0, 0, 0, 0, 0, 0, 0]
def ctxC (st : Nat) : Ctx :=
  { words := barrierW, tile := 0, holds := true, bad := false, snap := [], seq := 0, st := st, start := 0, heard := 0, entryMs := 1,
    progUs := 1, dense := 3, share := 0, matched := [], jflags := 0, counts := [], ranks := [], flags := 0, stage := none,
    got := [], work := [], fragsIn := [], outQ := [], slots := [], best := none, causes := [], abortAt := 0 }
def grpP (q : List Post) (c : Option Ctx) : Part :=
  { (winP (up.part 0)).setF (Reg.collGrpCfg + 16 * 63) 31 31 1 with postQ := q, ctxs := [(63, c)] }
def collS (q : List Post) (c : Option Ctx) : State :=
  ({ up with timeAcc := 2000000 * 2 ^ 32 } : State).modPart 0 (fun _ => grpP q c)
def post1 : Post := ⟨barrierW, 0, 0, false, []⟩

theorem witness_coll_post : (collS [] none).tileOwner 0 = some 0 ∧ (collS [] none).partState 0 = 1 ∧
    ((collS [] none).part 0).qLevel < 16 ∧ (collS [] none).collCheck 0 0x9FFC0 barrierW = 0 ∧
    16 ≤ ((collS (List.replicate 16 post1) none).part 0).qLevel ∧ (collS [] none).collCheck 0 0x9FFC1 barrierW = 0x501 := by
  decide +kernel

theorem witness_coll_grant : (collS [post1] none).nextPost 0 = some 0 ∧
    (∀ m, m < 16 → m ≠ 0 → (collS [post1] none).nextPost m = none) := by decide +kernel

theorem witness_coll_ctx : ∀ st, st = 2 ∨ st = 3 ∨ st = 4 ∨ st = 5 ∨ st = 6 → ∀ s, s = collS [] (some (ctxC st)) →
    s.ctx 0 63 = some (ctxC st) ∧ (s.ctx 0 62 = none) ∧ 0 < s.grpSize 0 63 ∧ tabGet natD (ctxC st).counts 0 = 0 ∧
    coOp (ctxC st).words = 6 ∧ 0 ∉ (ctxC st).ranks ∧ s.collTagged 0 63 = false ∧ s.collWaits 0 63 (ctxC st) = false ∧
    cw (ctxC st).words 7 22 22 = 0 ∧ cw (ctxC st).words 7 23 23 = 0 ∧ cw (ctxC st).words 8 22 22 = 0 ∧
    (s.part 0).queuedFor 63 = [] ∧ 0 + 1 * 1000000 < s.engineTime ∧ 0 + 250000 ≤ s.engineTime := by
  rintro st (rfl | rfl | rfl | rfl | rfl) s rfl <;> decide +kernel

theorem witness_coll_record : ∀ s, s = collS [] (some (ctxC 5)) → (s.collWrite (coRecord barrierW) (s.collRecord 0 63 (ctxC 5) 0 0xFFFFFFFF
    ((List.range (s.grpSize 0 63)).map (coWritten barrierW (s.grpSize 0 63) (ctxC 5).count)))).2 = false := by
  rintro s rfl
  decide +kernel

theorem witness_coll_fragment : tabGet slotD ({ up with pool := [(5, some ⟨0, 63, 0, true⟩)] } : State).pool 5 =
    some ⟨0, 63, 0, true⟩ := by decide +kernel

/-- A tag that does not match, whatever the key's is, and a notice one sequence number ahead of a held one. -/
theorem witness_notice (k : DWord) : (∃ tag : Option DWord, tag ≠ some k) ∧ (1 : Nat) = (0 + 1) % 2 ^ 32 :=
  ⟨⟨none, by simp⟩, by decide⟩

/-! ### Power, clocks, temperatures, management, the host -/

def withPower (f : Power → Power) : State := { State.reset with power := f Power.reset }
/-- A device whose start-up is at group g (Table 13.4), with `ready` groups up, in a stage, Root's image running from STAGE 4. -/
def starting (g ready : Nat) (st : PowerStage) : State :=
  ((withPower (fun p => { p with stage := st, resetLow := false, ready := ready })).setPair 0
    ((Pair.reset).setF Reg.mbBootStatus 3 0 4)).setF Reg.capStart 5 0 g

theorem witness_holds : (withPower (fun p => { p with stage := .waiting })).inputInRange = false ∧
    State.reset.power.resetLow = true ∧ State.reset.power.stage = .off ∧ State.reset.fw.nvCycles ≠ [] ∧
    (starting 0 0 .waiting).power.stage = .waiting ∧ (starting 0 0 .waiting).power.resetLow = false ∧
    (starting 0 0 .osc).power.oscReady = false ∧ (starting 0 0 .osc).power.stage = .osc := by decide +kernel

theorem witness_rail_groups : (∀ x, x ∈ [(1, 0, PowerStage.bus), (2, 1, .vctl), (3, 2, .rom), (15, 14, .rom), (16, 15, .rom),
      (51, 50, .rom), (52, 51, .rom)] → (starting x.1 x.2.1 x.2.2).f Reg.capStart 5 0 = x.1 ∧
      (starting x.1 x.2.1 x.2.2).f Reg.capStart 9 9 = 0 ∧ (starting x.1 x.2.1 x.2.2).power.stage = x.2.2 ∧
      (starting x.1 x.2.1 x.2.2).power.ready < x.1 ∧ (starting x.1 x.2.1 x.2.2).bootStage = 4) ∧
    (∀ w, w ∈ [0, 35] → (starting (16 + w) (16 + w) .rom).f Reg.capStart 5 0 = 16 + w) ∧
    ((starting 52 52 .rom).setF Reg.capStart 27 27 1).f Reg.capStart (10 + 17) (10 + 17) = 1 := by decide +kernel

theorem witness_bus : up.power.stage ≠ .off ∧ up.power.meshOn ∧ up.power.busLow = false := by decide +kernel

theorem witness_rail_cal : ∀ s, s = (up.setF Reg.capCalCfg 0 0 1).railSet 1167 Reg.capRailStatus 0 0 1 →
    s.f Reg.capCalCfg 0 0 = 1 ∧ fld (s.railReg 1167 Reg.capRailStatus) 0 0 = 1 ∧ s.power.suspects.contains 1167 = false := by
  rintro s rfl
  decide +kernel

def changing (c : MeshChange) (next : Option Nat) : State := { up with power := { up.power with change := c, nextMhz := next } }

theorem witness_mesh_clock : up.agentUp .pf ∧ up.agentUp .root ∧ up.rootUp ∧ up.power.change = .none ∧
    (changing (.locking 800) none).power.change ≠ .none ∧
    (((changing (.locking 800) none).setF Reg.clkMeshCur 10 0 800).f Reg.clkMeshCur 10 0 ≤ 800) ∧
    (800 < ((changing (.locking 800) none).setF Reg.clkMeshCur 10 0 2000).f Reg.clkMeshCur 10 0) ∧
    (changing (.falling 2047) (some 900)).power.nextMhz = some 900 := by decide +kernel

theorem witness_rail_loop : onT (fun x => { x.setF Reg.capRailStatus 0 0 1 with railSamples := List.replicate 8 (0, 0) }) (fun x =>
    x.f Reg.capRailStatus 0 0 = 1 ∧ 7 ≤ x.railSamples.length) := by decide +kernel

theorem witness_temperatures : up.vctlUp ∧ onT (fun x => { x with tripSeen := true, vatTripSeen := [true] }) (fun x =>
      x.tripSeen = true ∧ ∃ b ∈ x.vatTripSeen, b = true) ∧ onT id (fun x => x.tripSeen = false ∧ ¬∃ b ∈ x.vatTripSeen, b = true) ∧
    16 * 115 ≤ 4095 ∧ (List.replicate 12 (16 * 85)).length = 12 := by decide +kernel

theorem witness_cooling : ∀ s, s = up.setF Reg.capCoolCfg 0 0 1 → s.f Reg.capCoolCfg 0 0 = 1 ∧ s.mgmt.reading = none ∧
    s.f Reg.mbI3ccCfg 0 0 = 0 ∧ (∀ l, l = 0 ∨ l = 2 → ({ s with mgmt := { s.mgmt with reading := some ⟨1, l, [none]⟩ } } : State).mgmt.reading =
      some ⟨1, l, [none]⟩) ∧ ({ s with cap := { s.cap with fails := [(2, 2)] } } : State).cap.fails = [(2, 2)] := by
  rintro s rfl
  exact ⟨by decide +kernel, by decide +kernel, by decide +kernel, fun _ _ => rfl, rfl⟩

theorem witness_references : (∀ r, r ∈ [0, 1, 2] → (up.setF Reg.clkStatus r r 1).f Reg.clkStatus r r = 1) ∧
    State.vctlUp { up with power := { up.power with oscReady := false } } ∧ up.power.timeOn ∧ up.power.stage ≠ .osc ∧
    (up.setF Reg.clkTimeCfg 0 0 1).f Reg.clkTimeCfg 0 0 = 1 ∧ up.f Reg.clkTimeCfg 0 0 = 0 ∧
    ({ up with ticks := 500000000 } : State).syncAt + 500000000 ≤ ({ up with ticks := 500000000 } : State).ticks := by
  decide +kernel

theorem witness_host_link : up.hostUp ∧ up.power.resetLow = false ∧ up.f Reg.mbPcieStat 3 0 = 5 ∧ up.f Reg.mbPcieStat 8 4 = 16 ∧
    ((up.setF Reg.mbPcieStat 9 9 0).setF Reg.clkStatus 1 1 1).f Reg.mbPcieStat 9 9 = 0 := by decide +kernel

theorem witness_management : up.targetUp ∧ (withPower id).targetUp = false ∧ up.f Reg.mbI3cTgt 16 16 = 0 ∧
    ((up.setF Reg.capBudgetCfg 1 0 2).budgetSrc = 2) ∧
    majority ((List.replicate 9 (true, true, false)).getD 8 (false, false, false)) = true ∧
    majority (([] : List (Bool × Bool × Bool)).getD 8 (false, false, false)) = false ∧
    frameByte ([true, false, true, true, false, false, false, false, true].map (fun b => (b, b, b))) = 0x0D ∧
    up.bootStage ≠ 0 ∧ (up.setPair 0 .reset).bootStage = 0 ∧ scanIr .extest = true := by decide +kernel

/-- Partition 0 with a window over its first Pail lines. -/
def barS2 : State := up.modPart 0 (fun p => p.setWindow 15 pailBase (2 ^ 16) 0x3F 0)

theorem witness_bar2 : barS2.bar2Grants 0 pailBase 64 accHwr ∧ barS2.bar2Grants 0 pailBase 64 accHrd ∧
    up.bar2Grants 0 pailBase 64 accHwr = false ∧ barS2.ingressQ = [] ∧ barS2.spanWaits pailBase 64 = false ∧
    State.spanWaits { barS2 with zeroing := [(0, some ⟨3, 0⟩)] } pailBase 64 = true ∧
    (barS2.tile (pailTile pailBase)).sliceQ = [] := by decide +kernel

def win (n : Nat) : LogWin := ⟨0, 0x603, 1, 0, 2, 0, n, []⟩

theorem witness_log_repeat : ∀ n, n = 0 ∨ n = 3 → ∀ s, s = { up with logWins := [win n], timeAcc := 1000000 * 2 ^ 32 } →
    s.logWins.find? (fun x => x.same 0x603 1 0) = some (win n) ∧ 1000000 ≤ (s.time + 2 ^ 64 - 0) % 2 ^ 64 ∧
    s.power.faultN = false := by
  rintro n (rfl | rfl) s rfl <;> decide +kernel

theorem witness_loops : (0 < up.cap.bucket) ∧ up.agentUp (.core 0) ∧ up.mayTile (.core 0) 0 ∧ up.mayTile (.vf 0) 0 ∧
    fld 4#32 2 0 ≤ 4 ∧ 4 < fld 7#32 2 0 := by decide +kernel

theorem witness_phase : ∀ s, s = up.modSys 0 (fun x => { x with ph := { x.ph with marks := [(5, 1, 0), (6, 2, 4)], stepOn := true } }) →
    (s.sys 0).ph.marks = [(5, 1, 0), (6, 2, 4)] ∧ s.phase 0 ≠ 0 ∧ (s.sys 0).ph.stepOn ∧ (s.sys 0).ph.ended.1 = s.cyc := by
  rintro s rfl
  decide +kernel

theorem witness_budget : (∀ s, s = { up with timeAcc := 10000000001 * 2 ^ 32 } → s.passed s.cap.pinAt 1000000 ∧
      s.passed s.cap.i3cAt 10000000000 ∧ s.cap.pinLost = false ∧ s.cap.i3cLost = false ∧ s.cap.lostOn = false) ∧
    (∀ s, s = (({ up with timeAcc := 2 ^ 40 * 2 ^ 32, cap := { up.cap with pinLost := true, lostOn := true } } : State).setF
      Reg.capBudgetCfg 1 0 1) → s.budgetSrc = 1 ∧ s.budgetLost s.budgetSrc ∧ s.cap.expired = false ∧
      s.passed s.cap.lostAt (1000000 * s.f Reg.capBudgetCfg 31 16)) := by
  refine ⟨?_, ?_⟩ <;> rintro s rfl <;> decide +kernel

/-! ### Single steps, with values from the rules -/

/-- What holds of the state after a command. -/
def after (c : Instr) (s : State) (p : State → Bool) : Bool :=
  match exec c s with
  | .next u => p u
  | _ => false

/-- R8, Table 3.7: a write to RENNET_DRAIN0_BASE stores its 20 bits. -/
theorem test_register_write : after (.registerWrite (.vf 0) (tileAddr 0 Reg.rennetDrainBase) 4 0xFFFFFFFF) up (fun u =>
    (u.tile 0).reg Reg.rennetDrainBase == 0xFFFFF) = true := by decide +kernel

/-- R113: a wait takes its N; R114: a sum past 0xFFFF leaves 0xFFFF and records 0x0242. -/
theorem test_sem_wait : after (.semWait 0 1) (upT (fun x => withWait 1 semWaitW (x.setReg (Reg.ladleSem + 4 * 1023) 3)))
    (fun u => (u.tile 0).sem 1023 == 2) = true := by decide +kernel
theorem test_sem_overflow : after (.semSignal 0 1) (upT (fun x => withWait 1 semSignalW (x.setReg (Reg.ladleSem + 4 * 1023) 0xFFFF)))
    (fun u => (u.tile 0).sem 1023 == 0xFFFF && (u.tile 0).f Reg.ladleFault 15 0 == 0x242 &&
      (u.tile 0).f Reg.ladleFault 18 16 == 4) = true := by decide +kernel

/-- R111: ADDI x1, x0, 5 at 0 leaves 5 in x1 and the pc at 4. -/
theorem test_addi : after (.scalarInstruction 0) (upT (core 0x00500093)) (fun u => (u.tile 0).x 1 == 5 && (u.tile 0).pc == 4) = true := by
  decide +kernel

/-- Table 4.7: VOP with FUNC = 0 adds: 1.5 + 2.25 = 3.75 in lane 63 of v2. -/
theorem test_vadd : after (.vop 0) (upT (fun x => withQ 1 [entry [0x22 + 2 * 4096 + 0 * 2 ^ 17 + 1 * 2 ^ 22, 1]]
    { x with vr := [(63, 0x3FC00000), (127, 0x40100000)] })) (fun u => (u.tile 0).lane 2 63 == 0x40700000) = true := by
  decide +kernel

/-- R98: four drain targets fill a queue, and a fifth push through BAR0 sets OVERRUN of that queue. -/
theorem test_drain_overrun : after (.drainPush (.vf 0) 0 3 64) (upT (fun x => { x with targets := [(3, List.replicate 4 (0, 64))] }))
    (fun u => (u.tile 0).f Reg.rennetDrainLevel 15 15 == 1 && (tabGet targetsD (u.tile 0).targets 3).length == 4) = true := by
  decide +kernel

/-- R109: a reserved opcode stops the vector unit with 0x0201. -/
theorem test_reserved_opcode : after (.qOpcodeReject 0 1) (upT (withQ 1 [entry [0xFF]])) (fun u =>
    (u.tile 0).f Reg.ladleFault 15 0 == 0x201 && (u.tile 0).f Reg.ladleFault 18 16 == 1 && (u.tile 0).stopped 1) = true := by
  decide +kernel

/-- R235: of two requests that collide, the lower chip ID withdraws its own and grants. -/
theorem test_lead_collision : after (.leadReq 0) (portS 0 2 (fun x => ({ x with asking := true } : Port).setF Reg.fabPortPartner 17 0 1))
    (fun u => !(u.port 0).asking && (u.port 0).pendRole == 2) = true := by decide +kernel

/-- R404: a tick without steering adds 2 ns. -/
theorem test_time_tick : after .timeTick up (fun u => u.time == up.time + 2) = true := by decide +kernel

end Sys2Proof.Tests
end

section
namespace Sys2Proof.Machine

/-! ### Accesses by BAR0 -/

/-- Bit by bit, a write does what the access type of the bit says (R8). -/
theorem RegRow.write_getLsbD (r : RegRow) (old val : Word) {b : Nat} (hb : b < 32) :
    (r.write old val).getLsbD b =
      (if r.rw.testBit b then val.getLsbD b
       else if r.w1c.testBit b && val.getLsbD b then false else old.getLsbD b) := by
  have hmask (m : Nat) : (BitVec.ofNat 32 m).getLsbD b = m.testBit b := by
    rw [BitVec.getLsbD_ofNat, decide_eq_true hb, Bool.true_and]
  simp only [RegRow.write, BitVec.getLsbD_or, BitVec.getLsbD_and, BitVec.getLsbD_not, hmask, hb]
  by_cases hrw : r.rw.testBit b
  · simp [hrw]
  · cases r.w1c.testBit b <;> cases val.getLsbD b <;> simp [hrw]

theorem w32_getLsbD (v : DWord) {b : Nat} (hb : b < 32) : (w32 v.toNat).getLsbD b = v.getLsbD b := by
  rw [w32, BitVec.getLsbD_ofNat, decide_eq_true hb, Bool.true_and]; rfl

theorem State.ownsTile_lt {s : State} {n t : Nat} (h : s.ownsTile n t = true) : t < tileCount := by
  simp only [State.ownsTile, Bool.and_eq_true, decide_eq_true_eq] at h
  exact h.1

theorem place_vf_tileAddr {n t o : Nat} (hn : n < 16) (ht : t < tileCount) (ho : o < 0x2000) :
    place (.vf n) (tileAddr t o) = .tile t o := by
  have hdiv : (tileAddr t o - 0x100000) / 0x2000 = t := by unfold tileAddr; omega
  have hmod : (tileAddr t o - 0x100000) % 0x2000 = o := by unfold tileAddr; omega
  have hin : 0x100000 ≤ tileAddr t o ∧ tileAddr t o < 0x100000 + 0x2000 * tileCount := by unfold tileAddr; omega
  show vfPlace n (tileAddr t o) = _
  rw [vfPlace, if_neg (by omega), if_neg (by omega), if_neg (by omega), if_pos hin, hdiv, hmod]

theorem place_pf_chip {o : Nat} (ho : o < 0x4000) : place .pf (0x40000 + o) = .chip o := by
  show pfPlace _ = _
  rw [pfPlace, if_neg (by omega), if_pos (by omega), Nat.add_sub_cancel_left]

theorem accessOk_word (a : Agent) {addr : Nat} (h : addr % 4 = 0) : accessOk a addr 4 = true := by
  simp [accessOk, h]

theorem tileAddr_mod_four {t o : Nat} (h : o % 4 = 0) : tileAddr t o % 4 = 0 := by unfold tileAddr; omega

/-- A virtual function's 4-byte write at a tile's address is a write of the tile's register. -/
theorem registerWrite_vf_tile (s : State) {n t o : Nat} (val : DWord) (hn : n < 16) (hown : s.ownsTile n t = true)
    (hal : o % 4 = 0) (ho : o < 0x2000) :
    s.registerWrite (.vf n) (tileAddr t o) 4 val = s.tileReg (.vf n) t o (w32 val.toNat) := by
  simp [State.registerWrite, accessOk_word _ (tileAddr_mod_four hal), State.reach, State.mayAccess, State.busWrite4,
    place_vf_tileAddr hn (State.ownsTile_lt hown) ho, State.tileReg, State.mayTile, State.asAgent, hown]

/-- A virtual function's 4-byte read at an address of a tile it owns is a read of the tile's register. -/
theorem registerRead_vf_tile (s : State) {n t o : Nat} (hu : s.hostUp = true) (hn : n < 16)
    (hown : s.ownsTile n t = true) (hal : o % 4 = 0) (ho : o < 0x2000) :
    s.registerRead (.vf n) (tileAddr t o) 4 = { (s.tileRead 1 t o).1 with
      hostRead := some (bytesOf 4 (s.tileRead 1 t o).2.toNat), hostUr := false } := by
  simp [State.registerRead, State.agentUp, hu, accessOk_word _ (tileAddr_mod_four hal), State.mayAccess, State.busRead4,
    place_vf_tileAddr hn (State.ownsTile_lt hown) ho, State.mayTile, State.asAgent, hown, pathOf]

/-- The physical function's 4-byte read at an address of the chip block is a read of the chip register. -/
theorem registerRead_pf_chip (s : State) {o : Nat} (hu : s.hostUp = true) (hal : o % 4 = 0) (ho : o < 0x4000) :
    s.registerRead .pf (0x40000 + o) 4 = { (s.chipRead o).1 with
      hostRead := some (bytesOf 4 (s.chipRead o).2.toNat), hostUr := false } := by
  simp [State.registerRead, State.agentUp, hu, accessOk_word _ (show (0x40000 + o) % 4 = 0 by omega), State.mayAccess,
    State.busRead4, place_pf_chip ho, State.asAgent]

/-! ### Tile registers that only store -/

/-- A write of a tile register that only stores changes that register alone. -/
theorem tileWrite_plain (s : State) {n t o : Nat} (v : Word) {r : RegRow} (hrow : tileRow? o = some r)
    (hplain : plainTileOff o = true) (hal : o % 4 = 0) :
    s.tileWrite (.vf n) t o v = s.modTile t (fun x => x.setReg o (r.write (x.reg o) v)) := by
  simp only [plainTileOff, Bool.and_eq_true, bne_iff_ne, Bool.not_eq_true', Bool.and_eq_false_iff,
    decide_eq_false_iff_not, ne_eq] at hplain
  obtain ⟨⟨⟨⟨⟨⟨⟨⟨⟨⟨⟨⟨⟨⟨⟨⟨⟨hfault, hqctl⟩, hflags⟩, hdrain⟩, hseed⟩, hsr⟩, hlimits⟩, hpc⟩, hpush⟩, hsync⟩, hpail⟩, hgo⟩,
    hstat⟩, hsgo⟩, hsstat⟩, hssr⟩, hpost⟩, hmark⟩ := hplain
  have hdrain' : ¬(0x100 ≤ o ∧ o < 0x120) := by omega
  have hlo : ¬(0x40 ≤ o ∧ o < 0xC0 ∧ o % 8 = 0) := by omega
  have hhi : ¬(0x40 ≤ o ∧ o < 0xC0 ∧ o % 8 = 4) := by omega
  have hpush' : ¬(0x440 ≤ o ∧ o < 0x4A0) := by omega
  simp only [State.tileWrite, hrow, hfault, hqctl, hflags, hdrain', hlo, hhi, hsr, hlimits, hpc, hpush', hsync, hpail, hgo,
    hstat, hsgo, hsstat, hssr, hpost, hmark, if_false]

theorem plainTileOff_ne_fault {o : Nat} (h : plainTileOff o = true) : o ≠ Reg.ladleFault := by
  rintro rfl
  exact absurd h (by decide)

/-! ### Registers that reads change -/

/-- The Rennet's event counters (R81). -/
def rennetCounters : List Nat :=
  [Reg.rennetSatCnt, Reg.rennetOvfCnt, Reg.rennetNonfinCnt, Reg.rennetSubCnt, Reg.rennetAlignCnt, Reg.rennetAccOvfCnt,
    Reg.rennetNoncanonCnt]

theorem takeLatch_none {l : Latch} {o : Nat} (now : Word) (h : tabGet latchD l o = none) : takeLatch l o now = (l, now) := by
  rw [takeLatch, h]

theorem takeLatch_some {l : Latch} {o : Nat} (now : Word) {w : Word} (h : tabGet latchD l o = some w) :
    takeLatch l o now = (tabSet latchD l o none, w) := by
  rw [takeLatch, h]

/-- A read of a register all of whose bits are RC returns it and leaves it zero, and changes nothing else (R8). -/
theorem tileRead_rc (s : State) {path t o : Nat} {r : RegRow} (hrow : tileRow? o = some r) (hrc : r.rc = 0xFFFFFFFF)
    (hwo : r.wo = 0) (hlow : r.low64 = false) (hne : o ≠ Reg.ladleInflight)
    (hword : s.tileWord path t o = (s.tile t).reg o) (hlatch : tabGet latchD (s.tile t).latch o = none) :
    s.tileRead path t o = (s.setTile t ((s.tile t).setReg o 0), (s.tile t).reg o) := by
  have hread : r.read ((s.tile t).reg o) = 0 := by simp [RegRow.read, hrc]
  have hafter : (s.tile t).afterRead r o = (s.tile t).setReg o 0 := by simp [Tile.afterRead, hrc, hne, hread]
  have hmask : ~~~(BitVec.ofNat 32 0) = BitVec.allOnes 32 := rfl
  simp only [State.tileRead, hrow, hword, takeLatch_none _ hlatch, hlow, hwo, State.modTile, hafter, hmask,
    BitVec.and_allOnes]
  rfl

theorem tileRow?_rennetCounter {o : Nat} (h : o ∈ rennetCounters) :
    ∃ r, tileRow? o = some r ∧ r.rc = 0xFFFFFFFF ∧ r.wo = 0 ∧ r.low64 = false := by
  simp only [rennetCounters, List.mem_cons, List.not_mem_nil, or_false] at h
  rcases h with rfl | rfl | rfl | rfl | rfl | rfl | rfl <;> exact ⟨_, rfl, rfl, rfl, rfl⟩

theorem rennetCounter_bounds {o : Nat} (h : o ∈ rennetCounters) : o % 4 = 0 ∧ o ≠ Reg.rennetAccState ∧ o < 0x100 := by
  revert o
  decide

theorem tileWord_rennetCounter (s : State) (path t : Nat) {o : Nat} (h : o ∈ rennetCounters) :
    s.tileWord path t o = (s.tile t).reg o := by
  obtain ⟨-, hacc, hlt⟩ := rennetCounter_bounds h
  have hne {q : Nat} (hq : 0x100 ≤ q) : o ≠ q := by omega
  have hdrain : ¬(0x100 ≤ o ∧ o < 0x120 ∧ o % 8 = 0) := by omega
  have htime : ¬(o = Reg.clkTileTimeLo ∨ o = Reg.clkTileTimeHi) := not_or.mpr ⟨hne (by decide), hne (by decide)⟩
  rw [State.tileWord, if_neg hacc, if_neg (hne (by decide)), if_neg hdrain, if_neg (hne (by decide)),
    if_neg (hne (by decide)), if_neg (hne (by decide)), if_neg htime]

/-- RC_READ of a Rennet event counter (R81). -/
theorem exec_rcRead_rennetCounter (s : State) {n t o : Nat} (hu : s.hostUp = true) (hn : n < 16)
    (hown : s.ownsTile n t = true) (ho : o ∈ rennetCounters) (hlatch : tabGet latchD (s.tile t).latch o = none) :
    exec (.rcRead (.vf n) (tileAddr t o) 4) s =
      .next { s.setTile t ((s.tile t).setReg o 0) with
        hostRead := some (bytesOf 4 ((s.tile t).reg o).toNat), hostUr := false } := by
  obtain ⟨r, hrow, hrc, hwo, hlow⟩ := tileRow?_rennetCounter ho
  obtain ⟨hal, -, hlt⟩ := rennetCounter_bounds ho
  have hne : o ≠ Reg.ladleInflight := by simp only [Reg.ladleInflight]; omega
  show Host.Outcome.next (s.registerRead (.vf n) (tileAddr t o) 4) = _
  rw [registerRead_vf_tile s hu hn hown hal (by omega),
    tileRead_rc s hrow hrc hwo hlow hne (tileWord_rennetCounter s 1 t ho) hlatch]

/-! ### The halves of chip time (R6) -/

/-- A read of CLK_TIME's low half returns it and latches the high half of that moment. -/
theorem chipRead_clkTimeLo (s : State) (h : tabGet latchD s.chipLatch Reg.clkTimeLo = none) :
    s.chipRead Reg.clkTimeLo =
      ({ s with chipLatch := tabSet latchD s.chipLatch Reg.clkTimeHi (some (BitVec.ofNat 32 (s.time / 2 ^ 32))) },
        BitVec.ofNat 32 s.time) := by
  have hport : portPlace Reg.clkTimeLo = none := by decide
  have hrow : ∃ r, chipRow? Reg.clkTimeLo = some r ∧ r.rc = 0 ∧ r.low64 = true := ⟨_, rfl, rfl, rfl⟩
  obtain ⟨r, hrow, hrc, hlow⟩ := hrow
  have hlo : s.chipWord Reg.clkTimeLo = BitVec.ofNat 32 s.time := rfl
  have hhi : s.chipWord (Reg.clkTimeLo + 4) = BitVec.ofNat 32 (s.time / 2 ^ 32) := rfl
  simp only [State.chipRead, hport, hrow, hlo, hhi, takeLatch_none _ h, hlow, State.afterRead, hrc, if_true]

/-- A read of CLK_TIME's high half returns the latched value, if one is held, and ends the latch. -/
theorem chipRead_clkTimeHi (s : State) {w : Word} (h : tabGet latchD s.chipLatch Reg.clkTimeHi = some w) :
    s.chipRead Reg.clkTimeHi = ({ s with chipLatch := tabSet latchD s.chipLatch Reg.clkTimeHi none }, w) := by
  have hport : portPlace Reg.clkTimeHi = none := by decide
  have hrow : ∃ r, chipRow? Reg.clkTimeHi = some r ∧ r.rc = 0 ∧ r.low64 = false := ⟨_, rfl, rfl, rfl⟩
  obtain ⟨r, hrow, hrc, hlow⟩ := hrow
  simp only [State.chipRead, hport, hrow, takeLatch_some _ h, hlow, State.afterRead, hrc, if_true]
  rfl

/-- LOW_HALF_READ of CLK_TIME (R6). -/
theorem exec_lowHalfRead_clkTimeLo (s : State) (hu : s.hostUp = true)
    (h : tabGet latchD s.chipLatch Reg.clkTimeLo = none) :
    exec (.lowHalfRead .pf (0x40000 + Reg.clkTimeLo)) s =
      .next { s with
        chipLatch := tabSet latchD s.chipLatch Reg.clkTimeHi (some (BitVec.ofNat 32 (s.time / 2 ^ 32)))
        hostRead := some (bytesOf 4 (s.time % 2 ^ 32)), hostUr := false } := by
  show Host.Outcome.next (s.registerRead .pf (0x40000 + Reg.clkTimeLo) 4) = _
  rw [registerRead_pf_chip s hu (by decide) (by decide), chipRead_clkTimeLo s h, BitVec.toNat_ofNat]

/-- The read of CLK_TIME's high half that follows it. -/
theorem exec_rcRead_clkTimeHi (s : State) {w : Word} (hu : s.hostUp = true)
    (h : tabGet latchD s.chipLatch Reg.clkTimeHi = some w) :
    exec (.rcRead .pf (0x40000 + Reg.clkTimeHi) 4) s =
      .next { s with
        chipLatch := tabSet latchD s.chipLatch Reg.clkTimeHi none
        hostRead := some (bytesOf 4 w.toNat), hostUr := false } := by
  show Host.Outcome.next (s.registerRead .pf (0x40000 + Reg.clkTimeHi) 4) = _
  rw [registerRead_pf_chip s hu (by decide) (by decide), chipRead_clkTimeHi s h]

/-! ### The state at power-on (R17) -/

/-- With the mesh clock off a mesh cycle changes nothing (log 60). -/
theorem meshCycle_of_off {s : State} (h : s.meshUp = false) : s.meshCycle = s := by
  rw [State.meshCycle, h]
  rfl

theorem step_reset : step State.reset = .next State.reset := congrArg Host.Outcome.next (meshCycle_of_off rfl)

/-- Every tile's register holds its table's reset value. -/
theorem reset_tile_reg (t o : Nat) : (State.reset.tile t).reg o = tileRegD o := rfl

/-- Every partition is in the state that its block's reset values give. -/
theorem reset_partState (n : Nat) : State.reset.partState n = fld (partRegD Reg.mbPartCfg) 30 28 := rfl

end Sys2Proof.Machine
end

section
open Sys2Proof Sys2Proof.Machine

/-- Settles O3: the access is one write of the tile's register, which for a register that only stores is the row's
write by access type, and no fault is recorded that a trace record would follow. -/
theorem registerWriteActsByAccessType : Obligations.RegisterWriteActsByAccessType := by
  intro s n t o val r hu hn hown hrow hplain hal ho
  refine ⟨r.write ((s.tile t).reg o) (w32 val.toNat), ?_, fun b hb => ?_⟩
  · show Host.Outcome.next (s.registerWrite (.vf n) (tileAddr t o) 4 val) = _
    rw [registerWrite_vf_tile s val hn hown hal ho,
      tileReg_mod s n t o _ _ hu hown (tileWrite_plain s _ hrow hplain hal)
        (Tile.setReg_reg_ne _ _ (plainTileOff_ne_fault hplain).symm)]
  · rw [RegRow.write_getLsbD r _ _ hb, w32_getLsbD val hb]

/-- Settles O4: a counter's row is all RC; of CLK_TIME's rows the low half's latches the high half, which the next read
of the high half takes. -/
theorem registerReadsHaveTheirEffects : Obligations.RegisterReadsHaveTheirEffects := by
  refine ⟨fun s n t o => exec_rcRead_rennetCounter s, fun s hu hl => ?_, fun s w hu hl => ?_⟩
  · exact ⟨_, exec_lowHalfRead_clkTimeLo s hu hl, rfl, rfl, by simp, rfl, rfl, rfl, rfl, rfl⟩
  · exact ⟨_, exec_rcRead_clkTimeHi s hu hl, rfl, rfl, by simp, rfl, rfl⟩

/-- Settles O51: the reset state lists no memory, so that its tables read as their defaults, and its mesh clock is off,
so that a step changes nothing. -/
theorem resetIsCanonical : Obligations.ResetIsCanonical := by
  refine ⟨⟨rfl, rfl⟩, rfl, rfl, rfl, fun n => ?_, fun c hc => ?_, fun t => ⟨?_, ?_, ?_⟩⟩
  · rw [reset_partState]
    decide
  · rw [step_reset] at hc
    cases hc
    exact ⟨rfl, rfl⟩
  · rw [reset_tile_reg]
    decide
  · rw [reset_tile_reg]
    decide
  · rw [reset_tile_reg]
    decide
end

section
namespace Sys2Proof.Machine

/-! ### Matrix commands -/

/-- A pass that passes its checks has at most 64 tokens and no more columns than its gang (R34). -/
theorem mxCheck_sizes {x : Tile} {e : QEntry} (hop : opc e = 0x10) (h : mxCheck x e = 0) :
    mxT e ≤ 64 ∧ mxN e ≤ gangCols (mxGang e) := by
  have hs := mxCheck_shape x e h
  simp only [mxShapeBad, hop, beq_self_eq_true, Bool.true_and, Bool.or_eq_false_iff, decide_eq_false_iff_not,
    Nat.not_lt] at hs
  obtain ⟨-, ⟨⟨⟨⟨⟨-, hT⟩, -⟩, -⟩, -⟩, hN⟩⟩ := hs
  exact ⟨hT, hN⟩

end Sys2Proof.Machine
end

section
open Sys2Proof Sys2Proof.Machine

/-- Settles O5: a checked command is started, and what the start of a pass leaves is read off the tile it gives. -/
theorem matrixPassStarts : Obligations.MatrixPassStarts := by
  intro s t g i e x hx hc hready hhead hop hstarts hcheck hgood
  obtain ⟨hgang, hqsel, -⟩ := gangHead_facts _ _ _ _ hhead
  obtain ⟨hT, hN⟩ := mxCheck_sizes hop hcheck
  obtain ⟨rg, nw, wo, wv, st, ao, ar, p, hstart, pqsel, pgang, pfirst, plast, ptCount, pnCols, pcvt, -, ptarget, psetL, psetR,
    pseq, pfed, -, ptoLink, pleft, hcount, hregs⟩ := startPass_form x i e (s.compat t) s.cyc hgood
  have hcmd : x.matrixCommand 0x10 g (s.compat t) s.cyc = x.startPass i e (s.compat t) s.cyc := by
    rw [matrixCommand_eq x 0x10 g i s.cyc e (s.compat t) hready hhead hop hstarts, if_neg (not_not.mpr hcheck),
      if_neg (by decide)]
  rw [hqsel] at hstart pqsel ptarget
  refine ⟨_, p, congrArg Host.Outcome.next (tileUnit_eq s t x _ _ hx hc (hcmd.trans hstart) (hregs _ (by decide))),
    tabGet_set_same _ _ _ _, hcount, rfl, pqsel, pgang.trans hgang, pfirst, plast, ptCount, pnCols, pcvt,
    pseq.trans (congrArg BitVec.toNat hcount.symm), psetL, psetR, ptCount ▸ hT, ?_, pfed, ptoLink, pleft,
    fun hl => ⟨ptarget, ?_, ?_⟩, fun hl => ⟨?_, ?_, ?_⟩, rfl, rfl, rfl, rfl, rfl, tabGet_set_ne _ _ _ (by decide),
    tabGet_set_ne _ _ _ (by decide), rfl, ⟨rfl, rfl, rfl, rfl, rfl⟩, ⟨rfl, rfl, rfl, rfl, rfl, rfl⟩, ⟨rfl, rfl, rfl⟩,
    ⟨rfl, rfl, rfl, rfl, rfl, rfl, rfl, rfl, rfl, rfl, rfl, rfl⟩, ⟨rfl, rfl, rfl, rfl⟩, ⟨rfl, rfl, rfl, rfl, rfl, rfl, rfl⟩,
    hregs⟩
  · rw [pnCols, pgang]
    exact hN
  · simp only [hl, if_true]
    exact tabGet_mod_same _ _ _ _
  · simp only [hl, if_true]
    exact tabGet_set_same _ _ _ _
  · simp only [hl, Bool.false_eq_true, if_false]
  · simp only [hl, Bool.false_eq_true, if_false]
  · simp only [hl, Bool.false_eq_true, if_false]
    exact tabGet_set_same _ _ _ _
end

section
namespace Sys2Proof.Machine

theorem mxCheck_lt (x : Tile) (e : QEntry) : mxCheck x e < 65536 := by
  unfold mxCheck
  repeat' split
  all_goals decide

theorem mxGang_lt (e : QEntry) : mxGang e < 4 := fld_lt _ _ _

/-- A checked command names a gang that its mode has. -/
theorem mxCheck_qsel {x : Tile} {e : QEntry} (h : mxCheck x e = 0) : mxQsel e < gangCount (mxGang e) := by
  have hs := mxCheck_shape x e h
  simp only [mxShapeBad, Bool.or_eq_false_iff, decide_eq_false_iff_not, Nat.not_le] at hs
  exact hs.1.1

/-- Two tiles differ at most in their registers, their queues, and the note of what the cycle has seen. -/
def Tile.TakeOnly (x y : Tile) : Prop := y = { x with regs := y.regs, queues := y.queues, now := y.now }

theorem Tile.TakeOnly.trans {x y z : Tile} (h : x.TakeOnly y) (h' : y.TakeOnly z) : x.TakeOnly z := by
  unfold Tile.TakeOnly at *
  rw [h', h]

theorem Tile.RegsOnly.takeOnly {x y : Tile} (h : x.RegsOnly y) : x.TakeOnly y := by
  unfold Tile.RegsOnly at h
  unfold Tile.TakeOnly
  rw [h]

theorem Tile.takeCmd_takeOnly (x : Tile) (en i : Nat) : x.TakeOnly (x.takeCmd en i) := rfl

/-- A command taken and rejected: it leaves the queue, the fault is recorded, and nothing else changes (R34, R109). -/
theorem matrixReject_facts (x : Tile) (i code : Nat) (hlt : code < 65536) :
    x.TakeOnly (x.reject 0 i code) ∧
    (x.reject 0 i code).queue 0 = listDrop1 (x.queue 0) i ∧
    (x.reject 0 i code).f Reg.ladleFault 31 31 = 1 ∧ (x.reject 0 i code).f Reg.ladleFault 20 20 = 1 ∧
    (x.f Reg.ladleFault 31 31 = 0 → (x.reject 0 i code).f Reg.ladleFault 15 0 = code ∧
      (x.reject 0 i code).f Reg.ladleFault 18 16 = 0 ∧
      (x.reject 0 i code).reg Reg.ladleFaultSeq = x.reg Reg.ladleCmdcntMx + 1) ∧
    (x.f Reg.ladleFault 31 31 = 1 → (x.reject 0 i code).f Reg.ladleFault 24 24 = 1 ∧
      (x.reject 0 i code).f Reg.ladleFault 15 0 = x.f Reg.ladleFault 15 0) := by
  have hf : ∀ hi lo, (x.takeCmd 0 i).f Reg.ladleFault hi lo = x.f Reg.ladleFault hi lo := fun hi lo => by
    rw [Tile.f, takeCmd_reg x 0 i _ (by decide), Tile.f]
  have hseq : BitVec.ofNat 32 ((x.takeCmd 0 i).cmdSeq 0) = x.reg Reg.ladleCmdcntMx + 1 := by
    rw [Tile.cmdSeq, BitVec.ofNat_toNat, BitVec.setWidth_eq]
    exact tabGet_set_same _ _ _ _
  have honly := Tile.recordFault_only (x.takeCmd 0 i) code 0 ((x.takeCmd 0 i).cmdSeq 0)
  obtain ⟨hvalid, hstop, hfirst, hfurther⟩ := Tile.recordFault_facts (x.takeCmd 0 i) code 0 ((x.takeCmd 0 i).cmdSeq 0)
  have hrej : x.reject 0 i code = (x.takeCmd 0 i).recordFault code 0 ((x.takeCmd 0 i).cmdSeq 0) := rfl
  rw [hf, hseq, Nat.mod_eq_of_lt hlt] at hfirst
  rw [hf, hf] at hfurther
  rw [hrej]
  have hqueue : ((x.takeCmd 0 i).recordFault code 0 ((x.takeCmd 0 i).cmdSeq 0)).queue 0 = listDrop1 (x.queue 0) i := by
    rw [honly]
    exact tabGet_set_same _ _ _ _
  exact ⟨(Tile.takeCmd_takeOnly x 0 i).trans honly.takeOnly, hqueue, hvalid, hstop (by decide), hfirst,
    fun h1 => ⟨(hfurther h1).1, (hfurther h1).2.1⟩⟩

/-- The command at the head of gang g's order that fails a check is rejected, for a pass and a weight load alike: the
tile that its rejection gives differs in registers, the queue and the cycle's notes (R34, R109). -/
theorem matrixCommand_rejects {x : Tile} {op g i cyc : Nat} {e : QEntry} (compat : Bool) (hready : x.mxReady = true)
    (hhead : gangHead x.gang g 0 (x.queue 0) = some (i, e)) (hop : opc e = op) (hstarts : x.startsNow i e cyc = true)
    (hcheck : mxCheck x e ≠ 0) :
    ∃ y, x.matrixCommand op g compat cyc = y ∧ x.TakeOnly y ∧
      y.queue 0 = listDrop1 (x.queue 0) i ∧ y.f Reg.ladleFault 31 31 = 1 ∧ y.f Reg.ladleFault 20 20 = 1 ∧
      (x.f Reg.ladleFault 31 31 = 0 → y.f Reg.ladleFault 15 0 = mxCheck x e ∧ y.f Reg.ladleFault 18 16 = 0 ∧
        y.reg Reg.ladleFaultSeq = x.reg Reg.ladleCmdcntMx + 1) ∧
      (x.f Reg.ladleFault 31 31 = 1 → y.f Reg.ladleFault 24 24 = 1 ∧
        y.f Reg.ladleFault 15 0 = x.f Reg.ladleFault 15 0) := by
  have hpat := takePattern_only x e
  have hf : ∀ hi lo, (x.takePattern e).f Reg.ladleFault hi lo = x.f Reg.ladleFault hi lo := fun hi lo => by
    rw [Tile.f, takePattern_reg x e (by decide), Tile.f]
  have hcnt : (x.takePattern e).reg Reg.ladleCmdcntMx = x.reg Reg.ladleCmdcntMx := takePattern_reg x e (by decide)
  obtain ⟨hform, hqueue, hvalid, hstop, hfirst, hfurther⟩ := matrixReject_facts (x.takePattern e) i _ (mxCheck_lt x e)
  rw [hf, hcnt] at hfirst
  rw [hf, hf] at hfurther
  refine ⟨(x.takePattern e).reject 0 i (mxCheck x e), ?_, hpat.takeOnly.trans hform, ?_, hvalid, hstop, hfirst, hfurther⟩
  · rw [matrixCommand_eq x op g i cyc e compat hready hhead hop hstarts, if_pos hcheck]
  · rw [hqueue, hpat]
    rfl

/-- A mode change sets the mode and nothing else (R25). -/
theorem modeChange_eq {x : Tile} {e : QEntry} {l : List QEntry} (hready : x.mxReady = true) (hq : x.queue 0 = e :: l)
    (hop : isMatrixOp (opc e) = true) (hne : mxGang e ≠ x.gang) (hwaits : mxWaits x e = false)
    (hfed : x.linksFed = true) (hcheck : mxCheck x e = 0) : x.modeChange = { x with gang := mxGang e } := by
  simp only [Tile.modeChange, hready, hq, hop, hwaits, hfed, takePattern_ok x e hcheck, hcheck, Bool.not_true,
    beq_eq_false_iff_ne.mpr hne, Bool.or_self, Bool.false_eq_true, if_false, ne_eq, not_true_eq_false]

end Sys2Proof.Machine
end

section
open Sys2Proof Sys2Proof.Machine

/-- Settles O6: each clause is what the engine's command does to its tile, run as a step of the tile's unit. -/
theorem matrixChecksWeightsAndModes : Obligations.MatrixChecksWeightsAndModes := by
  refine ⟨fun s t g i e x hx hc hready hhead hstarts hcheck c hop => ?_,
    fun s t g i e x hx hc hready hhead hop hstarts hcheck => ?_, fun s t e l x hx hc hready hq hop hne hwaits hfed hcheck => ?_⟩
  · obtain ⟨op, hopc, hexec⟩ : ∃ op, opc e = op ∧
        exec c s = .next (s.tileUnit t (fun x => x.matrixCommand op g (s.compat t) s.cyc)) := by
      rcases hop with ⟨h, rfl⟩ | ⟨h, rfl⟩
      · exact ⟨0x10, h, rfl⟩
      · exact ⟨0x11, h, rfl⟩
    obtain ⟨y, hy, hform, hqueue, hvalid, hstop, hfirst, hfurther⟩ :=
      matrixCommand_rejects (s.compat t) hready hhead hopc hstarts hcheck
    have htile : y = (s.tileUnit t (fun x => x.matrixCommand op g (s.compat t) s.cyc)).tile t := by
      rw [State.tileUnit_tile s _ hc, ← hx, hy]
    refine ⟨_, y, hexec, State.tileUnit_only s _ hc, htile, hqueue, hvalid, hstop, hfirst, hfurther, ?_⟩
    rw [Tile.TakeOnly] at hform
    rw [hform]
    exact ⟨⟨rfl, rfl, rfl, rfl, rfl, rfl, rfl, rfl, rfl, rfl, rfl, rfl, rfl, rfl, rfl⟩, ⟨rfl, rfl, rfl, rfl, rfl⟩,
      ⟨rfl, rfl, rfl, rfl, rfl, rfl⟩, ⟨rfl, rfl, rfl⟩, ⟨rfl, rfl, rfl, rfl, rfl, rfl, rfl, rfl, rfl, rfl, rfl, rfl⟩,
      ⟨rfl, rfl, rfl, rfl⟩, ⟨rfl, rfl, rfl, rfl, rfl, rfl, rfl⟩⟩
  · obtain ⟨hgang, hqsel, -⟩ := gangHead_facts _ _ _ _ hhead
    obtain ⟨rg, lo, hstart, ⟨kept, hlo, hkept⟩, hcount, hregs⟩ := startLoad_form x i e s.cyc hop
    have hcmd : x.matrixCommand 0x11 g (s.compat t) s.cyc = x.startLoad i e s.cyc := by
      rw [matrixCommand_eq x 0x11 g i s.cyc e (s.compat t) hready hhead hop hstarts, if_neg (not_not.mpr hcheck),
        if_pos rfl]
    have hquarters := gangQuarters_lt _ _ (mxGang_lt e) (mxCheck_qsel hcheck)
    have hset : ∀ b q, q ∈ gangQuarters (mxGang e) (mxQsel e) →
        bit (setBits b (gangQuarters (mxGang e) (mxQsel e)) true) q = true :=
      fun b q hq => setBits_hit _ b q hquarters (hquarters q hq) (.inl hq)
    refine ⟨_, kept, congrArg Host.Outcome.next (tileUnit_eq s t x _ _ hx hc (hcmd.trans hstart) (hregs _ (by decide))),
      tabGet_set_same _ _ _ _, hcount, by rw [hlo], hkept, fun q hq => ?_, rfl, rfl, rfl, rfl, rfl, rfl, rfl, rfl,
      ⟨rfl, rfl, rfl, rfl, rfl⟩, ⟨rfl, rfl, rfl, rfl, rfl, rfl⟩, ⟨rfl, rfl, rfl⟩,
      ⟨rfl, rfl, rfl, rfl, rfl, rfl, rfl, rfl, rfl, rfl, rfl, rfl⟩, ⟨rfl, rfl, rfl, rfl⟩,
      ⟨rfl, rfl, rfl, rfl, rfl, rfl, rfl⟩, fun o ho => hregs o (by simpa using ho)⟩
    rw [← hgang, ← hqsel] at hq
    exact ⟨hset _ q hq, hset _ q hq⟩
  · exact congrArg Host.Outcome.next
      (tileUnit_eq s t x _ _ hx hc (modeChange_eq hready hq hop hne hwaits hfed hcheck) rfl)
end

section
namespace Sys2Proof.Machine

/-! ### Holds of a stream -/

/-- A stream without holds keeps to its schedule (R26). -/
theorem itemCycle_noHold {st : Stream} (h : st.holds = []) (i j n : Nat) : st.itemCycle i j n = st.dueCycle i j n := by
  rw [Stream.itemCycle, h]

/-- A first hold delays the items of its set by its delay, and no other (R40, R41). -/
theorem itemCycle_firstHold {st : Stream} (hnone : st.holds = []) (h : Hold) (i j n : Nat) :
    ({ st with holds := st.holds ++ [h] } : Stream).itemCycle i j n =
      st.itemCycle i j n + (if holdHits (gangRows st.gang) h i j n then holdDelay st.m16 h else 0) := by
  rw [itemCycle_noHold hnone, Stream.itemCycle, hnone]
  rfl

/-- A row hold's delayed set (R40). -/
theorem holdHits_row (gr k n0 d till i j n : Nat) :
    holdHits gr ⟨true, k, n0, d, till⟩ i j n = true ↔ n0 + k ≤ n + min i k := by
  simp only [holdHits, if_true, decide_eq_true_eq]

/-- A column refusal's delayed set (R41). -/
theorem holdHits_col (gr k n0 d till i j n : Nat) :
    holdHits gr ⟨false, k, n0, d, till⟩ i j n = true ↔ n0 + gr + k ≤ n + i + min j k := by
  simp only [holdHits, Bool.false_eq_true, if_false, decide_eq_true_eq]

/-- ROW_LINK_HOLD at an empty link of an enabled row: the gang's stream gets the hold, the row link its gap. -/
theorem rowHold_eq {x : Tile} {g k0 n0 : Nat} {st : Stream} (d : Nat) (hst : tabGet streamD x.streams g = some st)
    (hk : k0 < gangRows st.gang) (hempty : tabGet linkD x.arr.rows (rowKey st.gang g k0) = [])
    (hpass : ∃ p ∈ x.passes, p.qsel = g ∧ k0 < mxK p.entry ∧ p.pos ≤ n0 ∧ n0 < p.pos + p.tCount) :
    ∃ gaps, x.rowHold g k0 n0 d = { x with
      streams := tabSet streamD x.streams g
        (some { st with holds := st.holds ++ [⟨true, k0, n0, d, st.itemCycle k0 0 n0 + d⟩] })
      arr := { x.arr with gaps := gaps } } := by
  have hany : x.passes.any (fun p => p.qsel == g && decide (k0 < mxK p.entry) && decide (p.pos ≤ n0) &&
      decide (n0 < p.pos + p.tCount)) = true := by
    obtain ⟨p, hp, hq, hK, hlo, hhi⟩ := hpass
    exact List.any_eq_true.mpr ⟨p, hp, by simp [hq, hK, hlo, hhi]⟩
  exact ⟨_, by simp only [Tile.rowHold, hst, hk, hempty, hany, and_self, if_true]; rfl⟩

/-- COLUMN_LINK_REFUSE at a full link: the gang's stream gets the refusal, the column link its gap. -/
theorem colHold_eq {x : Tile} {g k0 : Nat} {st : Stream} (n0 d : Nat) (hst : tabGet streamD x.streams g = some st)
    (hk : k0 < gangCols st.gang) (hfull : 8 ≤ (tabGet colD x.arr.cols (colKey st.gang g k0)).length) :
    ∃ gaps, x.colHold g k0 n0 d = { x with
      streams := tabSet streamD x.streams g
        (some { st with holds := st.holds ++ [⟨false, k0, n0, d, st.linkCycle k0 n0 + d⟩] })
      arr := { x.arr with gaps := gaps } } :=
  ⟨_, by simp only [Tile.colHold, hst, hk, hfull, and_self, if_true]; rfl⟩

end Sys2Proof.Machine
end

section
open Sys2Proof Sys2Proof.Machine

/-- Settles O8: either event appends one hold to the gang's stream, and a stream's only hold delays its set alone. -/
theorem holdsDelayExactlyTheirItems : Obligations.HoldsDelayExactlyTheirItems := by
  rintro s t g k0 n0 d st x hx hc hst hnone row c (⟨rfl, rfl, hk, hempty, hpass⟩ | ⟨rfl, rfl, hk, hfull⟩)
  · obtain ⟨gaps, hhold⟩ := rowHold_eq d hst hk hempty hpass
    refine ⟨_, gaps, _, congrArg Host.Outcome.next (tileUnit_eq s t x _ _ hx hc hhold rfl), tabGet_set_same _ _ _ _,
      fun g' hg' => tabGet_set_ne _ _ _ hg', fun i j n => ?_⟩
    simp only [itemCycle_firstHold hnone, holdHits_row, holdDelay, if_true]
  · obtain ⟨gaps, hhold⟩ := colHold_eq n0 d hst hk hfull
    refine ⟨_, gaps, _, congrArg Host.Outcome.next (tileUnit_eq s t x _ _ hx hc hhold rfl), tabGet_set_same _ _ _ _,
      fun g' hg' => tabGet_set_ne _ _ _ hg', fun i j n => ?_⟩
    simp only [itemCycle_firstHold hnone, holdHits_col, holdDelay, Bool.false_eq_true, if_false]
end

section
namespace Sys2Proof.Machine

/-! ### Instructions of the scalar core -/

/-- What an instruction asks for depends on the core's registers alone. -/
theorem scDecode_congr {x w : Tile} (h : w.xr = x.xr) (pc i : Word) : scDecode w pc i = scDecode x pc i := by
  have hreg : w.x = x.x := by
    funext r
    simp only [Tile.x, h]
  simp only [scDecode, hreg]

theorem sees_congr {x w : Tile} (hbuf : w.sbuf = x.sbuf) (hscr : w.scratch = x.scratch) (a n : Nat) :
    w.sees a n = x.sees a n := by
  induction n generalizing a with
  | zero => rfl
  | succ n ih => simp only [Tile.sees, Tile.seesByte, Tile.rd8, hbuf, hscr, ih]

/-- A ready core whose banks serve it fetches the word at its pc, which only counts in the scratch ECC register, and
executes it. -/
theorem scalarInstruction_fetched (s : State) {t : Nat} {x : Tile} (hx : x = s.tile t) (hready : x.scReady = true)
    (hend : x.pc.toNat + 4 ≤ scratchSize) (hal : x.pc.toNat % 4 = 0) (hgood : (x.scrReads [(x.pc.toNat, 4)]).2 = false)
    (hin : x.inScr = []) (hbanks : x.banksFree s.cyc 7 x.scReads = true) :
    ∃ y : Tile, s.scalarInstruction t = s.scExecute t y (scDecode x x.pc (BitVec.ofNat 32 (x.rd32 x.pc.toNat))) ∧
      x.RegsSame y [Reg.ladleScrEcc] ∧ y = { x with regs := y.regs, now := y.now } := by
  subst hx
  generalize hx : s.tile t = x at *
  have hstall : x.stall = none := by
    simp only [Tile.scReady, Bool.and_eq_true, Option.isNone_iff_eq_none] at hready
    exact hready.1.2
  have hw := wonBanks_now x 7 x.scReads (by decide) (by decide)
  generalize hww : x.wonBanks 7 x.scReads = w at hw
  obtain ⟨rg, hrg, hreg⟩ := scrReads_form w [(x.pc.toNat, 4)]
  have hnext := scNext_word w (by rw [hw]; exact hend) (by rw [hw]; exact hal) (by rw [hw]; exact hgood)
  have hpc : w.pc = x.pc := by rw [hw]
  have hword : w.rd32 x.pc.toNat = x.rd32 x.pc.toNat := by rw [hw]; rfl
  rw [hpc, hrg, hword, scDecode_congr (x := x) (by rw [hw])] at hnext
  refine ⟨{ w with regs := rg }, ?_, fun o ho => ?_, by rw [hw]⟩
  · have hserved : s.scalarInstruction t = s.scServed t (fun s => s.scStep t) := by
      simp only [State.scalarInstruction, hx, hstall, hready, if_true]
    rw [hserved, scServed_ok s t _ (by rw [hx]; exact hin) (by rw [hx]; exact hbanks), hx, hww,
      scStep_ok (s.setTile t w) t _ _ (by rw [State.setTile_tile_same]; exact hnext)]
    simp only [State.scExecute, State.setTile_setTile]
  · rw [List.mem_singleton] at ho
    show tabGet tileRegD rg o = _
    rw [hreg o ho, hw]
    rfl

/-- An instruction that records no fault leaves the tile that its execution gives. -/
theorem exec_scalarInstruction_same (s : State) {t : Nat} {y z : Tile} {act : ScAct} (hc : s.clocked t = true)
    (hstep : s.scalarInstruction t = s.scExecute t y act) (hz : s.scExecute t y act = s.setTile t z)
    (hf : z.reg Reg.ladleFault = (s.tile t).reg Reg.ladleFault) :
    exec (.scalarInstruction t) s = .next (s.setTile t z) := by
  show Host.Outcome.next (s.unitStep t (fun s => s.scalarInstruction t)) = _
  rw [unitStep_same s t _ hc] <;> rw [hstep, hz]
  rw [State.setTile_tile_same]
  exact hf

/-- A unit's step that gives s with tile t replaced changes tile t alone, but for a trace record. -/
theorem unitStep_tileOnly (s : State) {t : Nat} {f : State → State} {z : Tile} (hc : s.clocked t = true)
    (hf : f s = s.setTile t z) : ∃ u, s.unitStep t f = u ∧ s.TileOnly u t ∧ u.tile t = z := by
  obtain ⟨pairs, hostMem, h⟩ := s.faultTraced_only t f
  rw [hf] at h
  refine ⟨_, rfl, ⟨z, pairs, hostMem, ?_⟩, ?_⟩
  · rw [unitStep_eq s t f hc, h]
  · rw [unitStep_eq s t f hc, h, State.traced_tile, State.setTile_tile_same]

theorem setX_only (x : Tile) (rd : Nat) (v : Word) : x.setX rd v = { x with xr := (x.setX rd v).xr } := by
  obtain ⟨xr, h, -⟩ := setX_form x rd v
  rw [h]

/-- A write of rd is read back, and leaves the other registers. -/
theorem setX_x (x : Tile) (rd : Nat) (v : Word) {r : Nat} (hr : r ≠ 0) : (x.setX rd v).x r = if r = rd then v else x.x r := by
  obtain ⟨xr, h, hget⟩ := setX_form x rd v
  rw [h]
  simp only [Tile.x, hr, if_false]
  exact hget r hr

theorem setX_reg (x : Tile) (rd : Nat) (v : Word) (o : Nat) : (x.setX rd v).reg o = x.reg o := by
  rw [setX_only]
  rfl

theorem scJump_aligned (y : Tile) (rd : Nat) {target : Word} (h : target.toNat % 4 = 0) :
    y.scJump rd target = { y.setX rd (y.pc + 4) with pc := target } := by
  rw [Tile.scJump, if_neg (not_not.mpr h)]

theorem scExecute_load (s : State) (t : Nat) (y : Tile) (rd : Nat) (addr : Word) (size : Nat) (signed : Bool)
    (hend : addr.toNat + size ≤ scratchSize) (hal : addr.toNat % size = 0)
    (hgood : (y.scrReads [(addr.toNat, size)]).2 = false) :
    s.scExecute t y (.load rd addr size signed) = s.setTile t
      { ((y.scrReads [(addr.toNat, size)]).1.setX rd
          (if signed then sext (8 * size) (y.sees addr.toNat size) else BitVec.ofNat 32 (y.sees addr.toNat size))) with
        pc := (y.scrReads [(addr.toNat, size)]).1.pc + 4 } := by
  simp only [State.scExecute, State.scLoad, State.setTile_tile_same, hend, if_true, hal, ne_eq, not_true_eq_false, if_false,
    hgood, Bool.false_eq_true, State.modTile, State.setTile_setTile]

theorem scExecute_store (s : State) (t : Nat) (y : Tile) (addr : Word) (size : Nat) (val : Word)
    (hend : addr.toNat + size ≤ scratchSize) (hal : addr.toNat % size = 0) (hroom : y.sbuf.length < 4) :
    s.scExecute t y (.store addr size val) = s.setTile t
      { y with sbuf := y.sbuf ++ [⟨addr.toNat, size, BitVec.ofNat 32 (val.toNat % 2 ^ (8 * size))⟩], pc := y.pc + 4 } := by
  simp only [State.scExecute, State.scStore, State.setTile_tile_same, hend, if_true, hal, ne_eq, not_true_eq_false, if_false,
    Nat.not_le.mpr hroom, State.setTile_setTile, Tile.bufferStore]

/-- The fault of an illegal instruction stops the core with CZ_ERR_SC_TRAP (R109, R111). -/
theorem scFault_facts (y : Tile) (code : Nat) : (y.scFault code).f Reg.ladleFault 31 31 = 1 ∧
    (y.scFault code).stopped 2 = true ∧
    (y.f Reg.ladleFault 31 31 = 0 → (y.scFault code).f Reg.ladleFault 15 0 = code % 65536 ∧
      (y.scFault code).f Reg.ladleFault 18 16 = 2) ∧
    (y.scFault code).xr = y.xr := by
  obtain ⟨hvalid, hstop, hfirst, -⟩ := Tile.recordFault_facts ({ y with pc := y.pc + 4 } : Tile) code 2 0
  have honly := Tile.recordFault_only ({ y with pc := y.pc + 4 } : Tile) code 2 0
  refine ⟨hvalid, beq_iff_eq.mpr (hstop (by decide)), fun h0 => ?_, ?_⟩
  · obtain ⟨hcode, heng, -⟩ := hfirst h0
    exact ⟨hcode, heng⟩
  · rw [Tile.scFault, honly]

end Sys2Proof.Machine
end

section
open Sys2Proof Sys2Proof.Machine

/-- Settles O18: the word at the pc is fetched without a fault, and each kind of act is one change of the tile. -/
theorem scalarInstructionsExecute : Obligations.ScalarInstructionsExecute := by
  intro s t i x hx hc hready hend hal hgood hi hin hbanks
  obtain ⟨y, hstep, hregs, hy⟩ := scalarInstruction_fetched s hx hready hend hal hgood hin hbanks
  rw [← hi] at hstep
  have hfault : y.reg Reg.ladleFault = (s.tile t).reg Reg.ladleFault := hx ▸ hregs _ (by decide)
  have hxr : ∀ r, y.x r = x.x r := fun r => by rw [hy]; rfl
  have hpc : y.pc = x.pc := by rw [hy]
  refine ⟨fun rd v ha => ?_, fun rd target ha h4 => ?_, fun taken target ha h4 => ?_, fun rd addr size signed ha hle hsz hrd => ?_,
    fun addr size val ha hle hsz hroom => ?_, fun ha => ?_⟩ <;> rw [ha] at hstep
  · refine ⟨{ y.setX rd v with pc := y.pc + 4 }, exec_scalarInstruction_same s hc hstep (State.setTile_setTile ..) ((setX_reg _ _ _ _).trans hfault),
      ?_, fun r hr => ?_, fun o ho => (setX_reg _ _ _ _).trans (hregs o ho), ?_⟩
    · rw [← hpc]
    · rw [← hxr]
      exact setX_x y rd v hr
    · rw [setX_only, hy]
  · refine ⟨{ y.setX rd (y.pc + 4) with pc := target },
      exec_scalarInstruction_same s hc hstep (by simp only [State.scExecute, State.setTile_setTile, scJump_aligned y rd h4])
        ((setX_reg _ _ _ _).trans hfault),
      rfl, fun r hr => ?_, fun o ho => (setX_reg _ _ _ _).trans (hregs o ho), ?_⟩
    · rw [← hxr, ← hpc]
      exact setX_x y rd _ hr
    · rw [setX_only, hy]
  · refine ⟨{ y with pc := if taken then target else y.pc + 4 }, exec_scalarInstruction_same s hc hstep ?_ hfault, ?_, hregs, ?_⟩
    · cases taken
      · simp only [State.scExecute, State.setTile_setTile, Bool.false_eq_true, if_false]
      · simp only [State.scExecute, State.setTile_setTile, scJump_aligned y 0 h4, Tile.setX, if_true]
    · rw [hpc]
    · rw [hy]
  · have hsees : y.sees addr.toNat size = x.sees addr.toNat size := sees_congr (by rw [hy]) (by rw [hy]) _ _
    obtain ⟨rg, hrg, hrgs⟩ := scrReads_form y [(addr.toNat, size)]
    have hload := scExecute_load s t y rd addr size signed hle hsz ((scReads_bad x y (by rw [hy]) _).trans hrd)
    rw [hrg, hsees] at hload
    have hsame : x.RegsSame { y with regs := rg } [Reg.ladleScrEcc] := fun o ho =>
      (hrgs o (by simpa using ho)).trans (hregs o ho)
    refine ⟨_, exec_scalarInstruction_same s hc hstep hload ((setX_reg _ _ _ _).trans (hx ▸ hsame _ (by decide))),
      ?_, fun r hr => ?_, fun o ho => (setX_reg _ _ _ _).trans (hsame o ho), ?_⟩
    · rw [← hpc]
    · rw [← hxr]
      exact setX_x _ rd _ hr
    · rw [setX_only, hy]
  · have hbuf : y.sbuf = x.sbuf := by rw [hy]
    refine ⟨_, exec_scalarInstruction_same s hc hstep (scExecute_store s t y addr size val hle hsz (hbuf ▸ hroom)) hfault,
      ?_, ?_, hregs, ?_⟩
    · rw [← hpc]
    · rw [← hbuf]
    · rw [hy]
  · obtain ⟨u, hu, honly, htile⟩ := unitStep_tileOnly s (f := fun s => s.scalarInstruction t) (z := y.scFault 0x251) hc
      (by rw [hstep]; simp only [State.scExecute, State.setTile_setTile])
    obtain ⟨hvalid, hstop, hfirst, hxrs⟩ := scFault_facts y 0x251
    refine ⟨u, congrArg Host.Outcome.next hu, honly, ?_⟩
    rw [htile]
    refine ⟨hvalid, hstop, fun h0 => hfirst ?_, by rw [hxrs, hy]⟩
    rw [Tile.f, hregs _ (by decide)]
    exact h0
end

section
namespace Sys2Proof.Machine

/-! ### Accesses to scratch at one rank -/

@[simp] theorem banksFree_nil (x : Tile) (cyc : Nat) (rank : Rank) : x.banksFree cyc rank [] = true := rfl

@[simp] theorem wonBanks_nil (x : Tile) (rank : Rank) : x.wonBanks rank [] = x := rfl

theorem mem_linesOf_append (rs rs' : List (Nat × Nat)) (l : Nat) : l ∈ linesOf (rs ++ rs') ↔ l ∈ linesOf rs ∨ l ∈ linesOf rs' := by
  simp only [linesOf, List.mem_dedup, List.flatMap_append, List.mem_append]

/-- The banks serve two lists of ranges in either order. -/
theorem banksFree_append_comm (x : Tile) (cyc : Nat) (rank : Rank) (rs rs' : List (Nat × Nat))
    (h : x.banksFree cyc rank (rs ++ rs') = true) : x.banksFree cyc rank (rs' ++ rs) = true := by
  rw [Tile.banksFree, List.all_eq_true] at h ⊢
  intro l hl
  exact h l ((mem_linesOf_append rs rs' l).mpr ((mem_linesOf_append rs' rs l).mp hl).symm)

/-- An access that ranks with or above the Ladles and has its banks is made. -/
theorem served_won (x : Tile) {cyc : Nat} {rank : Rank} {rs : List (Nat × Nat)} (f : Tile → Tile) (hr : rank < 5)
    (h : x.banksFree cyc rank rs = true) : x.served cyc rank rs f = f (x.wonBanks rank rs) := by
  simp only [Tile.served, hr, if_true, Tile.onBanks, h]

/-- One that does not have them is lost. -/
theorem served_lost (x : Tile) {cyc : Nat} {rank : Rank} {rs : List (Nat × Nat)} (f : Tile → Tile) (hr : rank < 5)
    (h : x.banksFree cyc rank rs = false) : x.served cyc rank rs f = x.lostBanks cyc rank rs := by
  simp only [Tile.served, hr, if_true, Tile.onBanks, h, Bool.false_eq_true, if_false]

/-! ### Rows of a drain -/

/-- A drain whose row has its banks goes on with a tile of which winning them has changed the cycle's notes alone. -/
theorem drainTurn_won {x : Tile} {cyc q : Nat} (h : x.banksFree cyc 2 (x.drainSpans q) = true) :
    ∃ w : Tile, x.drainTurn cyc q = w.drainRow q ∧ w = { x with now := w.now } :=
  ⟨x.wonBanks 2 (x.drainSpans q), served_won x _ (by decide) h, wonBanks_now x 2 _ (by decide) (by decide)⟩

/-- DRAIN_ROW, which records no fault, leaves the tile that the quarter's turn gives. -/
theorem exec_drainRow_same {s : State} {t q : Nat} {x y : Tile} (hx : x = s.tile t) (hc : s.clocked t = true) (hq : q < 4)
    (hy : x.drainTurn s.cyc q = y) (hf : y.reg Reg.ladleFault = x.reg Reg.ladleFault) :
    exec (.drainRow t q) s = .next (s.setTile t y) := by
  show Host.Outcome.next (s.when (decide (q < 4)) _) = _
  rw [State.when, if_pos (decide_eq_true hq), tileUnit_eq s t x y _ hx hc hy hf]

theorem owes_congr (j : DrainJob) {x w : Tile} (h : w = { x with now := w.now }) : j.owes w = j.owes x := by
  rw [h]
  rfl

theorem drainHead_congr {x w : Tile} (h : w.drains = x.drains) (q : Nat) : w.drainHead q = x.drainHead q := by
  rw [Tile.drainHead, h, Tile.drainHead]

/-- A drain without a row writes none (R455). -/
theorem drainSpans_empty {x : Tile} {q : Nat} {j : DrainJob} (hj : x.drainHead q = some j) (h0 : j.tCount = 0) :
    x.drainSpans q = [] := by
  simp only [Tile.drainSpans, hj, h0, decide_true, Bool.true_or, if_true]

/-- It ends. -/
theorem drainRow_empty {x : Tile} {q : Nat} {j : DrainJob} (hj : x.drainHead q = some j) (h0 : j.tCount = 0) :
    x.drainRow q = { x with drains := dropFirst (fun d => d.quarter == q) x.drains } := by
  simp only [Tile.drainRow, hj, h0, if_true]

/-- A drain that needs no other quarter writes its row alone. -/
theorem drainSpans_alone {x : Tile} {j : DrainJob} (hj : x.drainHead j.quarter = some j) (h0 : j.tCount ≠ 0)
    (howes : j.owes x = false) (halone : ¬(j.wide = true ∧ cvRot j.cvt = 2)) : x.drainSpans j.quarter = j.spans := by
  simp only [Tile.drainSpans, hj, h0, howes, decide_false, Bool.or_self, Bool.false_eq_true, if_false, Bool.and_eq_true,
    decide_eq_true_eq, halone]

theorem drainRow_alone {x : Tile} {j : DrainJob} (hj : x.drainHead j.quarter = some j) (h0 : j.tCount ≠ 0)
    (howes : j.owes x = false) (halone : ¬(j.wide = true ∧ cvRot j.cvt = 2)) :
    x.drainRow j.quarter = x.drainPart j (x.rowAlone j) := by
  rw [DrainJob.owes] at howes
  simp only [Tile.drainRow, hj, h0, howes, Bool.false_eq_true, if_false, Bool.and_eq_true, decide_eq_true_eq, halone]

/-- The drains of the two quarters of a 128-column gang with ROT = 2, at one row (R97). -/
structure Tile.DrainsPair (x : Tile) (l r : DrainJob) : Prop where
  left  : x.drainHead l.quarter = some l
  right : x.drainHead r.quarter = some r
  next  : r.quarter = l.quarter + 1
  wide  : l.wide = true ∧ r.wide = true
  rot   : cvRot l.cvt = 2 ∧ cvRot r.cvt = 2
  col0  : l.col0 = 0 ∧ r.col0 = 64
  nCols : l.nCols = 128 ∧ r.nCols = 128
  same  : r.seq = l.seq ∧ r.row = l.row
  rows  : l.tCount ≠ 0 ∧ r.tCount ≠ 0
  owes  : l.owes x = false ∧ r.owes x = false

theorem Tile.DrainsPair.congr {x w : Tile} {l r : DrainJob} (h : x.DrainsPair l r) (hw : w = { x with now := w.now }) :
    w.DrainsPair l r := by
  have hdrains : w.drains = x.drains := by rw [hw]
  exact { h with
    left := (drainHead_congr hdrains _).trans h.left
    right := (drainHead_congr hdrains _).trans h.right
    owes := ⟨(owes_congr l hw).trans h.owes.1, (owes_congr r hw).trans h.owes.2⟩ }

/-- Each quarter of a pair writes the rows of both. -/
theorem Tile.DrainsPair.spans {x : Tile} {l r : DrainJob} (h : x.DrainsPair l r) :
    x.drainSpans l.quarter = l.spans ++ r.spans ∧ x.drainSpans r.quarter = r.spans ++ l.spans := by
  obtain ⟨hl, hr, hnext, ⟨hlw, hrw⟩, ⟨hlrot, hrrot⟩, ⟨hl0, hr0⟩, -, ⟨hseq, hrow⟩, ⟨hlt, hrt⟩, hlo, hro⟩ := h
  rw [hnext] at hr
  constructor
  · simp only [Tile.drainSpans, hl, hr, hlt, hlo, hro, hlw, hlrot, hl0, hseq, hrow, decide_false, decide_true, Bool.and_self,
      Bool.or_self, Bool.false_eq_true, if_false, if_true, ne_eq, not_true_eq_false]
  · rw [hnext]
    simp only [Tile.drainSpans, hl, hr, hrt, hlo, hro, hrw, hrrot, hr0, hseq, hrow, decide_false, decide_true, Bool.and_self,
      Bool.or_self, Bool.false_eq_true, if_false, if_true, ne_eq, not_true_eq_false, Nat.add_sub_cancel,
      show ¬((64 : Nat) = 0) by decide]

/-- The event at either quarter of a pair takes the row through both output stages. -/
theorem Tile.DrainsPair.drainRow {x : Tile} {l r : DrainJob} (h : x.DrainsPair l r) {q : Nat}
    (hq : q = l.quarter ∨ q = r.quarter) : ∃ pre : List (XNum × List (Nat × Nat)), pre.length ≤ 128 ∧
      x.drainRow q = (x.drainPart l (pre.take 64)).drainPart r (pre.drop 64) := by
  obtain ⟨hl, hr, hnext, ⟨hlw, hrw⟩, ⟨hlrot, hrrot⟩, ⟨hl0, hr0⟩, ⟨hln, hrn⟩, ⟨hseq, hrow⟩, ⟨hlt, hrt⟩, hlo, hro⟩ := h
  have hlen : (accVals (x.accRow l) ++ accVals (x.accRow r)).length = 128 := by
    simp [accVals, Tile.accRow, DrainJob.cols, hln, hrn, hl0, hr0]
  rw [DrainJob.owes] at hlo hro
  rw [hnext] at hr hro hq
  rw [hrow] at hro
  rcases hq with rfl | rfl
  · refine ⟨rotRow (cvFlush l.cvt) (cvInv l.cvt) l.pattern 128 (accVals (x.accRow l) ++ accVals (x.accRow r)),
      hlen ▸ rotRow_length _ _ _ _ _, ?_⟩
    simp only [Tile.drainRow, hl, hr, hlt, hlo, hro, hlw, hlrot, hl0, hseq, hrow, decide_false, decide_true, Bool.and_self,
      Bool.or_self, Bool.false_eq_true, if_false, if_true, ne_eq, not_true_eq_false]
  · refine ⟨rotRow (cvFlush r.cvt) (cvInv r.cvt) r.pattern 128 (accVals (x.accRow l) ++ accVals (x.accRow r)),
      hlen ▸ rotRow_length _ _ _ _ _, ?_⟩
    simp only [Tile.drainRow, hl, hr, hrt, hlo, hro, hrw, hrrot, hr0, hseq, hrow, decide_false, decide_true, Bool.and_self,
      Bool.or_self, Bool.false_eq_true, if_false, if_true, ne_eq, not_true_eq_false, Nat.add_sub_cancel,
      show ¬((64 : Nat) = 0) by decide]

/-- The head of a quarter's drains after its row is written, when rows remain. -/
theorem stepped_drainHead {x y : Tile} {q : Nat} {j : DrainJob} (hj : x.drainHead q = some j) (hmore : j.row + 1 < j.tCount)
    (hy : y.drains = if j.tCount ≤ j.row + 1 then dropFirst (fun d => d.quarter == q) x.drains
      else modDrain q (fun d => { d with row := d.row + 1 }) x.drains) :
    y.drainHead q = some { j with row := j.row + 1 } := by
  rw [Tile.drainHead, hy, if_neg (Nat.not_le.mpr hmore)]
  exact find_modDrain_same q (fun d => { d with row := d.row + 1 }) (fun _ => rfl) x.drains j hj

theorem find_dropFirst_ne {q q' : Nat} (hq : q' ≠ q) (l : List DrainJob) :
    (dropFirst (fun d : DrainJob => d.quarter == q) l).find? (fun d => d.quarter == q') =
      l.find? (fun d => d.quarter == q') := by
  induction l with
  | nil => rfl
  | cons a l ih =>
    rw [dropFirst]
    split
    · rename_i ha
      have hne : (a.quarter == q') = false := by
        rw [beq_iff_eq.mp ha]
        exact beq_eq_false_iff_ne.mpr hq.symm
      rw [List.find?_cons_of_neg (by rw [hne]; decide)]
    · rw [List.find?_cons, List.find?_cons, ih]

/-- A row of one quarter leaves the drains of every other. -/
theorem stepped_drainHead_ne {x y : Tile} {q q' : Nat} {j : DrainJob} (hq : q' ≠ q)
    (hy : y.drains = if j.tCount ≤ j.row + 1 then dropFirst (fun d => d.quarter == q) x.drains
      else modDrain q (fun d => { d with row := d.row + 1 }) x.drains) : y.drainHead q' = x.drainHead q' := by
  rw [Tile.drainHead, hy, Tile.drainHead]
  split
  · exact find_dropFirst_ne hq _
  · exact find_modDrain_ne q q' hq (fun d => { d with row := d.row + 1 }) (fun _ => rfl) _

/-- What one row of a pair leaves: both quarters' drains have stepped, and only bytes of their rows have changed. -/
theorem Tile.DrainsPair.drainPart_form {x : Tile} {l r : DrainJob} (h : x.DrainsPair l r)
    {pre : List (XNum × List (Nat × Nat))} (hpre : pre.length ≤ 128) :
    ∃ rg nw sc sb ch sk ge dr, (x.drainPart l (pre.take 64)).drainPart r (pre.drop 64) =
        { x with regs := rg, now := nw, scratch := sc, scrBad := sb, churn := ch, skim := sk, gens := ge, drains := dr } ∧
      (l.row + 1 < l.tCount → r.row + 1 < r.tCount →
        dr.find? (fun d => d.quarter == l.quarter) = some { l with row := l.row + 1 } ∧
        dr.find? (fun d => d.quarter == r.quarter) = some { r with row := r.row + 1 }) ∧
      (∀ o, o ∉ Reg.ladleScrEcc :: rennetEventRegs → tabGet tileRegD rg o = x.reg o) ∧
      (∀ a, (∀ z ∈ l.spans ++ r.spans, a < z.1 ∨ z.1 + z.2 ≤ a) → tabGet byteD sc a = tabGet byteD x.scratch a) := by
  have hne : r.quarter ≠ l.quarter := by
    rw [h.next]
    exact Nat.succ_ne_self _
  have hlcols : (pre.take 64).length ≤ l.cols := by
    rw [DrainJob.cols, h.nCols.1, h.col0.1, List.length_take]
    omega
  have hrcols : (pre.drop 64).length ≤ r.cols := by
    rw [DrainJob.cols, h.nCols.2, h.col0.2, List.length_drop]
    omega
  obtain ⟨rg, nw, sc, sb, ch, sk, ge, dr, hl, hdr, hregs, hout, -⟩ := Machine.drainPart_form x l (pre.take 64) h.left hlcols
  rw [hl]
  generalize hw : ({ x with regs := rg, now := nw, scratch := sc, scrBad := sb, churn := ch, skim := sk, gens := ge, drains := dr } : Tile) = w
  have hwdr : w.drains = dr := by rw [← hw]
  have hwregs : ∀ o, w.reg o = tabGet tileRegD rg o := fun o => by rw [← hw]; rfl
  have hwscratch : w.scratch = sc := by rw [← hw]
  have hwr : w.drainHead r.quarter = some r := (stepped_drainHead_ne hne (hwdr.trans hdr)).trans h.right
  obtain ⟨rg', nw', sc', sb', ch', sk', ge', dr', hr, hdr', hregs', hout', -⟩ := Machine.drainPart_form w r (pre.drop 64) hwr hrcols
  have hdrains : ((w.drainPart r (pre.drop 64))).drains = dr' := by rw [hr]
  refine ⟨rg', nw', sc', sb', ch', sk', ge', dr', ?_, fun hlmore hrmore => ⟨?_, ?_⟩, fun o ho => ?_, fun a ha => ?_⟩
  · rw [hr, ← hw]
  · have hstay := stepped_drainHead_ne hne.symm (hdrains.trans hdr')
    have hstep := stepped_drainHead h.left hlmore (hwdr.trans hdr)
    rw [hstep, Tile.drainHead, hdrains] at hstay
    exact hstay
  · have hstep := stepped_drainHead hwr hrmore (hdrains.trans hdr')
    rw [Tile.drainHead, hdrains] at hstep
    exact hstep
  · rw [hregs' o ho, hwregs, hregs o ho]
  · rw [hout' a (fun z hz => ha z (List.mem_append_right _ hz)), hwscratch,
      hout a (fun z hz => ha z (List.mem_append_left _ hz))]

end Sys2Proof.Machine
end

section
open Sys2Proof Sys2Proof.Machine

/-- Settles O9: the quarter's turn wins its banks, and then ends the drain, writes its row alone, or writes the rows of a
pair. -/
theorem drainRowWritesItsRow : Obligations.DrainRowWritesItsRow := by
  refine ⟨fun s t q j x hx hc hq hj h0 => ?_, fun s t q j x hx hc hq hj h0 howes halone hfree => ?_,
    fun s t q l r x hx hc hq hl hr hlw hrw hrot hcvt hl0 hr0 hln hrn hseq hrow hcount hlt hlo hro hfree c hcmd => ?_⟩
  · have hspans := drainSpans_empty hj h0
    refine exec_drainRow_same hx hc hq ?_ rfl
    rw [Tile.drainTurn, served_won x _ (by decide) (by rw [hspans]; rfl), hspans, wonBanks_nil, drainRow_empty hj h0]
  · obtain rfl := drainHead_q hj
    rw [← drainSpans_alone hj h0 howes halone] at hfree
    obtain ⟨w, hturn, hw⟩ := drainTurn_won hfree
    have hwj : w.drainHead j.quarter = some j := (drainHead_congr (by rw [hw]) _).trans hj
    rw [drainRow_alone hwj h0 ((owes_congr j hw).trans howes) halone] at hturn
    obtain ⟨rg, nw, sc, sb, ch, sk, ge, dr, hform, hdr, hregs, hout, hgens, hwords⟩ :=
      drainPart_form w j (w.rowAlone j) hwj (rowAlone_length w j)
    have hwr : ∀ o, w.reg o = x.reg o := fun o => by rw [hw]; rfl
    have hws : w.scratch = x.scratch ∧ w.scrBad = x.scrBad ∧ w.acc = x.acc ∧ w.drains = x.drains ∧ w.gens = x.gens := by
      rw [hw]
      exact ⟨rfl, rfl, rfl, rfl, rfl⟩
    obtain ⟨hscr, hbad, hacc, hdrains, hgen⟩ := hws
    rw [hform, hw] at hturn
    rw [hdrains] at hdr
    rw [hscr] at hout
    rw [hbad, hacc] at hwords
    refine ⟨_, exec_drainRow_same hx hc hq hturn ((hregs _ (by decide)).trans (hwr _)), fun hmore => stepped_drainHead hj hmore hdr,
      fun hlast => hdr.trans (if_pos hlast), hout, hwords, rfl, rfl, rfl, rfl, rfl, rfl, fun q' hq' => (hgens q' hq').trans ?_,
      rfl, rfl, ⟨rfl, rfl, rfl⟩, ⟨rfl, rfl, rfl, rfl, rfl, rfl⟩, ⟨rfl, rfl, rfl, rfl, rfl, rfl, rfl, rfl, rfl, rfl, rfl, rfl⟩,
      rfl, rfl, ⟨rfl, rfl, rfl, rfl, rfl, rfl, rfl⟩, fun o ho => (hregs o ho).trans (hwr o)⟩
    rw [Tile.gen, hgen, Tile.gen]
  · have hlq := drainHead_q hl
    have hrq := drainHead_q hr
    have hpair : x.DrainsPair l r :=
      { left := hlq ▸ hl, right := hrq ▸ hr, next := by rw [hrq, hlq], wide := ⟨hlw, hrw⟩, rot := ⟨hrot, hcvt ▸ hrot⟩,
        col0 := ⟨hl0, hr0⟩, nCols := ⟨hln, hrn⟩, same := ⟨hseq, hrow⟩, rows := ⟨hlt, hcount ▸ hlt⟩, owes := ⟨hlo, hro⟩ }
    rw [← hrq]
    rw [← hrq] at hcmd
    rw [← hlq] at hcmd ⊢
    obtain ⟨hlspans, hrspans⟩ := hpair.spans
    obtain ⟨k, hk, rfl, hk4, hkfree⟩ : ∃ k, (k = l.quarter ∨ k = r.quarter) ∧ c = Instr.drainRow t k ∧ k < 4 ∧
        x.banksFree s.cyc 2 (x.drainSpans k) = true := by
      rcases hcmd with rfl | rfl
      · exact ⟨_, .inl rfl, rfl, by omega, hlspans ▸ hfree⟩
      · exact ⟨_, .inr rfl, rfl, by omega, hrspans ▸ banksFree_append_comm x _ _ _ _ hfree⟩
    obtain ⟨w, hturn, hw⟩ := drainTurn_won hkfree
    obtain ⟨pre, hpre, hrows⟩ := (hpair.congr hw).drainRow hk
    obtain ⟨rg, nw, sc, sb, ch, sk, ge, dr, hform, hdr, hregs, hout⟩ := (hpair.congr hw).drainPart_form hpre
    have hwr : ∀ o, w.reg o = x.reg o := fun o => by rw [hw]; rfl
    have hscr : w.scratch = x.scratch := by rw [hw]
    rw [hrows, hform, hw] at hturn
    rw [hscr] at hout
    refine ⟨_, exec_drainRow_same hx hc hk4 hturn ((hregs _ (by decide)).trans (hwr _)),
      fun hmore => hdr hmore (by rw [hrow, hcount]; exact hmore), hout, rfl, rfl, rfl, rfl, rfl, ⟨rfl, rfl, rfl⟩,
      ⟨rfl, rfl, rfl, rfl, rfl, rfl⟩, ⟨rfl, rfl, rfl, rfl, rfl, rfl, rfl, rfl, rfl, rfl, rfl, rfl⟩, rfl, rfl,
      fun o ho => (hregs o ho).trans (hwr o)⟩
end

section
namespace Sys2Proof.Machine

theorem setLanes_reg (t : Tile) (v : Nat) (ws : List Word) (o : Nat) : (t.setLanes v ws).reg o = t.reg o := rfl

theorem vop1_reg (t : Tile) (e : QEntry) (r o : Nat) : (t.vop1 e r).reg o = t.reg o := by
  rw [Tile.vop1, setLanes_reg]

theorem vsum1_reg (t : Tile) (e : QEntry) (r o : Nat) : (t.vsum1 e r).reg o = t.reg o := by
  rw [Tile.vsum1, setLanes_reg]

end Sys2Proof.Machine
end

section
open Sys2Proof Sys2Proof.Machine

/-- Settles O19. -/
theorem vectorCommandsRepeat : Obligations.VectorCommandsRepeat := by
  intro s t op e l x hx hc hh hb hv hs c hcop
  simp only [List.mem_cons, List.not_mem_nil, or_false, Prod.mk.injEq] at hcop
  rcases hcop with ⟨rfl, rfl⟩ | ⟨rfl, rfl⟩ | ⟨rfl, rfl⟩ | ⟨rfl, rfl⟩
  · obtain ⟨z, hz, hq, hr, h0, hstep⟩ := vec_exec s t 0x20 e l x Tile.vload1 hx hc hh hb hv hs
      (fun t r => (vload_step t e r).2.1 _ (by decide))
    refine ⟨z, congrArg Host.Outcome.next hz, hq, hr, h0, fun r _ => ⟨fun _ => ?_, nofun, nofun, nofun⟩⟩
    rw [hstep r]
    exact vload_step (z r) e r
  · obtain ⟨z, hz, hq, hr, h0, hstep⟩ := vec_exec s t 0x21 e l x Tile.vstore1 hx hc hh hb hv hs
      (fun t r => (vstore_step t e r).1)
    have hbad : x.scrBad = [] → ∀ r, (z r).scrBad = [] := by
      intro hb r
      induction r with
      | zero => rw [h0]; exact hb
      | succ r ih => rw [hstep r]; exact (vstore_step (z r) e r).2.1 ih
    refine ⟨z, congrArg Host.Outcome.next hz, hq, hr, h0, fun r _ => ⟨nofun, fun _ => ?_, nofun, nofun⟩⟩
    obtain ⟨-, -, hvr, hout, hin, hrest⟩ := vstore_step (z r) e r
    rw [hstep r]
    exact ⟨hvr, hout, fun hb => hin (hbad hb r), hrest⟩
  · obtain ⟨z, hz, hq, hr, h0, hstep⟩ := vec_exec s t 0x22 e l x Tile.vop1 hx hc hh hb hv hs
      (fun t r => vop1_reg t e r _)
    refine ⟨z, congrArg Host.Outcome.next hz, hq, hr, h0, fun r _ => ⟨nofun, nofun, fun _ => ?_, nofun⟩⟩
    rw [hstep r]
    exact vop_step (z r) e r
  · obtain ⟨z, hz, hq, hr, h0, hstep⟩ := vec_exec s t 0x23 e l x Tile.vsum1 hx hc hh hb hv hs
      (fun t r => vsum1_reg t e r _)
    refine ⟨z, congrArg Host.Outcome.next hz, hq, hr, h0, fun r _ => ⟨nofun, nofun, nofun, fun _ => ?_⟩⟩
    rw [hstep r]
    exact vsum_step (z r) e r
end

section
namespace Sys2Proof.Machine

/-! ### Ends of Ladle transactions -/

/-- Two tiles differ at most in scratch, in its ECC counts, and in the writes that running jobs have noted. -/
def Tile.WriteOnly (x y : Tile) : Prop :=
  y = { x with regs := y.regs, scratch := y.scratch, scrBad := y.scrBad, churn := y.churn, skim := y.skim } ∧
    x.RegsSame y [Reg.ladleScrEcc]

theorem Tile.WriteOnly.refl (x : Tile) : x.WriteOnly x := ⟨rfl, fun _ _ => rfl⟩

theorem Tile.WriteOnly.trans {x y z : Tile} (h : x.WriteOnly y) (h' : y.WriteOnly z) : x.WriteOnly z := by
  obtain ⟨hform, hregs⟩ := h
  obtain ⟨hform', hregs'⟩ := h'
  exact ⟨by rw [hform', hform], fun o ho => (hregs' o ho).trans (hregs o ho)⟩

theorem Tile.wrBytes_writeOnly (x : Tile) (a : Nat) (bs : List Byte) : x.WriteOnly (x.wrBytes a bs) := by
  obtain ⟨rg, sc, sb, ch, sk, h, hregs, -⟩ := wrBytes_form x a bs
  rw [h]
  exact ⟨rfl, fun o ho => hregs o (by simpa using ho)⟩

theorem wrBytes_eq (x : Tile) (a : Nat) (bs : List Byte) : x.wrBytes a bs =
    { x with
      regs := (x.wrBytes a bs).regs, scratch := (x.wrBytes a bs).scratch, scrBad := (x.wrBytes a bs).scrBad
      churn := (x.wrBytes a bs).churn, skim := (x.wrBytes a bs).skim } := (x.wrBytes_writeOnly a bs).1

theorem wrBytes_issuing (x : Tile) (a : Nat) (bs : List Byte) : (x.wrBytes a bs).issuing = x.issuing := by
  rw [wrBytes_eq]

theorem wrBytes_txns (x : Tile) (a : Nat) (bs : List Byte) : (x.wrBytes a bs).txns = x.txns := by
  rw [wrBytes_eq]

theorem wrBytes_fault (x : Tile) (a : Nat) (bs : List Byte) : (x.wrBytes a bs).reg Reg.ladleFault = x.reg Reg.ladleFault :=
  (x.wrBytes_writeOnly a bs).2 _ (by decide)

/-- What a write changes does not depend on the banks won and on the transactions. -/
theorem wrBytes_parts (x : Tile) (nw : Now) (tn : Bool) (tx : List Txn) (a : Nat) (bs : List Byte) (y : Tile)
    (hy : y = { x with now := nw, turn := tn, txns := tx }) :
    (y.wrBytes a bs).regs = (x.wrBytes a bs).regs ∧ (y.wrBytes a bs).scratch = (x.wrBytes a bs).scratch ∧
    (y.wrBytes a bs).scrBad = (x.wrBytes a bs).scrBad ∧ (y.wrBytes a bs).churn = (x.wrBytes a bs).churn ∧
    (y.wrBytes a bs).skim = (x.wrBytes a bs).skim := by
  subst hy
  cases x
  exact ⟨rfl, rfl, rfl, rfl, rfl⟩

/-- So the two may come in either order. -/
theorem wrBytes_after (x : Tile) (nw : Now) (tn : Bool) (tx : List Txn) (a : Nat) (bs : List Byte) :
    ({ x with now := nw, turn := tn, txns := tx } : Tile).wrBytes a bs =
      { x.wrBytes a bs with now := nw, turn := tn, txns := tx } := by
  generalize hy : ({ x with now := nw, turn := tn, txns := tx } : Tile) = y
  obtain ⟨hregs, hscratch, hbad, hchurn, hskim⟩ := wrBytes_parts x nw tn tx a bs y hy.symm
  rw [wrBytes_eq y, wrBytes_eq x, hregs, hscratch, hbad, hchurn, hskim, ← hy]

theorem Tile.placeRead_writeOnly (x : Tile) (y : Txn) : x.WriteOnly (x.placeRead y) := by
  rw [Tile.placeRead]
  generalize y.goodParts = l
  induction l generalizing x with
  | nil => exact .refl x
  | cons p l ih => exact (x.wrBytes_writeOnly _ _).trans (ih _)

/-- Winning banks changes what the cycle has served and whose turn is next. -/
theorem wonBanks_form (x : Tile) (rank : Rank) (rs : List (Nat × Nat)) :
    ∃ nw tn, x.wonBanks rank rs = { x with now := nw, turn := tn } := by
  rw [Tile.wonBanks]
  split
  · exact ⟨x.now, x.turn, rfl⟩
  · exact ⟨_, _, rfl⟩

/-- A write of another tile's Ladle that has its banks enters the scratch and waits for its acknowledgement (R162). -/
theorem takeIn_free {x : Tile} {cyc : Nat} {w : ScrIn} {l : List ScrIn} (hin : x.inScr = w :: l)
    (hfree : x.banksFree cyc 4 [(w.addr, w.bytes.length)] = true) : ∃ nw tn, x.takeIn cyc = { x.wrBytes w.addr w.bytes with
      inScr := l, scrAcks := x.scrAcks ++ [(w.src, w.txn)], now := nw, turn := tn } := by
  obtain ⟨nw, tn, hwon⟩ := wonBanks_form x 4 [(w.addr, w.bytes.length)]
  have htake : x.takeIn cyc = x.onBanks cyc 4 [(w.addr, w.bytes.length)] (fun x =>
      { x.wrBytes w.addr w.bytes with inScr := l, scrAcks := x.scrAcks ++ [(w.src, w.txn)] }) := by
    rw [Tile.takeIn, hin]
  refine ⟨nw, tn, ?_⟩
  rw [htake, Tile.onBanks, if_pos hfree, hwon, wrBytes_after x nw tn x.txns, wrBytes_eq x]

/-- A Ladle without a failed row has none to record. -/
theorem ladleFailed_none {x : Tile} (h : ∀ r, x.issuing = some r → r.fail = 0) : x.ladleFailed = x := by
  rw [Tile.ladleFailed]
  split
  · rename_i r hr
    rw [h r hr]
    rfl
  · rfl

/-- The Ladle's fault (R109, R177): nothing more issues, engine 3 stops, and a first fault records its code. -/
theorem ladleFault_facts (x : Tile) {code : Nat} (hlt : code < 65536) (hfirst : x.f Reg.ladleFault 31 31 = 0) :
    (x.ladleFault code).f Reg.ladleFault 15 0 = code ∧ (x.ladleFault code).f Reg.ladleFault 18 16 = 3 ∧
    (x.ladleFault code).stopped 3 = true ∧ (x.ladleFault code).issuing = none ∧ (x.ladleFault code).txns = x.txns ∧
    x.ScratchSame (x.ladleFault code) := by
  obtain ⟨-, hstop, hrec, -⟩ := Tile.recordFault_facts ({ x with issuing := none } : Tile) code 3 (x.cmdSeq 3)
  obtain ⟨hcode, heng, -⟩ := hrec hfirst
  have honly := Tile.recordFault_only ({ x with issuing := none } : Tile) code 3 (x.cmdSeq 3)
  rw [Tile.ladleFault]
  generalize ({ x with issuing := none } : Tile).recordFault code 3 (x.cmdSeq 3) = y at *
  refine ⟨hcode.trans (Nat.mod_eq_of_lt hlt), heng, beq_iff_eq.mpr (hstop (by decide)), ?_⟩
  rw [honly]
  exact ⟨rfl, rfl, rfl, rfl, rfl⟩

/-- Does a transaction end at a far side: it neither writes the own scratch nor is a read? -/
theorem ownSpans_far {t : Nat} {y : Txn} (hw : y.write = true) (hfar : ∀ b, y.target ≠ .scratch t b) : y.ownSpans t = [] := by
  rw [Txn.ownSpans]
  split
  · rename_i u a htarget
    rw [if_neg]
    rw [Bool.and_eq_true, beq_iff_eq, not_and]
    rintro - rfl
    exact hfar a htarget
  · rw [hw]
    rfl

theorem txnEnds_far (x : Tile) {t : Nat} {y : Txn} (hw : y.write = true) (hfar : ∀ b, y.target ≠ .scratch t b)
    (herr : y.err = 0) (hbad : y.bad = []) (hfail : ∀ r, x.issuing = some r → r.fail = 0) : x.txnEnds t y = x := by
  simp only [Tile.txnEnds, herr, hbad, hw, ne_eq, not_true_eq_false, if_false, List.isEmpty_nil, if_true, Bool.true_and,
    Bool.true_or, beq_iff_eq]
  split
  · rename_i u a htarget
    rw [if_neg]
    · exact ladleFailed_none hfail
    · rintro rfl
      exact hfar a htarget
  · exact ladleFailed_none hfail

/-- A transaction at the own scratch: a write's bytes are put there as it completes. -/
theorem ownSpans_own {t b : Nat} {y : Txn} (hw : y.write = true) (htarget : y.target = .scratch t b) :
    y.ownSpans t = [(b, y.len)] := by
  simp only [Txn.ownSpans, htarget, hw, beq_self_eq_true, Bool.and_self, if_true]

theorem txnEnds_own (x : Tile) {t b : Nat} {y : Txn} (hw : y.write = true) (htarget : y.target = .scratch t b)
    (herr : y.err = 0) (hbad : y.bad = []) (hfail : ∀ r, x.issuing = some r → r.fail = 0) :
    x.txnEnds t y = x.wrBytes b y.data := by
  simp only [Tile.txnEnds, htarget, hw, beq_self_eq_true, Bool.and_self, if_true, herr, hbad, ne_eq, not_true_eq_false,
    if_false, List.isEmpty_nil]
  exact ladleFailed_none (by rw [wrBytes_issuing]; exact hfail)

/-- A read of memory: what was read reaches the own scratch. -/
theorem ownSpans_read {t : Nat} {y : Txn} (hw : y.write = false) (hmem : ∀ v b, y.target ≠ .scratch v b) (herr : y.err = 0) :
    y.ownSpans t = y.goodParts.map (fun p => (y.saddr + p.1, p.2)) := by
  rw [Txn.ownSpans]
  split
  · rename_i u a htarget
    exact absurd htarget (hmem u a)
  · rw [hw, herr]
    rfl

theorem txnEnds_read (x : Tile) {t : Nat} {y : Txn} (hw : y.write = false) (hmem : ∀ v b, y.target ≠ .scratch v b)
    (herr : y.err = 0) :
    x.txnEnds t y = (if y.bad.isEmpty then x.placeRead y else (x.placeRead y).ladleFault 0x225).ladleFailed := by
  cases htarget : y.target with
  | scratch u a => exact absurd htarget (hmem u a)
  | vat a | pail a | fabric a =>
    simp only [Tile.txnEnds, htarget, herr, hw, bne_self_eq_false, Bool.or_self, Bool.false_eq_true, ne_eq, not_true_eq_false,
      if_false]

theorem goodParts_clean {y : Txn} (hbad : y.bad = []) : y.goodParts = [(0, y.len)] := by
  rw [Txn.goodParts, hbad]
  rfl

theorem ownSpans_cleanRead {t : Nat} {y : Txn} (hw : y.write = false) (hmem : ∀ v b, y.target ≠ .scratch v b)
    (herr : y.err = 0) (hbad : y.bad = []) : y.ownSpans t = [(y.saddr, y.len)] := by
  rw [ownSpans_read hw hmem herr, goodParts_clean hbad]
  rfl

theorem placeRead_clean (x : Tile) {y : Txn} (hbad : y.bad = []) : x.placeRead y = x.wrBytes y.saddr (y.data.take y.len) := by
  rw [Tile.placeRead, goodParts_clean hbad]
  rfl

/-- A read without an uncorrectable sector puts its bytes into the destination (R126). -/
theorem txnEnds_cleanRead (x : Tile) {t : Nat} {y : Txn} (hw : y.write = false) (hmem : ∀ v b, y.target ≠ .scratch v b)
    (herr : y.err = 0) (hbad : y.bad = []) (hfail : ∀ r, x.issuing = some r → r.fail = 0) :
    x.txnEnds t y = x.wrBytes y.saddr (y.data.take y.len) := by
  rw [txnEnds_read x hw hmem herr, hbad, List.isEmpty_nil, if_pos rfl, placeRead_clean x hbad]
  exact ladleFailed_none (by rw [wrBytes_issuing]; exact hfail)

/-- One with such a sector stops the Ladle with CZ_ERR_LADLE_POISON (R128). -/
theorem txnEnds_poisonedRead (x : Tile) {t : Nat} {y : Txn} (hw : y.write = false) (hmem : ∀ v b, y.target ≠ .scratch v b)
    (herr : y.err = 0) (hbad : y.bad ≠ []) (hfirst : x.f Reg.ladleFault 31 31 = 0) :
    (x.txnEnds t y).f Reg.ladleFault 15 0 = 0x225 ∧ (x.txnEnds t y).f Reg.ladleFault 18 16 = 3 ∧
    (x.txnEnds t y).stopped 3 = true ∧ (x.txnEnds t y).issuing = none ∧ (x.txnEnds t y).txns = x.txns := by
  obtain ⟨hform, hregs⟩ := x.placeRead_writeOnly y
  have hplaced : (x.placeRead y).f Reg.ladleFault 31 31 = 0 := by
    rw [Tile.f, hregs _ (by decide)]
    exact hfirst
  obtain ⟨hcode, heng, hstop, hissue, htxns, -⟩ := ladleFault_facts (x.placeRead y) (code := 0x225) (by decide) hplaced
  have hnone : ∀ r, ((x.placeRead y).ladleFault 0x225).issuing = some r → r.fail = 0 := by
    rw [hissue]
    nofun
  rw [txnEnds_read x hw hmem herr, if_neg (by rw [List.isEmpty_iff]; exact hbad), ladleFailed_none hnone]
  refine ⟨hcode, heng, hstop, hissue, htxns.trans ?_⟩
  rw [hform]

/-- A transaction whose data or acknowledgement is back takes its turn for the own scratch (R45, R126). -/
theorem ladleTxnComplete_back {s : State} {t k : Nat} {y : Txn} {x : Tile} (hx : x = s.tile t) (ht : t < tileCount)
    (hk : x.txns[k]? = some y) (hback : y.phase = .back) : s.ladleTxnComplete t k = s.setTile t
      (x.served s.cyc 3 (y.ownSpans t) (fun x => ({ x with txns := listDrop1 x.txns k } : Tile).txnEnds t y)) := by
  subst hx
  simp only [State.ladleTxnComplete, Nat.not_le.mpr ht, if_false, hk, hback, ne_eq, not_true_eq_false]
  rfl

theorem exec_ladleTxnComplete_same {s : State} {t k : Nat} {x z : Tile} (hx : x = s.tile t) (hc : s.clocked t = true)
    (hz : s.ladleTxnComplete t k = s.setTile t z) (hf : z.reg Reg.ladleFault = x.reg Reg.ladleFault) :
    exec (.ladleTxnComplete t k) s = .next (s.setTile t z) := by
  subst hx
  show Host.Outcome.next (s.unitStep t (fun s => s.ladleTxnComplete t k)) = _
  rw [unitStep_same s t _ hc] <;> rw [hz]
  rw [State.setTile_tile_same]
  exact hf

/-- FAB_TAGS follows, and the tags, the transactions that wait for one, and the tiles stay. -/
theorem noteTags_only (s : State) : ∃ chip, s.noteTags = { s with chip := chip } := ⟨_, rfl⟩

/-- A failed transaction to another chip: its tag or its place in the queue for one goes, and its Ladle stops (R179, R246). -/
theorem fabricFails_form (s : State) (t : Nat) (y : Txn) : ∃ tags tagQ chip, s.fabricFails t y =
      ({ s with tags := tags, tagQ := tagQ, chip := chip } : State).setTile t
        (({ s.tile t with txns := (s.tile t).txns.filter (fun z => z.id != y.id) } : Tile).ladleFault 0x226) ∧
      (∀ g, y.tag = some g → ∀ z ∈ tags, z.1 ≠ g) ∧ (y.tag = none → (t, y.id) ∉ tagQ) := by
  rw [State.fabricFails]
  cases y.tag with
  | none =>
    refine ⟨s.tags, s.tagQ.filter (fun q => q != (t, y.id)), s.chip, rfl, nofun, fun _ hmem => ?_⟩
    simp [List.mem_filter] at hmem
  | some g =>
    obtain ⟨chip, hnote⟩ := noteTags_only { s with tags := s.tags.filter (fun x => x.1 != g) }
    refine ⟨s.tags.filter (fun x => x.1 != g), s.tagQ, chip, ?_, ?_, nofun⟩
    · simp only [State.dropTag, hnote]
      rfl
    · rintro g' ⟨⟩ z hz
      simpa using (List.mem_filter.mp hz).2

theorem ladleFabricTimeout_overdue {s : State} {t k : Nat} {y : Txn} {x : Tile} (hx : x = s.tile t) (ht : t < tileCount)
    (hk : x.txns[k]? = some y) (hclass : slotClass t y.target = 2) (hopen : y.answered = false)
    (hdue : y.since + 50000 ≤ s.engineTime) : s.ladleFabricTimeout t k = s.fabricFails t y := by
  subst hx
  simp only [State.ladleFabricTimeout, Nat.not_le.mpr ht, if_false, hk, hclass, hopen, State.overdue, hdue, ne_eq,
    not_true_eq_false, decide_true, decide_false, Bool.not_true, Bool.or_self, Bool.false_eq_true]

end Sys2Proof.Machine
end

section
open Sys2Proof Sys2Proof.Machine

/-- Settles O23: a completed transaction takes its turn for the own scratch and comes to its end; a late one to another chip
fails. -/
theorem ladleTransactionsEnd : Obligations.LadleTransactionsEnd := by
  refine ⟨fun s t k y x hx ht hc hk hback herr hbad hfail => ?_, fun x cyc w l hin hfree => ?_,
    fun s t k y x hx ht hc hk hback herr hbad hw hmem hfree hfirst => ?_,
    fun s t k y x hx ht hc hk hclass hopen hdue hfirst => ?_⟩
  · have hturn := ladleTxnComplete_back hx ht hk hback
    refine ⟨fun hw hmem hfree => ?_, fun hw hmem hfree => ?_, fun hw hfar => ?_, fun b hw htarget hfree => ?_⟩
    · obtain ⟨nw, tn, hwon⟩ := wonBanks_form x 3 [(y.saddr, y.len)]
      have hends := txnEnds_cleanRead (t := t) ({ x with now := nw, turn := tn, txns := listDrop1 x.txns k } : Tile)
        hw hmem herr hbad hfail
      rw [ownSpans_cleanRead hw hmem herr hbad, served_won x _ (by decide) hfree, hwon] at hturn
      exact ⟨nw, tn, exec_ladleTxnComplete_same hx hc (hturn.trans (congrArg (s.setTile t)
        (hends.trans (wrBytes_after ..)))) (wrBytes_fault x _ _)⟩
    · rw [ownSpans_cleanRead hw hmem herr hbad, served_lost x _ (by decide) hfree] at hturn
      exact ⟨_, exec_ladleTxnComplete_same hx hc hturn rfl⟩
    · have hends := txnEnds_far ({ x with txns := listDrop1 x.txns k } : Tile) hw hfar herr hbad hfail
      rw [ownSpans_far hw hfar, served_won x _ (by decide) (banksFree_nil _ _ _), wonBanks_nil] at hturn
      exact exec_ladleTxnComplete_same hx hc (hturn.trans (congrArg (s.setTile t) hends)) rfl
    · obtain ⟨nw, tn, hwon⟩ := wonBanks_form x 3 [(b, y.len)]
      have hends := txnEnds_own ({ x with now := nw, turn := tn, txns := listDrop1 x.txns k } : Tile)
        hw htarget herr hbad hfail
      rw [ownSpans_own hw htarget, served_won x _ (by decide) hfree, hwon] at hturn
      exact ⟨nw, tn, exec_ladleTxnComplete_same hx hc (hturn.trans (congrArg (s.setTile t)
        (hends.trans (wrBytes_after ..)))) (wrBytes_fault x _ _)⟩
  · exact takeIn_free hin hfree
  · have hturn := ladleTxnComplete_back hx ht hk hback
    obtain ⟨nw, tn, hwon⟩ := wonBanks_form x 3 (y.ownSpans t)
    rw [served_won x _ (by decide) hfree, hwon] at hturn
    obtain ⟨u, hu, honly, htile⟩ := unitStep_tileOnly s (f := fun s => s.ladleTxnComplete t k) hc hturn
    refine ⟨u, congrArg Host.Outcome.next hu, honly, ?_⟩
    rw [htile]
    exact txnEnds_poisonedRead _ hw hmem herr hbad hfirst
  · obtain ⟨tags, tagQ, chip, hfails, htag, hqueue⟩ := fabricFails_form s t y
    obtain ⟨pairs, hostMem, htraced⟩ := s.faultTraced_only t (fun s => s.ladleFabricTimeout t k)
    rw [ladleFabricTimeout_overdue hx ht hk hclass hopen hdue, hfails, ← hx] at htraced
    obtain ⟨hcode, heng, hstop, hissue, htxns, hscr⟩ := ladleFault_facts
      ({ x with txns := x.txns.filter (fun z => z.id != y.id) } : Tile) (code := 0x226) (by decide) hfirst
    have htile := State.setTile_tile_same ({ s with tags := tags, tagQ := tagQ, chip := chip } : State) t
      (({ x with txns := x.txns.filter (fun z => z.id != y.id) } : Tile).ladleFault 0x226)
    refine ⟨_, congrArg Host.Outcome.next ((unitStep_eq s t _ hc).trans htraced), ?_⟩
    rw [State.traced_tile, htile]
    refine ⟨hcode, heng, hstop, hissue, htxns, ⟨hscr.scratch, hscr.scrBad, hscr.turn⟩, fun t' ht' => ?_, htag, hqueue⟩
    rw [State.traced_tile, State.setTile_tile_ne _ _ ht']
    rfl
end

section
namespace Sys2Proof.Machine

/-! ### Transactions of the Ladle go out -/

/-- What is fixed of a transaction as it is issued. -/
def Txn.order (y : Txn) : Nat × TxnTarget × Nat × Nat × Nat × Bool × Nat :=
  (y.id, y.target, y.saddr, y.len, y.seq, y.write, y.issued)

/-- A look into the cache changes counters, the line and the order of use. -/
theorem cacheRead_only (x : Tile) (ways : List Nat) (a n : Nat) :
    ∃ rg ca st, (x.cacheRead ways a n).1 = { x with regs := rg, cache := ca, stamp := st } := by
  rw [Tile.cacheRead]
  split
  · exact ⟨_, _, _, rfl⟩
  · cases x.findWay ways a with
    | none => exact ⟨_, _, _, rfl⟩
    | some w =>
      dsimp only
      cases x.way w a with
      | none => exact ⟨_, _, _, rfl⟩
      | some c =>
        dsimp only
        split
        · exact ⟨_, _, _, rfl⟩
        · split <;> exact ⟨_, _, _, rfl⟩

/-- Tile z is x with transaction y added to those under way; at most its cache has changed besides. -/
def Tile.Sends (x z : Tile) (y : Txn) : Prop := ∃ rg ca st y',
  z = { x with regs := rg, cache := ca, stamp := st, txns := x.txns ++ [y'] } ∧ y'.order = y.order

/-- A step of the Ladle makes tile t of s into z, and at most sends a packet into the mesh. -/
def State.TileSent (s : State) (t : Nat) (z : Tile) (u : State) : Prop :=
  ∃ m k, u = { s.setTile t z with mesh := m, freeCount := k }

theorem State.TileSent.set (s : State) (t : Nat) (z : Tile) : s.TileSent t z (s.setTile t z) := ⟨s.mesh, s.freeCount, rfl⟩

theorem State.TileSent.send (s : State) (t : Nat) (z : Tile) (y : Txn) : s.TileSent t z ((s.setTile t z).meshSend t y) :=
  ⟨_, _, rfl⟩

theorem State.TileSent.tile {s u : State} {t : Nat} {z : Tile} (h : s.TileSent t z u) : u.tile t = z := by
  obtain ⟨m, k, rfl⟩ := h
  exact State.setTile_tile_same s t z

theorem State.TileSent.other {s u : State} {t t' : Nat} {z : Tile} (h : s.TileSent t z u) (ht : t' ≠ t) :
    u.tile t' = s.tile t' := by
  obtain ⟨m, k, rfl⟩ := h
  exact State.setTile_tile_ne s z ht

theorem State.TileSent.trans {s u v : State} {t : Nat} {z z' : Tile} (h : s.TileSent t z u) (h' : u.TileSent t z' v) :
    s.TileSent t z' v := by
  obtain ⟨m, k, rfl⟩ := h
  obtain ⟨m', k', rfl⟩ := h'
  exact ⟨m', k', congrArg (fun u : State => { u with mesh := m', freeCount := k' }) (State.setTile_setTile s t z z')⟩

/-- A dispatched transaction is added to its tile's, and goes into the mesh if it needs a home. -/
theorem dispatchTxn_sends (s : State) (t : Nat) (y : Txn) : ∃ z, (s.tile t).Sends z y ∧ s.TileSent t z (s.dispatchTxn t y) := by
  rw [State.dispatchTxn]
  generalize s.tile t = x
  cases htarget : y.target with
  | vat a =>
    dsimp only
    obtain ⟨rg, ca, st, hlook⟩ := cacheRead_only x (s.cacheWays t) a y.len
    cases hwrite : y.write with
    | true => exact ⟨_, ⟨_, _, _, _, rfl, by simp only [Txn.order, htarget, hwrite]⟩, .send ..⟩
    | false =>
      cases (x.cacheRead (s.cacheWays t) a y.len).2 with
      | some bs => exact ⟨_, ⟨rg, ca, st, _, by rw [hlook], by simp only [Txn.order, htarget, hwrite]⟩, .set ..⟩
      | none => exact ⟨_, ⟨rg, ca, st, _, by rw [hlook], by simp only [Txn.order, htarget, hwrite]⟩, .send ..⟩
  | scratch v a =>
    dsimp only
    split
    · exact ⟨_, ⟨_, _, _, _, rfl, by simp only [Txn.order, htarget]⟩, .set ..⟩
    · exact ⟨_, ⟨_, _, _, _, rfl, rfl⟩, .send ..⟩
  | pail a | fabric a => exact ⟨_, ⟨_, _, _, _, rfl, rfl⟩, .send ..⟩

/-- Tile z is x with n bytes of run r issued as a transaction of the given order: nothing else changes but counters, the
cache and what the cycle has used. -/
def Tile.Issues (x z : Tile) (r : LadleRun) (n : Nat) (order : Nat × TxnTarget × Nat × Nat × Nat × Bool × Nat) : Prop :=
  ∃ rg ca st nw tn y, z = { x with
    regs := rg, cache := ca, stamp := st, now := nw, turn := tn, issuing := r.advance n, txnNext := x.txnNext + 1
    txns := x.txns ++ [y] } ∧ y.order = order

/-- What the transaction of n bytes of run r at far address a is. -/
def State.txnOrder (s : State) (t : Nat) (r : LadleRun) (a n : Nat) : Nat × TxnTarget × Nat × Nat × Nat × Bool × Nat :=
  ((s.tile t).txnNext, s.ldTarget t r.entry a, ldSaddr r.entry + r.row * ldSpitch r.entry + r.off, n, r.seq,
    !(ldGlobal r.entry && ldDir r.entry == 0), s.time)

/-- The local bytes that the next n bytes of run r read. -/
def LadleRun.sources (r : LadleRun) (n : Nat) : List (Nat × Nat) :=
  if ldReadsLocal r.entry then [(ldSaddr r.entry + r.row * ldSpitch r.entry + r.off, n)] else []

/-- State u is s with the next n bytes of run r of tile t issued. -/
def State.Issues (s : State) (t : Nat) (r : LadleRun) (a n : Nat) (u : State) : Prop :=
  ∃ z, (s.tile t).Issues z r n (s.txnOrder t r a n) ∧ s.TileSent t z u

/-- Tile w is x after accesses to its scratch: their counts and the banks they took. -/
def Tile.Used (x w : Tile) : Prop := ∃ rg nw tn, w = { x with regs := rg, now := nw, turn := tn }

theorem Tile.Used.scrReads {x w : Tile} (h : x.Used w) (rs : List (Nat × Nat)) : (w.scrReads rs).2 = (x.scrReads rs).2 := by
  obtain ⟨rg, nw, tn, rfl⟩ := h
  exact scReads_bad x _ rfl rs

theorem Tile.Used.wonBanks (x : Tile) (rank : Rank) (rs : List (Nat × Nat)) : x.Used (x.wonBanks rank rs) := by
  obtain ⟨nw, tn, h⟩ := wonBanks_form x rank rs
  exact ⟨x.regs, nw, tn, h⟩

theorem Tile.Used.readNow (x : Tile) (rs : List (Nat × Nat)) : x.Used (x.scrReads rs).1.issuedNow := by
  obtain ⟨rg, h, -⟩ := scrReads_form x rs
  exact ⟨rg, { x.now with issued := true }, x.turn, by rw [h, Tile.issuedNow]⟩

/-- Accesses of the same step may come before. -/
theorem State.Issues.of_used {s u : State} {t a n : Nat} {r : LadleRun} {w : Tile} (hw : (s.tile t).Used w)
    (h : (s.setTile t w).Issues t r a n u) : s.Issues t r a n u := by
  obtain ⟨z, hz, hsent⟩ := h
  have horder : (s.setTile t w).txnOrder t r a n = s.txnOrder t r a n := by
    rw [State.txnOrder, State.txnOrder, State.setTile_tile_same]
    obtain ⟨rg, nw, tn, rfl⟩ := hw
    rfl
  rw [State.setTile_tile_same, horder] at hz
  refine ⟨z, ?_, (State.TileSent.set s t w).trans hsent⟩
  generalize s.tile t = x at *
  obtain ⟨rg, nw, tn, rfl⟩ := hw
  exact hz

theorem notePeak_regs (x : Tile) : ∃ rg, x.notePeak = { x with regs := rg } := ⟨_, rfl⟩

/-- A transaction of the order of run r's next n bytes, dispatched from the tile that has moved on to its next bytes. -/
theorem dispatchTxn_issues {s u : State} {t a n : Nat} {r : LadleRun} {y : Txn} {rg : Tab Word}
    (hu : s.TileSent t { s.tile t with regs := rg, txnNext := (s.tile t).txnNext + 1, issuing := r.advance n } u)
    (hy : y.order = s.txnOrder t r a n) : s.Issues t r a n ((u.dispatchTxn t y).modTile t (·.notePeak)) := by
  obtain ⟨z, ⟨rg', ca, st, y', hz, horder⟩, hsends⟩ := dispatchTxn_sends u t y
  rw [hu.tile] at hz
  obtain ⟨rg'', hpeak⟩ := notePeak_regs z
  refine ⟨z.notePeak, ⟨rg'', ca, st, (s.tile t).now, (s.tile t).turn, y', ?_, horder.trans hy⟩, ?_⟩
  · rw [hpeak, hz]
  · rw [State.modTile, hsends.tile]
    exact (hu.trans hsends).trans (.set ..)

theorem issueTxn_issues (s : State) (t : Nat) (r : LadleRun) (a n : Nat)
    (hgood : ((s.tile t).scrReads (r.sources n)).2 = false) : s.Issues t r a n (s.issueTxn t r a n) := by
  obtain ⟨rg, hreads, -⟩ := scrReads_form (s.tile t) (r.sources n)
  rw [LadleRun.sources] at hgood hreads
  simp only [State.issueTxn, hgood, Bool.false_eq_true, if_false, hreads]
  exact dispatchTxn_issues ⟨s.mesh, s.freeCount + 1, rfl⟩ rfl

/-- A read of nothing meets no bad word. -/
theorem scrReads_nil (x : Tile) : (x.scrReads []).2 = false := by
  have hits : badHits x.scrBad 2 [] = 0 := by simp [badHits]
  simp [Tile.scrReads, hits]

/-- A row that names its addresses itself (no index) goes on to its next transaction. -/
theorem issueNext_issues (s : State) (t : Nat) (r : LadleRun) (a n : Nat) (hindex : ldIndexed r.entry = false)
    (hop : opc r.entry ≠ 0x44) (hgood : ((s.tile t).scrReads (r.sources n)).2 = false) :
    s.Issues t r a n (s.issueNext t r a n) := by
  simp only [State.issueNext, hindex, Bool.false_and, Bool.false_eq_true, if_false, scrReads_nil, ne_eq, not_true_eq_false, hop]
  have hused := Tile.Used.readNow (s.tile t) []
  refine .of_used hused (issueTxn_issues _ t r a n ?_)
  rw [State.setTile_tile_same, hused.scrReads]
  exact hgood

/-- LADLE_TXN_ISSUE of a row without an index whose banks and slot are free (R45, R125). -/
theorem ladleTxnIssue_issues {s : State} {t a n : Nat} {r : LadleRun} {x : Tile} (hx : x = s.tile t) (ht : t < tileCount)
    (hrun : x.issuing = some r) (hok : r.fail = 0) (hruns : x.stopped 3 = false) (hindex : ldIndexed r.entry = false)
    (hop : opc r.entry ≠ 0x44) (ha : a = x.rowAddr r.entry r.row + r.off) (hn : n = min (64 - a % 64) (ldBytes r.entry - r.off))
    (hissued : x.now.issued = false)
    (hslot : s.issueWaits t (!(ldGlobal r.entry && ldDir r.entry == 0)) (s.ldTarget t r.entry a) = false)
    (hfree : x.banksFree s.cyc 3 (r.sources n) = true) (hgood : (x.scrReads (r.sources n)).2 = false) :
    s.Issues t r a n (s.ladleTxnIssue t) := by
  subst hx
  have hstep : s.ladleTxnIssue t = (s.setTile t ((s.tile t).wonBanks 3 (r.sources n))).issueNext t r a n := by
    rw [LadleRun.sources] at hfree ⊢
    simp only [State.ladleTxnIssue, Nat.not_le.mpr ht, if_false, hrun, hok, hruns, hissued, ← ha, ← hn, hindex, hslot, hfree,
      Bool.false_and, Bool.and_false, Bool.false_eq_true, ne_eq, not_true_eq_false, decide_false, Bool.or_self,
      List.nil_append, Bool.not_true]
  have hused := Tile.Used.wonBanks (s.tile t) 3 (r.sources n)
  rw [hstep]
  refine .of_used hused (issueNext_issues _ t r a n hindex hop ?_)
  rw [State.setTile_tile_same, hused.scrReads]
  exact hgood

/-! ### Fabric tags -/

theorem mem_freeTags {s : State} {g : Nat} : g ∈ s.freeTags ↔ g < 20480 ∧ ∀ z ∈ s.tags, z.1 ≠ g := by
  simp [State.freeTags]

/-- While fewer than 20480 transactions hold tags, a tag is free (R246). -/
theorem freeTags_ne_nil {s : State} (h : s.tags.length < 20480) : s.freeTags ≠ [] := by
  intro hnil
  have hheld : Finset.range 20480 ⊆ (s.tags.map Prod.fst).toFinset := by
    intro g hg
    by_contra hno
    have hfree : g ∈ s.freeTags := mem_freeTags.mpr ⟨Finset.mem_range.mp hg, fun z hz heq =>
      hno (List.mem_toFinset.mpr (List.mem_map.mpr ⟨z, hz, heq⟩))⟩
    rw [hnil] at hfree
    exact List.not_mem_nil hfree
  have hcard := (Finset.card_le_card hheld).trans (List.toFinset_card_le _)
  rw [Finset.card_range, List.length_map] at hcard
  omega

/-- A draw from a list that is not empty is one of its members. -/
theorem getD_mod_mem {l : List Nat} (h : l ≠ []) (k d : Nat) : l.getD (k % l.length) d ∈ l := by
  have hlt : k % l.length < l.length := Nat.mod_lt _ (List.length_pos_iff.mpr h)
  rw [List.getD_eq_getElem _ _ hlt]
  exact List.getElem_mem hlt

/-- With no collective under way, the transaction at the head of the queue takes a tag. -/
theorem exec_fabTagTake_head {s : State} {t id : Nat} {l : List (Nat × Nat)} {y : Txn} (hup : s.meshUp = true)
    (hq : s.tagQ = (t, id) :: l) (hquiet : s.allCtxs = []) (hfree : s.tags.length < 20480)
    (hladle : s.ladleTags < 20480 - s.f Reg.fabTagCfg 14 0) (hy : (s.tile t).txns.find? (fun y => y.id == id) = some y)
    (tag : Nat) (htag : tag = s.freeTags.getD (Config.tagPick s.freeCount % s.freeTags.length) 0) (u : State)
    (hu : u = ({ s with tagQ := l, tags := s.tags ++ [(tag, .ladle t id)], freeCount := s.freeCount + 1 } : State).noteTags) :
    exec .fabTagTake s = .next ((u.modTile t (fun x => x.modTxn id (fun z => { z with tag := some tag, phase := .sent }))).sendPacket
      (u.requestPacket t y tag)) := by
  have htake : s.tagTake = s.fabTagTake := by
    rw [State.tagTake, hquiet]
    exact if_pos rfl
  have hroom : (decide (20480 ≤ s.tags.length) || decide (20480 - s.f Reg.fabTagCfg 14 0 ≤ s.ladleTags)) = false := by
    rw [decide_eq_false (Nat.not_le.mpr hfree), decide_eq_false (Nat.not_le.mpr hladle), Bool.or_self]
  show Host.Outcome.next (s.when s.meshUp State.tagTake) = _
  rw [State.when, if_pos hup, htake, State.fabTagTake, hq]
  dsimp only
  rw [hroom, if_neg Bool.false_ne_true, hy, hu, htag]

end Sys2Proof.Machine
end

section
open Sys2Proof Sys2Proof.Machine

/-- Settles O22: the next transaction of a row is cut, takes a slot and goes out, and the first that waits for the fabric
takes a free tag. -/
theorem ladleTransactionsGoOut : Obligations.LadleTransactionsGoOut := by
  refine ⟨fun s t a n loc r x g hx ht hc hsend hrun hok hruns hindex hop ha hn hloc hg hissued hslot hfree hgood => ?_,
    fun s t id l y hup hq hquiet hfree hladle hy => ?_⟩
  · subst hloc hg
    obtain ⟨z, ⟨rg, ca, st, nw, tn, y, hz, horder⟩, hsent⟩ := ladleTxnIssue_issues hx ht hrun hok hruns hindex hop ha hn hissued
      hslot hfree hgood
    obtain ⟨pairs, hostMem, htraced⟩ := s.faultTraced_only t (fun s => s.ladleTxnIssue t)
    have htile : ∀ k, (s.faultTraced t (fun s => s.ladleTxnIssue t)).tile k = (s.ladleTxnIssue t).tile k := fun k => by
      rw [htraced, State.traced_tile]
    have hexec : exec (.ladleTxnIssue t) s = .next (s.faultTraced t (fun s => s.ladleTxnIssue t)) := by
      show Host.Outcome.next (s.when (s.maySend t) (fun s => s.unitStep t (fun s => s.ladleTxnIssue t))) = _
      rw [State.when, if_pos hsend, unitStep_eq s t _ hc]
    refine ⟨_, hexec, ?_⟩
    rw [htile t, hsent.tile, hz, ← hx]
    refine ⟨rfl, rfl, ?_, rfl, rfl, fun t' ht' => by rw [htile t', hsent.other ht']⟩
    rw [State.txnOrder, ← hx] at horder
    exact List.map_append.trans (congrArg _ (congrArg (fun o => [o]) horder))
  · obtain ⟨hlt, hnew⟩ := mem_freeTags.mp (getD_mod_mem (freeTags_ne_nil hfree) (Config.tagPick s.freeCount) 0)
    exact ⟨_, hlt, hnew, exec_fabTagTake_head hup hq hquiet hfree hladle hy _ rfl _ rfl⟩
end

section
namespace Sys2Proof.Machine

/-! ### Rows of a VNARROW and rejected vector commands -/

theorem vnarrow1_fault (t : Tile) (e : QEntry) (r : Nat) : (t.vnarrow1 e r).reg Reg.ladleFault = t.reg Reg.ladleFault :=
  (vnarrow_facts t e r _ _ _ rfl rfl rfl _ rfl).1

theorem vnarrow1_scrBad (t : Tile) (e : QEntry) (r : Nat) (h : t.scrBad = []) : (t.vnarrow1 e r).scrBad = [] :=
  (vnarrow_facts t e r _ _ _ rfl rfl rfl _ rfl).2.1 h

/-- A vector command that fails its checks asks the banks for nothing, so that they serve it. -/
theorem vecServed_of_fails {x : Tile} {e : QEntry} (op cyc : Nat) (hin : x.inScr = []) (hcheck : vCheck x e ≠ 0) :
    x.VecServed op e cyc := by
  have hspans : vSpans x e = ([], []) := by rw [vSpans, if_neg hcheck]
  exact ⟨hin, by rw [hspans, banksFree_nil], by rw [hspans, banksFree_nil]⟩

/-- A vector command that fails its checks is taken; it stops the unit with its code, and changes registers, the queue and
the cycle's notes alone (R109, R122). -/
theorem vectorCommand_rejects {x : Tile} {op cyc : Nat} {e : QEntry} {l : List QEntry} (f : Tile → QEntry → Nat → Tile)
    (hhead : x.VecHead op e l) (hin : x.inScr = []) (hcheck : vCheck x e ≠ 0) :
    ∃ z, x.vectorCommand op f cyc = z ∧ x.TakeOnly z ∧ z.queue 1 = l ∧ z.f Reg.ladleFault 31 31 = 1 ∧ z.stopped 1 = true ∧
      (x.f Reg.ladleFault 31 31 = 0 → z.f Reg.ladleFault 15 0 = vCheck x e ∧ z.f Reg.ladleFault 18 16 = 1) := by
  obtain ⟨y, hrun, honly, hfault⟩ := vReject_form x op e l f cyc hhead (vecServed_of_fails op cyc hin hcheck) hcheck
  have hqueue : y.queue 1 = e :: l := by
    rw [honly]
    exact hhead.head
  obtain ⟨z, hz, hform, hrest, hvalid, hstop, hfirst⟩ := reject_facts y 1 (vCheck x e) e l hqueue (by decide)
  rw [Tile.f, hfault, Nat.mod_eq_of_lt (vCheck_lt x e)] at hfirst
  exact ⟨z, hrun.trans hz, honly.takeOnly.trans hform, hrest, hvalid, beq_iff_eq.mpr hstop, hfirst⟩

/-- The five vector commands, each by its opcode and the operation of one repetition (Table 4.7). -/
theorem exec_vector {c : Instr} {op t : Nat} (h : (c, op) ∈ [(Instr.vload t, 0x20), (Instr.vstore t, 0x21),
      (Instr.vop t, 0x22), (Instr.vsum t, 0x23), (Instr.vnarrow t, 0x24)]) :
    ∃ f, ∀ s, exec c s = .next (s.tileUnit t (fun x => x.vectorCommand op f s.cyc)) := by
  simp only [List.mem_cons, List.not_mem_nil, or_false, Prod.mk.injEq] at h
  rcases h with ⟨rfl, rfl⟩ | ⟨rfl, rfl⟩ | ⟨rfl, rfl⟩ | ⟨rfl, rfl⟩ | ⟨rfl, rfl⟩
  · exact ⟨Tile.vload1, fun _ => rfl⟩
  · exact ⟨Tile.vstore1, fun _ => rfl⟩
  · exact ⟨Tile.vop1, fun _ => rfl⟩
  · exact ⟨Tile.vsum1, fun _ => rfl⟩
  · exact ⟨Tile.vnarrow1, fun _ => rfl⟩

end Sys2Proof.Machine
end

section
open Sys2Proof Sys2Proof.Machine

/-- Settles O20: each repetition takes one row through the stage, and scratch without a bad word has none after it; a command
that fails a check is rejected, whichever of the five it is. -/
theorem vnarrowAndVectorChecks : Obligations.VnarrowAndVectorChecks := by
  refine ⟨fun s t e l x hx hc hhead hserved hcheck hgood => ?_, fun s t op e l x hx hc hhead hin hcheck c hcop => ?_⟩
  · obtain ⟨z, hz, hqueue, -, h0, hstep⟩ := vec_exec s t 0x24 e l x Tile.vnarrow1 hx hc hhead hserved hcheck hgood
      (fun t r => vnarrow1_fault t e r)
    have hclean : x.scrBad = [] → ∀ r, (z r).scrBad = [] := by
      intro hb r
      induction r with
      | zero => rw [h0]; exact hb
      | succ r ih => rw [hstep r]; exact vnarrow1_scrBad (z r) e r ih
    refine ⟨z, congrArg Host.Outcome.next hz, hqueue, h0, fun r _ sd xs o hsd hxs ho => ?_⟩
    obtain ⟨-, -, hgen, hgens, hcodes, hscales, hout, hform⟩ := vnarrow_facts (z r) e r sd xs o hsd hxs ho _ (hstep r)
    exact ⟨hgen, hgens, fun hb => hcodes (hclean hb r), fun hb => hscales (hclean hb r), hout, hform⟩
  · obtain ⟨f, hexec⟩ := exec_vector hcop
    obtain ⟨z, hz, hform, hrest, hvalid, hstop, hfirst⟩ := vectorCommand_rejects (cyc := s.cyc) f hhead hin hcheck
    refine ⟨_, hexec s, s.tileUnit_only _ hc, ?_⟩
    rw [State.tileUnit_tile s _ hc, ← hx, hz]
    refine ⟨hrest, hvalid, hstop, hfirst, ?_⟩
    rw [Tile.TakeOnly] at hform
    rw [hform]
    exact ⟨rfl, ⟨rfl, rfl, rfl⟩, ⟨rfl, rfl, rfl, rfl, rfl, rfl, rfl, rfl, rfl, rfl, rfl, rfl, rfl, rfl, rfl⟩⟩
end

section
namespace Sys2Proof.Machine

/-! ### Seeds of the Rennet -/

/-- A bit written into a register leaves every other bit of it. -/
theorem Tile.setF_bit_ne (t : Tile) (o : Nat) {b c : Nat} (v : Nat) (hb : b < 32) (h : c ≠ b) :
    (t.setF o b b v).f o c c = t.f o c c := by
  rcases Nat.lt_or_gt_of_ne h with hlt | hgt
  · exact Tile.setF_f_below t o v (Nat.le_refl b) hb hlt
  · exact Tile.setF_f_above t o v (Nat.le_refl b) hb hgt

/-- A written bit reads back. -/
theorem Tile.setF_bit_same (t : Tile) (o : Nat) {b v : Nat} (hb : b < 32) (hv : v < 2) : (t.setF o b b v).f o b b = v := by
  rw [Tile.setF_f_same t o v (Nat.le_refl b) hb, Nat.add_sub_cancel_left, Nat.pow_one, Nat.mod_eq_of_lt hv]

theorem Tile.RegsOnly.expanding {x y : Tile} (h : x.RegsOnly y) : y.expanding = x.expanding := by rw [h]

theorem Tile.RegsOnly.patterns {x y : Tile} (h : x.RegsOnly y) : y.patterns = x.patterns := by rw [h]

theorem tileRow?_seedHi {k : Nat} (hk : k < 16) : (tileRow? (Reg.rennetSeedLo + 8 * k + 4)).isSome = true := by
  revert k
  decide

/-- A write of a seed slot's high half starts its expansion. -/
theorem tileWrite_seedHi (s : State) (a : Agent) (t : Nat) {k : Nat} (hi : Word) (hk : k < 16) :
    s.tileWrite a t (Reg.rennetSeedLo + 8 * k + 4) hi = s.modTile t (·.seedWriteHi k hi) := by
  obtain ⟨r, hrow⟩ := Option.isSome_iff_exists.mp (tileRow?_seedHi hk)
  obtain ⟨o, ho⟩ : ∃ o, o = Reg.rennetSeedLo + 8 * k + 4 := ⟨_, rfl⟩
  have hne {q : Nat} (hq : q < 0x44 ∨ 0x100 ≤ q) : o ≠ q := by simp only [Reg.rennetSeedLo] at ho; omega
  have hslot : 0x40 ≤ o ∧ o < 0xC0 ∧ o % 8 = 4 ∧ (o - 0x40) / 8 = k := by simp only [Reg.rennetSeedLo] at ho; omega
  obtain ⟨hge, hlt, hmod, hdiv⟩ := hslot
  rw [← ho] at hrow ⊢
  rw [State.tileWrite, hrow]
  dsimp only
  rw [if_neg (hne (by decide)), if_neg (hne (by decide)), if_neg (hne (by decide)), if_neg (by omega), if_neg (by omega),
    if_pos ⟨hge, hlt, hmod⟩, hdiv]

/-- The tile with the seed of slot k fixed and its expansion begun, before the slot's registers follow. -/
def Tile.seedFixed (x : Tile) (k : Nat) (hi : Word) : Tile :=
  { x with
    expanding := tabSet expandD x.expanding k
      (some (BitVec.ofNat 64 ((x.reg (Reg.rennetSeedLo + 8 * k)).toNat + 2 ^ 32 * hi.toNat))) }

theorem Tile.seedFixed_expanding (x : Tile) (k : Nat) (hi : Word) : tabGet expandD (x.seedFixed k hi).expanding k =
    some (BitVec.ofNat 64 ((x.reg (Reg.rennetSeedLo + 8 * k)).toNat + 2 ^ 32 * hi.toNat)) := by
  rw [Tile.seedFixed, tabGet_set_same]

/-- The write of a slot's high half (R75, R76): the half is stored, BUSY is set, FAIL clears, and the seed is fixed. -/
theorem seedWriteHi_eq (x : Tile) {k : Nat} (hi : Word) (hk : k < 16) : x.seedWriteHi k hi =
    (((x.seedFixed k hi).setReg (Reg.rennetSeedHi + 8 * k) hi).setF Reg.rennetSeedBusy k k 1).setF Reg.rennetSeedBusy
      (16 + k) (16 + k) 0 := by
  have hbusy : Reg.rennetSeedLo + 8 * k ≠ Reg.rennetSeedBusy ∧ Reg.rennetSeedHi + 8 * k ≠ Reg.rennetSeedBusy := by
    simp only [Reg.rennetSeedLo, Reg.rennetSeedHi, Reg.rennetSeedBusy]; omega
  have hhalf : Reg.rennetSeedLo + 8 * k + 4 = Reg.rennetSeedHi + 8 * k := by
    simp only [Reg.rennetSeedLo, Reg.rennetSeedHi]; omega
  have hne : Reg.rennetSeedLo + 8 * k ≠ Reg.rennetSeedHi + 8 * k := by omega
  rw [Tile.seedWriteHi, if_pos hk]
  dsimp only
  rw [Tile.reg64, hhalf]
  simp only [Tile.setF_reg_ne _ _ _ _ hbusy.1, Tile.setF_reg_ne _ _ _ _ hbusy.2, Tile.setReg_reg_ne _ _ hne,
    Tile.setReg_reg_same, Tile.setF_expanding, Tile.setReg_expanding]
  rfl

theorem seedWriteHi_facts (x : Tile) {k : Nat} (hi : Word) (hk : k < 16) :
    (x.seedFixed k hi).RegsOnly (x.seedWriteHi k hi) ∧
    (x.seedWriteHi k hi).reg (Reg.rennetSeedHi + 8 * k) = hi ∧ (x.seedWriteHi k hi).f Reg.rennetSeedBusy k k = 1 ∧
    (x.seedWriteHi k hi).f Reg.rennetSeedBusy (16 + k) (16 + k) = 0 ∧
    (∀ b, b < 32 → b ≠ k → b ≠ 16 + k → (x.seedWriteHi k hi).f Reg.rennetSeedBusy b b = x.f Reg.rennetSeedBusy b b) ∧
    x.RegsSame (x.seedWriteHi k hi) [Reg.rennetSeedHi + 8 * k, Reg.rennetSeedBusy] := by
  have hbusy : Reg.rennetSeedHi + 8 * k ≠ Reg.rennetSeedBusy := by
    simp only [Reg.rennetSeedHi, Reg.rennetSeedBusy]; omega
  obtain ⟨w, hw⟩ : ∃ w, w = x.seedFixed k hi := ⟨_, rfl⟩
  have hreg : ∀ o, w.reg o = x.reg o := reg_congr (by rw [hw, Tile.seedFixed])
  have hf : ∀ o hi lo, w.f o hi lo = x.f o hi lo := fun o hi lo => by rw [Tile.f, hreg, Tile.f]
  rw [seedWriteHi_eq x hi hk, ← hw]
  refine ⟨((Tile.RegsOnly.setReg ..).andF _ _ _ _).andF _ _ _ _, ?_, ?_, ?_, fun b _ hb hb' => ?_, fun o ho => ?_⟩
  · rw [Tile.setF_reg_ne _ _ _ _ hbusy, Tile.setF_reg_ne _ _ _ _ hbusy, Tile.setReg_reg_same]
  · exact (Tile.setF_bit_ne _ _ _ (by omega) (by omega)).trans (Tile.setF_bit_same _ _ (by omega) (by decide))
  · exact Tile.setF_bit_same _ _ (by omega) (by decide)
  · exact (Tile.setF_bit_ne _ _ _ (by omega) hb').trans ((Tile.setF_bit_ne _ _ _ (by omega) hb).trans
      ((Tile.setReg_f_ne _ _ _ _ hbusy.symm).trans (hf ..)))
  · simp only [List.mem_cons, List.not_mem_nil, or_false, not_or] at ho
    rw [Tile.setF_reg_ne _ _ _ _ ho.2, Tile.setF_reg_ne _ _ _ _ ho.2, Tile.setReg_reg_ne _ _ ho.1, hreg]

/-- The tile with a slot's expansion ended and the pattern of its seed stored, before the slot's status bits follow. -/
def Tile.patternStored (x : Tile) (k : Nat) (seed : DWord) (good : Bool) : Tile :=
  { x with
    expanding := tabSet expandD x.expanding k none
    patterns := tabSet patternD x.patterns k (signPattern seed)
    patBad := setBit x.patBad k (!good) }

theorem Tile.patternStored_expanding (x : Tile) (k : Nat) (seed : DWord) (good : Bool) :
    tabGet expandD (x.patternStored k seed good).expanding k = none := by
  rw [Tile.patternStored, tabGet_set_same]

theorem Tile.patternStored_patterns (x : Tile) (k : Nat) (seed : DWord) (good : Bool) (j : Nat) :
    tabGet patternD (x.patternStored k seed good).patterns j =
      if j = k then signPattern seed else tabGet patternD x.patterns j := by
  rw [Tile.patternStored, tabGet_set]

/-- The end of a slot's expansion (R75, R76): the pattern is stored, BUSY clears, and FAIL is set when the parity check
failed. -/
theorem seedDone_eq {x : Tile} {k : Nat} {seed : DWord} (parityOk kept : Bool) (h : tabGet expandD x.expanding k = some seed) :
    x.seedDone k parityOk kept = if parityOk then (x.patternStored k seed (parityOk && kept)).setF Reg.rennetSeedBusy k k 0
      else ((x.patternStored k seed (parityOk && kept)).setF Reg.rennetSeedBusy k k 0).setF Reg.rennetSeedBusy
        (16 + k) (16 + k) 1 := by
  rw [Tile.seedDone, h]
  rfl

theorem seedDone_facts {x : Tile} {k : Nat} {seed : DWord} (parityOk kept : Bool) (hk : k < 16)
    (h : tabGet expandD x.expanding k = some seed) :
    (x.patternStored k seed (parityOk && kept)).RegsOnly (x.seedDone k parityOk kept) ∧
    (x.seedDone k parityOk kept).f Reg.rennetSeedBusy k k = 0 ∧
    (x.seedDone k parityOk kept).f Reg.rennetSeedBusy (16 + k) (16 + k) =
      (if parityOk then x.f Reg.rennetSeedBusy (16 + k) (16 + k) else 1) ∧
    x.RegsSame (x.seedDone k parityOk kept) [Reg.rennetSeedBusy] := by
  obtain ⟨w, hw⟩ : ∃ w, w = x.patternStored k seed (parityOk && kept) := ⟨_, rfl⟩
  have hreg : ∀ o, w.reg o = x.reg o := reg_congr (by rw [hw, Tile.patternStored])
  have hf : ∀ o hi lo, w.f o hi lo = x.f o hi lo := fun o hi lo => by rw [Tile.f, hreg, Tile.f]
  have hclear : (w.setF Reg.rennetSeedBusy k k 0).f Reg.rennetSeedBusy k k = 0 :=
    Tile.setF_bit_same _ _ (by omega) (by decide)
  have hother : ∀ o, o ∉ [Reg.rennetSeedBusy] → (w.setF Reg.rennetSeedBusy k k 0).reg o = x.reg o := fun o ho =>
    (Tile.setF_reg_ne _ _ _ _ (List.mem_singleton.not.mp ho)).trans (hreg o)
  rw [seedDone_eq parityOk kept h, ← hw]
  cases parityOk
  · exact ⟨(Tile.RegsOnly.setF ..).andF _ _ _ _, (Tile.setF_bit_ne _ _ _ (by omega) (by omega)).trans hclear,
      Tile.setF_bit_same _ _ (by omega) (by decide),
      fun o ho => (Tile.setF_reg_ne _ _ _ _ (List.mem_singleton.not.mp ho)).trans (hother o ho)⟩
  · exact ⟨.setF .., hclear, (Tile.setF_bit_ne _ _ _ (by omega) (by omega)).trans (hf ..), hother⟩

/-! ### The rounding seed -/

theorem tileWrite_srSeedHi (s : State) (a : Agent) (t : Nat) (hi : Word) :
    s.tileWrite a t Reg.rennetSrSeedHi hi = s.modTile t (·.srSeedWrite hi) := rfl

/-- Does a written rounding seed wait at quarter q: for the quarter's drain or, at quarter 0, for a Churn job (R80, R193)? -/
def Tile.seedHeld (x : Tile) (q : Nat) : Bool := (x.drainHead q).isSome || (q == 0 && x.churn.isSome)

/-- A written rounding seed has reached the quarters below n of x, and no other: each takes it at once or owes it. -/
structure Tile.Reseeded (x y : Tile) (n : Nat) : Prop where
  only  : y = { x with gens := y.gens, reseed := y.reseed, drains := y.drains }
  held  : ∀ q, y.seedHeld q = x.seedHeld q
  taken : ∀ q, q < n → x.seedHeld q = false → y.gen q = genSeed (x.reg64 Reg.rennetSrSeedLo) (q + 1) ∧ bit y.reseed q = false
  owed  : ∀ q, q < n → x.seedHeld q = true → y.gen q = x.gen q ∧ bit y.reseed q = true
  later : ∀ q, q < 4 → n ≤ q → y.gen q = x.gen q

theorem Tile.Reseeded.refl (x : Tile) : x.Reseeded x 0 :=
  ⟨rfl, fun _ => rfl, fun _ h => absurd h (Nat.not_lt_zero _), fun _ h => absurd h (Nat.not_lt_zero _), fun _ _ _ => rfl⟩

/-- It reaches the next quarter. -/
theorem Tile.Reseeded.next {x y : Tile} {n : Nat} (h : x.Reseeded y n) (hn : n < 4) :
    x.Reseeded (y.reseedQuarter n) (n + 1) := by
  obtain ⟨honly, hheld, htaken, howed, hlater⟩ := h
  obtain ⟨ge, rs, dr, hform, hother, hfree, hwaits, hdrains⟩ := reseedQuarter_form y n hn
  have hchurn : y.churn = x.churn := by rw [honly]
  have hseed : y.reg64 Reg.rennetSrSeedLo = x.reg64 Reg.rennetSrSeedLo := by rw [honly]; rfl
  have hbelow : ∀ q, q < n → tabGet genD ge q = y.gen q ∧ bit rs q = bit y.reseed q :=
    fun q hq => hother q (hq.trans hn) (Nat.ne_of_lt hq)
  rw [hform]
  refine ⟨by rw [honly], fun q => ?_, fun q hq hx => ?_, fun q hq hx => ?_, fun q hq hnq => ?_⟩
  · rw [← hheld q, Tile.seedHeld, Tile.seedHeld, ← hdrains q]
    rfl
  · rcases Nat.lt_succ_iff_lt_or_eq.mp hq with hlt | rfl
    · obtain ⟨hgen, hbit⟩ := hbelow q hlt
      exact ⟨hgen.trans (htaken q hlt hx).1, hbit.trans (htaken q hlt hx).2⟩
    · obtain ⟨hgen, hbit, -⟩ := hfree ((hheld q).trans hx)
      exact ⟨hgen.trans (by rw [hseed]), hbit⟩
  · rcases Nat.lt_succ_iff_lt_or_eq.mp hq with hlt | rfl
    · obtain ⟨hgen, hbit⟩ := hbelow q hlt
      exact ⟨hgen.trans (howed q hlt hx).1, hbit.trans (howed q hlt hx).2⟩
    · obtain ⟨hgen, hbit⟩ := hwaits ((hheld q).trans hx)
      exact ⟨hgen.trans (hlater q hn (Nat.le_refl q)), hbit⟩
  · exact (hother q hq (by omega)).1.trans (hlater q hq (by omega))

theorem Tile.Reseeded.all (x : Tile) : x.Reseeded ((List.range 4).foldl Tile.reseedQuarter x) 4 :=
  ((((Tile.Reseeded.refl x).next (by decide)).next (by decide)).next (by decide)).next (by decide)

/-- With no Churn job at quarter 0, a stage owes what its bit says. -/
theorem owesSeed_eq {x : Tile} {q : Nat} (h : q = 0 → x.churn = none) : x.owesSeed q = bit x.reseed q := by
  cases q with
  | zero =>
    have hnone := h rfl
    simp only [Tile.owesSeed, hnone]
  | succ q => rfl

/-- SR_RESEED_TAKE of a stage that owes a seed and has no drain begun and no Churn job (R80). -/
theorem reseedTake_owed {x : Tile} {q : Nat} (hq : q < 4) (howes : bit x.reseed q = true) (hbusy : x.drainBusy q = false)
    (hchurn : q = 0 → x.churn = none) : x.reseedTake q = x.takeSeed q := by
  have hjob : (q == 0 && x.churn.isSome) = false := by
    cases q with
    | zero => rw [hchurn rfl]; rfl
    | succ q => rfl
  rw [Tile.reseedTake, owesSeed_eq hchurn, howes, hbusy, hjob, decide_eq_false (Nat.not_le.mpr hq)]
  rfl

/-! ### The commands -/

theorem exec_seedExpansion {s : State} {n t k : Nat} (hi : Word) (hu : s.hostUp = true) (hown : s.ownsTile n t = true)
    (hk : k < 16) : exec (.seedExpansion (.vf n) t k hi) s = .next (s.setTile t ((s.tile t).seedWriteHi k hi)) := by
  have hfault : Reg.ladleFault ∉ [Reg.rennetSeedHi + 8 * k, Reg.rennetSeedBusy] := by
    simp only [List.mem_cons, List.not_mem_nil, or_false, Reg.ladleFault, Reg.rennetSeedHi, Reg.rennetSeedBusy]; omega
  obtain ⟨-, -, -, -, -, hregs⟩ := seedWriteHi_facts (s.tile t) hi hk
  show Host.Outcome.next (s.when (decide (k < 16)) _) = _
  rw [State.when, if_pos (decide_eq_true hk), tileReg_mod s n t _ hi _ hu hown (tileWrite_seedHi s _ t hi hk) (hregs _ hfault)]

theorem exec_seedExpansionDone {s : State} {t k : Nat} {seed : DWord} (how : SeedEnd) (hc : s.clocked t = true) (hk : k < 16)
    (h : tabGet expandD (s.tile t).expanding k = some seed) : exec (.seedExpansionDone t k how) s =
      .next (s.setTile t ((s.tile t).seedDone k (how != .failed) (how == .good))) := by
  obtain ⟨-, -, -, hregs⟩ := seedDone_facts (how != .failed) (how == .good) hk h
  show Host.Outcome.next (s.when (decide (k < 16)) _) = _
  rw [State.when, if_pos (decide_eq_true hk), tileUnit_eq s t _ _ _ rfl hc rfl (hregs _ (by decide))]

/-- The write of the rounding seed: its high half is stored, and the seed reaches the four quarters (R80). -/
theorem srSeedWrite_reseeded (x : Tile) (hi : Word) : (x.setReg Reg.rennetSrSeedHi hi).Reseeded (x.srSeedWrite hi) 4 :=
  .all _

theorem srSeedWrite_reg (x : Tile) (hi : Word) (o : Nat) :
    (x.srSeedWrite hi).reg o = (x.setReg Reg.rennetSrSeedHi hi).reg o :=
  reg_congr (by rw [(srSeedWrite_reseeded x hi).only]) o

theorem exec_srSeedWrite {s : State} {n t : Nat} (hi : Word) (hu : s.hostUp = true) (hown : s.ownsTile n t = true) :
    exec (.srSeedWrite (.vf n) t hi) s = .next (s.setTile t ((s.tile t).srSeedWrite hi)) :=
  congrArg Host.Outcome.next (tileReg_mod s n t _ hi _ hu hown (tileWrite_srSeedHi s _ t hi)
    ((srSeedWrite_reg _ hi _).trans (Tile.setReg_reg_ne _ _ (by decide))))

theorem exec_srReseedTake {s : State} {t q : Nat} (hc : s.clocked t = true) (hq : q < 4) (howes : bit (s.tile t).reseed q = true)
    (hbusy : (s.tile t).drainBusy q = false) (hchurn : q = 0 → (s.tile t).churn = none) :
    exec (.srReseedTake t q) s = .next (s.setTile t ((s.tile t).takeSeed q)) := by
  show Host.Outcome.next (s.when (decide (q < 4)) _) = _
  rw [State.when, if_pos (decide_eq_true hq),
    tileUnit_eq s t _ _ _ rfl hc (reseedTake_owed hq howes hbusy hchurn) (by rw [takeSeed_eq]; rfl)]

end Sys2Proof.Machine
end

section
open Sys2Proof Sys2Proof.Machine

/-- Settles O10: a seed's write and the end of its expansion change the slot alone; a rounding seed reaches the four quarters
one after the other. -/
theorem seedsReachTheRennet : Obligations.SeedsReachTheRennet := by
  refine ⟨⟨fun s n t k hi x hx hu hown hk => ?_, fun s t k seed how x hx hc hk hseed => ?_⟩,
    fun s n t hi x hx hu hown => ?_, fun s t q x hx hc hq howes hbusy hchurn => ?_⟩ <;> subst hx
  · obtain ⟨honly, hhi, hset, hclear, hbits, hregs⟩ := seedWriteHi_facts (s.tile t) hi hk
    refine ⟨_, exec_seedExpansion hi hu hown hk, hhi, hset, hclear, ?_, hbits, ?_⟩
    · rw [honly.expanding, Tile.seedFixed_expanding]
    · rw [Tile.RegsOnly] at honly
      rw [honly] at hregs ⊢
      exact ⟨rfl, rfl, ⟨rfl, rfl, rfl, rfl, rfl, rfl, rfl, rfl, rfl, rfl, rfl, rfl, rfl, rfl, rfl⟩, ⟨rfl, rfl, rfl⟩,
        ⟨rfl, rfl, rfl, rfl, rfl, rfl⟩, ⟨rfl, rfl, rfl⟩, hregs⟩
  · obtain ⟨honly, hclear, hfail, hregs⟩ := seedDone_facts (how != .failed) (how == .good) hk hseed
    refine ⟨_, exec_seedExpansionDone how hc hk hseed, ?_, fun k' hk' => ?_, ?_, hclear, fun h => ?_, fun h => ?_, ?_⟩
    · rw [honly.patterns, Tile.patternStored_patterns, if_pos rfl]
    · rw [honly.patterns, Tile.patternStored_patterns, if_neg hk']
    · rw [honly.expanding, Tile.patternStored_expanding]
    · subst h
      exact hfail
    · exact hfail.trans (if_pos (bne_iff_ne.mpr h))
    · rw [Tile.RegsOnly] at honly
      rw [honly] at hregs ⊢
      exact ⟨rfl, ⟨rfl, rfl, rfl, rfl, rfl, rfl, rfl, rfl, rfl, rfl, rfl, rfl, rfl, rfl, rfl⟩, ⟨rfl, rfl, rfl⟩,
        ⟨rfl, rfl, rfl, rfl, rfl, rfl⟩, ⟨rfl, rfl, rfl⟩, hregs⟩
  · obtain ⟨honly, -, htaken, howed, -⟩ := srSeedWrite_reseeded (s.tile t) hi
    have hseed : ((s.tile t).setReg Reg.rennetSrSeedHi hi).reg64 Reg.rennetSrSeedLo =
        BitVec.ofNat 64 (((s.tile t).reg Reg.rennetSrSeedLo).toNat + 2 ^ 32 * hi.toNat) := by
      rw [Tile.reg64, Tile.setReg_reg_ne _ _ (by decide), Tile.setReg_reg_same]
    rw [hseed] at htaken
    refine ⟨_, exec_srSeedWrite hi hu hown, (srSeedWrite_reg _ hi _).trans (Tile.setReg_reg_same _ _ _), htaken, howed, ?_⟩
    have hregs := srSeedWrite_reg (s.tile t) hi
    rw [honly] at hregs ⊢
    exact ⟨rfl, rfl, rfl, ⟨rfl, rfl, rfl⟩, ⟨rfl, rfl, rfl, rfl, rfl, rfl⟩, ⟨rfl, rfl, rfl⟩, fun o ho =>
      (hregs o).trans (Tile.setReg_reg_ne _ _ (List.mem_singleton.not.mp ho))⟩
  · refine ⟨_, exec_srReseedTake hc hq howes hbusy hchurn, ?_⟩
    rw [takeSeed_eq]
    exact ⟨tabGet_set_same genD _ q _, fun q' hq' => tabGet_set_ne genD _ _ hq', bit_setBit_same _ _ _ hq, rfl⟩
end

section
namespace Sys2Proof.Machine

/-! ### Clears of a whole partition -/

theorem tilesOf_nodup (s : State) (n : Nat) : (s.tilesOf n).Nodup := List.nodup_range.filter _

/-- A change of every tile of a partition, and of no other tile (R85). -/
theorem eachTile_form (s : State) (n : Nat) (f : Tile → Tile) : ∃ ts, s.eachTile n f = { s with tiles := ts } ∧
    (∀ t, s.ownsTile n t = false → tabGet tileD ts t = s.tile t) ∧
    (∀ t, s.ownsTile n t = true → tabGet tileD ts t = f (s.tile t)) := by
  obtain ⟨ts, heach, hother, howned⟩ := foldl_modTile f (s.tilesOf n) s (tilesOf_nodup s n)
  refine ⟨ts, heach, fun t ht => hother t fun hmem => ?_, fun t ht => howned t ((mem_tilesOf s n t).mpr ht)⟩
  rw [mem_tilesOf, ht] at hmem
  cases hmem

/-- Tile y is x with the mask's bits of flag register o cleared, and its first-event record with them when the flags in bits
hi to lo return to zero (R82). -/
def Tile.FlagsCleared (x y : Tile) (o first mask hi lo : Nat) : Prop :=
  ∃ rg, y = { x with regs := rg } ∧ tabGet tileRegD rg o = x.reg o &&& ~~~(BitVec.ofNat 32 mask) ∧
    tabGet tileRegD rg first = (if fld (tabGet tileRegD rg o) hi lo = 0 then 0 else x.reg first) ∧
    ∀ o', o' ≠ o → o' ≠ first → tabGet tileRegD rg o' = x.reg o'

theorem clearFlags_cleared (x : Tile) (mask : Nat) :
    x.FlagsCleared (x.clearFlags mask) Reg.rennetFlags Reg.rennetFirst mask 31 0 := by
  refine clear_facts x _ _ mask 31 0 (by decide) _ ?_
  simp only [Tile.clearFlags, fld_31_0]

theorem churnClear_cleared (x : Tile) (mask : Nat) :
    x.FlagsCleared (x.churnClear mask) Reg.churnStatus Reg.churnFirst mask 6 4 :=
  clear_facts x _ _ mask 6 4 (by decide) _ rfl

theorem skimClear_cleared (x : Tile) (mask : Nat) :
    x.FlagsCleared (x.skimClear mask) Reg.skimStatus Reg.skimFirst mask 5 4 :=
  clear_facts x _ _ mask 5 4 (by decide) _ rfl

/-- A command that clears flags in every tile of a partition clears them in no other tile. -/
theorem exec_eachTile_clears {s : State} {n : Nat} {c : Instr} {f : Tile → Tile} {o first mask hi lo : Nat}
    (hexec : exec c s = .next (s.eachTile n f)) (hf : ∀ x : Tile, x.FlagsCleared (f x) o first mask hi lo) :
    ∃ ts, exec c s = .next { s with tiles := ts } ∧ (∀ t, s.ownsTile n t = false → tabGet tileD ts t = s.tile t) ∧
      ∀ t, s.ownsTile n t = true → (s.tile t).FlagsCleared (tabGet tileD ts t) o first mask hi lo := by
  obtain ⟨ts, heach, hother, howned⟩ := eachTile_form s n f
  exact ⟨ts, by rw [hexec, heach], hother, fun t ht => howned t ht ▸ hf (s.tile t)⟩

theorem partWrite_rennetPartClear (s : State) (n : Nat) (val : Word) :
    s.partWrite n Reg.rennetPartClear val = s.eachTile n (·.clearFlags (fld val 8 0)) := rfl

theorem partWrite_churnPartClear (s : State) (n : Nat) (val : Word) :
    s.partWrite n Reg.churnPartClear val = s.eachTile n (·.churnClear (16 * fld val 2 0)) := rfl

theorem partWrite_skimPartClear (s : State) (n : Nat) (val : Word) :
    s.partWrite n Reg.skimPartClear val = s.eachTile n (·.skimClear (16 * fld val 1 0)) := rfl

theorem partWrite_capStepCtl (s : State) (n : Nat) (val : Word) :
    s.partWrite n Reg.capStepCtl val = s.stepStatsClear n val := rfl

theorem partWrite_capPartPhase (s : State) (n : Nat) (val : Word) :
    s.partWrite n Reg.capPartPhase val = s.demandForget n val := rfl

/-- A write that would leave the state as it is leaves it so whether or not the function reaches the register. -/
theorem partReg_vf_same {s : State} {n o : Nat} {val : Word} (h : s.partWrite n o val = s) : s.partReg (.vf n) n o val = s := by
  simp only [State.partReg, State.reach, State.asAgent, h]
  split
  · rfl
  · split <;> rfl

/-! ### Registers that a partition's five phases share out -/

/-- Of a list of changes of a partition's registers, one that writes register o sets it when none of the others does. -/
theorem Part.foldl_range_reg {f : Part → Nat → Part} {o j : Nat} {v : Word} (hit : ∀ p, (f p j).reg o = v)
    (miss : ∀ p k, k ≠ j → (f p k).reg o = p.reg o) (p : Part) {m : Nat} (hj : j < m) :
    ((List.range m).foldl f p).reg o = v := by
  induction m with
  | zero => exact absurd hj (Nat.not_lt_zero j)
  | succ m ih =>
    rw [List.range_succ, List.foldl_append, List.foldl_cons, List.foldl_nil]
    by_cases hm : m = j
    · rw [hm, hit]
    · rw [miss _ _ hm, ih (by omega)]

/-- Two partitions differ in their registers alone. -/
def Part.RegsOnly (p q : Part) : Prop := q = { p with regs := q.regs }

theorem Part.RegsOnly.trans {p q r : Part} (h : p.RegsOnly q) (h' : q.RegsOnly r) : p.RegsOnly r := by
  unfold Part.RegsOnly at *
  rw [h', h]

theorem Part.RegsOnly.foldl {f : Part → Nat → Part} (h : ∀ (p : Part) k, p.RegsOnly (f p k)) (l : List Nat) (p : Part) :
    p.RegsOnly (l.foldl f p) := by
  induction l generalizing p with
  | nil => rfl
  | cons k l ih => exact (h p k).trans (ih (f p k))

theorem Part.foldl_reg_same {f : Part → Nat → Part} {o : Nat} (l : List Nat) (h : ∀ p k, k ∈ l → (f p k).reg o = p.reg o)
    (p : Part) : (l.foldl f p).reg o = p.reg o := by
  induction l generalizing p with
  | nil => rfl
  | cons k l ih =>
    exact (ih (fun p j hj => h p j (List.mem_cons_of_mem _ hj)) (f p k)).trans (h p k List.mem_cons_self)

/-- One phase's shortest and longest visit as at reset (R209). -/
def Part.clearVisit (p : Part) (ph : Nat) : Part :=
  (p.put (Reg.capPhaseMin + 16 * ph) 0xFFFFFFFF).put (Reg.capPhaseMax + 16 * ph) 0

/-- With no step to count, a recount clears each phase. -/
theorem recount_nil (p : Part) : p.recount [] = (List.range 5).foldl Part.clearVisit p := rfl

theorem clearVisit_regsOnly (p : Part) (ph : Nat) : p.RegsOnly (p.clearVisit ph) := rfl

theorem clearVisit_reg (p : Part) (ph : Nat) :
    (p.clearVisit ph).reg (Reg.capPhaseMin + 16 * ph) = 0xFFFFFFFF ∧ (p.clearVisit ph).reg (Reg.capPhaseMax + 16 * ph) = 0 := by
  have hne : Reg.capPhaseMin + 16 * ph ≠ Reg.capPhaseMax + 16 * ph := by
    simp only [Reg.capPhaseMin, Reg.capPhaseMax]; omega
  exact ⟨(Part.setReg_reg_ne _ _ hne).trans (Part.setReg_reg_same _ _ _), Part.setReg_reg_same _ _ _⟩

theorem clearVisit_reg_ne (p : Part) {ph o : Nat} (hmin : o ≠ Reg.capPhaseMin + 16 * ph) (hmax : o ≠ Reg.capPhaseMax + 16 * ph) :
    (p.clearVisit ph).reg o = p.reg o :=
  (Part.setReg_reg_ne _ _ hmax).trans (Part.setReg_reg_ne _ _ hmin)

theorem recount_nil_regsOnly (p : Part) : p.RegsOnly (p.recount []) := by
  rw [recount_nil]
  exact .foldl clearVisit_regsOnly _ _

theorem recount_nil_reg (p : Part) {ph : Nat} (hph : ph < 5) :
    (p.recount []).reg (Reg.capPhaseMin + 16 * ph) = 0xFFFFFFFF ∧ (p.recount []).reg (Reg.capPhaseMax + 16 * ph) = 0 := by
  have hapart {k : Nat} (hk : k ≠ ph) : Reg.capPhaseMin + 16 * ph ≠ Reg.capPhaseMin + 16 * k ∧
      Reg.capPhaseMin + 16 * ph ≠ Reg.capPhaseMax + 16 * k ∧ Reg.capPhaseMax + 16 * ph ≠ Reg.capPhaseMin + 16 * k ∧
      Reg.capPhaseMax + 16 * ph ≠ Reg.capPhaseMax + 16 * k := by
    simp only [Reg.capPhaseMin, Reg.capPhaseMax]; omega
  rw [recount_nil]
  exact ⟨Part.foldl_range_reg (fun p => (clearVisit_reg p ph).1)
      (fun p k hk => clearVisit_reg_ne p (hapart hk).1 (hapart hk).2.1) p hph,
    Part.foldl_range_reg (fun p => (clearVisit_reg p ph).2)
      (fun p k hk => clearVisit_reg_ne p (hapart hk).2.2.1 (hapart hk).2.2.2) p hph⟩

/-- One phase's learned demand as at reset (R379). -/
def Part.forgetDemand (p : Part) (ph : Nat) : Part :=
  p.setReg (Reg.capDemand + 4 * ph) (partRegD (Reg.capDemand + 4 * ph))

theorem forgetDemand_regsOnly (p : Part) (ph : Nat) : p.RegsOnly (p.forgetDemand ph) := rfl

/-- The partition with its five learned demands as at reset. -/
def Part.forgetDemands (p : Part) : Part := (List.range 5).foldl Part.forgetDemand p

theorem forgetDemands_regsOnly (p : Part) : p.RegsOnly p.forgetDemands := .foldl forgetDemand_regsOnly _ _

theorem forgetDemands_reg (p : Part) {ph : Nat} (hph : ph < 5) :
    p.forgetDemands.reg (Reg.capDemand + 4 * ph) = partRegD (Reg.capDemand + 4 * ph) :=
  Part.foldl_range_reg (fun p => Part.setReg_reg_same p _ _) (fun p k _ => Part.setReg_reg_ne p _ (by omega)) p hph

theorem forgetDemands_reg_ne (p : Part) {o : Nat} (h : ∀ ph, ph < 5 → o ≠ Reg.capDemand + 4 * ph) :
    p.forgetDemands.reg o = p.reg o :=
  Part.foldl_reg_same _ (fun p k hk => Part.setReg_reg_ne p _ (h k (List.mem_range.mp hk))) p

/-! ### The two clears of a partition's own block -/

theorem stepStatsClear_set {s : State} {n : Nat} {val : Word} (hbit : bit val 0 = true) (hended : (s.sys n).ph.ended.1 ≠ s.cyc) :
    s.stepStatsClear n val = (s.setPart n ((s.part n).recount [])).setSys n
      { s.sys n with ph := { (s.sys n).ph with hist := [] } } := by
  rw [State.stepStatsClear, hbit]
  simp only [Bool.not_true, Bool.false_eq_true, if_false, hended]
  rfl

theorem stepStatsClear_unset {s : State} {n : Nat} {val : Word} (hbit : bit val 0 = false) : s.stepStatsClear n val = s := by
  rw [State.stepStatsClear, hbit]
  rfl

theorem demandForget_set {s : State} {n : Nat} {val : Word} (hbit : bit val 31 = true) :
    s.demandForget n val = s.setPart n (s.part n).forgetDemands := by
  rw [State.demandForget, hbit]
  rfl

theorem demandForget_unset {s : State} {n : Nat} {val : Word} (hbit : bit val 31 = false) : s.demandForget n val = s := by
  rw [State.demandForget, hbit]
  rfl

end Sys2Proof.Machine
end

section
open Sys2Proof Sys2Proof.Machine

/-- Settles O11: each partition's register writes through to the change of its tiles, or of the partition's own block. -/
theorem partitionWideClears : Obligations.PartitionWideClears := by
  refine ⟨fun s n val hu hn c o first mask hi lo hc => ?_, fun s n val hu hn hbit hended => ?_, fun s n val hu hn hbit => ?_,
    fun s n val hbit => ?_, fun s n val hbit => ?_⟩
  · simp only [List.mem_cons, List.not_mem_nil, or_false, Prod.mk.injEq] at hc
    rcases hc with ⟨rfl, rfl, rfl, rfl, rfl, rfl⟩ | ⟨rfl, rfl, rfl, rfl, rfl, rfl⟩ | ⟨rfl, rfl, rfl, rfl, rfl, rfl⟩
    · exact exec_eachTile_clears (congrArg Host.Outcome.next ((partReg_vf s n _ val hu hn).trans
        (partWrite_rennetPartClear s n val))) fun x => clearFlags_cleared x _
    · exact exec_eachTile_clears (congrArg Host.Outcome.next ((partReg_vf s n _ val hu hn).trans
        (partWrite_churnPartClear s n val))) fun x => churnClear_cleared x _
    · exact exec_eachTile_clears (congrArg Host.Outcome.next ((partReg_vf s n _ val hu hn).trans
        (partWrite_skimPartClear s n val))) fun x => skimClear_cleared x _
  · exact ⟨_, _, congrArg Host.Outcome.next ((partReg_vf s n _ val hu hn).trans
        ((partWrite_capStepCtl s n val).trans (stepStatsClear_set hbit hended))),
      fun ph hph => recount_nil_reg (s.part n) hph, rfl, recount_nil_regsOnly (s.part n)⟩
  · exact ⟨_, congrArg Host.Outcome.next ((partReg_vf s n _ val hu hn).trans
        ((partWrite_capPartPhase s n val).trans (demandForget_set hbit))),
      fun ph hph => forgetDemands_reg (s.part n) hph, forgetDemands_regsOnly (s.part n),
      fun o ho => forgetDemands_reg_ne (s.part n) ho⟩
  · exact congrArg Host.Outcome.next (partReg_vf_same ((partWrite_capStepCtl s n val).trans (stepStatsClear_unset hbit)))
  · exact congrArg Host.Outcome.next (partReg_vf_same ((partWrite_capPartPhase s n val).trans (demandForget_unset hbit)))
end

section
namespace Sys2Proof.Machine

/-! ### Sums reach their accumulator entries (R88, R93) -/

/-- What an accumulator entry becomes: the sum itself in the first pass of an output tile, and in a later one the entry
with the sum added. -/
def PassRec.entryAfter (p : PassRec) (old : BitVec 56) (e : SumEntry) : BitVec 56 :=
  if p.first then e.val else (acc56Add p.compat old (acc56Num e.val)).1

/-- What a sum that an accumulator takes leaves: its entry is written, its column link goes on to the next sum, and its
pass has one addition fewer to come. -/
theorem accumulate_taken {x : Tile} {cyc q col : Nat} {e : SumEntry} {rest : List SumEntry} {p : PassRec}
    (hlink : tabGet colD x.arr.cols (q * 64 + col) = e :: rest) (hpass : x.passOf e.seq = some p)
    (htakes : x.accTakes cyc q col p e = true) :
    (Tile.accumulate cyc q col x).1 =
      ({ x with
        acc := tabSet accD x.acc (accKey q (p.setIn q) e.tok col)
          (p.entryAfter (tabGet accD x.acc (accKey q (p.setIn q) e.tok col)) e)
        arr := { x.arr with
          cols := tabSet colD x.arr.cols (q * 64 + col) rest
          addedAt := tabSet cycleD x.arr.addedAt (accKey q (p.setIn q) e.tok col) (some cyc) } } : Tile).modPass p.seq
        (fun p => { p with left := p.left - 1 }) := by
  simp only [Tile.accumulate, hlink, hpass, htakes, Bool.not_true, Bool.false_eq_true, if_false, PassRec.entryAfter]
  cases p.first <;> rfl

/-! ### Drains of a completed pass (R95) -/

/-- The drains that a completed output tile leaves, one per column quarter of its gang. -/
def PassRec.drainJobs (p : PassRec) : List DrainJob :=
  ((columnQuarters p.gang p.qsel).zipIdx).map (fun x => drainJob p x.2 x.1)

theorem drainJobs_quarters (p : PassRec) : p.drainJobs.map (·.quarter) = columnQuarters p.gang p.qsel := by
  rw [PassRec.drainJobs, List.map_map]
  exact List.zipIdx_map_fst 0 _

/-- Every drain of an output tile takes its target and its output format from the pass, and starts at its first row. -/
theorem drainJobs_fields {p : PassRec} {j : DrainJob} (h : j ∈ p.drainJobs) :
    j.base = p.base ∧ j.pitch = p.pitch ∧ j.cvt = p.cvt ∧ j.seq = p.seq ∧ j.row = 0 := by
  obtain ⟨x, -, rfl⟩ := List.mem_map.mp h
  exact ⟨rfl, rfl, rfl, rfl, rfl⟩

theorem exec_matrixPassComplete {s : State} {t g : Nat} {p : PassRec} (hc : s.clocked t = true)
    (hp : (s.tile t).passEnds g = some p) :
    exec (.matrixPassComplete t g) s = .next (s.setTile t ((s.tile t).passComplete g)) := by
  obtain ⟨ao, hform⟩ := passComplete_form _ g p hp
  exact congrArg Host.Outcome.next (tileUnit_eq s t _ _ _ rfl hc rfl (reg_congr (by rw [hform]) _))

end Sys2Proof.Machine
end

section
open Sys2Proof Sys2Proof.Machine

/-- Settles O7: a taken sum writes its own entry and leaves its own link, and the completion of a pass removes its record
and with ACC_LAST appends its drains. -/
theorem matrixPassCompletes : Obligations.MatrixPassCompletes := by
  refine ⟨fun x y cyc q col e rest p ev hlink hpass htakes hacc => ?_, fun s t g p x hx hc hp => ?_⟩
  · obtain rfl : _ = y := (accumulate_taken hlink hpass htakes).symm.trans (congrArg Prod.fst hacc)
    refine ⟨fun hf => ?_, fun hf => ?_, fun k hk => tabGet_set_ne _ _ _ hk, tabGet_set_same _ _ _ _,
      fun k hk => tabGet_set_ne _ _ _ hk⟩
    · exact (tabGet_set_same _ _ _ _).trans (by rw [PassRec.entryAfter, if_pos hf])
    · exact (tabGet_set_same _ _ _ _).trans (by rw [PassRec.entryAfter, hf]; rfl)
  · subst hx
    obtain ⟨ao, hform⟩ := passComplete_form _ g p hp
    refine ⟨_, exec_matrixPassComplete hc hp, ?_⟩
    rw [hform]
    refine ⟨rfl, fun hl => ⟨p.drainJobs, if_pos hl, drainJobs_quarters p, fun j => drainJobs_fields⟩, fun hl => ?_, rfl⟩
    exact if_neg (by rw [hl]; exact Bool.false_ne_true)
end

section
namespace Sys2Proof.Machine

/-! ### The local port goes first (R98, R106) -/

/-- With nothing from BAR0 in its mesh cycle, an append of the local port to a queue with room goes to its end. -/
theorem putLocal_room {α : Type} {cap : Nat} {q : List α} (x : α) (h : q.length < cap) :
    putLocal cap 0 q x = (q ++ [x], false) := by
  have hlen : (q ++ [x]).length ≤ cap := by rw [List.length_append]; exact h
  simp only [putLocal, Nat.sub_zero, List.take_length, List.drop_length, List.take_of_length_le hlen,
    decide_eq_false (Nat.not_lt.mpr hlen)]

/-! ### DRAIN_PUSH (R98) -/

theorem tileRow?_drainPush {g : Nat} (hg : g < 4) : (tileRow? (Reg.rennetDrainPush + 8 * g)).isSome = true := by
  revert g
  decide

theorem tileWrite_drainPush (s : State) (a : Agent) (t : Nat) {g : Nat} (val : Word) (hg : g < 4) :
    s.tileWrite a t (Reg.rennetDrainPush + 8 * g) val = s.modTile t (·.drainPush (pathOf a) g val) := by
  obtain ⟨r, hrow⟩ := Option.isSome_iff_exists.mp (tileRow?_drainPush hg)
  obtain ⟨o, ho⟩ : ∃ o, o = Reg.rennetDrainPush + 8 * g := ⟨_, rfl⟩
  have hne {q : Nat} (hq : q < 0x104 ∨ 0x120 ≤ q) : o ≠ q := by simp only [Reg.rennetDrainPush] at ho; omega
  have hport : 0x100 ≤ o ∧ o < 0x120 ∧ o % 8 = 4 ∧ (o - 0x100) / 8 = g := by simp only [Reg.rennetDrainPush] at ho; omega
  obtain ⟨hge, hlt, hmod, hdiv⟩ := hport
  rw [← ho] at hrow ⊢
  rw [State.tileWrite, hrow]
  dsimp only
  rw [if_neg (hne (by decide)), if_neg (hne (by decide)), if_neg (hne (by decide)), if_pos ⟨hge, hlt⟩, if_pos hmod, hdiv]

section
variable {x : Tile} {g : Nat} {val : Word}

theorem drainPush_bar0_room (h : (tabGet targetsD x.targets g).length < 4) : x.drainPush 1 g val = { x with
    targets := tabSet targetsD x.targets g
      (tabGet targetsD x.targets g ++ [(x.f (Reg.rennetDrainBase + 8 * g) 19 0, fld val 19 0)])
    now := { x.now with bar0 := tabSet natD x.now.bar0 (8 + g) (tabGet natD x.now.bar0 (8 + g) + 1) } } := by
  rw [Tile.drainPush, if_neg Nat.one_ne_zero, if_neg (Nat.not_le.mpr h)]

theorem drainPush_bar0_full (h : 4 ≤ (tabGet targetsD x.targets g).length) :
    x.drainPush 1 g val = x.setF Reg.rennetDrainLevel (12 + g) (12 + g) 1 := by
  rw [Tile.drainPush, if_neg Nat.one_ne_zero, if_pos h]

theorem drainPush_local_full (hb : tabGet natD x.now.bar0 (8 + g) = 0) (h : 4 ≤ (tabGet targetsD x.targets g).length) :
    x.drainPush 0 g val = { x with
      stall := some (.store (BitVec.ofNat 32 (0xF0000000 + Reg.rennetDrainPush + 8 * g)) 4 val) } := by
  rw [Tile.drainPush, if_pos rfl, if_pos ⟨h, hb⟩]

/-- A push of the local port that does not stall: the pair goes before those that BAR0 pushed in its mesh cycle, and the
one that finds no room sets OVERRUN. -/
theorem drainPush_local_put (h : ¬(4 ≤ (tabGet targetsD x.targets g).length ∧ tabGet natD x.now.bar0 (8 + g) = 0)) :
    x.drainPush 0 g val =
      (let r := putLocal 4 (tabGet natD x.now.bar0 (8 + g)) (tabGet targetsD x.targets g)
        (fld (tabGet wordD x.drainBaseLocal g) 19 0, fld val 19 0)
      let y := { x with targets := tabSet targetsD x.targets g r.1 }
      if r.2 then y.setF Reg.rennetDrainLevel (12 + g) (12 + g) 1 else y) := by
  rw [Tile.drainPush, if_pos rfl, if_neg h]

theorem drainPush_local_room (hb : tabGet natD x.now.bar0 (8 + g) = 0) (h : (tabGet targetsD x.targets g).length < 4) :
    x.drainPush 0 g val = { x with
      targets := tabSet targetsD x.targets g
        (tabGet targetsD x.targets g ++ [(fld (tabGet wordD x.drainBaseLocal g) 19 0, fld val 19 0)]) } := by
  rw [drainPush_local_put (fun hf => absurd h (Nat.not_lt.mpr hf.1)), hb, putLocal_room _ h]
  rfl

theorem drainPush_local_targets (hb : tabGet natD x.now.bar0 (8 + g) ≠ 0) :
    (x.drainPush 0 g val).targets = tabSet targetsD x.targets g
      (putLocal 4 (tabGet natD x.now.bar0 (8 + g)) (tabGet targetsD x.targets g)
        (fld (tabGet wordD x.drainBaseLocal g) 19 0, fld val 19 0)).1 := by
  rw [drainPush_local_put (fun hf => hb hf.2)]
  dsimp only
  split <;> rfl

end

/-- A push records no fault. -/
theorem drainPush_fault (x : Tile) (path g : Nat) (val : Word) :
    (x.drainPush path g val).reg Reg.ladleFault = x.reg Reg.ladleFault := by
  have hset (y : Tile) : (y.setF Reg.rennetDrainLevel (12 + g) (12 + g) 1).reg Reg.ladleFault = y.reg Reg.ladleFault :=
    Tile.setF_reg_ne _ _ _ _ (by decide)
  unfold Tile.drainPush
  dsimp only
  split
  · split
    · rfl
    · split
      · exact hset _
      · rfl
  · split
    · exact hset x
    · rfl

theorem exec_drainPush_vf {s : State} {n t g : Nat} (val : Word) (hu : s.hostUp = true) (hown : s.ownsTile n t = true)
    (hg : g < 4) : exec (.drainPush (.vf n) t g val) s = .next (s.setTile t ((s.tile t).drainPush 1 g val)) := by
  show Host.Outcome.next (s.when (decide (g < 4)) _) = _
  rw [State.when, if_pos (decide_eq_true hg),
    tileReg_mod s n t _ val _ hu hown (tileWrite_drainPush s _ t val hg) (drainPush_fault _ _ _ _)]
  rfl

theorem exec_drainPush_core {s : State} {t g : Nat} (val : Word) (hc : s.clocked t = true) (hg : g < 4) :
    exec (.drainPush (.core t) t g val) s = .next (s.setTile t ((s.tile t).drainPush 0 g val)) := by
  show Host.Outcome.next (s.when (decide (g < 4)) _) = _
  rw [State.when, if_pos (decide_eq_true hg),
    tileReg_core s t _ val _ hc (tileWrite_drainPush s _ t val hg) (drainPush_fault _ _ _ _)]
  rfl

/-! ### QUEUE_PUSH (R106) -/

theorem tileRow?_queuePush {k : Nat} (hk : k < 3) : (tileRow? (Reg.ladleQpushMx + 0x20 * k + 28)).isSome = true := by
  revert k
  decide

theorem tileWrite_queuePush (s : State) (a : Agent) (t : Nat) {k : Nat} (w7 : Word) (hk : k < 3) :
    s.tileWrite a t (Reg.ladleQpushMx + 0x20 * k + 28) w7 = s.modTile t (·.queuePush (pathOf a) k w7) := by
  obtain ⟨r, hrow⟩ := Option.isSome_iff_exists.mp (tileRow?_queuePush hk)
  obtain ⟨o, ho⟩ : ∃ o, o = Reg.ladleQpushMx + 0x20 * k + 28 := ⟨_, rfl⟩
  have hne {q : Nat} (hq : q < 0x45C ∨ 0x4A0 ≤ q) : o ≠ q := by simp only [Reg.ladleQpushMx] at ho; omega
  have hwin : 0x440 ≤ o ∧ o < 0x4A0 ∧ (o - 0x440) / 32 = k ∧ (o - 0x440) / 4 % 8 = 7 := by
    simp only [Reg.ladleQpushMx] at ho; omega
  obtain ⟨hge, hlt, hdiv, hword⟩ := hwin
  rw [← ho] at hrow ⊢
  rw [State.tileWrite, hrow]
  dsimp only
  rw [if_neg (hne (by decide)), if_neg (hne (by decide)), if_neg (hne (by decide)), if_neg (by omega), if_neg (by omega),
    if_neg (by omega), if_neg (hne (by decide)), if_neg (hne (by decide)), if_neg (hne (by decide)), if_pos ⟨hge, hlt⟩, hdiv,
    hword]
  rfl

section
variable {x : Tile} {k : Nat} {w7 : Word}

theorem queuePush_bar0_room (hk : k < 3) (h : (x.queue (queueEngine k)).length < queueSize k) : x.queuePush 1 k w7 =
    { x with
      queues := tabSet queueD x.queues (queueEngine k) (x.queue (queueEngine k) ++ [x.heldEntry 1 k w7])
      now := { x.now with
        bar0 := tabSet natD x.now.bar0 (queueEngine k) (tabGet natD x.now.bar0 (queueEngine k) + 1) } } := by
  simp only [Tile.queuePush, Nat.not_le.mpr hk, Nat.one_ne_zero, Nat.not_le.mpr h, decide_false, Bool.false_eq_true, if_false]
  rfl

theorem queuePush_bar0_full (hk : k < 3) (h : queueSize k ≤ (x.queue (queueEngine k)).length) :
    x.queuePush 1 k w7 = x.setF Reg.ladleQlevel (24 + k) (24 + k) 1 := by
  simp only [Tile.queuePush, Nat.not_le.mpr hk, Nat.one_ne_zero, h, decide_true, if_false, if_true]

theorem queuePush_local_full (hk : k < 3) (hb : tabGet natD x.now.bar0 (queueEngine k) = 0)
    (h : queueSize k ≤ (x.queue (queueEngine k)).length) :
    x.queuePush 0 k w7 = { x with stall := some (.store (pushAddr k) 4 w7) } := by
  simp only [Tile.queuePush, Nat.not_le.mpr hk, h, hb, decide_true, beq_self_eq_true, Bool.and_self, if_false, if_true]

/-- A push of the local port that does not stall: the entry goes before those that BAR0 pushed in its mesh cycle, and the
one that finds no room sets OVERRUN. -/
theorem queuePush_local_put (hk : k < 3)
    (h : ¬(queueSize k ≤ (x.queue (queueEngine k)).length ∧ tabGet natD x.now.bar0 (queueEngine k) = 0)) :
    x.queuePush 0 k w7 =
      (let r := putLocal (queueSize k) (tabGet natD x.now.bar0 (queueEngine k)) (x.queue (queueEngine k)) (x.heldEntry 0 k w7)
      let y := x.setQueue (queueEngine k) r.1
      if r.2 then y.setF Reg.ladleQlevel (24 + k) (24 + k) 1 else y) := by
  have hstall : ¬((decide (queueSize k ≤ (x.queue (queueEngine k)).length) &&
      tabGet natD x.now.bar0 (queueEngine k) == 0) = true) := by
    simpa only [Bool.and_eq_true, decide_eq_true_eq, beq_iff_eq] using h
  rw [Tile.queuePush, if_neg (Nat.not_le.mpr hk), if_pos rfl, if_neg hstall]

theorem queuePush_local_room (hk : k < 3) (hb : tabGet natD x.now.bar0 (queueEngine k) = 0)
    (h : (x.queue (queueEngine k)).length < queueSize k) :
    x.queuePush 0 k w7 = x.setQueue (queueEngine k) (x.queue (queueEngine k) ++ [x.heldEntry 0 k w7]) := by
  rw [queuePush_local_put hk (fun hf => absurd h (Nat.not_lt.mpr hf.1)), hb, putLocal_room _ h]
  rfl

theorem queuePush_local_queue (hk : k < 3) (hb : tabGet natD x.now.bar0 (queueEngine k) ≠ 0) :
    (x.queuePush 0 k w7).queue (queueEngine k) = (putLocal (queueSize k) (tabGet natD x.now.bar0 (queueEngine k))
      (x.queue (queueEngine k)) (x.heldEntry 0 k w7)).1 := by
  rw [queuePush_local_put hk (fun hf => hb hf.2)]
  dsimp only
  split <;> exact tabGet_set_same _ _ _ _

end

/-- The entry of the local port: the words that the first of the two holding windows holds, and the written one. -/
theorem heldEntry_local (x : Tile) (k : Nat) (w7 : Word) :
    x.heldEntry 0 k w7 = (List.range 7).map (fun w => tabGet wordD x.holdW (k * 8 + w)) ++ [w7] := by
  simp only [Tile.heldEntry, Nat.zero_mul, Nat.zero_add]

/-- A push records no fault. -/
theorem queuePush_fault (x : Tile) (path k : Nat) (w7 : Word) :
    (x.queuePush path k w7).reg Reg.ladleFault = x.reg Reg.ladleFault := by
  have hset (y : Tile) : (y.setF Reg.ladleQlevel (24 + k) (24 + k) 1).reg Reg.ladleFault = y.reg Reg.ladleFault :=
    Tile.setF_reg_ne _ _ _ _ (by decide)
  unfold Tile.queuePush
  dsimp only
  split
  · rfl
  · split
    · split
      · rfl
      · split
        · exact hset _
        · rfl
    · split
      · exact hset x
      · rfl

theorem exec_queuePush_vf {s : State} {n t k : Nat} (w7 : Word) (hu : s.hostUp = true) (hown : s.ownsTile n t = true)
    (hk : k < 3) : exec (.queuePush (.vf n) t k w7) s = .next (s.setTile t ((s.tile t).queuePush 1 k w7)) := by
  show Host.Outcome.next (s.when (decide (k < 3)) _) = _
  rw [State.when, if_pos (decide_eq_true hk),
    tileReg_mod s n t _ w7 _ hu hown (tileWrite_queuePush s _ t w7 hk) (queuePush_fault _ _ _ _)]
  rfl

theorem exec_queuePush_core {s : State} {t k : Nat} (w7 : Word) (hc : s.clocked t = true) (hk : k < 3) :
    exec (.queuePush (.core t) t k w7) s = .next (s.setTile t ((s.tile t).queuePush 0 k w7)) := by
  show Host.Outcome.next (s.when (decide (k < 3)) _) = _
  rw [State.when, if_pos (decide_eq_true hk),
    tileReg_core s t _ w7 _ hc (tileWrite_queuePush s _ t w7 hk) (queuePush_fault _ _ _ _)]
  rfl

end Sys2Proof.Machine
end

section
open Sys2Proof Sys2Proof.Machine

/-- Settles O12: a push is a write of the path's register that is one change of the tile, for BAR0 with room or without,
and for the local port with entries of BAR0 in its mesh cycle, with room, or without. -/
theorem pushesAppendOrOverrun : Obligations.PushesAppendOrOverrun := by
  refine ⟨fun s n t g val x q hx hu hown hg hq => ?_, fun s t g val x q hx hc hg hq => ?_,
    fun s n t k e w7 x hx hu hown hk he => ?_, fun s t k e w7 x hx hc hk he => ?_⟩
  · subst hx hq
    rw [exec_drainPush_vf val hu hown hg]
    refine ⟨fun h => ?_, fun h => ?_⟩
    · rw [drainPush_bar0_room h]
      exact ⟨_, _, rfl, tabGet_set_same _ _ _ _, fun g' hg' => tabGet_set_ne _ _ _ hg'⟩
    · rw [drainPush_bar0_full h]
  · subst hx hq
    rw [exec_drainPush_core val hc hg]
    refine ⟨fun b hb hb0 => ?_, fun hb h => ?_, fun hb h => ?_⟩
    · subst hb
      refine ⟨_, rfl, ?_⟩
      rw [drainPush_local_targets hb0, tabGet_set_same]
      rfl
    · rw [drainPush_local_room hb h]
      exact ⟨_, rfl, tabGet_set_same _ _ _ _, fun g' hg' => tabGet_set_ne _ _ _ hg'⟩
    · rw [drainPush_local_full hb h]
      exact ⟨_, rfl, rfl⟩
  · subst hx he
    rw [exec_queuePush_vf w7 hu hown hk]
    refine ⟨fun h => ?_, fun h => ?_⟩
    · rw [queuePush_bar0_room hk h]
      exact ⟨_, _, rfl, tabGet_set_same _ _ _ _, fun e' he' => tabGet_set_ne _ _ _ he'⟩
    · rw [queuePush_bar0_full hk h]
  · subst hx he
    rw [exec_queuePush_core w7 hc hk, ← heldEntry_local]
    refine ⟨fun b hb hb0 => ?_, fun hb h => ?_, fun hb h => ?_⟩
    · subst hb
      exact ⟨_, rfl, queuePush_local_queue hk hb0⟩
    · rw [queuePush_local_room hk hb h]
      exact ⟨_, rfl, tabGet_set_same _ _ _ _, fun e' he' => tabGet_set_ne _ _ _ he'⟩
    · rw [queuePush_local_full hk hb h]
      exact ⟨_, rfl, rfl⟩
end

section
namespace Sys2Proof.Machine

/-! ### Steps of one engine of a tile -/

/-- A step of an engine of a clocked tile that records no fault. -/
theorem engineStep_same (s : State) {t e : Nat} {f : State → State} (he : e < 4) (hc : s.clocked t = true)
    (hf : ((f s).tile t).reg Reg.ladleFault = (s.tile t).reg Reg.ladleFault) :
    s.when (decide (e < 4)) (fun s => s.unitStep t f) = f s := by
  rw [State.when, if_pos (decide_eq_true he), unitStep_same s t f hc hf]

/-- One that replaces the tile alone changes nothing else, but for a trace record. -/
theorem engineStep_tileOnly (s : State) {t e : Nat} {f : State → State} {z : Tile} (he : e < 4) (hc : s.clocked t = true)
    (hf : f s = s.setTile t z) :
    ∃ u, s.when (decide (e < 4)) (fun s => s.unitStep t f) = u ∧ s.TileOnly u t ∧ u.tile t = z := by
  rw [State.when, if_pos (decide_eq_true he)]
  exact unitStep_tileOnly s hc hf

/-- An engine with a queue (Table 4.10). -/
theorem queueEngine_lt {e : Nat} (h : e ∈ [0, 1, 3]) : e < 4 := by
  revert e
  decide

theorem Tile.TakeOnly.matrixSame {x y : Tile} (h : x.TakeOnly y) : x.MatrixSame y := by
  rw [Tile.TakeOnly] at h
  rw [h]
  exact ⟨rfl, rfl, rfl, rfl, rfl, rfl, rfl, rfl, rfl, rfl, rfl, rfl, rfl, rfl, rfl⟩

theorem Tile.TakeOnly.scratchSame {x y : Tile} (h : x.TakeOnly y) : x.ScratchSame y := by
  rw [Tile.TakeOnly] at h
  rw [h]
  exact ⟨rfl, rfl, rfl⟩

theorem Tile.TakeOnly.coreSame {x y : Tile} (h : x.TakeOnly y) : x.CoreSame y := by
  rw [Tile.TakeOnly] at h
  rw [h]
  exact ⟨rfl, rfl, rfl, rfl, rfl, rfl⟩

/-! ### Reserved opcodes and the wait limit (R105, R117) -/

/-- The reserved opcode at the head of a free engine's queue is rejected. -/
theorem qOpcodeReject_reserved {s : State} {t e : Nat} {en : QEntry} {l : List QEntry} (he : e ∈ [0, 1, 3])
    (hruns : (s.tile t).runs e = true) (hwait : tabGet waitD (s.tile t).waits e = none) (hissue : (s.tile t).issuing = none)
    (hchurn : (s.tile t).churn = none) (hqueue : (s.tile t).queue e = en :: l) (hop : accepts e (opc en) = false) :
    s.qOpcodeReject t e = s.setTile t ((s.tile t).reject e 0 0x201) := by
  simp only [List.mem_cons, List.not_mem_nil, or_false] at he
  rcases he with rfl | rfl | rfl <;> simp [State.qOpcodeReject, hruns, hwait, hissue, hchurn, hqueue, hop]

/-- A SEM_WAIT or BAR_SYNC held too long fails (R117). -/
theorem syncTimeout_late {s : State} {t e : Nat} {w : Wait} (hwait : tabGet waitD (s.tile t).waits e = some w)
    (hheld : (fld w.w0 7 0 = 0x50 ∧ (s.tile t).sem (fld w.w0 17 8) < fld w.w0 25 18) ∨
      (fld w.w0 7 0 = 0x52 ∧ w.arrived = false))
    (hlimit : w.limit ≠ 0) (hlate : w.limit * 1024 < cycDiff s.cyc w.start) (hstop : (s.tile t).stopped e = false) :
    s.syncTimeout t e = s.setTile t ((s.tile t).failSync e 0x243) := by
  rcases hheld with ⟨hop, hsem⟩ | ⟨hop, harr⟩
  · simp [State.syncTimeout, hwait, hop, Nat.not_le.mpr hsem, hlimit, hlate, hstop]
  · simp [State.syncTimeout, hwait, hop, harr, hlimit, hlate, hstop]

/-- What a synchronisation command that fails leaves: its wait is gone, the fault is recorded and stops the engine, and
queues, scratch and every other register stay (R109, R117). -/
theorem failSync_facts (x : Tile) {e : Nat} (code : Nat) (he : e < 4) :
    x.failSync e code = { x with regs := (x.failSync e code).regs, waits := tabSet waitD x.waits e none,
                                 stall := (x.failSync e code).stall, now := (x.failSync e code).now } ∧
    x.RegsSame (x.failSync e code) [Reg.ladleFault, Reg.ladleFaultSeq] ∧
    (x.failSync e code).f Reg.ladleFault 31 31 = 1 ∧
    (x.failSync e code).f Reg.ladleFault (20 + e) (20 + e) = 1 ∧
    (x.f Reg.ladleFault 31 31 = 0 → (x.failSync e code).f Reg.ladleFault 15 0 = code % 65536 ∧
      (x.failSync e code).f Reg.ladleFault 18 16 = e) := by
  obtain ⟨seq, hseq⟩ : ∃ seq, x.failSync e code = (x.endSync e).recordFault code e seq := ⟨_, rfl⟩
  have honly := Tile.recordFault_only (x.endSync e) code e seq
  obtain ⟨hvalid, hstop, hfirst, -⟩ := Tile.recordFault_facts (x.endSync e) code e seq
  obtain ⟨st, hend⟩ := endSync_form x e
  rw [hseq]
  refine ⟨?_, fun o ho => ?_, hvalid, hstop he, fun h0 => ?_⟩
  · rw [honly, hend]
  · simp only [List.mem_cons, List.not_mem_nil, or_false, not_or] at ho
    rw [Tile.recordFault_reg _ _ _ _ ho.1 ho.2, endSync_reg]
  · obtain ⟨hcode, heng, -⟩ := hfirst (by rw [Tile.f, endSync_reg]; exact h0)
    exact ⟨hcode, by rw [heng]; omega⟩

theorem sem_of_regsSame {x y : Tile} (h : x.RegsSame y [Reg.ladleFault, Reg.ladleFaultSeq]) (k : Nat) :
    y.sem k = x.sem k := by
  rw [Tile.sem, Tile.f, h _ (by simp [(fault_not_sem k).symm, (seq_not_sem k).symm]), Tile.sem, Tile.f]

/-! ### Clearing the fault record (R110) -/

/-- Bit i of a field is bit lo + i of the word. -/
theorem fld_testBit {n : Nat} (w : BitVec n) (hi lo i : Nat) :
    (fld w hi lo).testBit i = (decide (i < hi + 1 - lo) && w.toNat.testBit (lo + i)) := by
  rw [fld, Nat.testBit_mod_two_pow, Nat.testBit_shiftRight]

/-- A field within one that is zero is zero. -/
theorem fld_within_zero {n : Nat} (w : BitVec n) {hi lo hi' lo' : Nat} (hlo : lo ≤ lo') (hhi : hi' ≤ hi)
    (h : fld w hi lo = 0) : fld w hi' lo' = 0 := by
  refine Nat.eq_of_testBit_eq fun i => ?_
  rw [Nat.zero_testBit, fld_testBit]
  by_cases hi2 : i < hi' + 1 - lo'
  · have hbit := congrArg (fun v => v.testBit (lo' + i - lo)) h
    simp only [fld_testBit, Nat.zero_testBit, show lo + (lo' + i - lo) = lo' + i by omega,
      decide_eq_true (show lo' + i - lo < hi + 1 - lo by omega), Bool.true_and] at hbit
    rw [hbit, Bool.and_false]
  · rw [decide_eq_false hi2, Bool.false_and]

/-- The clear of the record's MULTI bit, where its write is a one. -/
def Tile.clearMulti (x : Tile) (val : Word) : Tile := if bit val 24 then x.setF Reg.ladleFault 24 24 0 else x

theorem setF_form (x : Tile) (o hi lo v : Nat) : ∃ rg, x.setF o hi lo v = { x with regs := rg } := ⟨_, rfl⟩

theorem clearMulti_form (x : Tile) (val : Word) :
    ∃ rg, x.clearMulti val = { x with regs := rg } ∧ ∀ o, o ≠ Reg.ladleFault → tabGet tileRegD rg o = x.reg o := by
  unfold Tile.clearMulti
  split
  · exact ⟨_, rfl, fun o ho => Tile.setF_reg_ne x _ _ _ ho⟩
  · exact ⟨_, rfl, fun _ _ => rfl⟩

/-- A write of one to VALID of a standing record, with no fault in the cycle and no Churn job, clears VALID and STOPPED. -/
theorem clearFault_valid {x : Tile} {val : Word} (k : Nat) (hcyc : x.now.fault = false)
    (hvalid : x.f Reg.ladleFault 31 31 = 1) (hval : bit val 31 = true) (hchurn : x.churn = none) :
    x.clearFault val k = ((x.clearMulti val).setF Reg.ladleFault 31 31 0).setF Reg.ladleFault 23 20 0 := by
  have hmulti : (if (bit val 24 && !x.now.fault) = true then x.setF Reg.ladleFault 24 24 0 else x) = x.clearMulti val := by
    rw [hcyc, Bool.not_false, Bool.and_true, Tile.clearMulti]
  have hgo : (x.f Reg.ladleFault 31 31 == 1 && bit val 31 && !x.now.fault) = true := by
    rw [hvalid, hval, hcyc]
    rfl
  obtain ⟨rg, hform, -⟩ := clearMulti_form x val
  have hnone : (((x.clearMulti val).setF Reg.ladleFault 31 31 0).setF Reg.ladleFault 23 20 0).churn = none := by
    rw [Tile.setF_churn, Tile.setF_churn, hform]
    exact hchurn
  rw [Tile.clearFault, hmulti, if_pos hgo]
  dsimp only
  rw [hnone]

theorem clearFault_facts {x y : Tile} {val : Word}
    (hy : y = ((x.clearMulti val).setF Reg.ladleFault 31 31 0).setF Reg.ladleFault 23 20 0) :
    y.f Reg.ladleFault 31 31 = 0 ∧ (∀ e, e < 4 → y.stopped e = false) ∧ y = { x with regs := y.regs } ∧
      x.RegsSame y [Reg.ladleFault] := by
  subst hy
  obtain ⟨rg, hform, hregs⟩ := clearMulti_form x val
  refine ⟨?_, fun e he => ?_, ?_, fun o ho => ?_⟩
  · rw [Tile.setF_f_above _ _ _ (by decide) (by decide) (by decide), Tile.setF_f_same _ _ _ (by decide) (by decide),
      Nat.zero_mod]
  · have hbits : (((x.clearMulti val).setF Reg.ladleFault 31 31 0).setF Reg.ladleFault 23 20 0).f Reg.ladleFault 23 20 = 0 := by
      rw [Tile.setF_f_same _ _ _ (by decide) (by decide), Nat.zero_mod]
    rw [Tile.f] at hbits
    rw [Tile.stopped, Tile.f, fld_within_zero _ (Nat.le_add_right 20 e) (by omega) hbits, beq_eq_false_iff_ne]
    decide
  · obtain ⟨rg1, h1⟩ := setF_form (x.clearMulti val) Reg.ladleFault 31 31 0
    obtain ⟨rg2, h2⟩ := setF_form ((x.clearMulti val).setF Reg.ladleFault 31 31 0) Reg.ladleFault 23 20 0
    rw [h2, h1, hform]
  · rw [List.mem_singleton] at ho
    rw [Tile.setF_reg_ne _ _ _ _ ho, Tile.setF_reg_ne _ _ _ _ ho, hform]
    exact hregs o ho

/-- Service acts for a partition whose window set one of its cores holds (R299). -/
theorem asService_held {s : State} {n : Nat} (h : (s.svcCore n).isSome = true) : s.asService n = s := by
  rw [State.asService, if_pos h]

/-- Service's write of a register of a tile that it may reach. -/
theorem tileReg_service (s : State) {n t : Nat} (o : Nat) (v : Word) (hroot : s.rootUp = true) (hfw : s.fw.down = false)
    (hcore : (s.svcCore n).isSome = true) (hown : s.ownsTile n t = true) :
    s.tileReg (.service n) t o v = s.tilePut (.service n) t o v := by
  simp [State.tileReg, State.reach, State.agentUp, State.mayTile, State.asAgent, asService_held hcore, hroot, hfw, hown]

/-- A fault record that stands fires no trace point. -/
theorem faultTraced_standing (s : State) (t : Nat) (f : State → State) (h : (s.tile t).f Reg.ladleFault 31 31 = 1) :
    s.faultTraced t f = f s := by
  simp [State.faultTraced, faultSeen, h]

theorem exec_faultRecordClear_service {s : State} {n t : Nat} {val : Word} (hroot : s.rootUp = true)
    (hfw : s.fw.down = false) (hcore : (s.svcCore n).isSome = true) (hown : s.ownsTile n t = true)
    (hvalid : (s.tile t).f Reg.ladleFault 31 31 = 1) : exec (.faultRecordClear (.service n) t val) s =
      .next { s.setTile t ((s.tile t).clearFault val s.freeCount) with freeCount := s.freeCount + 1 } := by
  show Host.Outcome.next (s.tileReg (.service n) t Reg.ladleFault val) = _
  rw [tileReg_service s _ val hroot hfw hcore hown, State.tilePut, faultTraced_standing s t _ hvalid]
  rfl

theorem exec_faultRecordClear_vf {s : State} {n t : Nat} (val : Word) (hu : s.hostUp = true) (hown : s.ownsTile n t = true) :
    exec (.faultRecordClear (.vf n) t val) s = .next s := by
  show Host.Outcome.next (s.tileReg (.vf n) t Reg.ladleFault val) = _
  rw [tileReg_vf s n t _ val hu hown, State.faultTraced_same s t _ rfl]
  rfl

end Sys2Proof.Machine
end

section
open Sys2Proof Sys2Proof.Machine

/-- Settles O13: a reserved opcode is a command rejected, a late wait a synchronisation command failed, and Service's
write a clear of three fields of the record. -/
theorem queueFaultsAndTheirClearing : Obligations.QueueFaultsAndTheirClearing := by
  refine ⟨fun s t e en l x hx hc he hruns hwait hissue hchurn hqueue hop h0 => ?_,
    fun s t e w x hx hc he hwait hheld hlimit hlate hstop h0 => ?_,
    fun s n t val x hx hroot hfw hcore hown hcyc hvalid hval hchurn => ?_,
    fun s n t val hu hown => exec_faultRecordClear_vf val hu hown⟩
  · subst hx
    have he4 := queueEngine_lt he
    obtain ⟨u, hu, honly, htile⟩ := engineStep_tileOnly s (f := fun s => s.qOpcodeReject t e) he4 hc
      (qOpcodeReject_reserved he hruns hwait hissue hchurn hqueue hop)
    obtain ⟨z, hz, hform, hrest, hv, hst, hfirst⟩ := reject_facts _ e 0x201 en l hqueue he4
    obtain ⟨hcode, heng⟩ := hfirst h0
    refine ⟨u, congrArg Host.Outcome.next hu, honly, ?_⟩
    rw [htile, hz]
    have htake : (s.tile t).TakeOnly z := hform
    exact ⟨hrest, hcode, heng, hv, hst, htake.matrixSame, htake.scratchSame, htake.coreSame⟩
  · subst hx
    obtain ⟨u, hu, honly, htile⟩ := engineStep_tileOnly s (f := fun s => s.syncTimeout t e) he hc
      (syncTimeout_late hwait hheld hlimit hlate hstop)
    obtain ⟨hform, hregs, hv, hst, hfirst⟩ := failSync_facts (s.tile t) 0x243 he
    obtain ⟨hcode, heng⟩ := hfirst h0
    refine ⟨u, congrArg Host.Outcome.next hu, honly, ?_⟩
    rw [htile]
    refine ⟨?_, hcode, heng, hv, hst, ?_, ?_, sem_of_regsSame hregs⟩ <;> rw [hform]
    · exact tabGet_set_same waitD _ e none
    · exact ⟨rfl, rfl, rfl⟩
  · subst hx
    exact ⟨_, _, exec_faultRecordClear_service hroot hfw hcore hown hvalid,
      clearFault_facts (clearFault_valid s.freeCount hcyc hvalid hval hchurn)⟩
end

section
namespace Sys2Proof.Machine

/-! ### The start of a synchronisation command (R107, R112) -/

/-- A step `f` of engine e of tile t that begins with the start of its command of opcode `op`: it acts from a state that
holds the command as from one that starts it, and does no more where the command does not start. -/
structure SyncStep (f : State → State) (op t e : Nat) : Prop where
  started : ∀ s u, s.startSync op t e = u → u.startSync op t e = u → f s = f u
  idle    : ∀ s u, s.startSync op t e = u → (u.tile t).syncNow op e = none → f s = u

theorem semWait_syncStep (t e : Nat) : SyncStep (fun s => s.semWait t e) 0x50 t e :=
  ⟨fun s u h hu => by simp only [State.semWait, h, hu], fun s u h hn => by simp only [State.semWait, h, hn]⟩

theorem semSignal_syncStep (t e : Nat) : SyncStep (fun s => s.semSignal t e) 0x51 t e :=
  ⟨fun s u h hu => by simp only [State.semSignal, h, hu], fun s u h hn => by simp only [State.semSignal, h, hn]⟩

theorem barSync_syncStep (t e : Nat) : SyncStep (fun s => s.barSync t e) 0x52 t e :=
  ⟨fun s u h hu => by simp only [State.barSync, h, hu], fun s u h hn => by simp only [State.barSync, h, hn]⟩

theorem barArrive_syncStep (t e : Nat) : SyncStep (fun s => s.barArrive t e) 0x53 t e :=
  ⟨fun s u h hu => by simp only [State.barArrive, h, hu], fun s u h hn => by simp only [State.barArrive, h, hn]⟩

theorem fence_syncStep (t e : Nat) : SyncStep (fun s => s.fence t e) 0x54 t e :=
  ⟨fun s u h hu => by simp only [State.fence, h, hu], fun s u h hn => by simp only [State.fence, h, hn]⟩

/-- Each of the five commands is such a step of its engine. -/
theorem exec_sync {c : Instr} {t e op : Nat}
    (h : (c, op) ∈ [(Instr.semWait t e, 0x50), (Instr.semSignal t e, 0x51), (Instr.barSync t e, 0x52),
      (Instr.barArrive t e, 0x53), (Instr.fence t e, 0x54)]) :
    ∃ f, (∀ s, exec c s = .next (s.when (decide (e < 4)) (fun s => s.unitStep t f))) ∧ SyncStep f op t e := by
  simp only [List.mem_cons, List.not_mem_nil, or_false, Prod.mk.injEq] at h
  rcases h with ⟨rfl, rfl⟩ | ⟨rfl, rfl⟩ | ⟨rfl, rfl⟩ | ⟨rfl, rfl⟩ | ⟨rfl, rfl⟩
  · exact ⟨_, fun _ => rfl, semWait_syncStep t e⟩
  · exact ⟨_, fun _ => rfl, semSignal_syncStep t e⟩
  · exact ⟨_, fun _ => rfl, barSync_syncStep t e⟩
  · exact ⟨_, fun _ => rfl, barArrive_syncStep t e⟩
  · exact ⟨_, fun _ => rfl, fence_syncStep t e⟩

theorem mayStartSync_wait {x : Tile} {e cyc : Nat} (h : x.mayStartSync e cyc = true) : tabGet waitD x.waits e = none := by
  simp only [Tile.mayStartSync, Bool.and_eq_true, Option.isNone_iff_eq_none] at h
  exact h.1.2

/-- Tile t with the command `en` at the head of engine e's queue taken and held. -/
def State.syncStarted (s : State) (t e : Nat) (en : QEntry) : Tile :=
  { ((s.tile t).takeCmd e 0).startedIn e s.cyc with
    waits := tabSet waitD (s.tile t).waits e (some (s.newWait t (ew en 0) (ew en 1))) }

theorem syncStarted_waits (s : State) (t e : Nat) (en : QEntry) : (s.syncStarted t e en).waits =
    tabSet waitD (s.tile t).waits e (some (s.newWait t (ew en 0) (ew en 1))) := rfl

section
variable {s : State} {t e op : Nat} {en : QEntry} {l : List QEntry}

theorem startSync_passes (hmay : (s.tile t).mayStartSync e s.cyc = true) (hqueue : (s.tile t).queue e = en :: l)
    (hop : opc en = op) (hcheck : s.syncCheck t (ew en 0) (ew en 1) (en.drop 2) = 0) :
    s.startSync op t e = s.setTile t (s.syncStarted t e en) := by
  have hwaits : (((s.tile t).takeCmd e 0).startedIn e s.cyc).waits = (s.tile t).waits := by
    unfold Tile.startedIn
    split <;> rfl
  simp only [State.startSync, hmay, hqueue, hop, hcheck, Bool.not_true, Bool.false_eq_true, if_false, ne_eq,
    not_true_eq_false, hwaits, State.syncStarted]

theorem startSync_fails (hmay : (s.tile t).mayStartSync e s.cyc = true) (hqueue : (s.tile t).queue e = en :: l)
    (hop : opc en = op) (hcheck : s.syncCheck t (ew en 0) (ew en 1) (en.drop 2) ≠ 0) :
    s.startSync op t e =
      s.setTile t ((s.tile t).reject e 0 (s.syncCheck t (ew en 0) (ew en 1) (en.drop 2))) := by
  simp only [State.startSync, hmay, hqueue, hop, hcheck, Bool.not_true, Bool.false_eq_true, if_false, ne_eq,
    not_true_eq_false, not_false_eq_true, if_true]

end

/-- The mark of a start touches the array's note of it alone, and only the matrix engine's. -/
theorem startedIn_form (x : Tile) (e cyc : Nat) :
    ∃ ar, x.startedIn e cyc = { x with arr := ar } ∧ (e ≠ 0 → ar = x.arr) := by
  unfold Tile.startedIn
  split
  · exact ⟨_, rfl, fun h => absurd ‹e = 0› h⟩
  · exact ⟨x.arr, rfl, fun _ => rfl⟩

/-- What a started command leaves: its words are held, it is gone from its queue and counted, and nothing else changes. -/
theorem syncStarted_form (s : State) (t e : Nat) (en : QEntry) (l : List QEntry) (hqueue : (s.tile t).queue e = en :: l) :
    ∃ rg qs ar, s.syncStarted t e en = { s.tile t with
        regs := rg, queues := qs, arr := ar
        waits := tabSet waitD (s.tile t).waits e (some (s.newWait t (ew en 0) (ew en 1))) } ∧
      (e ≠ 0 → ar = (s.tile t).arr) ∧ (∀ o, o ≠ cmdCntReg e → tabGet tileRegD rg o = (s.tile t).reg o) ∧
      tabGet queueD qs e = l ∧ ∀ e', e' ≠ e → tabGet queueD qs e' = (s.tile t).queue e' := by
  obtain ⟨rg, htake, -, hregs⟩ := takeCmd_form (s.tile t) e 0
  obtain ⟨ar, hstart, harr⟩ := startedIn_form ((s.tile t).takeCmd e 0) e s.cyc
  refine ⟨rg, tabSet queueD (s.tile t).queues e (listDrop1 ((s.tile t).queue e) 0), ar, ?_, fun he => ?_, hregs, ?_,
    fun e' he' => tabGet_set_ne _ _ _ he'⟩
  · rw [State.syncStarted, hstart, htake]
  · rw [harr he, htake]
  · rw [tabGet_set_same, hqueue]
    rfl

end Sys2Proof.Machine
end

section
open Sys2Proof Sys2Proof.Machine

/-- Settles O14: the step of the engine begins with the start of its command, which a state that holds the command already
passes over, and a command rejected is none to act on. -/
theorem synchronisationCommandsStart : Obligations.SynchronisationCommandsStart := by
  intro s t e op c en l x hx hc he hmay hqueue hcmd hop
  subst hx
  have he4 := queueEngine_lt he
  obtain ⟨f, hexec, hstep⟩ := exec_sync hcmd
  refine ⟨fun hcheck => ?_, fun hcheck => ?_⟩
  · obtain ⟨rg, qs, ar, hform, harr, hregs, htaken, hothers⟩ := syncStarted_form s t e en l hqueue
    have hheld : tabGet waitD (s.syncStarted t e en).waits e = some (s.newWait t (ew en 0) (ew en 1)) := by
      rw [syncStarted_waits, tabGet_set_same]
    have hfault : (s.syncStarted t e en).reg Reg.ladleFault = (s.tile t).reg Reg.ladleFault := by
      rw [hform]
      exact hregs _ (cnt_ne e).1.symm
    have hsame : f s = f (s.setTile t (s.syncStarted t e en)) :=
      hstep.started _ _ (startSync_passes hmay hqueue hop hcheck)
        (startSync_held _ _ _ _ _ ((congrArg (fun x : Tile => tabGet waitD x.waits e)
          (State.setTile_tile_same s t _)).trans hheld))
    refine ⟨s.syncStarted t e en, s.newWait t (ew en 0) (ew en 1), ?_, ?_⟩
    · rw [hexec, hexec, State.when, State.when, if_pos (decide_eq_true he4), if_pos (decide_eq_true he4)]
      exact congrArg Host.Outcome.next (unitStep_start s t _ f hc hfault hsame)
    · have hwaits : ∀ e', e' ≠ e → tabGet waitD (s.syncStarted t e en).waits e' = tabGet waitD (s.tile t).waits e' :=
        fun e' he' => by rw [syncStarted_waits, tabGet_set_ne _ _ _ he']
      refine ⟨?_, ?_, ?_, ?_, ?_, hheld, hwaits, rfl, rfl, rfl, rfl, rfl⟩ <;> rw [hform]
      · exact harr
      · exact fun o ho => hregs o (List.mem_singleton.not.mp ho)
      · exact htaken
      · exact hothers
  · obtain ⟨z, hz, hform, hrest, hvalid, hstop, hfirst⟩ :=
      reject_facts (s.tile t) e (s.syncCheck t (ew en 0) (ew en 1) (en.drop 2)) en l hqueue he4
    have hwaits : z.waits = (s.tile t).waits := by rw [hform]
    have hstart := startSync_fails hmay hqueue hop hcheck
    rw [hz] at hstart
    have hidle : ((s.setTile t z).tile t).syncNow op e = none := by
      rw [State.setTile_tile_same, Tile.syncNow, hwaits, mayStartSync_wait hmay]
    obtain ⟨u, hu, honly, htile⟩ := engineStep_tileOnly s he4 hc (hstep.idle _ _ hstart hidle)
    refine ⟨u, (hexec s).trans (congrArg Host.Outcome.next hu), honly, ?_⟩
    rw [htile]
    exact ⟨hrest, hwaits, hvalid, hstop, hfirst⟩
end

section
namespace Sys2Proof.Machine

/-! ### Semaphores (R112, R113, R114) -/

section
variable {s : State} {t e : Nat} {w : Wait} (hwait : tabGet waitD (s.tile t).waits e = some w)
  (hstop : (s.tile t).stopped e = false)
include hwait hstop

/-- A held wait takes its N once the value reaches it, and does nothing before. -/
theorem semWait_held (hop : fld w.w0 7 0 = 0x50) : s.semWait t e =
    if fld w.w0 25 18 ≤ (s.tile t).sem (fld w.w0 17 8) then
      s.setTile t (((s.tile t).setF (Reg.ladleSem + 4 * fld w.w0 17 8) 15 0
        ((s.tile t).sem (fld w.w0 17 8) - fld w.w0 25 18)).endSync e)
    else s := by
  simp only [State.semWait, startSync_held s 0x50 t e w hwait, syncNow_held _ 0x50 e w hwait hop hstop]

theorem semSignal_waits (hop : fld w.w0 7 0 = 0x51) (hahead : (s.tile t).aheadDone e = false) : s.semSignal t e = s := by
  simp only [State.semSignal, startSync_held s 0x51 t e w hwait, syncNow_held _ 0x51 e w hwait hop hstop, hahead,
    Bool.not_false, if_true]

theorem semSignal_local (hop : fld w.w0 7 0 = 0x51) (hahead : (s.tile t).aheadDone e = true) (hlocal : bit w.w0 26 = false) :
    s.semSignal t e = s.setTile t (((s.tile t).addSem (fld w.w0 17 8) (fld w.w0 25 18)).endSync e) := by
  simp only [State.semSignal, startSync_held s 0x51 t e w hwait, syncNow_held _ 0x51 e w hwait hop hstop, hahead, hlocal,
    Bool.not_true, Bool.false_eq_true, if_false]

theorem semSignal_remote (hop : fld w.w0 7 0 = 0x51) (hahead : (s.tile t).aheadDone e = true) (hremote : bit w.w0 26 = true) :
    s.semSignal t e = { s.setTile t ((s.tile t).endSync e) with
      signals := s.signals ++ [⟨t, e, fld w.w1 10 0, fld w.w0 17 8, fld w.w0 25 18, s.cyc⟩] } := by
  simp only [State.semSignal, startSync_held s 0x51 t e w hwait, syncNow_held _ 0x51 e w hwait hop hstop, hahead, hremote,
    Bool.not_true, Bool.false_eq_true, if_false, if_true]

end

theorem sem_le (x : Tile) (k : Nat) : x.sem k ≤ 0xFFFF := Nat.le_of_lt_succ (fld_lt _ 15 0)

/-- A semaphore written as its command ends: nothing else of the tile changes but for the wait and the core's stall. -/
theorem setSem_endSync_facts {x y : Tile} {k e v : Nat} (hv : v ≤ 0xFFFF)
    (hy : y = (x.setF (Reg.ladleSem + 4 * k) 15 0 v).endSync e) :
    y.sem k = v ∧ tabGet waitD y.waits e = none ∧
      (∀ e', e' ≠ e → tabGet waitD y.waits e' = tabGet waitD x.waits e') ∧ x.RegsSame y [Reg.ladleSem + 4 * k] ∧
      y.reg Reg.ladleFault = x.reg Reg.ladleFault ∧ y = { x with regs := y.regs, waits := y.waits, stall := y.stall } := by
  subst hy
  have hothers : ∀ o, o ≠ Reg.ladleSem + 4 * k →
      ((x.setF (Reg.ladleSem + 4 * k) 15 0 v).endSync e).reg o = x.reg o := fun o ho => by
    rw [endSync_reg, Tile.setF_reg_ne _ _ _ _ ho]
  refine ⟨?_, endSync_wait _ _, endSync_waits _ _, fun o ho => hothers o (List.mem_singleton.not.mp ho),
    hothers _ (fault_not_sem k), ?_⟩
  · rw [Tile.sem, Tile.f, endSync_reg]
    exact sem_setF x k v hv
  · obtain ⟨st, hend⟩ := endSync_form (x.setF (Reg.ladleSem + 4 * k) 15 0 v) e
    obtain ⟨rg, hset⟩ := setF_form x (Reg.ladleSem + 4 * k) 15 0 v
    rw [hend, hset]

/-- A fault of no engine stops none (R109). -/
theorem recordFault_stopped (x : Tile) (code : Nat) {engine e : Nat} (seq : Nat) (hengine : 4 ≤ engine) (he : e < 4) :
    (x.recordFault code engine seq).stopped e = x.stopped e := by
  have hne : Reg.ladleFault ≠ Reg.ladleFaultSeq := by decide
  have hnote : x.stopped e = ({ x with now := { x.now with fault := true } } : Tile).stopped e := rfl
  rw [hnote, Tile.recordFault, Tile.stopped, Tile.stopped]
  dsimp only
  rw [if_neg (Nat.not_lt.mpr hengine)]
  generalize ({ x with now := { x.now with fault := true } } : Tile) = z
  split
  · rw [Tile.setF_f_below _ _ _ (by omega) (by omega) (by omega)]
  · rw [Tile.setReg_f_ne _ _ _ _ hne, Tile.setF_f_below _ _ _ (by omega) (by omega) (by omega),
      Tile.setF_f_above _ _ _ (by omega) (by omega) (by omega), Tile.setF_f_above _ _ _ (by omega) (by omega) (by omega)]

theorem overflowed_regs (x : Tile) (k : Nat) : (x.overflowed k).regs = (x.setF (Reg.ladleSem + 4 * k) 15 0 0xFFFF).regs := by
  unfold Tile.overflowed
  dsimp only

theorem overflowed_reg (x : Tile) (k : Nat) {o : Nat} (ho : o ≠ Reg.ladleSem + 4 * k) : (x.overflowed k).reg o = x.reg o := by
  rw [reg_congr (overflowed_regs x k), Tile.setF_reg_ne _ _ _ _ ho]

theorem overflowed_sem (x : Tile) (k : Nat) : (x.overflowed k).sem k = 0xFFFF := by
  rw [Tile.sem, Tile.f, reg_congr (overflowed_regs x k)]
  exact sem_setF x k 0xFFFF (Nat.le_refl _)

/-- The first overflow of a semaphore's cycle, where no record stands: the value is at its end and the record is that of
no engine (R114). -/
theorem overflow_facts {x y : Tile} {k e : Nat} (h0 : x.f Reg.ladleFault 31 31 = 0)
    (hy : y = ((x.overflowed k).recordFault 0x242 4 0).endSync e) :
    y.sem k = 0xFFFF ∧ y.f Reg.ladleFault 15 0 = 0x242 ∧ y.f Reg.ladleFault 18 16 = 4 ∧ y.f Reg.ladleFault 31 31 = 1 ∧
      ∀ e', e' < 4 → y.stopped e' = x.stopped e' := by
  subst hy
  have hbefore : ∀ hi lo, (x.overflowed k).f Reg.ladleFault hi lo = x.f Reg.ladleFault hi lo := fun hi lo => by
    rw [Tile.f, overflowed_reg x k (fault_not_sem k), Tile.f]
  have hafter : ∀ o hi lo, (((x.overflowed k).recordFault 0x242 4 0).endSync e).f o hi lo =
      ((x.overflowed k).recordFault 0x242 4 0).f o hi lo := fun o hi lo => by rw [Tile.f, endSync_reg, Tile.f]
  obtain ⟨hvalid, -, hfirst, -⟩ := Tile.recordFault_facts (x.overflowed k) 0x242 4 0
  obtain ⟨hcode, hengine, -⟩ := hfirst ((hbefore 31 31).trans h0)
  refine ⟨?_, (hafter _ _ _).trans hcode, (hafter _ _ _).trans hengine, (hafter _ _ _).trans hvalid, fun e' he' => ?_⟩
  · rw [Tile.sem, hafter, Tile.f, Tile.recordFault_reg _ _ _ _ (fault_not_sem k).symm (seq_not_sem k).symm]
    exact overflowed_sem x k
  · rw [Tile.stopped, hafter, ← Tile.stopped, recordFault_stopped _ _ _ (Nat.le_refl 4) he', Tile.stopped, hbefore,
      ← Tile.stopped]

/-- The remote signals that have reached a semaphore are summed into it, and leave (R113, R116). -/
theorem semSignalArrive_sum {s : State} {t k count sum : Nat} {due : List Signal} (hk : k < 1024)
    (hdue : due = s.signals.filter (fun g => g.hits s.cyc t k)) (hsome : due ≠ []) (hcount : due.length ≤ count)
    (hsum : sum = (due.map (·.n)).sum) (hfit : (s.tile t).sem k + sum ≤ 0xFFFF) :
    s.semSignalArrive t k count =
      { s.setTile t ((s.tile t).setF (Reg.ladleSem + 4 * k) 15 0 ((s.tile t).sem k + sum)) with
        signals := s.signals.filter (fun g => !g.hits s.cyc t k) } := by
  subst hdue hsum
  have hgo : ((s.signals.filter (fun g => g.hits s.cyc t k)).isEmpty || decide (1024 ≤ k)) = false := by
    simp only [List.isEmpty_eq_false_iff.mpr hsome, Bool.false_or, decide_eq_false_iff_not, Nat.not_le, hk]
  simp only [State.semSignalArrive, takeSignals_all s.cyc t k s.signals count hcount, hgo, Bool.false_eq_true, if_false,
    State.modTile, addSem_fit _ _ _ hfit]

end Sys2Proof.Machine
end

section
open Sys2Proof Sys2Proof.Machine

/-- Settles O15: each step is the equation of its case, and a semaphore's write leaves every other register. -/
theorem semaphoresWaitAndSignal : Obligations.SemaphoresWaitAndSignal := by
  refine ⟨fun s t e k n w x hx hc he hwait hop hk hn hstop => ⟨fun hle => ?_, fun hlt => ?_⟩,
    fun s t e k n w x hx hc he hwait hop hk hn hstop => ⟨fun hahead => ?_, fun hahead hlocal hfit => ?_,
      fun hahead hlocal hover hfresh h0 => ?_, fun hahead hremote => ?_⟩,
    fun s t k count sum due x hx ht hk hdue hsome hcount hsum hfit => ?_⟩
  · subst hx hk hn
    obtain ⟨hsem, hnone, hothers, hregs, hfault, hform⟩ := setSem_endSync_facts (x := s.tile t) (e := e)
      (k := fld w.w0 17 8) ((Nat.sub_le _ (fld w.w0 25 18)).trans (sem_le (s.tile t) (fld w.w0 17 8))) rfl
    refine ⟨_, congrArg Host.Outcome.next ?_, hsem, hnone, hothers, hregs, hform⟩
    have hstep := (semWait_held hwait hstop hop).trans (if_pos hle)
    refine (engineStep_same s (f := fun s => s.semWait t e) he hc ?_).trans hstep
    rw [hstep, State.setTile_tile_same, hfault]
  · subst hx hk hn
    have hstep := (semWait_held hwait hstop hop).trans (if_neg (Nat.not_le.mpr hlt))
    exact congrArg Host.Outcome.next ((engineStep_same s (f := fun s => s.semWait t e) he hc (by rw [hstep])).trans hstep)
  · subst hx
    have hstep := semSignal_waits hwait hstop hop hahead
    exact congrArg Host.Outcome.next ((engineStep_same s (f := fun s => s.semSignal t e) he hc (by rw [hstep])).trans hstep)
  · subst hx hk hn
    have hstep := semSignal_local hwait hstop hop hahead hlocal
    rw [addSem_fit _ _ _ hfit] at hstep
    obtain ⟨hsem, hnone, -, hregs, hfault, hform⟩ := setSem_endSync_facts (x := s.tile t) (e := e) hfit rfl
    refine ⟨_, congrArg Host.Outcome.next ?_, hsem, hnone, hregs, hform⟩
    refine (engineStep_same s (f := fun s => s.semSignal t e) he hc ?_).trans hstep
    rw [hstep, State.setTile_tile_same, hfault]
  · subst hx hk hn
    have hstep := semSignal_local hwait hstop hop hahead hlocal
    rw [addSem_over _ _ _ hover hfresh] at hstep
    obtain ⟨u, hu, honly, htile⟩ := engineStep_tileOnly s (f := fun s => s.semSignal t e) he hc hstep
    exact ⟨u, congrArg Host.Outcome.next hu, honly, overflow_facts h0 htile⟩
  · subst hx hk hn
    have hstep := semSignal_remote hwait hstop hop hahead hremote
    refine ⟨_, congrArg Host.Outcome.next ?_, endSync_wait _ _, rfl⟩
    refine (engineStep_same s (f := fun s => s.semSignal t e) he hc ?_).trans hstep
    rw [hstep]
    exact (congrArg (fun x : Tile => x.reg Reg.ladleFault) (State.setTile_tile_same s t _)).trans (endSync_reg _ _ _)
  · subst hx
    have hstep := semSignalArrive_sum hk hdue hsome hcount hsum hfit
    have hothers : ∀ o, o ≠ Reg.ladleSem + 4 * k →
        ((s.tile t).setF (Reg.ladleSem + 4 * k) 15 0 ((s.tile t).sem k + sum)).reg o = (s.tile t).reg o :=
      fun o ho => Tile.setF_reg_ne _ _ _ _ ho
    refine ⟨_, congrArg Host.Outcome.next ?_, sem_setF _ _ _ hfit, fun o ho => hothers o (List.mem_singleton.not.mp ho), rfl⟩
    have htraced : s.faultTraced t (fun s => s.semSignalArrive t k count) = s.semSignalArrive t k count := by
      refine State.faultTraced_same s t _ ?_
      rw [hstep]
      exact (congrArg (fun x : Tile => x.reg Reg.ladleFault) (State.setTile_tile_same s t _)).trans
        (hothers _ (fault_not_sem k))
    show s.when (decide (t < tileCount)) _ = _
    rw [State.when, if_pos (decide_eq_true ht)]
    exact htraced.trans hstep
end

section
namespace Sys2Proof.Machine

/-! ### Barriers (R115) -/

/-- The registers of the partition after the arrival that releases barrier b. -/
def Part.barReleased (p : Part) (b : Nat) : Part :=
  (p.setF (Reg.collBarState + 8 * b) 12 0 0).setF (Reg.collBarState + 8 * b) 23 16 (p.f (Reg.collBarState + 8 * b) 23 16 + 1)

theorem partSetF_form (p : Part) (o hi lo v : Nat) : ∃ rg, p.setF o hi lo v = { p with regs := rg } := ⟨_, rfl⟩

theorem barReleased_form (p : Part) (b : Nat) : ∃ rg, p.barReleased b = { p with regs := rg } := by
  obtain ⟨rg1, h1⟩ := partSetF_form p (Reg.collBarState + 8 * b) 12 0 0
  obtain ⟨rg2, h2⟩ := partSetF_form (p.setF (Reg.collBarState + 8 * b) 12 0 0) (Reg.collBarState + 8 * b) 23 16
    (p.f (Reg.collBarState + 8 * b) 23 16 + 1)
  exact ⟨rg2, by rw [Part.barReleased, h2, h1]⟩

theorem barReleased_reg_ne (p : Part) (b : Nat) {o : Nat} (ho : o ≠ Reg.collBarState + 8 * b) :
    (p.barReleased b).reg o = p.reg o := by
  rw [Part.barReleased, Part.setF_reg_ne _ _ _ _ ho, Part.setF_reg_ne _ _ _ _ ho]

section
variable {p : Part} {b : Nat}

theorem arrive_last (h : p.barCount b ≤ p.f (Reg.collBarState + 8 * b) 12 0 + 1) :
    ∃ q, q = p.barReleased b ∧ p.arrive b = { q with barGen := tabMod natD q.barGen b (· + 1) } :=
  ⟨_, rfl, by rw [Part.arrive, if_pos h]; rfl⟩

theorem arrive_notLast (h : ¬ p.barCount b ≤ p.f (Reg.collBarState + 8 * b) 12 0 + 1) :
    p.arrive b = p.setF (Reg.collBarState + 8 * b) 12 0 (p.f (Reg.collBarState + 8 * b) 12 0 + 1) := by
  rw [Part.arrive, if_neg h]

end

/-- An arrival touches its barrier's state register and generation alone. -/
theorem arrive_form (p : Part) (b : Nat) : ∃ rg gs, p.arrive b = { p with regs := rg, barGen := gs } ∧
    (∀ o, o ≠ Reg.collBarState + 8 * b → (p.arrive b).reg o = p.reg o) ∧
    ∀ b', b' ≠ b → tabGet natD (p.arrive b).barGen b' = tabGet natD p.barGen b' := by
  by_cases h : p.barCount b ≤ p.f (Reg.collBarState + 8 * b) 12 0 + 1
  · obtain ⟨q, hq, harrive⟩ := arrive_last h
    obtain ⟨rg, hform⟩ := barReleased_form p b
    have hregs := fun o ho => barReleased_reg_ne p b (o := o) ho
    rw [← hq] at hform hregs
    rw [harrive]
    refine ⟨rg, _, by rw [hform], hregs, fun b' hb' => ?_⟩
    rw [hform]
    exact tabGet_mod_ne natD p.barGen (· + 1) hb'
  · rw [arrive_notLast h]
    exact ⟨_, p.barGen, rfl, fun o ho => Part.setF_reg_ne _ _ _ _ ho, fun _ _ => rfl⟩

/-- The arrival that brings ARRIVED to COUNT clears it and advances the generation. -/
theorem arrive_releases {p : Part} {b : Nat} (h : p.barCount b ≤ p.f (Reg.collBarState + 8 * b) 12 0 + 1) :
    (p.arrive b).f (Reg.collBarState + 8 * b) 12 0 = 0 ∧
    (p.arrive b).f (Reg.collBarState + 8 * b) 23 16 = (p.f (Reg.collBarState + 8 * b) 23 16 + 1) % 256 ∧
    tabGet natD (p.arrive b).barGen b = tabGet natD p.barGen b + 1 := by
  obtain ⟨q, hq, harrive⟩ := arrive_last h
  obtain ⟨rg, hform⟩ := barReleased_form p b
  have hfields : ∀ hi lo, (p.arrive b).f (Reg.collBarState + 8 * b) hi lo = q.f (Reg.collBarState + 8 * b) hi lo :=
    fun hi lo => by rw [harrive]; rfl
  refine ⟨?_, ?_, ?_⟩
  · rw [hfields, hq, Part.barReleased, Part.setF_f_below _ _ _ (by decide) (by decide) (by decide),
      Part.setF_f_same _ _ _ (by decide) (by decide), Nat.zero_mod]
  · rw [hfields, hq]
    exact Part.setF_f_same _ _ _ (by decide) (by decide)
  · rw [harrive, hq, hform]
    exact tabGet_mod_same natD p.barGen b (· + 1)

/-- Any other adds one. -/
theorem arrive_counts {p : Part} {b : Nat} (h : p.f (Reg.collBarState + 8 * b) 12 0 + 1 < p.barCount b) :
    (p.arrive b).f (Reg.collBarState + 8 * b) 12 0 = p.f (Reg.collBarState + 8 * b) 12 0 + 1 ∧
    (p.arrive b).f (Reg.collBarState + 8 * b) 23 16 = p.f (Reg.collBarState + 8 * b) 23 16 ∧
    (p.arrive b).barGen = p.barGen := by
  have hlt : p.barCount b < 2 ^ (12 + 1 - 0) := fld_lt _ 12 0
  rw [arrive_notLast (Nat.not_le.mpr h)]
  refine ⟨?_, ?_, rfl⟩
  · rw [Part.setF_f_same _ _ _ (by decide) (by decide), Nat.mod_eq_of_lt (by omega)]
  · rw [Part.setF_f_above _ _ _ (by decide) (by decide) (by decide)]

/-- Tile `x` with the wait `w` of engine e arrived at its barrier in generation g. -/
def Tile.arrivedWait (x : Tile) (e : Nat) (w : Wait) (g : Nat) : Tile :=
  { x with waits := tabSet waitD x.waits e (some { w with arrived := true, gen := g }) }

theorem arrivedWait_wait (x : Tile) (e : Nat) (w : Wait) (g : Nat) :
    tabGet waitD (x.arrivedWait e w g).waits e = some { w with arrived := true, gen := g } :=
  tabGet_set_same waitD x.waits e (some { w with arrived := true, gen := g })

/-- The state after the arrival of engine e of tile t, of partition n. -/
def State.barArrived (s : State) (t e n : Nat) (w : Wait) : State :=
  (s.setPart n ((s.part n).arrive (fld w.w0 13 8))).setTile t
    ((s.tile t).arrivedWait e w (tabGet natD (s.part n).barGen (fld w.w0 13 8)))

/-- The tile after the step of an arrival in generation g: the command ends in it, or waits as arrived. -/
def Tile.barStepped (x : Tile) (e : Nat) (w : Wait) (g : Nat) (ends : Bool) : Tile :=
  if ends then (x.arrivedWait e w g).endSync e else x.arrivedWait e w g

theorem barStepped_form (x : Tile) (e : Nat) (w : Wait) (g : Nat) (ends : Bool) :
    ∃ ws st, x.barStepped e w g ends = { x with waits := ws, stall := st } ∧
      tabGet waitD ws e = if ends then none else some { w with arrived := true, gen := g } := by
  cases ends
  · exact ⟨_, x.stall, rfl, arrivedWait_wait x e w g⟩
  · exact ⟨_, _, rfl, endSync_wait (x.arrivedWait e w g) e⟩

section
variable {s : State} {t e n op : Nat} {w : Wait}

theorem barArrived_tile : (s.barArrived t e n w).tile t =
    (s.tile t).arrivedWait e w (tabGet natD (s.part n).barGen (fld w.w0 13 8)) := State.setTile_tile_same _ _ _

theorem barArrived_part : (s.barArrived t e n w).part n = (s.part n).arrive (fld w.w0 13 8) :=
  State.setPart_part_same s n _

theorem barArrived_tileOwner : (s.barArrived t e n w).tileOwner t = s.tileOwner t := by
  refine State.tileOwner_congr (fun k => ?_) t
  obtain ⟨-, -, -, hregs, -⟩ := arrive_form (s.part n) (fld w.w0 13 8)
  rw [State.barArrived, State.setTile_part, State.setPart_part]
  split
  · subst ‹k = n›
    exact hregs _ (by simp only [Reg.mbPartCfg, Reg.collBarState]; omega)
  · rfl

theorem barArrived_syncNow (hstop : (s.tile t).stopped e = false) (hop : fld w.w0 7 0 = op) :
    ((s.barArrived t e n w).tile t).syncNow op e =
      some { w with arrived := true, gen := tabGet natD (s.part n).barGen (fld w.w0 13 8) } := by
  rw [barArrived_tile]
  exact syncNow_held _ op e _ (arrivedWait_wait _ e w _) hop hstop

theorem barArrived_ended (s : State) (t e n : Nat) (w : Wait) : (s.barArrived t e n w).modTile t (·.endSync e) =
    (s.setPart n ((s.part n).arrive (fld w.w0 13 8))).setTile t
      (((s.tile t).arrivedWait e w (tabGet natD (s.part n).barGen (fld w.w0 13 8))).endSync e) := by
  rw [State.modTile, barArrived_tile, State.barArrived, State.setTile_setTile]

theorem arriveWait_arrived (harrived : w.arrived = true) : s.arriveWait t e w = s := by
  rw [State.arriveWait, harrived, Bool.true_or, if_pos rfl]

theorem arriveWait_arrives (harrived : w.arrived = false) (hahead : (s.tile t).aheadDone e = true)
    (howner : s.tileOwner t = some n) (hcount : (s.part n).barCount (fld w.w0 13 8) ≠ 0) :
    s.arriveWait t e w = s.barArrived t e n w := by
  simp only [State.arriveWait, harrived, hahead, howner, hcount, Bool.false_or, Bool.not_true, Bool.false_eq_true, if_false]
  rfl

variable (hwait : tabGet waitD (s.tile t).waits e = some w) (hstop : (s.tile t).stopped e = false)
  (howner : s.tileOwner t = some n)
include hwait hstop

theorem barArrive_arrives (hop : fld w.w0 7 0 = 0x53) (harrive : s.arriveWait t e w = s.barArrived t e n w) :
    s.barArrive t e = (s.barArrived t e n w).modTile t (·.endSync e) := by
  simp only [State.barArrive, startSync_held s 0x53 t e w hwait, syncNow_held _ 0x53 e w hwait hop hstop, harrive,
    barArrived_syncNow hstop hop, if_true]

include howner

theorem barSync_arrives (hop : fld w.w0 7 0 = 0x52) (harrive : s.arriveWait t e w = s.barArrived t e n w) :
    s.barSync t e = if tabGet natD (s.part n).barGen (fld w.w0 13 8) <
        tabGet natD ((s.part n).arrive (fld w.w0 13 8)).barGen (fld w.w0 13 8)
      then (s.barArrived t e n w).modTile t (·.endSync e) else s.barArrived t e n w := by
  simp only [State.barSync, startSync_held s 0x52 t e w hwait, syncNow_held _ 0x52 e w hwait hop hstop, harrive,
    barArrived_syncNow hstop hop, barArrived_tileOwner, howner, barArrived_part, Bool.true_and, decide_eq_true_eq]

/-- A BAR_SYNC that has arrived ends when its generation is released. -/
theorem barSync_arrived (hop : fld w.w0 7 0 = 0x52) (harrived : w.arrived = true) :
    s.barSync t e = if w.gen < tabGet natD (s.part n).barGen (fld w.w0 13 8) then s.setTile t ((s.tile t).endSync e) else s := by
  simp only [State.barSync, startSync_held s 0x52 t e w hwait, syncNow_held _ 0x52 e w hwait hop hstop,
    arriveWait_arrived harrived, howner, harrived, Bool.true_and, decide_eq_true_eq, State.modTile]

end

/-- Does the step that counts the arrival of a command of opcode op end it? BAR_ARRIVE's does, and BAR_SYNC's that
releases its generation. -/
def State.barEnds (s : State) (n op : Nat) (w : Wait) : Bool :=
  op == 0x53 || decide (tabGet natD (s.part n).barGen (fld w.w0 13 8) <
    tabGet natD ((s.part n).arrive (fld w.w0 13 8)).barGen (fld w.w0 13 8))

/-- The state after that step. -/
def State.barStep (s : State) (t e n op : Nat) (w : Wait) : State :=
  (s.setPart n ((s.part n).arrive (fld w.w0 13 8))).setTile t
    ((s.tile t).barStepped e w (tabGet natD (s.part n).barGen (fld w.w0 13 8)) (s.barEnds n op w))

theorem barStep_fault (s : State) (t e n op : Nat) (w : Wait) :
    ((s.barStep t e n op w).tile t).reg Reg.ladleFault = (s.tile t).reg Reg.ladleFault := by
  obtain ⟨ws, st, hform, -⟩ := barStepped_form (s.tile t) e w (tabGet natD (s.part n).barGen (fld w.w0 13 8))
    (s.barEnds n op w)
  rw [State.barStep, State.setTile_tile_same, hform]
  rfl

section
variable {s : State} {t e n : Nat} {w : Wait} (hwait : tabGet waitD (s.tile t).waits e = some w)
  (hstop : (s.tile t).stopped e = false) (harrive : s.arriveWait t e w = s.barArrived t e n w)
include hwait hstop harrive

theorem barArrive_step (hop : fld w.w0 7 0 = 0x53) : s.barArrive t e = s.barStep t e n 0x53 w := by
  rw [barArrive_arrives hwait hstop hop harrive, barArrived_ended]
  rfl

theorem barSync_step (howner : s.tileOwner t = some n) (hop : fld w.w0 7 0 = 0x52) :
    s.barSync t e = s.barStep t e n 0x52 w := by
  rw [barSync_arrives hwait hstop howner hop harrive, State.barStep, Tile.barStepped, State.barEnds]
  simp only [Nat.reduceBEq, Bool.false_or, decide_eq_true_eq, barArrived_ended]
  split <;> rfl

end

/-- A barrier command whose step counts its arrival. -/
theorem exec_barrier_arrives {s : State} {t e n op : Nat} {i : Instr} {w : Wait} (hc : s.clocked t = true) (he : e < 4)
    (hi : (i, op) ∈ [(Instr.barSync t e, 0x52), (Instr.barArrive t e, 0x53)])
    (hwait : tabGet waitD (s.tile t).waits e = some w) (hop : fld w.w0 7 0 = op) (harrived : w.arrived = false)
    (hstop : (s.tile t).stopped e = false) (hahead : (s.tile t).aheadDone e = true) (howner : s.tileOwner t = some n)
    (hcount : (s.part n).barCount (fld w.w0 13 8) ≠ 0) : exec i s = .next (s.barStep t e n op w) := by
  have harrive := arriveWait_arrives harrived hahead howner hcount
  have hstep : ∀ f : State → State, f s = s.barStep t e n op w →
      s.when (decide (e < 4)) (fun s => s.unitStep t f) = s.barStep t e n op w := fun f hf =>
    (engineStep_same s he hc (by rw [hf, barStep_fault])).trans hf
  simp only [List.mem_cons, List.not_mem_nil, or_false, Prod.mk.injEq] at hi
  rcases hi with ⟨rfl, rfl⟩ | ⟨rfl, rfl⟩
  · exact congrArg Host.Outcome.next (hstep (fun s => s.barSync t e) (barSync_step hwait hstop harrive howner hop))
  · exact congrArg Host.Outcome.next (hstep (fun s => s.barArrive t e) (barArrive_step hwait hstop harrive hop))

/-! ### Fences (R172) -/

theorem fence_held {s : State} {t e : Nat} {w : Wait} (hwait : tabGet waitD (s.tile t).waits e = some w)
    (hop : fld w.w0 7 0 = 0x54) (hstop : (s.tile t).stopped e = false) :
    s.fence t e = if s.fenceDone t e w then s.setTile t ((s.tile t).endSync e) else s := by
  simp only [State.fence, startSync_held s 0x54 t e w hwait, syncNow_held _ 0x54 e w hwait hop hstop, State.modTile]

/-- What a fence waits for, by its scope (Table 6.4). -/
theorem fenceDone_iff (s : State) (t e : Nat) (w : Wait) : s.fenceDone t e w = true ↔ (s.tile t).aheadDone e = true ∧
    (1 ≤ fld w.w0 9 8 → ∀ g ∈ s.signals, g.src ≠ t ∨ g.engine ≠ e) ∧
    (2 ≤ fld w.w0 9 8 → (∀ g ∈ s.ingressQ, w.ingress ≤ g.id) ∧ ∀ g ∈ s.arrivals, w.ingress ≤ g.id ∨ g.pkt.op ≠ 2) := by
  simp only [State.fenceDone, Bool.and_eq_true, Bool.or_eq_true, beq_iff_eq, bne_iff_ne, ne_eq, List.all_eq_true,
    decide_eq_true_eq, and_assoc, Nat.one_le_iff_ne_zero, ← Nat.not_lt (a := fld w.w0 9 8) (b := 2), imp_iff_not_or,
    not_not]

theorem endSync_step {s : State} {t e : Nat} {f : State → State} (he : e < 4) (hc : s.clocked t = true)
    (hf : f s = s.setTile t ((s.tile t).endSync e)) : ∃ y,
      s.when (decide (e < 4)) (fun s => s.unitStep t f) = s.setTile t y ∧ tabGet waitD y.waits e = none ∧
        y = { s.tile t with waits := y.waits, stall := y.stall } := by
  refine ⟨_, (engineStep_same s he hc ?_).trans hf, endSync_wait _ _, rfl⟩
  rw [hf, State.setTile_tile_same, endSync_reg]

end Sys2Proof.Machine
end

section
open Sys2Proof Sys2Proof.Machine

/-- Settles O16: a held barrier command arrives, one that has arrived waits for its generation, and a held fence for what
its scope lists. -/
theorem barriersAndFences : Obligations.BarriersAndFences := by
  refine ⟨fun s t e n b a c g op st i w x q hx hc he hwait hi hop harrived hstop hahead howner hq hb hst ha hcount hc0 hg => ?_,
    fun s t e n w x hx hc he hwait hop harrived hstop howner => ⟨fun hrel => ?_, fun hnot => ?_⟩,
    fun s t e w x hx hc he hwait hop hstop => ⟨fun hahead hsig hing => ?_, fun hahead => ?_, fun hscope hsig => ?_⟩⟩
  · subst hx hq hb hst ha hcount hg
    obtain ⟨rg, gs, hp, hregs, hgens⟩ := arrive_form (s.part n) (fld w.w0 13 8)
    obtain ⟨ws, sl, hform, hw⟩ := barStepped_form (s.tile t) e w (tabGet natD (s.part n).barGen (fld w.w0 13 8))
      (s.barEnds n op w)
    rw [State.barEnds] at hw
    refine ⟨_, _, (exec_barrier_arrives hc he hi hwait hop harrived hstop hahead howner hc0).trans
      (by rw [State.barStep, hform]), rfl, by rw [hp], hregs, hgens, fun hle => ?_, fun hlt => ?_⟩
    · obtain ⟨ha0, hgen, hnext⟩ := arrive_releases hle
      exact ⟨ha0, hgen, hnext, hw.trans (by rw [hnext, decide_eq_true (Nat.lt_succ_self _), Bool.or_true, if_pos rfl])⟩
    · obtain ⟨ha1, hgen, hsame⟩ := arrive_counts hlt
      refine ⟨ha1, hgen, by rw [hsame], hw.trans ?_⟩
      rw [hsame, decide_eq_false (Nat.lt_irrefl _), Bool.or_false]
      simp only [beq_iff_eq]
  · subst hx
    obtain ⟨y, hy, hnone, hform⟩ := endSync_step (f := fun s => s.barSync t e) he hc
      ((barSync_arrived hwait hstop howner hop harrived).trans (if_pos hrel))
    exact ⟨y, congrArg Host.Outcome.next hy, hnone, hform⟩
  · subst hx
    have hstep := (barSync_arrived hwait hstop howner hop harrived).trans (if_neg hnot)
    exact congrArg Host.Outcome.next ((engineStep_same s (f := fun s => s.barSync t e) he hc (by rw [hstep])).trans hstep)
  · subst hx
    obtain ⟨y, hy, hnone, hform⟩ := endSync_step (f := fun s => s.fence t e) he hc
      ((fence_held hwait hop hstop).trans (if_pos ((fenceDone_iff s t e w).mpr ⟨hahead, hsig, hing⟩)))
    exact ⟨y, congrArg Host.Outcome.next hy, hnone, hform⟩
  · subst hx
    have hstep := (fence_held hwait hop hstop).trans (if_neg (fun h => by
      obtain ⟨hdone, -⟩ := (fenceDone_iff s t e w).mp h
      rw [hahead] at hdone
      cases hdone))
    exact congrArg Host.Outcome.next ((engineStep_same s (f := fun s => s.fence t e) he hc (by rw [hstep])).trans hstep)
  · subst hx
    have hstep := (fence_held hwait hop hstop).trans (if_neg (fun h => by
      obtain ⟨-, hnone, -⟩ := (fenceDone_iff s t e w).mp h
      obtain ⟨g, hg, hsrc, heng⟩ := hsig
      exact (hnone hscope g hg).elim (· hsrc) (· heng)))
    exact congrArg Host.Outcome.next ((engineStep_same s (f := fun s => s.fence t e) he hc (by rw [hstep])).trans hstep)
end

section
namespace Sys2Proof.Machine

/-! ### ECALL and EBREAK (R111) -/

/-- The fetch of a served core: the word at its pc is decoded, and only the scratch ECC register counts it. -/
theorem scFetched {x : Tile} (hend : x.pc.toNat + 4 ≤ scratchSize) (hal : x.pc.toNat % 4 = 0)
    (hgood : (x.scrReads [(x.pc.toNat, 4)]).2 = false) : ∃ w y,
      x.wonBanks 7 x.scReads = w ∧ w.scNext = (y, .ok (scDecode x x.pc (BitVec.ofNat 32 (x.rd32 x.pc.toNat)))) ∧
      w.xr = x.xr ∧ x.RegsSame y [Reg.ladleScrEcc] ∧ y = { x with regs := y.regs, now := y.now } := by
  have hw := wonBanks_now x 7 x.scReads (by decide) (by decide)
  generalize x.wonBanks 7 x.scReads = w at hw
  obtain ⟨rg, hrg, hreg⟩ := scrReads_form w [(x.pc.toNat, 4)]
  have hnext := scNext_word w (by rw [hw]; exact hend) (by rw [hw]; exact hal) (by rw [hw]; exact hgood)
  have hpc : w.pc = x.pc := by rw [hw]
  have hword : w.rd32 x.pc.toNat = x.rd32 x.pc.toNat := by rw [hw]; rfl
  have hxr : w.xr = x.xr := by rw [hw]
  rw [hpc, hrg, hword, scDecode_congr (x := x) hxr] at hnext
  refine ⟨w, { w with regs := rg }, rfl, hnext, hxr, fun o ho => ?_, by rw [hw]⟩
  show tabGet tileRegD rg o = _
  rw [hreg o (List.mem_singleton.not.mp ho), hw]
  rfl

theorem scDecode_ecall (x : Tile) (pc : Word) : scDecode x pc 0x00000073 = .ecall := rfl
theorem scDecode_ebreak (x : Tile) (pc : Word) : scDecode x pc 0x00100073 = .ebreak := rfl

/-- The core's tile after an ECALL fetched with the tile `y`. -/
def Tile.ecalled (y : Tile) : Tile := { y.setF Reg.ladleQctl 16 16 1 with pc := y.pc + 4, stall := some .ecall }

/-- An ECALL of a tile on which no launch runs ends none. -/
theorem ecallStep_exit {s : State} {t : Nat} {y : Tile} (hnext : (s.tile t).scNext = (y, .ok .ecall))
    (ha0 : (s.tile t).x 10 = 0) (hlaunch : s.launchOf t = none) : s.ecallStep t = s.setTile t y.ecalled := by
  have hnone : ∀ z, (s.setTile t z).launchOf t = none := fun _ => hlaunch
  simp only [State.ecallStep, hnext, ha0, State.noteExit, hnone, if_true]
  rfl

/-- A bit of LADLE_QCTL set in the fetched tile. -/
theorem setQctl_facts {x y z : Tile} {b : Nat} (hb : b < 32) (hregs : x.RegsSame y [Reg.ladleScrEcc])
    (hform : y = { x with regs := y.regs, now := y.now }) (hz : y.setF Reg.ladleQctl b b 1 = z) :
    z.f Reg.ladleQctl b b = 1 ∧ x.RegsSame z [Reg.ladleQctl, Reg.ladleScrEcc] ∧
      z = { x with regs := z.regs, now := z.now } := by
  subst hz
  refine ⟨?_, fun o ho => ?_, ?_⟩
  · rw [Tile.setF_f_same _ _ _ (Nat.le_refl b) hb, Nat.add_sub_cancel_left]
    rfl
  · simp only [List.mem_cons, List.not_mem_nil, or_false, not_or] at ho
    exact (Tile.setF_reg_ne y _ _ _ ho.1).trans (hregs o (List.mem_singleton.not.mpr ho.2))
  · obtain ⟨rg, hset⟩ := setF_form y Reg.ladleQctl b b 1
    rw [hset, hform]

theorem ecalled_facts {x y : Tile} (hregs : x.RegsSame y [Reg.ladleScrEcc])
    (hform : y = { x with regs := y.regs, now := y.now }) : y.ecalled.f Reg.ladleQctl 16 16 = 1 ∧
      y.ecalled.stall = some .ecall ∧ y.ecalled.pc = x.pc + 4 ∧ x.RegsSame y.ecalled [Reg.ladleQctl, Reg.ladleScrEcc] ∧
      y.ecalled = { x with regs := y.ecalled.regs, pc := y.ecalled.pc, stall := y.ecalled.stall, now := y.ecalled.now } := by
  have hpc : y.pc = x.pc := by rw [hform]
  obtain ⟨z, hz⟩ : ∃ z, y.setF Reg.ladleQctl 16 16 1 = z := ⟨_, rfl⟩
  obtain ⟨hbit, hsame, hzform⟩ := setQctl_facts (by decide) hregs hform hz
  rw [Tile.ecalled, hz, hpc]
  exact ⟨hbit, rfl, rfl, hsame, by rw [hzform]⟩

/-- The core's tile after an EBREAK fetched with the tile `y`. -/
def Tile.ebroken (y : Tile) : Tile := { y.setF Reg.ladleQctl 2 2 1 with pc := y.pc + 4 }

theorem ebreakStep_stops {w y : Tile} (hnext : w.scNext = (y, .ok .ebreak)) : w.ebreakStep = y.ebroken := by
  rw [Tile.ebreakStep, hnext]
  rfl

theorem ebroken_facts {x y : Tile} (hregs : x.RegsSame y [Reg.ladleScrEcc])
    (hform : y = { x with regs := y.regs, now := y.now }) : y.ebroken.f Reg.ladleQctl 2 2 = 1 ∧
      y.ebroken.pc = x.pc + 4 ∧ x.RegsSame y.ebroken [Reg.ladleQctl, Reg.ladleScrEcc] ∧
      y.ebroken = { x with regs := y.ebroken.regs, pc := y.ebroken.pc, now := y.ebroken.now } := by
  have hpc : y.pc = x.pc := by rw [hform]
  obtain ⟨z, hz⟩ : ∃ z, y.setF Reg.ladleQctl 2 2 1 = z := ⟨_, rfl⟩
  obtain ⟨hbit, hsame, hzform⟩ := setQctl_facts (by decide) hregs hform hz
  rw [Tile.ebroken, hz, hpc]
  exact ⟨hbit, rfl, hsame, by rw [hzform]⟩

section
variable {s : State} {t : Nat} {w y : Tile} (hready : (s.tile t).scReady = true) (hin : (s.tile t).inScr = [])
  (hbanks : (s.tile t).banksFree s.cyc 7 (s.tile t).scReads = true)
  (hwon : (s.tile t).wonBanks 7 (s.tile t).scReads = w)
include hready hin hbanks hwon

theorem ecall_served (hnext : w.scNext = (y, .ok .ecall)) (ha0 : w.x 10 = 0) (hlaunch : s.launchOf t = none) :
    s.ecall t = s.setTile t y.ecalled := by
  have htile : (s.setTile t w).tile t = w := State.setTile_tile_same s t w
  rw [State.ecall, if_pos hready, scServed_ok s t _ hin hbanks, hwon,
    ecallStep_exit (s := s.setTile t w) (by rw [htile]; exact hnext) (by rw [htile]; exact ha0) hlaunch, State.setTile_setTile]

theorem ebreak_served (hnext : w.scNext = (y, .ok .ebreak)) : s.ebreak t = s.setTile t y.ebroken := by
  rw [State.ebreak, if_pos hready, scServed_ok s t _ hin hbanks, hwon, State.modTile, State.setTile_tile_same,
    ebreakStep_stops hnext, State.setTile_setTile]

end

/-! ### Writes of LADLE_QCTL (Table 4.10) -/

theorem setStops_running {x : Tile} (hfresh : x.fresh = false) (v : Nat) : x.setStops v = x.setF Reg.ladleQctl 3 0 v := by
  simp [Tile.setStops, hfresh]

/-- What the STOP bits of a write leave: the register's bits, and nothing else. -/
theorem setStops_facts {x z : Tile} (val : Word) (hz : x.setF Reg.ladleQctl 3 0 (fld val 3 0) = z) :
    z.f Reg.ladleQctl 3 0 = fld val 3 0 ∧ z.f Reg.ladleQctl 16 16 = x.f Reg.ladleQctl 16 16 ∧ x.RegsSame z [Reg.ladleQctl] ∧
      z = { x with regs := z.regs } := by
  subst hz
  refine ⟨?_, ?_, fun o ho => ?_, rfl⟩
  · rw [Tile.setF_f_same _ _ _ (by decide) (by decide), Nat.mod_eq_of_lt (fld_lt val 3 0)]
  · rw [Tile.setF_f_above _ _ _ (by decide) (by decide) (by decide)]
  · rw [Tile.setF_reg_ne _ _ _ _ (List.mem_singleton.not.mp ho)]

/-- What the clear of SVC_REQ leaves. -/
theorem clearSvc_facts {x z : Tile} (hz : x.setF Reg.ladleQctl 16 16 0 = z) :
    z.f Reg.ladleQctl 16 16 = 0 ∧ z.f Reg.ladleQctl 3 0 = x.f Reg.ladleQctl 3 0 ∧ x.RegsSame z [Reg.ladleQctl] ∧
      z = { x with regs := z.regs } := by
  subst hz
  refine ⟨?_, ?_, fun o ho => ?_, rfl⟩
  · rw [Tile.setF_f_same _ _ _ (by decide) (by decide), Nat.zero_mod]
  · rw [Tile.setF_f_below _ _ _ (by decide) (by decide) (by decide)]
  · rw [Tile.setF_reg_ne _ _ _ _ (List.mem_singleton.not.mp ho)]

/-- A write of the register of a core that has started stores the STOP bits; a one clears SVC_REQ. -/
theorem qctlWrite_facts {x y : Tile} {val : Word} (hfresh : x.fresh = false) (hy : y = x.qctlWrite val) :
    y.f Reg.ladleQctl 3 0 = fld val 3 0 ∧
    y.f Reg.ladleQctl 16 16 = (if bit val 16 then 0 else x.f Reg.ladleQctl 16 16) ∧
    y.stall = (if bit val 16 && x.stall == some .ecall then none else x.stall) ∧
    x.RegsSame y [Reg.ladleQctl] ∧ y = { x with regs := y.regs, stall := y.stall } := by
  obtain ⟨z, hz⟩ : ∃ z, x.setF Reg.ladleQctl 3 0 (fld val 3 0) = z := ⟨_, rfl⟩
  obtain ⟨z2, hz2⟩ : ∃ z2, z.setF Reg.ladleQctl 16 16 0 = z2 := ⟨_, rfl⟩
  obtain ⟨hstops, hsvc, hregs, hform⟩ := setStops_facts val hz
  obtain ⟨hclear, hkept, hregs2, hform2⟩ := clearSvc_facts hz2
  have hstall : z.stall = x.stall := by rw [hform]
  rw [Tile.qctlWrite, setStops_running hfresh, hz] at hy
  dsimp only at hy
  rw [hz2] at hy
  subst hy
  cases hbit : bit val 16
  · rw [if_neg Bool.false_ne_true]
    exact ⟨hstops, hsvc, hstall, hregs, by rw [hform]⟩
  · rw [if_pos rfl, hstall, Bool.true_and]
    exact ⟨hkept.trans hstops, hclear, rfl, fun o ho => (hregs2 o ho).trans (hregs o ho), by rw [hform2, hform]⟩

theorem exec_qctlWrite {s : State} {n t : Nat} {val : Word} {c : Instr} (hu : s.hostUp = true)
    (hown : s.ownsTile n t = true) (hfresh : (s.tile t).fresh = false)
    (hc : c ∈ [Instr.svcReqClear (.vf n) t val, Instr.qctlStopWrite (.vf n) t val]) :
    exec c s = .next (s.setTile t ((s.tile t).qctlWrite val)) := by
  have hexec : exec c s = .next (s.tileReg (.vf n) t Reg.ladleQctl val) := by
    simp only [List.mem_cons, List.not_mem_nil, or_false] at hc
    rcases hc with rfl | rfl <;> rfl
  obtain ⟨-, -, -, hregs, -⟩ := qctlWrite_facts hfresh (val := val) rfl
  rw [hexec, tileReg_mod s n t _ val (·.qctlWrite val) hu hown rfl (hregs _ (by decide))]

end Sys2Proof.Machine
end

section
open Sys2Proof Sys2Proof.Machine

/-- Settles O17: the fetched word decodes to the call or the stop, each one change of the tile, and the register's write
is another. -/
theorem serviceCallsAndStops : Obligations.ServiceCallsAndStops := by
  refine ⟨fun s t x hx hc hready hlaunch hend hal hgood hin hbanks => ?_, fun s n t val x c hx hu hown hfresh hcmd => ?_⟩
  · subst hx
    obtain ⟨w, y, hwon, hnext, hxr, hregs, hform⟩ := scFetched hend hal hgood
    refine ⟨fun hword ha0 => ?_, fun hword => ?_⟩
    · rw [hword, scDecode_ecall] at hnext
      have hstep := ecall_served hready hin hbanks hwon hnext ((congrArg (tabGet wordD · 10) hxr).trans ha0) hlaunch
      obtain ⟨hsvc, hstall, hpc, hsame, hy⟩ := ecalled_facts hregs hform
      refine ⟨y.ecalled, congrArg Host.Outcome.next ((unitStep_same s t (fun s => s.ecall t) hc ?_).trans hstep), hsvc,
        hstall, hpc, hsame, hy⟩
      rw [hstep, State.setTile_tile_same, hsame _ (by decide)]
    · rw [hword, scDecode_ebreak] at hnext
      have hstep := ebreak_served hready hin hbanks hwon hnext
      obtain ⟨hstop, hpc, hsame, hy⟩ := ebroken_facts hregs hform
      refine ⟨y.ebroken, congrArg Host.Outcome.next ((unitStep_same s t (fun s => s.ebreak t) hc ?_).trans hstep), hstop,
        hpc, hsame, hy⟩
      rw [hstep, State.setTile_tile_same, hsame _ (by decide)]
  · subst hx
    exact ⟨_, exec_qctlWrite hu hown hfresh hcmd, qctlWrite_facts hfresh rfl⟩
end

section
namespace Sys2Proof.Machine

/-! ### Descriptors of the Ladle (R123, R124, R125) -/

/-- Each of the five commands is the Ladle's start of a descriptor of its opcode. -/
theorem exec_ladleCommand {s : State} {t op : Nat} {c : Instr}
    (h : (c, op) ∈ [(Instr.copy t, 0x40), (Instr.gather t, 0x41), (Instr.scatter t, 0x42), (Instr.zero t, 0x43),
      (Instr.pailInv t, 0x44)]) : exec c s = .next (s.unitStep t (fun s => s.ladleCommand op t)) := by
  simp only [List.mem_cons, List.not_mem_nil, or_false, Prod.mk.injEq] at h
  rcases h with ⟨rfl, rfl⟩ | ⟨rfl, rfl⟩ | ⟨rfl, rfl⟩ | ⟨rfl, rfl⟩ | ⟨rfl, rfl⟩ <;> rfl

/-- A descriptor taken from the queue, at its first row. -/
def Tile.ladleStarted (x : Tile) (e : QEntry) : Tile :=
  { x.takeCmd 3 0 with issuing := some ⟨e, (x.takeCmd 3 0).cmdSeq 3, 0, 0, (x.takeCmd 3 0).f Reg.pailCtl 1 0, 0⟩ }

section
variable {s : State} {t op : Nat} {e : QEntry} {l : List QEntry} (hruns : (s.tile t).runs 3 = true)
  (hissue : (s.tile t).issuing = none) (hwait : tabGet waitD (s.tile t).waits 3 = none)
  (hqueue : (s.tile t).queue 3 = e :: l) (hop : opc e = op)
include hruns hissue hwait hqueue hop

theorem ladleCommand_starts (hcheck : s.ladleCheck t e = 0) :
    s.ladleCommand op t = s.setTile t ((s.tile t).ladleStarted e) := by
  simp only [State.ladleCommand, hruns, hissue, hwait, hqueue, hop, hcheck, Bool.not_true, Option.isSome_none, Bool.or_self,
    Bool.false_eq_true, if_false, ne_eq, not_true_eq_false, Tile.ladleStarted]

theorem ladleCommand_rejects (hcheck : s.ladleCheck t e ≠ 0) :
    s.ladleCommand op t = s.setTile t ((s.tile t).reject 3 0 (s.ladleCheck t e)) := by
  simp only [State.ladleCommand, hruns, hissue, hwait, hqueue, hop, hcheck, Bool.not_true, Option.isSome_none, Bool.or_self,
    Bool.false_eq_true, if_false, ne_eq, not_true_eq_false, not_false_eq_true, if_true]

end

/-- What a start leaves: the count and the queue of the Ladle have moved on, and nothing else but the descriptor's run. -/
theorem ladleStarted_facts (x : Tile) {e : QEntry} {l : List QEntry} (hqueue : x.queue 3 = e :: l) :
    (x.ladleStarted e).queue 3 = l ∧
    (x.ladleStarted e).issuing = some ⟨e, ((x.ladleStarted e).reg Reg.ladleCmdcntLd).toNat, 0, 0, x.f Reg.pailCtl 1 0, 0⟩ ∧
    (x.ladleStarted e).reg Reg.ladleCmdcntLd = x.reg Reg.ladleCmdcntLd + 1 ∧
    x.RegsSame (x.ladleStarted e) [Reg.ladleCmdcntLd] ∧
    x.ladleStarted e = { x with regs := (x.ladleStarted e).regs, queues := (x.ladleStarted e).queues,
                                issuing := (x.ladleStarted e).issuing } := by
  obtain ⟨rg, hform, hcount, hregs⟩ := takeCmd_form x 3 0
  have hqueue' := takeCmd_queue x 3 e l hqueue
  have halloc : (x.takeCmd 3 0).f Reg.pailCtl 1 0 = x.f Reg.pailCtl 1 0 := by
    rw [Tile.f, takeCmd_reg _ _ _ _ (by decide), Tile.f]
  rw [Tile.ladleStarted, halloc]
  generalize x.takeCmd 3 0 = y at *
  subst hform
  exact ⟨hqueue', rfl, hcount, fun o ho => hregs o (List.mem_singleton.not.mp ho), rfl⟩

/-- A zero count, the reserved direction or a set reserved bit fails the first of the checks (R124). -/
theorem ladleCheck_malformed (s : State) (t : Nat) {e : QEntry}
    (h : ldBytes e = 0 ∨ ldRows e = 0 ∨ ldDir e = 3 ∨ ef e 0 11 10 ≠ 0) : s.ladleCheck t e = 0x220 := by
  have hbad : ldDescBad e = true := by
    rcases h with h | h | h | h <;> simp [ldDescBad, h]
  rw [State.ladleCheck, if_pos hbad]

end Sys2Proof.Machine
end

section
open Sys2Proof Sys2Proof.Machine

/-- Settles O21: the five commands are one start of the Ladle, which its check decides. -/
theorem ladleDescriptorsStart : Obligations.LadleDescriptorsStart := by
  intro s t op c e l x hx hc hcmd hruns hissue hwait hqueue hop
  subst hx
  refine ⟨fun hcheck => ?_, fun hcheck => ?_, ladleCheck_malformed s t⟩
  · have hstep := ladleCommand_starts hruns hissue hwait hqueue hop hcheck
    obtain ⟨htaken, hissued, hcount, hregs, hform⟩ := ladleStarted_facts (s.tile t) hqueue
    refine ⟨_, _, (exec_ladleCommand hcmd).trans (congrArg Host.Outcome.next ((unitStep_same s t _ hc ?_).trans hstep)),
      htaken, hissued, rfl, rfl, rfl, rfl, rfl, hcount, rfl, hregs, hform⟩
    rw [hstep, State.setTile_tile_same, hregs _ (by decide)]
  · have hstep := ladleCommand_rejects hruns hissue hwait hqueue hop hcheck
    obtain ⟨z, hz, hform, htaken, hvalid, hstop, hfirst⟩ :=
      reject_facts (s.tile t) 3 (s.ladleCheck t e) e l hqueue (by decide)
    rw [hz] at hstep
    obtain ⟨u, hu, honly, htile⟩ := unitStep_tileOnly s (f := fun s => s.ladleCommand op t) hc hstep
    have htake : (s.tile t).TakeOnly z := hform
    refine ⟨u, (exec_ladleCommand hcmd).trans (congrArg Host.Outcome.next hu), honly, ?_⟩
    rw [htile]
    refine ⟨htaken, ?_, ?_, hvalid, beq_iff_eq.mpr hstop, htake.scratchSame, fun h0 => (hfirst h0).1⟩ <;> rw [hform]
    exact hissue
end

section
namespace Sys2Proof.Machine

/-! ### A line served by a slice whose register file lists a zero (R154, R158) -/

/-- A read of the slice's first line by the Ladle of tile 1. -/
def sliceRead : PailReq := ⟨pailBase, false, [], 0, .ladle 1 0, 0⟩

/-- Tile 0 after reset with that read waiting and, in its register file, PAIL_ECC_CNT listed with the value it reads as
unlisted. -/
def listedZeroTile : Tile := { State.reset.tile 0 with regs := [(Reg.pailEccCnt, 0)], sliceQ := [sliceRead] }

/-- The device after reset with that tile and its mesh up. -/
def listedZeroState : State :=
  { State.reset.setTile 0 listedZeroTile with power := { State.reset.power with meshOn := true } }

theorem listedZeroState_tile : listedZeroState.tile 0 = listedZeroTile := rfl

theorem exec_pailSliceAccess {s : State} (h : s.meshUp = true) (t : Nat) :
    exec (.pailSliceAccess t) s = .next (s.pailSliceAccess t) := by
  show Host.Outcome.next (s.when s.meshUp _) = _
  rw [State.when, if_pos h]

/-- Counting no corrected word writes the counter all the same, and a written zero is not listed. -/
theorem listedZeroState_served : ((listedZeroState.pailSliceAccess 0).tile 0).regs = [] := rfl

end Sys2Proof.Machine
end

section
open Sys2Proof Sys2Proof.Machine

/-- Refutes O27: of the tile whose slice serves a line, the statement says that the register file is the same table. The
count of the line's corrected words is written even when it is zero, and a write of what an unlisted register reads as
takes the register from the table: a tile that lists PAIL_ECC_CNT as 0 loses that entry. The counterexample's table is
not in the canonical form of Machine/Tab.lean, and every register reads as before. -/
theorem not_pailModesSlicesAndCaches : ¬ Obligations.PailModesSlicesAndCaches := by
  rintro ⟨-, hslice, -⟩
  obtain ⟨u, hu, htile, -⟩ := hslice listedZeroState 0 0 1 0 sliceRead listedZeroTile listedZeroState_tile.symm (by decide) rfl
    rfl rfl rfl rfl rfl (by decide) (by decide) rfl (by rintro f ⟨⟩)
  have hserved := Host.Outcome.next.inj ((exec_pailSliceAccess (s := listedZeroState) rfl 0).symm.trans hu)
  have hregs := listedZeroState_served
  rw [hserved, htile] at hregs
  cases hregs
end

section
namespace Sys2Proof.Machine

/-! ### Commands of Service (R318) -/

/-- A command whose partition's window set a service core holds runs in the state as it is (R299). -/
theorem serving_held {s : State} {p : Nat} (h : p = 0 ∨ (s.svcCore (p - 1)).isSome = true) (k op : Nat) :
    s.serving p k op = s := by
  rw [State.serving]
  split
  · rename_i hrun
    rw [Bool.and_eq_true, bne_iff_ne] at hrun
    exact asService_held (h.resolve_left hrun.2)
  · rfl

/-- The step of such a command. -/
theorem next_served {s u : State} {p k op : Nat} {f : State → State}
    (h : p = 0 ∨ (s.svcCore (p - 1)).isSome = true) (hf : f s = u) :
    (Host.Outcome.next (f (s.serving p k op)) : Host.Outcome State Fault Refusal) = .next u := by
  rw [serving_held h, hf]

/-- A list of one check that passes. -/
theorem bad_passes {b : Bool} {code : Nat} (h : b = false) : ∀ c ∈ [bad b code], c.1 = false :=
  List.forall_mem_singleton.mpr h

/-- A list of checks of which the first passes. -/
theorem bad_passes_cons {b : Bool} {code : Nat} {l : List (Bool × Nat)} (h : b = false) (hl : ∀ c ∈ l, c.1 = false) :
    ∀ c ∈ bad b code :: l, c.1 = false := List.forall_mem_cons.mpr ⟨h, hl⟩

theorem noChecks_pass (w : List Word) : ∀ c ∈ noChecks w, c.1 = false := fun _ hc => absurd hc List.not_mem_nil

/-- Existing tiles that the partition owns are no bad range. -/
theorem tilesBad_owned {s : State} {p first count : Nat} (hlast : first + count ≤ tileCount)
    (hown : ∀ i, i < count → s.ownsTile (p - 1) (first + i) = true) : s.tilesBad p first count = false := by
  rw [State.tilesBad, decide_eq_false (Nat.not_lt.mpr hlast), Bool.false_or, Bool.and_eq_false_iff, List.any_eq_false]
  refine Or.inr fun i hi => ?_
  rw [hown i (List.mem_range.mp hi)]
  decide

/-- A semaphore is no register of a Quiesce field (Table 4.10). -/
theorem quiesceEngine_sem {i : Nat} (h : i < 1024) : quiesceEngine (Reg.ladleSem + 4 * i) = none := by
  rw [quiesceEngine, if_neg (by simp only [Reg.ladleSem, Reg.ladleLimits]; omega),
    if_neg (by simp only [Reg.ladleSem, Reg.ladleScPc]; omega)]

/-- SEM_SET's basic form names a semaphore. -/
theorem semSet_basic {w : List Word} (hbasic : rqExpert w = false) (hgood : semBad w = false) :
    semOff w = Reg.ladleSem + 4 * par w 1 ∧ quiesceEngine (semOff w) = none := by
  have hoff : semOff w = Reg.ladleSem + 4 * par w 1 := by rw [semOff, hbasic, if_neg Bool.false_ne_true]
  rw [semBad, hbasic, if_neg Bool.false_ne_true, Bool.or_eq_false_iff, decide_eq_false_iff_not, Nat.not_le] at hgood
  exact ⟨hoff, hoff ▸ quiesceEngine_sem hgood.1⟩

section
variable {s : State} {p k : Nat} {t : Taken}

theorem faultRead_acts (h : s.InOrder p k 0x207 2 t) (hsome : 1 ≤ askedTiles t.words) (hmost : askedTiles t.words ≤ 7)
    (hgood : s.tilesBad p (par t.words 0) (askedTiles t.words) = false) : s.faultRead p k =
      s.mbFinish p k 0 ((List.range (askedTiles t.words)).flatMap (fun i =>
        ([Reg.ladleFault, Reg.ladleFaultSeq] ++
          if rqExpert t.words = true then [] else [Reg.rennetFirst, Reg.churnFirst, Reg.skimFirst]).map
          (s.tileWord 1 (par t.words 0 + i)))) := by
  unfold State.faultRead
  refine (h.acts _ (bad_passes ?_) (bad_passes hgood)).trans ?_
  · rw [Bool.or_eq_false_iff, beq_eq_false_iff_ne, decide_eq_false_iff_not]
    omega
  · cases hx : rqExpert t.words
    · simp only [hx, Bool.false_eq_true, if_false, tileFirst]
      rfl
    · simp only [hx, if_true, List.append_nil, tileFirst]

theorem faultClearCmd_acts (h : s.InOrder p k 0x208 2 t) (hsome : 1 ≤ askedTiles t.words)
    (hmost : askedTiles t.words ≤ tileCount) (hgood : s.tilesBad p (par t.words 0) (askedTiles t.words) = false) :
    s.faultClearCmd p k = ((List.range (askedTiles t.words)).foldl (fun u i =>
      u.faultClear (.service (p - 1)) (par t.words 0 + i) 0x81000000) s).mbFinish p k 0 [] := by
  unfold State.faultClearCmd
  refine h.acts _ (bad_passes ?_) (bad_passes ?_)
  · rw [Bool.or_eq_false_iff, beq_eq_false_iff_ne, decide_eq_false_iff_not]
    omega
  · rw [tileFirst, hgood, Bool.and_false]

/-- SEM_SET of a register that holds no Quiesce field writes it. -/
theorem semSet_writes (h : s.InOrder p k 0x209 2 t) (hsem : semBad t.words = false)
    (hgood : s.tilesBad p (par t.words 0) 1 = false) (hnone : quiesceEngine (semOff t.words) = none) : s.semSet p k =
      (s.tilePut (.service (p - 1)) (par t.words 0) (semOff t.words) (w32 (par t.words 2))).mbFinish p k 0 [] := by
  unfold State.semSet
  refine (h.acts _ (bad_passes hsem) (bad_passes hgood)).trans ?_
  simp only [hnone]

/-- One of a Quiesce field stops its engine first. -/
theorem semSet_stops (h : s.InOrder p k 0x209 2 t) (hsem : semBad t.words = false)
    (hgood : s.tilesBad p (par t.words 0) 1 = false) {e : Nat} (hsome : quiesceEngine (semOff t.words) = some e) :
    s.semSet p k =
      (s.stopTiles [par t.words 0] (2 ^ e)).1.stay p k 1 (s.stopTiles [par t.words 0] (2 ^ e)).2 := by
  unfold State.semSet
  refine (h.acts _ (bad_passes hsem) (bad_passes hgood)).trans ?_
  simp only [hsome, h.fresh, if_true]

/-- It goes on once the engine is quiet. -/
theorem semSet_goesOn (h : s.Started p k 0x209 1 t) {e : Nat} (hsome : quiesceEngine (semOff t.words) = some e) :
    s.semSet p k = if (s.tile (par t.words 0)).quiet e = true then
      ((s.tilePut (.service (p - 1)) (par t.words 0) (semOff t.words) (w32 (par t.words 2))).restoreStops t.aux).mbFinish
        p k 0 []
    else s := by
  unfold State.semSet
  refine (h.goes (by decide) _ _ _ _).trans ?_
  simp only [hsome, h.at_, Nat.one_ne_zero, if_false]

theorem ownerSet_acts (h : s.InOrder p k 0x20C 2 t) (hlast : par t.words 0 + par t.words 1 ≤ 4096)
    (hentry : if rqExpert t.words = true then outside (par t.words 2) 0x800087FF = false else par t.words 2 < tileCount)
    (hown : s.ownsTile (p - 1) (ownerEntry t.words % 2 ^ 11) = true) : s.ownerSet p k =
      ((List.range (par t.words 1)).foldl (fun u i =>
        u.partWrite (p - 1) (Reg.churnOwner + 4 * (par t.words 0 + i)) (w32 (ownerEntry t.words))) s).mbFinish p k 0 [] := by
  unfold State.ownerSet
  refine h.acts _ (bad_passes_cons (decide_eq_false (Nat.not_lt.mpr hlast)) (bad_passes_cons ?_ (bad_passes ?_)))
    (bad_passes (by rw [hown, Bool.not_true]))
  all_goals cases hx : rqExpert t.words <;> simp only [hx, Bool.false_eq_true, if_false, if_true] at hentry
  · exact decide_eq_false (Nat.not_le.mpr hentry)
  · rfl
  · rfl
  · exact hentry

theorem groupSet_acts (h : s.InOrder p k 0x20D 2 t) (hslot : par t.words 0 < 64) (hrank : par t.words 1 < 64)
    (horigin : par t.words 2 < 2 ^ 18) : s.groupSet p k =
      if s.grpQuiet (p - 1) (par t.words 0) = true then
        (s.setPart (p - 1) ((s.part (p - 1)).setGroup t.words)).mbFinish p k 0 []
      else s.stay p k 1 [] := by
  unfold State.groupSet
  exact h.acts _ (bad_passes_cons (decide_eq_false (Nat.not_le.mpr hslot))
    (bad_passes_cons (decide_eq_false (Nat.not_le.mpr hrank)) (bad_passes (decide_eq_false (Nat.not_le.mpr horigin)))))
    (noChecks_pass _)

/-- PAIL_MODE_SET that changes nothing ends; one that does stops the partition's Ladles first. -/
theorem pailModeSet_acts (h : s.InOrder p k 0x20E 2 t) (hunit : par t.words 0 < 18) (hmode0 : par t.words 1 ≤ 1)
    (hmode1 : par t.words 2 ≤ 1) (hown : s.ownsUnit (p - 1) (par t.words 0) = true) : s.pailModeSet p k =
      if (s.part (p - 1)).f (Reg.pailMode + 4 * par t.words 0) 1 0 ^^^ (par t.words 1 + 2 * par t.words 2) = 0 then
        s.mbFinish p k 0 [0]
      else (s.stopTiles (s.tilesOf (p - 1)) 8).1.stay p k 1 (s.stopTiles (s.tilesOf (p - 1)) 8).2 := by
  unfold State.pailModeSet
  refine (h.acts _ (bad_passes_cons (decide_eq_false (Nat.not_le.mpr hunit)) (bad_passes_cons
    (decide_eq_false (Nat.not_lt.mpr hmode0)) (bad_passes (decide_eq_false (Nat.not_lt.mpr hmode1)))))
    (bad_passes (by rw [hown, Bool.not_true]))).trans ?_
  simp only [h.fresh, decide_true, Bool.true_and, decide_eq_true_eq, if_true]

/-- It writes the modes once their regions are quiet. -/
theorem pailModeSet_goesOn (h : s.Started p k 0x20E 1 t) (hquiet : s.pailQuiet (p - 1) (par t.words 0) = true) :
    ∃ us, s.pailModeSet p k = ((s.drawn.pailModeWrite (p - 1) (par t.words 0)
      (w32 (par t.words 1 + 2 * par t.words 2))).restoreStops t.aux).mbFinish p k 0 [w32 us] := by
  refine ⟨s.cyclesUs (zeroingCycles ((s.part (p - 1)).f (Reg.pailMode + 4 * par t.words 0) 1 0 ^^^
    (par t.words 1 + 2 * par t.words 2))), ?_⟩
  unfold State.pailModeSet
  refine (h.goes (by decide) _ _ _ _).trans ?_
  simp only [h.at_, hquiet, Nat.one_ne_zero, decide_false, Bool.false_and, Bool.false_eq_true, if_false, if_true]

theorem collCancelCmd_acts (h : s.InOrder p k 0x20F 2 t) (hslot : par t.words 0 < 64) :
    s.collCancelCmd p k = (s.collCancel (p - 1) (par t.words 0)).mbFinish p k 0 [] := by
  unfold State.collCancelCmd
  exact h.acts _ (bad_passes (decide_eq_false (Nat.not_le.mpr hslot))) (noChecks_pass _)

theorem schedCfg_acts (h : s.InOrder p k 0x210 2 t) (hflag : rqExpert t.words = true → par t.words 3 ≤ 1) :
    s.schedCfg p k = (s.modSvc (p - 1) (fun v => { v with
      sliceMs := par t.words 0, rotMs := par t.words 1, rotThr := par t.words 2
      rotOff := if rqExpert t.words = true then par t.words 3 == 1 else v.rotOff })).mbFinish p k 0 [] := by
  unfold State.schedCfg
  exact h.acts _ (flag01 t.words 3 hflag) (noChecks_pass _)

end

end Sys2Proof.Machine
end

section
open Sys2Proof Sys2Proof.Machine

/-- Settles O48: a request in order passes its checks and acts, and one that has started goes on, each by the equation of
its command. -/
theorem serviceCommandsAct : Obligations.ServiceCommandsAct := by
  intro s p k t w n hw hn hp
  subst hw hn
  refine ⟨fun m hm hsome hlast hown => ?_, fun hin htile hown hsem => ?_, fun hst e he => ?_, fun hin hlast hentry hown => ?_,
    fun hin hslot hrank horigin => ?_, fun c hc => ⟨fun hin hunit hmode0 hmode1 hown => ?_, fun hst hquiet => ?_⟩,
    fun hin hslot => ?_, fun hin hflag => ?_⟩
  · subst hm
    have hgood := tilesBad_owned (p := p) hlast hown
    refine ⟨fun hin hmost => ?_, fun hin => ?_⟩
    · exact next_served (f := fun s => s.faultRead p k) hin.served (faultRead_acts hin hsome hmost hgood)
    · exact next_served (f := fun s => s.faultClearCmd p k) hin.served
        (faultClearCmd_acts hin hsome ((Nat.le_add_left _ _).trans hlast) hgood)
  · have hgood : s.tilesBad p (par t.words 0) 1 = false := tilesBad_owned htile fun i hi => by
      rw [Nat.lt_one_iff.mp hi]
      exact hown
    refine ⟨fun hbasic => ?_, fun e he => ?_⟩
    · obtain ⟨hoff, hnone⟩ := semSet_basic hbasic hsem
      rw [← hoff]
      exact next_served (f := fun s => s.semSet p k) hin.served (semSet_writes hin hsem hgood hnone)
    · exact next_served (f := fun s => s.semSet p k) hin.served (semSet_stops hin hsem hgood he)
  · refine ⟨fun hbusy => ?_, fun hquiet => ?_⟩
    · exact next_served (f := fun s => s.semSet p k) hst.served
        ((semSet_goesOn hst he).trans (if_neg (Bool.not_eq_true _ ▸ hbusy)))
    · exact next_served (f := fun s => s.semSet p k) hst.served ((semSet_goesOn hst he).trans (if_pos hquiet))
  · exact next_served (f := fun s => s.ownerSet p k) hin.served (ownerSet_acts hin hlast hentry hown)
  · exact next_served (f := fun s => s.groupSet p k) hin.served (groupSet_acts hin hslot hrank horigin)
  · subst hc
    exact next_served (f := fun s => s.pailModeSet p k) hin.served (pailModeSet_acts hin hunit hmode0 hmode1 hown)
  · obtain ⟨us, hus⟩ := pailModeSet_goesOn hst hquiet
    exact ⟨us, s.drawn, State.RecordsOnly.drawn s _, next_served (f := fun s => s.pailModeSet p k) hst.served hus⟩
  · exact next_served (f := fun s => s.collCancelCmd p k) hin.served (collCancelCmd_acts hin hslot)
  · exact next_served (f := fun s => s.schedCfg p k) hin.served (schedCfg_acts hin hflag)
end

section
namespace Sys2Proof.Machine

/-! ### Places in a column (R135) -/

/-- A sector's place, read off the number that `sectorAt` makes of it. -/
theorem sectorAt_place (c : Nat) {r b p : Nat} (hr : r < 8192) (hb : b < 32) (hp : p < 32) :
    sectorCol (sectorAt c r b p) = c ∧ sectorRow (sectorAt c r b p) = r ∧ sectorBank (sectorAt c r b p) = b ∧
      sectorInRow (sectorAt c r b p) = p := by
  have hbank : sectorBank (sectorAt c r b p) = (b ^^^ (r % 32)) ^^^ (r % 32) := by
    have hq : b ^^^ (r % 32) < 2 ^ 5 := Nat.xor_lt_two_pow hb (Nat.mod_lt _ (by decide))
    simp only [sectorBank, sectorAt, colSectors]
    generalize b ^^^ (r % 32) = q at hq
    rw [show (c * 2 ^ 23 + r * 2 ^ 10 + q * 2 ^ 5 + p) / 2 ^ 5 % 32 = q by omega,
      show (c * 2 ^ 23 + r * 2 ^ 10 + q * 2 ^ 5 + p) / 2 ^ 10 % 32 = r % 32 by omega]
  have hq : b ^^^ (r % 32) < 2 ^ 5 := Nat.xor_lt_two_pow hb (Nat.mod_lt _ (by decide))
  refine ⟨?_, ?_, hbank.trans (Nat.xor_xor_cancel_right _ _), ?_⟩ <;>
    simp only [sectorCol, sectorRow, sectorInRow, sectorAt, colSectors] <;> omega

/-- The place of a sector gives the sector back. -/
theorem sectorAt_of_place (x : Nat) : sectorAt (sectorCol x) (sectorRow x) (sectorBank x) (sectorInRow x) = x := by
  have hq : sectorBank x ^^^ (sectorRow x % 32) = x / 2 ^ 5 % 32 := by
    rw [sectorBank, sectorRow, show x / 2 ^ 10 % 8192 % 32 = x / 2 ^ 10 % 32 by omega]
    exact Nat.xor_xor_cancel_right _ _
  rw [sectorAt, hq]
  simp only [sectorCol, sectorRow, sectorInRow, colSectors]
  omega

/-- The bit fields of a chip address that name its sector's place. -/
theorem place_of_address (a : Nat) : vatCol a = a / 2 ^ 28 ∧ sectorCol (a / 32) = a / 2 ^ 28 ∧
    a / 32 % colSectors = a % 2 ^ 28 / 32 ∧ a = 32 * (a / 32) + a % 2 ^ 5 ∧ sectorInRow (a / 32) = a / 2 ^ 5 % 2 ^ 5 ∧
    sectorBank (a / 32) = (a / 2 ^ 10 % 2 ^ 5) ^^^ (a / 2 ^ 15 % 2 ^ 5) ∧ sectorRow (a / 32) = a / 2 ^ 15 % 2 ^ 13 := by
  have hbank : sectorBank (a / 32) = (a / 2 ^ 10 % 2 ^ 5) ^^^ (a / 2 ^ 15 % 2 ^ 5) := by
    rw [sectorBank, show a / 32 / 2 ^ 5 % 32 = a / 2 ^ 10 % 2 ^ 5 by omega,
      show a / 32 / 2 ^ 10 % 32 = a / 2 ^ 15 % 2 ^ 5 by omega]
  refine ⟨rfl, ?_, ?_, by omega, rfl, hbank, ?_⟩
  · simp only [sectorCol, colSectors]
    omega
  · simp only [colSectors]
    omega
  · rw [sectorRow]
    omega

end Sys2Proof.Machine
end

section
open Sys2Proof Sys2Proof.Machine

/-- Settles O24: the fields of an address are quotients and remainders of it, and XOR with the row's low bits undoes
itself. -/
theorem vatAddressNamesItsPlace : Obligations.VatAddressNamesItsPlace :=
  ⟨fun a _ => place_of_address a, sectorAt_of_place, fun c _ _ _ hr hb hp => sectorAt_place c hr hb hp⟩
end

section
namespace Sys2Proof.Machine

/-! ### A step of a column -/

/-- A column that has started takes its step. -/
theorem inColumn_started {s : State} {c : Nat} (hc : c < tileCount) (hst : (s.tile c).f Reg.vatStatus 2 2 = 1)
    (f : State → State) : s.inColumn c f = f s := by
  rw [State.inColumn, decide_eq_true hc, hst]
  rfl

/-! ### The entry that starts (R139) -/

/-- Has a queue's entry i no entry before it that touches its sector? -/
def Column.unbarred (q : Column) (i : Nat) : Bool :=
  match q.queue[i]? with
  | some e => !((q.queue.take i).any (fun y => y.sector == e.sector))
  | none => false

/-- The eligible entries of a queue before which no entry touches their sector, oldest first. -/
def Column.startable (q : Column) (el : List Nat) : List Nat :=
  (List.range q.queue.length).filter (fun i => el.contains i && q.unbarred i)

/-- Is a queue's entry i a write? -/
def Column.isWrite (q : Column) (i : Nat) : Bool := match q.queue[i]? with | some e => e.write | none => false

/-- Has a queue's entry i been passed over 64 times? -/
def Column.isAged (q : Column) (i : Nat) : Bool :=
  match q.queue[i]? with | some e => decide (64 ≤ e.passed) | none => false

/-- Of a list of entries, the one that the direction of the lanes prefers. -/
def Column.preferred (q : Column) (l : List Nat) : Option Nat :=
  match if q.writing && decide (q.wrun < 16) then l.find? q.isWrite else none with
  | some i => some i
  | none => l.head?

/-- May entry i go before an aged entry a that waits: to an open row in another bank? -/
def Column.mayPass (q : Column) (a i : Nat) : Bool :=
  match q.queue[i]?, q.queue[a]? with
  | some e, some x => sectorBank e.sector != sectorBank x.sector &&
      tabGet natD q.rowOpen (sectorBank e.sector) == sectorRow e.sector + 1
  | _, _ => false

/-- The choice by these: an aged entry first if it may start, and otherwise what the lanes prefer. -/
theorem choose_eq (q : Column) (el : List Nat) :
    q.choose el = ((List.range q.queue.length).find? q.isAged).elim (q.preferred (q.startable el))
      (fun a => if (q.startable el).contains a then some a
        else q.preferred ((q.startable el).filter (q.mayPass a))) := by
  unfold Column.choose
  simp only []
  show (match (List.range q.queue.length).find? q.isAged with
    | none => q.preferred (q.startable el)
    | some a => if (q.startable el).contains a then some a
        else q.preferred ((q.startable el).filter (q.mayPass a))) = _
  cases (List.range q.queue.length).find? q.isAged <;> rfl

theorem unbarred_iff (q : Column) (i : Nat) :
    q.unbarred i = true ↔ ∃ e, q.queue[i]? = some e ∧ ∀ y ∈ q.queue.take i, y.sector ≠ e.sector := by
  unfold Column.unbarred
  cases hi : q.queue[i]? with
  | none => simp
  | some e => simp

theorem mem_startable (q : Column) (el : List Nat) (i : Nat) : i ∈ q.startable el ↔
    i ∈ el ∧ ∃ e, q.queue[i]? = some e ∧ ∀ y ∈ q.queue.take i, y.sector ≠ e.sector := by
  rw [Column.startable, List.mem_filter, List.mem_range, Bool.and_eq_true, List.contains_iff_mem, unbarred_iff]
  refine ⟨fun h => h.2, fun h => ⟨?_, h⟩⟩
  obtain ⟨-, e, he, -⟩ := h
  exact (List.getElem?_eq_some_iff.mp he).1

theorem isAged_of {q : Column} {i : Nat} {e : VatEntry} (h : q.queue[i]? = some e) :
    q.isAged i = decide (64 ≤ e.passed) := by
  rw [Column.isAged, h]

theorem preferred_mem {q : Column} {l : List Nat} {i : Nat} (h : q.preferred l = some i) : i ∈ l := by
  unfold Column.preferred at h
  split at h
  · next j hj =>
    cases h
    split at hj
    · exact List.mem_of_find?_eq_some hj
    · cases hj
  · exact List.mem_of_mem_head? h

/-- Outside a run of writes the oldest goes first. -/
theorem preferred_oldest {q : Column} (h : q.writing = false ∨ 16 ≤ q.wrun) (l : List Nat) : q.preferred l = l.head? := by
  have hrun : (q.writing && decide (q.wrun < 16)) = false := by
    rw [Bool.and_eq_false_iff, decide_eq_false_iff_not, Nat.not_lt]
    exact h
  simp only [Column.preferred, hrun, Bool.false_eq_true, if_false]

/-- The entry that starts may start. -/
theorem choose_startable {q : Column} {el : List Nat} {i : Nat} (h : q.choose el = some i) : i ∈ q.startable el := by
  rw [choose_eq] at h
  cases ha : (List.range q.queue.length).find? q.isAged with
  | none =>
    rw [ha] at h
    exact preferred_mem h
  | some a =>
    rw [ha, Option.elim_some] at h
    split at h
    · next hmem =>
      cases h
      exact List.contains_iff_mem.mp hmem
    · exact (List.mem_filter.mp (preferred_mem h)).1

/-- The first of the numbers that hold. -/
theorem find?_range_first {p : Nat → Bool} {n i : Nat} (hi : i < n) (hp : p i = true) (hfirst : ∀ j, j < i → p j = false) :
    (List.range n).find? p = some i := by
  rw [List.find?_range_eq_some]
  exact ⟨hp, List.mem_range.mpr hi, fun j hj => by rw [hfirst j hj]; rfl⟩

/-- The first aged entry goes first, if it may start. -/
theorem choose_aged {q : Column} {el : List Nat} {i : Nat} {e : VatEntry} (he : q.queue[i]? = some e)
    (hage : 64 ≤ e.passed) (hel : i ∈ el) (hbefore : ∀ y ∈ q.queue.take i, y.sector ≠ e.sector ∧ y.passed < 64) :
    q.choose el = some i := by
  have hlt : i < q.queue.length := (List.getElem?_eq_some_iff.mp he).1
  have hfirst : (List.range q.queue.length).find? q.isAged = some i := by
    refine find?_range_first hlt ((isAged_of he).trans (decide_eq_true hage)) fun j hj => ?_
    have hget : q.queue[j]? = some q.queue[j] := List.getElem?_eq_getElem _
    have hmem : q.queue[j] ∈ q.queue.take i := List.mem_take_iff_getElem.mpr ⟨j, by omega, rfl⟩
    exact (isAged_of hget).trans (decide_eq_false (Nat.not_le.mpr (hbefore _ hmem).2))
  have hmay : i ∈ q.startable el := (mem_startable q el i).mpr ⟨hel, e, he, fun y hy => (hbefore y hy).1⟩
  rw [choose_eq, hfirst, Option.elim_some, if_pos (List.contains_iff_mem.mpr hmay)]

/-- Where none is aged and no run of writes goes on, the oldest that may start does. -/
theorem choose_oldest {q : Column} {el : List Nat} {i : Nat} {e : VatEntry} (hyoung : ∀ y ∈ q.queue, y.passed < 64)
    (hrun : q.writing = false ∨ 16 ≤ q.wrun) (he : q.queue[i]? = some e) (hel : i ∈ el)
    (hbefore : ∀ y ∈ q.queue.take i, y.sector ≠ e.sector) (hfirst : ∀ j, j < i → j ∉ el) : q.choose el = some i := by
  have hlt : i < q.queue.length := (List.getElem?_eq_some_iff.mp he).1
  have hnone : (List.range q.queue.length).find? q.isAged = none := by
    refine List.find?_eq_none.mpr fun j hj => ?_
    have hj' : j < q.queue.length := List.mem_range.mp hj
    rw [isAged_of (List.getElem?_eq_getElem hj'), decide_eq_true_iff, Nat.not_le]
    exact hyoung _ (List.getElem_mem hj')
  have hmay : q.unbarred i = true := (unbarred_iff q i).mpr ⟨e, he, hbefore⟩
  rw [choose_eq, hnone, Option.elim_none, preferred_oldest hrun, Column.startable, List.head?_filter]
  refine find?_range_first hlt ?_ fun j hj => ?_
  · rw [List.contains_iff_mem.mpr hel, hmay]
    rfl
  · rw [Bool.and_eq_false_iff]
    exact Or.inl (by simpa using hfirst j hj)

/-! ### What a starting entry does (R126, R140, R145, R162) -/

theorem vatServe_fullWrite (x : Tile) {e : VatEntry} (hw : e.write = true) (hlen : e.len = 32) (ups : List (Nat × Byte))
    (draw : Nat) :
    x.vatServe e ups draw = ((x.setErr e.sector .clean).sectors Reg.vatWrSectLo 1, [], .clean, e.old) := by
  simp only [Tile.vatServe, hw, hlen, decide_true, Bool.and_self, if_true]

theorem vatServe_cleanRead (x : Tile) {e : VatEntry} (hw : e.write = false)
    (hclean : tabGet errD x.col.errs (e.sector % colSectors) = .clean) (draw : Nat) :
    x.vatServe e [] draw = ((x.sectors Reg.vatRdSectLo 1).setErr e.sector .clean, [], .clean, e.old) := by
  have herr : x.errAt e.sector [] = .clean := by
    rw [Tile.errAt, hclean]
    rfl
  simp only [Tile.vatServe, hw, herr, Bool.false_and, Bool.false_eq_true, if_false]
  rfl

/-- A column that repaired nothing logs nothing. -/
theorem vatRepairs_nil (s : State) (c : Nat) : s.vatRepairs c [] = s := rfl

/-- With no request waiting, none enters. -/
theorem vatRefill_none {s : State} {c : Nat} (h : (s.tile c).col.waitQ = []) :
    s.vatRefill c (s.tile c).col.waitQ.length = s := by
  rw [h]
  rfl

/-- What holds of a transaction alike before and after a change of it holds of a tile's transactions alike. -/
theorem modTxn_any (x : Tile) (id : Nat) {f : Txn → Txn} {p : Txn → Bool} (hp : ∀ y, p (f y) = p y) :
    (x.modTxn id f).txns.any p = x.txns.any p := by
  rw [Tile.modTxn, List.any_map]
  congr 1
  funext y
  rw [Function.comp_apply]
  split
  · exact hp y
  · rfl

/-- A delivered sector leaves how many of its transaction's are to come. -/
theorem vatDeliver_any (x : Tile) (id : Nat) (e : VatEntry) (bs : List Byte) (bad : Bool) (cyc : Nat) :
    (x.vatDeliver id e bs bad cyc).txns.any (fun z => z.id == id && decide (z.left ≤ 1)) =
      x.txns.any (fun z => z.id == id && decide (z.left ≤ 1)) := by
  unfold Tile.vatDeliver
  simp only []
  split <;> exact modTxn_any x id fun _ => rfl

/-- A sector served at another tile's home: its tile counts it, and with the transaction's last the answer enters the
mesh. -/
theorem txnServed_far (s : State) {home t : Nat} (id : Nat) (h : t ≠ home) :
    (∀ w, (s.txnServed home t id).tile w = (s.modTile t (·.modTxn id (fun z => { z with left := z.left - 1 }))).tile w) ∧
      (s.txnServed home t id).mesh = (if (s.tile t).txns.any (fun z => z.id == id && decide (z.left ≤ 1)) then
        s.mesh ++ [⟨t, id, true, .tile t, home, 0, s.cyc + meshEntry⟩] else s.mesh) ∧
      s.txnServed home t id = { s with tiles := (s.txnServed home t id).tiles, mesh := (s.txnServed home t id).mesh } := by
  have hne : (home == t) = false := beq_eq_false_iff_ne.mpr (Ne.symm h)
  simp only [State.txnServed, hne, bne, Bool.and_false, Bool.false_eq_true, if_false, Bool.not_false, Bool.and_true]
  split <;> exact ⟨fun _ => rfl, rfl, rfl⟩

theorem drawn_setTile (s : State) (c : Nat) (z : Tile) :
    s.drawn.setTile c z = { s with tiles := (s.setTile c z).tiles, freeCount := s.freeCount + 1 } := rfl

/-- A tile's column with an entry gone from its queue to start. -/
def Tile.entryGone (x : Tile) (i : Nat) (e : VatEntry) : Tile := { x with col := x.col.started i e }

section
variable {s : State} {c i : Nat} {e : VatEntry} {ups : List (Nat × Byte)} {z : Tile} {bs : List Byte}

theorem vatStartAt_write (he : (s.tile c).col.queue[i]? = some e) (hw : e.write = true)
    (hserve : ((s.tile c).entryGone i e).vatServe e ups s.freeCount = (z, [], .clean, bs)) :
    s.vatStartAt c i ups = s.drawn.setTile c z := by
  rw [Tile.entryGone] at hserve
  simp only [State.vatStartAt, he, hserve, hw, if_true, reduceCtorEq, if_false, vatRepairs_nil]
  rfl

theorem vatStartAt_read {k id : Nat} (he : (s.tile c).col.queue[i]? = some e) (hw : e.write = false)
    (hsrc : e.src = .ladle k id)
    (hserve : ((s.tile c).entryGone i e).vatServe e ups s.freeCount = (z, [], .clean, bs)) : s.vatStartAt c i ups =
      ((s.drawn.setTile c z).modTile k
        (fun x => x.vatDeliver id e bs false s.cyc)).txnServed c k id := by
  rw [Tile.entryGone] at hserve
  simp only [State.vatStartAt, he, hserve, hw, hsrc, Bool.false_eq_true, if_false, vatRepairs_nil]
  rfl

end

/-- A read served in column c, whose tile becomes z, for another tile's Ladle: that tile takes the sector, and with the
last the answer enters the mesh. -/
theorem readServed_facts {s u : State} {c k id : Nat} (hk : k ≠ c) (z : Tile) (e : VatEntry) (bs : List Byte)
    (hu : ((s.setTile c z).modTile k (fun x => x.vatDeliver id e bs false s.cyc)).txnServed c k id = u) :
    u.tile c = z ∧
      u.tile k = ((s.tile k).vatDeliver id e bs false s.cyc).modTxn id (fun y => { y with left := y.left - 1 }) ∧
      (∀ w, w ≠ c → w ≠ k → u.tile w = s.tile w) ∧
      u.mesh = (if (s.tile k).txns.any (fun y => y.id == id && decide (y.left ≤ 1)) then
        s.mesh ++ [⟨k, id, true, .tile k, c, 0, s.cyc + meshEntry⟩] else s.mesh) ∧
      u = { s with tiles := u.tiles, mesh := u.mesh } := by
  generalize hv : (s.setTile c z).modTile k (fun x => x.vatDeliver id e bs false s.cyc) = v at hu
  obtain ⟨ts, hts⟩ : ∃ ts, v = { s with tiles := ts } := ⟨v.tiles, hv ▸ rfl⟩
  have hvk : v.tile k = (s.tile k).vatDeliver id e bs false s.cyc := by
    rw [← hv, State.modTile_tile_same, State.setTile_tile_ne s z hk]
  have hvw : ∀ w, w ≠ k → v.tile w = (s.setTile c z).tile w := fun w hw => by rw [← hv, State.modTile_tile_ne _ _ hw]
  obtain ⟨htiles, hmesh, hform⟩ := txnServed_far v id hk
  rw [hu] at htiles hmesh hform
  have hother : ∀ w, w ≠ k → u.tile w = (s.setTile c z).tile w := fun w hw => by
    rw [htiles, State.modTile_tile_ne _ _ hw, hvw w hw]
  refine ⟨(hother c (Ne.symm hk)).trans (State.setTile_tile_same s c z), ?_,
    fun w hc hw => (hother w hw).trans (State.setTile_tile_ne s z hc), ?_, ?_⟩
  · rw [htiles, State.modTile_tile_same, hvk]
  · rw [hmesh, hvk, vatDeliver_any, hts]
    rfl
  · rw [hform, hts]

/-- The step of a column whose queue no request waits to enter. -/
theorem exec_vatEntryStart {s u : State} {c i : Nat} {el : List Nat} {ups : List (Nat × Byte)} (hc : c < tileCount)
    (hst : (s.tile c).f Reg.vatStatus 2 2 = 1) (hscrub : (s.tile c).forcedScrub = false)
    (hchoose : (s.tile c).col.choose el = some i) (hu : s.vatStartAt c i ups = u) (hwait : (u.tile c).col.waitQ = []) :
    exec (.vatEntryStart c el ups) s = .next u := by
  show Host.Outcome.next (s.inColumn c _) = _
  rw [inColumn_started hc hst, State.vatEntryStart, hscrub, decide_eq_false (Nat.not_le.mpr hc)]
  simp only [Bool.or_self, Bool.false_eq_true, if_false, State.vatNext, hchoose, hu]
  rw [vatRefill_none hwait]

end Sys2Proof.Machine
end

section
open Sys2Proof Sys2Proof.Machine

/-- Settles O25: the choice is among the entries that may start; the entry's effect on its column is a whole write's or a
clean read's, and a read's sector goes to the Ladle of another tile. -/
theorem vatEntryStarts : Obligations.VatEntryStarts := by
  refine ⟨fun q el i h => (mem_startable q el i).mp (choose_startable h),
    fun q el i e he hage hel hbefore => choose_aged he hage hel hbefore,
    fun q el i e hyoung hrun he hel hbefore hfirst => choose_oldest hyoung hrun he hel hbefore hfirst,
    fun s c i el ups e x y hx hc hst hscrub hwait hchoose he hy => ?_, fun q i e => ⟨rfl, rfl, rfl⟩⟩
  subst hx
  change y = (s.tile c).entryGone i e at hy
  subst hy
  refine ⟨fun hw hlen => ?_, fun k id hw hsrc hk _ hclean hups => ?_⟩
  · have hstart := vatStartAt_write he hw (vatServe_fullWrite _ hw hlen ups s.freeCount)
    have hquiet : ((s.drawn.setTile c ((((s.tile c).entryGone i e).setErr e.sector .clean).sectors
        Reg.vatWrSectLo 1)).tile c).col.waitQ = [] := by
      rw [State.setTile_tile_same]
      exact hwait
    rw [exec_vatEntryStart hc hst hscrub hchoose hstart hquiet, drawn_setTile]
  · subst hups
    have hserve := vatServe_cleanRead ((s.tile c).entryGone i e) hw hclean s.freeCount
    generalize hu : s.vatStartAt c i [] = u
    rw [vatStartAt_read he hw hsrc hserve] at hu
    obtain ⟨hhome, hasker, hother, hmesh, hform⟩ := readServed_facts (s := s.drawn) hk _ e e.old hu
    have hexec := exec_vatEntryStart hc hst hscrub hchoose ((vatStartAt_read he hw hsrc hserve).trans hu)
      (hhome ▸ hwait)
    exact ⟨u, hexec, hhome, hasker, hother, hmesh, hform⟩
end

section
namespace Sys2Proof.Machine

/-! ### Upkeep of a column (R142 to R151) -/

theorem scrubForce_on {x : Tile} (h : x.f Reg.vatScrubCfg 31 31 = 1) :
    x.scrubForce = { x with col := { x.col with scrubDue := true } } := by
  rw [Tile.scrubForce, if_neg (by rw [h]; decide)]

/-- A failed calibration sets CAL_FAIL and logs. -/
theorem vatLaneCal_fails {s : State} {c : Nat} (hc : c < tileCount) :
    (s.setTile c ((s.tile c).closeBanks.setF Reg.vatStatus 1 1 1)).RecordsOnly (s.vatLaneCal c false) := by
  have hform : (s.modTile c Tile.closeBanks).modTile c (fun x => x.setF Reg.vatStatus 1 1 1) =
      s.setTile c ((s.tile c).closeBanks.setF Reg.vatStatus 1 1 1) := by
    simp only [State.modTile, State.setTile_tile_same, State.setTile_setTile]
  rw [State.vatLaneCal, if_neg (Nat.not_le.mpr hc)]
  simp only [Bool.false_eq_true, if_false]
  rw [hform]
  exact .logOpen _ _ _ _

/-- A tile whose column has scrubbed a row: the next row's turn comes, and after the last a pass has ended (R144). -/
def Tile.scrubbed (x : Tile) (row : Nat) : Tile :=
  let y := { x with col := { x.col with
    scrubRow := if decide (row + 1 = 262144) then 0 else row + 1, scrubDue := false, rowOpen := [] } }
  if decide (row + 1 = 262144) then y.setReg Reg.vatScrubPass (y.reg Reg.vatScrubPass + 1) else y

theorem scrubbed_col (x : Tile) (row : Nat) : (x.scrubbed row).col = { x.col with
    scrubRow := if row = 262143 then 0 else row + 1, scrubDue := false, rowOpen := [] } := by
  have hlast : decide (row + 1 = 262144) = decide (row = 262143) := decide_eq_decide.mpr (by omega)
  simp only [Tile.scrubbed, hlast, decide_eq_true_eq]
  split <;> rfl

/-- A scrub that is on scrubs its row when the queue is empty or the row is forced. -/
theorem vatScrubRow_eq {s : State} {c : Nat} (hc : c < tileCount) (hon : (s.tile c).f Reg.vatScrubCfg 31 31 = 1)
    (hdue : (s.tile c).col.queue = [] ∨ (s.tile c).col.scrubDue = true) (ups : List (Nat × Nat × Byte)) :
    s.vatScrubRow c ups = (s.backgroundRow c ((s.tile c).col.scrubRow / 32) ((s.tile c).col.scrubRow % 32) ups
      false).modTile c (·.scrubbed (s.tile c).col.scrubRow) := by
  have hd : ((s.tile c).col.queue.isEmpty || (s.tile c).col.scrubDue) = true := by
    rw [Bool.or_eq_true, List.isEmpty_iff]
    exact hdue
  simp only [State.vatScrubRow, decide_eq_false (Nat.not_le.mpr hc), hon, hd, Bool.not_true, Bool.or_false,
    Nat.reduceBEq, Bool.false_eq_true, if_false]
  rfl

/-- A sense-line test that is not stuck repairs nothing: the signature is gone, and a trace point fires (R147, R149). -/
theorem senseLineTest_moves {s : State} {c : Nat} {raw : List Bool} {g : Signature4} (hc : c < tileCount)
    (hraw : raw.length = 64) (hdue : (s.tile c).col.sigs.find? (·.due) = some g) (hmoves : ∃ b ∈ raw, b ≠ raw.headD false) :
    (s.setTile c { s.tile c with col := { (s.tile c).col with
      sigs := (s.tile c).col.sigs.filter (· != g), rowOpen := [] } }).RecordsOnly (s.senseLineTest c raw) := by
  have hgo : (decide (tileCount ≤ c) || raw.length != 64) = false := by
    rw [decide_eq_false (Nat.not_le.mpr hc), hraw]
    rfl
  have hstuck : raw.all (· == raw.headD false) = false := by
    rw [List.all_eq_false]
    obtain ⟨b, hb, hne⟩ := hmoves
    exact ⟨b, hb, by rw [beq_iff_eq]; exact hne⟩
  simp only [State.senseLineTest, hgo, Bool.false_eq_true, if_false, hdue, hstuck, Bool.not_false, Bool.true_or, if_true]
  split
  · exact .tracePart _ _ _ _ _
  · exact .trace _ _ _ _

/-- A tile whose column has copied a row of repair r: the repair goes on, or gives way to the next that waits (R151). -/
def Tile.copied (x : Tile) (r : Repair) : Tile :=
  let y := x.closeBanks
  if !(!r.column || decide (8192 ≤ r.ptr + 1)) then
    { y with col := { y.col with copying := some { r with ptr := r.ptr + 1 } } }
  else
    let z := { y with col := { y.col with
      repairs := y.col.repairs ++ [{ r with ptr := r.ptr + 1 }], copying := y.col.waiting.head?,
      waiting := y.col.waiting.drop 1 } }
    if y.col.waiting.isEmpty then z.setF Reg.vatRepair 29 29 0 else z

theorem copied_col (x : Tile) (r : Repair) : (x.copied r).col.rowOpen = [] ∧ (x.copied r).col.copying =
    if r.column = true ∧ r.ptr < 8191 then some { r with ptr := r.ptr + 1 } else x.col.waiting.head? := by
  have hmore : (!(!r.column || decide (8192 ≤ r.ptr + 1))) = decide (r.column = true ∧ r.ptr < 8191) := by
    rw [Bool.not_or, Bool.not_not, ← decide_not, Bool.decide_and, Bool.decide_eq_true]
    congr 1
    exact decide_eq_decide.mpr (by omega)
  simp only [Tile.copied, hmore, decide_eq_true_eq]
  split
  · exact ⟨rfl, rfl⟩
  · split <;> exact ⟨rfl, rfl⟩

theorem repairCopyRow_eq {s : State} {c : Nat} {r : Repair} (hc : c < tileCount)
    (hcopy : (s.tile c).col.copying = some r) : s.repairCopyRow c =
      (s.backgroundRow c (if r.column then r.ptr else r.row) r.bank [] true).modTile c (·.copied r) := by
  rw [State.repairCopyRow, if_neg (Nat.not_le.mpr hc), hcopy]
  rfl

end Sys2Proof.Machine
end

section
open Sys2Proof Sys2Proof.Machine

/-- Settles O26: the column has started, and each event is the equation of its step. -/
theorem vatUpkeep : Obligations.VatUpkeep := by
  intro s c x hx hc hst
  subst hx
  have hstep : ∀ f, s.inColumn c f = f s := inColumn_started hc hst
  refine ⟨congrArg Host.Outcome.next ((hstep _).trans rfl), ?_, ?_, fun hon => ?_, fun ups hon hdue => ?_,
    fun raw g hraw hdue hmoves => ?_, fun r hcopy => ?_⟩
  · refine congrArg Host.Outcome.next ((hstep _).trans ?_)
    rw [State.vatLaneCal, if_neg (Nat.not_le.mpr hc)]
    rfl
  · exact ⟨_, congrArg Host.Outcome.next (hstep _), vatLaneCal_fails hc⟩
  · refine congrArg Host.Outcome.next ((hstep _).trans ?_)
    rw [State.modTile, scrubForce_on hon]
  · refine ⟨_, congrArg Host.Outcome.next ((hstep _).trans (vatScrubRow_eq hc hon hdue ups)), ?_⟩
    rw [State.modTile_tile_same, scrubbed_col]
    exact ⟨rfl, rfl, rfl⟩
  · exact ⟨_, congrArg Host.Outcome.next (hstep _), senseLineTest_moves hc hraw hdue hmoves⟩
  · refine ⟨_, congrArg Host.Outcome.next ((hstep _).trans (repairCopyRow_eq hc hcopy)), ?_⟩
    rw [State.modTile_tile_same]
    exact copied_col _ r
end

section
namespace Sys2Proof.Machine

/-! ### Steps that touch only some chip registers, and records -/

/-- Two states differ at most in the chip registers of a list, and in what logs, traces and the alert output write. -/
structure State.ChipOnly (s u : State) (but : List Nat) : Prop where
  tiles   : u.tiles = s.tiles
  parts   : u.parts = s.parts
  power   : u.power = s.power
  fw      : u.fw = s.fw
  cap     : u.cap = s.cap
  reading : u.mgmt.reading = s.mgmt.reading
  time    : u.timeAcc = s.timeAcc
  regs    : ∀ o, o ∉ but → u.reg o = s.reg o

theorem alertSync_reading (s : State) : s.alertSync.mgmt.reading = s.mgmt.reading := by
  unfold State.alertSync
  simp only []
  repeat' split
  all_goals rfl

namespace State.ChipOnly
variable {s u v : State} {but : List Nat}

theorem refl (s : State) (but : List Nat) : s.ChipOnly s but := ⟨rfl, rfl, rfl, rfl, rfl, rfl, rfl, fun _ _ => rfl⟩

theorem trans (h : s.ChipOnly u but) (h' : u.ChipOnly v but) : s.ChipOnly v but :=
  ⟨h'.tiles.trans h.tiles, h'.parts.trans h.parts, h'.power.trans h.power, h'.fw.trans h.fw, h'.cap.trans h.cap,
    h'.reading.trans h.reading, h'.time.trans h.time, fun o ho => (h'.regs o ho).trans (h.regs o ho)⟩

theorem mono {but' : List Nat} (h : s.ChipOnly u but) (hsub : but ⊆ but') : s.ChipOnly u but' :=
  { h with regs := fun o ho => h.regs o (fun hm => ho (hsub hm)) }

theorem ite {p : Prop} [Decidable p] (h : s.ChipOnly u but) (h' : s.ChipOnly v but) :
    s.ChipOnly (if p then u else v) but := by
  split
  · exact h
  · exact h'

theorem andRecords (h : s.ChipOnly u but) (hr : u.RecordsOnly v) : s.ChipOnly v but := by
  refine h.trans ?_
  obtain ⟨_, _, _, _, _, rfl, -⟩ := hr
  exact ⟨rfl, rfl, rfl, rfl, rfl, rfl, rfl, fun _ _ => rfl⟩

theorem andReg (h : s.ChipOnly u but) {o : Nat} (ho : o ∈ but) (w : Word) : s.ChipOnly (u.setReg o w) but :=
  h.trans ⟨rfl, rfl, rfl, rfl, rfl, rfl, rfl, fun _ hq => State.setReg_reg_ne _ _ (fun e => hq (e ▸ ho))⟩

theorem andF (h : s.ChipOnly u but) {o : Nat} (ho : o ∈ but) (hi lo v : Nat) : s.ChipOnly (u.setF o hi lo v) but :=
  h.andReg ho _

theorem andAlert (h : s.ChipOnly u but) (ho : Reg.mbAlert ∈ but) : s.ChipOnly u.alertSync but := by
  obtain ⟨hregs, hform⟩ := alertSync_facts u
  refine h.trans ⟨?_, ?_, ?_, ?_, ?_, alertSync_reading u, ?_, fun o hq => hregs o (fun e => hq (e ▸ ho))⟩ <;> rw [hform]

/-- A change of the cap controller's records apart from it. -/
theorem withCap (h : s.ChipOnly u but) (c : Cap) : ({ s with cap := c } : State).ChipOnly { u with cap := c } but :=
  ⟨h.tiles, h.parts, h.power, h.fw, rfl, h.reading, h.time, h.regs⟩

theorem f (h : s.ChipOnly u but) {o : Nat} (ho : o ∉ but) (hi lo : Nat) : u.f o hi lo = s.f o hi lo := by
  rw [State.f, h.regs o ho, State.f]

theorem tile (h : s.ChipOnly u but) (t : Nat) : u.tile t = s.tile t := by rw [State.tile, h.tiles, State.tile]

theorem vctlUp (h : s.ChipOnly u but) : u.vctlUp = s.vctlUp := by rw [State.vctlUp, h.power, State.vctlUp]

end State.ChipOnly

/-! ### Temperatures (R384 to R386) -/

/-- The chip registers that follow the temperature readings, and the alert's. -/
def thermRegs : List Nat := [Reg.capThermStat, Reg.capThermWhere, Reg.mbAlert]

theorem thermSync_chipOnly (s : State) : s.ChipOnly s.thermSync thermRegs := by
  have hs : Reg.capThermStat ∈ thermRegs := by decide
  have hw : Reg.capThermWhere ∈ thermRegs := by decide
  exact (((((State.ChipOnly.refl s _).andF hs _ _ _).andF hs _ _ _).andF hw _ _ _).andF hw _ _ _).andF hw _ _ _

theorem thermWarn_chipOnly (s : State) (t old new lim : Nat) : s.ChipOnly (s.thermWarn t old new lim) thermRegs := by
  refine .ite ?_ (.refl s _)
  exact (((State.ChipOnly.refl s _).andF (by decide) _ _ _).andRecords (.logSev _ _ _ _ _)).andAlert (by decide)

theorem thermWarn_warns (s : State) (t : Nat) {old new lim : Nat} (hold : old < lim) (hnew : lim ≤ new) :
    (s.thermWarn t old new lim).f Reg.capThermStat 30 30 = 1 := by
  rw [State.thermWarn, if_pos ⟨hold, hnew⟩, State.f, (alertSync_facts _).1 _ (by decide),
    (State.RecordsOnly.logSev _ _ _ _ _).reg, ← State.f, State.setF_f_same _ _ _ (by decide) (by decide)]
  rfl

/-- A thermal trip holds the device, with its cause and its output (Table 14.3). -/
theorem thermalTrip_facts {s u : State} {sensor temp : Nat} (hup : s.vctlUp = true) (hu : s.thermalTrip sensor temp = u) :
    u.power.stage = .held ∧ u.power.thermtripN = true ∧ u.parts = [] ∧
      u.reg Reg.capAonCause = (if s.f Reg.capAonCause 31 31 = 1 then s.reg Reg.capAonCause
        else BitVec.ofNat 32 (0x0900 + 2 ^ 16 * 0x7FF + 2 ^ 31)) := by
  have htrace : ∀ o, (s.trace 0xB4 Src.clocks [sensor, temp]).reg o = s.reg o := (State.RecordsOnly.trace s _ _ _).reg
  generalize hw : s.trace 0xB4 Src.clocks [sensor, temp] = w at htrace
  obtain ⟨-, hcause, -⟩ := aonCause_facts w 0x0900 noRail
  obtain ⟨ch, md, fw, pw, con, hform, hkept, -, hheld, -⟩ := holdDevice_facts (w.aonCause 0x0900 noRail)
  have hu' : u = { (w.aonCause 0x0900 noRail).holdDevice with
      power := { (w.aonCause 0x0900 noRail).holdDevice.power with thermtripN := true } } := by
    rw [← hu, State.thermalTrip, hup, hw]
    rfl
  rw [hform] at hu'
  rw [hu']
  refine ⟨hheld, rfl, rfl, hkept.trans (hcause.trans ?_)⟩
  rw [State.f, htrace, ← State.f]

/-- The device with a die reading taken (R384, R385). -/
def State.dieNoted (s : State) (t temp : Nat) : State :=
  (s.setTile t { (s.tile t).setF Reg.capTileTemp 11 0 temp with tripSeen := decide (16 * 115 ≤ temp) }).thermSync.thermWarn
    t ((s.tile t).f Reg.capTileTemp 11 0) temp (s.thermLimit 0 110)

theorem dieTempRead_eq {s : State} {t temp : Nat} (ht : t < tileCount) (hup : s.vctlUp = true) (htemp : temp < 4096) :
    s.dieTempRead t temp = if 16 * 115 ≤ temp ∧ (s.tile t).tripSeen = true then (s.dieNoted t temp).thermalTrip t temp
      else s.dieNoted t temp := by
  have hmin : min 0xFFF temp = temp := Nat.min_eq_right (Nat.le_of_lt_succ htemp)
  simp only [State.dieTempRead, decide_eq_false (Nat.not_le.mpr ht), hup, hmin, Bool.not_true, Bool.or_self,
    Bool.false_eq_true, if_false, Bool.and_eq_true, decide_eq_true_eq]
  rfl

theorem dieNoted_chipOnly (s : State) (t temp : Nat) :
    (s.setTile t { (s.tile t).setF Reg.capTileTemp 11 0 temp with tripSeen := decide (16 * 115 ≤ temp) }).ChipOnly
      (s.dieNoted t temp) thermRegs := (thermSync_chipOnly _).trans (thermWarn_chipOnly _ _ _ _ _)

/-- A die reading below a trip: the tile takes it, and a reading that first reaches its warning limit sets WARN. -/
theorem dieNoted_facts {s u : State} {t temp : Nat} (hu : s.dieNoted t temp = u) :
    u.tile t = { (s.tile t).setF Reg.capTileTemp 11 0 temp with tripSeen := decide (16 * 115 ≤ temp) } ∧
      (∀ t', t' ≠ t → u.tile t' = s.tile t') ∧ u.parts = s.parts ∧ u.power = s.power ∧
      ((s.tile t).f Reg.capTileTemp 11 0 < 16 * min 110 (s.f Reg.capThermCfg 7 0) →
        16 * min 110 (s.f Reg.capThermCfg 7 0) ≤ temp → u.f Reg.capThermStat 30 30 = 1) := by
  have hframe := dieNoted_chipOnly s t temp
  rw [hu] at hframe
  refine ⟨(hframe.tile t).trans (State.setTile_tile_same s t _), fun t' ht' => (hframe.tile t').trans
    (State.setTile_tile_ne s _ ht'), hframe.parts, hframe.power, fun hold hnew => ?_⟩
  rw [← hu]
  exact thermWarn_warns _ _ hold hnew

/-- The hottest of some readings is one of them, and none is hotter. -/
theorem hottest_reading {l : List Nat} (hl : l ≠ []) : (∀ x ∈ l, x ≤ l.foldl max 0) ∧ l.foldl max 0 ∈ l := by
  obtain ⟨m, hm⟩ := Option.ne_none_iff_exists'.mp (fun h => hl (List.max?_eq_none_iff.mp h))
  obtain ⟨hmem, hmax⟩ := List.max?_eq_some_iff.mp hm
  have htop : l.foldl max 0 = m := by
    rw [List.foldl_max, hm]
    exact Nat.zero_max m
  rw [htop]
  exact ⟨hmax, hmem⟩

theorem nextHot_above {hot : Nat} {l : List Nat} (h : ∃ x ∈ l, 16 * 85 < x) : nextHot hot l = 1 :=
  if_pos (List.any_eq_true.mpr (h.imp fun _ hx => ⟨hx.1, decide_eq_true hx.2⟩))

theorem any_above_false {l : List Nat} (h : ∀ x ∈ l, x ≤ 16 * 85) : l.any (fun x => decide (16 * 85 < x)) = false :=
  List.any_eq_false.mpr fun x hx => by
    rw [decide_eq_true_iff, Nat.not_lt]
    exact h x hx

theorem nextHot_below {hot : Nat} {l : List Nat} (h : ∀ x ∈ l, x < 16 * 80) : nextHot hot l = 0 := by
  rw [nextHot, any_above_false fun x hx => by have := h x hx; omega, if_neg Bool.false_ne_true,
    if_pos (List.all_eq_true.mpr fun x hx => decide_eq_true (h x hx))]

theorem nextHot_between {hot : Nat} {l : List Nat} (habove : ∀ x ∈ l, x ≤ 16 * 85) (hbelow : ∃ x ∈ l, 16 * 80 ≤ x) :
    nextHot hot l = hot := by
  obtain ⟨x, hx, hge⟩ := hbelow
  have hnot : ¬ l.all (fun x => decide (x < 16 * 80)) = true := fun h =>
    Nat.not_lt.mpr hge (of_decide_eq_true (List.all_eq_true.mp h x hx))
  rw [nextHot, any_above_false habove, if_neg Bool.false_ne_true, if_neg hnot]

theorem nextHot_lt {hot : Nat} (h : hot < 2) (l : List Nat) : nextHot hot l < 2 := by
  unfold nextHot
  repeat' split
  · decide
  · decide
  · exact h

theorem Tile.f_congr {x y : Tile} (h : y.regs = x.regs) (o hi lo : Nat) : y.f o hi lo = x.f o hi lo :=
  congrArg (fun w => fld w hi lo) (reg_congr h o)

/-- A tile with the readings of the twelve layers above it (R143, R384). -/
def Tile.vatRead (x : Tile) (ls : List Nat) : Tile :=
  { (x.setF Reg.capTileTemp 27 16 (ls.foldl max 0)).setF Reg.vatStatus 0 0 (nextHot (x.f Reg.vatStatus 0 0) ls) with
    layerTemps := ls, vatTripSeen := ls.map (fun l => decide (16 * 105 ≤ l)) }

theorem vatRead_facts (x : Tile) {ls : List Nat} (hne : ls ≠ []) (hlt : ∀ l ∈ ls, l < 4096) :
    (x.vatRead ls).f Reg.capTileTemp 27 16 = ls.foldl max 0 ∧
      (x.vatRead ls).f Reg.capTileTemp 11 0 = x.f Reg.capTileTemp 11 0 ∧
      (x.vatRead ls).f Reg.vatStatus 0 0 = nextHot (x.f Reg.vatStatus 0 0) ls := by
  have htop : ls.foldl max 0 < 2 ^ (27 + 1 - 16) := hlt _ (hottest_reading hne).2
  have hhot : nextHot (x.f Reg.vatStatus 0 0) ls < 2 ^ (0 + 1 - 0) := nextHot_lt (fld_lt _ 0 0) ls
  have hreg : Reg.capTileTemp ≠ Reg.vatStatus := by decide
  have hread : ∀ o hi lo, (x.vatRead ls).f o hi lo = ((x.setF Reg.capTileTemp 27 16 (ls.foldl max 0)).setF Reg.vatStatus
    0 0 (nextHot (x.f Reg.vatStatus 0 0) ls)).f o hi lo := Tile.f_congr rfl
  simp only [hread]
  refine ⟨?_, ?_, ?_⟩
  · rw [Tile.setF_f_ne _ _ _ _ _ _ hreg, Tile.setF_f_same _ _ _ (by decide) (by decide), Nat.mod_eq_of_lt htop]
  · rw [Tile.setF_f_ne _ _ _ _ _ _ hreg, Tile.setF_f_below _ _ _ (by decide) (by decide) (by decide)]
  · rw [Tile.setF_f_same _ _ _ (by decide) (by decide), Nat.mod_eq_of_lt hhot]

/-- The device with the layers' readings of a tile taken (R143, R384, R385). -/
def State.vatNoted (s : State) (t : Nat) (ls : List Nat) : State :=
  let hot := nextHot ((s.tile t).f Reg.vatStatus 0 0) ls
  let u := s.setTile t ((s.tile t).vatRead ls)
  (if hot ≠ (s.tile t).f Reg.vatStatus 0 0 then u.trace 0xB0 Src.clocks [t, ls.foldl max 0] else u).thermSync.thermWarn t
    ((s.tile t).f Reg.capTileTemp 27 16) (ls.foldl max 0) (s.thermLimit 16 100)

theorem vatNoted_chipOnly (s : State) (t : Nat) (ls : List Nat) :
    (s.setTile t ((s.tile t).vatRead ls)).ChipOnly (s.vatNoted t ls) thermRegs :=
  ((State.ChipOnly.ite ((State.ChipOnly.refl _ _).andRecords (.trace _ _ _ _)) (.refl _ _)).trans
    (thermSync_chipOnly _)).trans (thermWarn_chipOnly _ _ _ _ _)

/-- Twelve readings within the field are taken as they are. -/
theorem clampedReadings {ls : List Nat} (hlen : ls.length = 12) (hlt : ∀ l ∈ ls, l < 4096) :
    (List.range 12).map (fun i => min 0xFFF (ls.getD i 0)) = ls := by
  refine List.ext_getElem (by rw [List.length_map, List.length_range, hlen]) fun i _ hi => ?_
  have hle : ls[i] ≤ 0xFFF := Nat.le_of_lt_succ (hlt _ (List.getElem_mem hi))
  rw [List.getElem_map, List.getElem_range, List.getD_eq_getElem _ _ hi, Nat.min_eq_right hle]

theorem vatTempRead_eq {s : State} {t : Nat} {ls : List Nat} (ht : t < tileCount) (hup : s.vctlUp = true)
    (hlen : ls.length = 12) (hlt : ∀ l ∈ ls, l < 4096) : s.vatTempRead t ls =
      if (∃ l ∈ ls, 16 * 105 ≤ l) ∧ (∃ b ∈ (s.tile t).vatTripSeen, b = true) then
        (s.vatNoted t ls).thermalTrip t (ls.foldl max 0) else s.vatNoted t ls := by
  have hany : ((ls.map (fun l => decide (16 * 105 ≤ l))).any id && (s.tile t).vatTripSeen.any id) = true ↔
      (∃ l ∈ ls, 16 * 105 ≤ l) ∧ (∃ b ∈ (s.tile t).vatTripSeen, b = true) := by
    simp only [List.any_map, Bool.and_eq_true, List.any_eq_true, Function.comp_apply, id_eq, decide_eq_true_eq]
  simp only [State.vatTempRead, decide_eq_false (Nat.not_le.mpr ht), hup, clampedReadings hlen hlt, Bool.not_true,
    Bool.or_self, Bool.false_eq_true, if_false, hany]
  rfl

/-! ### The thermal loop (R385) -/

/-- A tile with THERM set, and its grant held to it (R371, R385). -/
def Tile.thermHeld (x : Tile) (th : Nat) : Tile :=
  let y := x.setF Reg.capTileGrant 22 16 th
  if th < y.grant then y.setF Reg.capTileGrant 6 0 th else y

theorem thermHeld_facts (x : Tile) {th : Nat} (h : th < 2 ^ (22 + 1 - 16)) :
    (x.thermHeld th).f Reg.capTileGrant 22 16 = th ∧ (x.thermHeld th).grant = min x.grant th ∧
      (x.thermHeld th).f Reg.capTileGrant 14 8 = x.f Reg.capTileGrant 14 8 := by
  have htherm : (x.setF Reg.capTileGrant 22 16 th).f Reg.capTileGrant 22 16 = th :=
    (Tile.setF_f_same _ _ _ (by decide) (by decide)).trans (Nat.mod_eq_of_lt h)
  have hgrant : (x.setF Reg.capTileGrant 22 16 th).grant = x.grant :=
    Tile.setF_f_below _ _ _ (by decide) (by decide) (by decide)
  have hrail : (x.setF Reg.capTileGrant 22 16 th).f Reg.capTileGrant 14 8 = x.f Reg.capTileGrant 14 8 :=
    Tile.setF_f_below _ _ _ (by decide) (by decide) (by decide)
  generalize hy : x.setF Reg.capTileGrant 22 16 th = y at htherm hgrant hrail
  rw [← hgrant, ← hrail]
  simp only [Tile.thermHeld, hy]
  split
  · next hlt =>
    rw [Nat.min_eq_right hlt.le]
    exact ⟨(Tile.setF_f_above _ _ _ (by decide) (by decide) (by decide)).trans htherm,
      (Tile.setF_f_same _ _ _ (by decide) (by decide)).trans (Nat.mod_eq_of_lt h),
      Tile.setF_f_above _ _ _ (by decide) (by decide) (by decide)⟩
  · next hge =>
    exact ⟨htherm, (Nat.min_eq_left (Nat.not_lt.mp hge)).symm, rfl⟩

/-- A value that is not its key's default is listed. -/
theorem mem_of_tabGet_ne {α : Type} {d : Nat → α} {m : Tab α} {k : Nat} (h : tabGet d m k ≠ d k) :
    (k, tabGet d m k) ∈ m := by
  induction m with
  | nil => exact absurd rfl h
  | cons p m ih =>
    by_cases hk : k = p.1
    · have hget : tabGet d (p :: m) k = p.2 := if_pos hk
      rw [hget, hk]
      exact List.mem_cons_self
    · have hget : tabGet d (p :: m) k = tabGet d m k := if_neg hk
      rw [hget] at h ⊢
      exact List.mem_cons_of_mem _ (ih h)

theorem reset_therm : Tile.reset.f Reg.capTileGrant 22 16 = 64 := by
  have hreg : Tile.reset.reg Reg.capTileGrant = 0x404000 := rfl
  rw [Tile.f, hreg]
  rfl

/-- Some listed tile's THERM is below 64 if a tile's is. -/
theorem any_throttled {s : State} {t : Nat} (h : (s.tile t).f Reg.capTileGrant 22 16 < 64) :
    s.tiles.any (fun p => decide (p.2.f Reg.capTileGrant 22 16 < 64)) = true := by
  have hne : s.tile t ≠ tileD t := by
    intro e
    rw [e, show tileD t = Tile.reset from rfl, reset_therm] at h
    exact Nat.lt_irrefl _ h
  exact List.any_eq_true.mpr ⟨_, mem_of_tabGet_ne hne, decide_eq_true h⟩

/-- What the loop makes of THERM, from the limits and the readings of die and Vat. -/
def nextTherm (ld lv d v th : Nat) : Nat :=
  if ld ≤ d ∨ lv ≤ v then max 8 (th - 4) else if d + 48 ≤ ld ∧ v + 48 ≤ lv then min 64 (th + 4) else th

theorem nextTherm_lt (ld lv d v : Nat) {th : Nat} (h : th < 128) : nextTherm ld lv d v th < 128 := by
  unfold nextTherm
  repeat' split
  all_goals omega

theorem thermalLoopTick_eq {s : State} {t : Nat} (ht : t < tileCount) (hup : s.vctlUp = true) : s.thermalLoopTick t =
    let u := s.setTile t ((s.tile t).thermHeld (nextTherm (s.thermLimit 8 110) (s.thermLimit 24 100)
      ((s.tile t).f Reg.capTileTemp 11 0) ((s.tile t).f Reg.capTileTemp 27 16) ((s.tile t).f Reg.capTileGrant 22 16)))
    u.setF Reg.capThermStat 29 29 (b2n (u.tiles.any (fun p => decide (p.2.f Reg.capTileGrant 22 16 < 64)))) := by
  simp only [State.thermalLoopTick, decide_eq_false (Nat.not_le.mpr ht), hup, Bool.not_true, Bool.or_self,
    Bool.false_eq_true, if_false]
  rfl

end Sys2Proof.Machine
end

section
namespace Sys2Proof.Machine

/-! ### Steps that touch the cap controller's records besides -/

/-- Two states differ at most in the cap controller's records, in the chip registers of a list, and in what logs, traces
and the alert output write. -/
def State.CapOnly (s u : State) (but : List Nat) : Prop := ({ s with cap := u.cap } : State).ChipOnly u but

namespace State.CapOnly
variable {s u v : State} {but : List Nat}

theorem of (c : Cap) (h : ({ s with cap := c } : State).ChipOnly u but) : s.CapOnly u but := by
  have hc : u.cap = c := h.cap
  rw [State.CapOnly, hc]
  exact h

theorem ofChip (h : s.ChipOnly u but) : s.CapOnly u but := .of s.cap h

theorem trans (h : s.CapOnly u but) (h' : u.CapOnly v but) : s.CapOnly v but :=
  (State.ChipOnly.withCap h v.cap).trans h'

theorem mono {but' : List Nat} (h : s.CapOnly u but) (hsub : but ⊆ but') : s.CapOnly u but' :=
  State.ChipOnly.mono h hsub

theorem f (h : s.CapOnly u but) {o : Nat} (ho : o ∉ but) (hi lo : Nat) : u.f o hi lo = s.f o hi lo :=
  State.ChipOnly.f h ho hi lo

end State.CapOnly

/-! ### The cooling reading (R387 to R389, R426 to R428) -/

/-- The chip registers that the heat of a reading is shown in, and the alert's. -/
def heatRegs : List Nat := [Reg.capCoolHeat, Reg.capCoolStat, Reg.mbAlert]

/-- The state with the heat of a reading shown, and with `meas` its ratios, and the histories kept (R388). -/
def State.heatShown (s : State) (heat pkg ratio rth : Nat) (meas : Bool) (c : Cap) : State :=
  let w := (s.setF Reg.capCoolHeat 11 0 heat).setF Reg.capCoolHeat 27 16 pkg
  { (if meas then (w.setF Reg.capCoolStat 7 0 ratio).setF Reg.capCoolStat 15 8 rth else w) with cap := c }

theorem heatShown_chipOnly (s : State) (heat pkg ratio rth : Nat) (meas : Bool) (c : Cap) :
    ({ s with cap := c } : State).ChipOnly (s.heatShown heat pkg ratio rth meas c) heatRegs := by
  have hh : Reg.capCoolHeat ∈ heatRegs := by decide
  have hs : Reg.capCoolStat ∈ heatRegs := by decide
  have hheat : s.ChipOnly ((s.setF Reg.capCoolHeat 11 0 heat).setF Reg.capCoolHeat 27 16 pkg) heatRegs :=
    ((State.ChipOnly.refl s _).andF hh _ _ _).andF hh _ _ _
  exact (State.ChipOnly.ite ((hheat.andF hs _ _ _).andF hs _ _ _) hheat).withCap c

/-- The heat of a reading changes its own registers and histories: no sensor's failures, and no pause. -/
theorem heat_capOnly (s : State) (tin tout flow : Int) : s.CapOnly (s.heat tin tout flow) heatRegs ∧
    (s.heat tin tout flow).cap.fails = s.cap.fails ∧ (s.heat tin tout flow).cap.paused = s.cap.paused := by
  have hs : Reg.capCoolStat ∈ heatRegs := by decide
  have hshown := heatShown_chipOnly s
  obtain ⟨c, hc, hfails, hpaused⟩ : ∃ c, ({ s with cap := c } : State).ChipOnly (s.heat tin tout flow) heatRegs ∧
      c.fails = s.cap.fails ∧ c.paused = s.cap.paused := by
    refine ⟨_, .ite (hshown _ _ _ _ _ _) ?_, ?_, ?_⟩
    · exact (((((hshown _ _ _ _ _ _).andF hs _ _ _).andF hs _ _ _).andRecords (.logSev _ _ _ _ _)).andRecords
        (.trace _ _ _ _)).andAlert (by decide)
    · rfl
    · rfl
  exact ⟨.of c hc, (congrArg Cap.fails hc.cap).trans hfails, (congrArg Cap.paused hc.cap).trans hpaused⟩

/-- The register that sensor n's value is stored in. -/
def sensorReg (n : Nat) : Nat := if n < 2 then Reg.capCoolTemp else Reg.capCoolFlow

/-- Sensor n's value stored, its failures ended. -/
def State.sensorStored (s : State) (n : Nat) (v : Int) : State :=
  let u : State := { s with cap := { s.cap with fails := tabSet natD s.cap.fails n 0 } }
  if n = 0 then u.setF Reg.capCoolTemp 11 0 (storeTemp v 12)
  else if n = 1 then u.setF Reg.capCoolTemp 27 16 (storeTemp v 12)
  else u.setF Reg.capCoolFlow 15 0 (storeTemp v 16)

theorem sensorStored_capOnly (s : State) (n : Nat) (v : Int) :
    s.CapOnly (s.sensorStored n v) [sensorReg n, Reg.capCoolStat, Reg.mbAlert] := by
  refine .of { s.cap with fails := tabSet natD s.cap.fails n 0 } ?_
  have hsame := State.ChipOnly.refl ({ s with cap := { s.cap with fails := tabSet natD s.cap.fails n 0 } } : State)
  unfold State.sensorStored sensorReg
  split
  · next h0 => exact (hsame _).andF (by rw [h0]; decide) _ _ _
  · split
    · next h1 => exact (hsame _).andF (by rw [h1]; decide) _ _ _
    · rw [if_neg (by omega)]
      exact (hsame _).andF (by decide) _ _ _

theorem sensorStored_fails (s : State) (n : Nat) (v : Int) :
    (s.sensorStored n v).cap.fails = tabSet natD s.cap.fails n 0 := by
  unfold State.sensorStored
  repeat' split
  all_goals rfl

/-- Sensor n's failure counted. -/
def State.failureCounted (s : State) (n : Nat) : State :=
  { s with cap := { s.cap with fails := tabSet natD s.cap.fails n (tabGet natD s.cap.fails n + 1) } }

/-- Sensor n's third failure in a row counted: the flag is set, and the heat calculation pauses. -/
def State.calculationPaused (s : State) (n : Nat) : State :=
  { (s.failureCounted n).setF Reg.capCoolStat 29 29 1 with cap := { (s.failureCounted n).cap with paused := true } }

theorem State.withCap_f (s : State) (c : Cap) (o hi lo : Nat) : ({ s with cap := c } : State).f o hi lo = s.f o hi lo := rfl

theorem calculationPaused_flag (s : State) (n : Nat) : (s.calculationPaused n).f Reg.capCoolStat 29 29 = 1 := by
  rw [State.calculationPaused, State.withCap_f, State.setF_f_same _ _ _ (by decide) (by decide)]
  rfl

/-- Sensor n's failure; the third in a row pauses the heat calculation. -/
def State.sensorFailed (s : State) (n : Nat) : State :=
  if tabGet natD s.cap.fails n + 1 = 3 then
    ((s.calculationPaused n).logSev 0x0903 Src.clocks sevError chipPart).alertSync
  else s.failureCounted n

theorem sensorFailed_facts (s : State) (n : Nat) :
    s.CapOnly (s.sensorFailed n) [Reg.capCoolStat, Reg.mbAlert] ∧
      (s.sensorFailed n).cap.fails = tabSet natD s.cap.fails n (tabGet natD s.cap.fails n + 1) ∧
      (tabGet natD s.cap.fails n = 2 →
        (s.sensorFailed n).f Reg.capCoolStat 29 29 = 1 ∧ (s.sensorFailed n).cap.paused = true) := by
  have hsame := State.ChipOnly.refl (s.failureCounted n) [Reg.capCoolStat, Reg.mbAlert]
  unfold State.sensorFailed
  split
  · have hset : ({ s with cap := (s.calculationPaused n).cap } : State).ChipOnly (s.calculationPaused n)
      [Reg.capCoolStat, Reg.mbAlert] := (hsame.andF (by simp) 29 29 1).withCap _
    have hlog : (s.calculationPaused n).ChipOnly
        ((s.calculationPaused n).logSev 0x0903 Src.clocks sevError chipPart).alertSync [Reg.mbAlert] :=
      ((State.ChipOnly.refl _ _).andRecords (.logSev _ _ _ _ _)).andAlert (by decide)
    refine ⟨.of _ (hset.trans (hlog.mono (by simp))), congrArg Cap.fails hlog.cap, fun _ =>
      ⟨(hlog.f (by decide) _ _).trans (calculationPaused_flag s n), congrArg Cap.paused hlog.cap⟩⟩
  · next hk => exact ⟨.of _ hsame, rfl, fun h => absurd (congrArg (· + 1) h) hk⟩

/-- The reading's result for sensor n. -/
def State.sensorEnds (vals : List (Option Int)) (s : State) (n : Nat) : State :=
  match vals.getD n none with
  | some v => s.sensorStored n v
  | none => s.sensorFailed n

theorem sensorEnds_some {vals : List (Option Int)} {n : Nat} {v : Int} (h : vals.getD n none = some v) (s : State) :
    s.sensorEnds vals n = s.sensorStored n v := by rw [State.sensorEnds, h]

theorem sensorEnds_none {vals : List (Option Int)} {n : Nat} (h : vals.getD n none = none) (s : State) :
    s.sensorEnds vals n = s.sensorFailed n := by rw [State.sensorEnds, h]

/-- A sensor's result leaves the other sensors' registers and failures. -/
theorem sensorEnds_capOnly (s : State) (vals : List (Option Int)) (n : Nat) :
    s.CapOnly (s.sensorEnds vals n) [sensorReg n, Reg.capCoolStat, Reg.mbAlert] ∧
      ∀ m, m ≠ n → tabGet natD (s.sensorEnds vals n).cap.fails m = tabGet natD s.cap.fails m := by
  cases hv : vals.getD n none with
  | some v =>
    rw [sensorEnds_some hv, sensorStored_fails]
    exact ⟨sensorStored_capOnly s n v, fun m hm => tabGet_set_ne _ _ _ hm⟩
  | none =>
    obtain ⟨hframe, hfails, -⟩ := sensorFailed_facts s n
    rw [sensorEnds_none hv, hfails]
    exact ⟨hframe.mono (List.subset_cons_self _ _), fun m hm => tabGet_set_ne _ _ _ hm⟩

/-- A reading of all three sensors ends a pause. -/
def State.unpaused (s : State) (all : Bool) : State :=
  if all then { s with cap := { s.cap with paused := false } } else s

/-- The heat calculation, unless it is paused. -/
def State.heated (s : State) (vals : List (Option Int)) : State :=
  if s.cap.paused then s else
  s.heat ((vals.getD 0 none).getD (s.f Reg.capCoolTemp 11 0 : Nat)) ((vals.getD 1 none).getD (s.f Reg.capCoolTemp 27 16 : Nat))
    ((vals.getD 2 none).getD (s.f Reg.capCoolFlow 15 0 : Nat))

theorem heated_capOnly (s : State) (vals : List (Option Int)) : s.CapOnly (s.heated vals) heatRegs ∧
    (s.heated vals).cap.fails = s.cap.fails ∧ (s.heated vals).cap.paused = s.cap.paused := by
  unfold State.heated
  split
  · exact ⟨.ofChip (.refl s _), rfl, rfl⟩
  · exact heat_capOnly _ _ _ _

/-- The results of the three sensors, in turn. -/
def State.resultsKept (s : State) (vals : List (Option Int)) : State :=
  ((({ s with mgmt := { s.mgmt with reading := none } } : State).sensorEnds vals 0).sensorEnds vals 1).sensorEnds vals 2

theorem readingEnds_eq (s : State) (vals : List (Option Int)) : s.readingEnds vals =
    (((s.resultsKept vals).trace 0xB3 Src.clocks ((List.range 3).map (fun n =>
      ((vals.getD n none).getD 0).toNat))).unpaused ((List.range 3).all (fun n => (vals.getD n none).isSome))).heated vals :=
  rfl

/-- The chip registers that a reading may change. -/
def readRegs : List Nat := [Reg.capCoolTemp, Reg.capCoolFlow, Reg.capCoolHeat, Reg.capCoolStat, Reg.mbAlert]

theorem resultsKept_capOnly (s : State) (vals : List (Option Int)) :
    ({ s with mgmt := { s.mgmt with reading := none } } : State).CapOnly (s.resultsKept vals) readRegs := by
  have hstep : ∀ (w : State) (n : Nat), w.CapOnly (w.sensorEnds vals n) readRegs := fun w n => by
    refine (sensorEnds_capOnly w vals n).1.mono ?_
    unfold sensorReg
    split <;> decide
  exact ((hstep _ 0).trans (hstep _ 1)).trans (hstep _ 2)

/-- What follows the results of the three sensors: the trace, the end of a pause, and the heat calculation. -/
theorem readingEnds_after {s u w : State} {vals : List (Option Int)} (hw : s.resultsKept vals = w)
    (hu : s.readingEnds vals = u) : w.CapOnly u heatRegs ∧ u.cap.fails = w.cap.fails ∧
      (((List.range 3).all fun n => (vals.getD n none).isSome) = true → u.cap.paused = false) ∧
      (((List.range 3).all fun n => (vals.getD n none).isSome) = false → w.cap.paused = true →
        u.cap.paused = true ∧ ∀ o, u.reg o = w.reg o) := by
  have htrace : w.ChipOnly (w.trace 0xB3 Src.clocks ((List.range 3).map
      (fun n => ((vals.getD n none).getD 0).toNat))) [] := (State.ChipOnly.refl w _).andRecords (.trace _ _ _ _)
  rw [readingEnds_eq, hw] at hu
  generalize w.trace 0xB3 Src.clocks ((List.range 3).map (fun n => ((vals.getD n none).getD 0).toNat)) = v at htrace hu
  have hframe := htrace.mono (List.nil_subset heatRegs)
  cases hall : (List.range 3).all fun n => (vals.getD n none).isSome with
  | true =>
    rw [hall] at hu
    obtain ⟨hheat, hfails, hpaused⟩ := heated_capOnly (v.unpaused true) vals
    rw [hu] at hheat hfails hpaused
    have hun : w.CapOnly (v.unpaused true) heatRegs := .of _ (hframe.withCap _)
    have hvfails : (v.unpaused true).cap.fails = v.cap.fails := rfl
    rw [hvfails, htrace.cap] at hfails
    exact ⟨hun.trans hheat, hfails, fun _ => hpaused, fun h => absurd h (by decide)⟩
  | false =>
    rw [hall] at hu
    obtain ⟨hheat, hfails, hpaused⟩ := heated_capOnly v vals
    change v.heated vals = u at hu
    refine ⟨(State.CapOnly.ofChip hframe).trans (hu ▸ hheat), hu ▸ hfails.trans (congrArg Cap.fails htrace.cap),
      fun h => absurd h (by decide), fun _ hp => ?_⟩
    have hvp : v.cap.paused = true := (congrArg Cap.paused htrace.cap).trans hp
    have huv : u = v := by rw [← hu, State.heated, if_pos hvp]
    rw [huv]
    exact ⟨hvp, fun o => htrace.regs o List.not_mem_nil⟩

end Sys2Proof.Machine
end

section
namespace Sys2Proof.Machine

/-! ### A reading's course (R426 to R428) -/

theorem readOn_next {s u : State} {r r' : Reading} {a : SensorResult} (hr : r.sensor < 3)
    (h : s.sensorStep r a = (u, some r')) (l : List SensorResult) : s.readOn r (a :: l) = u.readOn r' l := by
  rw [State.readOn, if_neg (Nat.not_le.mpr hr), h]

theorem readOn_stops {s u : State} {r : Reading} {a : SensorResult} (hr : r.sensor < 3)
    (h : s.sensorStep r a = (u, none)) (l : List SensorResult) : s.readOn r (a :: l) = u := by
  rw [State.readOn, if_neg (Nat.not_le.mpr hr), h]

theorem readOn_data {n : Nat} (hn : n < 3) (s : State) (k : Nat) (vals : List (Option Int)) (b0 b1 : Byte)
    (l : List SensorResult) : s.readOn ⟨n, k, vals⟩ (.data b0 b1 true :: l) =
      s.readOn ⟨n + 1, 0, vals ++ [some (s.sensorValue n b0 b1)]⟩ l := readOn_next hn rfl l

theorem readOn_ends {r : Reading} (hr : 3 ≤ r.sensor) (s : State) : s.readOn r [] = s.readingEnds r.vals := by
  rw [State.readOn, if_pos hr]

theorem readOn_waits {r : Reading} (hr : r.sensor < 3) (s : State) :
    s.readOn r [] = { s with mgmt := { s.mgmt with reading := some r } } := by
  rw [State.readOn, if_neg (Nat.not_le.mpr hr)]

/-- A lost arbitration, counted and logged (R427). -/
def State.arbLossNoted (s : State) : State := (s.count Reg.mbI3cStat 15 0 1).logOpen 0x0A00 Src.hostIf chipPart

theorem arbLossNoted_chipOnly (s : State) : s.ChipOnly s.arbLossNoted [Reg.mbI3cStat] :=
  ((State.ChipOnly.refl s _).andF (by decide) _ _ _).andRecords (.logOpen _ _ _ _)

theorem arbLossNoted_count (s : State) :
    s.arbLossNoted.f Reg.mbI3cStat 15 0 = min 0xFFFF (s.f Reg.mbI3cStat 15 0 + 1) := by
  have hlt : min 0xFFFF (s.f Reg.mbI3cStat 15 0 + 1) < 2 ^ (15 + 1 - 0) :=
    lt_of_le_of_lt (Nat.min_le_left _ _) (by decide)
  rw [State.f, State.arbLossNoted, (State.RecordsOnly.logOpen _ _ _ _).reg, ← State.f, State.count,
    State.setF_f_same _ _ _ (by decide) (by decide)]
  exact Nat.mod_eq_of_lt hlt

theorem not_detached {s : State} (h : s.f Reg.mbI3ccCfg 0 0 = 0) : ¬ s.f Reg.mbI3ccCfg 0 0 = 1 := by
  rw [h]
  decide

/-- An arbitration lost for the third time within a reading fails its sensor (R428). -/
theorem readOn_lostThird {s : State} {r : Reading} (hr : r.sensor < 3) (hon : s.f Reg.mbI3ccCfg 0 0 = 0)
    (h3 : 3 ≤ r.losses + 1) :
    s.readOn r [.arbLost] = s.arbLossNoted.readOn ⟨r.sensor + 1, 0, r.vals ++ [none]⟩ [] := by
  refine readOn_next hr ?_ []
  rw [State.sensorStep, if_neg (not_detached hon)]
  exact if_pos h3

/-- An earlier one waits for a retry. -/
theorem readOn_lostAgain {s : State} {r : Reading} (hr : r.sensor < 3) (hon : s.f Reg.mbI3ccCfg 0 0 = 0)
    (h3 : r.losses + 1 < 3) : s.readOn r [.arbLost] = { s.arbLossNoted with
      mgmt := { s.arbLossNoted.mgmt with reading := some { r with losses := r.losses + 1 } } } := by
  refine readOn_stops hr ?_ []
  rw [State.sensorStep, if_neg (not_detached hon)]
  exact if_neg (Nat.not_le.mpr h3)

theorem coolingReading_all {s : State} (hup : s.vctlUp = true) (hon : s.f Reg.capCoolCfg 0 0 = 1)
    (hidle : s.mgmt.reading = none) (a b c d e f : Byte) :
    s.coolingReading [.data a b true, .data c d true, .data e f true] =
      s.readingEnds [some (s.sensorValue 0 a b), some (s.sensorValue 1 c d), some (s.sensorValue 2 e f)] := by
  have hgo : (!s.vctlUp || decide (s.f Reg.capCoolCfg 0 0 = 0) || s.mgmt.reading.isSome) = false := by
    rw [hup, hon, hidle]
    rfl
  rw [State.coolingReading, hgo, if_neg Bool.false_ne_true, readOn_data (by decide), readOn_data (by decide),
    readOn_data (by decide), readOn_ends (Nat.le_refl 3)]
  rfl

/-! ### What a whole reading stores (R426) -/

theorem ofSigned_lt (w : Nat) (v : Int) : ofSigned w v < 2 ^ w := by
  have hpos : (0 : Int) < ((2 ^ w : Nat) : Int) := by exact_mod_cast Nat.two_pow_pos w
  have hlt := Int.emod_lt_of_pos v hpos
  have hge := Int.emod_nonneg v (ne_of_gt hpos)
  unfold ofSigned
  omega

theorem sensorStored_tin (s : State) (v : Int) : (s.sensorStored 0 v).f Reg.capCoolTemp 11 0 = ofSigned 12 v := by
  rw [State.sensorStored, if_pos rfl, State.setF_f_same _ _ _ (by decide) (by decide)]
  exact Nat.mod_eq_of_lt (ofSigned_lt 12 v)

theorem sensorStored_tout (s : State) (v : Int) : (s.sensorStored 1 v).f Reg.capCoolTemp 27 16 = ofSigned 12 v ∧
    (s.sensorStored 1 v).f Reg.capCoolTemp 11 0 = s.f Reg.capCoolTemp 11 0 := by
  rw [State.sensorStored, if_neg (by decide), if_pos rfl]
  refine ⟨(State.setF_f_same _ _ _ (by decide) (by decide)).trans (Nat.mod_eq_of_lt (ofSigned_lt 12 v)), ?_⟩
  rw [State.setF_f_below _ _ _ (by decide) (by decide) (by decide), State.withCap_f]

theorem sensorStored_flow (s : State) (v : Int) : (s.sensorStored 2 v).f Reg.capCoolFlow 15 0 = ofSigned 16 v := by
  rw [State.sensorStored, if_neg (by decide), if_neg (by decide), State.setF_f_same _ _ _ (by decide) (by decide)]
  exact Nat.mod_eq_of_lt (ofSigned_lt 16 v)

theorem resultsKept_all (s : State) (x y z : Int) {w : State} (hw : s.resultsKept [some x, some y, some z] = w) :
    w.f Reg.capCoolTemp 11 0 = ofSigned 12 x ∧ w.f Reg.capCoolTemp 27 16 = ofSigned 12 y ∧
      w.f Reg.capCoolFlow 15 0 = ofSigned 16 z ∧ ∀ n, n < 3 → tabGet natD w.cap.fails n = 0 := by
  obtain ⟨s0, hs0⟩ : ∃ s0, s0 = ({ s with mgmt := { s.mgmt with reading := none } } : State) := ⟨_, rfl⟩
  have hform : w = ((s0.sensorStored 0 x).sensorStored 1 y).sensorStored 2 z := by rw [← hw, hs0]; rfl
  have hlast := sensorStored_capOnly ((s0.sensorStored 0 x).sensorStored 1 y) 2 z
  rw [← hform] at hlast
  refine ⟨?_, ?_, ?_, fun n hn => ?_⟩
  · rw [hlast.f (by decide), (sensorStored_tout _ y).2, sensorStored_tin]
  · rw [hlast.f (by decide), (sensorStored_tout _ y).1]
  · rw [hform, sensorStored_flow]
  · rw [hform, sensorStored_fails, sensorStored_fails, sensorStored_fails]
    simp only [tabGet_set]
    have hcases : n = 0 ∨ n = 1 ∨ n = 2 := by omega
    rcases hcases with rfl | rfl | rfl <;> rfl

/-- A whole reading stores the three values, and ends every run of failures and a pause. -/
theorem readingEnds_all {s u : State} {x y z : Int} (hu : s.readingEnds [some x, some y, some z] = u) :
    u.mgmt.reading = none ∧ u.f Reg.capCoolTemp 11 0 = ofSigned 12 x ∧ u.f Reg.capCoolTemp 27 16 = ofSigned 12 y ∧
      u.f Reg.capCoolFlow 15 0 = ofSigned 16 z ∧ u.cap.paused = false ∧ (∀ n, n < 3 → tabGet natD u.cap.fails n = 0) ∧
      u.tiles = s.tiles ∧ u.parts = s.parts ∧ u.power = s.power := by
  generalize hw : s.resultsKept [some x, some y, some z] = w
  have hkept := resultsKept_capOnly s [some x, some y, some z]
  rw [hw] at hkept
  obtain ⟨htin, htout, hflow, hfails⟩ := resultsKept_all s x y z hw
  obtain ⟨hafter, hsame, hpaused, -⟩ := readingEnds_after hw hu
  refine ⟨hafter.reading.trans hkept.reading, (hafter.f (by decide) _ _).trans htin, (hafter.f (by decide) _ _).trans htout,
    (hafter.f (by decide) _ _).trans hflow, hpaused rfl, fun n hn => ?_, hafter.tiles.trans hkept.tiles,
    hafter.parts.trans hkept.parts, hafter.power.trans hkept.power⟩
  rw [hsame]
  exact hfails n hn

/-- What a reading of any results leaves. -/
theorem readingEnds_frame {s u : State} {vals : List (Option Int)} (hu : s.readingEnds vals = u) :
    u.mgmt.reading = none ∧ u.tiles = s.tiles ∧ u.parts = s.parts ∧ ∀ o, o ∉ readRegs → u.reg o = s.reg o := by
  have hkept := resultsKept_capOnly s vals
  obtain ⟨hafter, -⟩ := readingEnds_after (w := s.resultsKept vals) rfl hu
  have hall := hkept.trans (hafter.mono (by decide : heatRegs ⊆ readRegs))
  exact ⟨hall.reading, hall.tiles, hall.parts, hall.regs⟩

/-- A reading whose third sensor failed keeps the latest flow, and counts the failure; the third in a row pauses the heat
calculation (R387). -/
theorem readingEnds_flowFailed {s u : State} {vals : List (Option Int)} (hvals : vals.getD 2 none = none)
    (hu : s.readingEnds vals = u) : u.reg Reg.capCoolFlow = s.reg Reg.capCoolFlow ∧
      tabGet natD u.cap.fails 2 = tabGet natD s.cap.fails 2 + 1 ∧
      (tabGet natD s.cap.fails 2 = 2 → u.f Reg.capCoolStat 29 29 = 1 ∧ u.cap.paused = true) := by
  obtain ⟨s0, hs0⟩ : ∃ s0, s0 = ({ s with mgmt := { s.mgmt with reading := none } } : State) := ⟨_, rfl⟩
  obtain ⟨htin, hfails0⟩ := sensorEnds_capOnly s0 vals 0
  obtain ⟨htout, hfails1⟩ := sensorEnds_capOnly (s0.sensorEnds vals 0) vals 1
  have htemps := htin.trans htout
  generalize hv : (s0.sensorEnds vals 0).sensorEnds vals 1 = v at htemps hfails1
  obtain ⟨hfailed, hcount, hthird⟩ := sensorFailed_facts v 2
  have hw : s.resultsKept vals = v.sensorFailed 2 := by
    rw [← hv, ← sensorEnds_none hvals, hs0]
    rfl
  have hv2 : tabGet natD v.cap.fails 2 = tabGet natD s.cap.fails 2 := by
    rw [hfails1 2 (by decide), hfails0 2 (by decide), hs0]
  obtain ⟨hafter, hsame, -, hpause⟩ := readingEnds_after hw hu
  refine ⟨?_, ?_, fun h2 => ?_⟩
  · have hflow : v.reg Reg.capCoolFlow = s.reg Reg.capCoolFlow := (htemps.regs _ (by decide)).trans (by rw [hs0]; rfl)
    rw [hafter.regs _ (by decide), ← hflow]
    exact hfailed.regs _ (by decide)
  · rw [hsame, hcount, tabGet_set_same, hv2]
  · obtain ⟨hflag, hpaused⟩ := hthird (hv2.trans h2)
    have hnot : ((List.range 3).all fun n => (vals.getD n none).isSome) = false :=
      List.all_eq_false.mpr ⟨2, by decide, by rw [hvals]; decide⟩
    obtain ⟨hup, hregs⟩ := hpause hnot hpaused
    refine ⟨?_, hup⟩
    rw [State.f, hregs, ← State.f]
    exact hflag

end Sys2Proof.Machine
end

section
namespace Sys2Proof.Machine

/-! ### Thermal cycles (R390, R391) -/

theorem cycBin_lt (swing : Nat) : cycBin swing < 4 := by
  unfold cycBin
  repeat' split
  all_goals decide

/-- The bin of a half cycle from the peak and the valley of a run. -/
def CycRun.counted (c : CycRun) : Option Nat :=
  if c.valley + 320 < c.peak then some (cycBin (c.peak - c.valley)) else none

/-- A second counts the half cycle that it ends, or none. -/
theorem tick_counts (c : CycRun) (v : Nat) : (c.tick v).2 = none ∨ (c.tick v).2 = c.counted := by
  unfold CycRun.tick
  split
  · exact .inl rfl
  · extract_lets counted
    split
    · split
      · exact .inl rfl
      · split
        · exact .inr rfl
        · exact .inl rfl
    · split
      · exact .inl rfl
      · split
        · exact .inr rfl
        · exact .inl rfl

/-- A half cycle is counted in one of the four bins. -/
theorem tick_bin_lt {c : CycRun} {v b : Nat} (h : (c.tick v).2 = some b) : b < 4 := by
  rcases tick_counts c v with hnone | hcounted
  · rw [hnone] at h
    cases h
  · rw [hcounted, CycRun.counted] at h
    split at h
    · cases h
      exact cycBin_lt _
    · cases h

/-- The state after one source's second, but for the count of a half cycle. -/
def State.cycKept (s : State) (src t : Nat) : State :=
  { s with cap := { s.cap with cycs := tabSet cycRunD s.cap.cycs src ((tabGet cycRunD s.cap.cycs src).tick t).1 } }

/-- The register of a source's bin. -/
def cycReg (src b : Nat) : Nat := Reg.capTcycB + 16 * src + 4 * b

/-- What a source's second adds to register o, where k is the bin that it counts. -/
def halfCount (k : Option Nat) (src o : Nat) : Word := if ∃ b, k = some b ∧ o = cycReg src b then 1 else 0

theorem halfCount_none (src o : Nat) : halfCount none src o = 0 := if_neg (fun ⟨_, h, _⟩ => nomatch h)

theorem halfCount_some (b src o : Nat) : halfCount (some b) src o = if o = cycReg src b then 1 else 0 := by
  simp only [halfCount, Option.some.injEq, exists_eq_left']

theorem halfCount_own (k : Option Nat) (src b : Nat) : halfCount k src (cycReg src b) = if k = some b then 1 else 0 := by
  cases k with
  | none => rw [halfCount_none, if_neg (fun h => nomatch h)]
  | some b' =>
    have hreg : cycReg src b = cycReg src b' ↔ some b' = some b := by
      simp only [cycReg, Option.some.injEq]
      omega
    rw [halfCount_some]
    simp only [hreg]

/-- It adds nothing to a register that is none of its source's four bins'. -/
theorem halfCount_outside {k : Option Nat} (hk : ∀ b, k = some b → b < 4) {src o : Nat}
    (ho : ∀ b, b < 4 → o ≠ cycReg src b) : halfCount k src o = 0 :=
  if_neg fun ⟨b, hb, hreg⟩ => ho b (hk b hb) hreg

theorem cycTick_none {s : State} {src t : Nat} (h : ((tabGet cycRunD s.cap.cycs src).tick t).2 = none) :
    s.cycTick src t = s.cycKept src t := by
  unfold State.cycTick
  simp only [h]
  rfl

theorem cycTick_some {s : State} {src t b : Nat} (h : ((tabGet cycRunD s.cap.cycs src).tick t).2 = some b) :
    s.cycTick src t = ((s.cycKept src t).setReg (cycReg src b) (s.reg (cycReg src b) + 1)).trace 0xB1 Src.clocks [src, b] := by
  unfold State.cycTick
  simp only [h]
  rfl

/-- One source's second: its run goes on, and the bin of a half cycle counts it. -/
theorem cycTick_facts {s u : State} {src t : Nat} (hu : s.cycTick src t = u) :
    u.cap.cycs = tabSet cycRunD s.cap.cycs src ((tabGet cycRunD s.cap.cycs src).tick t).1 ∧ u.tiles = s.tiles ∧
      u.parts = s.parts ∧ ∀ o, u.reg o = s.reg o + halfCount ((tabGet cycRunD s.cap.cycs src).tick t).2 src o := by
  cases hb : ((tabGet cycRunD s.cap.cycs src).tick t).2 with
  | none =>
    rw [cycTick_none hb] at hu
    rw [← hu]
    refine ⟨rfl, rfl, rfl, fun o => ?_⟩
    rw [halfCount_none]
    exact (BitVec.add_zero _).symm
  | some b =>
    rw [cycTick_some hb] at hu
    have hframe : ((s.cycKept src t).setReg (cycReg src b) (s.reg (cycReg src b) + 1)).ChipOnly u [] :=
      (State.ChipOnly.refl _ _).andRecords (hu ▸ .trace _ _ _ _)
    refine ⟨congrArg Cap.cycs hframe.cap, hframe.tiles, hframe.parts, fun o => ?_⟩
    rw [hframe.regs o List.not_mem_nil, State.setReg_reg, halfCount_some]
    split
    · next ho => rw [ho]
    · exact (BitVec.add_zero _).symm

/-- A second of both sources (R390). -/
theorem thermalCycleTick_facts {s u : State} {die vat : Nat} (hup : s.vctlUp = true)
    (hu : s.thermalCycleTick die vat = u) :
    (∀ src v, (src = 0 ∧ v = die) ∨ (src = 1 ∧ v = vat) →
        tabGet cycRunD u.cap.cycs src = ((tabGet cycRunD s.cap.cycs src).tick v).1 ∧
        ∀ b, b < 4 → u.reg (Reg.capTcycB + 16 * src + 4 * b) = s.reg (Reg.capTcycB + 16 * src + 4 * b) +
          (if ((tabGet cycRunD s.cap.cycs src).tick v).2 = some b then 1 else 0)) ∧
      (∀ o, (∀ i, i < 8 → o ≠ Reg.capTcycB + 4 * i) → u.reg o = s.reg o) ∧ u.tiles = s.tiles ∧ u.parts = s.parts := by
  obtain ⟨hcyc0, htiles0, hparts0, hreg0⟩ := cycTick_facts (s := s) (src := 0) (t := die) rfl
  generalize hw : s.cycTick 0 die = w at hcyc0 htiles0 hparts0 hreg0
  have hu' : w.cycTick 1 vat = u := by
    rw [← hu, ← hw, State.thermalCycleTick, hup]
    rfl
  obtain ⟨hcyc1, htiles1, hparts1, hreg1⟩ := cycTick_facts hu'
  have hrun : tabGet cycRunD w.cap.cycs 1 = tabGet cycRunD s.cap.cycs 1 := by
    rw [hcyc0, tabGet_set_ne _ _ _ (by decide)]
  rw [hrun] at hcyc1 hreg1
  have hsum : ∀ o, u.reg o = s.reg o + halfCount ((tabGet cycRunD s.cap.cycs 0).tick die).2 0 o +
      halfCount ((tabGet cycRunD s.cap.cycs 1).tick vat).2 1 o := fun o => by rw [hreg1, hreg0]
  refine ⟨fun src v h => ?_, fun o ho => ?_, htiles1.trans htiles0, hparts1.trans hparts0⟩
  · rcases h with ⟨rfl, rfl⟩ | ⟨rfl, rfl⟩
    · refine ⟨by rw [hcyc1, tabGet_set_ne _ _ _ (by decide), hcyc0, tabGet_set_same], fun b hb => ?_⟩
      have hother : halfCount ((tabGet cycRunD s.cap.cycs 1).tick vat).2 1 (cycReg 0 b) = 0 :=
        halfCount_outside (fun _ => tick_bin_lt) fun b' _ => by unfold cycReg; omega
      exact (hsum (cycReg 0 b)).trans (by rw [hother, halfCount_own]; exact BitVec.add_zero _)
    · refine ⟨by rw [hcyc1, tabGet_set_same], fun b hb => ?_⟩
      have hother : halfCount ((tabGet cycRunD s.cap.cycs 0).tick die).2 0 (cycReg 1 b) = 0 :=
        halfCount_outside (fun _ => tick_bin_lt) fun b' _ => by unfold cycReg; omega
      exact (hsum (cycReg 1 b)).trans (by
        rw [hother, halfCount_own]
        exact congrArg (· + _) (BitVec.add_zero _))
  · have hnone : ∀ src, src < 2 → ∀ b, b < 4 → o ≠ cycReg src b := fun src hsrc b hb => by
      have hi := ho (4 * src + b) (by omega)
      unfold cycReg
      omega
    rw [hsum, halfCount_outside (fun _ => tick_bin_lt) (hnone 0 (by decide)),
      halfCount_outside (fun _ => tick_bin_lt) (hnone 1 (by decide))]
    exact (BitVec.add_zero _).trans (BitVec.add_zero _)

/-! ### The thermal-cycle record (R391) -/

/-- The state with an hour of power-on counted. -/
def State.hourCounted (s : State) : State := s.setF Reg.capTcycStat 23 0 (s.f Reg.capTcycStat 23 0 + 1)

theorem hourCounted_hours (s : State) :
    s.hourCounted.f Reg.capTcycStat 23 0 = (s.f Reg.capTcycStat 23 0 + 1) % 2 ^ 24 :=
  State.setF_f_same _ _ _ (by decide) (by decide)

/-- The record has the bins as they are, and the hour just counted. -/
theorem hourCounted_record (s : State) (writes : Nat) : s.hourCounted.tcycRecord writes =
    (List.range 8).map (fun i => s.reg (Reg.capTcycB + 4 * i)) ++
      [BitVec.ofNat 32 (s.hourCounted.f Reg.capTcycStat 23 0), BitVec.ofNat 32 writes, BitVec.ofNat 32 s.time,
       BitVec.ofNat 32 (s.time / 2 ^ 32)] := by
  have hbins : (List.range 8).map (fun i => s.hourCounted.reg (Reg.capTcycB + 4 * i)) =
      (List.range 8).map (fun i => s.reg (Reg.capTcycB + 4 * i)) := List.map_congr_left fun i hi => by
    have hlt := List.mem_range.mp hi
    exact State.setF_reg_ne _ _ _ _ (by simp only [Reg.capTcycB, Reg.capTcycStat]; omega)
  rw [State.tcycRecord, hbins]
  rfl

/-- A failed write sets NV_FAIL, and where VCTL is ready it is logged and alerts. -/
theorem writeTcyc_fails (s : State) : (s.setF Reg.capTcycStat 31 31 1).ChipOnly (s.writeTcyc false) [Reg.mbAlert] := by
  have hsame := State.ChipOnly.refl (s.setF Reg.capTcycStat 31 31 1) [Reg.mbAlert]
  rw [State.writeTcyc, if_neg Bool.false_ne_true]
  exact .ite ((hsame.andRecords (.logSev _ _ _ _ _)).andAlert (by decide)) hsame

theorem tcycRecordWrite_eq {s : State} (hon : s.power.stage ≠ .off) (ok : Bool) :
    s.tcycRecordWrite ok = s.hourCounted.writeTcyc ok := if_neg hon

/-- A written record replaces the older of the two copies, and a failed write sets NV_FAIL (R391). -/
theorem tcycRecordWrite_facts {s u : State} {ok : Bool} (hon : s.power.stage ≠ .off) (hu : s.tcycRecordWrite ok = u) :
    u.f Reg.capTcycStat 23 0 = (s.f Reg.capTcycStat 23 0 + 1) % 2 ^ 24 ∧
      (ok = true → u.fw.nvWrites = s.fw.nvWrites + 1 ∧ u.fw.nvCycles =
        ((List.range 8).map (fun i => s.reg (Reg.capTcycB + 4 * i)) ++
          [BitVec.ofNat 32 (u.f Reg.capTcycStat 23 0), BitVec.ofNat 32 (s.fw.nvWrites + 1), BitVec.ofNat 32 s.time,
           BitVec.ofNat 32 (s.time / 2 ^ 32)]) :: s.fw.nvCycles.take 1) ∧
      (ok = false → u.fw = s.fw ∧ u.f Reg.capTcycStat 31 31 = 1) ∧ u.tiles = s.tiles ∧ u.parts = s.parts := by
  have hhours := hourCounted_hours s
  have hrecord := hourCounted_record s (s.fw.nvWrites + 1)
  have hfw : s.hourCounted.fw = s.fw := rfl
  have htiles : s.hourCounted.tiles = s.tiles := rfl
  have hparts : s.hourCounted.parts = s.parts := rfl
  rw [tcycRecordWrite_eq hon] at hu
  generalize s.hourCounted = w at hhours hrecord hfw htiles hparts hu
  cases ok with
  | true =>
    have hform : u = { w with fw := { w.fw with
        nvCycles := (w.tcycRecord (w.fw.nvWrites + 1) :: w.fw.nvCycles).take 2, nvWrites := w.fw.nvWrites + 1 } } :=
      hu.symm.trans (if_pos rfl)
    have hsame : u.f Reg.capTcycStat 23 0 = w.f Reg.capTcycStat 23 0 := by rw [hform]; rfl
    have hwrites : u.fw.nvWrites = w.fw.nvWrites + 1 := by rw [hform]
    have hcopies : u.fw.nvCycles = w.tcycRecord (w.fw.nvWrites + 1) :: w.fw.nvCycles.take 1 := by rw [hform]; rfl
    have hchip : u.tiles = w.tiles ∧ u.parts = w.parts := by rw [hform]; exact ⟨rfl, rfl⟩
    rw [hfw] at hwrites hcopies
    refine ⟨hsame.trans hhours, fun _ => ⟨hwrites, ?_⟩, fun h => absurd h (by decide),
      hchip.1.trans htiles, hchip.2.trans hparts⟩
    rw [hcopies, hrecord, hsame]
  | false =>
    have hframe := writeTcyc_fails w
    rw [hu] at hframe
    refine ⟨?_, fun h => absurd h (by decide), fun _ => ⟨?_, ?_⟩,
      hframe.tiles.trans ((State.setF_tiles _ _ _ _ _).trans htiles),
      hframe.parts.trans ((State.setF_parts _ _ _ _ _).trans hparts)⟩
    · rw [hframe.f (by decide), State.setF_f_below _ _ _ (by decide) (by decide) (by decide)]
      exact hhours
    · rw [hframe.fw, State.setF_fw, hfw]
    · rw [hframe.f (by decide), State.setF_f_same _ _ _ (by decide) (by decide)]
      rfl

end Sys2Proof.Machine
end

section
namespace Sys2Proof.Machine

/-! ### Each step of the temperatures and the cooling reading, as a whole -/

theorem setTile_vctlUp (s : State) (t : Nat) (x : Tile) : (s.setTile t x).vctlUp = s.vctlUp := by
  rw [State.vctlUp, State.setTile_power, State.vctlUp]

/-- A die reading (R384, R385); a second one in a row at or above 115 °C trips. -/
theorem dieTempRead_facts {s u : State} {t temp : Nat} (ht : t < tileCount) (hup : s.vctlUp = true) (htemp : temp < 4096)
    (hu : s.dieTempRead t temp = u) :
    (¬(16 * 115 ≤ temp ∧ (s.tile t).tripSeen = true) → s.dieNoted t temp = u) ∧
      (16 * 115 ≤ temp ∧ (s.tile t).tripSeen = true → u.power.stage = .held ∧ u.power.thermtripN = true ∧ u.parts = [] ∧
        u.reg Reg.capAonCause = (if s.f Reg.capAonCause 31 31 = 1 then s.reg Reg.capAonCause
          else BitVec.ofNat 32 (0x0900 + 2 ^ 16 * 0x7FF + 2 ^ 31))) := by
  rw [dieTempRead_eq ht hup htemp] at hu
  refine ⟨fun hsafe => (if_neg hsafe).symm.trans hu, fun htrip => ?_⟩
  rw [if_pos htrip] at hu
  have hframe := dieNoted_chipOnly s t temp
  have hcause : (s.dieNoted t temp).reg Reg.capAonCause = s.reg Reg.capAonCause :=
    (hframe.regs _ (by decide)).trans (State.setTile_reg _ _ _ _)
  have hvctl : (s.dieNoted t temp).vctlUp = true := hframe.vctlUp.trans ((setTile_vctlUp s t _).trans hup)
  obtain ⟨hheld, hout, hparts, hreg⟩ := thermalTrip_facts hvctl hu
  rw [State.f, hcause] at hreg
  exact ⟨hheld, hout, hparts, hreg⟩

/-- The readings of a tile's twelve layers below a trip (R143, R384). -/
theorem vatNoted_facts {s u : State} {t : Nat} {ls : List Nat} (hne : ls ≠ []) (hlt : ∀ l ∈ ls, l < 4096)
    (hu : s.vatNoted t ls = u) :
    (u.tile t).layerTemps = ls ∧ (∀ l ∈ ls, l ≤ (u.tile t).f Reg.capTileTemp 27 16) ∧
      (u.tile t).f Reg.capTileTemp 27 16 ∈ ls ∧ (u.tile t).f Reg.capTileTemp 11 0 = (s.tile t).f Reg.capTileTemp 11 0 ∧
      (u.tile t).f Reg.vatStatus 0 0 = nextHot ((s.tile t).f Reg.vatStatus 0 0) ls ∧
      (∀ t', t' ≠ t → u.tile t' = s.tile t') ∧ u.parts = s.parts ∧ u.power = s.power := by
  have hframe := vatNoted_chipOnly s t ls
  rw [hu] at hframe
  have htile : u.tile t = (s.tile t).vatRead ls := (hframe.tile t).trans (State.setTile_tile_same s t _)
  obtain ⟨htop, hdie, hhot⟩ := vatRead_facts (s.tile t) hne hlt
  obtain ⟨hmax, hmem⟩ := hottest_reading hne
  rw [htile, htop]
  exact ⟨rfl, hmax, hmem, hdie, hhot, fun t' ht' => (hframe.tile t').trans (State.setTile_tile_ne s _ ht'),
    hframe.parts.trans (State.setTile_parts s t _), hframe.power.trans (State.setTile_power s t _)⟩

/-- The layers' readings; one at or above 105 °C trips if the readings before had one too. -/
theorem vatTempRead_facts {s u : State} {t : Nat} {ls : List Nat} (ht : t < tileCount) (hup : s.vctlUp = true)
    (hlen : ls.length = 12) (hlt : ∀ l ∈ ls, l < 4096) (hu : s.vatTempRead t ls = u) :
    (¬((∃ l ∈ ls, 16 * 105 ≤ l) ∧ (∃ b ∈ (s.tile t).vatTripSeen, b = true)) → s.vatNoted t ls = u) ∧
      ((∃ l ∈ ls, 16 * 105 ≤ l) ∧ (∃ b ∈ (s.tile t).vatTripSeen, b = true) →
        u.power.stage = .held ∧ u.power.thermtripN = true ∧ u.parts = []) := by
  rw [vatTempRead_eq ht hup hlen hlt] at hu
  refine ⟨fun hsafe => (if_neg hsafe).symm.trans hu, fun htrip => ?_⟩
  rw [if_pos htrip] at hu
  have hvctl : (s.vatNoted t ls).vctlUp = true := (vatNoted_chipOnly s t ls).vctlUp.trans ((setTile_vctlUp s t _).trans hup)
  obtain ⟨hheld, hout, hparts, -⟩ := thermalTrip_facts hvctl hu
  exact ⟨hheld, hout, hparts⟩

/-- A tick of a tile's thermal loop (R385): the tile's THERM moves and its grant follows, and a THERM below 64 shows. -/
theorem thermalLoopTick_facts {s u : State} {t th : Nat} (ht : t < tileCount) (hup : s.vctlUp = true)
    (hth : th = nextTherm (s.thermLimit 8 110) (s.thermLimit 24 100) ((s.tile t).f Reg.capTileTemp 11 0)
      ((s.tile t).f Reg.capTileTemp 27 16) ((s.tile t).f Reg.capTileGrant 22 16))
    (hu : s.thermalLoopTick t = u) :
    (u.tile t).f Reg.capTileGrant 22 16 = th ∧ (u.tile t).grant = min (s.tile t).grant th ∧
      (u.tile t).f Reg.capTileGrant 14 8 = (s.tile t).f Reg.capTileGrant 14 8 ∧
      (th < 64 → u.f Reg.capThermStat 29 29 = 1) ∧ (∀ t', t' ≠ t → u.tile t' = s.tile t') ∧ u.parts = s.parts ∧
      u.power = s.power := by
  have hfield : th < 2 ^ (22 + 1 - 16) := by
    rw [hth]
    exact nextTherm_lt _ _ _ _ (fld_lt _ 22 16)
  rw [thermalLoopTick_eq ht hup, ← hth] at hu
  obtain ⟨htherm, hgrant, hrail⟩ := thermHeld_facts (s.tile t) hfield
  have hset := State.setTile_tile_same s t ((s.tile t).thermHeld th)
  have hother : ∀ t', t' ≠ t → (s.setTile t ((s.tile t).thermHeld th)).tile t' = s.tile t' :=
    fun t' ht' => State.setTile_tile_ne s _ ht'
  have hparts := State.setTile_parts s t ((s.tile t).thermHeld th)
  have hpower := State.setTile_power s t ((s.tile t).thermHeld th)
  generalize s.setTile t ((s.tile t).thermHeld th) = w at hset hother hparts hpower hu
  dsimp only at hu
  have hsame : w.ChipOnly u [Reg.capThermStat] := hu ▸ (State.ChipOnly.refl w _).andF (by decide) _ _ _
  rw [hsame.tile, hset]
  refine ⟨htherm, hgrant, hrail, fun hlow => ?_, fun t' ht' => (hsame.tile t').trans (hother t' ht'),
    hsame.parts.trans hparts, hsame.power.trans hpower⟩
  have hany := any_throttled (s := w) (t := t) (by rw [hset, htherm]; exact hlow)
  rw [← hu, hany, State.setF_f_same _ _ _ (by decide) (by decide)]
  rfl

/-- A retry whose arbitration is lost again (R427, R428). -/
theorem sensorRetry_lost {s u : State} {r : Reading} (hup : s.vctlUp = true) (hr : s.mgmt.reading = some r)
    (hsensor : r.sensor < 3) (hon : s.f Reg.mbI3ccCfg 0 0 = 0) (hu : s.sensorRetry [.arbLost] = u) :
    u.f Reg.mbI3cStat 15 0 = min 0xFFFF (s.f Reg.mbI3cStat 15 0 + 1) ∧
      (r.losses + 1 < 3 → u.mgmt.reading = some { r with losses := r.losses + 1 }) ∧
      (3 ≤ r.losses + 1 → r.sensor < 2 → u.mgmt.reading = some ⟨r.sensor + 1, 0, r.vals ++ [none]⟩) ∧
      u.tiles = s.tiles ∧ u.parts = s.parts := by
  have hgo : s.sensorRetry [.arbLost] = s.readOn r [.arbLost] := by
    rw [State.sensorRetry, hr]
    exact if_pos hup
  rw [hgo] at hu
  have hnoted := arbLossNoted_chipOnly s
  have hcount := arbLossNoted_count s
  by_cases h3 : 3 ≤ r.losses + 1
  · rw [readOn_lostThird hsensor hon h3] at hu
    generalize s.arbLossNoted = w at hnoted hcount hu
    have hagain : ¬ r.losses + 1 < 3 := Nat.not_lt.mpr h3
    by_cases hlast : r.sensor < 2
    · rw [readOn_waits (Nat.succ_lt_succ hlast)] at hu
      rw [← hu]
      exact ⟨hcount, fun h => absurd h hagain, fun _ _ => rfl, hnoted.tiles, hnoted.parts⟩
    · rw [readOn_ends (Nat.succ_le_succ (Nat.not_lt.mp hlast))] at hu
      obtain ⟨-, htiles, hparts, hregs⟩ := readingEnds_frame hu
      refine ⟨?_, fun h => absurd h hagain, fun _ h => absurd h hlast, htiles.trans hnoted.tiles,
        hparts.trans hnoted.parts⟩
      rw [State.f, hregs _ (by decide), ← State.f]
      exact hcount
  · rw [readOn_lostAgain hsensor hon (Nat.not_le.mp h3)] at hu
    generalize s.arbLossNoted = w at hnoted hcount hu
    rw [← hu]
    exact ⟨hcount, fun _ => rfl, fun h => absurd h h3, hnoted.tiles, hnoted.parts⟩

/-- A sensor that times out fails, and the reading goes on with the next, or ends (R428). -/
theorem sensorTimeout_facts {s u : State} {r : Reading} (hup : s.vctlUp = true) (hr : s.mgmt.reading = some r)
    (hsensor : r.sensor < 3) (hu : s.sensorTimeout [] = u) :
    (r.sensor < 2 → u = { s with mgmt := { s.mgmt with reading := some ⟨r.sensor + 1, 0, r.vals ++ [none]⟩ } }) ∧
      (r.sensor = 2 → u.mgmt.reading = none ∧ (r.vals.length = 2 → u.reg Reg.capCoolFlow = s.reg Reg.capCoolFlow ∧
        tabGet natD u.cap.fails 2 = tabGet natD s.cap.fails 2 + 1 ∧
        (tabGet natD s.cap.fails 2 = 2 → u.f Reg.capCoolStat 29 29 = 1 ∧ u.cap.paused = true))) := by
  have hgo : s.sensorTimeout [] = s.readOn ⟨r.sensor + 1, 0, r.vals ++ [none]⟩ [] := by
    rw [State.sensorTimeout, hr]
    exact if_pos (by rw [hup, decide_eq_true hsensor]; rfl)
  rw [hgo] at hu
  refine ⟨fun hnext => ?_, fun hlast => ?_⟩
  · rw [readOn_waits (Nat.succ_lt_succ hnext)] at hu
    exact hu.symm
  · rw [readOn_ends (Nat.succ_le_succ hlast.ge)] at hu
    refine ⟨(readingEnds_frame hu).1, fun hlen => readingEnds_flowFailed ?_ hu⟩
    rw [← hlen, List.getD_eq_getElem?_getD, List.getElem?_concat_length]
    rfl

end Sys2Proof.Machine
end

section
open Sys2Proof Sys2Proof.Machine

/-- Settles O56, a clause to a step: the readings of temperatures and the thermal loop, then the cooling reading with its
lost arbitrations and its timeouts, then the thermal cycles and their record. -/
theorem temperaturesAndCooling : Obligations.TemperaturesAndCooling := by
  unfold Obligations.TemperaturesAndCooling
  refine ⟨⟨?die, ?vat, ?loop⟩, ⟨?cooling, ?retry, ?timeout⟩, ?cycle, ?record⟩
  case die =>
    rintro s t temp x rfl ht hup htemp
    obtain ⟨hsafe, htrip⟩ := dieTempRead_facts ht hup htemp rfl
    exact ⟨_, rfl, fun h => dieNoted_facts (hsafe h), htrip⟩
  case vat =>
    rintro s t ls x rfl ht hup hlen hlt
    have hne : ls ≠ [] := List.ne_nil_of_length_pos (by rw [hlen]; decide)
    obtain ⟨hsafe, htrip⟩ := vatTempRead_facts ht hup hlen hlt rfl
    refine ⟨_, rfl, fun h => ?_, htrip⟩
    obtain ⟨htemps, hmax, hmem, hdie, hhot, hother, hparts, hpower⟩ := vatNoted_facts hne hlt (hsafe h)
    exact ⟨htemps, hmax, hmem, hdie, fun ha => hhot.trans (nextHot_above ha), fun hb => hhot.trans (nextHot_below hb),
      fun ha hb => hhot.trans (nextHot_between ha hb), hother, hparts, hpower⟩
  case loop =>
    rintro s t x ld lv d v rfl ht hup rfl rfl rfl rfl
    obtain ⟨htherm, hgrant, hrail, hflag, hframe⟩ := thermalLoopTick_facts ht hup rfl rfl
    exact ⟨_, _, rfl, rfl, htherm, hgrant.trans (congrArg _ htherm.symm), hrail, fun h => hflag (htherm ▸ h), hframe⟩
  case cooling =>
    intro s a b c d e f hup hon hidle
    exact ⟨_, congrArg Host.Outcome.next (coolingReading_all hup hon hidle a b c d e f), readingEnds_all rfl⟩
  case retry =>
    intro s r hup hr hsensor hon
    exact ⟨_, rfl, sensorRetry_lost hup hr hsensor hon rfl⟩
  case timeout =>
    intro s r hup hr hsensor
    exact ⟨_, rfl, sensorTimeout_facts hup hr hsensor rfl⟩
  case cycle =>
    intro s die vat hup
    exact ⟨_, rfl, thermalCycleTick_facts hup rfl⟩
  case record =>
    intro s ok hon
    exact ⟨_, rfl, tcycRecordWrite_facts hon rfl⟩

end

section
namespace Sys2Proof.Machine

/-! ### Every write keeps a memory canonical -/

theorem memWrite_wf {m : List Host.Cell} {a : Nat} {l : List Byte} (h : Memory.wf m = true) :
    Memory.wf (memWrite m a l) = true := by
  induction l generalizing m a with
  | nil => exact h
  | cons b l ih => exact ih (tabSet_wf byteD a b h)

theorem putBytes_wf {keep : Nat → Bool} {m : List Host.Cell} {a : Nat} {l : List Byte} (h : Memory.wf m = true) :
    Memory.wf (putBytes keep m a l) = true := by
  induction l generalizing m a with
  | nil => exact h
  | cons b l ih =>
    refine ih ?_
    split
    exacts [h, tabSet_wf byteD a b h]

theorem tabSorted_filter {α : Type} [DecidableEq α] {p : Nat × α → Bool} {m : Tab α} {lo : Nat}
    (h : tabSorted lo m = true) : tabSorted lo (m.filter p) = true := by
  induction m generalizing lo with
  | nil => rfl
  | cons x m ih =>
    obtain ⟨hlo, hm⟩ := Bool.and_eq_true_iff.mp h
    rw [List.filter_cons]
    split
    · exact Bool.and_eq_true_iff.mpr ⟨hlo, ih hm⟩
    · exact ih (tabSorted_mono (by have := of_decide_eq_true hlo; omega) hm)

theorem memZero_wf {m : List Host.Cell} {a n : Nat} (h : Memory.wf m = true) : Memory.wf (memZero m a n) = true := by
  obtain ⟨hs, hd⟩ := Bool.and_eq_true_iff.mp h
  refine Bool.and_eq_true_iff.mpr ⟨tabSorted_filter hs, List.all_eq_true.mpr fun x hx => ?_⟩
  exact List.all_eq_true.mp hd x (List.mem_of_mem_filter hx)

/-! Every operation `State.op` keeps the memories canonical; the lemma that says so is `State.memOk.op`, so that a
composition of operations is `h.op₁.op₂`. Most only update other fields; what writes is a trace record, the Vat, a Pail
slice, zeroing, and the bytes that a command copies. -/

namespace State.memOk
variable {s : State}

/-! ### Updates, choices and runs of operations -/

/-- An update of the state whose memories are canonical. -/
theorem write {m m' : List Host.Cell} (hm : Memory.wf m = true) (hm' : Memory.wf m' = true)
    {pending tiles parts chip chipLatch pairs logWins timeAcc ticks signals zeroing ingressIn ingressQ readQ
    homeGot mesh ports arrivals tags tagQ recent pool meshStop fabGen gmSet syncRun syncAt partSys power cap fw
    mgmt console hostRead hostUr freeCount} :
    State.memOk ⟨pending, tiles, parts, chip, chipLatch, pairs, logWins, timeAcc, ticks, signals, zeroing,
      m, m', ingressIn, ingressQ, readQ, homeGot, mesh, ports, arrivals, tags, tagQ, recent, pool,
      meshStop, fabGen, gmSet, syncRun, syncAt, partSys, power, cap, fw, mgmt, console, hostRead, hostUr,
      freeCount⟩ := ⟨hm, hm'⟩

/-- An update that leaves the memories as they are. -/
theorem update (h : s.memOk)
    {pending tiles parts chip chipLatch pairs logWins timeAcc ticks signals zeroing ingressIn ingressQ readQ
    homeGot mesh ports arrivals tags tagQ recent pool meshStop fabGen gmSet syncRun syncAt partSys power cap fw
    mgmt console hostRead hostUr freeCount} :
    State.memOk ⟨pending, tiles, parts, chip, chipLatch, pairs, logWins, timeAcc, ticks, signals, zeroing,
      s.mem, s.hostMem, ingressIn, ingressQ, readQ, homeGot, mesh, ports, arrivals, tags, tagQ, recent, pool,
      meshStop, fabGen, gmSet, syncRun, syncAt, partSys, power, cap, fw, mgmt, console, hostRead, hostUr,
      freeCount⟩ := write h.1 h.2

theorem ite {c : Prop} [Decidable c] {u v : State} (hu : u.memOk) (hv : v.memOk) : (if c then u else v).memOk := by
  split
  exacts [hu, hv]

theorem iteFst {β : Type} {c : Prop} [Decidable c] {u v : State × β} (hu : u.1.memOk) (hv : v.1.memOk) :
    (if c then u else v).1.memOk := by
  split
  exacts [hu, hv]

theorem foldl {α : Type} {f : State → α → State} {l : List α} (h : s.memOk)
    (hf : ∀ {s : State} (a : α), s.memOk → (f s a).memOk) : (l.foldl f s).memOk :=
  List.foldlRecOn (motive := State.memOk) l f h fun _ h a _ => hf a h

theorem foldlFst {α β : Type} {f : State × β → α → State × β} {l : List α} {r : State × β} (h : r.1.memOk)
    (hf : ∀ {r : State × β} (a : α), r.1.memOk → (f r a).1.memOk) : (l.foldl f r).1.memOk :=
  List.foldlRecOn (motive := fun r => r.1.memOk) l f h fun _ h a _ => hf a h

theorem foldN {f : Nat → State → State} {n : Nat} (h : s.memOk)
    (hf : ∀ {s : State} (i : Nat), s.memOk → (f i s).memOk) : (foldN f n s).memOk := by
  induction n with
  | zero => exact h
  | succ n ih => exact hf n ih

/-! ### The operations of Machine/State.lean -/

theorem setTile (h : s.memOk) {t x} : (s.setTile t x).memOk := .update h

theorem setPart (h : s.memOk) {n x} : (s.setPart n x).memOk := .update h

theorem setSys (h : s.memOk) {n x} : (s.setSys n x).memOk := .update h

theorem setPair (h : s.memOk) {p x} : (s.setPair p x).memOk := .update h

theorem setPort (h : s.memOk) {p x} : (s.setPort p x).memOk := .update h

theorem setReg (h : s.memOk) {o v} : (s.setReg o v).memOk := .update h

theorem setF (h : s.memOk) {o hi lo v} : (s.setF o hi lo v).memOk := h.setReg

theorem modTile (h : s.memOk) {t f} : (s.modTile t f).memOk := h.setTile

theorem modPart (h : s.memOk) {n f} : (s.modPart n f).memOk := h.setPart

theorem modPort (h : s.memOk) {p f} : (s.modPort p f).memOk := h.setPort

theorem modSys (h : s.memOk) {n f} : (s.modSys n f).memOk := h.setSys

theorem modPair (h : s.memOk) {p f} : (s.modPair p f).memOk := h.setPair

theorem count (h : s.memOk) {o hi lo n} : (s.count o hi lo n).memOk := h.setF

/-! ### The operations of Machine/Ops.lean -/

theorem inTile (h : s.memOk) {t f} : (s.inTile t f).memOk := .ite h.modTile h

theorem irqRoot (h : s.memOk) : s.irqRoot.memOk := .update h

theorem irqSvc (h : s.memOk) : s.irqSvc.memOk := .update h

/-! ### The operations of Machine/Log.lean -/

theorem print (h : s.memOk) {l} : (s.print l).memOk := .ite (.update h) (.update h)

theorem writeLog (h : s.memOk) {w rep} : (s.writeLog w rep).memOk := .foldl (.ite h.print h) fun _ h => h.modPair

theorem logFlush (h : s.memOk) {code src part} : (s.logFlush code src part).memOk := by
  dsimp only [State.logFlush]
  split
  exacts [h, .ite h <| .ite (.update h) (.update h.writeLog)]

theorem logTag (h : s.memOk) {code src sev part tag args} : (s.logTag code src sev part tag args).memOk :=
  .ite h <| .ite (.update h.logFlush) <| .ite (.update h.logFlush.writeLog) h.logFlush

theorem log (h : s.memOk) {code src sev part args} : (s.log code src sev part args).memOk := h.logTag

theorem logOpen (h : s.memOk) {code src part} : (s.logOpen code src part).memOk := .log (.update h)

theorem logSev (h : s.memOk) {code src sev part} : (s.logSev code src sev part).memOk := .log (.update h)

theorem traceTo (h : s.memOk) {pair point core args} : (s.traceTo pair point core args).memOk := by
  unfold State.traceTo
  split
  exacts [h, ⟨h.1, memWrite_wf h.2⟩]

theorem trace (h : s.memOk) {point core args} : (s.trace point core args).memOk := h.traceTo

theorem tracePart (h : s.memOk) {point core n args} : (s.tracePart point core n args).memOk := h.traceTo.traceTo

theorem tileStep (h : s.memOk) {t f} : (s.tileStep t f).memOk := by
  dsimp only [State.tileStep]
  refine .ite ?_ h.setTile
  split
  exacts [h.setTile.tracePart, h.setTile]

theorem postRsp (h : s.memOk) {p req code res} : (s.postRsp p req code res).memOk :=
  .ite h.modPair.trace h.modPair.tracePart

theorem loadSet (h : s.memOk) {n} : (s.loadSet n).memOk := .tracePart (.update h)

theorem asService (h : s.memOk) {n} : (s.asService n).memOk := .ite h h.loadSet

theorem asAgent (h : s.memOk) {a} : (s.asAgent a).memOk := by
  unfold State.asAgent
  split
  exacts [h.asService, h]

/-! ### The operations of Machine/Phase.lean -/

theorem stageIs (h : s.memOk) {n} : (s.stageIs n).memOk := h.modPair.print

theorem inClock (h : s.memOk) {t f} (hf : ∀ {s : State}, s.memOk → (f s).memOk) : (s.inClock t f).memOk :=
  .ite (hf h) h

theorem phaseEnters (h : s.memOk) {n ph} : (s.phaseEnters n ph).memOk :=
  .tracePart (.modPart (.modSys (.ite h.modPart h)))

theorem phaseIdle (h : s.memOk) {n} : (s.phaseIdle n).memOk := h.modSys.modPart

theorem phaseMark (h : s.memOk) {t val} : (s.phaseMark t val).memOk := by
  dsimp only [State.phaseMark]
  split
  exacts [.ite h h.modSys, h]

theorem phaseMarkerApply (h : s.memOk) {n} : (s.phaseMarkerApply n).memOk := by
  dsimp only [State.phaseMarkerApply]
  split
  exacts [h, h.modSys.foldl fun _ h => h.phaseEnters]

theorem stepStatsClear (h : s.memOk) {n val} : (s.stepStatsClear n val).memOk := .ite h h.modPart.modSys

theorem demandForget (h : s.memOk) {n val} : (s.demandForget n val).memOk := .ite h h.modPart

/-! ### The operations of Machine/Alert.lean -/

theorem alertSync (h : s.memOk) : s.alertSync.memOk := .ite h <| .ite (.update h.setF) h.setF

theorem aonCause (h : s.memOk) {code rail} : (s.aonCause code rail).memOk := .ite h h.setReg

theorem railSet (h : s.memOk) {i o hi lo v} : (s.railSet i o hi lo v).memOk := .ite h.modTile h.setF

theorem railMove (h : s.memOk) {i} : (s.railMove i).memOk := h.railSet

theorem tileRailsMove (h : s.memOk) : s.tileRailsMove.memOk := h.foldl fun _ h => h.railMove

theorem railUp (h : s.memOk) {i} : (s.railUp i).memOk := .update h.railMove.railSet.railSet.railSet.railSet

theorem groupUp (h : s.memOk) {g} : (s.groupUp g).memOk := .update (h.foldl fun _ h => h.railUp)

/-! ### The operations of Machine/Vat.lean -/

theorem vatRepairs (h : s.memOk) {c l} : (s.vatRepairs c l).memOk := by
  dsimp only [State.vatRepairs]
  refine h.foldl fun _ h => ?_
  split
  exacts [.tracePart (.ite h.logOpen h), .trace (.ite h.logOpen h)]

theorem txnServed (h : s.memOk) {home t id} : (s.txnServed home t id).memOk := .ite (.update h.modTile) h.modTile

theorem vatPerform (h : s.memOk) {e} : (s.vatPerform e).memOk := by
  dsimp only [State.vatPerform]
  split
  exacts [.txnServed (.modTile (.write (memWrite_wf h.1) h.2)), .write (memWrite_wf h.1) h.2]

theorem vatEnter (h : s.memOk) {c e} : (s.vatEnter c e).memOk := .ite h.modTile.vatPerform h.modTile

theorem vatRefill (h : s.memOk) {c n} : (s.vatRefill c n).memOk := by
  induction n generalizing s with
  | zero => exact h
  | succ n ih =>
    unfold State.vatRefill
    repeat' split
    exacts [h, h, ih (h.modTile.foldl fun _ h => h.vatEnter)]

theorem vatArrive (h : s.memOk) {c g} : (s.vatArrive c g).memOk := h.modTile.vatRefill

theorem setArray (h : s.memOk) {sec bs} : (s.setArray sec bs).memOk := .write (memWrite_wf h.1) h.2

theorem vatStartAt (h : s.memOk) {c i upsets} : (s.vatStartAt c i upsets).memOk := by
  dsimp only [State.vatStartAt]
  split
  · exact h
  · refine .ite (.ite (.setArray (.vatRepairs (.setTile (.update h)))) (.vatRepairs (.setTile (.update h)))) ?_
    split
    exacts [.txnServed (.modTile (.vatRepairs (.setTile (.update h)))), .update (.vatRepairs (.setTile (.update h)))]

theorem vatNext (h : s.memOk) {c eligible upsets} : (s.vatNext c eligible upsets).memOk := by
  dsimp only [State.vatNext]
  split
  exacts [h, h.vatStartAt.vatRefill]

theorem vatEntryStart (h : s.memOk) {c eligible upsets} : (s.vatEntryStart c eligible upsets).memOk := .ite h h.vatNext

theorem vatLaneCal (h : s.memOk) {c ok} : (s.vatLaneCal c ok).memOk :=
  .ite h <| .ite h.modTile h.modTile.modTile.logOpen

theorem backgroundSector (h : s.memOk) {c sec ups copy} : (s.backgroundSector c sec ups copy).1.memOk := by
  dsimp only [State.backgroundSector]
  split
  exacts [.vatRepairs (.setTile (.update h)), .setArray (.setTile (.update h)), .setTile (.update h),
    .setTile (.update h)]

theorem backgroundRow (h : s.memOk) {c row bank ups copy} : (s.backgroundRow c row bank ups copy).memOk :=
  h.foldl fun _ h => .ite h.backgroundSector.logOpen h.backgroundSector

theorem vatScrubRow (h : s.memOk) {c ups} : (s.vatScrubRow c ups).memOk := .ite h h.backgroundRow.modTile

theorem senseLineTest (h : s.memOk) {c raw} : (s.senseLineTest c raw).memOk := by
  unfold State.senseLineTest
  refine .ite h ?_
  split
  · exact h
  · extract_lets part u wrong stuck v
    have hv : v.memOk := by
      unfold v
      split
      exacts [h.modTile.tracePart, h.modTile.trace]
    exact .ite hv <| .ite hv.modTile.logOpen hv.modTile.logOpen

theorem repairCopyRow (h : s.memOk) {c} : (s.repairCopyRow c).memOk := by
  dsimp only [State.repairCopyRow]
  refine .ite h ?_
  split
  exacts [h, h.backgroundRow.modTile]

/-! ### The operations of Machine/Pail.lean -/

theorem startZeroing (h : s.memOk) {k regions} : (s.startZeroing k regions).memOk := .update h

theorem pailModeWrite (h : s.memOk) {n k val} : (s.pailModeWrite n k val).memOk :=
  .ite h.modPart <| .ite (.ite h.modPart h) <|
    .ite h.modPart (.startZeroing (.foldl (.modPart (.ite h.modPart h)) fun _ h => h.modTile))

theorem zeroRegion (h : s.memOk) {k r} : (s.zeroRegion k r).memOk :=
  .foldl ⟨memZero_wf h.1, h.2⟩ fun _ h => h.modTile

theorem pailZeroingDone (h : s.memOk) {k} : (s.pailZeroingDone k).memOk := by
  dsimp only [State.pailZeroingDone]
  split
  · exact h
  · refine .ite h ?_
    split
    exacts [.modPart (.update (h.foldl fun _ h => .ite h.zeroRegion h)),
      .update (h.foldl fun _ h => .ite h.zeroRegion h)]

theorem pailWrite (h : s.memOk) {a bs} : (s.pailWrite a bs).memOk := ⟨putBytes_wf h.1, h.2⟩

theorem pailRead (h : s.memOk) {a n} : (s.pailRead a n).1.memOk := h.setTile

theorem pailArrive (h : s.memOk) {r} : (s.pailArrive r).memOk := h.modTile

theorem sliceServe (h : s.memOk) {t} : (s.sliceServe t).memOk := by
  dsimp only [State.sliceServe]
  split
  · exact h
  · split
    · exact h
    · refine .ite ?_ ?_
      · split
        exacts [h.modTile.pailWrite.modTile.txnServed, h.modTile.pailWrite]
      · split
        exacts [h.modTile.pailRead.modTile.txnServed, h.modTile.pailRead]

theorem pailSliceAccess (h : s.memOk) {t} : (s.pailSliceAccess t).memOk := .ite h h.sliceServe

theorem pailFill (h : s.memOk) {t k} : (s.pailFill t k).memOk := by
  dsimp only [State.pailFill]
  refine .ite h ?_
  split
  exacts [h, .ite h h.setTile]

/-! ### The operations of Machine/Home.lean -/

theorem columnRun (h : s.memOk) {c n} : (s.columnRun c n).memOk := by
  induction n generalizing s with
  | zero => exact h
  | succ n ih => exact .ite h (.ite (ih h.vatScrubRow) (ih (.vatNext (.update h))))

theorem homeLine (h : s.memOk) {g} : (s.homeLine g).1.memOk := by
  dsimp only [State.homeLine]
  split
  exacts [h, .update (.columnRun (.vatArrive (.update h)))]

theorem homeLines (h : s.memOk) {l} : (s.homeLines l).1.memOk := by
  induction l generalizing s with
  | nil => exact h
  | cons g l ih => exact ih h.homeLine

theorem sliceRun (h : s.memOk) {a} : (s.sliceRun a).memOk := h.foldN fun _ h => h.sliceServe

theorem homeRead (h : s.memOk) {a n} : (s.homeRead a n).1.memOk := .iteFst h.homeLines h.sliceRun.pailRead

theorem homeWrite (h : s.memOk) {a bs} : (s.homeWrite a bs).memOk := .ite h.homeLines h.sliceRun.pailWrite

theorem ingressPerform (h : s.memOk) {i} : (s.ingressPerform i).memOk := by
  dsimp only [State.ingressPerform]
  split
  exacts [.ite (.homeWrite (.update h)) (.update h), h]

theorem ingressFlush (h : s.memOk) {n} : (s.ingressFlush n).memOk := .ite h (h.foldN fun _ h => h.ingressPerform)

/-! ### The operations of Machine/Fabric.lean -/

theorem drawBackoff (h : s.memOk) : (s.drawBackoff).1.memOk := .update h

theorem dropFlit (h : s.memOk) : s.dropFlit.memOk := h.count.logOpen

theorem pushFlit (h : s.memOk) {p f} : (s.pushFlit p f).memOk := h.modPort

theorem hop (h : s.memOk) {f a neg keep u} (hu : s.hop f a neg keep = some u) : u.memOk := by
  obtain ⟨p, -, rfl⟩ := Option.map_eq_some_iff.mp hu
  exact h.pushFlit

theorem hopGetD (h : s.memOk) {f a neg keep} : ((s.hop f a neg keep).getD s).memOk := by
  cases hu : s.hop f a neg keep with
  | none => exact h
  | some u => exact h.hop hu

theorem count64 (h : s.memOk) {lo hi} : (s.count64 lo hi).memOk := h.setReg.setReg

theorem forward (h : s.memOk) {f from_} : (s.forward f from_).memOk := by
  unfold State.forward
  refine .ite ?_ ?_
  · split
    exacts [h.hop ‹_›, h.dropFlit]
  · split
    · exact h
    · split
      · exact h.hop ‹_›
      · refine .ite h (.ite h.dropFlit ?_)
        split
        · exact h.dropFlit
        · dsimp only
          split
          exacts [h.pushFlit.count64, h.dropFlit]

theorem arrive (h : s.memOk) {ps} : (s.arrive ps).memOk := h.foldl fun _ h => .update h

theorem sendPacket (h : s.memOk) {p} : (s.sendPacket p).memOk := h.forward

/-! ### The operations of Machine/Mesh.lean -/

theorem banked (h : s.memOk) {t rank rs f} (hf : ∀ {s : State}, s.memOk → (f s).memOk) :
    (s.banked t rank rs f).memOk :=
  .ite (hf h.setTile) h.setTile

theorem meshRequest (h : s.memOk) {p} : (s.meshRequest p).memOk := by
  dsimp only [State.meshRequest]
  split
  · exact h
  · split
    exacts [h.vatArrive, h.pailArrive, h.modTile, .update h.modTile]

theorem meshArrive (h : s.memOk) {p} : (s.meshArrive p).memOk := .ite h.modTile h.meshRequest

theorem scratchAcks (h : s.memOk) {t} : (s.scratchAcks t).memOk := h.modTile.foldl fun _ h => h.txnServed

theorem meshTurns (h : s.memOk) : s.meshTurns.memOk :=
  .ite (h.foldl fun _ h => h.scratchAcks) (.foldl (.update (h.foldl fun _ h => h.scratchAcks)) fun _ h => h.meshArrive)

theorem meshSend (h : s.memOk) {t y} : (s.meshSend t y).memOk := .update h

theorem meshAnswer (h : s.memOk) {t id} : (s.meshAnswer t id).memOk := .update h

/-! ### The operations of Machine/Sync.lean -/

theorem startSync (h : s.memOk) {op t e} : (s.startSync op t e).memOk := by
  dsimp only [State.startSync]
  refine .ite h ?_
  split
  exacts [h, .ite h <| .ite h.setTile h.setTile]

theorem semWait (h : s.memOk) {t e} : (s.semWait t e).memOk := by
  dsimp only [State.semWait]
  split
  exacts [h.startSync, .ite h.startSync.setTile h.startSync]

theorem semSignal (h : s.memOk) {t e} : (s.semSignal t e).memOk := by
  dsimp only [State.semSignal]
  split
  exacts [h.startSync, .ite h.startSync <| .ite (.update h.startSync.setTile) h.startSync.setTile]

theorem semSignalArrive (h : s.memOk) {t sem count} : (s.semSignalArrive t sem count).memOk :=
  .ite h (.update h.modTile)

theorem arriveWait (h : s.memOk) {t e w} : (s.arriveWait t e w).memOk := by
  dsimp only [State.arriveWait]
  refine .ite h ?_
  split
  exacts [h, .ite h.setTile h.modPart.setTile]

theorem barSync (h : s.memOk) {t e} : (s.barSync t e).memOk := by
  dsimp only [State.barSync]
  split
  · exact h.startSync
  · split
    exacts [.ite h.startSync.arriveWait.modTile h.startSync.arriveWait, h.startSync.arriveWait]

theorem barArrive (h : s.memOk) {t e} : (s.barArrive t e).memOk := by
  dsimp only [State.barArrive]
  split
  · exact h.startSync
  · split
    exacts [.ite h.startSync.arriveWait.modTile h.startSync.arriveWait, h.startSync.arriveWait]

theorem fence (h : s.memOk) {t e} : (s.fence t e).memOk := by
  dsimp only [State.fence]
  split
  exacts [h.startSync, .ite h.startSync.modTile h.startSync]

theorem syncTimeout (h : s.memOk) {t e} : (s.syncTimeout t e).memOk := by
  dsimp only [State.syncTimeout]
  split
  exacts [h, .ite h.setTile h]

theorem qOpcodeReject (h : s.memOk) {t e} : (s.qOpcodeReject t e).memOk := by
  dsimp only [State.qOpcodeReject]
  refine .ite ?_ ?_
  · split
    exacts [.ite h.setTile h, h]
  · split
    exacts [.ite h h.setTile, h]

/-! ### The operations of Machine/Ladle.lean -/

theorem ladleCommand (h : s.memOk) {op t} : (s.ladleCommand op t).memOk := by
  dsimp only [State.ladleCommand]
  refine .ite h ?_
  split
  exacts [h, .ite h <| .ite h.setTile h.setTile]

theorem dispatchTxn (h : s.memOk) {t y} : (s.dispatchTxn t y).memOk := by
  dsimp only [State.dispatchTxn]
  split
  · refine .ite h.setTile.meshSend ?_
    split
    exacts [h.setTile, h.setTile.meshSend]
  · exact .ite h.setTile h.setTile.meshSend
  · exact h.setTile.meshSend

theorem issueTxn (h : s.memOk) {t r a n} : (s.issueTxn t r a n).memOk :=
  .ite h.setTile (.modTile (.dispatchTxn (.update h.setTile)))

theorem issueNext (h : s.memOk) {t r a n} : (s.issueNext t r a n).memOk :=
  .ite h.setTile <| .ite h.setTile <| .ite h.setTile h.setTile.issueTxn

theorem ladleTxnIssue (h : s.memOk) {t} : (s.ladleTxnIssue t).memOk := by
  dsimp only [State.ladleTxnIssue]
  refine .ite h ?_
  split
  exacts [h, .ite h <| .ite h <| .ite h.setTile h.setTile.issueNext]

theorem ladleTxnComplete (h : s.memOk) {t k} : (s.ladleTxnComplete t k).memOk := by
  unfold State.ladleTxnComplete
  refine .ite h ?_
  split
  exacts [h, .ite h h.modTile]

theorem noteTags (h : s.memOk) : s.noteTags.memOk := h.setF.setF

theorem dropTag (h : s.memOk) {tag} : (s.dropTag tag).memOk := .noteTags (.update h)

theorem fabTagTake (h : s.memOk) : s.fabTagTake.memOk := by
  dsimp only [State.fabTagTake]
  split
  · exact h
  · refine .ite h ?_
    split
    exacts [.update h, .sendPacket (.modTile (.noteTags (.update h)))]

theorem fabricFails (h : s.memOk) {t y} : (s.fabricFails t y).memOk := by
  unfold State.fabricFails
  refine .modTile ?_
  split
  exacts [h.dropTag, .update h]

theorem ladleFabricTimeout (h : s.memOk) {t k} : (s.ladleFabricTimeout t k).memOk := by
  unfold State.ladleFabricTimeout
  refine .ite h ?_
  split
  exacts [h, .ite h h.fabricFails]

theorem respond (h : s.memOk) {p op addr data} : (s.respond p op addr data).memOk := h.sendPacket

theorem refuseIn (h : s.memOk) {p} : (s.refuseIn p).memOk := h.modPart.respond

theorem requestArrives (h : s.memOk) {x} : (s.requestArrives x).memOk :=
  .ite h.count <| .ite (.ite h.count.respond h.count) <| .ite h.refuseIn <| .ite h.respond <|
    .ite (.respond (.homeWrite (.update h))) <|
    .ite (.respond (.homeRead (.update h))) (.respond (.homeRead (.update h)))

theorem responseArrives (h : s.memOk) {p} : (s.responseArrives p).memOk := by
  dsimp only [State.responseArrives]
  split
  · split
    exacts [.ite h <| .ite h.fabricFails h.modTile.dropTag.meshAnswer, h]
  · exact h

theorem ladlePacketArrive (h : s.memOk) : s.ladlePacketArrive.memOk := by
  dsimp only [State.ladlePacketArrive]
  split
  exacts [h, .ite (.requestArrives (.update h)) (.responseArrives (.update h))]

/-! ### The operations of Machine/Skimmer.lean -/

theorem skimGo (h : s.memOk) {t val} : (s.skimGo t val).memOk :=
  .ite h <| .ite h.setTile <| .ite h.setTile <| .ite h.setTile h.setTile

theorem freeMem (h : s.memOk) {k r} : (s.freeMem k r).memOk := ⟨memWrite_wf h.1, h.2⟩

theorem skimTaint (h : s.memOk) {t j} : (s.skimTaint t j).memOk :=
  .ite h (.foldl (.update h.modTile) fun _ h => h.freeMem)

theorem skimBlock1 (h : s.memOk) {t w b} : (s.skimBlock1 t w b).st.memOk := by
  rw [State.skimBlock1, apply_ite SkimRun.st]
  have hread : ∀ {c : Prop} [Decidable c] {x l a n},
      (if c then (s.setTile t x, l, []) else (s.setTile t x).homeRead a n).1.memOk := .iteFst h.setTile
        h.setTile.homeRead
  exact .ite (.foldl (.modTile (.update hread)) fun _ h => .ite h h.homeWrite) (.homeWrite (.modTile (.update hread)))

theorem skimRun (h : s.memOk) {t w} : ∀ {n}, (s.skimRun t w n).st.memOk
  | 0 => h
  | n + 1 => by
    rw [State.skimRun, apply_ite SkimRun.st]
    exact .ite h.skimRun h.skimRun.skimBlock1

theorem skimJobRun (h : s.memOk) {t j} : (s.skimJobRun t j).st.memOk := h.skimTaint.skimRun.skimTaint

theorem skimEnd (h : s.memOk) {t j} : (s.skimEnd t j).memOk := .ite h h.skimJobRun.modTile

theorem skimComplete (h : s.memOk) {t} : (s.skimComplete t).memOk := by
  unfold State.skimComplete
  split
  exacts [h, h.banked fun h => h.skimEnd]

theorem skimFault (h : s.memOk) {t} : (s.skimFault t).memOk := by
  unfold State.skimFault
  split
  exacts [h, .ite h h.skimJobRun.modTile]

theorem skimEnds (h : s.memOk) {t} : (s.skimEnds t).memOk := by
  dsimp only [State.skimEnds]
  split
  exacts [h, .update h.freeMem.modTile]

/-! ### The operations of Machine/Coll.lean -/

theorem setCtx (h : s.memOk) {n g c} : (s.setCtx n g c).memOk := h.modPart

theorem setHeld (h : s.memOk) {n g h'} : (s.setHeld n g h').memOk := h.modPart

theorem modCtx (h : s.memOk) {n g f} : (s.modCtx n g f).memOk := by
  unfold State.modCtx
  split
  exacts [h.setCtx, h]

theorem noteEngine (h : s.memOk) : s.noteEngine.memOk := h.setF.setF

theorem withdraw (h : s.memOk) {n g} : (s.withdraw n g).memOk := .noteEngine (.update h)

theorem dropSlots (h : s.memOk) {n g} : (s.dropSlots n g).memOk := .noteEngine (.update h)

theorem sendNb (h : s.memOk) {nb m} : (s.sendNb nb m).memOk := by
  unfold State.sendNb
  split
  exacts [h.modPort, h]

theorem sendNotices (h : s.memOk) {n g seq code origin except_} : (s.sendNotices n g seq code origin except_).memOk :=
  h.foldl fun _ h => .ite h h.sendNb

theorem collAbort (h : s.memOk) {n g code origin from_} : (s.collAbort n g code origin from_).memOk := by
  dsimp only [State.collAbort]
  split
  exacts [h, .ite h <| .ite (.sendNotices (.ite h.setCtx h.withdraw.setCtx)) <| .ite h.setCtx h.withdraw.setCtx]

theorem collCause (h : s.memOk) {n g code} : (s.collCause n g code).memOk := h.collAbort

theorem abortBooks (h : s.memOk) {n g seq code} : (s.abortBooks n g seq code).memOk := h.modPart.tracePart.irqSvc

theorem rejectSeq (h : s.memOk) {n g q} : (s.rejectSeq n g q).memOk := h.setCtx.collCause

theorem applyHeld (h : s.memOk) {n g} : (s.applyHeld n g).memOk := by
  dsimp only [State.applyHeld]
  split
  exacts [h, h.setHeld.foldl fun _ h => h.collAbort]

theorem groupNext (h : s.memOk) {n g} : (s.groupNext n g).memOk := by
  dsimp only [State.groupNext]
  refine .ite h ?_
  split
  · exact h
  · split
    exacts [h, .ite h.modPart.rejectSeq.applyHeld <| .ite h.modPart.setCtx.applyHeld h]

theorem collPost (h : s.memOk) {path t val} : (s.collPost path t val).memOk := by
  dsimp only [State.collPost]
  split
  exacts [h, .ite h <| .ite h.setTile <| .ite h.setTile.modPart.groupNext <|
    .ite h.setTile.modTile h.setTile.modTile.modPart.groupNext]

theorem compareSig (h : s.memOk) {n g nb x tagOk} : (s.compareSig n g nb x tagOk).memOk := by
  dsimp only [State.compareSig]
  split
  exacts [h, .ite h.setCtx h.setCtx.collCause]

theorem collCancel (h : s.memOk) {n g} : (s.collCancel n g).memOk := by
  dsimp only [State.collCancel]
  refine .ite h.collCause ?_
  split
  · exact h
  · split
    exacts [h, h.modPart.setCtx.collCause]

/-! ### The operations of Machine/CollData.lean -/

theorem collRead (h : s.memOk) {g n} : (s.collRead g n).1.memOk := foldlFst h fun _ h => h.homeRead

theorem collWrite (h : s.memOk) {g bs} : (s.collWrite g bs).1.memOk := by
  unfold State.collWrite
  split
  exacts [h, foldlFst h fun _ h => h.homeWrite]

theorem destWrite (h : s.memOk) {n g a bs} : (s.destWrite n g a bs).memOk := .ite h.collWrite.collCause h.collWrite

theorem sourceRead (h : s.memOk) {n g c off len} : (s.sourceRead n g c off len).1.memOk :=
  .ite h.collRead.collCause h.collRead

theorem collEvents (h : s.memOk) {n g ovf nonfin} : (s.collEvents n g ovf nonfin).memOk := h.modPart.modCtx

theorem queueOut (h : s.memOk) {n g st ring step p data} : (s.queueOut n g st ring step p data).memOk := h.modCtx

theorem sendFrag (h : s.memOk) {n g f} : (s.sendFrag n g f).memOk := by
  unfold State.sendFrag
  split
  · exact h
  · split
    · exact h
    · exact .ite h (.foldl (.setCtx (.noteTags (.update h))) fun _ h => h.hopGetD)

theorem pump (h : s.memOk) {n g} : (s.pump n g).memOk := by
  unfold State.pump
  split
  exacts [h.foldl fun _ h => h.sendFrag, h]

theorem grantTo (h : s.memOk) {n g nb} : (s.grantTo n g nb).memOk := .ite h (.sendNb (.noteEngine (.update h)))

theorem grantSlots (h : s.memOk) {n g} : (s.grantSlots n g).memOk := by
  unfold State.grantSlots
  split
  exacts [.ite h (h.foldl fun _ h => h.grantTo), h]

theorem ownUnits (h : s.memOk) {n g us} : (s.ownUnits n g us).1.memOk := by
  unfold State.ownUnits
  repeat' split
  exacts [h, h, foldlFst h fun _ h => h.sourceRead.collEvents]

theorem placeUnits (h : s.memOk) {n g us xs} : (s.placeUnits n g us xs).memOk := by
  unfold State.placeUnits
  repeat' split
  exacts [h, h, .collEvents (foldlFst h fun _ h => h.destWrite)]

theorem placeBytes (h : s.memOk) {n g q start bs} : (s.placeBytes n g q start bs).memOk := by
  dsimp only [State.placeBytes]
  split
  exacts [h, .ite h h.destWrite]

theorem combineFrag (h : s.memOk) {n g c h' st k x p data} : (s.combineFrag n g c h' st k x p data).memOk :=
  .ite h.collEvents.ownUnits.collEvents.queueOut <|
    .ite h.collEvents.ownUnits.collEvents.modCtx.placeUnits h.collEvents.ownUnits.collEvents.modCtx

theorem gatherFrag (h : s.memOk) {n g c h' st k x p data} : (s.gatherFrag n g c h' st k x p data).memOk :=
  .ite (.queueOut (.ite h.collEvents.modCtx.placeUnits h.modCtx.placeBytes)) <|
    .ite h.collEvents.modCtx.placeUnits h.modCtx.placeBytes

theorem useFrag (h : s.memOk) {n g c st f x data} : (s.useFrag n g c st f x data).memOk := by
  unfold State.useFrag
  extract_lets hs nb u v
  have hv : v.memOk := by
    unfold v
    split
    · exact h.setCtx
    · split
      exacts [h.setCtx, .ite h.setCtx.modCtx.combineFrag h.setCtx.modCtx.gatherFrag]
  split
  exacts [.ite hv.sendNb hv, hv]

theorem skimSum (h : s.memOk) {n g} : (s.skimSum n g).memOk := by
  dsimp only [State.skimSum]
  split
  exacts [h, h.collEvents.placeUnits]

theorem finish (h : s.memOk) {n g} : (s.finish n g).memOk := by
  unfold State.finish
  split
  exacts [.modCtx (.ite h.skimSum h), h]

theorem alone (h : s.memOk) {n g} : (s.alone n g).memOk := by
  dsimp only [State.alone]
  split
  exacts [h, .ite (.placeUnits (.collEvents (.update h.ownUnits))) h]

theorem ownBytes (h : s.memOk) {n g c} : (s.ownBytes n g c).1.memOk := .iteFst h.sourceRead h.sourceRead

theorem ownGather (h : s.memOk) {n g} : (s.ownGather n g).memOk := by
  dsimp only [State.ownGather]
  split
  exacts [h, h.ownBytes.modCtx.placeBytes]

theorem startStage (h : s.memOk) {n g st} : (s.startStage n g st).memOk := by
  unfold State.startStage
  refine h.foldl fun _ h => ?_
  split
  exacts [h, .ite h (h.foldl fun _ h => .ite h.ownUnits.collEvents.queueOut h.queueOut)]

theorem nextStage (h : s.memOk) {n g c i} : (s.nextStage n g c i).memOk := by
  unfold State.nextStage
  split
  exacts [h.setCtx.startStage, h.finish]

theorem beginData (h : s.memOk) {n g c} : (s.beginData n g c).memOk := by
  unfold State.beginData
  extract_lets u v w
  have hv : v.memOk := .ite h.grantSlots.alone h.grantSlots
  have hw : w.memOk := .ite hv hv.ownGather
  split
  exacts [.ite hw.nextStage hw, hw]

theorem collAdvance (h : s.memOk) {n g k} : (s.collAdvance n g k).memOk := by
  induction k generalizing s with
  | zero => exact h
  | succ k ih =>
    unfold State.collAdvance
    split
    · exact h
    · refine .ite h ?_
      split
      · exact ih h.beginData
      · dsimp only
        split
        · exact h
        · refine .ite (ih h.nextStage) ?_
          split
          exacts [h, ih h.useFrag]

theorem collGo (h : s.memOk) {n g} : (s.collGo n g).memOk := by
  unfold State.collGo
  split
  exacts [h.collAdvance.pump, h]

theorem collResume (h : s.memOk) : s.collResume.memOk := h.foldl fun _ h => h.collGo

theorem barrierDone (h : s.memOk) {n g} : (s.barrierDone n g).memOk := by
  unfold State.barrierDone
  split
  exacts [.ite h.finish h, h]

theorem startData (h : s.memOk) {n g} : (s.startData n g).memOk := h.modCtx.barrierDone.collGo

theorem countsDone (h : s.memOk) {n g} : (s.countsDone n g).memOk := by
  dsimp only [State.countsDone]
  split
  exacts [h, .ite h <| .ite h.collCause h.startData]

theorem sendAll (h : s.memOk) {n g m} : (s.sendAll n g m).memOk := h.foldl fun _ h => h.sendNb

theorem leaveEntry (h : s.memOk) {n g} : (s.leaveEntry n g).memOk := by
  dsimp only [State.leaveEntry]
  split
  exacts [h, .ite h <| .ite (h.setCtx.foldl fun _ h => h.sendAll).countsDone
    (.startData (.setCtx (.ite (h.foldl fun _ h => h.sendAll) h)))]

theorem holdSig (h : s.memOk) {n g nb x ok} : (s.holdSig n g nb x ok).memOk := h.setHeld

theorem collSignature (h : s.memOk) {n g nb x tag} : (s.collSignature n g nb x tag).memOk := by
  dsimp only [State.collSignature]
  refine .ite h ?_
  split
  exacts [.ite h.compareSig.leaveEntry <| .ite h h.holdSig, h.holdSig]

theorem grantCtx (h : s.memOk) {n i} : (s.grantCtx n i).memOk := by
  dsimp only [State.grantCtx]
  split
  exacts [h, (h.modPart.setCtx.setHeld.noteEngine.sendAll.foldl fun _ h => h.compareSig).leaveEntry]

theorem collContextGrant (h : s.memOk) : s.collContextGrant.memOk := by
  dsimp only [State.collContextGrant]
  refine .ite h ?_
  split
  exacts [.grantCtx (.update h), h]

theorem collCounts (h : s.memOk) {n g seq rank count jflags} : (s.collCounts n g seq rank count jflags).memOk := by
  dsimp only [State.collCounts]
  split
  exacts [h, .ite h <| .ite h.setCtx h.setCtx.sendAll.countsDone]

theorem collBarrierArrival (h : s.memOk) {n g seq rank jflags} : (s.collBarrierArrival n g seq rank jflags).memOk := by
  dsimp only [State.collBarrierArrival]
  split
  exacts [h, .ite h <| .ite h.setCtx h.setCtx.sendAll.barrierDone]

theorem collFragment (h : s.memOk) {slot idx h' data} : (s.collFragment slot idx h' data).memOk := by
  dsimp only [State.collFragment]
  split
  · exact h
  · split
    exacts [h, .ite h h.setCtx.collGo]

theorem ackSlots (h : s.memOk) {n g nb slots} : (s.ackSlots n g nb slots).memOk := .noteTags (.update h)

theorem dropCollTags (h : s.memOk) {n g} : (s.dropCollTags n g).memOk := .noteTags (.update h)

theorem collGrant (h : s.memOk) {n g nb slots} : (s.collGrant n g nb slots).memOk := by
  dsimp only [State.collGrant]
  split
  exacts [h, .ite h.ackSlots h.ackSlots.setCtx.pump]

theorem tagTake (h : s.memOk) : s.tagTake.memOk := .ite h.fabTagTake (h.foldl fun _ h => h.pump)

theorem freeCtx (h : s.memOk) {n g} : (s.freeCtx n g).memOk :=
  (h.setCtx.dropSlots.setHeld.foldl fun _ h => h.grantSlots).groupNext

theorem collComplete (h : s.memOk) {n g} : (s.collComplete n g).memOk := by
  dsimp only [State.collComplete]
  split
  exacts [h, .ite h <| .ite h.collWrite.collCause
    (.freeCtx (.modPart (.ite (.modPart (.ite h.collWrite.tileStep h.collWrite)) <|
    .ite h.collWrite.tileStep h.collWrite)))]

theorem collAbortNotice (h : s.memOk) {n g nb seq code origin tag} :
    (s.collAbortNotice n g nb seq code origin tag).memOk :=
  .ite h <| .ite h.collAbort <| .ite h (.groupNext (.ite h h.setHeld))

theorem collEntryTimeout (h : s.memOk) {n g} : (s.collEntryTimeout n g).memOk := by
  unfold State.collEntryTimeout
  split
  exacts [.ite h.collCause h, h]

theorem collProgressTimeout (h : s.memOk) {n g} : (s.collProgressTimeout n g).memOk := by
  unfold State.collProgressTimeout
  split
  exacts [.ite h.collCause h, h]

theorem collAbortFinish (h : s.memOk) {n g} : (s.collAbortFinish n g).memOk := by
  dsimp only [State.collAbortFinish]
  split
  exacts [h, .ite h (.freeCtx
    (.abortBooks (.ite h.dropCollTags <|
    .ite (.tileStep (.update h.dropCollTags.collWrite)) (.update h.dropCollTags.collWrite))))]

theorem collLinkDown (h : s.memOk) {p} : (s.collLinkDown p).memOk :=
  h.foldl fun _ h => h.foldl fun _ h => .ite h.collCause h

/-! ### The operations of Machine/Time.lean -/

theorem putTime (h : s.memOk) {ns} : (s.putTime ns).memOk := .update h

theorem countStep (h : s.memOk) : s.countStep.memOk := h.count

theorem timeTick (h : s.memOk) : s.timeTick.memOk := .ite h (.update h)

theorem restrata (h : s.memOk) : s.restrata.memOk := by
  unfold State.restrata
  refine .ite h.setF.setF.setF ?_
  split
  exacts [h.setF.setF, h.setF.setF]

theorem stepTime (h : s.memOk) {o} : (s.stepTime o).memOk := .update h.putTime.countStep.setReg

theorem slew (h : s.memOk) {o} : (s.slew o).memOk := .setReg (.update h)

theorem steer (h : s.memOk) {o} : (s.steer o).memOk :=
  .ite (.ite (.stepTime (.log (.setF (.update h.setReg)))) h.setReg.slew) <| .ite h.setReg.stepTime <|
    .ite (.setF (.slew (.update h.setReg))) (.slew (.update h.setReg))

theorem timeSet (h : s.memOk) {hi} : (s.timeSet hi).memOk :=
  .ite h.setReg (.restrata (.update h.setReg.putTime.countStep))

theorem syncLoss (h : s.memOk) : s.syncLoss.memOk := .ite h (.update h.setF.setF.setF)

/-! ### The operations of Machine/Link.lean -/

theorem portState (h : s.memOk) {p st cause} : (s.portState p st cause).memOk := .ite h.modPort h.modPort.trace

theorem startTraining (h : s.memOk) {p} : (s.startTraining p).memOk := h.portState.modPort

theorem portEnable (h : s.memOk) {p} : (s.portEnable p).memOk :=
  .ite h <| .ite h.modPort <| .ite h.modPort.startTraining h.modPort

theorem trainTimeout (h : s.memOk) {p} : (s.trainTimeout p).memOk := .ite h h.modPort.logOpen

theorem backOff (h : s.memOk) {p} : (s.backOff p).memOk := h.drawBackoff.modPort

theorem heartbeatSend (h : s.memOk) {p} : (s.heartbeatSend p).memOk := .ite h h.modPort.restrata

theorem linkTrained (h : s.memOk) {p lanes i} : (s.linkTrained p lanes i).memOk :=
  .ite h <| .ite h.modPort.portState.logOpen
    (.heartbeatSend (.restrata
    (.ite (.logOpen (.portState (.ite h.modPort.modPort.backOff h.modPort.modPort)))
    (.portState (.ite h.modPort.modPort.backOff h.modPort.modPort)))))

theorem askLead (h : s.memOk) {p} : (s.askLead p).memOk := .ite h.modPort h

theorem leadReq (h : s.memOk) {p} : (s.leadReq p).memOk := .ite h <| .ite h.modPort h.modPort

theorem leadNak (h : s.memOk) {p} : (s.leadNak p).memOk := .ite h h.backOff

theorem leadBackoffExpiry (h : s.memOk) {p} : (s.leadBackoffExpiry p).memOk := .ite h h.modPort.askLead

theorem leadReqTimeout (h : s.memOk) {p} : (s.leadReqTimeout p).memOk := .ite h h.backOff

theorem reseedFabric (h : s.memOk) : s.reseedFabric.memOk := .update h

theorem fabIgnored (h : s.memOk) {o} : (s.fabIgnored o).memOk := h.setF.setF

theorem chipIdWrite (h : s.memOk) {val} : (s.chipIdWrite val).memOk := .ite h.fabIgnored h.setReg.reseedFabric

theorem heartbeatReceive (h : s.memOk) {p hb} : (s.heartbeatReceive p hb).memOk := by
  dsimp only [State.heartbeatReceive]
  refine .ite h (.askLead ?_)
  split
  · exact .ite (.ite (.steer (.update h.modPort.restrata.modPort)) h.modPort.restrata.modPort) h.modPort.restrata
  · exact h.modPort.restrata

theorem reroute (h : s.memOk) {p f} : (s.reroute p f).memOk := .ite h <| .ite h.forward h.forward

theorem portFalls (h : s.memOk) {p st cause} : (s.portFalls p st cause).memOk :=
  (h.portState.modPort.foldl fun _ h => h.reroute).collLinkDown.restrata.logOpen.irqRoot

theorem linkDown (h : s.memOk) {p cause} : (s.linkDown p cause).memOk :=
  .ite h <| .ite h.modPort.portFalls.portState.logOpen h.modPort.portFalls

theorem heartbeatTimeout (h : s.memOk) {p} : (s.heartbeatTimeout p).memOk := .ite h h.linkDown

theorem lossOfSignal (h : s.memOk) {p} : (s.lossOfSignal p).memOk := h.linkDown

theorem downNotice (h : s.memOk) {p} : (s.downNotice p).memOk := h.linkDown

theorem codewordDecode (h : s.memOk) {p r} : (s.codewordDecode p r).memOk := by
  dsimp only [State.codewordDecode]
  refine .ite h ?_
  split
  exacts [h.modPort, h.modPort, .ite h.modPort.linkDown h.modPort]

theorem replayTimeout (h : s.memOk) {p} : (s.replayTimeout p).memOk := .ite h <| .ite h.linkDown h.modPort

theorem linkRetrain (h : s.memOk) {p} : (s.linkRetrain p).memOk := .ite h h.startTraining

theorem fabricStarts (h : s.memOk) : s.fabricStarts.memOk := .foldl (.ite h.setF h) fun _ h => .ite h.startTraining h

theorem fabricFalls (h : s.memOk) : s.fabricFalls.memOk := h.foldl fun _ h => .ite h h.portState.modPort

theorem portDisable (h : s.memOk) {p} : (s.portDisable p).memOk :=
  .ite h <| .ite h.modPort.portFalls <| .ite h.modPort h.modPort.portState

theorem deliverCtrl (h : s.memOk) {p m} : (s.deliverCtrl p m).memOk := by
  unfold State.deliverCtrl
  split
  exacts [h.leadReq, h.modPort, h.leadNak, h.downNotice, h.collSignature, h.collCounts, h.collBarrierArrival,
    h.collAbortNotice, h.collGrant]

theorem deliver (h : s.memOk) {f} : (s.deliver f).memOk := by
  unfold State.deliver
  split
  exacts [h.arrive, h.collFragment, h]

theorem flitRoute (h : s.memOk) {p} : (s.flitRoute p).memOk := by
  dsimp only [State.flitRoute]
  refine .ite h ?_
  split
  · exact h
  · refine .ite ?_ (.ite h.modPort.deliver h.modPort.forward)
    split
    exacts [h.modPort.deliverCtrl, h.modPort]

theorem flitReceive (h : s.memOk) {p f crc} : (s.flitReceive p f crc).memOk := by
  dsimp only [State.flitReceive]
  refine .ite h ?_
  split
  exacts [.ite h.modPort.heartbeatReceive h.modPort, h.modPort]

/-! ### The operations of Machine/Power.lean -/

theorem deviceClear (h : s.memOk) {railsUp} : (s.deviceClear railsUp).memOk := .setF (.update h)

theorem startGroup (h : s.memOk) {g} : (s.startGroup g).memOk := h.setF

theorem holdDevice (h : s.memOk) : s.holdDevice.memOk := .update h.deviceClear

theorem inputTrip (h : s.memOk) : s.inputTrip.memOk := .ite h h.aonCause.holdDevice

theorem thermalTrip (h : s.memOk) {sensor temp} : (s.thermalTrip sensor temp).memOk :=
  .ite h (.update h.trace.aonCause.holdDevice)

theorem blockingSwitchOpen (h : s.memOk) : s.blockingSwitchOpen.memOk := .ite h (.update h.setF)

theorem resetAssert (h : s.memOk) : s.resetAssert.memOk := .ite (.update h) (.update h.deviceClear)

theorem resetRelease (h : s.memOk) : s.resetRelease.memOk := .ite h (.update h)

theorem vaonStart (h : s.memOk) {straps} : (s.vaonStart straps).memOk := by
  dsimp only [State.vaonStart]
  refine .ite h ?_
  split
  exacts [.update (.setReg (.update h.deviceClear)),
    .setF (.foldl (.update (.setReg (.update h.deviceClear))) fun _ h => h.setReg)]

theorem vaonFall (h : s.memOk) : s.vaonFall.memOk := .update (.update h.deviceClear)

theorem busStarts (h : s.memOk) : s.busStarts.memOk := .update h.startGroup

theorem startup (h : s.memOk) : s.startup.memOk := .ite h <| .ite h.busStarts (.update h)

theorem oscReady (h : s.memOk) : s.oscReady.memOk :=
  .ite h <| .ite (.busStarts (.update (.ite h.setF (.update h.setF)))) (.update (.ite h.setF (.update h.setF)))

theorem oscTimeout (h : s.memOk) : s.oscTimeout.memOk := .ite h h.aonCause.holdDevice.setF

theorem columnsReady (h : s.memOk) : s.columnsReady.memOk := h.foldl fun _ h => h.modTile

theorem bootEnds (h : s.memOk) : s.bootEnds.memOk := .stageIs (.modPair (.update h.setF.setF.setF))

theorem railGroupReady (h : s.memOk) {g} : (s.railGroupReady g).memOk :=
  .ite h <| .ite (.ite (.update (.startGroup (.update h.groupUp))) h) <|
    .ite (.ite (.alertSync (.update (.railUp (.update h.groupUp)))) h) <| .ite h <|
    .ite (.startGroup (.fabricStarts (.reseedFabric (.update h.groupUp)))) <|
    .ite (.startGroup (.update h.groupUp)) <| .ite (.update h.groupUp) (.bootEnds (.update h.groupUp))

theorem tileWaveStart (h : s.memOk) {w} : (s.tileWaveStart w).memOk := .ite h (.startGroup (.ite h.columnsReady h))

theorem railGroupTimeout (h : s.memOk) {rail} : (s.railGroupTimeout rail).memOk :=
  .ite h <| .ite h.aonCause.holdDevice.setF.setF <|
    .ite h (.stageIs (.modPair (.update (h.aonCause.log.foldl fun _ h => h.railSet.railSet).setF.fabricFalls)))

theorem zeroUnit (h : s.memOk) {k vat} : (s.zeroUnit k vat).memOk :=
  have hz := h.zeroRegion.zeroRegion
  .ite hz (.foldl (.write (memZero_wf hz.1) hz.2) fun _ h => h.modTile)

theorem startupZeroingDone (h : s.memOk) {k} : (s.startupZeroingDone k).memOk := .ite h h.zeroUnit.setF

theorem busLow (h : s.memOk) : s.busLow.memOk := .ite h (.update h.setF)

theorem busRecover (h : s.memOk) : s.busRecover.memOk := .update h

theorem pcieDown (h : s.memOk) : s.pcieDown.memOk := .ite h (.logOpen (.update h.setF.setF.count))

theorem refLoss (h : s.memOk) {ref} : (s.refLoss ref).memOk := by
  dsimp only [State.refLoss]
  refine .ite h ?_
  split
  exacts [.update (.holdDevice (.alertSync (.aonCause (.ite h.setF.setF.log h.setF.setF)))),
    .alertSync (.pcieDown (.ite h.setF.setF.log h.setF.setF)), .alertSync (.setF (.ite h.setF.setF.log h.setF.setF))]

theorem refRestore (h : s.memOk) {ref} : (s.refRestore ref).memOk := .ite h <| .ite (.ite h.oscReady h) h.setF

theorem meshStarts (h : s.memOk) {req} : (s.meshStarts req).memOk :=
  .ite (.tileRailsMove (.update h.setF)) (.update h.setF)

theorem meshFreqChange (h : s.memOk) {val} : (s.meshFreqChange val).memOk :=
  .ite h.setF <| .ite h.setF.meshStarts (.update h.setF)

theorem meshEnds (h : s.memOk) {mhz} : (s.meshEnds mhz).memOk := by
  dsimp only [State.meshEnds]
  split
  exacts [.meshStarts (.update h.setF.setF), .update h.setF.setF]

theorem meshStopped (h : s.memOk) : s.meshStopped.memOk := .update h

theorem meshClockSwitch (h : s.memOk) : s.meshClockSwitch.memOk := by
  dsimp only [State.meshClockSwitch]
  split
  exacts [.ite (.tileRailsMove (.update h.meshStopped)) h.meshStopped.meshEnds, h]

theorem meshChangeEnd (h : s.memOk) : s.meshChangeEnd.memOk := by
  unfold State.meshChangeEnd
  split
  exacts [h.meshEnds, h]

theorem suspect (h : s.memOk) {i base run} : (s.suspect i base run).memOk :=
  .alertSync (.trace (.log (.update h.railSet.setReg)))

theorem railCalSlot (h : s.memOk) {i r temp m} : (s.railCalSlot i r temp m).memOk :=
  .ite h <| .ite (.railMove (.railSet (.ite (.suspect (.railSet (.update h))) (.railSet (.update h))))) <|
    .ite (.suspect (.railSet (.update h))) (.railSet (.update h))

/-! ### The operations of Machine/Cap.lean -/

theorem setGrant (h : s.memOk) {p} : (s.setGrant p).memOk := h.modTile

theorem sampleGrants (h : s.memOk) {n} : (s.sampleGrants n).memOk := .ite h h.modSys

theorem slewLoopTick (h : s.memOk) {vin iin} : (s.slewLoopTick vin iin).memOk :=
  .ite h <| .ite h.setReg
    (.foldl (.update (.setF
    (.setF (.ite (h.setReg.foldl fun _ h => h.setGrant).setF (h.setReg.foldl fun _ h => h.setGrant))))) fun _ h =>
    h.sampleGrants)

theorem railLoopTick (h : s.memOk) {t ma} : (s.railLoopTick t ma).memOk :=
  .ite h <| .ite (.log (.ite (.trace (.update h.setTile)) (.update h.setTile))) <|
    .ite (.trace (.update h.setTile)) (.update h.setTile)

theorem learnDemand (h : s.memOk) {conv draw n pow} : (s.learnDemand conv draw n pow).memOk :=
  .modSys (.ite h.modPart h)

theorem budgetLoopTick (h : s.memOk) {pin railPower conv} : (s.budgetLoopTick pin railPower conv).memOk :=
  .ite h (.foldl (.update (.ite (.setF (.update h.setF.setF.setF)) (.setF (.setF (.update h.setF.setF.setF)))))
    fun _ h => h.learnDemand)

theorem setTarget (h : s.memOk) {w} : (s.setTarget w).memOk :=
  .ite h <| .ite h.setF.setF.trace.logSev h.setF.setF.trace

theorem lostNow (h : s.memOk) : s.lostNow.memOk := .ite h (.logSev (.setF (.update h)))

theorem retarget (h : s.memOk) : s.retarget.memOk :=
  .ite (.ite h.lostNow.setTarget h.lostNow) (.setTarget (.update h.setF))

theorem sourceLost (h : s.memOk) {src} : (s.sourceLost src).memOk := .ite h h.retarget.alertSync

theorem budgetRampTick (h : s.memOk) : s.budgetRampTick.memOk := .ite h h.setF.setF

theorem budgetPinPeriod (h : s.memOk) {period high complementOk} :
    (s.budgetPinPeriod period high complementOk).memOk :=
  .ite h <| .ite (.update h.count) (.alertSync (.retarget (.update h.setF)))

theorem budgetPinLoss (h : s.memOk) : s.budgetPinLoss.memOk := .ite h (.sourceLost (.update h))

theorem budgetI3cLoss (h : s.memOk) : (s.budgetI3cLoss).memOk := .ite h (.sourceLost (.update h))

theorem budgetHoldExpiry (h : s.memOk) : s.budgetHoldExpiry.memOk := .ite h (.retarget (.update h))

theorem i3cBudget (h : s.memOk) {w} : (s.i3cBudget w).memOk := .alertSync (.retarget (.update h.setF))

theorem thermSync (h : s.memOk) : s.thermSync.memOk := h.setF.setF.setF.setF.setF

theorem thermWarn (h : s.memOk) {t old new lim} : (s.thermWarn t old new lim).memOk := .ite h.setF.logSev.alertSync h

theorem dieTempRead (h : s.memOk) {t temp} : (s.dieTempRead t temp).memOk :=
  .ite h <| .ite h.setTile.thermSync.thermWarn.thermalTrip h.setTile.thermSync.thermWarn

theorem vatTempRead (h : s.memOk) {t layers} : (s.vatTempRead t layers).memOk :=
  .ite h <| .ite (.thermalTrip (.thermWarn (.thermSync (.ite h.setTile.trace h.setTile))))
    (.thermWarn (.thermSync (.ite h.setTile.trace h.setTile)))

theorem thermalLoopTick (h : s.memOk) {t} : (s.thermalLoopTick t).memOk := .ite h h.setTile.setF

theorem heat (h : s.memOk) {tin tout flow} : (s.heat tin tout flow).memOk :=
  .ite (.update (.ite h.setF.setF.setF.setF h.setF.setF))
    (.alertSync (.trace (.logSev (.setF (.setF (.update (.ite h.setF.setF.setF.setF h.setF.setF)))))))

theorem readingEnds (h : s.memOk) {vals} : (s.readingEnds vals).memOk := by
  unfold State.readingEnds
  extract_lets m u v w c x
  have hv : v.memOk := .foldl (.update h) fun n h => by
    split
    · exact .ite (.setF (.update h)) <| .ite (.setF (.update h)) (.setF (.update h))
    · exact .ite (.alertSync (.logSev (.update (.setF (.update h))))) (.update h)
  have hx : x.memOk := .ite (.update hv.trace) hv.trace
  exact .ite hx hx.heat

theorem sensorStep (h : s.memOk) {r a} : (s.sensorStep r a).1.memOk := by
  dsimp only [State.sensorStep]
  split
  exacts [h, h.count.logOpen, .iteFst h <| .iteFst h.count.logOpen (.update h.count.logOpen)]

theorem readOn (h : s.memOk) {r l} : (s.readOn r l).memOk := by
  induction l generalizing s r with
  | nil =>
    unfold State.readOn
    split
    exacts [h.readingEnds, h]
  | cons a l ih =>
    have hs := h.sensorStep (r := r) (a := a)
    unfold State.readOn
    repeat' split
    · exact h.readingEnds
    · next e => rw [e] at hs; exact ih hs
    · next e => rw [e] at hs; exact hs

theorem coolingReading (h : s.memOk) {rs} : (s.coolingReading rs).memOk := .ite h h.readOn

theorem sensorRetry (h : s.memOk) {rs} : (s.sensorRetry rs).memOk := by
  unfold State.sensorRetry
  split
  exacts [.ite h.readOn h, h]

theorem sensorTimeout (h : s.memOk) {rs} : (s.sensorTimeout rs).memOk := by
  unfold State.sensorTimeout
  split
  exacts [.ite h.readOn h, h]

theorem cycTick (h : s.memOk) {src t} : (s.cycTick src t).memOk := by
  dsimp only [State.cycTick]
  split
  exacts [.update h, .trace (.setReg (.update h))]

theorem thermalCycleTick (h : s.memOk) {die vat} : (s.thermalCycleTick die vat).memOk := .ite h h.cycTick.cycTick

theorem writeTcyc (h : s.memOk) {ok} : (s.writeTcyc ok).memOk :=
  .ite (.update h) <| .ite h.setF.logSev.alertSync h.setF

theorem tcycRecordWrite (h : s.memOk) {ok} : (s.tcycRecordWrite ok).memOk := .ite h h.setF.writeTcyc

/-! ### The operations of Machine/Mgmt.lean -/

theorem reply (h : s.memOk) {up bytes} : (s.reply up bytes).memOk := .update h

theorem codeRead (h : s.memOk) {up code bytes} : (s.codeRead up code bytes).memOk := .ite (.update h.reply) h.reply

theorem aonRead (h : s.memOk) {code n v} : (s.aonRead code n v).memOk := h.codeRead

theorem vctlRead (h : s.memOk) {code n v} : (s.vctlRead code n v).memOk := h.codeRead

theorem mgmtIdent (h : s.memOk) : s.mgmtIdent.memOk := h.aonRead

theorem mgmtCause (h : s.memOk) : s.mgmtCause.memOk := h.aonRead

theorem mgmtAlert (h : s.memOk) : s.mgmtAlert.memOk := h.aonRead

theorem mgmtInput (h : s.memOk) : s.mgmtInput.memOk := h.aonRead

theorem mgmtStatus (h : s.memOk) : s.mgmtStatus.memOk := h.vctlRead

theorem mgmtPower (h : s.memOk) : s.mgmtPower.memOk := h.vctlRead

theorem mgmtTemps (h : s.memOk) : s.mgmtTemps.memOk := h.vctlRead

theorem mgmtBudgetStat (h : s.memOk) : s.mgmtBudgetStat.memOk := h.vctlRead

theorem mgmtCool (h : s.memOk) {code} : (s.mgmtCool code).memOk :=
  .ite h.vctlRead <| .ite h.vctlRead <| .ite h.vctlRead <| .ite h.vctlRead h.reply

theorem mgmtTcyc (h : s.memOk) : s.mgmtTcyc.memOk := h.codeRead

theorem mgmtTime (h : s.memOk) : s.mgmtTime.memOk := h.aonRead

theorem clearSource (h : s.memOk) {b} : (s.clearSource b).memOk :=
  .ite h.setF <| .ite h.setF <| .ite h.setF <| .ite h.setF <| .ite h.setF <| .ite h.setF <| .ite h.setF <|
    .ite (h.foldl fun _ h => h.modPair) <| .ite (.update h) h

theorem mgmtAlertClr (h : s.memOk) {data} : (s.mgmtAlertClr data).memOk :=
  .ite h.reply <| .ite h.reply (h.foldl fun _ h => h.clearSource).setF.alertSync.reply

theorem mgmtBudget (h : s.memOk) {write} : (s.mgmtBudget write).memOk := by
  unfold State.mgmtBudget
  refine .ite h.reply ?_
  split
  exacts [h.codeRead, h.i3cBudget.reply, h.reply]

theorem dynamicAddress (h : s.memOk) {addr} : (s.dynamicAddress addr).memOk := .ite h h.setF.setF

theorem alertResponse (h : s.memOk) : s.alertResponse.memOk := h.reply

theorem sclTimeout (h : s.memOk) : s.sclTimeout.memOk := h.reply

theorem perst (h : s.memOk) : s.perst.memOk := .ite h.pcieDown.alertSync h

theorem pcieLinkDown (h : s.memOk) {speed width} : (s.pcieLinkDown speed width).memOk :=
  .ite h <| .ite h.pcieDown.alertSync <| .ite h.setF.setF.count.logOpen h

theorem pcieLinkUp (h : s.memOk) {speed width} : (s.pcieLinkUp speed width).memOk :=
  .ite h (.alertSync (.update h.setF.setF.setF))

theorem consoleByte (h : s.memOk) {b} : (s.consoleByte b).memOk := .ite h <| .ite (.update h) (.update h)

theorem uartFrame (h : s.memOk) {bits lowAtArm} : (s.uartFrame bits lowAtArm).memOk :=
  .ite h <| .ite (.consoleByte (.ite h.count h)) h.count.logOpen

theorem scanRails (h : s.memOk) {up} : (s.scanRails up).memOk :=
  .ite h.railUp.railUp (h.foldl fun _ h => h.railSet.railSet)

theorem setScan (h : s.memOk) {on} : (s.setScan on).memOk := .ite h (.update h.scanRails)

theorem jtagInstruction (h : s.memOk) {ir} : (s.jtagInstruction ir).memOk := .ite h (.update h.setScan)

theorem tapReset (h : s.memOk) : s.tapReset.memOk := .update h.setScan

theorem telemetrySample (h : s.memOk) : s.telemetrySample.memOk := .ite h (.update h)

/-! ### The operations of Machine/TileAccess.lean -/

theorem tileRead (h : s.memOk) {path t o} : (s.tileRead path t o).1.memOk := by
  dsimp only [State.tileRead]
  split
  exacts [h, h.modTile]

theorem syncCmdWrite (h : s.memOk) {t val} : (s.syncCmdWrite t val).memOk := h.setTile

theorem faultClear (h : s.memOk) {a t val} : (s.faultClear a t val).memOk := by
  dsimp only [State.faultClear]
  split
  exacts [.update h.modTile, h]

theorem tileWrite (h : s.memOk) {a t o val} : (s.tileWrite a t o val).memOk := by
  dsimp only [State.tileWrite]
  split
  exacts [h, .ite h.faultClear <| .ite h.modTile <| .ite h.modTile <|
    .ite (.ite h.modTile <| .ite h.modTile h.modTile) <| .ite h.modTile <| .ite h.modTile <| .ite h.modTile <|
    .ite h.modTile <| .ite h.modTile <| .ite h.modTile <| .ite (.ite h.syncCmdWrite h) <| .ite h.modTile <|
    .ite h.modTile <| .ite h.modTile <| .ite h.skimGo <| .ite h.modTile <| .ite h.modTile <| .ite h.collPost <|
    .ite h.phaseMark h.modTile]

theorem faultTraced (h : s.memOk) {t f} (hf : ∀ {s : State}, s.memOk → (f s).memOk) : (s.faultTraced t f).memOk := by
  dsimp only [State.faultTraced]
  refine .ite ?_ (hf h)
  split
  exacts [(hf h).tracePart, hf h]

theorem tilePut (h : s.memOk) {a t o val} : (s.tilePut a t o val).memOk := h.faultTraced fun h => h.tileWrite

/-! ### The operations of Machine/Access.lean -/

theorem partRead (h : s.memOk) {n o} : (s.partRead n o).1.memOk := by
  dsimp only [State.partRead]
  split
  exacts [h, h.modPart]

theorem eachTile (h : s.memOk) {n f} : (s.eachTile n f).memOk := h.foldl fun _ h => h.modTile

theorem rennetPartClear (h : s.memOk) {n val} : (s.rennetPartClear n val).memOk := h.eachTile

theorem churnPartClear (h : s.memOk) {n val} : (s.churnPartClear n val).memOk := h.eachTile

theorem skimPartClear (h : s.memOk) {n val} : (s.skimPartClear n val).memOk := h.eachTile

theorem grpWrite (h : s.memOk) {n o r val} : (s.grpWrite n o r val).memOk := .ite h.modPart h.modPart

theorem ownerWrite (h : s.memOk) {n o r val} : (s.ownerWrite n o r val).memOk := .ite h.modPart h.modPart

theorem partWrite (h : s.memOk) {n o val} : (s.partWrite n o val).memOk := by
  unfold State.partWrite
  split
  exacts [h, .ite h.rennetPartClear <| .ite h.churnPartClear <| .ite h.skimPartClear <| .ite h.stepStatsClear <|
    .ite h.demandForget <| .ite (.ite h.collCancel h) <| .ite h.pailModeWrite <| .ite h.modPart <|
    .ite h.ownerWrite <| .ite h.grpWrite h.modPart]

theorem afterRead (h : s.memOk) {r o} : (s.afterRead r o).memOk := .ite h <| .ite h.setF h.setReg

theorem chipRead (h : s.memOk) {o} : (s.chipRead o).1.memOk := by
  dsimp only [State.chipRead]
  split
  · split
    exacts [h, h.modPort]
  · split
    exacts [h, .update h.afterRead]

theorem fabWrite (h : s.memOk) {o r val} : (s.fabWrite o r val).memOk :=
  .ite h.fabIgnored <| .ite h.fabIgnored h.setReg

theorem portWrite (h : s.memOk) {a p o val} : (s.portWrite a p o val).memOk :=
  .ite (.ite h <| .ite h.modPort.portEnable h.modPort.portDisable) <| .ite h.modPort h

theorem gmWrite (h : s.memOk) {val} : (s.gmWrite val).memOk := .restrata (.ite h.setF.setReg h.setF)

theorem chipWrite (h : s.memOk) {a o val} : (s.chipWrite a o val).memOk := by
  unfold State.chipWrite
  split
  · exact h.portWrite
  · split
    exacts [h, .ite (.ite h h.setReg.alertSync) <| .ite h.chipIdWrite <| .ite h.fabWrite <| .ite h.meshFreqChange <|
      .ite h.timeSet <| .ite h.gmWrite <| .ite h <| .ite h.setReg.retarget.alertSync h.setReg.alertSync]

theorem mbRead (h : s.memOk) {p o} : (s.mbRead p o).1.memOk := by
  dsimp only [State.mbRead]
  split
  exacts [h, .iteFst h h.setPair]

theorem doorbell (h : s.memOk) {p val} : (s.doorbell p val).memOk :=
  .ite h.setPair.logOpen <| .ite h.setPair.trace h.setPair.tracePart

theorem flushOne (h : s.memOk) {p} : (s.flushOne p).memOk := by
  unfold State.flushOne
  split
  exacts [h, .ite h h.modPair.postRsp]

theorem flushRsp (h : s.memOk) {p} : (s.flushRsp p).memOk := h.foldN fun _ h => h.flushOne

theorem rspHeadWrite (h : s.memOk) {p val} : (s.rspHeadWrite p val).memOk := h.modPair.flushRsp

theorem evtHeadWrite (h : s.memOk) {p val} : (s.evtHeadWrite p val).memOk := h.modPair

theorem hostVerWrite (h : s.memOk) {p val} : (s.hostVerWrite p val).memOk := .ite h.modPair h.modPair.modPair.logSev

/-! ### The operations of Machine/Mailbox.lean -/

theorem mbRespond (h : s.memOk) {p req code res} : (s.mbRespond p req code res).memOk :=
  .ite h <| .ite h.modPair h.postRsp

theorem sweepOne (h : s.memOk) {p} : (s.sweepOne p).memOk := by
  unfold State.sweepOne
  split
  exacts [h, .ite h.modPair.mbRespond h]

theorem sweep (h : s.memOk) {p} : (s.sweep p).memOk := h.foldN fun _ h => h.sweepOne

theorem mbFinish (h : s.memOk) {p k code res} : (s.mbFinish p k code res).memOk := by
  unfold State.mbFinish
  split
  exacts [h, h.modPair.mbRespond.sweep]

theorem stay (h : s.memOk) {p k stage aux} : (s.stay p k stage aux).memOk := h.modPair

theorem requestTake (h : s.memOk) {p} : (s.requestTake p).memOk := by
  unfold State.requestTake
  refine .ite h ?_
  extract_lets u f v x head ws w y bad z
  have hw : w.memOk := .setPair (.ite h (.update h.asService))
  have hz : z.memOk := .modPair (.ite hw hw.tracePart)
  exact .ite hz.mbFinish hz.sweep

theorem serving (h : s.memOk) {p k op} : (s.serving p k op).memOk := .ite h.asService h

theorem command (h : s.memOk) {p k op col abs rel act} (hf : ∀ t, (act t).memOk) :
    (s.command p k op col abs rel act).memOk := by
  unfold State.command
  split
  exacts [h, .ite (hf _) (.ite h.mbFinish (hf _))]

theorem stopTiles (h : s.memOk) {ts mask} : (s.stopTiles ts mask).1.memOk := h.foldl fun _ h => h.modTile

theorem restoreStops (h : s.memOk) {aux} : (s.restoreStops aux).memOk := h.foldl fun _ h => h.modTile

theorem modSvc (h : s.memOk) {n f} : (s.modSvc n f).memOk := h.modSys

theorem setSvcCtx (h : s.memOk) {n c x} : (s.setSvcCtx n c x).memOk := h.modSvc

theorem modSvcCtx (h : s.memOk) {n c f} : (s.modSvcCtx n c f).memOk := h.modSvc

theorem undo (h : s.memOk) {p t} : (s.undo p t).memOk :=
  .ite h <| .ite h.restoreStops.modSvcCtx <| .ite h.restoreStops <| .ite h.setSvcCtx <| .ite h.modSvcCtx h

theorem abortPair (h : s.memOk) {p keep} : (s.abortPair p keep).memOk := h.modPair.foldl fun _ h => h.undo.mbRespond

theorem discardRequests (h : s.memOk) {p} : (s.discardRequests p).memOk := h.modPair

theorem drawn (h : s.memOk) : s.drawn.memOk := .update h

/-! ### The operations of Machine/Boot.lean -/

theorem eachPair (h : s.memOk) {f} : (s.eachPair f).memOk := h.foldl fun _ h => h.modPair

theorem bootFails (h : s.memOk) {code} : (s.bootFails code).memOk := h.modPair.stageIs

theorem bootFrom (h : s.memOk) {b} : (s.bootFrom b).memOk :=
  .ite h.stageIs.stageIs.bootFails <|
    .ite h.stageIs.stageIs.stageIs.eachPair.bootFails
    (.setReg (.update h.stageIs.stageIs.stageIs.eachPair.eachPair.stageIs))

theorem bootGo (h : s.memOk) {val} : (s.bootGo val).memOk :=
  .ite h <| .ite h.modPair.stageIs.bootFails <| .ite h.modPair.stageIs.bootFails h.modPair.bootFrom

theorem warmReset (h : s.memOk) {newImage} : (s.warmReset newImage).memOk :=
  .ite (.update h.deviceClear) (.bootFrom (.update h.deviceClear))

theorem serviceStops (h : s.memOk) : s.serviceStops.memOk := .eachPair (.foldl (.update h) fun _ h => h.abortPair)

theorem serviceFails (h : s.memOk) {code core} : (s.serviceFails code core).memOk := .ite h h.logOpen.serviceStops

theorem svcViolates (h : s.memOk) {n} : (s.svcViolates n).memOk := h.serviceFails

theorem reach (h : s.memOk) {a ok f} (hf : ∀ {s : State}, s.memOk → (f s).memOk) : (s.reach a ok f).memOk := by
  unfold State.reach
  refine .ite h ?_
  refine .ite (hf h.asAgent) ?_
  split
  exacts [h.asService.svcViolates, h]

theorem svcRestart (h : s.memOk) : s.svcRestart.memOk := by
  dsimp only [State.svcRestart]
  refine .ite h ?_
  split
  exacts [.mbFinish (.update (.drawn (.trace (.foldl (.update h.eachPair) fun _ h => h.logSev)))),
    .trace (.foldl (.update h.eachPair) fun _ h => h.logSev)]

theorem rootLockstep (h : s.memOk) : s.rootLockstep.memOk :=
  .ite h (.alertSync (.stopTiles (.update h.aonCause.eachPair)))

theorem mbWrite (h : s.memOk) {p o val} : (s.mbWrite p o val).memOk := by
  unfold State.mbWrite
  split
  exacts [h, .ite h <| .ite h.bootGo <| .ite h.doorbell <| .ite h.rspHeadWrite <| .ite h.evtHeadWrite <|
    .ite h.hostVerWrite h.modPair]

theorem busWrite4 (h : s.memOk) {a addr val} : (s.busWrite4 a addr val).memOk := by
  unfold State.busWrite4
  split
  exacts [h.mbWrite, .ite h.partWrite h, h.chipWrite, .ite h.tilePut h, h]

theorem busRead4 (h : s.memOk) {a addr} : (s.busRead4 a addr).1.memOk := by
  unfold State.busRead4
  split
  exacts [h.mbRead, .iteFst h.partRead h, h.chipRead, .iteFst h.tileRead h, h]

theorem registerWrite (h : s.memOk) {a addr size val} : (s.registerWrite a addr size val).memOk :=
  .ite h <| .ite ((h.reach fun h => h.busWrite4).reach fun h => h.busWrite4) (h.reach fun h => h.busWrite4)

theorem registerRead (h : s.memOk) {a addr size} : (s.registerRead a addr size).memOk := by
  dsimp only [State.registerRead]
  refine .ite h <| .ite (.update h) <| .ite (h.reach fun h => h) ?_
  split
  exacts [.update h, .ite (.update h.asAgent.busRead4) (.update h.asAgent.busRead4.busRead4)]

/-! ### The operations of Machine/PartCmd.lean -/

theorem partCreate (h : s.memOk) {p k} : (s.partCreate p k).memOk :=
  h.command fun _ => h.setPart.setSys.phaseIdle.modPair.mbFinish

theorem collReset (h : s.memOk) {n} : (s.collReset n).memOk := by
  unfold State.collReset
  refine .noteEngine (.modPart (h.foldl fun _ h => ?_))
  split
  exacts [h, .withdraw (.setCtx (.dropCollTags (.ite h.sendNotices h)))]

theorem poolFreed (h : s.memOk) {n} : (s.poolFreed n).memOk := .foldl (.noteEngine (.update h)) fun _ h => h.grantSlots

theorem jobsEnd (h : s.memOk) {t} : (s.jobsEnd t).memOk := .update h.skimEnds.modTile

theorem resetStart (h : s.memOk) {n keepVat destroy w} : (s.resetStart n keepVat destroy w).memOk :=
  .tracePart (.collReset
    (.foldl (.discardRequests (.abortPair (.modSys (.ite h.ingressFlush h.ingressFlush.modPart)))) fun _ h =>
    h.jobsEnd))

theorem resetSteps (h : s.memOk) {n l} : (s.resetSteps n l).memOk := h.foldl fun _ h => h.tracePart

theorem resetZeroes (h : s.memOk) {n} : (s.resetZeroes n).memOk :=
  (h.modSys.modPart.foldl fun _ h => h.modTile).resetSteps

theorem resetUnits (h : s.memOk) {n keepVat} : (s.resetUnits n keepVat).memOk :=
  .poolFreed (.setSys (.setPart (.foldl (.update (h.foldl fun _ h => h.zeroUnit)) fun _ h => h.modTile)))

theorem resetResponds (h : s.memOk) {n code res} : (s.resetResponds n code res).memOk := by
  unfold State.resetResponds
  split
  exacts [h.mbFinish, h]

theorem partResetZeroingDone (h : s.memOk) {n} : (s.partResetZeroingDone n).memOk :=
  .ite h <| .ite h.resetUnits.resetSteps.setPart.modPair.resetResponds
    h.resetUnits.resetSteps.modPart.phaseIdle.drawn.resetResponds

theorem resetGoesOn (h : s.memOk) {n} : (s.resetGoesOn n).memOk := .ite h.resetZeroes h

theorem partReset (h : s.memOk) {p k} : (s.partReset p k).memOk :=
  h.command fun _ => .ite h.resetStart.stay h.resetGoesOn

theorem partDestroy (h : s.memOk) {p k} : (s.partDestroy p k).memOk :=
  h.command fun _ => .ite h.resetStart.stay h.resetGoesOn

theorem partResetTimeout (h : s.memOk) {n} : (s.partResetTimeout n).memOk := .ite h h.modSys.logOpen

theorem partBroken (h : s.memOk) {n} : (s.partBroken n).memOk := .ite h h.modSys.modPart.resetResponds

theorem windowSet (h : s.memOk) {p k} : (s.windowSet p k).memOk :=
  h.command fun _ => .ite (.ite h.modPart.mbFinish h.modPart.stay) <| .ite h h.mbFinish

theorem keyLoad (h : s.memOk) {p k} : (s.keyLoad p k).memOk := h.command fun _ => h.modPart.mbFinish

/-! ### The operations of Machine/RootCmd.lean -/

theorem ping (h : s.memOk) {p k} : (s.ping p k).memOk := h.command fun _ => h.mbFinish

theorem getVersion (h : s.memOk) {p k} : (s.getVersion p k).memOk := h.command fun _ => h.mbFinish

theorem getInfo (h : s.memOk) {p k} : (s.getInfo p k).memOk :=
  h.command fun _ => .ite h.mbFinish <| .ite h.drawn.mbFinish h.mbFinish

theorem logLevel (h : s.memOk) {p k} : (s.logLevel p k).memOk := h.command fun _ => h.modPair.mbFinish

theorem traceCfg (h : s.memOk) {p k} : (s.traceCfg p k).memOk := h.command fun _ => h.modPair.mbFinish

theorem markTo (h : s.memOk) {pair point core arg} : (s.markTo pair point core arg).memOk := by
  unfold State.markTo
  split
  exacts [h, ⟨h.1, memWrite_wf h.2⟩]

theorem traceMark (h : s.memOk) {p k} : (s.traceMark p k).memOk :=
  h.command fun _ => .mbFinish (.ite h.markTo h.markTo.markTo)

theorem powerLimit (h : s.memOk) {p k} : (s.powerLimit p k).memOk :=
  h.command fun _ => .mbFinish (.alertSync (.retarget (.ite h.setF.setF.setF.setF h.setF)))

theorem budgetSource (h : s.memOk) {p k} : (s.budgetSource p k).memOk :=
  h.command fun _ => .mbFinish (.alertSync (.retarget (.ite h.setF.setF.setF.setF h.setF)))

theorem fabricWords (h : s.memOk) {w} : (s.fabricWords w).memOk :=
  .ite h.setReg.reseedFabric.setReg.setReg.setReg.setReg h.setReg.reseedFabric.setReg.setF

theorem fabricSet (h : s.memOk) {p k} : (s.fabricSet p k).memOk :=
  h.command fun _ => .ite (h.foldl fun _ h => h.portDisable).stay <|
    .ite h (h.fabricWords.foldl fun _ h => h.portEnable).mbFinish

theorem portSet (h : s.memOk) {p k} : (s.portSet p k).memOk :=
  h.command fun _ => (h.foldl fun _ h => .ite (.portEnable (.ite h.modPort h))
    (.portDisable (.ite h.modPort h))).mbFinish

theorem collCfg (h : s.memOk) {p k} : (s.collCfg p k).memOk :=
  h.command fun _ => .mbFinish (.ite (h.setReg.foldl fun _ h => h.setReg) h.setReg)

theorem fwStage (h : s.memOk) {p k} : (s.fwStage p k).memOk :=
  h.command fun _ => .mbFinish (.ite (.trace (.update h)) (.update h))

theorem swapService (h : s.memOk) {root} : (s.swapService root).memOk := .trace (.eachPair (.update h.serviceStops))

theorem fwActivate (h : s.memOk) {p k} : (s.fwActivate p k).memOk :=
  h.command fun _ => .ite (.stay (.update h)) <| .ite h.swapService.stay h

theorem nvRead (h : s.memOk) {p k} : (s.nvRead p k).memOk := by
  dsimp only [State.nvRead]
  exact h.command fun _ => .mbFinish (.write h.1 (memWrite_wf h.2))

theorem deviceResetCmd (h : s.memOk) {p k} : (s.deviceResetCmd p k).memOk := by
  dsimp only [State.deviceResetCmd]
  split
  exacts [h.warmReset, h.command fun _ => .mbFinish (.update h.trace)]

theorem railsFall (h : s.memOk) : s.railsFall.memOk := h.trace.holdDevice

theorem powerDownCmd (h : s.memOk) {p k} : (s.powerDownCmd p k).memOk :=
  .ite h.railsFall (h.command fun _ => .ite (.stay (.update h.stopTiles.trace)) <|
    .ite (.ite (.update (h.foldl fun _ h => h.ingressFlush)) h) <| .ite (.mbFinish (.update h.writeTcyc)) h)

theorem pfFlr (h : s.memOk) : s.pfFlr.memOk := .ite h.warmReset h

theorem vfFlr (h : s.memOk) {n} : (s.vfFlr n).memOk := .ite h h.abortPair.modPair.logSev

/-! ### The operations of Machine/Scalar.lean -/

theorem portStore (h : s.memOk) {t addr size val} : (s.portStore t addr size val).memOk :=
  .ite h.setTile <| .ite h.setTile.tileWrite h.setTile

theorem scLoad (h : s.memOk) {t rd addr size signed} : (s.scLoad t rd addr size signed).memOk :=
  .ite (.ite h.setTile <| .ite h.setTile h.setTile.modTile) <|
    .ite (.ite h.setTile <| .ite (.modTile (.iteFst h.tileRead h)) (.modTile (.update h))) h.setTile

theorem scStore (h : s.memOk) {t addr size val} : (s.scStore t addr size val).memOk :=
  .ite (.ite h.setTile <| .ite h h.setTile) <| .ite (.ite h.setTile h.setTile.portStore) h.setTile

theorem scExecute (h : s.memOk) {t y act} : (s.scExecute t y act).memOk := by
  dsimp only [State.scExecute]
  split
  exacts [h.setTile.setTile, h.setTile.setTile, h.setTile.setTile, h.setTile.scLoad, h.setTile.scStore,
    h.setTile.setTile, h.setTile.setTile, h.setTile, h.setTile]

theorem scStep (h : s.memOk) {t} : (s.scStep t).memOk := by
  unfold State.scStep
  split
  exacts [h.setTile, h.scExecute]

theorem scServed (h : s.memOk) {t f} (hf : ∀ {s : State}, s.memOk → (f s).memOk) : (s.scServed t f).memOk :=
  h.banked fun h => hf h

theorem scalarInstruction (h : s.memOk) {t} : (s.scalarInstruction t).memOk := by
  dsimp only [State.scalarInstruction]
  split
  exacts [.ite h.portStore h, .ite (h.scServed fun h => h.scStep) h]

theorem noteExit (h : s.memOk) {t code} : (s.noteExit t code).memOk := by
  dsimp only [State.noteExit]
  split
  exacts [h, h.modSys]

theorem ecallStep (h : s.memOk) {t} : (s.ecallStep t).memOk := by
  dsimp only [State.ecallStep]
  split
  exacts [.ite (.ite h.setTile.noteExit h.setTile.log) h.setTile, h]

theorem ecall (h : s.memOk) {t} : (s.ecall t).memOk := .ite (h.scServed fun h => h.ecallStep) h

theorem ebreak (h : s.memOk) {t} : (s.ebreak t).memOk := .ite (h.scServed fun h => h.modTile) h

/-! ### The operations of Machine/Context.lean -/

theorem ctxTrace (h : s.memOk) {n c kind o} : (s.ctxTrace n c kind o).memOk := h.tracePart

theorem placeCtx (h : s.memOk) {n c o} : (s.placeCtx n c o).memOk := h.modSvcCtx.ctxTrace

theorem writeImage (h : s.memOk) {t c} : (s.writeImage t c).memOk :=
  (h.modTile.foldl fun _ h => h.homeWrite).drawn.modTile

theorem readImage (h : s.memOk) {t old c ws} : (s.readImage t old c ws).memOk := by
  have hr : ∀ {u : State} {a n} , u.memOk → (u.homeRead a n).1.memOk := fun h => h.homeRead
  unfold State.readImage
  exact .modTile (hr (hr (hr (hr (hr (hr h))))))

theorem saveCtx (h : s.memOk) {n c slot stops wait} : (s.saveCtx n c slot stops wait).memOk := by
  dsimp only [State.saveCtx]
  split
  exacts [h, (h.foldl fun _ h => h.writeImage).modSvcCtx.ctxTrace]

theorem restoreCtx (h : s.memOk) {n c o} : (s.restoreCtx n c o).memOk := by
  dsimp only [State.restoreCtx]
  split
  · exact h
  · split
    exacts [h.placeCtx, (h.foldl fun _ h => h.readImage.modTile).modSvcCtx.ctxTrace]

theorem tryPlace (h : s.memOk) {n c fixed} : (s.tryPlace n c fixed).memOk := by
  unfold State.tryPlace
  split
  · exact h
  · refine .ite h ?_
    split
    exacts [h.restoreCtx, h]

theorem giveWay (h : s.memOk) {n c} : (s.giveWay n c).memOk := by
  dsimp only [State.giveWay]
  split
  · exact h
  · refine .ite h.stopTiles.modSvcCtx ?_
    refine .ite ?_ h
    split
    exacts [h, h.drawn.saveCtx]

theorem schedSlice (h : s.memOk) {n} : (s.schedSlice n).memOk := by
  dsimp only [State.schedSlice]
  refine .ite h ?_
  split
  · exact h.asService
  · split
    · exact h.asService.restoreCtx
    · split
      exacts [h.asService, h.asService.foldl fun _ h => h.giveWay]

theorem copyColumns (h : s.memOk) {from_ to_ len} : (s.copyColumns from_ to_ len).memOk := by
  refine .write ?_ h.2
  refine List.foldlRecOn (motive := fun m => Memory.wf m = true) _ _ h.1 fun m hm p _ => ?_
  exact List.foldlRecOn (motive := fun m => Memory.wf m = true) _ _ (memZero_wf hm) fun m hm x _ => tabSet_wf byteD
    _ _ hm

theorem rotateCtx (h : s.memOk) {n c x} : (s.rotateCtx n c x).memOk := by
  dsimp only [State.rotateCtx]
  split
  · exact h
  · refine .ite h ?_
    refine .ite h ?_
    split
    exacts [h, h.drawn.stopTiles.saveCtx.copyColumns.restoreCtx.tracePart]

theorem rotationPeriod (h : s.memOk) {n} : (s.rotationPeriod n).memOk := by
  unfold State.rotationPeriod
  refine .ite h (h.asService.foldl fun _ h => ?_)
  split
  exacts [.ite h.rotateCtx h, h]

/-! ### The operations of Machine/SvcCmd.lean -/

theorem placedResponse (h : s.memOk) {p k c res} : (s.placedResponse p k c res).memOk := by
  unfold State.placedResponse
  split
  exacts [h.mbFinish, h.stay]

theorem ctxCreate (h : s.memOk) {p k} : (s.ctxCreate p k).memOk :=
  h.command fun _ => .placedResponse (.tryPlace (.ite h.drawn.setSvcCtx.ctxTrace h))

theorem ctxDestroy (h : s.memOk) {p k} : (s.ctxDestroy p k).memOk :=
  h.command fun _ => h.setSvcCtx.modSvc.ctxTrace.mbFinish

theorem ctxSave (h : s.memOk) {p k} : (s.ctxSave p k).memOk :=
  h.command fun _ => .ite h.stopTiles.modSvcCtx.stay <| .ite h.drawn.saveCtx.mbFinish h

theorem ctxRestore (h : s.memOk) {p k} : (s.ctxRestore p k).memOk :=
  h.command fun _ => .placedResponse (.tryPlace (.ite h.modSvcCtx h))

theorem queueCreate (h : s.memOk) {p k} : (s.queueCreate p k).memOk := h.command fun _ => h.drawn.modSvc.mbFinish

theorem queueDestroy (h : s.memOk) {p k} : (s.queueDestroy p k).memOk := h.command fun _ => h.modSvc.mbFinish

theorem fetchImage (h : s.memOk) {w} : (s.fetchImage w).1.memOk := .iteFst h.homeRead h

theorem launchStart (h : s.memOk) {p k c o x w} : (s.launchStart p k c o x w).memOk :=
  (h.fetchImage.foldl fun _ h => h.modTile).modSvcCtx.stay

theorem launch (h : s.memOk) {p k} : (s.launch p k).memOk := by
  dsimp only [State.launch]
  refine h.command fun _ => ?_
  have hs : ∀ {c : Prop} [Decidable c] {l}, (if c then s.stay p k 1 l else s).memOk := .ite h.stay h
  refine .ite hs ?_
  split
  · exact hs
  · split
    exacts [hs, .ite hs <| .ite hs.mbFinish hs.launchStart]

theorem launchComplete (h : s.memOk) {n c} : (s.launchComplete n c).memOk := by
  dsimp only [State.launchComplete]
  refine .ite h ?_
  split
  · exact h.asService
  · split
    · exact h.asService
    · refine .ite h.asService ?_
      split
      exacts [h.asService.drawn.modSvcCtx.mbFinish, h.asService.drawn.modSvcCtx]

theorem faultRead (h : s.memOk) {p k} : (s.faultRead p k).memOk := h.command fun _ => h.mbFinish

theorem faultClearCmd (h : s.memOk) {p k} : (s.faultClearCmd p k).memOk :=
  h.command fun _ => (h.foldl fun _ h => h.faultClear).mbFinish

theorem semSet (h : s.memOk) {p k} : (s.semSet p k).memOk := by
  dsimp only [State.semSet]
  refine h.command fun _ => ?_
  split
  exacts [h.tilePut.mbFinish, .ite h.stopTiles.stay (.ite h.tilePut.restoreStops.mbFinish h)]

theorem stateExport (h : s.memOk) {p k} : (s.stateExport p k).memOk := by
  dsimp only [State.stateExport]
  exact h.command fun _ => .mbFinish (.write h.1 (memWrite_wf h.2))

theorem stateImport (h : s.memOk) {p k} : (s.stateImport p k).memOk := h.command fun _ => h.modTile.mbFinish

theorem ownerSet (h : s.memOk) {p k} : (s.ownerSet p k).memOk :=
  h.command fun _ => (h.foldl fun _ h => h.partWrite).mbFinish

theorem groupSet (h : s.memOk) {p k} : (s.groupSet p k).memOk := h.command fun _ => .ite h.modPart.mbFinish h.stay

theorem pailModeSet (h : s.memOk) {p k} : (s.pailModeSet p k).memOk :=
  h.command fun _ => .ite h.mbFinish <| .ite h.stopTiles.stay <| .ite h.drawn.pailModeWrite.restoreStops.mbFinish h

theorem collCancelCmd (h : s.memOk) {p k} : (s.collCancelCmd p k).memOk := h.command fun _ => h.collCancel.mbFinish

theorem schedCfg (h : s.memOk) {p k} : (s.schedCfg p k).memOk := h.command fun _ => h.modSvc.mbFinish

theorem telemetryCmd (h : s.memOk) {p k} : (s.telemetryCmd p k).memOk := by
  dsimp only [State.telemetryCmd]
  exact h.command fun _ => .mbFinish (.write h.1 (memWrite_wf h.2))

/-! ### The operations of Machine/Bar2.lean -/

theorem bar2Refused (h : s.memOk) {n off write} : (s.bar2Refused n off write).memOk := h.modPart.log

theorem bar2Write (h : s.memOk) {n off data relaxed} : (s.bar2Write n off data relaxed).memOk :=
  .ite h <| .ite h.bar2Refused (.update h)

theorem ingressTurn (h : s.memOk) : s.ingressTurn.memOk := by
  unfold State.ingressTurn
  split
  · exact h
  · split
    exacts [h.drawn, h.drawn.ingressPerform]

theorem readServe (h : s.memOk) {r} : (s.readServe r).memOk := .ite (.update h.bar2Refused) (.update h.homeRead.drawn)

theorem bar2Read (h : s.memOk) {n off len} : (s.bar2Read n off len).memOk :=
  .ite h <| .ite (.update h.ingressFlush) h.ingressFlush.readServe

theorem readTurn (h : s.memOk) : s.readTurn.memOk := by
  unfold State.readTurn
  split
  · split
    exacts [.readServe (.update h), h]
  · exact h

/-! ### The operations of Machine/Cycle.lean -/

theorem setCyc (h : s.memOk) {c} : (s.setCyc c).memOk := h.setReg.setReg

theorem upsets (h : s.memOk) : s.upsets.memOk := by
  unfold State.upsets
  split
  exacts [h.drawn, h.drawn.inTile]

theorem meshCycle (h : s.memOk) : s.meshCycle.memOk :=
  .ite h ((h.foldl fun _ h => .ite h.modTile h).setCyc.foldl fun _ h => h.faultTraced fun h =>
    h.modTile).meshTurns.ingressTurn.readTurn.upsets

/-! ### The operations of Machine/ExecTile.lean -/

theorem unitStep (h : s.memOk) {t f} (hf : ∀ {s : State}, s.memOk → (f s).memOk) : (s.unitStep t f).memOk :=
  h.inClock fun h => h.faultTraced fun h => hf h

theorem tileUnit (h : s.memOk) {t f} : (s.tileUnit t f).memOk := h.unitStep fun h => h.modTile

theorem tileReg (h : s.memOk) {a t o val} : (s.tileReg a t o val).memOk := h.reach fun h => h.tilePut

theorem partReg (h : s.memOk) {a n o val} : (s.partReg a n o val).memOk := h.reach fun h => h.partWrite

theorem chipReg (h : s.memOk) {a o val} : (s.chipReg a o val).memOk := h.reach fun h => h.chipWrite

theorem pairReg (h : s.memOk) {a p o val} : (s.pairReg a p o val).memOk := h.reach fun h => h.mbWrite

theorem when (h : s.memOk) {b f} (hf : ∀ {s : State}, s.memOk → (f s).memOk) : (s.when b f).memOk := .ite (hf h) h

theorem drawing (h : s.memOk) {f} (hf : ∀ {s : State}, s.memOk → (f s).memOk) : (s.drawing f).memOk := (hf h).drawn

/-! ### The operations of Machine/ExecMem.lean -/

theorem inColumn (h : s.memOk) {c f} (hf : ∀ {s : State}, s.memOk → (f s).memOk) : (s.inColumn c f).memOk :=
  .ite (hf h) h

end State.memOk

/-- Every command goes on, and its effect keeps the memories canonical. -/
theorem exec_memOk {s : State} (h : s.memOk) : ∀ i : Instr, ∃ u, exec i s = .next u ∧ u.memOk
  | .registerWrite .. => ⟨_, rfl, h.registerWrite⟩
  | .rcRead .. => ⟨_, rfl, h.registerRead⟩
  | .lowHalfRead .. => ⟨_, rfl, h.registerRead⟩
  | .matrixPass .. => ⟨_, rfl, h.tileUnit⟩
  | .weightLoad .. => ⟨_, rfl, h.tileUnit⟩
  | .modeChange .. => ⟨_, rfl, h.tileUnit⟩
  | .matrixPassComplete .. => ⟨_, rfl, h.tileUnit⟩
  | .drainRow .. => ⟨_, rfl, h.when fun h => h.tileUnit⟩
  | .rowLinkHold .. => ⟨_, rfl, h.tileUnit⟩
  | .columnLinkRefuse .. => ⟨_, rfl, h.tileUnit⟩
  | .seedExpansion .. => ⟨_, rfl, h.when fun h => h.tileReg⟩
  | .seedExpansionDone .. => ⟨_, rfl, h.when fun h => h.tileUnit⟩
  | .srSeedWrite .. => ⟨_, rfl, h.tileReg⟩
  | .srReseedTake .. => ⟨_, rfl, h.when fun h => h.tileUnit⟩
  | .rennetPartClear .. => ⟨_, rfl, h.partReg⟩
  | .drainPush .. => ⟨_, rfl, h.when fun h => h.tileReg⟩
  | .queuePush .. => ⟨_, rfl, h.when fun h => h.tileReg⟩
  | .qOpcodeReject .. => ⟨_, rfl, h.when fun h => h.unitStep fun h => h.qOpcodeReject⟩
  | .semWait .. => ⟨_, rfl, h.when fun h => h.unitStep fun h => h.semWait⟩
  | .semSignal .. => ⟨_, rfl, h.when fun h => h.unitStep fun h => h.semSignal⟩
  | .semSignalArrive .. => ⟨_, rfl, h.when fun h => h.faultTraced fun h => h.semSignalArrive⟩
  | .barSync .. => ⟨_, rfl, h.when fun h => h.unitStep fun h => h.barSync⟩
  | .barArrive .. => ⟨_, rfl, h.when fun h => h.unitStep fun h => h.barArrive⟩
  | .fence .. => ⟨_, rfl, h.when fun h => h.unitStep fun h => h.fence⟩
  | .syncTimeout .. => ⟨_, rfl, h.when fun h => h.unitStep fun h => h.syncTimeout⟩
  | .faultRecordClear .. => ⟨_, rfl, h.tileReg⟩
  | .scalarInstruction .. => ⟨_, rfl, h.unitStep fun h => h.scalarInstruction⟩
  | .ecall .. => ⟨_, rfl, h.unitStep fun h => h.ecall⟩
  | .ebreak .. => ⟨_, rfl, h.unitStep fun h => h.ebreak⟩
  | .svcReqClear .. => ⟨_, rfl, h.tileReg⟩
  | .qctlStopWrite .. => ⟨_, rfl, h.tileReg⟩
  | .vload .. => ⟨_, rfl, h.tileUnit⟩
  | .vstore .. => ⟨_, rfl, h.tileUnit⟩
  | .vop .. => ⟨_, rfl, h.tileUnit⟩
  | .vsum .. => ⟨_, rfl, h.tileUnit⟩
  | .vnarrow .. => ⟨_, rfl, h.tileUnit⟩
  | .copy .. => ⟨_, rfl, h.unitStep fun h => h.ladleCommand⟩
  | .gather .. => ⟨_, rfl, h.unitStep fun h => h.ladleCommand⟩
  | .scatter .. => ⟨_, rfl, h.unitStep fun h => h.ladleCommand⟩
  | .zero .. => ⟨_, rfl, h.unitStep fun h => h.ladleCommand⟩
  | .pailInv .. => ⟨_, rfl, h.unitStep fun h => h.ladleCommand⟩
  | .ladleTxnIssue .. => ⟨_, rfl, h.when fun h => h.unitStep fun h => h.ladleTxnIssue⟩
  | .fabTagTake => ⟨_, rfl, h.when fun h => h.tagTake⟩
  | .ladleTxnComplete .. => ⟨_, rfl, h.unitStep fun h => h.ladleTxnComplete⟩
  | .ladleFabricTimeout .. => ⟨_, rfl, h.unitStep fun h => h.ladleFabricTimeout⟩
  | .vatEntryStart .. => ⟨_, rfl, h.inColumn fun h => h.vatEntryStart⟩
  | .vatRefresh .. => ⟨_, rfl, h.inColumn fun h => h.modTile⟩
  | .vatLaneCal .. => ⟨_, rfl, h.inColumn fun h => h.vatLaneCal⟩
  | .senseLineTest .. => ⟨_, rfl, h.inColumn fun h => h.senseLineTest⟩
  | .vatScrubRow .. => ⟨_, rfl, h.inColumn fun h => h.vatScrubRow⟩
  | .scrubForce .. => ⟨_, rfl, h.inColumn fun h => h.modTile⟩
  | .repairCopyRow .. => ⟨_, rfl, h.inColumn fun h => h.repairCopyRow⟩
  | .pailModeWrite .. => ⟨_, rfl, h.when fun h => h.partReg⟩
  | .pailZeroingDone .. => ⟨_, rfl, h.when fun h => h.pailZeroingDone.collResume⟩
  | .pailSliceAccess .. => ⟨_, rfl, h.when fun h => h.pailSliceAccess⟩
  | .pailFill .. => ⟨_, rfl, h.when fun h => h.pailFill⟩
  | .invAll .. => ⟨_, rfl, h.tileReg⟩
  | .invAllDone .. => ⟨_, rfl, h.inTile⟩
  | .churnGo .. => ⟨_, rfl, h.tileReg⟩
  | .churnJobStart .. => ⟨_, rfl, h.drawing fun h => h.tileUnit⟩
  | .churnJobFault .. => ⟨_, rfl, h.drawing fun h => h.tileUnit⟩
  | .churnJobComplete .. => ⟨_, rfl, h.drawing fun h => h.tileUnit⟩
  | .churnPartClear .. => ⟨_, rfl, h.partReg⟩
  | .stepStatsClear .. => ⟨_, rfl, h.partReg⟩
  | .skimGo .. => ⟨_, rfl, h.tileReg⟩
  | .skimJobFault .. => ⟨_, rfl, h.unitStep fun h => h.skimFault⟩
  | .skimJobComplete .. => ⟨_, rfl, h.unitStep fun h => h.skimComplete⟩
  | .skimPartClear .. => ⟨_, rfl, h.partReg⟩
  | .portEnable .. => ⟨_, rfl, h.reach fun h => h.portEnable⟩
  | .portDisable .. => ⟨_, rfl, h.reach fun h => h.portDisable⟩
  | .linkTrained .. => ⟨_, rfl, h.linkTrained⟩
  | .trainTimeout .. => ⟨_, rfl, h.trainTimeout⟩
  | .trainRetry .. => ⟨_, rfl, h.when fun h => h.modPort⟩
  | .leadReq .. => ⟨_, rfl, h.leadReq⟩
  | .leadAck .. => ⟨_, rfl, h.when fun h => h.modPort⟩
  | .leadNak .. => ⟨_, rfl, h.leadNak⟩
  | .leadBackoffExpiry .. => ⟨_, rfl, h.leadBackoffExpiry⟩
  | .leadReqTimeout .. => ⟨_, rfl, h.leadReqTimeout⟩
  | .fabChipIdWrite .. => ⟨_, rfl, h.chipReg⟩
  | .heartbeatSend .. => ⟨_, rfl, h.heartbeatSend⟩
  | .heartbeatReceive .. => ⟨_, rfl, h.heartbeatReceive⟩
  | .heartbeatTimeout .. => ⟨_, rfl, h.heartbeatTimeout⟩
  | .lossOfSignal .. => ⟨_, rfl, h.lossOfSignal⟩
  | .downNotice .. => ⟨_, rfl, h.downNotice⟩
  | .linkRetrain .. => ⟨_, rfl, h.linkRetrain⟩
  | .flitReceive .. => ⟨_, rfl, h.flitReceive⟩
  | .replayTimeout .. => ⟨_, rfl, h.replayTimeout⟩
  | .flitTransmit .. => ⟨_, rfl, h.when fun h => h.modPort⟩
  | .flitRoute .. => ⟨_, rfl, h.flitRoute⟩
  | .ladlePacketArrive => ⟨_, rfl, h.when fun h => h.ladlePacketArrive⟩
  | .collPost .. => ⟨_, rfl, h.tileReg⟩
  | .collContextGrant => ⟨_, rfl, h.when fun h => h.collContextGrant⟩
  | .collSignature .. => ⟨_, rfl, h.when fun h => h.collSignature⟩
  | .collCounts .. => ⟨_, rfl, h.collCounts⟩
  | .collFragment .. => ⟨_, rfl, h.when fun h => h.collFragment⟩
  | .collGrant .. => ⟨_, rfl, h.collGrant⟩
  | .collComplete .. => ⟨_, rfl, h.collComplete⟩
  | .collAbortNotice .. => ⟨_, rfl, h.when fun h => h.collAbortNotice⟩
  | .collEntryTimeout .. => ⟨_, rfl, h.collEntryTimeout⟩
  | .collProgressTimeout .. => ⟨_, rfl, h.collProgressTimeout⟩
  | .collAbortFinish .. => ⟨_, rfl, h.collAbortFinish⟩
  | .bootGo .. => ⟨_, rfl, h.pairReg⟩
  | .svcWindow .. => ⟨_, rfl, h.serviceFails⟩
  | .svcWatchdog .. => ⟨_, rfl, h.serviceFails⟩
  | .svcTrap .. => ⟨_, rfl, h.serviceFails⟩
  | .svcRestart => ⟨_, rfl, h.svcRestart⟩
  | .rootLockstep => ⟨_, rfl, h.rootLockstep⟩
  | .doorbell .. => ⟨_, rfl, h.pairReg⟩
  | .requestTake .. => ⟨_, rfl, h.requestTake⟩
  | .rspHeadWrite .. => ⟨_, rfl, h.pairReg⟩
  | .evtHeadWrite .. => ⟨_, rfl, h.pairReg⟩
  | .hostVerWrite .. => ⟨_, rfl, h.pairReg⟩
  | .ping .. => ⟨_, rfl, h.serving.ping⟩
  | .getVersion .. => ⟨_, rfl, h.serving.getVersion⟩
  | .getInfo .. => ⟨_, rfl, h.serving.getInfo⟩
  | .logLevel .. => ⟨_, rfl, h.serving.logLevel⟩
  | .traceCfg .. => ⟨_, rfl, h.serving.traceCfg⟩
  | .traceMark .. => ⟨_, rfl, h.serving.traceMark⟩
  | .partCreate .. => ⟨_, rfl, h.partCreate⟩
  | .partDestroy .. => ⟨_, rfl, h.partDestroy⟩
  | .partReset .. => ⟨_, rfl, h.partReset⟩
  | .partResetTimeout .. => ⟨_, rfl, h.partResetTimeout⟩
  | .partBroken .. => ⟨_, rfl, h.partBroken⟩
  | .windowSet .. => ⟨_, rfl, h.windowSet⟩
  | .keyLoad .. => ⟨_, rfl, h.keyLoad⟩
  | .powerLimit .. => ⟨_, rfl, h.powerLimit⟩
  | .budgetSource .. => ⟨_, rfl, h.budgetSource⟩
  | .fabricSet .. => ⟨_, rfl, h.fabricSet⟩
  | .portSet .. => ⟨_, rfl, h.portSet⟩
  | .collCfg .. => ⟨_, rfl, h.collCfg⟩
  | .fwStage .. => ⟨_, rfl, h.fwStage⟩
  | .fwActivate .. => ⟨_, rfl, h.fwActivate⟩
  | .nvRead .. => ⟨_, rfl, h.nvRead⟩
  | .deviceReset .. => ⟨_, rfl, h.deviceResetCmd⟩
  | .powerDown .. => ⟨_, rfl, h.powerDownCmd⟩
  | .ctxCreate .. => ⟨_, rfl, h.serving.ctxCreate⟩
  | .ctxDestroy .. => ⟨_, rfl, h.serving.ctxDestroy⟩
  | .queueCreate .. => ⟨_, rfl, h.serving.queueCreate⟩
  | .queueDestroy .. => ⟨_, rfl, h.serving.queueDestroy⟩
  | .launch .. => ⟨_, rfl, h.serving.launch⟩
  | .launchComplete .. => ⟨_, rfl, h.launchComplete⟩
  | .ctxSave .. => ⟨_, rfl, h.serving.ctxSave⟩
  | .ctxRestore .. => ⟨_, rfl, h.serving.ctxRestore⟩
  | .faultRead .. => ⟨_, rfl, h.serving.faultRead⟩
  | .faultClear .. => ⟨_, rfl, h.serving.faultClearCmd⟩
  | .semSet .. => ⟨_, rfl, h.serving.semSet⟩
  | .stateExport .. => ⟨_, rfl, h.serving.stateExport⟩
  | .stateImport .. => ⟨_, rfl, h.serving.stateImport⟩
  | .ownerSet .. => ⟨_, rfl, h.serving.ownerSet⟩
  | .groupSet .. => ⟨_, rfl, h.serving.groupSet⟩
  | .pailModeSet .. => ⟨_, rfl, h.serving.pailModeSet⟩
  | .collCancel .. => ⟨_, rfl, h.serving.collCancelCmd⟩
  | .schedCfg .. => ⟨_, rfl, h.serving.schedCfg⟩
  | .telemetry .. => ⟨_, rfl, h.serving.telemetryCmd⟩
  | .schedSlice .. => ⟨_, rfl, h.schedSlice⟩
  | .rotationPeriod .. => ⟨_, rfl, h.rotationPeriod⟩
  | .logRepeatFlush .. => ⟨_, rfl, h.logFlush⟩
  | .vfFlr .. => ⟨_, rfl, h.vfFlr⟩
  | .pfFlr => ⟨_, rfl, h.pfFlr⟩
  | .bar2Read .. => ⟨_, rfl, h.bar2Read⟩
  | .bar2Write .. => ⟨_, rfl, h.bar2Write⟩
  | .inputTrip => ⟨_, rfl, h.inputTrip⟩
  | .blockingSwitchOpen => ⟨_, rfl, h.blockingSwitchOpen⟩
  | .busLow => ⟨_, rfl, h.busLow⟩
  | .busRecover => ⟨_, rfl, h.busRecover⟩
  | .vaonStart .. => ⟨_, rfl, h.vaonStart⟩
  | .startup => ⟨_, rfl, h.startup⟩
  | .railGroupTimeout .. => ⟨_, rfl, h.railGroupTimeout⟩
  | .tileWaveStart .. => ⟨_, rfl, h.tileWaveStart⟩
  | .startupZeroingDone .. => ⟨_, rfl, h.startupZeroingDone⟩
  | .railCalSlot .. => ⟨_, rfl, h.railCalSlot⟩
  | .meshFreqChange .. => ⟨_, rfl, h.chipReg⟩
  | .meshClockSwitch => ⟨_, rfl, h.meshClockSwitch⟩
  | .railLoopTick .. => ⟨_, rfl, h.railLoopTick⟩
  | .slewLoopTick .. => ⟨_, rfl, h.slewLoopTick⟩
  | .budgetLoopTick .. => ⟨_, rfl, h.budgetLoopTick⟩
  | .phaseMark .. => ⟨_, rfl, h.tileReg⟩
  | .phaseMarkerApply .. => ⟨_, rfl, h.when fun h => h.phaseMarkerApply⟩
  | .budgetRampTick => ⟨_, rfl, h.budgetRampTick⟩
  | .budgetPinPeriod .. => ⟨_, rfl, h.budgetPinPeriod⟩
  | .budgetPinLoss => ⟨_, rfl, h.budgetPinLoss⟩
  | .budgetI3cLoss => ⟨_, rfl, h.budgetI3cLoss⟩
  | .budgetHoldExpiry => ⟨_, rfl, h.budgetHoldExpiry⟩
  | .demandForget .. => ⟨_, rfl, h.partReg⟩
  | .dieTempRead .. => ⟨_, rfl, h.dieTempRead⟩
  | .vatTempRead .. => ⟨_, rfl, h.vatTempRead⟩
  | .thermalLoopTick .. => ⟨_, rfl, h.thermalLoopTick⟩
  | .coolingReading .. => ⟨_, rfl, h.coolingReading⟩
  | .sensorRetry .. => ⟨_, rfl, h.sensorRetry⟩
  | .sensorTimeout .. => ⟨_, rfl, h.sensorTimeout⟩
  | .thermalCycleTick .. => ⟨_, rfl, h.thermalCycleTick⟩
  | .tcycRecordWrite .. => ⟨_, rfl, h.tcycRecordWrite⟩
  | .oscReady => ⟨_, rfl, h.oscReady⟩
  | .oscTimeout => ⟨_, rfl, h.oscTimeout⟩
  | .refLoss .. => ⟨_, rfl, h.refLoss⟩
  | .refRestore .. => ⟨_, rfl, h.refRestore⟩
  | .timeTick => ⟨_, rfl, h.timeTick⟩
  | .timeSet .. => ⟨_, rfl, h.chipReg⟩
  | .syncLoss => ⟨_, rfl, h.when fun h => h.syncLoss⟩
  | .resetAssert => ⟨_, rfl, h.resetAssert⟩
  | .resetRelease => ⟨_, rfl, h.resetRelease⟩
  | .perst => ⟨_, rfl, h.perst⟩
  | .pcieLinkDown .. => ⟨_, rfl, h.pcieLinkDown⟩
  | .dynamicAddress .. => ⟨_, rfl, h.dynamicAddress⟩
  | .ident => ⟨_, rfl, h.mgmtIdent⟩
  | .cause => ⟨_, rfl, h.mgmtCause⟩
  | .alert => ⟨_, rfl, h.mgmtAlert⟩
  | .alertClr .. => ⟨_, rfl, h.mgmtAlertClr⟩
  | .status => ⟨_, rfl, h.mgmtStatus⟩
  | .input => ⟨_, rfl, h.mgmtInput⟩
  | .power => ⟨_, rfl, h.mgmtPower⟩
  | .temps => ⟨_, rfl, h.mgmtTemps⟩
  | .budgetStat => ⟨_, rfl, h.mgmtBudgetStat⟩
  | .budget .. => ⟨_, rfl, h.mgmtBudget⟩
  | .cool .. => ⟨_, rfl, h.mgmtCool⟩
  | .tcyc => ⟨_, rfl, h.mgmtTcyc⟩
  | .time => ⟨_, rfl, h.mgmtTime⟩
  | .alertResponse => ⟨_, rfl, h.alertResponse⟩
  | .sclTimeout => ⟨_, rfl, h.sclTimeout⟩
  | .uartFrame .. => ⟨_, rfl, h.uartFrame⟩
  | .jtagInstruction .. => ⟨_, rfl, h.jtagInstruction⟩
  | .tapReset => ⟨_, rfl, h.tapReset⟩
  | .telemetrySample => ⟨_, rfl, h.telemetrySample⟩
  | .partnerSignalDetect .. => ⟨_, rfl, h.when fun h => h.modPort⟩
  | .codewordDecode .. => ⟨_, rfl, h.codewordDecode⟩
  | .railGroupReady .. => ⟨_, rfl, h.railGroupReady⟩
  | .vaonFall => ⟨_, rfl, h.vaonFall⟩
  | .pcieLinkUp .. => ⟨_, rfl, h.pcieLinkUp⟩
  | .partResetZeroingDone .. => ⟨_, rfl, h.partResetZeroingDone⟩
  | .meshChangeEnd => ⟨_, rfl, h.meshChangeEnd⟩
  | .coalesceExpiry .. => ⟨_, rfl, h.when fun h => h.modPair⟩
  | .collBarrierArrival .. => ⟨_, rfl, h.collBarrierArrival⟩

end Sys2Proof.Machine
end

section
open Sys2Proof Sys2Proof.Machine

/-- Settles O52: the mesh cycle and every command are made of operations that keep the memories canonical. -/
theorem stepKeepsMemoryCanonical : Obligations.StepKeepsMemoryCanonical := by
  unfold Obligations.StepKeepsMemoryCanonical
  intro s u h hu
  unfold step at hu
  split at hu
  · cases hu
    exact h.meshCycle
  · next c q _ =>
    obtain ⟨v, hv, hok⟩ := exec_memOk (s := s.withPending q) h c
    cases hv.symm.trans hu
    exact hok
end

section
namespace Sys2Proof.Machine

/-! ### What the mesh, the homes and the records leave alone -/

/-- Partitions, chip registers, power, firmware and the host's queues are the same: no packet, home access, log record or
trace record changes them. -/
structure State.MeshFrame (s u : State) : Prop where
  parts    : u.parts = s.parts
  chip     : u.chip = s.chip
  power    : u.power = s.power
  fw       : u.fw = s.fw
  ingressQ : u.ingressQ = s.ingressQ
  readQ    : u.readQ = s.readQ

namespace State.MeshFrame
variable {s u v : State}

theorem refl (s : State) : s.MeshFrame s := ⟨rfl, rfl, rfl, rfl, rfl, rfl⟩

theorem trans (h : s.MeshFrame u) (h' : u.MeshFrame v) : s.MeshFrame v :=
  ⟨h'.parts.trans h.parts, h'.chip.trans h.chip, h'.power.trans h.power, h'.fw.trans h.fw,
    h'.ingressQ.trans h.ingressQ, h'.readQ.trans h.readQ⟩

theorem records (h : s.MeshFrame u) (hr : u.RecordsOnly v) : s.MeshFrame v := by
  obtain ⟨pairs, logWins, hostMem, con, k, rfl, -⟩ := hr
  exact ⟨h.parts, h.chip, h.power, h.fw, h.ingressQ, h.readQ⟩

/-- An update of other fields. -/
theorem update (h : s.MeshFrame u)
    {pending tiles chipLatch pairs logWins timeAcc ticks signals zeroing mem hostMem ingressIn homeGot mesh
    ports arrivals tags tagQ recent pool meshStop fabGen gmSet syncRun syncAt partSys cap mgmt console hostRead
    hostUr freeCount} :
    s.MeshFrame ⟨pending, tiles, u.parts, u.chip, chipLatch, pairs, logWins, timeAcc, ticks, signals, zeroing,
      mem, hostMem, ingressIn, u.ingressQ, u.readQ, homeGot, mesh, ports, arrivals, tags, tagQ, recent, pool,
      meshStop, fabGen, gmSet, syncRun, syncAt, partSys, u.power, cap, u.fw, mgmt, console, hostRead, hostUr,
      freeCount⟩ :=
  ⟨h.parts, h.chip, h.power, h.fw, h.ingressQ, h.readQ⟩

theorem ite {c : Prop} [Decidable c] (hu : s.MeshFrame u) (hv : s.MeshFrame v) : s.MeshFrame (if c then u else v) := by
  split
  exacts [hu, hv]

theorem iteFst {β : Type} {c : Prop} [Decidable c] {r r' : State × β} (hr : s.MeshFrame r.1) (hr' : s.MeshFrame r'.1) :
    s.MeshFrame (if c then r else r').1 := by
  split
  exacts [hr, hr']

theorem foldl {α : Type} {f : State → α → State} {l : List α} (h : s.MeshFrame u)
    (hf : ∀ {u : State} (a : α), s.MeshFrame u → s.MeshFrame (f u a)) : s.MeshFrame (l.foldl f u) :=
  List.foldlRecOn (motive := s.MeshFrame) l f h fun _ h a _ => hf a h

theorem foldN {f : Nat → State → State} {n : Nat} (h : s.MeshFrame u)
    (hf : ∀ {u : State} (i : Nat), s.MeshFrame u → s.MeshFrame (f i u)) : s.MeshFrame (foldN f n u) := by
  induction n with
  | zero => exact h
  | succ n ih => exact hf n ih

theorem setTile (h : s.MeshFrame u) {t x} : s.MeshFrame (u.setTile t x) := .update h

theorem modTile (h : s.MeshFrame u) {t f} : s.MeshFrame (u.modTile t f) := h.setTile

theorem inTile (h : s.MeshFrame u) {t f} : s.MeshFrame (u.inTile t f) := .ite h.modTile h

theorem log (h : s.MeshFrame u) {code src sev part args} : s.MeshFrame (u.log code src sev part args) :=
  h.records (.log _ _ _ _ _ _)

theorem logOpen (h : s.MeshFrame u) {code src part} : s.MeshFrame (u.logOpen code src part) :=
  h.records (.logOpen _ _ _ _)

theorem trace (h : s.MeshFrame u) {point core args} : s.MeshFrame (u.trace point core args) :=
  h.records (.trace _ _ _ _)

theorem tracePart (h : s.MeshFrame u) {point core n args} : s.MeshFrame (u.tracePart point core n args) :=
  h.records (.tracePart _ _ _ _ _)

theorem drawn (h : s.MeshFrame u) : s.MeshFrame u.drawn := .update h

theorem vatRepairs (h : s.MeshFrame u) {c l} : s.MeshFrame (u.vatRepairs c l) := by
  dsimp only [State.vatRepairs]
  refine h.foldl fun _ h => ?_
  split
  exacts [.tracePart (.ite h.logOpen h), .trace (.ite h.logOpen h)]

theorem txnServed (h : s.MeshFrame u) {home t id} : s.MeshFrame (u.txnServed home t id) := .ite (.update h.modTile) h.modTile

theorem vatPerform (h : s.MeshFrame u) {e} : s.MeshFrame (u.vatPerform e) := by
  dsimp only [State.vatPerform]
  split
  exacts [.txnServed (.modTile (.update h)), .update h]

theorem vatEnter (h : s.MeshFrame u) {c e} : s.MeshFrame (u.vatEnter c e) := .ite h.modTile.vatPerform h.modTile

theorem vatRefill (h : s.MeshFrame u) {c n} : s.MeshFrame (u.vatRefill c n) := by
  induction n generalizing u with
  | zero => exact h
  | succ n ih =>
    unfold State.vatRefill
    repeat' split
    exacts [h, h, ih (h.modTile.foldl fun _ h => h.vatEnter)]

theorem vatArrive (h : s.MeshFrame u) {c g} : s.MeshFrame (u.vatArrive c g) := h.modTile.vatRefill

theorem setArray (h : s.MeshFrame u) {sec bs} : s.MeshFrame (u.setArray sec bs) := .update h

theorem vatStartAt (h : s.MeshFrame u) {c i upsets} : s.MeshFrame (u.vatStartAt c i upsets) := by
  dsimp only [State.vatStartAt]
  split
  · exact h
  · refine .ite (.ite (.setArray (.vatRepairs (.setTile (.update h)))) (.vatRepairs (.setTile (.update h)))) ?_
    split
    exacts [.txnServed (.modTile (.vatRepairs (.setTile (.update h)))), .update (.vatRepairs (.setTile (.update h)))]

theorem vatNext (h : s.MeshFrame u) {c eligible upsets} : s.MeshFrame (u.vatNext c eligible upsets) := by
  dsimp only [State.vatNext]
  split
  exacts [h, h.vatStartAt.vatRefill]

theorem backgroundSector (h : s.MeshFrame u) {c sec ups copy} : s.MeshFrame (u.backgroundSector c sec ups copy).1 := by
  dsimp only [State.backgroundSector]
  split
  exacts [.vatRepairs (.setTile (.update h)), .setArray (.setTile (.update h)), .setTile (.update h),
    .setTile (.update h)]

theorem backgroundRow (h : s.MeshFrame u) {c row bank ups copy} : s.MeshFrame (u.backgroundRow c row bank ups copy) :=
  h.foldl fun _ h => .ite h.backgroundSector.logOpen h.backgroundSector

theorem vatScrubRow (h : s.MeshFrame u) {c ups} : s.MeshFrame (u.vatScrubRow c ups) := .ite h h.backgroundRow.modTile

theorem columnRun (h : s.MeshFrame u) {c n} : s.MeshFrame (u.columnRun c n) := by
  induction n generalizing u with
  | zero => exact h
  | succ n ih => exact .ite h (.ite (ih h.vatScrubRow) (ih (.vatNext (.update h))))

theorem homeLine (h : s.MeshFrame u) {g} : s.MeshFrame (u.homeLine g).1 := by
  dsimp only [State.homeLine]
  split
  exacts [h, .update (.columnRun (.vatArrive (.update h)))]

theorem homeLines (h : s.MeshFrame u) {l} : s.MeshFrame (u.homeLines l).1 := by
  induction l generalizing u with
  | nil => exact h
  | cons g l ih => exact ih h.homeLine

theorem pailWrite (h : s.MeshFrame u) {a bs} : s.MeshFrame (u.pailWrite a bs) := .update h

theorem pailRead (h : s.MeshFrame u) {a n} : s.MeshFrame (u.pailRead a n).1 := h.setTile

theorem pailArrive (h : s.MeshFrame u) {r} : s.MeshFrame (u.pailArrive r) := h.modTile

theorem sliceServe (h : s.MeshFrame u) {t} : s.MeshFrame (u.sliceServe t) := by
  dsimp only [State.sliceServe]
  split
  · exact h
  · split
    · exact h
    · refine .ite ?_ ?_
      · split
        exacts [h.modTile.pailWrite.modTile.txnServed, h.modTile.pailWrite]
      · split
        exacts [h.modTile.pailRead.modTile.txnServed, h.modTile.pailRead]

theorem sliceRun (h : s.MeshFrame u) {a} : s.MeshFrame (u.sliceRun a) := h.foldN fun _ h => h.sliceServe

theorem homeRead (h : s.MeshFrame u) {a n} : s.MeshFrame (u.homeRead a n).1 := .iteFst h.homeLines h.sliceRun.pailRead

theorem meshRequest (h : s.MeshFrame u) {p} : s.MeshFrame (u.meshRequest p) := by
  dsimp only [State.meshRequest]
  split
  · exact h
  · split
    exacts [h.vatArrive, h.pailArrive, h.modTile, .update h.modTile]

theorem meshArrive (h : s.MeshFrame u) {p} : s.MeshFrame (u.meshArrive p) := .ite h.modTile h.meshRequest

theorem scratchAcks (h : s.MeshFrame u) {t} : s.MeshFrame (u.scratchAcks t) := h.modTile.foldl fun _ h => h.txnServed

theorem meshTurns (h : s.MeshFrame u) : s.MeshFrame u.meshTurns :=
  .ite (h.foldl fun _ h => h.scratchAcks) (.foldl (.update (h.foldl fun _ h => h.scratchAcks)) fun _ h => h.meshArrive)

theorem faultTraced {t f} (h : s.MeshFrame (f u)) : s.MeshFrame (u.faultTraced t f) := h.records (.faultTraced _ _ _)

theorem upsets (h : s.MeshFrame u) : s.MeshFrame u.upsets := by
  unfold State.upsets
  split
  exacts [h.drawn, h.drawn.inTile]

end State.MeshFrame
end Sys2Proof.Machine
end

section
namespace Sys2Proof.Machine

/-! ### A mesh cycle -/

/-- The cycle counter reads as what it was set to, in 48 bits (Table 15.5). -/
theorem setCyc_cyc (s : State) {c : Nat} (h : c < 2 ^ 48) : (s.setCyc c).cyc = c := by
  simp only [State.cyc, State.setCyc, State.setReg_reg_same,
    State.setReg_reg_ne _ _ (show Reg.clkMeshCycLo ≠ Reg.clkMeshCycHi by decide), w32, BitVec.toNat_ofNat]
  omega

theorem State.MeshFrame.cyc {s u : State} (h : s.MeshFrame u) : u.cyc = s.cyc := by
  simp only [State.cyc, State.reg, h.chip]

theorem ingressTurn_idle {s : State} (h : s.ingressQ = []) : s.ingressTurn = s := by
  simp [State.ingressTurn, h]

theorem readTurn_idle {s : State} (h : s.readQ = []) : s.readTurn = s := by
  simp [State.readTurn, h]

/-- While the mesh clock is off no cycle passes. -/
theorem meshCycle_off {s : State} (h : s.meshUp = false) : s.meshCycle = s := by
  simp [State.meshCycle, h]

/-- While it runs and no access of the host waits, a cycle counts on, and beyond that only tiles, mesh, homes and records
move. -/
theorem meshCycle_frame {s : State} (hup : s.meshUp = true) (hin : s.ingressQ = []) (hread : s.readQ = []) :
    ∃ v, s.MeshFrame v ∧ (v.setCyc ((v.cyc + 1) % 2 ^ 48)).MeshFrame s.meshCycle := by
  unfold State.meshCycle
  rw [hup]
  extract_lets ends v c w x
  have hv : s.MeshFrame v := .foldl (.refl s) fun _ h => .ite h.modTile h
  have hx : w.MeshFrame x := .foldl (.refl w) fun _ h => .faultTraced h.modTile
  have hin' : x.meshTurns.ingressQ = [] := hx.meshTurns.ingressQ.trans (hv.ingressQ.trans hin)
  have hread' : x.meshTurns.readQ = [] := hx.meshTurns.readQ.trans (hv.readQ.trans hread)
  refine ⟨v, hv, ?_⟩
  show w.MeshFrame _
  rw [Bool.not_true, if_neg Bool.false_ne_true, ingressTurn_idle hin', readTurn_idle hread']
  exact hx.meshTurns.upsets

end Sys2Proof.Machine
end

section
open Sys2Proof Sys2Proof.Machine

/-- Settles O2: every part of a cycle but the counter's own keeps the frame. -/
theorem emptyQueueIsOneMeshCycle : Obligations.EmptyQueueIsOneMeshCycle := by
  intro s hq
  have hstep : step s = .next s.meshCycle := by rw [step, hq]
  refine ⟨fun hoff => by rw [hstep, meshCycle_off hoff], fun hup hin hread => ?_⟩
  obtain ⟨v, hv, hu⟩ := meshCycle_frame hup hin hread
  refine ⟨_, hstep, ?_, hu.parts.trans hv.parts, hu.power.trans hv.power, hu.fw.trans hv.fw⟩
  rw [hu.cyc, setCyc_cyc _ (Nat.mod_lt _ (by decide)), hv.cyc]
end

section
namespace Sys2Proof.Machine

theorem State.RecordsOnly.tiles {s u : State} (h : s.RecordsOnly u) : u.tiles = s.tiles := by
  obtain ⟨p, l, m, c, k, rfl, -⟩ := h; rfl
theorem State.RecordsOnly.fw {s u : State} (h : s.RecordsOnly u) : u.fw = s.fw := by
  obtain ⟨p, l, m, c, k, rfl, -⟩ := h; rfl
theorem State.RecordsOnly.ingressQ {s u : State} (h : s.RecordsOnly u) : u.ingressQ = s.ingressQ := by
  obtain ⟨p, l, m, c, k, rfl, -⟩ := h; rfl

/-! ### Accesses of the host -/

/-- A refused access is counted, and otherwise only logged (R338). -/
theorem bar2Refused_counts (s : State) (n off : Nat) (write : Bool) :
    (s.modPart n (fun p => p.count Reg.mbPartRefused 15 0 1)).RecordsOnly (s.bar2Refused n off write) := .log _ _ _ _ _ _

/-- The count of refused accesses stops at the top of its field. -/
theorem bar2Refused_refused (s : State) (n off : Nat) (write : Bool) :
    ((s.bar2Refused n off write).part n).f Reg.mbPartRefused 15 0 = min 0xFFFF ((s.part n).f Reg.mbPartRefused 15 0 + 1) := by
  rw [(bar2Refused_counts s n off write).part, State.modPart_part_same, Part.count,
    Part.setF_f_same _ _ _ (by decide) (by decide)]
  simp only [satAdd]
  omega

theorem ingressFlush_idle {s : State} (h : s.ingressQ = []) (n : Nat) : s.ingressFlush n = s := by
  simp [State.ingressFlush, h, lastOf, foldN]

/-- With no write waiting, a read waits only for zeroing. -/
theorem readWaits_of_idle {s : State} (h : s.ingressQ = []) (r : HostRead) : s.readWaits r = s.spanWaits r.addr (max r.len 1) := by
  simp [State.readWaits, h]

theorem bar2Read_of_idle {s : State} {n off len : Nat} (hup : s.hostUp = true) (hn : n < 16) (hoff : off < 2 ^ 40)
    (hq : s.ingressQ = []) : s.bar2Read n off len =
      if (s.bar2Grants n off len accHrd && s.spanWaits off (max len 1)) = true
      then { s with readQ := s.readQ ++ [⟨s.ingressIn, n, off, len⟩] } else s.readServe ⟨s.ingressIn, n, off, len⟩ := by
  have hno : ¬(!s.hostUp || 16 ≤ n || 2 ^ 40 ≤ off) = true := by simpa [hup, hn] using hoff
  have hwaits : s.readWaits ⟨s.ingressIn, n, off, len⟩ = s.spanWaits off (max len 1) := readWaits_of_idle hq _
  rw [State.bar2Read, if_neg hno, ingressFlush_idle hq, ← hwaits]

theorem maskBad_nil (a : Nat) (bs : List Byte) (draw : Nat) : maskBad a bs [] draw = bs := by
  simp [maskBad, List.zipIdx_map_fst]

/-- A read of a Pail whose slice has nothing waiting and no faulty word gives the memory's bytes (R158). -/
theorem homeRead_cleanPail {s : State} {off len : Nat} (hoff : vatEnd ≤ off) (hq : (s.tile (pailTile off)).sliceQ = [])
    (hbad : (s.tile (pailTile off)).pailBad = []) :
    (s.homeRead off len).2 = (memRead s.mem off len, []) ∧ (s.homeRead off len).1.mem = s.mem := by
  have hrun : s.sliceRun off = s := by rw [State.sliceRun, hq]; rfl
  rw [State.homeRead, if_neg (by omega), hrun]
  simp [State.pailRead, Tile.pailHits, hbad]

/-! ### A window of repeats -/

/-- Writes of one kind to pairs, each of its own, reach every pair named (R301). -/
theorem foldl_logRecord_pair (w : LogWin) (rep p : Nat) (l : List Nat) (s : State) (hd : l.Nodup) (hp : p ∈ l) :
    (l.foldl (fun s p => s.modPair p (fun x => x.logRecord p s.time w rep)) s).pair p = (s.pair p).logRecord p s.time w rep := by
  suffices h : ∀ (l : List Nat) (u : State), l.Nodup → u.time = s.time →
      (l.foldl (fun s p => s.modPair p (fun x => x.logRecord p s.time w rep)) u).pair p =
        if p ∈ l then (u.pair p).logRecord p s.time w rep else u.pair p by
    rw [h l s hd rfl, if_pos hp]
  intro l
  induction l with
  | nil => intro u _ _; simp
  | cons q l ih =>
    intro u hd hu
    obtain ⟨hq, hd⟩ := List.nodup_cons.mp hd
    rw [List.foldl_cons, ih (u.modPair q _) hd hu]
    by_cases hpq : p = q
    · subst hpq
      rw [if_neg hq, if_pos List.mem_cons_self, State.modPair_pair_same, hu]
    · rw [State.modPair_pair_ne _ _ hpq]
      simp [hpq]

theorem print_pair (s : State) (l : ConsoleLine) (p : Nat) : (s.print l).pair p = s.pair p := by
  unfold State.print
  split <;> rfl

theorem print_time (s : State) (l : ConsoleLine) : (s.print l).time = s.time := by
  unfold State.print
  split <;> rfl

theorem logPairs_nodup (part : Nat) : (logPairs part).Nodup := by
  unfold logPairs
  split <;> simp

/-- A log record stands in every pair that receives it. -/
theorem writeLog_pair (s : State) (w : LogWin) (rep p : Nat) (hp : p ∈ logPairs w.part) :
    (s.writeLog w rep).pair p = (s.pair p).logRecord p s.time w rep := by
  unfold State.writeLog
  split
  · rw [foldl_logRecord_pair w rep p _ _ (logPairs_nodup _) hp, print_pair, print_time]
  · exact foldl_logRecord_pair w rep p _ _ (logPairs_nodup _) hp

/-- A window that is over ends, or, with repeats counted, writes a record that opens the next (R301, R327). -/
theorem logFlush_over {s : State} {code src part : Nat} {w : LogWin}
    (hw : s.logWins.find? (fun x => x.same code src part) = some w)
    (hover : 1000000 ≤ (s.time + 2 ^ 64 - w.at_) % 2 ^ 64) (hfault : s.power.faultN = false) :
    s.logFlush code src part =
      if w.count = 0 then { s with logWins := s.logWins.filter (fun x => !x.same code src part) }
      else { s.writeLog w w.count with
        logWins := s.logWins.map (fun x => if x.same code src part then { x with count := 0, at_ := s.time } else x) } := by
  unfold State.logFlush
  rw [hw]
  have hno : ¬((!s.winOver w || s.power.faultN) = true) := by
    simp only [State.winOver, hfault, decide_eq_true hover]
    decide
  exact if_neg hno

/-! ### Aborts -/

/-- Partitions, firmware, memory and tiles are the same: a message to a ring neighbour changes none of them. -/
structure State.GrantFrame (s u : State) : Prop where
  parts : u.parts = s.parts
  fw : u.fw = s.fw
  mem : u.mem = s.mem
  tiles : u.tiles = s.tiles

theorem State.GrantFrame.part {s u : State} (h : s.GrantFrame u) (n : Nat) : u.part n = s.part n :=
  congrArg (fun ps => tabGet partD ps n) h.parts

theorem State.GrantFrame.trans {s u v : State} (h : s.GrantFrame u) (h' : u.GrantFrame v) : s.GrantFrame v :=
  ⟨h'.parts.trans h.parts, h'.fw.trans h.fw, h'.mem.trans h.mem, h'.tiles.trans h.tiles⟩

theorem State.GrantFrame.foldl {α : Type} {f : State → α → State} (hf : ∀ u a, State.GrantFrame u (f u a)) (l : List α)
    (s : State) : s.GrantFrame (l.foldl f s) :=
  List.foldlRecOn (motive := s.GrantFrame) l f ⟨rfl, rfl, rfl, rfl⟩ fun _ h a _ => h.trans (hf _ a)

theorem State.GrantFrame.noteEngine {s u : State} (h : s.GrantFrame u) : s.GrantFrame u.noteEngine := by
  obtain ⟨hparts, hfw, hmem, htiles⟩ := h
  constructor <;> simpa [State.noteEngine]

theorem withdraw_grantFrame (s : State) (n g : Nat) : s.GrantFrame (s.withdraw n g) :=
  State.GrantFrame.noteEngine ⟨rfl, rfl, rfl, rfl⟩

theorem dropSlots_grantFrame (s : State) (n g : Nat) : s.GrantFrame (s.dropSlots n g) :=
  State.GrantFrame.noteEngine ⟨rfl, rfl, rfl, rfl⟩

theorem sendNb_grantFrame (s : State) (nb : Nat) (m : CtrlMsg) : s.GrantFrame (s.sendNb nb m) := by
  obtain ⟨pp, h⟩ := sendNb_form s nb m
  rw [h]
  exact ⟨rfl, rfl, rfl, rfl⟩

theorem sendNotices_grantFrame (s : State) (n g seq code origin : Nat) (e : Option Nat) :
    s.GrantFrame (s.sendNotices n g seq code origin e) := by
  refine State.GrantFrame.foldl (fun u nb => ?_) _ s
  split
  · exact ⟨rfl, rfl, rfl, rfl⟩
  · exact sendNb_grantFrame _ _ _

/-- The state of a collective's context is that of an abort that began at a time for a cause (R284). -/
structure Ctx.Aborting (c c' : Ctx) (now code origin : Nat) : Prop where
  st : c'.st = 6
  at_ : c'.abortAt = now
  fragsIn : c'.fragsIn = []
  outQ : c'.outQ = []
  cause : (code, origin) ∈ c'.causes
  best : c.best = none → c'.best = some (code, origin)

/-- Is a (code, origin) pair lower than the one a context keeps? -/
def Ctx.lowered (c : Ctx) (code origin : Nat) : Bool :=
  match c.best with | none => true | some b => pairLess (code, origin) b

/-- A context as the first abort event leaves it: silent, with the cause kept. -/
def Ctx.aborted (c : Ctx) (now code origin : Nat) : Ctx :=
  { c.silence with
    st := 6, abortAt := now, heard := now
    causes := if c.causes.contains (code, origin) then c.causes else c.causes ++ [(code, origin)]
    best := if c.lowered code origin then some (code, origin) else c.best }

theorem Ctx.aborted_aborting (c : Ctx) (now code origin : Nat) : c.Aborting (c.aborted now code origin) now code origin where
  st := rfl
  at_ := rfl
  fragsIn := rfl
  outQ := rfl
  cause := by
    show _ ∈ (if c.causes.contains (code, origin) then c.causes else c.causes ++ [(code, origin)])
    split
    · next h => exact List.contains_iff_mem.mp h
    · simp
  best hb := by simp [Ctx.aborted, Ctx.lowered, hb]

/-- The first abort event of a collective withdraws its slots, silences it, and may tell its neighbours (R284). -/
theorem collAbort_first {s : State} {n g code origin : Nat} {from_ : Option Nat} {c : Ctx} (hc : s.ctx n g = some c)
    (hst : c.st ≠ 6) : State.GrantFrame ((s.withdraw n g).setCtx n g (some (c.aborted s.engineTime code origin)))
      (s.collAbort n g code origin from_) := by
  have hfirst : s.collAbort n g code origin from_ =
      if c.lowered code origin = true
      then ((s.withdraw n g).setCtx n g (some (c.aborted s.engineTime code origin))).sendNotices n g c.seq code origin from_
      else (s.withdraw n g).setCtx n g (some (c.aborted s.engineTime code origin)) := by
    rw [State.collAbort, hc]
    refine (if_neg (by simp [hst])).trans ?_
    exact congrArg (fun u : State =>
      if c.lowered code origin = true then u.sendNotices n g c.seq code origin from_ else u) (if_neg hst)
  rw [hfirst]
  split
  · exact sendNotices_grantFrame _ n g c.seq code origin from_
  · exact ⟨rfl, rfl, rfl, rfl⟩

/-- So nothing else of its partition changes, and no tile or memory. -/
theorem collAbort_begins {s : State} {n g code origin : Nat} {from_ : Option Nat} {c : Ctx} (hc : s.ctx n g = some c)
    (hst : c.st ≠ 6) : ∃ u c', s.collAbort n g code origin from_ = u ∧ c.Aborting c' s.engineTime code origin ∧
      u.part n = { s.part n with ctxs := tabSet ctxD (s.part n).ctxs g (some c') } ∧ u.tiles = s.tiles ∧ u.mem = s.mem := by
  have h := collAbort_first (code := code) (origin := origin) (from_ := from_) hc hst
  have hw := withdraw_grantFrame s n g
  refine ⟨_, _, rfl, c.aborted_aborting _ _ _, ?_, ?_, ?_⟩
  · rw [h.part, State.setCtx, State.modPart_part_same, hw.part]
  · rw [h.tiles, State.setCtx, State.modPart_tiles, hw.tiles]
  · rw [h.mem, State.setCtx, State.modPart_mem, hw.mem]

theorem grpSeq_lt (p : Part) (g : Nat) : p.grpSeq g < 2 ^ 32 := (p.reg (Reg.collGrpSeq + 16 * g)).isLt

/-- A notice whose tag fails is dropped (R342). -/
theorem collAbortNotice_forged {s : State} {n g nb seq code origin : Nat} {tag : Option DWord}
    (h : tag ≠ (s.part n).tagNotice [n, g, seq, code, origin]) : s.collAbortNotice n g nb seq code origin tag = s := by
  simp [State.collAbortNotice, h]

/-- A notice with a right tag to an ACTIVE partition: it aborts the sequence in progress, or is held, or is late. -/
theorem collAbortNotice_signed {s : State} {n g nb seq code origin : Nat} {c : Ctx} (hn : n < 16) (hg : g < 64)
    (hact : s.partState n = 1) (hc : s.ctx n g = some c) :
    s.collAbortNotice n g nb seq code origin ((s.part n).tagNotice [n, g, seq, code, origin]) =
      if (seq + 2 ^ 32 - (s.part n).grpSeq g) % 2 ^ 32 = 0 then s.collAbort n g code origin (some nb)
      else if 2 ^ 31 ≤ (seq + 2 ^ 32 - (s.part n).grpSeq g) % 2 ^ 32 then s
      else (if (s.held n g).notices.contains ⟨nb, seq % 2 ^ 32, code, origin⟩ then s else
        s.setHeld n g { s.held n g with notices := (s.held n g).notices ++ [⟨nb, seq % 2 ^ 32, code, origin⟩] }).groupNext n g := by
  simp [State.collAbortNotice, hact, hc, Nat.not_le.mpr hn, Nat.not_le.mpr hg]

theorem groupNext_busy {s : State} {n g : Nat} {c : Ctx} (h : s.ctx n g = some c) : s.groupNext n g = s := by
  simp [State.groupNext, h]

theorem setHeld_held (s : State) (n g : Nat) (h : Held) : (s.setHeld n g h).held n g = h := by
  unfold State.setHeld State.held
  rw [State.modPart_part_same]
  exact tabGet_set_same heldD _ _ _

theorem setHeld_ctx (s : State) (n g : Nat) (h : Held) : (s.setHeld n g h).ctx n g = s.ctx n g := by
  unfold State.setHeld State.ctx
  rw [State.modPart_part_same]

/-- A notice of a later sequence waits, and the one in progress goes on (R286). -/
theorem collAbortNotice_held {s : State} {n g nb code origin ahead : Nat} {c : Ctx} (hn : n < 16) (hg : g < 64)
    (hact : s.partState n = 1) (hc : s.ctx n g = some c) (h1 : 1 ≤ ahead) (h2 : ahead < 2 ^ 31) {seq : Nat}
    (hseq : seq = ((s.part n).grpSeq g + ahead) % 2 ^ 32) : ∃ u,
      s.collAbortNotice n g nb seq code origin ((s.part n).tagNotice [n, g, seq, code, origin]) = u ∧
      ⟨nb, seq, code, origin⟩ ∈ (u.held n g).notices ∧ u.ctx n g = some c ∧ u.tiles = s.tiles ∧ u.mem = s.mem := by
  have hlt := grpSeq_lt (s.part n) g
  have hahead : (seq + 2 ^ 32 - (s.part n).grpSeq g) % 2 ^ 32 = ahead := by omega
  have hmod : seq % 2 ^ 32 = seq := by omega
  refine ⟨_, rfl, ?_⟩
  rw [collAbortNotice_signed hn hg hact hc, hahead, if_neg (by omega), if_neg (by omega), hmod]
  split
  · next hin =>
    rw [groupNext_busy hc]
    exact ⟨List.contains_iff_mem.mp hin, hc, rfl, rfl⟩
  · have hc' := (setHeld_ctx s n g { s.held n g with notices := (s.held n g).notices ++ [⟨nb, seq, code, origin⟩] }).trans hc
    rw [groupNext_busy hc', setHeld_held]
    exact ⟨by simp, hc', rfl, rfl⟩

/-! ### The end of an abort -/

theorem State.MeshFrame.homeWrite {s u : State} (h : s.MeshFrame u) {a bs} : s.MeshFrame (u.homeWrite a bs) :=
  .ite h.homeLines h.sliceRun.pailWrite

theorem State.MeshFrame.collWrite {s u : State} (h : s.MeshFrame u) {g bs} : s.MeshFrame (u.collWrite g bs).1 := by
  refine .iteFst h ?_
  exact List.foldlRecOn (motive := fun x : State × List Byte => s.MeshFrame x.1) _ _ h fun _ h _ _ => h.homeWrite

theorem grantTo_frame (s : State) (n g nb : Nat) : s.GrantFrame (s.grantTo n g nb) := by
  unfold State.grantTo
  extract_lets fr mine u
  split
  · exact ⟨rfl, rfl, rfl, rfl⟩
  · exact State.GrantFrame.trans (u := u.noteEngine) (.noteEngine ⟨rfl, rfl, rfl, rfl⟩) (sendNb_grantFrame _ nb _)

theorem grantSlots_frame (s : State) (n g : Nat) : s.GrantFrame (s.grantSlots n g) := by
  unfold State.grantSlots
  split
  · split
    · exact ⟨rfl, rfl, rfl, rfl⟩
    · exact .foldl (fun u nb => grantTo_frame u n g nb) _ _
  · exact ⟨rfl, rfl, rfl, rfl⟩

theorem groupNext_empty {s : State} {n g : Nat} (h : (s.part n).queuedFor g = []) : s.groupNext n g = s := by
  have hfirst : (s.part n).firstFor g = none := by
    rw [Part.firstFor, List.findIdx?_eq_none_iff]
    simpa [Part.queuedFor] using h
  simp [State.groupNext, hfirst]

/-- A group without a queued post is without a collective once its context is free. -/
theorem freeCtx_ends {s : State} {n g : Nat} (hq : (s.part n).queuedFor g = []) :
    (s.freeCtx n g).ctx n g = none ∧ (∀ o, ((s.freeCtx n g).part n).reg o = (s.part n).reg o) ∧
      (s.freeCtx n g).fw = s.fw ∧ (s.freeCtx n g).mem = s.mem ∧ (s.freeCtx n g).tiles = s.tiles := by
  unfold State.freeCtx
  extract_lets v cur h x
  have hv : State.GrantFrame (s.setCtx n g none) v := dropSlots_grantFrame _ n g
  have hpart : x.part n = { v.part n with held := (x.part n).held } := by
    rw [show x = State.setHeld v n g _ from rfl, State.setHeld, State.modPart_part_same]
  have hk := State.GrantFrame.foldl (fun u (a : Nat × Nat) => grantSlots_frame u a.1 a.2) x.allCtxs x
  have hvpart : v.part n = { s.part n with ctxs := tabSet ctxD (s.part n).ctxs g none } := by
    rw [hv.part, State.setCtx, State.modPart_part_same]
  rw [groupNext_empty (by rw [hk.part, hpart, hvpart]; exact hq)]
  refine ⟨?_, fun o => ?_, ?_, ?_, ?_⟩
  · rw [State.ctx, hk.part, hpart, hvpart]
    exact tabGet_set_same ctxD (s.part n).ctxs g none
  · rw [hk.part, hpart, hvpart]
    rfl
  · rw [hk.fw, show x.fw = v.fw from State.modPart_fw _ _ _, hv.fw, State.setCtx, State.modPart_fw]
  · rw [hk.mem, show x.mem = v.mem from State.modPart_mem _ _ _, hv.mem, State.setCtx, State.modPart_mem]
  · rw [hk.tiles, show x.tiles = v.tiles from State.modPart_tiles _ _ _, hv.tiles, State.setCtx, State.modPart_tiles]

/-- A partition's registers after an abort's books (R284 step 4). -/
def Part.abortBooked (p : Part) (g seq code : Nat) : Part :=
  let p := (p.setReg Reg.collLastErr (BitVec.ofNat 32 (code + 2 ^ 16 * g + 2 ^ 31))).setReg Reg.collLastSeq (BitVec.ofNat 32 seq)
  (p.setReg Reg.collAbortCnt (p.reg Reg.collAbortCnt + 1)).setReg (Reg.collGrpSeq + 16 * g) (BitVec.ofNat 32 (seq + 1))

theorem abortBooked_regs (p : Part) (g seq code : Nat) :
    (p.abortBooked g seq code).reg (Reg.collGrpSeq + 16 * g) = BitVec.ofNat 32 (seq + 1) ∧
    (p.abortBooked g seq code).reg Reg.collLastErr = BitVec.ofNat 32 (code + 2 ^ 16 * g + 2 ^ 31) ∧
    (p.abortBooked g seq code).reg Reg.collLastSeq = BitVec.ofNat 32 seq := by
  have hGrp : ∀ o, o < Reg.collGrpSeq → o ≠ Reg.collGrpSeq + 16 * g := fun o h => by omega
  refine ⟨Part.setReg_reg_same _ _ _, ?_, ?_⟩
  · rw [Part.abortBooked, Part.setReg_reg_ne _ _ (hGrp _ (by decide)), Part.setReg_reg_ne _ _ (by decide),
      Part.setReg_reg_ne _ _ (by decide), Part.setReg_reg_same]
  · rw [Part.abortBooked, Part.setReg_reg_ne _ _ (hGrp _ (by decide)), Part.setReg_reg_ne _ _ (by decide),
      Part.setReg_reg_same]

theorem setReg_queuedFor (p : Part) (o : Nat) (x : Word) (g : Nat) : (p.setReg o x).queuedFor g = p.queuedFor g := rfl

theorem abortBooked_queuedFor (p : Part) (g seq code k : Nat) : (p.abortBooked g seq code).queuedFor k = p.queuedFor k := by
  rw [Part.abortBooked, setReg_queuedFor, setReg_queuedFor, setReg_queuedFor, setReg_queuedFor]

theorem abortBooks_part (s : State) (n g seq code : Nat) :
    (s.abortBooks n g seq code).part n = (s.part n).abortBooked g seq code :=
  (State.RecordsOnly.tracePart _ _ _ _ _).part n |>.trans (State.modPart_part_same _ _ _)

theorem abortBooks_rest (s : State) (n g seq code : Nat) : (s.abortBooks n g seq code).fw.irqSvc = s.fw.irqSvc + 1 ∧
    (s.abortBooks n g seq code).mem = s.mem ∧ (s.abortBooks n g seq code).tiles = s.tiles := by
  have h := State.RecordsOnly.tracePart (s.modPart n (Part.abortBooked · g seq code)) (0x90 + n) Src.coll n [g, code]
  exact ⟨congrArg (·.irqSvc + 1) h.fw, h.mem, h.tiles⟩

/-- The books and the free context together. -/
theorem abortBooks_freeCtx {x : State} {n g seq code : Nat} (hq : (x.part n).queuedFor g = []) :
    ∃ u, (x.abortBooks n g seq code).freeCtx n g = u ∧ u.ctx n g = none ∧
      (u.part n).reg (Reg.collGrpSeq + 16 * g) = BitVec.ofNat 32 (seq + 1) ∧
      (u.part n).reg Reg.collLastErr = BitVec.ofNat 32 (code + 2 ^ 16 * g + 2 ^ 31) ∧
      (u.part n).reg Reg.collLastSeq = BitVec.ofNat 32 seq ∧ u.fw.irqSvc = x.fw.irqSvc + 1 ∧ u.mem = x.mem ∧
      u.tiles = x.tiles := by
  obtain ⟨hirq, hmem, htiles⟩ := abortBooks_rest x n g seq code
  have hbooks := abortBooks_part x n g seq code
  obtain ⟨hseq, herr, hlast⟩ := abortBooked_regs (x.part n) g seq code
  obtain ⟨hctx, hreg, hfw, hmem', htiles'⟩ := freeCtx_ends (s := x.abortBooks n g seq code)
    (by rw [hbooks, abortBooked_queuedFor, hq])
  refine ⟨_, rfl, hctx, ?_, ?_, ?_, (congrArg Fw.irqSvc hfw).trans hirq, hmem'.trans hmem, htiles'.trans htiles⟩ <;>
    rw [hreg, hbooks]
  exacts [hseq, herr, hlast]

/-- Returning tags changes no group: a dimension of the fabric and a group's axes stay. -/
theorem dropCollTags_grpSize (s : State) (n g : Nat) : (s.dropCollTags n g).grpSize n g = s.grpSize n g := by
  have hdims : ∀ a, (s.dropCollTags n g).axisExtent a = s.axisExtent a := fun a => by
    have hreg : (s.dropCollTags n g).reg Reg.fabDims = s.reg Reg.fabDims := by
      unfold State.dropCollTags State.noteTags
      rw [State.setF_reg_ne _ _ _ _ (by decide), State.setF_reg_ne _ _ _ _ (by decide)]
      rfl
    rw [State.axisExtent, State.f, hreg]
    rfl
  have hlen : ∀ a, (s.dropCollTags n g).grpLen n g a = s.grpLen n g a := fun a => by
    unfold State.grpLen
    rw [hdims]
    rfl
  simp only [State.grpSize, hlen]

/-- 250 µs after the abort of an accepted post without ABORT_SEM: the record, the books, and the free context (R284). -/
theorem collAbortFinish_due {s : State} {n g : Nat} {c : Ctx} (hc : s.ctx n g = some c) (hst : c.st = 6)
    (hdue : c.abortAt + 250000 ≤ s.engineTime) (hbad : c.bad = false) (hwait : s.collWaits n g c = false)
    (hsem : cw c.words 8 22 22 = 0) {v : State}
    (hv : v = ((s.dropCollTags n g).collWrite (coRecord c.words) ((s.dropCollTags n g).collRecord n g c
      (c.best.getD (0, 0)).1 (c.best.getD (0, 0)).2 (freeCounts s.freeCount (s.grpSize n g)))).1) :
    s.collAbortFinish n g =
      (({ v with freeCount := v.freeCount + 1 } : State).abortBooks n g c.seq (c.best.getD (0, 0)).1).freeCtx n g := by
  unfold State.collAbortFinish
  rw [hc]
  have hno : ¬(c.st ≠ 6 || !s.abortDue c || (!c.bad && s.collWaits n g c)) = true := by
    simp [hst, State.abortDue, hdue, hwait]
  dsimp only
  rw [if_neg hno, hbad, hsem, dropCollTags_grpSize, hv]
  rfl

/-! ### The commands -/

theorem bar2Write_eq {s : State} {n off : Nat} {data : List Byte} {rlx : Bool} (hup : s.hostUp = true) (hn : n < 16)
    (hoff : off < 2 ^ 40) : s.bar2Write n off data rlx =
      if (!s.bar2Grants n off data.length accHwr) = true then s.bar2Refused n off true else { s with
        ingressQ := s.ingressQ ++ [⟨s.ingressIn, n, off, data, rlx⟩], ingressIn := s.ingressIn + 1 } :=
  if_neg (by simpa [hup, hn] using hoff)

theorem bar2Write_granted {s : State} {n off : Nat} {data : List Byte} {rlx : Bool} (hup : s.hostUp = true) (hn : n < 16)
    (hoff : off < 2 ^ 40) (hgrant : s.bar2Grants n off data.length accHwr = true) :
    exec (.bar2Write n off data rlx) s = .next { s with
      ingressQ := s.ingressQ ++ [⟨s.ingressIn, n, off, data, rlx⟩], ingressIn := s.ingressIn + 1 } := by
  show Host.Outcome.next (s.bar2Write n off data rlx) = _
  rw [bar2Write_eq hup hn hoff, hgrant]
  rfl

theorem bar2Write_refused {s : State} {n off : Nat} {data : List Byte} {rlx : Bool} (hup : s.hostUp = true) (hn : n < 16)
    (hoff : off < 2 ^ 40) (hgrant : s.bar2Grants n off data.length accHwr = false) :
    ∃ u, exec (.bar2Write n off data rlx) s = .next u ∧ u.mem = s.mem ∧ u.ingressQ = s.ingressQ ∧ u.tiles = s.tiles ∧
      (u.part n).f Reg.mbPartRefused 15 0 = min 0xFFFF ((s.part n).f Reg.mbPartRefused 15 0 + 1) := by
  have h := bar2Refused_counts s n off true
  refine ⟨_, ?_, h.mem, h.ingressQ, h.tiles, bar2Refused_refused s n off true⟩
  show Host.Outcome.next (s.bar2Write n off data rlx) = _
  rw [bar2Write_eq hup hn hoff, hgrant]
  rfl

theorem bar2Read_served {s : State} {n off len : Nat} (hup : s.hostUp = true) (hn : n < 16) (hoff : off < 2 ^ 40)
    (hq : s.ingressQ = []) (hgrant : s.bar2Grants n off len accHrd = true) (hwait : s.spanWaits off (max len 1) = false) :
    ∃ u bs, exec (.bar2Read n off len) s = .next u ∧ u.hostRead = some bs ∧ u.hostUr = false ∧ u.readQ = s.readQ ∧
      (vatEnd ≤ off → (s.tile (pailTile off)).sliceQ = [] → (s.tile (pailTile off)).pailBad = [] →
        bs = memRead s.mem off len ∧ u.mem = s.mem) := by
  have hserve : exec (.bar2Read n off len) s = .next (s.readServe ⟨s.ingressIn, n, off, len⟩) := by
    show Host.Outcome.next (s.bar2Read n off len) = _
    rw [bar2Read_of_idle hup hn hoff hq, hgrant, hwait]
    rfl
  rw [hserve, State.readServe, hgrant]
  refine ⟨_, _, rfl, rfl, rfl, (State.MeshFrame.homeRead (.refl s)).readQ, fun hpail hslice hbad => ?_⟩
  obtain ⟨hdata, hmem⟩ := homeRead_cleanPail (len := len) hpail hslice hbad
  refine ⟨?_, hmem⟩
  rw [hdata]
  exact maskBad_nil _ _ _

theorem bar2Read_waits {s : State} {n off len : Nat} (hup : s.hostUp = true) (hn : n < 16) (hoff : off < 2 ^ 40)
    (hq : s.ingressQ = []) (hgrant : s.bar2Grants n off len accHrd = true) (hwait : s.spanWaits off (max len 1) = true) :
    exec (.bar2Read n off len) s = .next { s with readQ := s.readQ ++ [⟨s.ingressIn, n, off, len⟩] } := by
  show Host.Outcome.next (s.bar2Read n off len) = _
  rw [bar2Read_of_idle hup hn hoff hq, hgrant, hwait]
  rfl

theorem bar2Read_refused {s : State} {n off len : Nat} (hup : s.hostUp = true) (hn : n < 16) (hoff : off < 2 ^ 40)
    (hq : s.ingressQ = []) (hgrant : s.bar2Grants n off len accHrd = false) :
    ∃ u, exec (.bar2Read n off len) s = .next u ∧ u.hostRead = some (ones len) ∧ u.hostUr = true ∧ u.mem = s.mem ∧
      u.tiles = s.tiles ∧
      (u.part n).f Reg.mbPartRefused 15 0 = min 0xFFFF ((s.part n).f Reg.mbPartRefused 15 0 + 1) := by
  have hserve : exec (.bar2Read n off len) s = .next (s.readServe ⟨s.ingressIn, n, off, len⟩) := by
    show Host.Outcome.next (s.bar2Read n off len) = _
    rw [bar2Read_of_idle hup hn hoff hq, hgrant]
    rfl
  have h := bar2Refused_counts s n off false
  rw [hserve, State.readServe, hgrant]
  exact ⟨_, rfl, rfl, rfl, h.mem, h.tiles, bar2Refused_refused s n off false⟩

theorem logRepeatFlush_ends {s : State} {code src part : Nat} {w : LogWin}
    (hw : s.logWins.find? (fun x => x.same code src part) = some w)
    (hover : 1000000 ≤ (s.time + 2 ^ 64 - w.at_) % 2 ^ 64) (hfault : s.power.faultN = false) (hcount : w.count = 0) :
    exec (.logRepeatFlush code src part) s =
      .next { s with logWins := s.logWins.filter (fun x => !x.same code src part) } := by
  show Host.Outcome.next (s.logFlush code src part) = _
  rw [logFlush_over hw hover hfault, if_pos hcount]

theorem logRepeatFlush_writes {s : State} {code src part : Nat} {w : LogWin}
    (hw : s.logWins.find? (fun x => x.same code src part) = some w)
    (hover : 1000000 ≤ (s.time + 2 ^ 64 - w.at_) % 2 ^ 64) (hfault : s.power.faultN = false) (hcount : w.count ≠ 0) :
    ∃ u, exec (.logRepeatFlush code src part) s = .next u ∧ s.RecordsOnly u ∧
      u.logWins = s.logWins.map (fun x => if x.same code src part then { x with count := 0, at_ := s.time } else x) ∧
      ∀ p ∈ logPairs w.part, u.pair p = (s.pair p).logRecord p s.time w w.count := by
  refine ⟨_, rfl, .logFlush s code src part, ?_, fun p hp => ?_⟩ <;> rw [logFlush_over hw hover hfault, if_neg hcount]
  exact writeLog_pair s w w.count p hp

theorem exec_collAbortNotice {s : State} {n g nb seq code origin : Nat} {tag : Option DWord} (hup : s.meshUp = true) :
    exec (.collAbortNotice n g nb seq code origin tag) s = .next (s.collAbortNotice n g nb seq code origin tag) :=
  congrArg Host.Outcome.next (if_pos hup)

theorem abortNotice_forged {s : State} {n g nb seq code origin : Nat} {tag : Option DWord} (hup : s.meshUp = true)
    (htag : tag ≠ (s.part n).tagNotice [n, g, seq, code, origin]) :
    exec (.collAbortNotice n g nb seq code origin tag) s = .next s := by
  rw [exec_collAbortNotice hup, collAbortNotice_forged htag]

theorem abortNotice_aborts {s : State} {n g nb seq code origin : Nat} {c : Ctx} (hup : s.meshUp = true) (hn : n < 16)
    (hg : g < 64) (hact : s.partState n = 1) (hc : s.ctx n g = some c) (hseq : seq = (s.part n).grpSeq g) (hst : c.st ≠ 6) :
    ∃ u c', exec (.collAbortNotice n g nb seq code origin ((s.part n).tagNotice [n, g, seq, code, origin])) s = .next u ∧
      u.part n = { s.part n with ctxs := tabSet ctxD (s.part n).ctxs g (some c') } ∧ c'.st = 6 ∧
      c'.abortAt = s.engineTime ∧ c'.fragsIn = [] ∧ c'.outQ = [] ∧ (code, origin) ∈ c'.causes ∧
      (c.best = none → c'.best = some (code, origin)) ∧ u.tiles = s.tiles ∧ u.mem = s.mem := by
  have hcur : (seq + 2 ^ 32 - (s.part n).grpSeq g) % 2 ^ 32 = 0 := by omega
  obtain ⟨u, c', hu, ⟨hst', hat, hfrags, hout, hcause, hbest⟩, hpart, htiles, hmem⟩ :=
    collAbort_begins (code := code) (origin := origin) (from_ := some nb) hc hst
  refine ⟨u, c', ?_, hpart, hst', hat, hfrags, hout, hcause, hbest, htiles, hmem⟩
  rw [exec_collAbortNotice hup, collAbortNotice_signed hn hg hact hc, if_pos hcur, hu]

theorem abortNotice_held {s : State} {n g nb code origin ahead seq : Nat} {c : Ctx} (hup : s.meshUp = true) (hn : n < 16)
    (hg : g < 64) (hact : s.partState n = 1) (hc : s.ctx n g = some c) (h1 : 1 ≤ ahead) (h2 : ahead < 2 ^ 31)
    (hseq : seq = ((s.part n).grpSeq g + ahead) % 2 ^ 32) :
    ∃ u, exec (.collAbortNotice n g nb seq code origin ((s.part n).tagNotice [n, g, seq, code, origin])) s = .next u ∧
      ⟨nb, seq, code, origin⟩ ∈ (u.held n g).notices ∧ u.ctx n g = some c ∧ u.tiles = s.tiles ∧ u.mem = s.mem := by
  obtain ⟨u, hu, h⟩ := collAbortNotice_held (nb := nb) (code := code) (origin := origin) hn hg hact hc h1 h2 hseq
  exact ⟨u, by rw [exec_collAbortNotice hup, hu], h⟩

/-- Both timeouts abort with their code, this member as the origin (R283, R289). -/
theorem collTimeout_aborts {s : State} {n g : Nat} {c : Ctx} (hc : s.ctx n g = some c) {i : Instr}
    (hi : (i = Instr.collEntryTimeout n g ∧ c.st = 2 ∧ c.entryMs ≠ 0 ∧ c.start + c.entryMs * 1000000 < s.engineTime) ∨
      (i = Instr.collProgressTimeout n g ∧ (c.st = 3 ∨ c.st = 4) ∧ c.progUs ≠ 0 ∧
        c.heard + c.progUs * 1000 ≤ s.engineTime)) :
    ∃ u c', exec i s = .next u ∧ u.ctx n g = some c' ∧ c'.st = 6 ∧ c'.abortAt = s.engineTime ∧ c'.outQ = [] ∧
      (0x517, s.grpRank n g) ∈ c'.causes ∧ u.tiles = s.tiles ∧ u.mem = s.mem := by
  have hst : c.st ≠ 6 := by omega
  have hexec : exec i s = .next (s.collAbort n g 0x517 (s.grpRank n g) none) := by
    rcases hi with ⟨rfl, hst, hms, hlate⟩ | ⟨rfl, hst, hus, hlate⟩
    · show Host.Outcome.next (s.collEntryTimeout n g) = _
      simp [State.collEntryTimeout, hc, hst, hms, hlate, State.collCause]
    · show Host.Outcome.next (s.collProgressTimeout n g) = _
      simp [State.collProgressTimeout, hc, hst, hus, hlate, State.collCause]
  obtain ⟨u, c', hu, ⟨hst', hat, hfrags, hout, hcause, hbest⟩, hpart, htiles, hmem⟩ :=
    collAbort_begins (code := 0x517) (origin := s.grpRank n g) (from_ := none) hc hst
  refine ⟨u, c', hexec.trans (congrArg _ hu), ?_, hst', hat, hout, hcause, htiles, hmem⟩
  rw [State.ctx, hpart]
  exact tabGet_set_same ctxD (s.part n).ctxs g (some c')

theorem abortFinish_frees {s v w : State} {n g : Nat} {c : Ctx} (hc : s.ctx n g = some c) (hst : c.st = 6)
    (hdue : c.abortAt + 250000 ≤ s.engineTime) (hbad : c.bad = false) (hwait : s.collWaits n g c = false)
    (hsem : cw c.words 8 22 22 = 0) (hq : (s.part n).queuedFor g = []) (hw : w = s.dropCollTags n g)
    (hv : v = (w.collWrite (coRecord c.words) (w.collRecord n g c (c.best.getD (0, 0)).1 (c.best.getD (0, 0)).2
      (freeCounts s.freeCount (s.grpSize n g)))).1) :
    ∃ u, exec (.collAbortFinish n g) s = .next u ∧ u.ctx n g = none ∧
      (u.part n).reg (Reg.collGrpSeq + 16 * g) = BitVec.ofNat 32 (c.seq + 1) ∧
      (u.part n).reg Reg.collLastErr = BitVec.ofNat 32 ((c.best.getD (0, 0)).1 + 2 ^ 16 * g + 2 ^ 31) ∧
      (u.part n).reg Reg.collLastSeq = BitVec.ofNat 32 c.seq ∧ u.fw.irqSvc = v.fw.irqSvc + 1 ∧ u.mem = v.mem ∧
      u.tiles = v.tiles := by
  subst hw
  have hparts : v.parts = s.parts := by rw [hv]; exact (State.MeshFrame.collWrite (.refl _)).parts
  have hpart : v.part n = s.part n := by rw [State.part, hparts]; rfl
  obtain ⟨u, hu, h⟩ := abortBooks_freeCtx (x := { v with freeCount := v.freeCount + 1 }) (g := g) (seq := c.seq)
    (code := (c.best.getD (0, 0)).1) ((congrArg (Part.queuedFor · g) hpart).trans hq)
  exact ⟨u, congrArg Host.Outcome.next ((collAbortFinish_due hc hst hdue hbad hwait hsem hv).trans hu), h⟩

end Sys2Proof.Machine
end

section
open Sys2Proof Sys2Proof.Machine

/-- Settles O59: what a window refuses leaves a count and a record, an abort event begins one abort, and the engine's other
steps at its end change neither tiles nor memory. -/
theorem hostAccessesLogsAndAborts : Obligations.HostAccessesLogsAndAborts :=
  ⟨⟨fun _ _ _ _ _ hup hn hoff => ⟨bar2Write_granted hup hn hoff, bar2Write_refused hup hn hoff⟩,
    fun _ _ _ _ hup hn hoff hq =>
      ⟨bar2Read_served hup hn hoff hq, bar2Read_waits hup hn hoff hq, bar2Read_refused hup hn hoff hq⟩⟩,
    fun _ _ _ _ _ hw hover hfault => ⟨logRepeatFlush_ends hw hover hfault, logRepeatFlush_writes hw hover hfault⟩,
    fun _ _ _ _ hn hg hc =>
      ⟨fun _ _ _ _ hup hact => ⟨fun _ => abortNotice_forged hup, abortNotice_aborts hup hn hg hact hc,
          fun _ => abortNotice_held hup hn hg hact hc⟩,
        fun _ => collTimeout_aborts hc, fun _ _ => abortFinish_frees hc⟩⟩
end

section
namespace Sys2Proof.Machine

/-! ### Firmware images -/

section
variable {s : State} {p k : Nat} {t : Taken}

/-- The firmware state is no part of what records write. -/
theorem State.RecordsOnly.withFw {s u : State} (h : s.RecordsOnly u) (f : Fw) :
    State.RecordsOnly { s with fw := f } { u with fw := f } := by
  obtain ⟨pairs, wins, host, con, draws, rfl, hpairs⟩ := h
  exact ⟨pairs, wins, host, con, draws, rfl, hpairs⟩

theorem State.RecordsOnly.traceIf (s : State) (c : Prop) [Decidable c] (point core : Nat) (args : List Nat) :
    s.RecordsOnly (if c then s.trace point core args else s) := by
  split
  exacts [.trace _ _ _ _, .refl _]

theorem fwStage_rejected (h : s.InOrder p k 0x10A 1 t) (hflag : rqExpert t.words = true → par t.words 3 ≤ 1)
    (hcode : s.stageCode t.words ≠ 0) : s.fwStage p k = s.mbFinish p k (s.stageCode t.words) [] :=
  rejects_one h (InOrder.wrong h) _ _ hcode (flag01 t.words 3 hflag) (by simp [bad, hcode])

/-- The state with a bundle staged; a commit raises the least security version of Service (R306). -/
def State.staged (s : State) (b : List Byte) (commit : Bool) : State :=
  { s with fw := { s.fw with
    staged := some b, svnSvc := if commit = true then max s.fw.svnSvc (min 64 (imgSec (svcImage b))) else s.fw.svnSvc } }

theorem fwStage_stages (h : s.InOrder p k 0x10A 1 t) (hflag : rqExpert t.words = true → par t.words 3 ≤ 1)
    (hcode : s.stageCode t.words = 0) : ∃ u : State,
      s.fwStage p k = u.mbFinish p k 0 [w32 (imgVer (svcImage (s.stagedBundle t.words)))] ∧
      (s.staged (s.stagedBundle t.words) (rqExpert t.words && par t.words 3 == 1)).RecordsOnly u := by
  refine ⟨_, h.acts _ (flag01 t.words 3 hflag) (bad_passes (by simp [hcode])), ?_⟩
  exact .traceIf (s.staged _ _) _ _ _ _

theorem fwActivate_rejected (h : s.InOrder p k 0x10B 1 t) (hflag : rqExpert t.words = true → par t.words 0 ≤ 1)
    (hnone : s.fw.staged = none) : s.fwActivate p k = s.mbFinish p k 0x103 [] :=
  rejects_one h (InOrder.wrong h) _ _ (by decide) (flag01 t.words 0 hflag) (by rw [hnone]; rfl)

theorem fwActivate_begins (h : s.InOrder p k 0x10B 1 t) (hflag : rqExpert t.words = true → par t.words 0 ≤ 1)
    (hsome : s.fw.staged ≠ none) : s.fwActivate p k =
      ({ s with fw := { s.fw with activate := some t.words, activateAt := s.time } } : State).stay p k 1 [] := by
  unfold State.fwActivate
  refine (h.acts _ (flag01 t.words 0 hflag) (bad_passes (Option.isNone_eq_false_iff.mpr (Option.isSome_iff_ne_none.mpr hsome)))).trans ?_
  exact if_pos h.fresh

theorem fwActivate_goesOn (h : s.Started p k 0x10B 1 t) (hup : s.fw.down = false) : s.fwActivate p k =
    if s.onlyLaunches = true then (s.swapService (rqExpert t.words && par t.words 0 == 1)).stay p k 2 [] else s := by
  unfold State.fwActivate
  refine (h.goes (by decide) _ _ _ _).trans ?_
  simp [h.at_, hup]

/-! ### The non-volatile store and resets -/

theorem nvRead_acts (h : s.InOrder p k 0x10C 1 t) (hup : s.hostUp = true) (hkind : par t.words 0 = 3)
    (hindex : par t.words 1 = 0) : s.nvRead p k =
      ({ s with freeCount := s.freeCount + 1, hostMem := memWrite s.hostMem (par64 t.words 2) (s.nvRecord t.words) } :
        State).mbFinish p k 0 [w32 (s.nvRecord t.words).length] := by
  unfold State.nvRead
  exact h.acts _ (bad_passes (by simp [hkind, hindex])) (bad_passes (by rw [hup]; rfl))

theorem nvRecord_cycles {w : List Word} (hkind : par w 0 = 3) :
    s.nvRecord w = (s.fw.nvCycles.getD 0 []).flatMap (fun x => bytesOf 4 x.toNat) := if_pos hkind

theorem deviceReset_announced (hnone : s.fw.deviceReset = none) (h : s.InOrder p k 0x10D 1 t)
    (hflag : rqExpert t.words = true → par t.words 0 ≤ 1) : ∃ u : State, s.deviceResetCmd p k = u.mbFinish p k 0 [] ∧
      State.RecordsOnly { s with fw := { s.fw with deviceReset := some (rqExpert t.words && par t.words 0 == 1) } } u := by
  unfold State.deviceResetCmd
  rw [hnone]
  exact ⟨_, h.acts _ (flag01 t.words 0 hflag) (noChecks_pass _), (State.RecordsOnly.trace s 0x0A Src.root [0]).withFw _⟩

/-- Once announced, it is done. -/
theorem deviceReset_done {new : Bool} (hsome : s.fw.deviceReset = some new) : s.deviceResetCmd p k = s.warmReset new := by
  unfold State.deviceResetCmd
  rw [hsome]

/-- A tile after a reset of the device holds no registers, accumulators, or scratch bytes. -/
theorem deviceClear_tile (railsUp : Bool) (i : Nat) : ((s.deviceClear railsUp).tile i).regs = [] ∧
    ((s.deviceClear railsUp).tile i).acc = [] ∧ ((s.deviceClear railsUp).tile i).scratch = [] := by
  have htile : (s.deviceClear railsUp).tile i = tabGet tileD (tabMap tileD Tile.cleared s.tiles) i := rfl
  rw [htile]
  rcases tabGet_map tileD Tile.cleared s.tiles i with ⟨v, hv⟩ | hv <;> rw [hv]
  · exact ⟨rfl, rfl, rfl⟩
  · exact ⟨rfl, rfl, rfl⟩

/-- With no kept bundle, a reset that keeps the rails up waits in the ROM (R411). -/
theorem warmReset_unkept (hkept : s.fw.kept = []) (new : Bool) : s.warmReset new =
    { s.deviceClear true with power := { (s.deviceClear true).power with stage := .rom } } := by
  have hempty : (s.deviceClear true).fw.kept.isEmpty = true := by
    rw [show (s.deviceClear true).fw.kept = s.fw.kept from rfl, hkept]
    rfl
  unfold State.warmReset
  refine if_pos ?_
  rw [Bool.or_eq_true]
  exact Or.inr hempty

theorem pfFlr_resets (hup : s.hostUp = true) (hkept : s.fw.kept = []) : ∃ u : State, s.pfFlr = u ∧ u.power.stage = .rom ∧
    u.bootStage = 0 ∧ u.pairs = [] ∧ u.parts = [] ∧ u.timeAcc = s.timeAcc ∧ u.ticks = s.ticks ∧ u.mem = s.mem ∧
    u.reg Reg.capAonCause = s.reg Reg.capAonCause ∧
    ∀ i, (u.tile i).regs = [] ∧ (u.tile i).acc = [] ∧ (u.tile i).scratch = [] := by
  have hcause : (s.deviceClear true).reg Reg.capAonCause = s.reg Reg.capAonCause := by
    obtain ⟨ch, md, fw, pw, con, hform, haon, -, -⟩ := deviceClear_facts s true
    rw [State.reg, hform]
    exact haon
  exact ⟨_, (if_pos hup).trans (warmReset_unkept hkept false), rfl, rfl, rfl, rfl, rfl, rfl, rfl, hcause, deviceClear_tile true⟩

/-! ### Power-down -/

/-- Every engine of every tile is told to stop (R131). -/
theorem stopAll_stops (s : State) {i : Nat} (hi : i < tileCount) :
    ((s.stopTiles (List.range tileCount) 15).1.tile i).f Reg.ladleQctl 3 0 = 15 := by
  obtain ⟨tiles, hform, htiles⟩ := stopTiles_facts s (List.range tileCount) List.nodup_range 15
  rw [hform, State.tile, htiles, if_pos (List.mem_range.mpr hi)]
  have hstop : (s.tile i).f Reg.ladleQctl 3 0 ||| 15 = 15 := by
    have hlt : (s.tile i).f Reg.ladleQctl 3 0 < 16 := fld_lt _ 3 0
    generalize (s.tile i).f Reg.ladleQctl 3 0 = v at hlt
    decide +revert
  rw [hstop]
  have hset : ((s.tile i).setF Reg.ladleQctl 3 0 15).f Reg.ladleQctl 3 0 = 15 := Tile.setF_f_same _ _ _ (by decide) (by decide)
  unfold Tile.setStops
  extract_lets x
  split
  exacts [hset, hset]

theorem powerDown_begins (hno : s.fw.powerDown ≠ 3) (h : s.InOrder p k 0x10E 1 t) : ∃ u : State,
    s.powerDownCmd p k = u.stay p k 1 [] ∧ u.fw = { s.fw with powerDown := 1 } ∧
      ∀ i, i < 1152 → (u.tile i).f Reg.ladleQctl 3 0 = 15 := by
  have htrace := State.RecordsOnly.trace (s.stopTiles (List.range tileCount) 15).1 0x0B Src.root [0]
  have hact : s.powerDownCmd p k = (fun v : State => { v with fw := { v.fw with powerDown := 1 } }.stay p k 1 [])
      ((s.stopTiles (List.range tileCount) 15).1.trace 0x0B Src.root [0]) := by
    unfold State.powerDownCmd
    rw [if_neg hno, h.acts _ (noChecks_pass _) (noChecks_pass _), if_pos h.fresh]
  generalize (s.stopTiles (List.range tileCount) 15).1.trace 0x0B Src.root [0] = v at htrace hact
  obtain ⟨tiles, hform, -⟩ := stopTiles_facts s (List.range tileCount) List.nodup_range 15
  have hfw : v.fw = s.fw := htrace.fw.trans (by rw [hform])
  refine ⟨_, hact, congrArg (fun f : Fw => { f with powerDown := 1 }) hfw, fun i hi => ?_⟩
  show (v.tile i).f _ _ _ = 15
  rw [htrace.tile]
  exact stopAll_stops s hi

/-- Its later steps: at a command boundary the ingress is emptied; once traffic has drained the record is written. -/
theorem powerDown_goesOn (hno : s.fw.powerDown ≠ 3) (h : s.Started p k 0x10E 1 t) : s.powerDownCmd p k =
    if s.fw.powerDown = 1 then
      if (List.range tileCount).all (fun i => (s.tile i).atBoundary) = true then
        { (List.range 16).foldl (fun u n => u.ingressFlush n) s with
          fw := { ((List.range 16).foldl (fun u n => u.ingressFlush n) s).fw with powerDown := 2 } }
      else s
    else if ((List.range 16).all s.trafficDone && s.tags.isEmpty) = true then
      ({ s.writeTcyc true with fw := { (s.writeTcyc true).fw with powerDown := 3 } } : State).mbFinish p k 0 []
    else s := by
  unfold State.powerDownCmd
  rw [if_neg hno, h.goes (by decide)]
  exact if_neg (by rw [h.at_]; decide)

theorem powerDown_atBoundary (h : s.Started p k 0x10E 1 t) (hone : s.fw.powerDown = 1) : s.powerDownCmd p k =
    if (List.range tileCount).all (fun i => (s.tile i).atBoundary) = true then
      { (List.range 16).foldl (fun u n => u.ingressFlush n) s with
        fw := { ((List.range 16).foldl (fun u n => u.ingressFlush n) s).fw with powerDown := 2 } }
    else s := by
  rw [powerDown_goesOn (by omega) h, if_pos hone]

theorem powerDown_drained (h : s.Started p k 0x10E 1 t) (htwo : s.fw.powerDown = 2) : s.powerDownCmd p k =
    if ((List.range 16).all s.trafficDone && s.tags.isEmpty) = true then
      ({ s.writeTcyc true with fw := { (s.writeTcyc true).fw with powerDown := 3 } } : State).mbFinish p k 0 []
    else s := by
  rw [powerDown_goesOn (by omega) h, if_neg (by omega)]

/-- The rails have fallen, and chip time goes on (R366, R403). -/
theorem powerDown_falls (hthree : s.fw.powerDown = 3) : ∃ u : State, s.powerDownCmd p k = u ∧ u.power.stage = .held ∧
    u.power.meshOn = false ∧ u.timeAcc = s.timeAcc := by
  refine ⟨_, if_pos hthree, rfl, rfl, ?_⟩
  show (s.trace 0x0C Src.root [0]).timeAcc = s.timeAcc
  obtain ⟨_, _, _, _, _, htrace, -⟩ := State.RecordsOnly.trace s 0x0C Src.root [0]
  rw [htrace]

end

end Sys2Proof.Machine
end

section
open Sys2Proof Sys2Proof.Machine

/-- Settles O44: each command runs by the equation of its own step. -/
theorem firmwareCommandsAct : Obligations.FirmwareCommandsAct := by
  rintro s p k t w rfl
  refine ⟨fun h b c hb hc hflag => ⟨fun hcode => ?_, fun hcode => ?_⟩, fun h hflag => ⟨fun hnone => ?_, fun hsome => ?_⟩,
    fun h hup => ⟨fun hwait => ?_, fun honly => ?_⟩, fun h hup hkind hindex r hr => ?_, fun hnone h hflag => ?_,
    fun new hsome => ?_, fun hup hkept => ?_, fun hno => ⟨fun h => ?_, fun h hone => ⟨fun hbusy => ?_, fun hrest u hu => ?_⟩,
      fun h htwo hbusy => ?_, fun h htwo hdone htags => ?_⟩, fun hthree => ?_⟩
  · exact congrArg Host.Outcome.next (fwStage_rejected h hflag hcode)
  · subst hb hc
    obtain ⟨u, hu, hrec⟩ := fwStage_stages h hflag hcode
    exact ⟨u, congrArg Host.Outcome.next hu, hrec⟩
  · exact congrArg Host.Outcome.next (fwActivate_rejected h hflag hnone)
  · exact congrArg Host.Outcome.next (fwActivate_begins h hflag hsome)
  · exact congrArg Host.Outcome.next ((fwActivate_goesOn h hup).trans (if_neg (by rw [hwait]; decide)))
  · exact congrArg Host.Outcome.next ((fwActivate_goesOn h hup).trans (if_pos honly))
  · rw [hr, ← nvRecord_cycles hkind]
    exact congrArg Host.Outcome.next (nvRead_acts h hup hkind hindex)
  · obtain ⟨u, hu, hrec⟩ := deviceReset_announced hnone h hflag
    exact ⟨u, congrArg Host.Outcome.next hu, hrec⟩
  · exact congrArg Host.Outcome.next (deviceReset_done hsome)
  · obtain ⟨u, hu, hfacts⟩ := pfFlr_resets hup hkept
    exact ⟨u, congrArg Host.Outcome.next hu, hfacts⟩
  · obtain ⟨u, hu, hfacts⟩ := powerDown_begins hno h
    exact ⟨u, congrArg Host.Outcome.next hu, hfacts⟩
  · obtain ⟨i, hi, hbusy⟩ := hbusy
    have hnot : ¬(List.range tileCount).all (fun i => (s.tile i).atBoundary) = true := fun hall => by
      rw [List.all_eq_true.mp hall i (List.mem_range.mpr hi)] at hbusy
      cases hbusy
    exact congrArg Host.Outcome.next ((powerDown_atBoundary h hone).trans (if_neg hnot))
  · rw [hu]
    have hall : (List.range tileCount).all (fun i => (s.tile i).atBoundary) = true :=
      List.all_eq_true.mpr fun i hi => hrest i (List.mem_range.mp hi)
    exact congrArg Host.Outcome.next ((powerDown_atBoundary h hone).trans (if_pos hall))
  · have hnot : ¬((List.range 16).all s.trafficDone && s.tags.isEmpty) = true := by
      rcases hbusy with hbusy | hbusy
      · rw [hbusy, Bool.false_and]
        decide
      · simp [hbusy]
    exact congrArg Host.Outcome.next ((powerDown_drained h htwo).trans (if_neg hnot))
  · have hall : ((List.range 16).all s.trafficDone && s.tags.isEmpty) = true := by rw [hdone, htags]; rfl
    exact ⟨_, congrArg Host.Outcome.next ((powerDown_drained h htwo).trans (if_pos hall))⟩
  · obtain ⟨u, hu, hfacts⟩ := powerDown_falls (p := p) (k := k) hthree
    exact ⟨u, congrArg Host.Outcome.next hu, hfacts⟩
end

section
namespace Sys2Proof.Machine

/-! ### The start of a Churn job (R186) -/

/-- The job that a write to CHURN_GO starts in mesh cycle `cyc`, with the descriptor address, the coefficients and the
owed seed of that moment; `owner` reads the partition's owner entries (R186, R196, R204). -/
def Tile.newJob (x : Tile) (cyc : Nat) (owner : Nat → Bool) : Job where
  desc := x.f Reg.churnDesc 19 0
  start := cyc
  coefA := x.reg Reg.churnCoefA
  coefB := x.reg Reg.churnCoefB
  coefC := x.reg Reg.churnCoefC
  bigExp := x.f Reg.churnBigExp 7 0
  ownerOk := owner (fld (BitVec.ofNat 32 (x.rd32 (x.f Reg.churnDesc 19 0 + 56))) 11 0)
  begun := false
  faulted := false
  words := []
  owed := if bit x.reseed 0 then some (x.reg64 Reg.rennetSrSeedLo) else none
  wrote := []

theorem churnGo_busy {x : Tile} {v : Word} (cyc : Nat) (owner : Nat → Bool) (hgo : bit v 0 = true)
    (hbusy : x.f Reg.churnStatus 0 0 = 1) : x.churnGo v cyc owner = x.setF Reg.churnStatus 1 1 1 := by
  rw [Tile.churnGo, hgo, if_neg (by decide), if_pos hbusy]

theorem churnGo_starts {x : Tile} {v : Word} (cyc : Nat) (owner : Nat → Bool) (hgo : bit v 0 = true)
    (hidle : x.f Reg.churnStatus 0 0 = 0) : x.churnGo v cyc owner =
      { x.setF Reg.churnStatus 0 0 1 with churn := some (x.newJob cyc owner), reseed := setBit x.reseed 0 false } := by
  rw [Tile.churnGo, hgo, if_neg (by decide), if_neg (by rw [hidle]; decide)]
  rfl

/-- A write to CHURN_GO records no fault. -/
theorem churnGo_fault (x : Tile) (v : Word) (cyc : Nat) (owner : Nat → Bool) :
    (x.churnGo v cyc owner).reg Reg.ladleFault = x.reg Reg.ladleFault := by
  unfold Tile.churnGo
  split
  · rfl
  · split
    · exact Tile.setF_reg_ne _ _ _ _ (by decide)
    · exact Tile.setF_reg_ne x 0 0 1 (by decide)

theorem tileWrite_churnGo (s : State) (a : Agent) (t : Nat) (v : Word) :
    s.tileWrite a t Reg.churnGo v = s.modTile t (fun x => x.churnGo v s.cyc (s.ownerNames t)) := rfl

/-- CHURN_GO by the tile's own core, or by the function of the partition that owns the tile. -/
theorem exec_churnGo {s : State} {a : Agent} {t : Nat} (v : Word)
    (ha : (a = .core t ∧ s.clocked t = true) ∨ ∃ n, a = .vf n ∧ s.hostUp = true ∧ s.ownsTile n t = true) :
    exec (.churnGo a t v) s = .next (s.setTile t ((s.tile t).churnGo v s.cyc (s.ownerNames t))) := by
  refine congrArg Host.Outcome.next ?_
  obtain ⟨rfl, hc⟩ | ⟨n, rfl, hu, hown⟩ := ha
  · exact tileReg_core s t _ v _ hc (tileWrite_churnGo s _ t v) (churnGo_fault ..)
  · exact tileReg_mod s n t _ v _ hu hown (tileWrite_churnGo s _ t v) (churnGo_fault ..)

end Sys2Proof.Machine
end

section
open Sys2Proof Sys2Proof.Machine

/-- Settles O28: either agent's write is one change of the tile, which starts the job of that moment or sets OVERRUN. -/
theorem churnGoStartsAJob : Obligations.ChurnGoStartsAJob := by
  rintro s a t v x rfl ha hgo
  refine ⟨fun hbusy => ?_, fun hidle => ⟨(s.tile t).newJob s.cyc (s.ownerNames t), ?_, ?_⟩⟩
  · rw [exec_churnGo v ha, churnGo_busy _ _ hgo hbusy]
  · rw [exec_churnGo v ha, churnGo_starts _ _ hgo hidle]
  · exact ⟨rfl, rfl, rfl, rfl, rfl, rfl, rfl, rfl, rfl, rfl, rfl⟩
end

section
namespace Sys2Proof.Machine

/-! ### Steps of a unit that draw free values -/

/-- Such a step replaces its tile, but for a trace record, and counts the draw. -/
theorem drawing_tileUnit {s : State} {t : Nat} (f : State → Tile → Tile) (hc : s.clocked t = true) :
    ({ s with freeCount := s.freeCount + 1 } : State).TileOnly (s.drawing (fun s => s.tileUnit t (f s))) t ∧
      (s.drawing (fun s => s.tileUnit t (f s))).tile t = f s (s.tile t) := by
  refine ⟨?_, State.tileUnit_tile s _ hc⟩
  obtain ⟨z, pairs, hostMem, h⟩ := State.tileUnit_only s (f s) hc
  exact ⟨z, pairs, hostMem, by rw [State.drawing, h]; rfl⟩

/-- One that records no fault replaces its tile alone. -/
theorem drawing_tileUnit_same {s : State} {t : Nat} (f : State → Tile → Tile) (hc : s.clocked t = true)
    (hf : (f s (s.tile t)).reg Reg.ladleFault = (s.tile t).reg Reg.ladleFault) :
    s.drawing (fun s => s.tileUnit t (f s)) =
      { s.setTile t (f s (s.tile t)) with freeCount := s.freeCount + 1 } := by
  rw [State.drawing, State.tileUnit_same s _ hc hf]
  rfl

theorem State.TileOnly.other {s u : State} {t w : Nat} (h : s.TileOnly u t) (hw : w ≠ t) : u.tile w = s.tile w := by
  obtain ⟨z, pairs, hostMem, rfl⟩ := h
  exact State.setTile_tile_ne s z hw

/-! ### A job's reads and its start (R187, R189) -/

/-- Quarter 0's taking of an owed seed changes its generator and settles the job's debt. -/
theorem takeOwed_form {x : Tile} {j : Job} (hj : x.churn = some j) :
    ∃ ge, x.takeOwed = { x with gens := ge, churn := some { j with owed := none } } := by
  unfold Tile.takeOwed
  split
  · rename_i i hi
    obtain rfl : j = i := Option.some.inj (hj.symm.trans hi)
    split
    · rename_i v howed
      exact ⟨tabSet genD x.gens 0 (genSeed v 1), by rw [Tile.setGen]⟩
    · rename_i howed
      have hsame : ({ j with owed := none } : Job) = j := by rw [← howed]
      exact ⟨x.gens, by rw [hsame, ← hj]⟩
  · rename_i hnone
    rw [hj] at hnone
    cases hnone

section
variable {x : Tile} {j : Job} (hj : x.churn = some j) (hbegun : j.begun = false) (hfaulted : j.faulted = false)
  (hread : x.churnMayRead = true)

include hj in
theorem takeOwed_scrReads (rs : List (Nat × Nat)) : (x.takeOwed.scrReads rs).2 = (x.scrReads rs).2 := by
  obtain ⟨ge, h⟩ := takeOwed_form hj
  exact scReads_bad x _ (by rw [h]) rs

include hj in
theorem takeOwed_churn : x.takeOwed.churn = some { j with owed := none } := by
  obtain ⟨ge, h⟩ := takeOwed_form hj
  rw [h]

/-- The tile once its job, its seed taken, has read the descriptor. -/
def Tile.churnDescRead (x : Tile) (j : Job) : Tile := (x.takeOwed.scrReads [(j.desc, 64)]).1

include hj in
theorem churnDescRead_reg {o : Nat} (ho : o ≠ Reg.ladleScrEcc) : (x.churnDescRead j).reg o = x.reg o := by
  obtain ⟨ge, h⟩ := takeOwed_form hj
  exact (Tile.scrReads_reg _ _ ho).trans (reg_congr (by rw [h]) o)

include hj in
theorem churnDescRead_scratchSame : x.ScratchSame (x.churnDescRead j) := by
  obtain ⟨rg, h, -⟩ := scrReads_form x.takeOwed [(j.desc, 64)]
  obtain ⟨ge, h'⟩ := takeOwed_form hj
  rw [Tile.churnDescRead, h, h']
  exact ⟨rfl, rfl, rfl⟩

/-- The job once it has read the descriptor. -/
def Job.descRead (j : Job) (words : List Word) : Job := { j with owed := none, words := words }

include hj hbegun hfaulted hread in
/-- A job that may read its descriptor reads it; an unreadable or a rejected one is a fault of the Churn. -/
theorem churnStart_reads (k : Nat) (y : Tile) (hy : y = x.churnDescRead j) (d : Job)
    (hd : d = j.descRead (y.churnWords j.desc)) : x.churnStart k =
      if (x.scrReads [(j.desc, 64)]).2 = true then
        { (y.freeBuffers k d.d).recordFault 0x260 5 0 with churn := some { d with faulted := true } }
      else if y.churnCheck j ≠ 0 then { y.recordFault (y.churnCheck j) 5 0 with churn := some { d with faulted := true } }
      else { y with churn := some { d with begun := true } } := by
  subst hd hy
  rw [← takeOwed_scrReads hj]
  unfold Tile.churnStart
  rw [takeOwed_churn hj]
  dsimp only
  rw [if_neg (by rw [hbegun, hfaulted, hread]; decide)]
  rfl

end

/-! ### Undefined buffers -/

theorem Tile.freeBuffers_writeOnly (x : Tile) (k : Nat) (d : ChurnDesc) : x.WriteOnly (x.freeBuffers k d) := by
  rw [Tile.freeBuffers]
  generalize d.buffers = l
  induction l generalizing x with
  | nil => exact .refl x
  | cons r l ih => exact (x.wrBytes_writeOnly _ _).trans (ih _)

/-! ### What a job that has passed its checks does (R189, R190) -/

section
variable {x : Tile} {j : Job} (hj : x.churn = some j) (hbegun : j.begun = true)
include hj hbegun

/-- An uncorrectable word stops the job and leaves its buffers undefined. -/
theorem churnFault_stops (hfaulted : j.faulted = false) (hbad : (x.scrReads (j.d.reads j.desc)).2 = true) (k : Nat) :
    x.churnFault k = { ((x.scrReads (j.d.reads j.desc)).1.freeBuffers k j.d).recordFault 0x260 5 0 with
      churn := some { j with faulted := true } } := by
  unfold Tile.churnFault
  rw [hj]
  dsimp only
  rw [if_neg (by rw [hbegun, hfaulted]; decide), if_neg (by rw [hbad]; decide)]

/-- The tile once a job has run and left what it leaves. -/
def Tile.churnDone (x : Tile) (j : Job) (compat : Bool) (k : Nat) : Tile :=
  ((x.scrReads (j.d.reads j.desc)).1.churnRun j compat k).churnLeaves k

/-- The books of a completed job: its cycles, its count, BUSY and its semaphore. -/
def Tile.churnBooked (y : Tile) (j : Job) (cyc : Nat) : Tile :=
  (((y.setReg Reg.churnLastCyc (BitVec.ofNat 32 (cycDiff cyc j.start))).setReg Reg.churnJobs
    (y.reg Reg.churnJobs + 1)).setF Reg.churnStatus 0 0 0).addSem j.d.sem 1

theorem churnComplete_ends (hfaulted : j.faulted = false) (hgood : (x.scrReads (j.d.reads j.desc)).2 = false)
    (compat : Bool) (cyc k : Nat) :
    x.churnComplete compat cyc k = { (x.churnDone j compat k).churnBooked j cyc with churn := none } := by
  unfold Tile.churnComplete
  rw [hj]
  dsimp only
  rw [if_neg (by rw [hbegun, hfaulted, hgood]; decide)]
  rfl

end

/-- Two tiles differ at most in what a job's arithmetic and writes change: registers, the note of the cycle, the
generators, scratch, and the writes that running jobs have noted. -/
def Tile.RunOnly (x y : Tile) : Prop :=
  y = { x with
    regs := y.regs, now := y.now, gens := y.gens, scratch := y.scratch, scrBad := y.scrBad, churn := y.churn, skim := y.skim }

namespace Tile.RunOnly
variable {x y z : Tile}

theorem refl (x : Tile) : x.RunOnly x := rfl

theorem trans (h : x.RunOnly y) (h' : y.RunOnly z) : x.RunOnly z := by
  unfold Tile.RunOnly at *
  rw [h', h]

theorem andRegs (h : x.RunOnly y) (h' : y.RegsOnly z) : x.RunOnly z :=
  h.trans (by unfold Tile.RegsOnly at h'; unfold Tile.RunOnly; rw [h'])

theorem andWrite (h : x.RunOnly y) (h' : y.WriteOnly z) : x.RunOnly z :=
  h.trans (by obtain ⟨hform, -⟩ := h'; unfold Tile.RunOnly; rw [hform])

theorem andGen (h : x.RunOnly y) (q : Nat) (g : DWord) : x.RunOnly (y.setGen q g) := h.trans rfl

/-- A step that an option asks for or leaves out. -/
theorem optional {β : Type} {f : Option β → Tile} (hnone : x.RunOnly (f none))
    (hsome : ∀ b, (f none).RunOnly (f (some b))) : ∀ o, x.RunOnly (f o)
  | none => hnone
  | some b => hnone.trans (hsome b)

end Tile.RunOnly

theorem churnEvents_only (x : Tile) (shard : Nat) (ks : List Nat) : x.RegsOnly (x.churnEvents shard ks) := by
  have hset (y : Tile) : y.RegsOnly (ks.foldl (fun t k => t.setF Reg.churnStatus k k 1) y) :=
    .foldl (fun t k => t.setF Reg.churnStatus k k 1) (fun t k => .setF t _ k k 1) ks y
  unfold Tile.churnEvents
  dsimp only
  split
  · exact .andReg (.trans (.count ..) (.trans (.count ..) (hset _))) _ _
  · exact .trans (.count ..) (.trans (.count ..) (hset _))

/-- A job's run touches neither the engines nor their queues. -/
theorem churnRun_only (x : Tile) (j : Job) (compat : Bool) (k : Nat) : x.RunOnly (x.churnRun j compat k) := by
  unfold Tile.churnRun
  dsimp only
  have hfirst : x.RunOnly (if j.tainted = true then x.freeBuffers k j.d else x) := by
    split
    · exact .andWrite (.refl x) (x.freeBuffers_writeOnly k j.d)
    · exact .refl x
  have hlast {y : Tile} (h : x.RunOnly y) : x.RunOnly (if j.tainted = true then y.freeBuffers k j.d else
      (y.freeBytes k (j.d.gA, j.d.gw * j.d.elems)).freeBytes k (j.d.workA, 2 * j.d.elems + 8 * j.d.m * j.d.m + 256)) := by
    split
    · exact h.andWrite (y.freeBuffers_writeOnly k j.d)
    · exact (h.andWrite (Tile.wrBytes_writeOnly ..)).andWrite (Tile.wrBytes_writeOnly ..)
  refine .andRegs (.andRegs (hlast ?_) (churnEvents_only ..)) (Tile.rnEvents_only ..)
  generalize (if j.tainted = true then x.freeBuffers k j.d else x) = y at *
  generalize (if j.d.rule = 0 then orthoCore _ _ _ _ else _) = core
  obtain ⟨upd, newL, newP, resid, kept, evts⟩ := core
  dsimp only
  revert resid
  refine Tile.RunOnly.optional ?_ fun _ => .andRegs (.refl _) (.setReg ..)
  revert newP
  refine Tile.RunOnly.optional ?_ fun _ => .andWrite (.refl _) (Tile.wrBytes_writeOnly ..)
  revert newL
  refine Tile.RunOnly.optional ?_ fun _ => .andWrite (.refl _) (Tile.wrBytes_writeOnly ..)
  exact .andWrite (.andWrite (.andGen hfirst _ _) (Tile.wrBytes_writeOnly ..)) (Tile.wrBytes_writeOnly ..)

theorem freeVectors_form (x : Tile) (k : Nat) : ∃ vr, x.freeVectors k = { x with vr := vr } := by
  unfold Tile.freeVectors
  generalize List.range 32 = l
  induction l generalizing x with
  | nil => exact ⟨x.vr, rfl⟩
  | cons v l ih =>
    obtain ⟨vr, h⟩ := ih (x.setLanes v ((List.range 64).map (fun l =>
      BitVec.ofNat 32 (Config.freeValue k (0x100000 + v * 64 + l)))))
    exact ⟨vr, h⟩

theorem addSem_only (x : Tile) (n k : Nat) : x.RegsOnly (x.addSem n k) := by
  unfold Tile.addSem
  dsimp only
  split
  · refine .trans ?_ (Tile.recordFault_only ..)
    rfl
  · exact .setF ..

theorem churnBooked_only (y : Tile) (j : Job) (cyc : Nat) : y.RegsOnly (y.churnBooked j cyc) :=
  .trans (.andF (.andReg (.setReg ..) ..) ..) (addSem_only ..)

/-- What a completed job leaves of the matrix engine, and the queues it releases (R190, R191). -/
theorem churnDone_leaves (x : Tile) (j : Job) (compat : Bool) (k cyc : Nat) (z : Tile)
    (hz : z = { (x.churnDone j compat k).churnBooked j cyc with churn := none }) :
    z.wValid = 0 ∧ z.wPendOn = 0 ∧ z.gang = 3 ∧ z.accOpen = [] ∧ z.fill = 0 ∧ z.queues = x.queues := by
  obtain ⟨y, hy⟩ : ∃ y, y = (x.scrReads (j.d.reads j.desc)).1.churnRun j compat k := ⟨_, rfl⟩
  have hrun : x.RunOnly y := hy ▸ .trans (.andRegs (.refl x) (x.scrReads_only _)) (churnRun_only ..)
  have hbooks := churnBooked_only (x.churnDone j compat k) j cyc
  obtain ⟨vr, hleaves⟩ := freeVectors_form ({ y with
    wValid := 0, wPendOn := 0, gang := 3, accOpen := [], fill := 0, openTile := [], arr := { y.arr with loads := [] } } : Tile) k
  rw [Tile.churnDone, ← hy, Tile.churnLeaves, hleaves] at hbooks hz
  rw [hz, hbooks, hrun]
  exact ⟨rfl, rfl, rfl, rfl, rfl, rfl⟩

/-- A first fault of the Churn: its code is recorded with ENGINE = 5 (R189). -/
theorem churnFault_recorded {y z : Tile} {code : Nat} {ch : Option Job} (hfirst : y.f Reg.ladleFault 31 31 = 0)
    (hz : z = { y.recordFault code 5 0 with churn := ch }) :
    z.f Reg.ladleFault 15 0 = code % 65536 ∧ z.f Reg.ladleFault 18 16 = 5 := by
  obtain ⟨-, -, hrec, -⟩ := y.recordFault_facts code 5 0
  obtain ⟨hcode, hengine, -⟩ := hrec hfirst
  subst hz
  exact ⟨hcode, hengine⟩

/-! ### The events of a Churn job -/

section
variable {s : State} {t : Nat} {j : Job} (hc : s.clocked t = true) (hj : (s.tile t).churn = some j)
  (hfaulted : j.faulted = false)
include hc hj hfaulted

section
variable (hbegun : j.begun = false) (hread : (s.tile t).churnMayRead = true)
include hbegun hread

/-- A job whose descriptor passes its checks begins. -/
theorem churnJobStart_begins (hgood : ((s.tile t).scrReads [(j.desc, 64)]).2 = false) {y : Tile} {k : Job}
    (hy : y = (s.tile t).churnDescRead j) (hk : k = j.descRead (y.churnWords j.desc)) (hcode : y.churnCheck j = 0) :
    exec (.churnJobStart t) s = .next
      { s.setTile t { y with churn := some { k with begun := true } } with freeCount := s.freeCount + 1 } := by
  have hstep := churnStart_reads hj hbegun hfaulted hread s.freeCount y hy k hk
  rw [if_neg (by rw [hgood]; decide), if_neg (not_not_intro hcode)] at hstep
  have hkept : y.reg Reg.ladleFault = (s.tile t).reg Reg.ladleFault := hy ▸ churnDescRead_reg hj (by decide)
  refine congrArg Host.Outcome.next ((drawing_tileUnit_same (fun s x => x.churnStart s.freeCount) hc ?_).trans ?_)
  · rw [hstep]
    exact hkept
  · rw [hstep]

/-- One that fails a check records its code and changes no buffer. -/
theorem churnJobStart_rejects (hfirst : (s.tile t).f Reg.ladleFault 31 31 = 0)
    (hgood : ((s.tile t).scrReads [(j.desc, 64)]).2 = false) {y : Tile} {k : Job}
    (hy : y = (s.tile t).churnDescRead j) (hk : k = j.descRead (y.churnWords j.desc)) (hcode : y.churnCheck j ≠ 0) :
    ∃ u, exec (.churnJobStart t) s = .next u ∧ ({ s with freeCount := s.freeCount + 1 } : State).TileOnly u t ∧
      (s.tile t).ScratchSame (u.tile t) ∧ (u.tile t).f Reg.ladleFault 15 0 = y.churnCheck j % 65536 ∧
      (u.tile t).f Reg.ladleFault 18 16 = 5 ∧ (u.tile t).churn = some { k with faulted := true } := by
  have hstep := churnStart_reads hj hbegun hfaulted hread s.freeCount y hy k hk
  rw [if_neg (by rw [hgood]; decide), if_pos hcode] at hstep
  obtain ⟨honly, htile⟩ := drawing_tileUnit (fun s x => x.churnStart s.freeCount) hc
  rw [hstep] at htile
  have hkept : y.reg Reg.ladleFault = (s.tile t).reg Reg.ladleFault := hy ▸ churnDescRead_reg hj (by decide)
  obtain ⟨hrec, hengine⟩ := churnFault_recorded ((congrArg (fld · 31 31) hkept).trans hfirst) htile
  have hsame : (s.tile t).ScratchSame y := hy ▸ churnDescRead_scratchSame hj
  refine ⟨_, rfl, honly, ?_, hrec, hengine, by rw [htile]⟩
  rw [htile, Tile.recordFault_only]
  exact ⟨hsame.scratch, hsame.scrBad, hsame.turn⟩

/-- An uncorrectable word of the descriptor records CZ_ERR_SCR_UNCORR. -/
theorem churnJobStart_unreadable (hfirst : (s.tile t).f Reg.ladleFault 31 31 = 0)
    (hbad : ((s.tile t).scrReads [(j.desc, 64)]).2 = true) : ∃ u, exec (.churnJobStart t) s = .next u ∧
      (u.tile t).f Reg.ladleFault 15 0 = 0x260 ∧ (u.tile t).f Reg.ladleFault 18 16 = 5 := by
  have hstep := churnStart_reads hj hbegun hfaulted hread s.freeCount _ rfl _ rfl
  rw [if_pos hbad] at hstep
  obtain ⟨-, htile⟩ := drawing_tileUnit (fun s x => x.churnStart s.freeCount) hc
  rw [hstep] at htile
  obtain ⟨-, hfree⟩ := Tile.freeBuffers_writeOnly ((s.tile t).churnDescRead j) s.freeCount
    (j.descRead (((s.tile t).churnDescRead j).churnWords j.desc)).d
  have hkept := (hfree Reg.ladleFault (by decide)).trans (churnDescRead_reg hj (by decide))
  obtain ⟨hrec, hengine⟩ := churnFault_recorded ((congrArg (fld · 31 31) hkept).trans hfirst) htile
  exact ⟨_, rfl, hrec, hengine⟩

end

variable (hbegun : j.begun = true)
include hbegun

theorem churnJobFault_stops (hbad : ((s.tile t).scrReads (j.d.reads j.desc)).2 = true) :
    ∃ u, exec (.churnJobFault t) s = .next u ∧ (u.tile t).f Reg.ladleFault 31 31 = 1 ∧
      (u.tile t).churn = some { j with faulted := true } := by
  obtain ⟨-, htile⟩ := drawing_tileUnit (fun s x => x.churnFault s.freeCount) hc
  rw [churnFault_stops hj hbegun hfaulted hbad] at htile
  obtain ⟨hvalid, -⟩ := Tile.recordFault_facts
    (((s.tile t).scrReads (j.d.reads j.desc)).1.freeBuffers s.freeCount j.d) 0x260 5 0
  refine ⟨_, rfl, ?_, by rw [htile]⟩
  rw [htile]
  exact hvalid

theorem churnJobComplete_ends (hgood : ((s.tile t).scrReads (j.d.reads j.desc)).2 = false) :
    ∃ u, exec (.churnJobComplete t) s = .next u ∧ (∀ w, w ≠ t → u.tile w = s.tile w) ∧ u.tile t =
      { ((s.tile t).churnDone j (s.compat t) s.freeCount).churnBooked j s.cyc with churn := none } := by
  obtain ⟨honly, htile⟩ := drawing_tileUnit (fun s x => x.churnComplete (s.compat t) s.cyc s.freeCount) hc
  rw [churnComplete_ends hj hbegun hfaulted hgood] at htile
  exact ⟨_, rfl, fun w hw => honly.other hw, htile⟩

end

end Sys2Proof.Machine
end

section
open Sys2Proof Sys2Proof.Machine

/-- Settles O29: a start reads the descriptor and goes on or faults, and a completed job leaves what its run, its books
and R190 leave. -/
theorem churnJobsRun : Obligations.ChurnJobsRun := by
  rintro s t j x rfl hc hj hfaulted hfirst
  refine ⟨fun hbegun hread hgood y k hy hk => ⟨?_, ?_⟩, fun hbegun hread hbad => ?_, fun hbegun hbad => ?_,
    fun hbegun hgood => ?_⟩
  · exact churnJobStart_begins hc hj hfaulted hbegun hread hgood hy hk
  · exact churnJobStart_rejects hc hj hfaulted hbegun hread hfirst hgood hy hk
  · exact churnJobStart_unreadable hc hj hfaulted hbegun hread hfirst hbad
  · exact churnJobFault_stops hc hj hfaulted hbegun hbad
  · obtain ⟨u, hstep, hother, htile⟩ := churnJobComplete_ends hc hj hfaulted hbegun hgood
    obtain ⟨hvalid, hpend, hgang, hopen, hfill, hqueues⟩ := churnDone_leaves _ j _ _ _ _ htile
    exact ⟨u, _, hstep, rfl, htile, hvalid, hpend, hgang, hopen, hfill, hqueues, hother⟩
end

section
namespace Sys2Proof.Machine

/-! ### Optimiser state (R207, R208) -/

/-- A request all of whose checks before one pass, and that fails this one alone, ends with its code (R317). -/
theorem rejects_among {s : State} {p k op col : Nat} {t : Taken} (h : s.InOrder p k op col t)
    {abs rel : List Word → List (Bool × Nat)} (act : Taken → State) {l r : List (Bool × Nat)} {c : Nat} (hc : c ≠ 0)
    (hrel : rel t.words = l ++ (true, c) :: r) (ha : ∀ x ∈ abs t.words, x.1 = false) (hl : ∀ x ∈ l, x.1 = false)
    (hr : ∀ x ∈ r, x.1 = false) : s.command p k op col abs rel act = s.mbFinish p k c [] := by
  have hpartition : (p != 0 && decide (0x200 ≤ rqOp t.words) && s.partState (p - 1) != 1) = false := by
    rw [takenCmd_op h.taken]
    obtain hroot | hlow | hactive := h.active
    · rw [hroot]; rfl
    · rw [decide_eq_false (Nat.not_le.mpr hlow), Bool.and_false, Bool.false_and]
    · rw [hactive]; exact Bool.and_false _
  have hcode : s.rejects p t.words col (abs t.words) (rel t.words) = c := by
    rw [State.rejects, InOrder.wrong h, hrel, if_neg Bool.false_ne_true, ← List.cons_append, ← List.append_assoc]
    refine lowest_one _ _ c hc (fun x hx => ?_) hr
    simp only [List.mem_append, List.mem_cons, List.not_mem_nil, or_false] at hx
    obtain ((rfl | rfl) | hx) | rfl | hx := hx
    · exact decide_eq_false (Nat.not_lt.mpr h.flags)
    · exact h.may
    · exact ha x hx
    · exact hpartition
    · exact hl x hx
  rw [State.command, h.taken]
  dsimp only
  rw [if_neg (not_not_intro h.fresh), hcode, if_pos hc]

theorem Tile.putBufs_writeOnly (x : Tile) (l : List (Nat × Nat)) (bs : List Byte) : x.WriteOnly (x.putBufs l bs) := by
  induction l generalizing x bs with
  | nil => exact .refl x
  | cons b l ih => exact (x.wrBytes_writeOnly _ _).trans (ih _ _)

/-- The owner's tile with a record of header `h` imported: the buffers, quarter 0's generator and the coefficients. -/
def ShardRef.imported (r : ShardRef) (x : Tile) (h body : List Byte) : Tile :=
  let y := (((x.putBufs r.bufs body).setReg Reg.churnCoefA (w32 (imgVal h 0x28 4))).setReg Reg.churnCoefB
    (w32 (imgVal h 0x2C 4))).setReg Reg.churnCoefC (w32 (imgVal h 0x30 4))
  { y with gens := tabSet genD y.gens 0 (BitVec.ofNat 64 (imgVal h 0x20 8)) }

theorem imported_facts (r : ShardRef) (x : Tile) (h body : List Byte) (y : Tile) (hy : y = r.imported x h body) :
    y.scratch = (x.putBufs r.bufs body).scratch ∧ tabGet genD y.gens 0 = BitVec.ofNat 64 (imgVal h 0x20 8) ∧
    (∀ q, q ≠ 0 → tabGet genD y.gens q = tabGet genD x.gens q) ∧ y.reg Reg.churnCoefA = w32 (imgVal h 0x28 4) ∧
    y.reg Reg.churnCoefB = w32 (imgVal h 0x2C 4) ∧ y.reg Reg.churnCoefC = w32 (imgVal h 0x30 4) ∧ y.acc = x.acc ∧
    y.queues = x.queues := by
  obtain ⟨hform, -⟩ := x.putBufs_writeOnly r.bufs body
  have hgens : (x.putBufs r.bufs body).gens = x.gens := by rw [hform]
  have hacc : (x.putBufs r.bufs body).acc = x.acc := by rw [hform]
  have hqueues : (x.putBufs r.bufs body).queues = x.queues := by rw [hform]
  have hreg (o : Nat) : y.reg o = ((((x.putBufs r.bufs body).setReg Reg.churnCoefA (w32 (imgVal h 0x28 4))).setReg
      Reg.churnCoefB (w32 (imgVal h 0x2C 4))).setReg Reg.churnCoefC (w32 (imgVal h 0x30 4))).reg o :=
    reg_congr (by rw [hy]; rfl) o
  subst hy
  refine ⟨rfl, tabGet_set_same .., fun q hq => ?_, ?_, ?_, ?_, hacc, hqueues⟩
  · exact (tabGet_set_ne _ _ _ hq).trans (congrArg (tabGet genD · q) hgens)
  · rw [hreg, Tile.setReg_reg_ne _ _ (by decide), Tile.setReg_reg_ne _ _ (by decide), Tile.setReg_reg_same]
  · rw [hreg, Tile.setReg_reg_ne _ _ (by decide), Tile.setReg_reg_same]
  · rw [hreg, Tile.setReg_reg_same]

section
variable {s : State} {p k : Nat} {t : Taken} {r : ShardRef}

theorem stateExport_acts (h : s.InOrder p k 0x20A 2 t) (hup : s.hostUp = true) (hr : r = s.shardOf (p - 1) t.words true)
    (hgood : r.fault = 0) : s.stateExport p k =
      ({ s with
        hostMem := memWrite s.hostMem r.buf (r.header (s.tile r.tile) ++
          r.bufs.flatMap (fun b => (s.tile r.tile).rdBytes b.1 b.2)) } : State).mbFinish p k 0 [w32 r.size] := by
  subst hr
  unfold State.stateExport
  refine h.acts _ (noChecks_pass _) (bad_passes_cons (decide_eq_false (not_not_intro hgood)) (bad_passes ?_))
  rw [hup]; rfl

theorem stateImport_acts (h : s.InOrder p k 0x20B 2 t) (hup : s.hostUp = true) (hr : r = s.shardOf (p - 1) t.words false)
    (hgood : r.fault = 0) {hd : List Byte} (hhd : hd = memRead s.hostMem r.buf 64) (hrecord : recordBad hd = false)
    (hsame : r.differs hd = false) : s.stateImport p k =
      (s.setTile r.tile (r.imported (s.tile r.tile) hd (memRead s.hostMem (r.buf + 64) (r.size - 64)))).mbFinish p k 0
        (res64 (imgVal hd 0x10 8)) := by
  subst hr hhd
  unfold State.stateImport
  refine h.acts _ (noChecks_pass _) (bad_passes_cons (decide_eq_false (not_not_intro hgood))
    (bad_passes_cons ?_ (bad_passes_cons ?_ (bad_passes ?_))))
  · rw [hup]; rfl
  · rw [hrecord, Bool.and_false]
  · rw [hsame, Bool.and_false]

/-- A record of another format is answered with CZ_ERR_CHURN_STATE. -/
theorem stateImport_rejects (h : s.InOrder p k 0x20B 2 t) (hup : s.hostUp = true)
    (hr : r = s.shardOf (p - 1) t.words false) (hgood : r.fault = 0) {hd : List Byte}
    (hhd : hd = memRead s.hostMem r.buf 64) (hrecord : recordBad hd = true) (hsame : r.differs hd = false) :
    s.stateImport p k = s.mbFinish p k 0x274 [] := by
  subst hr hhd
  unfold State.stateImport
  refine rejects_among h _ (by decide) (l := [bad false 0, bad false 0x105]) (r := [bad false 0x101]) ?_ (noChecks_pass _)
    (bad_passes_cons rfl (bad_passes rfl)) (bad_passes rfl)
  simp only [hup, hgood, hrecord, hsame]
  rfl

end

end Sys2Proof.Machine
end

section
open Sys2Proof Sys2Proof.Machine

/-- Settles O49: both commands act by their equations when their checks pass, and a record of another format fails that
check alone. -/
theorem optimiserStateMoves : Obligations.OptimiserStateMoves := by
  rintro s p k t w rfl - hup
  refine ⟨fun r x hr hx hgood h => ?_, fun r hd hr hhd hgood h => ⟨fun hrecord hsame => ?_, fun hrecord hsame => ?_⟩⟩
  · subst hx
    exact next_served (f := fun s => s.stateExport p k) h.served (stateExport_acts h hup hr hgood)
  · refine ⟨_, next_served (f := fun s => s.stateImport p k) h.served
      (stateImport_acts h hup hr hgood hhd hrecord hsame), ?_⟩
    exact imported_facts _ _ _ _ _ rfl
  · exact next_served (f := fun s => s.stateImport p k) h.served
      (stateImport_rejects h hup hr hgood hhd hrecord hsame)
end

section
namespace Sys2Proof.Machine

/-! ### A Skimmer job that fails its checks (R110, R214) -/

/-- Recording a fault marks the mesh cycle, so that a clear of the record in the same cycle has no effect (R110). -/
theorem Tile.recordFault_marks (x : Tile) (code engine seq : Nat) : (x.recordFault code engine seq).now.fault = true := by
  rw [Tile.recordFault]
  dsimp only
  split <;> split <;> rfl

/-- A job whose descriptor can be read and fails a check is the fault record of its code (R214). -/
theorem skimGo_rejects {s : State} {t : Nat} {v : Word} (hgo : bit v 0 = true)
    (hidle : (s.tile t).f Reg.skimStatus 0 0 = 0)
    (hgood : ((s.tile t).scrReads [((s.tile t).f Reg.skimDesc 19 0, 32)]).2 = false) (hcode : s.skimCheck t ≠ 0) :
    s.skimGo t v = s.setTile t
      (((s.tile t).scrReads [((s.tile t).f Reg.skimDesc 19 0, 32)]).1.recordFault (s.skimCheck t) 6 0) := by
  unfold State.skimGo
  dsimp only
  rw [if_neg (by rw [hgo]; decide), if_neg (by rw [hidle]; decide), if_neg (by rw [hgood]; decide), if_pos hcode]

theorem exec_skimGo_vf {s : State} {n t : Nat} (v : Word) (hup : s.hostUp = true) (hown : s.ownsTile n t = true) :
    exec (.skimGo (.vf n) t v) s = .next (s.faultTraced t (fun s => s.skimGo t v)) :=
  congrArg Host.Outcome.next (tileReg_vf s n t Reg.skimGo v hup hown)

/-- After a rejected job the note of the cycle says that a fault arose. -/
theorem exec_skimGo_rejected_marks {s u : State} {n t : Nat} {v : Word} (hup : s.hostUp = true)
    (hown : s.ownsTile n t = true) (hgo : bit v 0 = true) (hidle : (s.tile t).f Reg.skimStatus 0 0 = 0)
    (hgood : ((s.tile t).scrReads [((s.tile t).f Reg.skimDesc 19 0, 32)]).2 = false) (hcode : s.skimCheck t ≠ 0)
    (hu : exec (.skimGo (.vf n) t v) s = .next u) : (u.tile t).now.fault = true := by
  have hstep := Host.Outcome.next.inj ((exec_skimGo_vf v hup hown).symm.trans hu)
  obtain ⟨pairs, hostMem, htraced⟩ := s.faultTraced_only t (fun s => s.skimGo t v)
  rw [← hstep, htraced, State.traced_tile, skimGo_rejects hgo hidle hgood hcode, State.setTile_tile_same]
  exact Tile.recordFault_marks ..

/-- The host link up and allocation unit 0 owned by partition 0. Every tile is as at reset: nothing has happened in its
mesh cycle, and SKIM_DESC names eight zero words, a descriptor with a reserved GFMT and BLOCKS of 0 (Table 8.1). -/
def zeroDescState : State :=
  (({ State.reset with power := { State.reset.power with stage := .rom } }.setF Reg.mbPcieStat 9 9 1).setPart 0
    (Part.reset.setReg Reg.mbPartCfg 0x10000001))

theorem zeroDescState_hostUp : zeroDescState.hostUp = true := by decide

theorem zeroDescState_owns : zeroDescState.ownsTile 0 0 = true := by decide

theorem zeroDescState_idle : (zeroDescState.tile 0).f Reg.skimStatus 0 0 = 0 := by decide

theorem zeroDescState_readable :
    ((zeroDescState.tile 0).scrReads [((zeroDescState.tile 0).f Reg.skimDesc 19 0, 32)]).2 = false := by decide

theorem zeroDescState_code : zeroDescState.skimCheck 0 = 0x280 := by decide

theorem zeroDescState_unmarked : (zeroDescState.tile 0).now.fault = false := rfl

end Sys2Proof.Machine
end

section
open Sys2Proof Sys2Proof.Machine

/-- Refutes O30: of a job that fails its checks the statement says that its tile changes in its registers alone. The
fault record also marks the mesh cycle as one in which a fault arose, the note by which R110 withholds a clear of the
record in that cycle, and the note is a field of the tile. The counterexample is a descriptor of eight zero words in a
cycle that had no fault before; every other such rejection in a cycle without an earlier fault would do as well. -/
theorem not_skimJobsRun : ¬ Obligations.SkimJobsRun := by
  rintro ⟨hgo, -⟩
  have hcode : zeroDescState.skimCheck 0 ≠ 0 := by rw [zeroDescState_code]; decide
  obtain ⟨-, hidle⟩ := hgo zeroDescState 0 0 1 _ rfl zeroDescState_hostUp zeroDescState_owns (by decide)
  obtain ⟨-, hreject⟩ := hidle zeroDescState_idle zeroDescState_readable
  obtain ⟨u, hu, -, -, -, htile⟩ := hreject hcode (by decide)
  have hmark := exec_skimGo_rejected_marks zeroDescState_hostUp zeroDescState_owns (by decide) zeroDescState_idle
    zeroDescState_readable hcode hu
  have hunmarked : (u.tile 0).now.fault = false := by rw [htile]; exact zeroDescState_unmarked
  rw [hunmarked] at hmark
  cases hmark
end

section
namespace Sys2Proof.Machine

/-! ### The status register of a port (Table 9.8) -/

theorem Port.isUp_iff (x : Port) : x.isUp = true ↔ x.st = 2 ∨ x.st = 3 := by
  simp [Port.isUp, Port.st]

/-- The guard of an event of a running link lets it act. -/
theorem runs_guard {s : State} {p : Nat} (hp : p < 12) (hup : (s.port p).isUp = true) :
    ¬(decide (portCount ≤ p) || !(s.port p).isUp) = true := by
  simp [portCount, hup, Nat.not_le.mpr hp]

/-- A field of a port is read from its registers alone. -/
theorem Port.f_congr {x y : Port} (h : x.regs = y.regs) (o hi lo : Nat) : x.f o hi lo = y.f o hi lo := by
  rw [Port.f, Port.reg, h, ← Port.reg, ← Port.f]

theorem Port.setReg_f_ne (x : Port) {o q : Nat} (w : Word) (hi lo : Nat) (h : q ≠ o) :
    (x.setReg o w).f q hi lo = x.f q hi lo := by
  rw [Port.f, Port.setReg_reg_ne _ _ h, Port.f]

theorem Port.count_f_ne (x : Port) {o q : Nat} (n hi lo : Nat) (h : q ≠ o) : (x.count o n).f q hi lo = x.f q hi lo :=
  Port.setReg_f_ne _ _ _ _ h

/-- A port with STATE and DOWN_CAUSE set; a change of STATE sets CHANGED. -/
def Port.toState (x : Port) (st cause : Nat) : Port :=
  if x.st = st then x.setF Reg.fabPortStatus 11 8 cause
  else ((x.setF Reg.fabPortStatus 2 0 st).setF Reg.fabPortStatus 11 8 cause).setF Reg.fabPortStatus 31 31 1

/-- So a port's STATE changes, apart from a trace record. -/
theorem portState_records (s : State) (p st cause : Nat) :
    (s.setPort p ((s.port p).toState st cause)).RecordsOnly (s.portState p st cause) := by
  unfold State.portState Port.toState Port.st
  split
  · exact .refl _
  · exact .trace _ _ _ _

/-- Two ports differ at most in their registers. -/
def Port.RegsOnly (x y : Port) : Prop := y = { x with regs := y.regs }

theorem Port.RegsOnly.setF {x y : Port} (h : x.RegsOnly y) (o hi lo v : Nat) : x.RegsOnly (y.setF o hi lo v) := by
  unfold Port.RegsOnly at h
  rw [h]
  exact rfl

theorem Port.RegsOnly.toState {x y : Port} (h : x.RegsOnly y) (st cause : Nat) : x.RegsOnly (y.toState st cause) := by
  unfold Port.toState
  split
  · exact h.setF ..
  · exact ((h.setF ..).setF ..).setF ..

theorem Port.toState_f_ne (x : Port) (st cause : Nat) {q : Nat} (hi lo : Nat) (h : q ≠ Reg.fabPortStatus) :
    (x.toState st cause).f q hi lo = x.f q hi lo := by
  unfold Port.toState
  split <;> simp only [Port.setF_f_ne _ _ _ _ _ _ h]

theorem Port.toState_st (x : Port) {st : Nat} (cause : Nat) (h : st < 8) : (x.toState st cause).st = st := by
  unfold Port.toState Port.st
  split
  · next hst => simpa (disch := decide) only [Port.setF_f_below] using hst
  · simpa (disch := decide) [Port.setF_f_below, Port.setF_f_same] using Nat.mod_eq_of_lt h

theorem Port.toState_cause (x : Port) (st : Nat) {cause : Nat} (h : cause < 16) : (x.toState st cause).cause = cause := by
  unfold Port.toState Port.cause
  split <;> simpa (disch := decide) [Port.setF_f_below, Port.setF_f_same] using Nat.mod_eq_of_lt h

theorem Port.toState_changed {x : Port} {st : Nat} (cause : Nat) (h : x.st ≠ st) :
    (x.toState st cause).f Reg.fabPortStatus 31 31 = 1 := by
  rw [Port.toState, if_neg h]
  exact Port.setF_f_same _ _ _ (by decide) (by decide)

theorem Port.toState_role (x : Port) (st cause : Nat) :
    (x.toState st cause).f Reg.fabPortStatus 4 3 = x.f Reg.fabPortStatus 4 3 := by
  unfold Port.toState
  split <;> simp (disch := decide) only [Port.setF_f_below, Port.setF_f_above]

theorem Port.toState_width (x : Port) (st cause : Nat) :
    (x.toState st cause).f Reg.fabPortStatus 7 5 = x.f Reg.fabPortStatus 7 5 := by
  unfold Port.toState
  split <;> simp (disch := decide) only [Port.setF_f_below, Port.setF_f_above]

end Sys2Proof.Machine
end

section
namespace Sys2Proof.Machine

/-! ### What a fall leaves alone (R239) -/

/-- Tiles, memory and the registers of every port are the same: flits that go another way, and aborts, change none. -/
structure State.LinksKept (s u : State) : Prop where
  tiles : u.tiles = s.tiles
  mem   : u.mem = s.mem
  regs  : ∀ q, (u.port q).regs = (s.port q).regs

namespace State.LinksKept
variable {s u v : State}

theorem refl (s : State) : s.LinksKept s := ⟨rfl, rfl, fun _ => rfl⟩

theorem trans (h : s.LinksKept u) (h' : u.LinksKept v) : s.LinksKept v :=
  ⟨h'.tiles.trans h.tiles, h'.mem.trans h.mem, fun q => (h'.regs q).trans (h.regs q)⟩

theorem records (h : s.LinksKept u) (hr : u.RecordsOnly v) : s.LinksKept v :=
  h.trans ⟨hr.tiles, hr.mem, fun q => congrArg Port.regs (hr.port q)⟩

theorem ite {c : Prop} [Decidable c] (hu : s.LinksKept u) (hv : s.LinksKept v) : s.LinksKept (if c then u else v) := by
  split
  exacts [hu, hv]

theorem foldl {α : Type} {f : State → α → State} {l : List α} (h : s.LinksKept u)
    (hf : ∀ {u : State} (a : α), s.LinksKept u → s.LinksKept (f u a)) : s.LinksKept (l.foldl f u) :=
  List.foldlRecOn (motive := s.LinksKept) l f h fun _ h a _ => hf a h

theorem setReg (h : s.LinksKept u) {o w} : s.LinksKept (u.setReg o w) := ⟨h.tiles, h.mem, h.regs⟩

theorem setF (h : s.LinksKept u) {o hi lo w} : s.LinksKept (u.setF o hi lo w) := h.setReg

theorem logOpen (h : s.LinksKept u) {code src part} : s.LinksKept (u.logOpen code src part) := h.records (.logOpen _ _ _ _)

theorem modPort (h : s.LinksKept u) {p : Nat} {f : Port → Port} (hf : ∀ x, (f x).regs = x.regs) :
    s.LinksKept (u.modPort p f) := by
  refine h.trans ⟨rfl, rfl, fun q => ?_⟩
  by_cases hq : q = p
  · subst hq
    rw [State.modPort_port_same, hf]
  · rw [State.modPort_port_ne _ _ hq]

theorem dropFlit (h : s.LinksKept u) : s.LinksKept u.dropFlit := h.setF.logOpen

theorem pushFlit (h : s.LinksKept u) {p f} : s.LinksKept (u.pushFlit p f) := h.modPort fun _ => rfl

theorem hop (h : s.LinksKept u) {f a neg keep} (hv : u.hop f a neg keep = some v) : s.LinksKept v := by
  obtain ⟨p, -, rfl⟩ := Option.map_eq_some_iff.mp hv
  exact h.pushFlit

theorem count64 (h : s.LinksKept u) {lo hi} : s.LinksKept (u.count64 lo hi) := h.setReg.setReg

theorem forward (h : s.LinksKept u) {f from_} : s.LinksKept (u.forward f from_) := by
  unfold State.forward
  refine .ite ?_ ?_
  · split
    · next hv => exact h.hop hv
    · exact h.dropFlit
  · split
    · exact h
    · split
      · next hv => exact h.hop hv
      · refine .ite h (.ite h.dropFlit ?_)
        split
        · exact h.dropFlit
        · dsimp only
          split
          · exact h.pushFlit.count64
          · exact h.dropFlit

theorem reroute (h : s.LinksKept u) {p f} : s.LinksKept (u.reroute p f) := .ite h <| .ite h.forward h.forward

theorem noteEngine (h : s.LinksKept u) : s.LinksKept u.noteEngine := h.setF.setF

theorem withdraw (h : s.LinksKept u) {n g} : s.LinksKept (u.withdraw n g) := .noteEngine ⟨h.tiles, h.mem, h.regs⟩

theorem setCtx (h : s.LinksKept u) {n g c} : s.LinksKept (u.setCtx n g c) := ⟨h.tiles, h.mem, h.regs⟩

theorem sendNb (h : s.LinksKept u) {nb m} : s.LinksKept (u.sendNb nb m) := by
  unfold State.sendNb
  split
  · exact h.modPort fun _ => rfl
  · exact h

theorem sendNotices (h : s.LinksKept u) {n g seq code origin but} :
    s.LinksKept (u.sendNotices n g seq code origin but) := h.foldl fun _ h => .ite h h.sendNb

theorem collAbort (h : s.LinksKept u) {n g code origin from_} : s.LinksKept (u.collAbort n g code origin from_) := by
  dsimp only [State.collAbort]
  split
  · exact h
  · exact .ite h <| .ite (.sendNotices (.ite h.setCtx h.withdraw.setCtx)) <| .ite h.setCtx h.withdraw.setCtx

theorem collLinkDown (h : s.LinksKept u) {p} : s.LinksKept (u.collLinkDown p) :=
  h.foldl fun _ h => h.foldl fun _ h => .ite h.collAbort h

theorem restrata (h : s.LinksKept u) : s.LinksKept u.restrata := by
  unfold State.restrata
  refine .ite h.setF.setF.setF ?_
  split
  exacts [h.setF.setF, h.setF.setF]

theorem irqRoot (h : s.LinksKept u) : s.LinksKept u.irqRoot := ⟨h.tiles, h.mem, h.regs⟩

end State.LinksKept

/-! ### Links go down (R238 to R241) -/

/-- The status of a port whose link has fallen: no role and no width (Table 9.6). -/
def Port.fallen (x : Port) (st cause : Nat) : Port :=
  ((x.toState st cause).setF Reg.fabPortStatus 4 3 0).setF Reg.fabPortStatus 7 5 0

theorem Port.fallen_st (x : Port) {st : Nat} (cause : Nat) (h : st < 8) : (x.fallen st cause).st = st := by
  unfold Port.fallen
  simpa (disch := decide) only [Port.st, Port.setF_f_below] using x.toState_st cause h

theorem Port.fallen_cause (x : Port) (st : Nat) {cause : Nat} (h : cause < 16) : (x.fallen st cause).cause = cause := by
  unfold Port.fallen
  simpa (disch := decide) only [Port.cause, Port.setF_f_above] using x.toState_cause st h

theorem Port.fallen_changed {x : Port} {st : Nat} (cause : Nat) (h : x.st ≠ st) :
    (x.fallen st cause).f Reg.fabPortStatus 31 31 = 1 := by
  unfold Port.fallen
  simpa (disch := decide) only [Port.setF_f_above] using Port.toState_changed cause h

theorem Port.fallen_role (x : Port) (st cause : Nat) : (x.fallen st cause).f Reg.fabPortStatus 4 3 = 0 := by
  unfold Port.fallen
  simp (disch := decide) [Port.setF_f_below, Port.setF_f_same]

theorem Port.fallen_width (x : Port) (st cause : Nat) : (x.fallen st cause).f Reg.fabPortStatus 7 5 = 0 := by
  unfold Port.fallen
  simp (disch := decide) [Port.setF_f_same]

/-- A port without what a fall discards: its requests, its queue and its replay buffer (Table 9.6 steps 1 to 3). -/
def Port.silenced (y : Port) : Port :=
  { ((y.setF Reg.fabPortStatus 4 3 0).setF Reg.fabPortStatus 7 5 0) with
    asking := false, backoff := none, pendRole := 0, replay := [], replays := 0, txq := [], uncorr := 0, hbHeld := none,
    hbSent := none, offs := [], lanes := 0 }.onWire { idleFlit with
      typ := 2, seq := y.txSeq, ack := y.rxSeq, dest := y.f Reg.fabPortPartner 17 0, body := .ctrl .downNotice }

theorem portFalls_eq (s : State) (p st cause : Nat) : s.portFalls p st cause =
    (((((s.port p).replay ++ (s.port p).txq).foldl (fun s f => s.reroute p f)
      ((s.portState p st cause).modPort p Port.silenced)).collLinkDown p).restrata.logOpen 0x0400 Src.fabric chipPart).irqRoot :=
  rfl

/-- Of tiles, memory and port registers a fall changes only the status of its port. -/
theorem portFalls_kept (s : State) (p st cause : Nat) :
    (s.setPort p ((s.port p).fallen st cause)).LinksKept (s.portFalls p st cause) := by
  have hstate : (s.setPort p ((s.port p).toState st cause)).LinksKept (s.portState p st cause) :=
    (State.LinksKept.refl _).records (portState_records s p st cause)
  have hfallen : (s.setPort p ((s.port p).fallen st cause)).LinksKept ((s.portState p st cause).modPort p Port.silenced) := by
    refine ⟨hstate.tiles, hstate.mem, fun q => ?_⟩
    by_cases hq : q = p
    · subst hq
      have hregs := hstate.regs q
      rw [State.setPort_port_same] at hregs
      rw [State.modPort_port_same, State.setPort_port_same]
      simp only [Port.silenced, Port.fallen, Port.onWire, Port.setF, Port.setReg, Port.reg, hregs]
    · have hregs := hstate.regs q
      rw [State.setPort_port_ne _ _ hq] at hregs
      rw [State.modPort_port_ne _ _ hq, State.setPort_port_ne _ _ hq, hregs]
  rw [portFalls_eq]
  exact .irqRoot (.logOpen (.restrata (.collLinkDown (.foldl hfallen fun _ h => h.reroute))))

/-- A link has fallen: its port is in a state with CHANGED set, and has no role and no width; one that is DOWN gives the
cause. -/
structure State.LinkFell (s u : State) (p st cause : Nat) : Prop where
  tiles   : u.tiles = s.tiles
  mem     : u.mem = s.mem
  st      : (u.port p).st = st
  cause   : (u.port p).st = 4 → (u.port p).cause = cause
  changed : (u.port p).f Reg.fabPortStatus 31 31 = 1
  role    : (u.port p).f Reg.fabPortStatus 4 3 = 0
  width   : (u.port p).f Reg.fabPortStatus 7 5 = 0

theorem portFalls_fell {s : State} {p st cause : Nat} (hst : st < 8) (hc : cause < 16) (hne : (s.port p).st ≠ st) :
    s.LinkFell (s.portFalls p st cause) p st cause := by
  have hkept := portFalls_kept s p st cause
  have hf : ∀ hi lo, ((s.portFalls p st cause).port p).f Reg.fabPortStatus hi lo =
      ((s.port p).fallen st cause).f Reg.fabPortStatus hi lo := fun hi lo =>
    Port.f_congr ((hkept.regs p).trans (by rw [State.setPort_port_same])) _ _ _
  exact
    { tiles := hkept.tiles
      mem := hkept.mem
      st := (hf 2 0).trans (Port.fallen_st _ _ hst)
      cause := fun _ => (hf 11 8).trans (Port.fallen_cause _ _ hc)
      changed := (hf 31 31).trans (Port.fallen_changed _ hne)
      role := (hf 4 3).trans (Port.fallen_role _ _ _)
      width := (hf 7 5).trans (Port.fallen_width _ _ _) }

/-- A port that is DOWN fails. -/
theorem State.LinkFell.fails {s u : State} {p cause : Nat} (h : s.LinkFell u p 4 cause) :
    s.LinkFell ((u.portState p 5 7).logOpen 0x0403 Src.fabric chipPart) p 5 cause := by
  have hfail := (portState_records u p 5 7).trans (.logOpen _ 0x0403 Src.fabric chipPart)
  have hport := hfail.port p
  rw [State.setPort_port_same] at hport
  have hst : ((u.port p).toState 5 7).st = 5 := Port.toState_st _ _ (by decide)
  refine ⟨?_, ?_, ?_, fun hdown => ?_, ?_, ?_, ?_⟩
  · rw [hfail.tiles, State.setPort_tiles, h.tiles]
  · rw [hfail.mem, State.setPort_mem, h.mem]
  · rw [hport, hst]
  · rw [hport, hst] at hdown
    cases hdown
  · rw [hport]
    exact Port.toState_changed _ (by rw [h.st]; decide)
  · rw [hport, Port.toState_role, h.role]
  · rw [hport, Port.toState_width, h.width]

/-- The times of a port's downs within 1 s, with one now (R240). -/
def State.downsNow (s : State) (p : Nat) : List Nat :=
  (s.time :: (s.port p).downs).filter (fun t => decide (s.time < t + 1000000000))

theorem downsNow_length (s : State) (p : Nat) : (s.downsNow p).length =
    ((s.port p).downs.filter (fun t => decide (s.time < t + 1000000000))).length + 1 := by
  rw [State.downsNow, List.filter_cons_of_pos (by simp), List.length_cons]

/-- A port whose down is counted, with the times of its latest downs. -/
def Port.downCounted (x : Port) (downs : List Nat) : Port := { (x.count Reg.fabPortDownCnt 1) with downs := downs }

theorem Port.downCounted_st (x : Port) (downs : List Nat) : (x.downCounted downs).st = x.st :=
  (Port.f_congr (y := x.count Reg.fabPortDownCnt 1) rfl _ _ _).trans (Port.count_f_ne x _ _ _ (by decide))

/-- A running port's down is counted. -/
def State.downCounted (s : State) (p : Nat) : State := s.modPort p (·.downCounted (s.downsNow p))

theorem downCounted_st (s : State) (p : Nat) : ((s.downCounted p).port p).st = (s.port p).st := by
  rw [State.downCounted, State.modPort_port_same, Port.downCounted_st]

/-- A link down is a fall to DOWN, and with the eighth within 1 s the port is FAILED. -/
theorem linkDown_eq {s : State} {p : Nat} (cause : Nat) (hp : p < 12) (hup : (s.port p).isUp = true) :
    s.linkDown p cause = if 8 ≤ (s.downsNow p).length
      then (((s.downCounted p).portFalls p 4 cause).portState p 5 7).logOpen 0x0403 Src.fabric chipPart
      else (s.downCounted p).portFalls p 4 cause := by
  unfold State.linkDown
  dsimp only
  rw [if_neg (runs_guard hp hup)]
  unfold State.downCounted Port.downCounted State.downsNow
  rfl

/-- FAILED is the state of a port with the seven downs before this one within 1 s, else DOWN (R240). -/
def State.downSt (s : State) (p : Nat) : Nat :=
  if 7 ≤ ((s.port p).downs.filter (fun t => decide (s.time < t + 1000000000))).length then 5 else 4

theorem downSt_eq (s : State) (p : Nat) : s.downSt p = if 8 ≤ (s.downsNow p).length then 5 else 4 := by
  rw [downsNow_length]
  exact if_congr Nat.succ_le_succ_iff.symm rfl rfl

theorem linkDown_fell {s : State} {p cause : Nat} (hp : p < 12) (hup : (s.port p).isUp = true) (hc : cause < 16) :
    s.LinkFell (s.linkDown p cause) p (s.downSt p) cause := by
  have hst : ((s.downCounted p).port p).st ≠ 4 := by
    have := (Port.isUp_iff _).mp hup
    rw [downCounted_st]
    omega
  have hfell := portFalls_fell (by decide) hc hst
  have hdown : s.LinkFell ((s.downCounted p).portFalls p 4 cause) p 4 cause := { hfell with }
  rw [linkDown_eq cause hp hup, downSt_eq]
  split
  · exact hdown.fails
  · exact hdown

/-! ### What marks a link down, or does not yet (R238, R241) -/

theorem codewordDecode_corrected {s : State} {p : Nat} (hp : p < 12) (hup : (s.port p).isUp = true) :
    s.codewordDecode p .corrected = s.modPort p (fun x => { (x.count Reg.fabPortFecCorr 1) with uncorr := 0 }) :=
  if_neg (runs_guard hp hup)

theorem codewordDecode_clean {s : State} {p : Nat} (hp : p < 12) (hup : (s.port p).isUp = true) :
    s.codewordDecode p .clean = s.modPort p (fun x => { x with uncorr := 0 }) :=
  if_neg (runs_guard hp hup)

/-- A port with one more uncorrectable codeword in a row. -/
def Port.codewordLost (x : Port) : Port := { (x.count Reg.fabPortFecUncorr 1) with uncorr := x.uncorr + 1 }

theorem codewordLost_isUp (x : Port) : x.codewordLost.isUp = x.isUp := by
  have hst : x.codewordLost.f Reg.fabPortStatus 2 0 = x.f Reg.fabPortStatus 2 0 :=
    (Port.f_congr rfl _ _ _).trans (Port.count_f_ne x _ _ _ (by decide))
  rw [Port.isUp, hst, Port.isUp]

theorem codewordDecode_uncorrectable {s : State} {p : Nat} (hp : p < 12) (hup : (s.port p).isUp = true) :
    s.codewordDecode p .uncorrectable = if 7 ≤ (s.port p).uncorr then (s.modPort p Port.codewordLost).linkDown p 3
      else s.modPort p Port.codewordLost := by
  have heighth : 8 ≤ ((s.modPort p Port.codewordLost).port p).uncorr ↔ 7 ≤ (s.port p).uncorr := by
    rw [State.modPort_port_same]
    exact Nat.succ_le_succ_iff
  rw [← if_congr heighth rfl rfl]
  exact if_neg (runs_guard hp hup)

/-- The eighth in a row marks the link down; the codeword itself changes nothing that a fall looks at. -/
theorem codewordDecode_fell {s : State} {p : Nat} (hp : p < 12) (hup : (s.port p).isUp = true)
    (hrow : 7 ≤ (s.port p).uncorr) : s.LinkFell (s.codewordDecode p .uncorrectable) p (s.downSt p) 3 := by
  have hport := State.modPort_port_same s p Port.codewordLost
  have hfell := linkDown_fell (s := s.modPort p Port.codewordLost) (cause := 3) hp
    (by rw [hport, codewordLost_isUp, hup]) (by decide)
  rw [codewordDecode_uncorrectable hp hup, if_pos hrow]
  have hsame : (s.modPort p Port.codewordLost).downSt p = s.downSt p := by
    rw [State.downSt, hport]
    rfl
  rw [hsame] at hfell
  exact { hfell with }

theorem replayTimeout_eq {s : State} {p : Nat} (hp : p < 12) (hup : (s.port p).isUp = true) (hout : (s.port p).replay ≠ []) :
    s.replayTimeout p = if 16 ≤ (s.port p).replays then s.linkDown p 4 else s.modPort p (fun x =>
      { (x.count Reg.fabPortReplay x.replay.length) with
        replays := x.replays + 1, wire := x.replay.getLast?.map (fun f => (f, f.crc)) }) :=
  if_neg (by simpa [hout] using runs_guard hp hup)

/-- What O33 says of a link that falls. -/
theorem State.LinkFell.of_exec {s u : State} {p cause : Nat} {c : Instr} (h : s.LinkFell u p (s.downSt p) cause)
    (hc : exec c s = .next u) :
    ∃ u, exec c s = .next u ∧ u.tiles = s.tiles ∧ u.mem = s.mem ∧
      (u.port p).st = (if 7 ≤ ((s.port p).downs.filter (fun t => decide (s.time < t + 1000000000))).length then 5 else 4) ∧
      ((u.port p).st = 4 → (u.port p).cause = cause) ∧ (u.port p).f Reg.fabPortStatus 31 31 = 1 ∧
      (u.port p).f Reg.fabPortStatus 4 3 = 0 ∧ (u.port p).f Reg.fabPortStatus 7 5 = 0 :=
  ⟨u, hc, h.tiles, h.mem, h.st, h.cause, h.changed, h.role, h.width⟩

end Sys2Proof.Machine
end

section
open Sys2Proof Sys2Proof.Machine

/-- Settles O33: every cause ends in the fall of Table 9.6, whose flits and aborts change no port's registers. -/
theorem linksGoDown : Obligations.LinksGoDown := by
  rintro s p x rfl hp hup
  refine ⟨?_, fun hsoon => ?_, ?_, ?_, fun hrow => ?_, fun hout hfew => ?_⟩
  · have hdown : ∀ cause, cause < 16 → s.LinkFell (s.linkDown p cause) p (s.downSt p) cause :=
      fun _ hc => linkDown_fell hp hup hc
    rintro c cause (hmem | ⟨rfl, rfl, hlate⟩ | ⟨rfl, rfl, hrow⟩ | ⟨rfl, rfl, hmany, hout⟩)
    · simp only [List.mem_cons, Prod.mk.injEq, List.not_mem_nil, or_false] at hmem
      obtain ⟨rfl, rfl⟩ | ⟨rfl, rfl⟩ := hmem
      · exact (hdown 2 (by decide)).of_exec rfl
      · exact (hdown 5 (by decide)).of_exec rfl
    · exact (hdown 1 (by decide)).of_exec (congrArg Host.Outcome.next (if_neg (Nat.not_lt.mpr hlate)))
    · exact (codewordDecode_fell hp hup hrow).of_exec rfl
    · exact (hdown 4 (by decide)).of_exec (congrArg Host.Outcome.next ((replayTimeout_eq hp hup hout).trans (if_pos hmany)))
  · exact congrArg Host.Outcome.next (if_pos hsoon)
  · exact congrArg Host.Outcome.next (codewordDecode_clean hp hup)
  · exact congrArg Host.Outcome.next (codewordDecode_corrected hp hup)
  · exact congrArg Host.Outcome.next ((codewordDecode_uncorrectable hp hup).trans (if_neg (Nat.not_le.mpr hrow)))
  · exact congrArg Host.Outcome.next ((replayTimeout_eq hp hup hout).trans (if_neg (Nat.not_le.mpr hfew)))
end

section
namespace Sys2Proof.Machine

/-! ### The lead role after training (R235, R236) -/

theorem when_port {s : State} {p : Nat} (hp : p < 12) (f : State → State) : s.when (decide (p < portCount)) f = f s :=
  if_pos (decide_eq_true hp)

theorem leadReq_idle {s : State} {p : Nat} (hp : p < 12) (hup : (s.port p).isUp = true) (h : (s.port p).asking = false) :
    s.leadReq p = s.modPort p (fun x => { (x.sendCtrl .leadAck) with pendRole := 2 }) :=
  (if_neg (runs_guard hp hup)).trans (if_pos (by rw [h]; rfl))

/-- Two requests have collided: the chip IDs settle which end keeps its own. -/
theorem leadReq_collides {s : State} {p : Nat} (hp : p < 12) (hup : (s.port p).isUp = true) (h : (s.port p).asking = true) :
    s.leadReq p = s.modPort p (fun x =>
      if decide ((s.port p).f Reg.fabPortPartner 17 0 < s.chipId) = true then (x.count Reg.fabPortLeadColl 1).sendCtrl .leadNak
      else { ((x.count Reg.fabPortLeadColl 1).sendCtrl .leadAck) with asking := false, pendRole := 2 }) :=
  (if_neg (runs_guard hp hup)).trans (if_neg (by rw [h]; decide))

theorem leadAck_asking {x : Port} (hup : x.isUp = true) (h : x.asking = true) :
    x.leadAck = { x with asking := false, pendRole := 1 } := if_pos (by rw [hup, h]; rfl)

/-- A backoff is 1 to 64 µs, drawn from the fabric's generator. -/
theorem backOff_draws (s : State) (p : Nat) : ∃ d, 1 ≤ d ∧ d ≤ 64 ∧ s.backOff p =
    { s with fabGen := xorshift s.fabGen }.setPort p { s.port p with asking := false, backoff := some d } :=
  ⟨1 + Config.backoffDraw (xorshift s.fabGen) % 64, by omega, by omega, rfl⟩

theorem leadNak_up {s : State} {p : Nat} (hp : p < 12) (hup : (s.port p).isUp = true) : s.leadNak p = s.backOff p :=
  if_neg (runs_guard hp hup)

theorem leadReqTimeout_asking {s : State} {p : Nat} (hp : p < 12) (h : (s.port p).asking = true) :
    s.leadReqTimeout p = s.backOff p := if_neg (by simp [portCount, Nat.not_le.mpr hp, h])

/-- The end of a backoff leaves the port to its wish for the role. -/
theorem leadBackoffExpiry_eq {s : State} {p d : Nat} (hp : p < 12) (hd : (s.port p).backoff = some d) :
    s.leadBackoffExpiry p = if (s.wantsLead p && !(s.port p).asking && (s.port p).pendRole == 0) = true
      then s.setPort p { (s.port p).sendCtrl .leadReq with asking := true, backoff := none }
      else s.setPort p { s.port p with backoff := none } := by
  have hwants : (s.setPort p { s.port p with backoff := none }).wantsLead p = s.wantsLead p := by
    rw [State.wantsLead, State.setPort_port_same]
    rfl
  have hexpiry : s.leadBackoffExpiry p = (s.setPort p { s.port p with backoff := none }).askLead p :=
    if_neg (by simp [portCount, Nat.not_le.mpr hp, hd])
  rw [hexpiry, State.askLead, hwants, State.modPort, State.setPort_port_same, State.setPort_setPort]
  simp only [Option.isNone_none, Bool.and_true, Port.sendCtrl]
  rfl

end Sys2Proof.Machine
end

section
open Sys2Proof Sys2Proof.Machine

/-- Settles O34: each message of the role's exchange acts on its own port, by what the port asks. -/
theorem leadRolesMove : Obligations.LeadRolesMove := by
  rintro s p x rfl hp hup
  refine ⟨fun hidle => ?_, fun hasking => ?_, fun hasking => ?_, ?_,
    fun d hd => ⟨fun hno => ?_, fun hwants hidle hrole => ?_⟩⟩
  · exact congrArg Host.Outcome.next (leadReq_idle hp hup hidle)
  · refine congrArg Host.Outcome.next ((leadReq_collides hp hup hasking).trans ?_)
    simp only [State.modPort, decide_eq_true_eq]
  · refine congrArg Host.Outcome.next ((when_port hp _).trans ?_)
    rw [State.modPort, leadAck_asking hup hasking]
  · obtain ⟨d, hlow, hhigh, hdraw⟩ := backOff_draws s p
    rintro c (rfl | ⟨rfl, hasking⟩)
    · exact ⟨d, hlow, hhigh, congrArg Host.Outcome.next ((leadNak_up hp hup).trans hdraw)⟩
    · exact ⟨d, hlow, hhigh, congrArg Host.Outcome.next ((leadReqTimeout_asking hp hasking).trans hdraw)⟩
  · exact congrArg Host.Outcome.next ((leadBackoffExpiry_eq hp hd).trans (if_neg (by simp [hno])))
  · exact congrArg Host.Outcome.next ((leadBackoffExpiry_eq hp hd).trans (if_pos (by simp [hwants, hidle, hrole])))
end


section
namespace Sys2Proof.Machine

/-! ### The chip ID (R236, R253) -/

/-- Ittan Root's write reaches FAB_CHIP_ID. -/
theorem chipReg_chipId {s : State} (v : Word) (hup : s.rootUp = true) : s.chipReg .root Reg.fabChipId v = s.chipIdWrite v := by
  have hplace : portPlace Reg.fabChipId = none := rfl
  obtain ⟨r, hrow⟩ : ∃ r, chipRow? Reg.fabChipId = some r := ⟨_, rfl⟩
  simp [State.chipReg, State.reach, State.agentUp, hup, State.asAgent, State.chipWrite, mayChip, hplace, hrow]

/-- A register that was written a field's value reads it there. -/
theorem fld_ofNat_fld (v : Word) : fld (BitVec.ofNat 32 (fld v 17 0)) 17 0 = fld v 17 0 := by
  have := fld_lt v 17 0
  simp only [fld, BitVec.toNat_ofNat, Nat.shiftRight_zero] at *
  omega

/-- A chip ID that is taken seeds the fabric's generator again. -/
theorem chipIdWrite_taken {s : State} {v : Word} (h : fld v 17 0 = s.chipId ∨ s.fabricQuiet = true) :
    s.chipIdWrite v = (s.setReg Reg.fabChipId (BitVec.ofNat 32 (fld v 17 0))).reseedFabric :=
  if_neg (by rcases h with h | h <;> simp [h])

theorem chipIdWrite_ignored {s : State} {v : Word} (hne : fld v 17 0 ≠ s.chipId) (h : s.fabricQuiet = false) :
    s.chipIdWrite v = s.fabIgnored Reg.fabChipId := if_pos (by simp [hne, h])

theorem chipId_setReg (s : State) (v : Word) :
    (s.setReg Reg.fabChipId (BitVec.ofNat 32 (fld v 17 0))).chipId = fld v 17 0 := by
  rw [State.chipId, State.f, State.setReg_reg_same, fld_ofNat_fld]

theorem reseedFabric_seeds (s : State) : s.reseedFabric.fabGen = s.reseedFabric.fabSeed := rfl

/-! ### Heartbeats (R235 to R237, R405) -/

/-- A flit that leaves carries the latest acknowledgement and returns credits of one VC. -/
theorem stamp_form (x : Port) (f : Flit) : ∃ owed v n,
    x.stamp f = ({ x with owed := owed }, { f with ack := x.rxSeq, cvc := v, ccnt := n }) := by
  unfold Port.stamp
  split
  · exact ⟨x.owed, 0, 0, rfl⟩
  · exact ⟨_, _, _, rfl⟩

/-- The role that a port takes with its next heartbeat: one that was granted, else the one it has. -/
def Port.roleNext (x : Port) : Nat := if x.pendRole = 1 then 1 else x.f Reg.fabPortStatus 4 3

theorem roleNext_lt (x : Port) : x.roleNext < 4 := by
  unfold Port.roleNext
  split
  · decide
  · exact fld_lt _ 4 3

/-- A port's next heartbeat. -/
def State.beat (s : State) (p : Nat) : Heartbeat :=
  ⟨(s.port p).hbSeq, s.stratum, (s.port p).roleNext == 1, s.time, ((s.port p).hbHeld.getD (0, 0)).2,
    ((s.port p).hbHeld.getD (0, 0)).1⟩

/-- A port that has sent a heartbeat. -/
def Port.beats (x : Port) (hb : Heartbeat) (now : Int) (role : Nat) : Port :=
  let r := x.stamp { idleFlit with typ := 1, seq := (x.txSeq + 4095) % 4096, body := .heartbeat hb }
  { ((r.1.setF Reg.fabPortStatus 4 3 role).onWire r.2) with
    pendRole := if x.pendRole = 1 then 0 else x.pendRole, hbSeq := (x.hbSeq + 1) % 65536, hbOut := some hb
    hbSent := x.hbHeld.map (fun h => (h.1, h.2, now)) }

theorem heartbeatSend_eq {s : State} {p : Nat} (hp : p < 12) (hup : (s.port p).isUp = true) :
    s.heartbeatSend p = (s.setPort p ((s.port p).beats (s.beat p) s.time (s.port p).roleNext)).restrata :=
  if_neg (runs_guard hp hup)

theorem beats_only (x : Port) (hb : Heartbeat) (now : Int) (role : Nat) : ∀ y, y = x.beats hb now role →
    y = { x with regs := y.regs, pendRole := y.pendRole, hbSeq := y.hbSeq, hbOut := y.hbOut, hbSent := y.hbSent,
                 wire := y.wire, owed := y.owed } := by
  rintro y rfl
  obtain ⟨owed, v, n, hstamp⟩ := stamp_form x
    { idleFlit with typ := 1, seq := (x.txSeq + 4095) % 4096, body := .heartbeat hb }
  unfold Port.beats
  rw [hstamp]
  rfl

/-- A heartbeat changes no register but the role. -/
theorem beats_regs (x : Port) (hb : Heartbeat) (now : Int) (role : Nat) :
    (x.beats hb now role).regs = (x.setF Reg.fabPortStatus 4 3 role).regs := by
  obtain ⟨owed, v, n, hstamp⟩ := stamp_form x
    { idleFlit with typ := 1, seq := (x.txSeq + 4095) % 4096, body := .heartbeat hb }
  unfold Port.beats
  rw [hstamp]
  rfl

theorem beats_role (x : Port) (hb : Heartbeat) (now : Int) {role : Nat} (h : role < 4) :
    (x.beats hb now role).f Reg.fabPortStatus 4 3 = role := by
  rw [Port.f_congr (beats_regs x hb now role), Port.setF_f_same _ _ _ (by decide) (by decide)]
  exact Nat.mod_eq_of_lt h

/-- Does a follower take its role with a heartbeat: the role was granted away, and the leader sends it? -/
def Port.follows (x : Port) (hb : Heartbeat) : Bool := x.pendRole == 2 && hb.leader

/-- A port that has taken a heartbeat. -/
def Port.hears (x : Port) (hb : Heartbeat) (time ticks : Nat) : Port :=
  let y := if x.follows hb then x.setF Reg.fabPortStatus 4 3 2 else x
  { (y.setF Reg.fabPortHb 15 0 hb.seq) with
    hbIn := some time, alive := ticks, hbHeld := some (hb.tTx, (time : Int)), pStratum := hb.stratum
    pendRole := if x.follows hb then 0 else y.pendRole }

/-- A heartbeat that completes no exchange steers no time. -/
theorem heartbeatReceive_eq {s : State} {p : Nat} (hb : Heartbeat) (hp : p < 12) (hup : (s.port p).isUp = true)
    (hsent : (s.port p).hbSent = none) :
    s.heartbeatReceive p hb = ((s.setPort p ((s.port p).hears hb s.time s.ticks)).restrata).askLead p := by
  unfold State.heartbeatReceive
  dsimp only
  rw [if_neg (runs_guard hp hup), hsent]
  rfl

theorem hears_only (x : Port) (hb : Heartbeat) (time ticks : Nat) : ∀ y, y = x.hears hb time ticks →
    y = { x with regs := y.regs, hbIn := y.hbIn, alive := ticks, hbHeld := y.hbHeld, pStratum := y.pStratum,
                 pendRole := y.pendRole } := by
  rintro y rfl
  unfold Port.hears
  split <;> rfl

theorem hears_seq (x : Port) (hb : Heartbeat) (time ticks : Nat) :
    (x.hears hb time ticks).f Reg.fabPortHb 15 0 = hb.seq % 2 ^ 16 :=
  (Port.f_congr (x := x.hears hb time ticks) rfl _ _ _).trans (Port.setF_f_same _ _ _ (by decide) (by decide))

theorem hears_role (x : Port) (hb : Heartbeat) (time ticks : Nat) : (x.hears hb time ticks).f Reg.fabPortStatus 4 3 =
    if x.pendRole = 2 ∧ hb.leader = true then 2 else x.f Reg.fabPortStatus 4 3 := by
  have hfollow : x.follows hb = true ↔ x.pendRole = 2 ∧ hb.leader = true := by simp [Port.follows]
  have hregs : (x.hears hb time ticks).f Reg.fabPortStatus 4 3 =
      (if x.follows hb = true then x.setF Reg.fabPortStatus 4 3 2 else x).f Reg.fabPortStatus 4 3 :=
    (Port.f_congr (x := x.hears hb time ticks) rfl _ _ _).trans (Port.setF_f_ne _ _ _ _ _ _ (by decide))
  rw [hregs, if_congr hfollow rfl rfl]
  split
  · exact Port.setF_f_same _ _ _ (by decide) (by decide)
  · rfl

end Sys2Proof.Machine
end

section
open Sys2Proof Sys2Proof.Machine

/-- Settles O35: the chip ID is taken or ignored, and a heartbeat leaves and arrives as Port.beats and Port.hears say. -/
theorem heartbeatsAndChipId : Obligations.HeartbeatsAndChipId := by
  refine ⟨fun s v hup => ⟨fun htaken => ?_, fun hne hbusy => ?_⟩, ?_, ?_⟩
  · refine ⟨_, congrArg Host.Outcome.next ((chipReg_chipId v hup).trans (chipIdWrite_taken htaken)), ?_, ?_, rfl⟩
    · exact chipId_setReg s v
    · exact reseedFabric_seeds _
  · exact congrArg Host.Outcome.next ((chipReg_chipId v hup).trans (chipIdWrite_ignored hne hbusy))
  · rintro s p role x rfl hp hup rfl
    have hrole := beats_role (s.port p) (s.beat p) s.time (roleNext_lt (s.port p))
    refine ⟨_, s.beat p, congrArg Host.Outcome.next (heartbeatSend_eq hp hup), rfl, rfl, rfl, ?_, rfl, hrole,
      fun h => if_pos h, beats_only _ _ _ _ _ rfl⟩
    exact beq_iff_eq
  · rintro s p hb x rfl hp hup hsent
    exact ⟨_, congrArg Host.Outcome.next (heartbeatReceive_eq hb hp hup hsent), rfl, rfl, hears_seq _ _ _ _,
      hears_role _ _ _ _, hears_only _ _ _ _ _ rfl⟩
end

section
namespace Sys2Proof.Machine

/-! ### Flits arrive (R228, R241, R244) -/

theorem port_guard {p : Nat} (hp : p < 12) : ¬portCount ≤ p := Nat.not_le.mpr hp

/-- A heartbeat in a flit whose CRC holds acts; of any other flit only the link's part does. -/
theorem flitReceive_heartbeat {s : State} {p : Nat} {f : Flit} {hb : Heartbeat} (hp : p < 12) (htyp : f.typ = 1)
    (hbody : f.body = .heartbeat hb) :
    s.flitReceive p f f.crc = (s.setPort p ((s.port p).receive f f.crc)).heartbeatReceive p hb := by
  unfold State.flitReceive
  rw [if_neg (port_guard hp), hbody]
  exact if_pos ⟨htyp, rfl⟩

theorem flitReceive_plain {s : State} {p : Nat} {f : Flit} {crc : Word} (hp : p < 12) (h : ¬(f.typ = 1 ∧ crc = f.crc)) :
    s.flitReceive p f crc = s.setPort p ((s.port p).receive f crc) := by
  unfold State.flitReceive
  rw [if_neg (port_guard hp)]
  dsimp only
  split
  · exact if_neg h
  · rfl

theorem receive_badCrc {x : Port} {f : Flit} {crc : Word} (hup : x.isUp = true) (h : crc ≠ f.crc) :
    x.receive f crc = x.count Reg.fabPortCrcErr 1 :=
  (if_neg (by simp [hup])).trans (if_pos h)

/-- A port whose flits an acknowledgement and credits have reached. -/
def Port.acked (x : Port) (f : Flit) : Port :=
  let left := x.replay.filter (fun g => !seqLe g.seq f.ack)
  ({ x with replays := if left.length < x.replay.length then 0 else x.replays, replay := left } : Port).refund f.cvc f.ccnt

theorem acked_facts (x : Port) (f : Flit) :
    (x.acked f).replay = x.replay.filter (fun g => !seqLe g.seq f.ack) ∧ (x.acked f).txq = x.txq ∧
      (x.acked f).txSeq = x.txSeq ∧ (x.acked f).rxSeq = x.rxSeq ∧ (x.acked f).rxq = x.rxq := by
  unfold Port.acked Port.refund
  dsimp only
  split <;> exact ⟨rfl, rfl, rfl, rfl, rfl⟩

/-- A port that takes a flit; data flits are counted. -/
def Port.takes (x : Port) (f : Flit) : Port :=
  let y := { x with rxSeq := f.seq, rxq := x.rxq ++ [f] }
  if f.typ = 0 then y.count64 Reg.fabPortRxFlitsLo Reg.fabPortRxFlitsHi else y

theorem takes_facts (x : Port) (f : Flit) : (x.takes f).replay = x.replay ∧ (x.takes f).txq = x.txq ∧
    (x.takes f).txSeq = x.txSeq ∧ (x.takes f).rxSeq = f.seq ∧ (x.takes f).rxq = x.rxq ++ [f] := by
  unfold Port.takes
  dsimp only
  split <;> exact ⟨rfl, rfl, rfl, rfl, rfl⟩

/-- A flit whose CRC holds acknowledges; a data or link-control flit in order is taken as well (R241). -/
theorem receive_eq {x : Port} (f : Flit) (hup : x.isUp = true) : x.receive f f.crc =
    if f.typ = 1 ∨ 3 ≤ f.typ then x.acked f
    else if f.seq ≠ ((x.acked f).rxSeq + 1) % 4096 then x.acked f else (x.acked f).takes f :=
  (if_neg (by simp [hup])).trans (if_neg (by simp))

theorem receive_inOrder {x : Port} {f : Flit} (hup : x.isUp = true) (htyp : f.typ = 0 ∨ f.typ = 2)
    (hseq : f.seq = (x.rxSeq + 1) % 4096) : x.receive f f.crc = (x.acked f).takes f := by
  obtain ⟨-, -, -, hrx, -⟩ := acked_facts x f
  rw [receive_eq f hup, if_neg (by omega), hrx, if_neg (not_not.mpr hseq)]

theorem receive_outOfOrder {x : Port} {f : Flit} (hup : x.isUp = true) (h : 3 ≤ f.typ ∨ f.seq ≠ (x.rxSeq + 1) % 4096) :
    x.receive f f.crc = x.acked f := by
  obtain ⟨-, -, -, hrx, -⟩ := acked_facts x f
  rw [receive_eq f hup, hrx]
  rcases h with htyp | hseq
  · exact if_pos (.inr htyp)
  · rw [if_pos hseq, ite_self]

/-- A flit that is no heartbeat acknowledges, and is taken exactly when it is in order. -/
theorem receive_facts {x : Port} {f : Flit} (hup : x.isUp = true) (htyp : f.typ ≠ 1) : ∀ y, y = x.receive f f.crc →
    y.replay = x.replay.filter (fun g => !seqLe g.seq f.ack) ∧ y.txq = x.txq ∧ y.txSeq = x.txSeq ∧
    (f.typ = 0 ∨ f.typ = 2 → f.seq = (x.rxSeq + 1) % 4096 → y.rxSeq = f.seq ∧ y.rxq = x.rxq ++ [f]) ∧
    (3 ≤ f.typ ∨ f.seq ≠ (x.rxSeq + 1) % 4096 → y.rxSeq = x.rxSeq ∧ y.rxq = x.rxq) := by
  rintro y rfl
  obtain ⟨hreplay, htxq, htx, hrx, hrxq⟩ := acked_facts x f
  obtain ⟨hreplay', htxq', htx', hrx', hrxq'⟩ := takes_facts (x.acked f) f
  by_cases hin : 3 ≤ f.typ ∨ f.seq ≠ (x.rxSeq + 1) % 4096
  · rw [receive_outOfOrder hup hin]
    exact ⟨hreplay, htxq, htx, fun _ hseq => by omega, fun _ => ⟨hrx, hrxq⟩⟩
  · rw [receive_inOrder hup (by omega) (by omega)]
    exact ⟨hreplay'.trans hreplay, htxq'.trans htxq, htx'.trans htx,
      fun _ _ => ⟨hrx', by rw [hrxq', hrxq]⟩, fun h => absurd h hin⟩

/-! ### Flits leave (R224, R242, R244) -/

/-- What the books of arbitration leave alone: the queues, the numbers, the credits and the link. -/
structure Port.BooksOnly (x y : Port) : Prop where
  txq    : y.txq = x.txq
  replay : y.replay = x.replay
  txSeq  : y.txSeq = x.txSeq
  used   : y.used = x.used
  rxq    : y.rxq = x.rxq
  rxSeq  : y.rxSeq = x.rxSeq

theorem Port.BooksOnly.refl (x : Port) : x.BooksOnly x := ⟨rfl, rfl, rfl, rfl, rfl, rfl⟩

theorem Port.BooksOnly.trans {x y z : Port} (h : x.BooksOnly y) (h' : y.BooksOnly z) : x.BooksOnly z :=
  ⟨h'.txq.trans h.txq, h'.replay.trans h.replay, h'.txSeq.trans h.txSeq, h'.used.trans h.used, h'.rxq.trans h.rxq,
    h'.rxSeq.trans h.rxSeq⟩

theorem Port.BooksOnly.ite {c : Prop} [Decidable c] {x y z : Port} (h : x.BooksOnly y) (h' : x.BooksOnly z) :
    x.BooksOnly (if c then y else z) := by
  split
  exacts [h, h']

theorem spend_books (x : Port) (a : Arb) (vc : Option Nat) : x.BooksOnly (x.spend a vc) := by
  unfold Port.spend
  extract_lets shared y z
  have hy : x.BooksOnly y := .ite ⟨rfl, rfl, rfl, rfl, rfl, rfl⟩ ⟨rfl, rfl, rfl, rfl, rfl, rfl⟩
  have hz : y.BooksOnly z := .ite ⟨rfl, rfl, rfl, rfl, rfl, rfl⟩ (.refl y)
  refine (hy.trans hz).trans ?_
  split
  · exact .refl z
  · exact ⟨rfl, rfl, rfl, rfl, rfl, rfl⟩
  · exact .ite (.refl z) (.ite ⟨rfl, rfl, rfl, rfl, rfl, rfl⟩ ⟨rfl, rfl, rfl, rfl, rfl, rfl⟩)

/-- Arbitration picks a virtual channel of which a flit may leave. -/
theorem pickVc_ready {x : Port} {a : Arb} {want v : Nat} (h : x.pickVc a want = some v) : x.ready v = true := by
  unfold Port.pickVc at h
  extract_lets coll ladle at h
  have hcoll : ∀ c, coll = some c → x.ready c = true := by
    intro c hc
    unfold coll at hc
    split at hc
    · next hw => exact Option.some.inj hc ▸ (Bool.and_eq_true_iff.mp hw).1
    · split at hc
      · next h2 => exact Option.some.inj hc ▸ h2
      · split at hc
        · next h1 => exact Option.some.inj hc ▸ h1
        · cases hc
  have hladle : ∀ c, ladle = some c → x.ready c = true := by
    intro c hc
    unfold ladle at hc
    split at hc
    · next h4 => exact Option.some.inj hc ▸ h4
    · split at hc
      · next h3 => exact Option.some.inj hc ▸ h3
      · cases hc
  clear_value coll ladle
  split at h
  · next h0 => exact Option.some.inj h ▸ (Bool.and_eq_true_iff.mp h0).1
  · split at h
    · next h1 => exact Option.some.inj h ▸ (Bool.and_eq_true_iff.mp h1).1
    · split at h
      · exact hladle v h
      · exact hcoll v h
      · split at h
        · exact hladle v h
        · split at h
          · exact hcoll v h
          · split at h
            · exact hladle v h
            · exact hcoll v h

/-- VC 0 goes first within its limit (R242). -/
theorem pickVc_control {x : Port} {a : Arb} (want : Nat) (hready : x.ready 0 = true)
    (hlimit : (x.ctl.filter (fun t => decide (a.now < t + 1000))).length < x.ctlLimit) : x.pickVc a want = some 0 :=
  if_pos (by rw [hready, decide_eq_true hlimit]; rfl)

/-- A port that sends flit i of its queue, of VC v and class c. -/
def Port.sends (x : Port) (a : Arb) (v : Nat) (c : Bool) (i : Nat) (f : Flit) : Port :=
  let r := x.stamp { f with seq := x.txSeq }
  let y := if f.typ = 0 then r.1.count64 Reg.fabPortTxFlitsLo Reg.fabPortTxFlitsHi else r.1
  ({ y with txq := listDrop1 x.txq i, replay := x.replay ++ [r.2], txSeq := (x.txSeq + 1) % 4096
            used := tabMod natD x.used (2 * v + b2n c) (· + 1) } : Port).spend a (some v) |>.onWire r.2

theorem transmit_sends {x : Port} {a : Arb} {want v i : Nat} {cl c : Bool} {f : Flit} (hup : x.isUp = true)
    (hpick : x.pickVc a want = some v) (hc : c = if x.maySend v cl then cl else !cl) (hwait : x.waiting v c = some i)
    (hf : x.txq[i]? = some f) : x.transmit a want cl = x.sends a v c i f := by
  subst hc
  unfold Port.transmit
  dsimp only
  rw [if_neg (by simp [hup]), hpick]
  dsimp only [Option.getD_some, Option.isSome_some]
  rw [hwait]
  dsimp only
  rw [hf]
  rfl

/-- The flit that leaves keeps its body and its destination, takes the next number and the latest acknowledgement, spends
a credit and waits for its own acknowledgement (R241, R244). -/
theorem sends_facts (x : Port) (a : Arb) (v : Nat) (c : Bool) (i : Nat) (f : Flit) : ∀ y, y = x.sends a v c i f → ∃ g,
    g.seq = x.txSeq ∧ g.ack = x.rxSeq ∧ g.body = f.body ∧ g.dest = f.dest ∧ y.replay = x.replay ++ [g] ∧
    y.wire = some (g, g.crc) ∧ y.txq = listDrop1 x.txq i ∧ y.txSeq = (x.txSeq + 1) % 4096 ∧
    y.spent v c = x.spent v c + 1 ∧ y.rxq = x.rxq ∧ y.rxSeq = x.rxSeq := by
  rintro y rfl
  obtain ⟨owed, w, n, hstamp⟩ := stamp_form x { f with seq := x.txSeq }
  unfold Port.sends
  rw [hstamp]
  extract_lets r z
  have hz : z.rxq = x.rxq ∧ z.rxSeq = x.rxSeq := by
    unfold z
    split <;> exact ⟨rfl, rfl⟩
  obtain ⟨hrxq, hrxSeq⟩ := hz
  have hbooks := spend_books ({ z with txq := listDrop1 x.txq i, replay := x.replay ++ [r.2], txSeq := (x.txSeq + 1) % 4096
                                       used := tabMod natD x.used (2 * v + b2n c) (· + 1) } : Port) a (some v)
  have hused : (Port.spend _ a (some v)).used = tabMod natD x.used (2 * v + b2n c) (· + 1) := hbooks.used
  refine ⟨r.2, rfl, rfl, rfl, rfl, hbooks.replay, rfl, hbooks.txq, hbooks.txSeq, ?_, hbooks.rxq.trans hrxq,
    hbooks.rxSeq.trans hrxSeq⟩
  exact (congrArg (fun m => tabGet natD m (2 * v + b2n c)) hused).trans (tabGet_mod_same _ _ _ _)

/-- With no flit that may leave, an idle flit carries the acknowledgement. -/
theorem transmit_idle {x : Port} {a : Arb} {want : Nat} (cl : Bool) (hup : x.isUp = true) (hpick : x.pickVc a want = none) :
    ∀ y, y = x.transmit a want cl → ∃ g, g.typ = 3 ∧ g.ack = x.rxSeq ∧ y.wire = some (g, g.crc) ∧
      y.replay = x.replay ∧ y.txq = x.txq ∧ y.txSeq = x.txSeq := by
  rintro y rfl
  obtain ⟨owed, w, n, hstamp⟩ := stamp_form x { idleFlit with seq := (x.txSeq + 4095) % 4096 }
  have hidle : x.transmit a want cl =
      (({ x with owed := owed } : Port).spend a none).onWire
        { idleFlit with seq := (x.txSeq + 4095) % 4096, ack := x.rxSeq, cvc := w, ccnt := n } := by
    unfold Port.transmit
    dsimp only
    rw [if_neg (by simp [hup]), hpick, hstamp]
    rfl
  have hbooks := spend_books ({ x with owed := owed } : Port) a none
  rw [hidle]
  exact ⟨_, rfl, rfl, rfl, hbooks.replay, hbooks.txq, hbooks.txSeq⟩

/-! ### Flits are routed (R243, R248, R249) -/

/-- A port whose oldest flit is taken from its queue, the credit owed to the sender. -/
def Port.frees (x : Port) (f : Flit) (l : List Flit) : Port :=
  { x with rxq := l, owed := tabMod natD x.owed f.vc (· + 1) }

theorem flitRoute_oldest {s : State} {p : Nat} {f : Flit} {l : List Flit} (hp : p < 12) (h : (s.port p).rxq = f :: l) :
    s.flitRoute p =
      if f.typ = 2 then (match f.body with
        | .ctrl m => (s.setPort p ((s.port p).frees f l)).deliverCtrl p m
        | _ => s.setPort p ((s.port p).frees f l))
      else if (decide (f.dest = s.chipId) && !f.detour) = true then (s.setPort p ((s.port p).frees f l)).deliver f
      else (s.setPort p ((s.port p).frees f l)).forward f (some (p / 4)) := by
  unfold State.flitRoute
  rw [if_neg (port_guard hp), h]
  rfl

theorem flitRoute_ctrl {s : State} {p : Nat} {f : Flit} {l : List Flit} {m : CtrlMsg} (hp : p < 12)
    (h : (s.port p).rxq = f :: l) (htyp : f.typ = 2) (hbody : f.body = .ctrl m) :
    s.flitRoute p = (s.setPort p ((s.port p).frees f l)).deliverCtrl p m := by
  rw [flitRoute_oldest hp h, if_pos htyp, hbody]

theorem flitRoute_here {s : State} {p : Nat} {f : Flit} {l : List Flit} {ps : List Packet} (hp : p < 12)
    (h : (s.port p).rxq = f :: l) (htyp : f.typ ≠ 2) (hdest : f.dest = s.chipId) (hdetour : f.detour = false)
    (hbody : f.body = .packets ps) : s.flitRoute p = (s.setPort p ((s.port p).frees f l)).arrive ps := by
  rw [flitRoute_oldest hp h, if_neg htyp, if_pos (by simp [hdest, hdetour]), State.deliver, hbody]

theorem flitRoute_onward {s : State} {p : Nat} {f : Flit} {l : List Flit} (hp : p < 12)
    (h : (s.port p).rxq = f :: l) (htyp : f.typ ≠ 2) (hdest : f.dest ≠ s.chipId) :
    s.flitRoute p = (s.setPort p ((s.port p).frees f l)).forward f (some (p / 4)) := by
  rw [flitRoute_oldest hp h, if_neg htyp, if_neg (by simp [hdest])]

end Sys2Proof.Machine
end

section
open Sys2Proof Sys2Proof.Machine

/-- Settles O36: a flit is checked and taken, sent, or routed, each by what the port's own functions say of it. -/
theorem flitsMove : Obligations.FlitsMove := by
  rintro s p x rfl hp hup
  refine ⟨fun f crc hcrc => ?_, fun f hb htyp hbody => ?_, fun f htyp => ?_, fun want cl v c i f hpick hc hwait hf => ?_,
    fun want cl hpick => ?_, fun _ _ => pickVc_ready, fun want hready hlimit => pickVc_control want hready hlimit,
    fun f l m h htyp hbody => ?_, fun f l ps h htyp hdest hdetour hbody => ?_, fun f l h htyp hdest => ?_⟩
  · refine congrArg Host.Outcome.next ((flitReceive_plain hp fun h => hcrc h.2).trans ?_)
    rw [receive_badCrc hup hcrc]
  · exact congrArg Host.Outcome.next (flitReceive_heartbeat hp htyp hbody)
  · exact ⟨_, congrArg Host.Outcome.next (flitReceive_plain hp fun h => htyp h.1), receive_facts hup htyp _ rfl⟩
  · obtain ⟨g, hg⟩ := sends_facts (s.port p) (s.arb p) v c i f _ rfl
    refine ⟨_, g, congrArg Host.Outcome.next ((when_port hp _).trans ?_), hg⟩
    rw [State.modPort, transmit_sends hup hpick hc hwait hf]
  · obtain ⟨g, hg⟩ := transmit_idle cl hup hpick _ rfl
    exact ⟨_, g, congrArg Host.Outcome.next (when_port hp _), hg⟩
  · exact congrArg Host.Outcome.next (flitRoute_ctrl hp h htyp hbody)
  · exact congrArg Host.Outcome.next (flitRoute_here hp h htyp hdest hdetour hbody)
  · exact congrArg Host.Outcome.next (flitRoute_onward hp h htyp hdest)
end

section
namespace Sys2Proof.Machine

/-! ### Training (R233, R240, R253) -/

theorem reach_root {s : State} (h : s.rootUp = true) (f : State → State) : s.reach .root (mayChip .root) f = f s := by
  simp [State.reach, State.agentUp, h, mayChip, State.asAgent]

/-- A port without its last link. -/
def Port.unlinked (x : Port) : Port :=
  ((x.fresh.setF Reg.fabPortStatus 7 5 0).setF Reg.fabPortStatus 4 3 0).setF Reg.fabPortPartner 31 31 0

/-- A port at step 1 of Table 9.5: without its last link, with what it wants of this one. -/
def Port.trains (x : Port) : Port := x.unlinked.latchWants

/-- A training starts on its port alone, apart from a trace record. -/
theorem startTraining_records (s : State) (p : Nat) :
    (s.setPort p ((s.port p).toState 1 (s.port p).cause).trains).RecordsOnly (s.startTraining p) := by
  have h := (portState_records s p 1 (s.port p).cause).modPort p Port.trains
  rwa [State.modPort, State.setPort_port_same, State.setPort_setPort] at h

theorem latchWants_want (x : Port) : x.latchWants.want = x.f Reg.fabPortCtl 2 1 := rfl

theorem latchWants_f (x : Port) (o hi lo : Nat) : x.latchWants.f o hi lo = x.f o hi lo := rfl

theorem fresh_f (x : Port) (o hi lo : Nat) : x.fresh.f o hi lo = x.f o hi lo := rfl

theorem unlinked_ctl (x : Port) (hi lo : Nat) : x.unlinked.f Reg.fabPortCtl hi lo = x.f Reg.fabPortCtl hi lo := by
  unfold Port.unlinked
  simp (disch := decide) only [Port.setF_f_ne, fresh_f]

theorem trains_ctl (x : Port) (hi lo : Nat) : x.trains.f Reg.fabPortCtl hi lo = x.f Reg.fabPortCtl hi lo := by
  rw [Port.trains, latchWants_f, unlinked_ctl]

theorem trains_st (x : Port) : x.trains.st = x.st := by
  rw [Port.st, Port.trains, latchWants_f, Port.unlinked, Port.setF_f_ne _ _ _ _ _ _ (by decide)]
  simp (disch := decide) only [Port.setF_f_below, fresh_f, Port.st]

theorem trains_role (x : Port) : x.trains.f Reg.fabPortStatus 4 3 = 0 := by
  rw [Port.trains, latchWants_f, Port.unlinked, Port.setF_f_ne _ _ _ _ _ _ (by decide)]
  exact Port.setF_f_same _ _ _ (by decide) (by decide)

theorem trains_width (x : Port) : x.trains.f Reg.fabPortStatus 7 5 = 0 := by
  rw [Port.trains, latchWants_f, Port.unlinked, Port.setF_f_ne _ _ _ _ _ _ (by decide),
    Port.setF_f_above _ _ _ (by decide) (by decide) (by decide)]
  exact Port.setF_f_same _ _ _ (by decide) (by decide)

theorem trains_partner (x : Port) : x.trains.f Reg.fabPortPartner 31 31 = 0 := by
  rw [Port.trains, latchWants_f]
  exact Port.setF_f_same _ _ _ (by decide) (by decide)

/-- DEGRADE_OK is the lower of the two wishes that a training takes. -/
theorem trains_degradeOk (x : Port) : x.trains.degradeOk = (x.f Reg.fabPortCtl 1 1 == 1) := by
  have hwant : x.trains.want = x.f Reg.fabPortCtl 2 1 := by
    rw [Port.trains, latchWants_want, unlinked_ctl]
  have hlow : x.f Reg.fabPortCtl 2 1 % 2 = x.f Reg.fabPortCtl 1 1 := by
    simp only [Port.f, fld, Nat.shiftRight_eq_div_pow]
    omega
  rw [Port.degradeOk, hwant, hlow]

theorem latchWants_downs (x : Port) : x.latchWants.downs = x.downs := rfl

theorem fresh_downs (x : Port) : x.fresh.downs = x.downs := rfl

theorem trains_downs (x : Port) : x.trains.downs = x.downs := by
  rw [Port.trains, latchWants_downs, Port.unlinked, Port.setF_downs, Port.setF_downs, Port.setF_downs, fresh_downs]

/-- What PORT_ENABLE and LINK_RETRAIN leave of a port: it trains, with nothing of an earlier link. -/
structure Port.Training (x y : Port) : Prop where
  st        : y.st = 1
  en        : y.en = x.en
  role      : y.f Reg.fabPortStatus 4 3 = 0
  width     : y.f Reg.fabPortStatus 7 5 = 0
  partner   : y.f Reg.fabPortPartner 31 31 = 0
  queues    : y.txq = [] ∧ y.rxq = [] ∧ y.replay = [] ∧ y.used = [] ∧ y.owed = []
  seen      : y.seen = false
  txSeq     : y.txSeq = 0
  downs     : y.downs = x.downs
  degradeOk : y.degradeOk = (x.f Reg.fabPortCtl 1 1 == 1)

theorem Port.RegsOnly.refl (x : Port) : x.RegsOnly x := rfl

theorem Port.RegsOnly.downs {x y : Port} (h : x.RegsOnly y) : y.downs = x.downs := by
  unfold Port.RegsOnly at h
  rw [h]

theorem Port.RegsOnly.pendRole {x y : Port} (h : x.RegsOnly y) : y.pendRole = x.pendRole := by
  unfold Port.RegsOnly at h
  rw [h]

theorem trains_training (x : Port) (cause : Nat) : x.Training (x.toState 1 cause).trains where
  st := (trains_st _).trans (Port.toState_st _ _ (by decide))
  en := by rw [Port.en, trains_ctl, Port.toState_f_ne _ _ _ _ _ (by decide), Port.en]
  role := trains_role _
  width := trains_width _
  partner := trains_partner _
  queues := ⟨rfl, rfl, rfl, rfl, rfl⟩
  seen := rfl
  txSeq := rfl
  downs := (trains_downs _).trans ((Port.RegsOnly.refl x).toState 1 cause).downs
  degradeOk := by rw [trains_degradeOk, Port.toState_f_ne _ _ _ _ _ (by decide)]

/-- EN is set; a DISABLED port whose EN was 0 starts its training once VFAB is up. -/
theorem portEnable_disabled {s : State} {p : Nat} (hp : p < 12) (hst : (s.port p).st = 0) (hen : (s.port p).en = false)
    (hup : s.fabricUp = true) : s.portEnable p = (s.modPort p (fun x => x.setF Reg.fabPortCtl 0 0 1)).startTraining p := by
  have hst' : ((s.modPort p (fun x => x.setF Reg.fabPortCtl 0 0 1)).port p).st = 0 := by
    rw [State.modPort_port_same, Port.st, Port.setF_f_ne _ _ _ _ _ _ (by decide), ← Port.st, hst]
  have hup' : (s.modPort p (fun x => x.setF Reg.fabPortCtl 0 0 1)).fabricUp = true := hup
  unfold State.portEnable
  dsimp only
  rw [if_neg (port_guard hp), hup', hst', hen]
  rfl

theorem portEnable_unpowered {s : State} {p : Nat} (hp : p < 12) (hup : s.fabricUp = false) :
    s.portEnable p = s.modPort p (fun x => x.setF Reg.fabPortCtl 0 0 1) := by
  have hup' : (s.modPort p (fun x => x.setF Reg.fabPortCtl 0 0 1)).fabricUp = false := hup
  unfold State.portEnable
  dsimp only
  rw [if_neg (port_guard hp), hup']
  rfl

theorem linkRetrain_down {s : State} {p : Nat} (hp : p < 12) (hst : (s.port p).st = 4) (hen : (s.port p).en = true)
    (hup : s.fabricUp = true) : s.linkRetrain p = s.startTraining p :=
  if_neg (by simp [portCount, Nat.not_le.mpr hp, hst, hen, hup])

theorem trainTimeout_seen {s : State} {p : Nat} (hp : p < 12) (hst : (s.port p).st = 1) (hseen : (s.port p).seen = true)
    (hretry : (s.port p).retry = false) : s.trainTimeout p =
      (s.modPort p (fun x => { x with seen := false, retry := true })).logOpen 0x0402 Src.fabric chipPart :=
  if_neg (by simp [portCount, Nat.not_le.mpr hp, hst, hseen, hretry])

/-- A FAILED port whose EN is cleared stays FAILED. -/
theorem portDisable_failed {s : State} {p : Nat} (hp : p < 12) (hst : (s.port p).st = 5) :
    s.portDisable p = s.modPort p (fun x => x.setF Reg.fabPortCtl 0 0 0) := by
  unfold State.portDisable
  rw [if_neg (port_guard hp), hst]
  rfl

theorem portDisable_down {s : State} {p : Nat} (hp : p < 12) (hst : (s.port p).st = 4) : s.portDisable p =
    (s.modPort p (fun x => x.setF Reg.fabPortCtl 0 0 0)).portState p 0
      ((s.modPort p (fun x => x.setF Reg.fabPortCtl 0 0 0)).port p).cause := by
  unfold State.portDisable
  rw [if_neg (port_guard hp), hst]
  rfl

theorem cause_lt (x : Port) : x.cause < 16 := fld_lt _ 11 8

/-- A DOWN port that is disabled keeps its cause, and differs in its registers alone. -/
theorem portDisable_keeps {s : State} {p : Nat} (hp : p < 12) (hst : (s.port p).st = 4) : ∃ y,
    (s.setPort p y).RecordsOnly (s.portDisable p) ∧ y.st = 0 ∧ y.en = false ∧ y.cause = (s.port p).cause ∧
      y.f Reg.fabPortStatus 31 31 = 1 ∧ (s.port p).RegsOnly y := by
  have hf : ∀ hi lo, ((s.port p).setF Reg.fabPortCtl 0 0 0).f Reg.fabPortStatus hi lo = (s.port p).f Reg.fabPortStatus hi lo :=
    fun hi lo => Port.setF_f_ne _ _ _ _ _ _ (by decide)
  have hrec := portState_records (s.modPort p (fun x => x.setF Reg.fabPortCtl 0 0 0)) p 0
    ((s.modPort p (fun x => x.setF Reg.fabPortCtl 0 0 0)).port p).cause
  rw [← portDisable_down hp hst, State.modPort_port_same, State.modPort, State.setPort_setPort] at hrec
  refine ⟨_, hrec, Port.toState_st _ _ (by decide), ?_, ?_, Port.toState_changed _ ?_,
    ((Port.RegsOnly.refl _).setF ..).toState ..⟩
  · rw [Port.en, Port.toState_f_ne _ _ _ _ _ (by decide), Port.setF_f_same _ _ _ (by decide) (by decide)]
    rfl
  · rw [Port.toState_cause _ _ (cause_lt _)]
    exact hf 11 8
  · rw [Port.st, hf, ← Port.st, hst]
    decide

end Sys2Proof.Machine
end

section
open Sys2Proof Sys2Proof.Machine

/-- Settles O31: each event of a training acts on its own port; a new training is Port.trains. -/
theorem portsTrain : Obligations.PortsTrain := by
  rintro s p x rfl hp
  refine ⟨fun hup => ?_, fun hno hroot => ?_, fun hst => ?_, fun hst hseen hretry => ?_, fun hst hretry => ?_,
    fun hroot hst => ?_, fun hroot hst => ?_⟩
  · rintro c (⟨rfl, hroot, hst, hen⟩ | ⟨rfl, hst, hen⟩)
    · have hrec := startTraining_records (s.modPort p (fun x => x.setF Reg.fabPortCtl 0 0 1)) p
      rw [← portEnable_disabled hp hst hen hup, State.modPort_port_same, State.modPort, State.setPort_setPort] at hrec
      have ht := trains_training ((s.port p).setF Reg.fabPortCtl 0 0 1) ((s.port p).setF Reg.fabPortCtl 0 0 1).cause
      obtain ⟨htxq, hrxq, hreplay, hused, howed⟩ := ht.queues
      refine ⟨_, _, congrArg Host.Outcome.next (reach_root hroot _), hrec, ht.st, ht.en.trans ?_, ht.role, ht.width,
        ht.partner, htxq, hrxq, hreplay, hused, howed, ht.seen, ht.txSeq, ht.downs, ht.degradeOk.trans ?_⟩
      · rw [Port.en, Port.setF_f_same _ _ _ (by decide) (by decide)]
        rfl
      · rw [Port.setF_f_above _ _ _ (by decide) (by decide) (by decide)]
    · have hrec := startTraining_records s p
      rw [← linkRetrain_down hp hst hen hup] at hrec
      have ht := trains_training (s.port p) (s.port p).cause
      obtain ⟨htxq, hrxq, hreplay, hused, howed⟩ := ht.queues
      exact ⟨_, _, rfl, hrec, ht.st, ht.en.trans hen, ht.role, ht.width, ht.partner, htxq, hrxq, hreplay, hused, howed,
        ht.seen, ht.txSeq, ht.downs, ht.degradeOk⟩
  · exact congrArg Host.Outcome.next ((reach_root hroot _).trans (portEnable_unpowered hp hno))
  · refine congrArg Host.Outcome.next ((when_port hp _).trans ?_)
    rw [State.modPort, Port.signalDetect, if_pos hst]
  · refine ⟨_, congrArg Host.Outcome.next (trainTimeout_seen hp hst hseen hretry), ?_⟩
    exact .logOpen _ _ _ _
  · refine congrArg Host.Outcome.next ((when_port hp _).trans ?_)
    rw [State.modPort, Port.trainRetry, if_pos (by rw [hst, hretry]; rfl)]
  · exact congrArg Host.Outcome.next ((reach_root hroot _).trans (portDisable_failed hp hst))
  · obtain ⟨y, hrec, hst', hen, hcause, hchanged, honly⟩ := portDisable_keeps hp hst
    exact ⟨_, y, congrArg Host.Outcome.next (reach_root hroot _), hrec, hst', hen, hcause, hchanged, honly⟩
end

section
namespace Sys2Proof.Machine

/-! ### The lanes of a link (R233) -/

theorem width_allLanes {x : Port} {lanes : Nat} (h : lanes % 16 = 15) : x.width lanes = 4 := by
  rw [Port.width, Port.useLanes, if_pos h]
  rfl

theorem width_onePair {x : Port} {lanes : Nat} (h : lanes % 16 ≠ 15) (hok : x.degradeOk = true)
    (hpair : lanes % 4 = 3 ∨ lanes / 4 % 4 = 3) : x.width lanes = 2 := by
  rw [Port.width, Port.useLanes, if_neg h, if_neg (by rw [hok]; decide)]
  by_cases hlow : lanes % 4 = 3
  · rw [if_pos hlow]
    rfl
  · rw [if_neg hlow, if_pos (hpair.resolve_left hlow)]
    rfl

theorem width_tooFew {x : Port} {lanes : Nat} (h : lanes % 16 ≠ 15)
    (hfew : x.degradeOk = false ∨ (lanes % 4 ≠ 3 ∧ lanes / 4 % 4 ≠ 3)) : x.width lanes = 0 := by
  rw [Port.width, Port.useLanes, if_neg h]
  rcases hfew with hno | ⟨hlow, hhigh⟩
  · rw [if_pos (by rw [hno]; rfl)]
    rfl
  · rw [if_neg hlow, if_neg hhigh, ite_self]
    rfl

theorem width_cases (x : Port) (lanes : Nat) : x.width lanes = 0 ∨ x.width lanes = 2 ∨ x.width lanes = 4 := by
  by_cases hall : lanes % 16 = 15
  · exact .inr (.inr (width_allLanes hall))
  · by_cases hpair : x.degradeOk = true ∧ (lanes % 4 = 3 ∨ lanes / 4 % 4 = 3)
    · exact .inr (.inl (width_onePair hall hpair.1 hpair.2))
    · refine .inl (width_tooFew hall ?_)
      cases hok : x.degradeOk
      · exact .inl rfl
      · exact .inr (not_or.mp fun h => hpair ⟨hok, h⟩)

theorem running_width {x : Port} {lanes : Nat} : x.width lanes < 8 ∧
    ((if x.width lanes = 4 then 2 else 3) = 2 ∨ (if x.width lanes = 4 then 2 else 3) = 3) := by
  have := width_cases x lanes
  refine ⟨by omega, ?_⟩
  split
  · exact .inl rfl
  · exact .inr rfl

/-! ### Links come up (R233, R234, R235) -/

/-- Tiles, memory and the other ports are the same. -/
structure State.PortOnly (s u : State) (p : Nat) : Prop where
  tiles : u.tiles = s.tiles
  mem   : u.mem = s.mem
  ports : ∀ q, q ≠ p → u.port q = s.port q

namespace State.PortOnly
variable {s u v : State} {p : Nat}

theorem refl (s : State) (p : Nat) : s.PortOnly s p := ⟨rfl, rfl, fun _ _ => rfl⟩

theorem trans (h : s.PortOnly u p) (h' : u.PortOnly v p) : s.PortOnly v p :=
  ⟨h'.tiles.trans h.tiles, h'.mem.trans h.mem, fun q hq => (h'.ports q hq).trans (h.ports q hq)⟩

theorem setPort (h : s.PortOnly u p) {x} : s.PortOnly (u.setPort p x) p :=
  ⟨h.tiles, h.mem, fun q hq => (State.setPort_port_ne _ _ hq).trans (h.ports q hq)⟩

theorem records (h : s.PortOnly u p) (hr : u.RecordsOnly v) : s.PortOnly v p :=
  ⟨hr.tiles.trans h.tiles, hr.mem.trans h.mem, fun q hq => (hr.port q).trans (h.ports q hq)⟩

theorem backOff (h : s.PortOnly u p) : s.PortOnly (u.backOff p) p :=
  setPort (u := u.drawBackoff.1) ⟨h.tiles, h.mem, h.ports⟩

theorem ite {c : Prop} [Decidable c] (hu : s.PortOnly u p) (hv : s.PortOnly v p) : s.PortOnly (if c then u else v) p := by
  split
  exacts [hu, hv]

theorem setF (h : s.PortOnly u p) {o hi lo w} : s.PortOnly (u.setF o hi lo w) p := ⟨h.tiles, h.mem, h.ports⟩

theorem restrata (h : s.PortOnly u p) : s.PortOnly u.restrata p := by
  unfold State.restrata
  refine .ite h.setF.setF.setF ?_
  split
  exacts [h.setF.setF, h.setF.setF]

end State.PortOnly

theorem restrata_port (s : State) (p : Nat) : s.restrata.port p = s.port p := by
  have hset : ∀ (s : State) (o hi lo v : Nat), (s.setF o hi lo v).port p = s.port p := fun s o _ _ _ =>
    State.setReg_port s o _ p
  unfold State.restrata
  split
  · rw [hset, hset, hset]
  · split <;> rw [hset, hset]

/-- FAB_PORTp_PARTNER as a partner gives it: its chip ID and port, and VALID. -/
def partnerWord (i : PartnerInfo) : Word := BitVec.ofNat 32 (i.chipId % 2 ^ 18 + 2 ^ 18 * (i.port % 16) + 2 ^ 31)

theorem partnerWord_fields (i : PartnerInfo) :
    fld (partnerWord i) 17 0 = i.chipId % 2 ^ 18 ∧ fld (partnerWord i) 31 31 = 1 := by
  simp only [partnerWord, fld, BitVec.toNat_ofNat, Nat.shiftRight_eq_div_pow]
  omega

/-- A port that knows its partner's stratum. -/
def Port.withStratum (x : Port) (n : Nat) : Port := { x with pStratum := n }

theorem withStratum_f (x : Port) (n o hi lo : Nat) : (x.withStratum n).f o hi lo = x.f o hi lo := rfl

theorem withStratum_pendRole (x : Port) (n : Nat) : (x.withStratum n).pendRole = x.pendRole := rfl

/-- A port that has met its partner. -/
def Port.meets (x : Port) (i : PartnerInfo) : Port :=
  (x.setReg Reg.fabPortPartner (partnerWord i)).withStratum i.stratum

theorem meets_partner (x : Port) (i : PartnerInfo) : (x.meets i).f Reg.fabPortPartner 17 0 = i.chipId % 2 ^ 18 ∧
    (x.meets i).f Reg.fabPortPartner 31 31 = 1 := by
  rw [Port.meets, withStratum_f, withStratum_f, Port.f, Port.f, Port.setReg_reg_same]
  exact partnerWord_fields i

theorem meets_pendRole (x : Port) (i : PartnerInfo) : (x.meets i).pendRole = x.pendRole := by
  rw [Port.meets, withStratum_pendRole, Port.setReg_pendRole]

/-- A port as its link comes up, on some lanes, with a width and a role. -/
def Port.runs (x : Port) (lanes ticks w role : Nat) (collide : Bool) : Port :=
  let x := (x.setF Reg.fabPortStatus 7 5 w).setF Reg.fabPortStatus 4 3 role
  let x := if collide then x.count Reg.fabPortLeadColl 1 else x
  { x with seen := false, used := [], owed := [], txSeq := 0, rxSeq := 4095, lanes := x.useLanes lanes, alive := ticks }

/-- A collision is counted; else only the status changes. -/
theorem runs_f (x : Port) (lanes ticks w role : Nat) (collide : Bool) {o : Nat} (hi lo : Nat) (ho : o ≠ Reg.fabPortLeadColl) :
    (x.runs lanes ticks w role collide).f o hi lo =
      ((x.setF Reg.fabPortStatus 7 5 w).setF Reg.fabPortStatus 4 3 role).f o hi lo := by
  unfold Port.runs
  extract_lets y z
  refine (Port.f_congr (y := z) rfl _ _ _).trans ?_
  unfold z
  split
  · exact Port.count_f_ne _ _ _ _ ho
  · rfl

theorem runs_pendRole (x : Port) (lanes ticks w role : Nat) (collide : Bool) :
    (x.runs lanes ticks w role collide).pendRole = x.pendRole := by
  unfold Port.runs
  dsimp only
  split <;> rfl

/-- Does this end ask for the role as the link comes up? -/
def State.asksAs (s : State) (x : Port) (i : PartnerInfo) : Bool := x.forceLead || decide (s.stratum < i.stratum)

/-- The role that a port takes as its link comes up. -/
def State.firstRole (s : State) (x : Port) (i : PartnerInfo) : Nat := roleAt (s.asksAs x i) i.asks s.chipId i.chipId

/-- The last steps of a training: the port's STATE, and its first heartbeat. -/
def State.comesUp (s : State) (p w st : Nat) : State :=
  (if w = 2 then (s.portState p st 0).logOpen 0x0404 Src.fabric chipPart else s.portState p st 0).restrata.heartbeatSend p

theorem comesUp_runs {s : State} {p st : Nat} (w : Nat) (hp : p < 12) (hst : st = 2 ∨ st = 3) : ∃ hb now,
    s.PortOnly (s.comesUp p w st) p ∧
      (s.comesUp p w st).port p = ((s.port p).toState st 0).beats hb now ((s.port p).toState st 0).roleNext := by
  have hrec : (s.setPort p ((s.port p).toState st 0)).RecordsOnly
      (if w = 2 then (s.portState p st 0).logOpen 0x0404 Src.fabric chipPart else s.portState p st 0) := by
    split
    · exact (portState_records _ _ _ _).trans (.logOpen _ _ _ _)
    · exact portState_records _ _ _ _
  unfold State.comesUp
  generalize (if w = 2 then (s.portState p st 0).logOpen 0x0404 Src.fabric chipPart else s.portState p st 0) = v at hrec ⊢
  have hport : v.restrata.port p = (s.port p).toState st 0 := by
    rw [restrata_port, hrec.port, State.setPort_port_same]
  have hup : (v.restrata.port p).isUp = true := by
    rw [hport, Port.isUp_iff, Port.toState_st _ _ (by omega)]
    exact hst
  rw [heartbeatSend_eq hp hup, hport]
  refine ⟨v.restrata.beat p, v.restrata.time, .restrata (.setPort (.restrata (.records (.setPort (.refl s p)) hrec))), ?_⟩
  rw [restrata_port, State.setPort_port_same]

/-- What O32 says of a port whose link has come up on a width, with a role given beside one that was granted. -/
structure Port.CameUp (x y : Port) (i : PartnerInfo) (w st role : Nat) : Prop where
  partner : y.f Reg.fabPortPartner 17 0 = i.chipId % 2 ^ 18
  valid   : y.f Reg.fabPortPartner 31 31 = 1
  st      : y.st = st
  width   : y.f Reg.fabPortStatus 7 5 = w
  cause   : y.cause = 0
  beat    : y.hbOut.isSome = true
  role    : x.pendRole = 0 → y.f Reg.fabPortStatus 4 3 = role

theorem beats_cameUp {x y : Port} {i : PartnerInfo} {lanes ticks w st role : Nat} {collide : Bool} (hw : w < 8)
    (hst : st < 8) (hrole : role < 4) (hregs : y.regs = ((x.meets i).runs lanes ticks w role collide).regs)
    (hpend : y.pendRole = ((x.meets i).runs lanes ticks w role collide).pendRole) {z : Port}
    (hz : z = y.toState st 0) (hb : Heartbeat) (now : Int) :
    x.CameUp (z.beats hb now z.roleNext) i w st role := by
  have hpartner : ∀ hi lo, (z.beats hb now z.roleNext).f Reg.fabPortPartner hi lo = (x.meets i).f Reg.fabPortPartner hi lo := by
    intro hi lo
    rw [Port.f_congr (beats_regs _ _ _ _), Port.setF_f_ne _ _ _ _ _ _ (by decide), hz,
      Port.toState_f_ne _ _ _ _ _ (by decide), Port.f_congr hregs, runs_f _ _ _ _ _ _ _ _ (by decide),
      Port.setF_f_ne _ _ _ _ _ _ (by decide), Port.setF_f_ne _ _ _ _ _ _ (by decide)]
  obtain ⟨hid, hvalid⟩ := meets_partner x i
  refine ⟨(hpartner 17 0).trans hid, (hpartner 31 31).trans hvalid, ?_, ?_, ?_, rfl, fun hnone => ?_⟩
  · rw [Port.st, Port.f_congr (beats_regs _ _ _ _), Port.setF_f_below _ _ _ (by decide) (by decide) (by decide), hz]
    exact Port.toState_st _ _ hst
  · rw [Port.f_congr (beats_regs _ _ _ _), Port.setF_f_above _ _ _ (by decide) (by decide) (by decide), hz,
      Port.toState_width, Port.f_congr hregs, runs_f _ _ _ _ _ _ _ _ (by decide),
      Port.setF_f_above _ _ _ (by decide) (by decide) (by decide), Port.setF_f_same _ _ _ (by decide) (by decide)]
    exact Nat.mod_eq_of_lt hw
  · rw [Port.cause, Port.f_congr (beats_regs _ _ _ _), Port.setF_f_above _ _ _ (by decide) (by decide) (by decide), hz]
    exact Port.toState_cause _ _ (by decide)
  · have hzp : z.pendRole = 0 := by
      rw [hz, ((Port.RegsOnly.refl y).toState _ _).pendRole, hpend, runs_pendRole, meets_pendRole, hnone]
    rw [beats_role _ _ _ (roleNext_lt z), Port.roleNext, if_neg (by rw [hzp]; decide), hz, Port.toState_role,
      Port.f_congr hregs, runs_f _ _ _ _ _ _ _ _ (by decide), Port.setF_f_same _ _ _ (by decide) (by decide)]
    exact Nat.mod_eq_of_lt hrole

/-- A failed attempt changes nothing. -/
theorem linkTrained_fails {s : State} {p lanes : Nat} (i : PartnerInfo) (h : (s.port p).width lanes = 0) :
    s.linkTrained p lanes i = s := if_pos (by simp [h])

theorem train_guard {s : State} {p lanes : Nat} (hp : p < 12) (hst : (s.port p).st = 1) (hretry : (s.port p).retry = false)
    (hw : (s.port p).width lanes ≠ 0) :
    ¬(decide (portCount ≤ p) || (s.port p).st != 1 || (s.port p).retry || (s.port p).width lanes == 0) = true := by
  simp [portCount, Nat.not_le.mpr hp, hst, hretry, hw]

/-- A partner that fails the identity check leaves the port FAILED. -/
theorem linkTrained_stranger {s : State} {p lanes : Nat} {i : PartnerInfo} (hp : p < 12) (hst : (s.port p).st = 1)
    (hretry : (s.port p).retry = false) (hw : (s.port p).width lanes ≠ 0)
    (hid : (s.modPort p (·.meets i)).identityOk p i = false) : s.linkTrained p lanes i =
      ((s.modPort p (·.meets i)).portState p 5 6).logOpen 0x0401 Src.fabric chipPart := by
  unfold State.linkTrained
  refine (if_neg (train_guard hp hst hretry hw)).trans (if_pos ?_)
  exact congrArg not hid

/-- Port p, which was x as its training ended and has met its partner, starts to run; the lower of two ends that both ask
draws a backoff. -/
def State.linkRuns (s : State) (x : Port) (p lanes : Nat) (i : PartnerInfo) : State :=
  let u := s.modPort p (·.runs lanes s.ticks (x.width lanes) (s.firstRole x i) (s.asksAs x i && i.asks))
  if ((s.asksAs x i && i.asks) && s.firstRole x i == 2) = true then u.backOff p else u

theorem linkTrained_partner {s : State} {p lanes : Nat} {i : PartnerInfo} (hp : p < 12) (hst : (s.port p).st = 1)
    (hretry : (s.port p).retry = false) (hw : (s.port p).width lanes ≠ 0)
    (hid : (s.modPort p (·.meets i)).identityOk p i = true) :
    s.linkTrained p lanes i = ((s.modPort p (·.meets i)).linkRuns (s.port p) p lanes i).comesUp p ((s.port p).width lanes)
      (if (s.port p).width lanes = 4 then 2 else 3) := by
  unfold State.linkTrained
  refine (if_neg (train_guard hp hst hretry hw)).trans ((if_neg ?_).trans ?_)
  · exact fun h => absurd ((congrArg not hid).symm.trans h) (by decide)
  · unfold State.comesUp State.linkRuns Port.meets Port.withStratum Port.runs State.firstRole State.asksAs partnerWord
    rfl

theorem roleAt_lt (asks theirs : Bool) (own partner : Nat) : roleAt asks theirs own partner < 4 := by
  unfold roleAt
  repeat' split
  all_goals decide

theorem linkRuns_port (s : State) (x : Port) (p lanes : Nat) (i : PartnerInfo) : ∀ y, y = (s.port p).runs lanes s.ticks
      (x.width lanes) (s.firstRole x i) (s.asksAs x i && i.asks) → s.PortOnly (s.linkRuns x p lanes i) p ∧
    ((s.linkRuns x p lanes i).port p).regs = y.regs ∧ ((s.linkRuns x p lanes i).port p).pendRole = y.pendRole := by
  rintro y rfl
  unfold State.linkRuns
  extract_lets u
  have hu : s.PortOnly u p := .setPort (.refl s p)
  have hport : u.port p = (s.port p).runs lanes s.ticks (x.width lanes) (s.firstRole x i) (s.asksAs x i && i.asks) := by
    unfold u
    rw [State.modPort_port_same]
  refine ⟨.ite hu.backOff hu, ?_⟩
  rw [← hport]
  split
  · obtain ⟨d, -, -, hdraw⟩ := backOff_draws u p
    rw [hdraw, State.setPort_port_same]
    exact ⟨rfl, rfl⟩
  · exact ⟨rfl, rfl⟩

/-- The role rests on the two ends' strata and chip IDs, not on the ports. -/
theorem modPort_firstRole (s : State) (p : Nat) (f : Port → Port) (x : Port) (i : PartnerInfo) :
    (s.modPort p f).firstRole x i = s.firstRole x i := by
  have hstratum : (s.modPort p f).stratum = s.stratum := by rw [State.stratum, State.f, State.modPort_reg, State.stratum, State.f]
  have hchip : (s.modPort p f).chipId = s.chipId := by rw [State.chipId, State.f, State.modPort_reg, State.chipId, State.f]
  rw [State.firstRole, State.asksAs, hstratum, hchip, State.firstRole, State.asksAs]

/-- Of two ends that do not ask, the higher chip ID leads. -/
theorem firstRole_unasked {s : State} {x : Port} {i : PartnerInfo} (hforce : x.forceLead = false)
    (hstratum : i.stratum ≤ s.stratum) (hasks : i.asks = false) :
    s.firstRole x i = if i.chipId < s.chipId then 1 else 2 := by
  rw [State.firstRole, State.asksAs, hforce, decide_eq_false (Nat.not_lt.mpr hstratum), hasks]
  rfl

/-- The link of a port whose partner passes the check comes up. -/
theorem linkTrained_cameUp {s : State} {p lanes : Nat} {i : PartnerInfo} (hp : p < 12) (hst : (s.port p).st = 1)
    (hretry : (s.port p).retry = false) (hw : (s.port p).width lanes ≠ 0)
    (hid : (s.modPort p (·.meets i)).identityOk p i = true) : s.PortOnly (s.linkTrained p lanes i) p ∧
      (s.port p).CameUp ((s.linkTrained p lanes i).port p) i ((s.port p).width lanes)
        (if (s.port p).width lanes = 4 then 2 else 3) ((s.modPort p (·.meets i)).firstRole (s.port p) i) := by
  obtain ⟨hwidth, hstate⟩ := running_width (x := s.port p) (lanes := lanes)
  obtain ⟨hruns, hregs, hpend⟩ := linkRuns_port (s.modPort p (·.meets i)) (s.port p) p lanes i _ rfl
  rw [State.modPort_port_same] at hregs hpend
  obtain ⟨hb, now, hup, hport⟩ := comesUp_runs (s := (s.modPort p (·.meets i)).linkRuns (s.port p) p lanes i)
    ((s.port p).width lanes) hp hstate
  rw [linkTrained_partner hp hst hretry hw hid, hport]
  refine ⟨((State.PortOnly.refl s p).setPort.trans hruns).trans hup, ?_⟩
  exact beats_cameUp hwidth (by omega) (roleAt_lt _ _ _ _) hregs hpend rfl hb now

end Sys2Proof.Machine
end

section
open Sys2Proof Sys2Proof.Machine

/-- Settles O32: a training that reaches step 4 ends at a failed identity check or with a running link. -/
theorem linksComeUp : Obligations.LinksComeUp := by
  rintro s p lanes i x rfl hp hst hretry
  refine ⟨fun hw => congrArg Host.Outcome.next (linkTrained_fails i hw), fun hw => ?_, width_allLanes,
    width_onePair, width_tooFew⟩
  cases hid : (s.modPort p (·.meets i)).identityOk p i
  · have hrec := (portState_records (s.modPort p (·.meets i)) p 5 6).trans (.logOpen _ 0x0401 Src.fabric chipPart)
    rw [← linkTrained_stranger hp hst hretry hw hid, State.modPort_port_same, State.modPort, State.setPort_setPort] at hrec
    have honly := ((State.PortOnly.refl s p).setPort).records hrec
    have hport := (hrec.port p).trans (State.setPort_port_same _ _ _)
    obtain ⟨hchip, hvalid⟩ := meets_partner (s.port p) i
    refine ⟨_, rfl, honly.tiles, honly.mem, ?_, ?_, honly.ports, fun _ => ⟨?_, ?_⟩, fun hok => ?_⟩
    · rw [hport, Port.toState_f_ne _ _ _ _ _ (by decide), hchip]
    · rw [hport, Port.toState_f_ne _ _ _ _ _ (by decide), hvalid]
    · rw [hport, Port.toState_st _ _ (by decide)]
    · rw [hport, Port.toState_cause _ _ (by decide)]
    · exact absurd (hid.symm.trans hok) (by decide)
  · obtain ⟨honly, hcame⟩ := linkTrained_cameUp hp hst hretry hw hid
    refine ⟨_, rfl, honly.tiles, honly.mem, hcame.partner, hcame.valid, honly.ports, fun hno => ?_, fun _ => ⟨hcame.st,
      hcame.width, hcame.cause, hcame.beat, fun hforce hnone hstratum hasks => ?_⟩⟩
    · exact absurd (hid.symm.trans hno) (by decide)
    · rw [hcame.role hnone, modPort_firstRole, firstRole_unasked hforce hstratum hasks]
end

section
namespace Sys2Proof.Machine

/-! ### The budget's commands (R380) -/

section
variable {s : State} {p k : Nat} {t : Taken}

theorem powerLimit_acts (h : s.InOrder p k 0x105 1 t) (hreq : par t.words 0 ≤ 1023)
    (hexpert : rqExpert t.words = true → 200 ≤ par t.words 1 ∧ par t.words 1 ≤ 1600 ∧ 900 ≤ par t.words 2 ∧
      par t.words 2 ≤ 1050 ∧ par t.words 3 ≤ 100) {u v : State} (hu : u = s.setF Reg.capBudgetReq 9 0 (par t.words 0))
    (hv : v = (if rqExpert t.words = true then ((u.setF Reg.capTileLimit 10 0 (par t.words 1)).setF Reg.capEnvelope 10 0
      (par t.words 2)).setF Reg.capEnvelope 22 16 (par t.words 3) else u).retarget.alertSync) :
    s.powerLimit p k = v.mbFinish p k 0 [w32 (v.f Reg.capBudgetStat 9 0)] := by
  subst hu hv
  unfold State.powerLimit
  refine h.acts _ (bad_passes_cons (decide_eq_false (Nat.not_lt.mpr hreq)) ?_) (noChecks_pass _)
  cases hx : rqExpert t.words
  · simp [bad]
  · obtain ⟨hlow, hhigh, hleast, hmost, hmargin⟩ := hexpert hx
    refine bad_passes_cons ?_ (bad_passes_cons ?_ (bad_passes ?_)) <;> simp <;> omega

theorem budgetSource_acts (h : s.InOrder p k 0x106 1 t) (hsource : par t.words 0 ≤ 2)
    (hexpert : rqExpert t.words = true → par t.words 1 ≤ 1023 ∧ par t.words 2 ≤ 1023 ∧ par t.words 3 ≤ 65535) {u : State}
    (hu : u = s.setF Reg.capBudgetCfg 1 0 (par t.words 0)) : s.budgetSource p k =
      (if rqExpert t.words = true then ((u.setF Reg.capBudgetCfg 13 4 (par t.words 1)).setF Reg.capBudgetReq 25 16
        (par t.words 2)).setF Reg.capBudgetCfg 31 16 (par t.words 3) else u).retarget.alertSync.mbFinish p k 0 [] := by
  subst hu
  unfold State.budgetSource
  refine h.acts _ (bad_passes_cons (decide_eq_false (Nat.not_lt.mpr hsource)) ?_) (noChecks_pass _)
  cases hx : rqExpert t.words
  · simp [bad]
  · obtain ⟨hdefault, hboard, hslew⟩ := hexpert hx
    refine bad_passes_cons ?_ (bad_passes_cons ?_ (bad_passes ?_)) <;> simpa

/-! ### The fabric's commands (R319, R295) -/

/-- FABRIC_SET first disables the ports, and remembers which were on. -/
theorem fabricSet_begins (h : s.InOrder p k 0x107 1 t) (hid : par t.words 0 < 2 ^ 18)
    (hdims : outside (par t.words 1) 0x73F3F3F = false)
    (hroute : if rqExpert t.words = true then par t.words 2 % 8 ≤ 5 ∧ outside (par t.words 2) 0x17 = false ∧
      outside (par t.words 3) 0xFF = false ∧ par t.words 4 ≤ 20480 else par t.words 2 ≤ 5) : s.fabricSet p k =
      ((List.range portCount).foldl State.portDisable s).stay p k 1 [s.enabledPorts] := by
  unfold State.fabricSet
  refine (h.acts _ (bad_passes_cons (decide_eq_false (Nat.not_le.mpr hid)) (bad_passes_cons hdims ?_))
    (noChecks_pass _)).trans (if_pos h.fresh)
  cases hx : rqExpert t.words <;> simp only [hx, Bool.false_eq_true, if_false, if_true] at hroute ⊢
  · exact bad_passes_cons (decide_eq_false (Nat.not_lt.mpr hroute)) (bad_passes rfl)
  · obtain ⟨hmode, hbits, harb, htags⟩ := hroute
    refine bad_passes_cons (decide_eq_false (Nat.not_lt.mpr hmode)) (bad_passes ?_)
    rw [hbits, harb, decide_eq_false (Nat.not_lt.mpr htags)]
    rfl

/-- It goes on once no tag is held. -/
theorem fabricSet_goesOn (h : s.Started p k 0x107 1 t) : s.fabricSet p k =
    if s.f Reg.fabTags 14 0 ≠ 0 then s else
      (((List.range portCount).filter (fun i => (t.aux.getD 0 0).testBit i)).foldl State.portEnable
        (s.fabricWords t.words)).mbFinish p k 0 [] := by
  unfold State.fabricSet
  exact (h.goes (by decide) _ _ _ _).trans (if_neg (by rw [h.at_]; decide))

theorem portSet_acts (h : s.InOrder p k 0x108 1 t) (hbasic : rqExpert t.words = false) (hmask : par t.words 0 < 4096)
    {u : State} (hu : u = (List.range portCount).foldl (fun u i =>
      if (par t.words 0).testBit i = true then u.portEnable i else u.portDisable i) s) : s.portSet p k =
      u.mbFinish p k 0 (res64 (((List.range portCount).map (fun i => (u.port i).st * 8 ^ i)).sum)) := by
  subst hu
  unfold State.portSet
  refine (h.acts _ (bad_passes_cons (decide_eq_false (Nat.not_le.mpr hmask)) (bad_passes (by rw [hbasic]; rfl)))
    (noChecks_pass _)).trans ?_
  simp only [hbasic, Bool.false_eq_true, if_false]

/-- The basic form of COLL_CFG writes the reservation. -/
theorem collCfg_basic (h : s.InOrder p k 0x109 1 t) (hbasic : rqExpert t.words = false) (haxis : par t.words 0 ≤ 3)
    (hshare : par t.words 1 ≤ 8) : s.collCfg p k =
      (s.setReg Reg.collDenseCfg (w32 (par t.words 0 + 16 * par t.words 1))).mbFinish p k 0 [] := by
  unfold State.collCfg
  refine (h.acts _ ?_ (noChecks_pass _)).trans ?_
  · simp only [hbasic, Bool.false_eq_true, if_false]
    exact bad_passes_cons (decide_eq_false (Nat.not_lt.mpr haxis)) (bad_passes (decide_eq_false (Nat.not_lt.mpr hshare)))
  · simp only [hbasic, Bool.false_eq_true, if_false]

/-- The first n partitions' quotas written. -/
def State.quotasSet (s : State) (w : List Word) (n : Nat) : State :=
  (List.range n).foldl (fun u m => u.setReg (Reg.collQuota + 4 * m) (w32 (quotaOf w m))) s

theorem quotasSet_succ (s : State) (w : List Word) (n : Nat) : s.quotasSet w (n + 1) =
    (s.quotasSet w n).setReg (Reg.collQuota + 4 * n) (w32 (quotaOf w n)) := by
  rw [State.quotasSet, List.range_succ, List.foldl_concat, State.quotasSet]

theorem quotasSet_chip (s : State) (w : List Word) (n : Nat) : s.quotasSet w n = { s with chip := (s.quotasSet w n).chip } := by
  induction n with
  | zero => rfl
  | succ n ih =>
    rw [quotasSet_succ]
    exact congrArg (fun u : State => u.setReg _ _) ih

theorem quotasSet_other (s : State) (w : List Word) {n o : Nat} (ho : o < Reg.collQuota ∨ Reg.collQuota + 4 * n ≤ o) :
    (s.quotasSet w n).reg o = s.reg o := by
  induction n with
  | zero => rfl
  | succ n ih =>
    rw [quotasSet_succ, State.setReg_reg_ne _ _ (by omega), ih (by omega)]

theorem quotasSet_quota (s : State) (w : List Word) {n m : Nat} (hm : m < n) :
    (s.quotasSet w n).reg (Reg.collQuota + 4 * m) = w32 (quotaOf w m) := by
  induction n with
  | zero => omega
  | succ n ih =>
    rw [quotasSet_succ, State.setReg_reg]
    split
    · rw [show m = n by omega]
    · exact ih (by omega)

/-- Its expert form writes the reservation and the quotas. -/
theorem collCfg_expert (h : s.InOrder p k 0x109 1 t) (hx : rqExpert t.words = true)
    (hbits : outside (par t.words 0) 0xF3 = false) (hshare : par t.words 0 / 16 % 16 ≤ 8)
    (hquota : ∀ n, n < 16 → quotaOf t.words n ≤ 32) : s.collCfg p k =
      ((s.setReg Reg.collDenseCfg (w32 (par t.words 0))).quotasSet t.words 16).mbFinish p k 0 [] := by
  have hall : (List.range 16).any (fun n => decide (32 < quotaOf t.words n)) = false :=
    List.any_eq_false.mpr fun n hn => by
      rw [decide_eq_true_eq]
      exact Nat.not_lt.mpr (hquota n (List.mem_range.mp hn))
  unfold State.collCfg
  refine (h.acts _ ?_ (noChecks_pass _)).trans ?_
  · simp only [hx, if_true]
    exact bad_passes_cons hbits (bad_passes_cons (decide_eq_false (Nat.not_lt.mpr hshare)) (bad_passes hall))
  · simp only [hx, if_true, State.quotasSet]

/-! ### The partitions' keys (R341) -/

theorem keyLoad_acts (h : s.InOrder p k 0x104 1 t) (hpart : par t.words 0 < 16) (hslot : par t.words 1 < 4)
    (hgroup : rqExpert t.words = true → par t.words 10 ≤ 1) (hactive : s.partState (par t.words 0) = 1) {key : BitVec 128}
    (hkey : sivOpen Config.kek ((List.range 8).flatMap (fun j => bytesOf 4 (par t.words (2 + j)))) = some key) :
    s.keyLoad p k = (s.modPart (par t.words 0) (fun x => { (x.setF Reg.mbPartKeys (par t.words 1) (par t.words 1) 1).setF
      Reg.mbPartKeys (8 + par t.words 1) (8 + par t.words 1) (if rqExpert t.words = true then par t.words 10 else 1) with
      keys := tabSet keyD x.keys (par t.words 1) key })).mbFinish p k 0 [] := by
  unfold State.keyLoad
  refine (h.acts _ (bad_passes_cons (decide_eq_false (Nat.not_le.mpr hpart)) (bad_passes_cons
    (decide_eq_false (Nat.not_le.mpr hslot)) ?_)) (bad_passes (decide_eq_false (not_not_intro hactive)))).trans ?_
  · exact List.forall_mem_cons.mpr ⟨flag01 t.words 10 hgroup _ (List.mem_singleton.mpr rfl), bad_passes (by rw [hkey]; rfl)⟩
  · simp only [hkey, Option.getD_some]

end

end Sys2Proof.Machine
end

section
open Sys2Proof Sys2Proof.Machine

/-- Settles O43: each command acts by its equation once its checks pass; the quotas' registers lie past the reservation's. -/
theorem rootCommandsConfigureTheChip : Obligations.RootCommandsConfigureTheChip := by
  rintro s p k t w rfl
  refine ⟨fun h hreq hexpert u v hu hv => ?_, fun h hsource hexpert u hu => ?_, fun h hid hdims hroute => ?_,
    fun h => ⟨fun hheld => ?_, fun hnone => ?_⟩, fun h hbasic hmask u hu => ?_,
    fun h => ⟨fun hbasic haxis hshare => ?_, fun hx hbits hshare hquota => ?_⟩, ?_⟩
  · exact congrArg Host.Outcome.next (powerLimit_acts h hreq hexpert hu hv)
  · exact congrArg Host.Outcome.next (budgetSource_acts h hsource hexpert hu)
  · exact congrArg Host.Outcome.next (fabricSet_begins h hid hdims hroute)
  · exact congrArg Host.Outcome.next ((fabricSet_goesOn h).trans (if_pos hheld))
  · exact congrArg Host.Outcome.next ((fabricSet_goesOn h).trans (if_neg (not_not_intro hnone)))
  · exact congrArg Host.Outcome.next (portSet_acts h hbasic hmask hu)
  · exact congrArg Host.Outcome.next (collCfg_basic h hbasic haxis hshare)
  · refine ⟨_, congrArg Host.Outcome.next (collCfg_expert h hx hbits hshare hquota), ?_, fun n hn => quotasSet_quota _ _ hn,
      fun o hdense ho => ?_, ?_⟩
    · rw [quotasSet_other _ _ (by decide), State.setReg_reg_same]
    · rw [quotasSet_other _ _ ho, State.setReg_reg_ne _ _ hdense]
    · exact quotasSet_chip (s.setReg Reg.collDenseCfg (w32 (par t.words 0))) t.words 16
  · rintro h n i key x rfl rfl rfl hpart hslot hgroup hactive hkey
    exact congrArg Host.Outcome.next (keyLoad_acts h hpart hslot hgroup hactive hkey)
end

section
namespace Sys2Proof.Machine

/-! ### Posting (R258, R262) -/

theorem tileReg_core_traced {s : State} {t : Nat} (o : Nat) (v : Word) (hc : s.clocked t = true) :
    s.tileReg (.core t) t o v = s.faultTraced t (fun u => u.tileWrite (.core t) t o v) := by
  simp [State.tileReg, State.reach, State.asAgent, State.agentUp, State.mayTile, hc, clocked_lt hc, State.tilePut]

theorem tileOwner_owns {s : State} {t n : Nat} (h : s.tileOwner t = some n) : s.ownsTile n t = true := by
  unfold State.tileOwner State.unitOwner at h
  split at h
  · next ht => simpa [State.ownsTile, ht] using List.find?_some h
  · cases h

theorem exec_collPost_core {s : State} {t : Nat} (v : Word) (hc : s.clocked t = true) :
    exec (.collPost (.core t) t v) s = .next (s.faultTraced t (fun u => u.collPost 0 t v)) :=
  congrArg Host.Outcome.next (tileReg_core_traced Reg.collPost v hc)

theorem exec_collPost_vf {s : State} {n t : Nat} (v : Word) (hup : s.hostUp = true) (hown : s.ownsTile n t = true) :
    exec (.collPost (.vf n) t v) s = .next (s.faultTraced t (fun u => u.collPost 1 t v)) :=
  congrArg Host.Outcome.next (tileReg_vf s n t Reg.collPost v hup hown)

/-- The mesh cycle is counted in the chip's block. -/
theorem setTile_cyc (s : State) (t : Nat) (x : Tile) : (s.setTile t x).cyc = s.cyc := by
  simp only [State.cyc, State.setTile_reg]

/-- The state in which the post of tile t, its descriptor w read at scratch address a, stands in its partition's queue with
a copy of its source (R258, R259). -/
def State.postQueued (s : State) (t n a : Nat) (w : List Word) : State :=
  (s.setTile t ((s.tile t).scrReads [(a, 64)]).1).modPart n (fun p => { p with
    postQ := insertPost
      ⟨w, t, s.cyc, false, memRead s.mem (gAddr (coSrc w)) (coSrcBytes w (s.grpRank n (coGroup w)))⟩ p.postQ })

section
variable {s : State} {t n : Nat} {v : Word}

/-- A post to a full queue stalls the core, or sets OVERRUN for an agent of BAR0. -/
theorem collPost_full (howner : s.tileOwner t = some n) (hact : s.partState n = 1) (hfull : 16 ≤ (s.part n).qLevel)
    (path : Nat) : s.collPost path t v = s.setTile t
      (if path = 0 then
        { s.tile t with stall := some (.store (BitVec.ofNat 32 (0xF0000000 + Reg.collPost)) 4 v) }
      else (s.tile t).setF Reg.collPostStatus 0 0 1) := by
  unfold State.collPost
  rw [howner]
  exact (if_neg (not_not_intro hact)).trans (if_pos hfull)

/-- A legal post is queued, and its group looks at the queue. -/
theorem collPost_legal {w : List Word} (howner : s.tileOwner t = some n) (hact : s.partState n = 1)
    (hw : w = (List.range 16).map (fun i => BitVec.ofNat 32 ((s.tile t).rd32 (fld v 19 0 + 4 * i))))
    (hroom : (s.part n).qLevel < 16) (hread : ((s.tile t).scrReads [(fld v 19 0, 64)]).2 = false)
    (hcheck : s.collCheck n (fld v 19 0) w = 0) (path : Nat) :
    s.collPost path t v = (s.postQueued t n (fld v 19 0) w).groupNext n (coGroup w) := by
  subst hw
  unfold State.collPost
  rw [howner]
  refine (if_neg (not_not_intro hact)).trans ((if_neg (Nat.not_le.mpr hroom)).trans ?_)
  simp only [hread, hcheck, Bool.false_eq_true, if_false, if_true, setTile_cyc, State.postQueued]

theorem post_queued {w : List Word} (hc : s.clocked t = true) (howner : s.tileOwner t = some n) (hact : s.partState n = 1)
    (hw : w = (List.range 16).map (fun i => BitVec.ofNat 32 ((s.tile t).rd32 (fld v 19 0 + 4 * i))))
    (hroom : (s.part n).qLevel < 16) (hread : ((s.tile t).scrReads [(fld v 19 0, 64)]).2 = false)
    (hcheck : s.collCheck n (fld v 19 0) w = 0) : ∃ u, exec (.collPost (.core t) t v) s = .next u ∧
      ((s.postQueued t n (fld v 19 0) w).groupNext n (coGroup w)).RecordsOnly u := by
  refine ⟨_, exec_collPost_core v hc, ?_⟩
  rw [← collPost_legal howner hact hw hroom hread hcheck 0]
  exact .faultTraced s t _

/-- Neither answer to a full queue is a fault. -/
theorem post_refused (hc : s.clocked t = true) (howner : s.tileOwner t = some n) (hact : s.partState n = 1)
    (hfull : 16 ≤ (s.part n).qLevel) :
    exec (.collPost (.core t) t v) s = .next (s.setTile t { s.tile t with
      stall := some (.store (BitVec.ofNat 32 (0xF0000000 + Reg.collPost)) 4 v) }) ∧
    (s.hostUp = true → exec (.collPost (.vf n) t v) s =
      .next (s.setTile t ((s.tile t).setF Reg.collPostStatus 0 0 1))) := by
  have hfault : ∀ path, ((s.collPost path t v).tile t).reg Reg.ladleFault = (s.tile t).reg Reg.ladleFault := fun path => by
    rw [collPost_full howner hact hfull, State.setTile_tile_same]
    split
    · rfl
    · exact Tile.setF_reg_ne _ _ _ _ (by decide)
  refine ⟨?_, fun hup => ?_⟩
  · rw [exec_collPost_core v hc, State.faultTraced_same _ _ _ (hfault 0), collPost_full howner hact hfull, if_pos rfl]
  · rw [exec_collPost_vf v hup (tileOwner_owns howner), State.faultTraced_same _ _ _ (hfault 1),
      collPost_full howner hact hfull, if_neg (by decide)]

end

/-! ### Entry (R263, R279) -/

section
variable {s : State} {n g : Nat}

/-- The only partition with a post that may take a context has its post take one. -/
theorem contextGrant_only {i : Nat} (hup : s.meshUp = true) (hn : n < 16) (hpost : s.nextPost n = some i)
    (honly : ∀ m, m < 16 → m ≠ n → s.nextPost m = none) :
    exec .collContextGrant s = .next (({ s with freeCount := s.freeCount + 1 } : State).grantCtx n i) := by
  have hns : (List.range 16).filter (fun m => (s.nextPost m).isSome) = [n] := by
    have heq : (List.range 16).filter (fun m => (s.nextPost m).isSome) = (List.range 16).filter (· == n) := by
      refine List.filter_congr fun m hm => ?_
      by_cases hmn : m = n
      · simp [hmn, hpost]
      · simp [hmn, honly m (List.mem_range.mp hm) hmn]
    rw [heq, List.filter_beq, List.count_eq_one_of_mem List.nodup_range (List.mem_range.mpr hn)]
    rfl
  refine congrArg Host.Outcome.next ((if_pos hup).trans ?_)
  unfold State.collContextGrant
  simp [hns, Nat.mod_one, hpost]

/-- COLL_SIGNATURE to an ACTIVE partition: a group without a collective holds it. -/
theorem signature_held {nb : Nat} {x : Signature} {tag : Option DWord} (hup : s.meshUp = true) (hn : n < 16) (hg : g < 64)
    (hact : s.partState n = 1) (hc : s.ctx n g = none) : exec (.collSignature n g nb x tag) s =
      .next (s.setHeld n g { s.held n g with
        sigs := (s.held n g).sigs.filter (fun h => h.1 != nb) ++ [(nb, x, tag == (s.part n).tagSig x)] }) := by
  refine congrArg Host.Outcome.next ((if_pos hup).trans ?_)
  unfold State.collSignature
  refine (if_neg (by simp [hn, hg, hact])).trans ?_
  rw [hc]
  rfl

/-- A collective in ENTRY compares the first signature of a neighbour. -/
theorem signature_compared {nb : Nat} {x : Signature} {tag : Option DWord} {c : Ctx} {u : State} (hup : s.meshUp = true)
    (hn : n < 16) (hg : g < 64) (hact : s.partState n = 1) (hc : s.ctx n g = some c) (hst : c.st = 2)
    (hnew : nb ∉ c.matched) (hu : u = s.setCtx n g (some { c with
      jflags := c.jflags ||| x.jflags, heard := s.engineTime, matched := c.matched ++ [nb] })) :
    exec (.collSignature n g nb x tag) s = .next (State.leaveEntry
      (if tag = (s.part n).tagSig x ∧ sigMatch (s.signature n g c) x = true then u else u.collCause n g 0x510) n g) := by
  have hcompare : s.compareSig n g nb x (tag == (s.part n).tagSig x) =
      if tag = (s.part n).tagSig x ∧ sigMatch (s.signature n g c) x = true then u else u.collCause n g 0x510 := by
    unfold State.compareSig
    rw [hc, hu]
    simp only [Bool.and_eq_true, beq_iff_eq]
  refine congrArg Host.Outcome.next ((if_pos hup).trans ?_)
  unfold State.collSignature
  refine (if_neg (by simp [hn, hg, hact])).trans ?_
  rw [← hcompare, hc]
  exact if_pos (by simp [hst, hnew])

/-! ### Counts and arrivals (R270, R280) -/

/-- A rank's first count is noted; a member that waits for counts passes it on. -/
theorem counts_noted {c d : Ctx} {u : State} {rank k jf : Nat} (hc : s.ctx n g = some c) (hrank : rank < s.grpSize n g)
    (hnew : tabGet natD c.counts rank = 0) (hd : d = { c with
      counts := tabSet natD c.counts rank (k + 1), heard := s.engineTime, jflags := c.jflags ||| jf })
    (hu : u = s.setCtx n g (some d)) (hst : c.st = 2 ∨ c.st = 3) : s.collCounts n g c.seq rank k jf =
      if c.st = 2 then u else (u.sendAll n g (.counts n g c.seq rank k d.jflags)).countsDone n g := by
  subst hu hd
  unfold State.collCounts
  rw [hc]
  refine if_neg ?_
  rcases hst with hst | hst <;> simp [hst, hrank, hnew]

/-- A rank's first arrival is noted; a member past ENTRY passes it on. -/
theorem arrival_noted {c d : Ctx} {u : State} {rank jf : Nat} (hc : s.ctx n g = some c) (hop : coOp c.words = 6)
    (hrank : rank < s.grpSize n g) (hnew : rank ∉ c.ranks) (hd : d = { c with
      ranks := c.ranks ++ [rank], heard := s.engineTime, jflags := c.jflags ||| jf })
    (hu : u = s.setCtx n g (some d)) (hst : c.st = 2 ∨ c.st = 4) : s.collBarrierArrival n g c.seq rank jf =
      if c.st = 2 then u else (u.sendAll n g (.barrier n g c.seq rank d.jflags)).barrierDone n g := by
  subst hu hd
  unfold State.collBarrierArrival
  rw [hc]
  refine if_neg ?_
  rcases hst with hst | hst <;> simp [hst, hop, hrank, hnew]

theorem sendAll_frame (s : State) (n g : Nat) (m : CtrlMsg) : (s.sendAll n g m).ctx n g = s.ctx n g ∧
    (s.sendAll n g m).grpSize n g = s.grpSize n g := by
  obtain ⟨ports, hsent⟩ := sendNbs_form n g m (s.grpNbs n g) s
  rw [State.sendAll, hsent]
  exact ⟨rfl, rfl⟩

/-- A BARRIER in DATA finishes once every rank's arrival is noted. -/
theorem barrierDone_eq {c : Ctx} (hc : s.ctx n g = some c) (hst : c.st = 4) (hop : coOp c.words = 6) :
    s.barrierDone n g = if ∀ q, q < s.grpSize n g → q ∈ c.ranks then s.finish n g else s := by
  unfold State.barrierDone
  rw [hc]
  simp [hst, hop]

theorem arrival_decides {c d : Ctx} {u v : State} {rank jf : Nat} (hc : s.ctx n g = some c) (hop : coOp c.words = 6)
    (hrank : rank < s.grpSize n g) (hnew : rank ∉ c.ranks) (hd : d = { c with
      ranks := c.ranks ++ [rank], heard := s.engineTime, jflags := c.jflags ||| jf })
    (hu : u = s.setCtx n g (some d)) (hv : v = u.sendAll n g (.barrier n g c.seq rank d.jflags)) (hst : c.st = 4) :
    s.collBarrierArrival n g c.seq rank jf =
      if ∀ q, q < s.grpSize n g → q ∈ d.ranks then v.finish n g else v := by
  obtain ⟨hctx, hsize⟩ := sendAll_frame u n g (.barrier n g c.seq rank d.jflags)
  have hdata : v.ctx n g = some d := by rw [hv, hctx, hu, setCtx_ctx]
  have hgrp : v.grpSize n g = s.grpSize n g := by rw [hv, hsize, hu, grpSize_setCtx]
  rw [arrival_noted hc hop hrank hnew hd hu (Or.inr hst), if_neg (by omega), ← hv,
    barrierDone_eq hdata (by rw [hd]; exact hst) (by rw [hd]; exact hop), hgrp]

/-! ### Fragments and grants (R273, R274) -/

/-- A flit in a granted slot is held with what its fragment has brought before, and the collective goes on. -/
theorem fragment_held {c : Ctx} {y : SlotUse} {old : FragIn} {slot idx : Nat} (x : FragHdr) (data : List Byte)
    (hslot : tabGet slotD s.pool slot = some y) (hpart : y.part = n) (hgroup : y.group = g) (hlive : y.live = true)
    (hc : s.ctx n g = some c) (hst : c.st = 4) (hact : s.partState n = 1)
    (hold : old = (c.fragsIn.find? (fun f => f.slot == slot)).getD ⟨slot, none, []⟩) :
    s.collFragment slot idx x data = (s.setCtx n g (some { c with
      fragsIn := c.fragsIn.filter (fun f => f.slot != slot) ++ [{ old with
        hdr := if idx = 0 then some x else old.hdr
        flits := old.flits.filter (fun x => x.1 != idx) ++ [(idx, data.take (if idx = 0 then 224 else 240))] }]
      heard := s.engineTime })).collGo n g := by
  subst hpart hgroup hold
  unfold State.collFragment
  rw [hslot]
  dsimp only
  rw [hc]
  exact if_neg (by simp [hlive, hst, hact])

/-- Returned tags are counted in registers of the chip. -/
theorem ackSlots_only (s : State) (n g nb : Nat) (l : List Nat) :
    ∃ tags chip, s.ackSlots n g nb l = { s with tags := tags, chip := chip } := ⟨_, _, rfl⟩

theorem ackSlots_engineTime (s : State) (n g nb : Nat) (l : List Nat) : (s.ackSlots n g nb l).engineTime = s.engineTime := by
  obtain ⟨tags, chip, hack⟩ := ackSlots_only s n g nb l
  rw [hack]
  rfl

/-- Grants return the tags of their slots, and let a collective from ENTRY to FINISH send. -/
theorem grant_lets {c : Ctx} (nb : Nat) (l : List Nat) (hc : s.ctx n g = some c) (hfrom : 2 ≤ c.st) (hto : c.st ≤ 5) :
    exec (.collGrant n g ⟨nb, l⟩) s = .next (((s.ackSlots n g nb l).setCtx n g (some { c with
      slots := c.slots ++ l.map (fun k => (nb, k)), heard := s.engineTime })).pump n g) := by
  refine congrArg Host.Outcome.next ?_
  unfold State.collGrant
  rw [hc]
  refine (if_neg ?_).trans ?_
  · simp only [Bool.or_eq_true, decide_eq_true_eq]
    omega
  · rw [ackSlots_engineTime]

/-! ### Completion (R280 to R282) -/

/-- A partition's registers after the books of a completed collective (R281, R282). -/
def Part.collBooked (p : Part) (g seq drop jflags : Nat) : Part :=
  (((p.count Reg.collDropCnt 31 0 drop).setReg Reg.collJobFlags (BitVec.ofNat 32 (jflags % 2 ^ 14))).setReg Reg.collDoneCnt
    (p.reg Reg.collDoneCnt + 1)).setReg (Reg.collGrpSeq + 16 * g) (BitVec.ofNat 32 (seq + 1))

theorem collBooked_seq (p : Part) (g seq drop jflags : Nat) :
    (p.collBooked g seq drop jflags).reg (Reg.collGrpSeq + 16 * g) = BitVec.ofNat 32 (seq + 1) := Part.setReg_reg_same _ _ _

theorem collBooked_queuedFor (p : Part) (g seq drop jflags k : Nat) :
    (p.collBooked g seq drop jflags).queuedFor k = p.queuedFor k := rfl

/-- A collective without fragments outstanding that signals no semaphore and no barrier writes its record, keeps the books,
and frees its context. -/
theorem collComplete_writes {c : Ctx} {u : State} (hc : s.ctx n g = some c) (hst : c.st = 5) (hout : c.outQ = [])
    (htags : s.collTagged n g = false) (hwait : s.collWaits n g c = false) (hsem : cw c.words 7 22 22 = 0)
    (hbar : cw c.words 7 23 23 = 0) (hwrite : s.collWrite (coRecord c.words) (s.collRecord n g c 0 0xFFFFFFFF
      ((List.range (s.grpSize n g)).map (coWritten c.words (s.grpSize n g) c.count))) = (u, false)) :
    s.collComplete n g =
      (u.modPart n (·.collBooked g c.seq (s.droppedTotal n g c) c.jflags)).freeCtx n g := by
  unfold State.collComplete
  rw [hc]
  refine (if_neg (by simp [hst, hout, htags, hwait])).trans ?_
  simp only [hwrite, hsem, hbar, Bool.false_eq_true, if_false, Nat.zero_ne_one, decide_false, Bool.false_and]
  rfl

theorem complete_ends {c : Ctx} {u : State} (hc : s.ctx n g = some c) (hst : c.st = 5) (hout : c.outQ = [])
    (htags : s.collTagged n g = false) (hwait : s.collWaits n g c = false) (hsem : cw c.words 7 22 22 = 0)
    (hbar : cw c.words 7 23 23 = 0) (hqueue : (s.part n).queuedFor g = [])
    (hwrite : s.collWrite (coRecord c.words) (s.collRecord n g c 0 0xFFFFFFFF
      ((List.range (s.grpSize n g)).map (coWritten c.words (s.grpSize n g) c.count))) = (u, false)) :
    ∃ v, exec (.collComplete n g) s = .next v ∧ v.ctx n g = none ∧
      (v.part n).reg (Reg.collGrpSeq + 16 * g) = BitVec.ofNat 32 (c.seq + 1) ∧ v.mem = u.mem ∧ v.tiles = u.tiles := by
  have hframe : s.MeshFrame u := by
    rw [show u = _ from (congrArg Prod.fst hwrite).symm]
    exact .collWrite (.refl s)
  have hpart : u.part n = s.part n := congrArg (fun ps => tabGet partD ps n) hframe.parts
  have hbooks := State.modPart_part_same u n (·.collBooked g c.seq (s.droppedTotal n g c) c.jflags)
  obtain ⟨hctx, hregs, -, hmem, htiles⟩ := freeCtx_ends
    (s := u.modPart n (·.collBooked g c.seq (s.droppedTotal n g c) c.jflags)) (n := n) (g := g)
    (by rw [hbooks, collBooked_queuedFor, hpart, hqueue])
  refine ⟨_, congrArg Host.Outcome.next (collComplete_writes hc hst hout htags hwait hsem hbar hwrite), hctx, ?_, hmem, htiles⟩
  rw [hregs, hbooks, collBooked_seq]

end

end Sys2Proof.Machine
end

section
open Sys2Proof Sys2Proof.Machine

/-- Settles O50: each row is the equation of its step; a completed collective's books and free context leave what its record
has written. -/
theorem collectivesRun : Obligations.CollectivesRun := by
  refine ⟨fun s t n v x w hclock howner hx hact hw => ⟨fun hroom hread hcheck => ?_, fun hfull => ?_⟩, fun q p l => rfl,
    fun s n i hup hn hpost honly => contextGrant_only hup hn hpost honly,
    fun s n g nb x tag hup hn hg hact => ⟨fun hc => ?_, fun c u hc hst hnew hu => ?_⟩,
    fun s n g c hc => ⟨fun rank k jf d u hrank hnew hd hu => ⟨fun hst => ?_, fun hst => ?_⟩,
      fun rank jf d u v hop hrank hnew hd hu hv => ⟨fun hst => ?_, fun hst hmissing => ?_, fun hst hall => ?_⟩,
      fun slot idx pl off len jf sc data y old hup hslot hpart hgroup hlive hst hact hold => ?_,
      fun nb l hfrom hto => grant_lets nb l hc hfrom hto,
      fun hst hout htags hwait hsem hbar hqueue u hwrite => ?_⟩⟩
  · subst hx
    exact post_queued hclock howner hact hw hroom hread hcheck
  · subst hx
    exact post_refused hclock howner hact hfull
  · exact signature_held hup hn hg hact hc
  · exact signature_compared hup hn hg hact hc hst hnew hu
  · exact congrArg Host.Outcome.next ((counts_noted hc hrank hnew hd hu (Or.inl hst)).trans (if_pos hst))
  · exact congrArg Host.Outcome.next ((counts_noted hc hrank hnew hd hu (Or.inr hst)).trans (if_neg (by omega)))
  · exact congrArg Host.Outcome.next ((arrival_noted hc hop hrank hnew hd hu (Or.inl hst)).trans (if_pos hst))
  · obtain ⟨q, hq, hout⟩ := hmissing
    exact congrArg Host.Outcome.next ((arrival_decides hc hop hrank hnew hd hu hv hst).trans
      (if_neg fun hall => hout (hall q hq)))
  · exact congrArg Host.Outcome.next ((arrival_decides hc hop hrank hnew hd hu hv hst).trans (if_pos hall))
  · exact congrArg Host.Outcome.next ((if_pos hup).trans (fragment_held _ data hslot hpart hgroup hlive hc hst hact hold))
  · exact complete_ends hc hst hout htags hwait hsem hbar hqueue hwrite
end

section
open Sys2Proof Sys2Proof.Machine

/-- Settles O1: a step takes the front of the queue and is that command's meaning on the rest. -/
theorem stepRunsTheFrontCommand : Obligations.StepRunsTheFrontCommand := fun _ _ _ => rfl
end

section
namespace Sys2Proof.Machine

/-! ### Fields within fields -/

/-- A field that another covers is a part of its value. -/
theorem fld_part {n : Nat} (w : BitVec n) {hi lo hi' lo' : Nat} (h1 : lo ≤ lo') (h2 : hi' ≤ hi) :
    fld w hi' lo' = fld w hi lo / 2 ^ (lo' - lo) % 2 ^ (hi' + 1 - lo') := by
  refine Nat.eq_of_testBit_eq fun i => ?_
  simp only [fld, Nat.testBit_mod_two_pow, Nat.testBit_div_two_pow, Nat.testBit_shiftRight]
  by_cases hlt : i < hi' + 1 - lo'
  · have hin : i + (lo' - lo) < hi + 1 - lo := by omega
    have hat : lo' + i = lo + (i + (lo' - lo)) := by omega
    simp [hlt, hin, hat]
  · simp [hlt]

/-- A part of a written field reads its part of what was written. -/
theorem State.setF_f_part (s : State) (o : Nat) {hi lo hi' lo' : Nat} (v : Nat) (h1 : lo ≤ lo') (h2 : hi' ≤ hi)
    (hle : lo' ≤ hi') (h3 : hi < 32) : (s.setF o hi lo v).f o hi' lo' = v / 2 ^ (lo' - lo) % 2 ^ (hi' + 1 - lo') := by
  rw [State.f, fld_part _ h1 h2, ← State.f, State.setF_f_same _ _ _ (by omega) h3,
    show hi + 1 - lo = (lo' - lo) + (hi + 1 - lo') by omega, Nat.pow_add, Nat.mod_mul_right_div_self,
    Nat.mod_mod_of_dvd _ (Nat.pow_dvd_pow 2 (by omega))]

/-- A counter field holds at its largest value. -/
theorem State.count_f_same (s : State) (o : Nat) {hi lo : Nat} (n : Nat) (h1 : lo ≤ hi) (h2 : hi < 32) :
    (s.count o hi lo n).f o hi lo = min (2 ^ (hi + 1 - lo) - 1) (s.f o hi lo + n) := by
  have := Nat.two_pow_pos (hi + 1 - lo)
  rw [State.count, State.setF_f_same _ _ _ h1 h2, satAdd, Nat.mod_eq_of_lt (by omega)]

theorem State.count_reg_ne (s : State) {o q : Nat} (hi lo n : Nat) (h : q ≠ o) : (s.count o hi lo n).reg q = s.reg q :=
  State.setF_reg_ne _ _ _ _ h

theorem State.count_f_below (s : State) (o : Nat) {hi lo hi' lo' : Nat} (n : Nat) (h1 : lo ≤ hi) (h2 : hi < 32)
    (h : hi' < lo) : (s.count o hi lo n).f o hi' lo' = s.f o hi' lo' := State.setF_f_below _ _ _ h1 h2 h

/-- A one-bit field is 0 or 1. -/
theorem State.f_bit (s : State) (o k : Nat) : s.f o k k < 2 := by
  have := fld_lt (s.reg o) k k
  rwa [show k + 1 - k = 1 by omega] at this

/-! ### A change of the power record alone -/

/-- The state with its power record changed. -/
def State.modPower (s : State) (x : Power → Power) : State := { s with power := x s.power }

@[simp] theorem State.modPower_power (s : State) (x : Power → Power) : (s.modPower x).power = x s.power := rfl
@[simp] theorem State.modPower_reg (s : State) (x : Power → Power) (o : Nat) : (s.modPower x).reg o = s.reg o := rfl
@[simp] theorem State.modPower_f (s : State) (x : Power → Power) (o hi lo : Nat) : (s.modPower x).f o hi lo = s.f o hi lo := rfl
@[simp] theorem State.modPower_pair (s : State) (x : Power → Power) (p : Nat) : (s.modPower x).pair p = s.pair p := rfl
@[simp] theorem State.modPower_tiles (s : State) (x : Power → Power) : (s.modPower x).tiles = s.tiles := rfl
@[simp] theorem State.modPower_parts (s : State) (x : Power → Power) : (s.modPower x).parts = s.parts := rfl
@[simp] theorem State.modPower_pairs (s : State) (x : Power → Power) : (s.modPower x).pairs = s.pairs := rfl
@[simp] theorem State.modPower_mem (s : State) (x : Power → Power) : (s.modPower x).mem = s.mem := rfl
@[simp] theorem State.modPower_timeAcc (s : State) (x : Power → Power) : (s.modPower x).timeAcc = s.timeAcc := rfl

/-! ### What records and the alert output leave -/

namespace State.NotesOnly
variable {s u v : State}

theorem ofRecords (h : s.RecordsOnly u) : s.NotesOnly u := by
  obtain ⟨p, l, m, c, k, rfl, hp⟩ := h
  exact ⟨p, l, m, c, k, s.chip, s.mgmt.ibis, rfl, hp, fun _ _ => rfl⟩

theorem refl (s : State) : s.NotesOnly s := ofRecords (.refl s)

theorem trans (h : s.NotesOnly u) (h' : u.NotesOnly v) : s.NotesOnly v := by
  obtain ⟨p, l, m, c, k, ch, ib, rfl, hp, hr⟩ := h
  obtain ⟨p', l', m', c', k', ch', ib', rfl, hp', hr'⟩ := h'
  exact ⟨p', l', m', c', k', ch', ib', rfl, fun q => (hp q).trans (hp' q), fun o ho => (hr' o ho).trans (hr o ho)⟩

theorem andRecords (h : s.NotesOnly u) (h' : u.RecordsOnly v) : s.NotesOnly v := h.trans (ofRecords h')

theorem alertSync (s : State) : s.NotesOnly s.alertSync := by
  have hset : ∀ w : Word, ∀ o, o ≠ Reg.mbAlert → (s.setReg Reg.mbAlert w).reg o = s.reg o :=
    fun w o ho => State.setReg_reg_ne _ _ ho
  unfold State.alertSync
  simp only []
  repeat' split
  · exact refl s
  · exact ⟨s.pairs, s.logWins, s.hostMem, s.console, s.freeCount, _, _, rfl, fun _ => .refl _, hset _⟩
  · exact ⟨s.pairs, s.logWins, s.hostMem, s.console, s.freeCount, _, s.mgmt.ibis, rfl, fun _ => .refl _, hset _⟩

theorem andAlert (h : s.NotesOnly u) : s.NotesOnly u.alertSync := h.trans (alertSync u)

theorem tiles (h : s.NotesOnly u) : u.tiles = s.tiles := by obtain ⟨_, _, _, _, _, _, _, rfl, -⟩ := h; rfl
theorem parts (h : s.NotesOnly u) : u.parts = s.parts := by obtain ⟨_, _, _, _, _, _, _, rfl, -⟩ := h; rfl
theorem partSys (h : s.NotesOnly u) : u.partSys = s.partSys := by obtain ⟨_, _, _, _, _, _, _, rfl, -⟩ := h; rfl
theorem ports (h : s.NotesOnly u) : u.ports = s.ports := by obtain ⟨_, _, _, _, _, _, _, rfl, -⟩ := h; rfl
theorem power (h : s.NotesOnly u) : u.power = s.power := by obtain ⟨_, _, _, _, _, _, _, rfl, -⟩ := h; rfl
theorem cap (h : s.NotesOnly u) : u.cap = s.cap := by obtain ⟨_, _, _, _, _, _, _, rfl, -⟩ := h; rfl
theorem fw (h : s.NotesOnly u) : u.fw = s.fw := by obtain ⟨_, _, _, _, _, _, _, rfl, -⟩ := h; rfl
theorem mem (h : s.NotesOnly u) : u.mem = s.mem := by obtain ⟨_, _, _, _, _, _, _, rfl, -⟩ := h; rfl
theorem timeAcc (h : s.NotesOnly u) : u.timeAcc = s.timeAcc := by obtain ⟨_, _, _, _, _, _, _, rfl, -⟩ := h; rfl

theorem reg (h : s.NotesOnly u) {o : Nat} (ho : o ≠ Reg.mbAlert) : u.reg o = s.reg o := by
  obtain ⟨_, _, _, _, _, _, _, rfl, -, hr⟩ := h; exact hr o ho

theorem f (h : s.NotesOnly u) {o : Nat} (ho : o ≠ Reg.mbAlert) (hi lo : Nat) : u.f o hi lo = s.f o hi lo := by
  rw [State.f, h.reg ho, State.f]

theorem tile (h : s.NotesOnly u) (t : Nat) : u.tile t = s.tile t := by rw [State.tile, h.tiles, State.tile]

theorem vctlUp (h : s.NotesOnly u) : u.vctlUp = s.vctlUp := by rw [State.vctlUp, h.power, State.vctlUp]

theorem hostUp (h : s.NotesOnly u) : u.hostUp = s.hostUp := by rw [State.hostUp, h.power, h.f (by decide), State.hostUp]

end State.NotesOnly

/-- Cause 8 of MB_ALERT is that the host link has gone down (Table 16.5). -/
theorem alertSync_linkDown {s : State} (hup : s.vctlUp = true) :
    s.alertSync.f Reg.mbAlert 8 8 = b2n s.power.linkDown := by
  have hf : s.alertSync.f Reg.mbAlert 8 8 = (s.setF Reg.mbAlert 8 0 s.alertSources).f Reg.mbAlert 8 8 := by
    unfold State.alertSync
    simp only [hup, Bool.not_true, Bool.false_eq_true, if_false]
    split <;> rfl
  have hpair : (s.pair 0).f Reg.mbStatus 2 2 < 2 := fld_lt _ 2 2
  have hb : b2n s.power.linkDown < 2 := by unfold b2n; split <;> decide
  have h0 := s.f_bit Reg.capThermStat 30
  have h1 := s.f_bit Reg.capCoolStat 29
  have h2 := s.f_bit Reg.capCoolStat 28
  have h3 := s.f_bit Reg.capBudgetStat 28
  have h4 := s.f_bit Reg.capConnLast 31
  have h5 := s.f_bit Reg.capTcycStat 31
  have h6 := s.f_bit Reg.clkStatus 31
  rw [hf, State.setF_f_part _ _ _ (by decide) (by decide) (by decide) (by decide)]
  unfold State.alertSources
  omega

/-! ### References (R402) -/

/-- The reference's OK bit falls, REF_LOST is set, and the loss is logged while VCTL is up. -/
def State.refLost (s : State) (ref : Nat) : State :=
  let sev := if ref = 2 then sevWarn else Config.logSeverity 0x0801 % 5
  let s := (s.setF Reg.clkStatus ref ref 0).setF Reg.clkStatus 31 31 1
  if s.vctlUp then s.log 0x0801 Src.clocks sev chipPart [BitVec.ofNat 32 ref] else s

theorem refLost_records (s : State) (ref : Nat) :
    ((s.setF Reg.clkStatus ref ref 0).setF Reg.clkStatus 31 31 1).RecordsOnly (s.refLost ref) := by
  unfold State.refLost
  simp only []
  split
  · exact .log _ _ _ _ _ _
  · exact .refl _

/-- The bits of CLK_STATUS after a loss. -/
theorem refLost_bits (s : State) {ref : Nat} (href : ref ≤ 2) :
    (s.refLost ref).f Reg.clkStatus ref ref = 0 ∧ (s.refLost ref).f Reg.clkStatus 31 31 = 1 := by
  have hr := (refLost_records s ref).reg Reg.clkStatus
  rw [State.f, State.f, hr]
  refine ⟨?_, ?_⟩
  · rw [← State.f, State.setF_f_below _ _ _ (by decide) (by decide) (by omega),
      State.setF_f_same _ _ _ (Nat.le_refl _) (by omega), Nat.zero_mod]
  · rw [← State.f, State.setF_f_same _ _ _ (by decide) (by decide)]
    rfl

theorem refLoss_eq {s : State} {ref : Nat} (hon : s.power.stage ≠ .off) (href : ref ≤ 2)
    (hok : s.f Reg.clkStatus ref ref = 1) : s.refLoss ref = match ref with
      | 0 => { (((s.refLost 0).aonCause 0x0801 noRail).alertSync.holdDevice) with
          power := { (((s.refLost 0).aonCause 0x0801 noRail).alertSync.holdDevice).power with oscReady := false } }
      | 1 => (s.refLost 1).pcieDown.alertSync
      | _ => ((s.refLost ref).setF Reg.clkStatus 3 3 1).alertSync := by
  unfold State.refLoss State.refLost
  have hlt : ¬ 2 < ref := Nat.not_lt.mpr href
  simp only [hon, hlt, hok, decide_false, Bool.or_self, Bool.false_eq_true, if_false, Nat.one_ne_zero]
  match ref, href with
  | 0, _ => rfl
  | 1, _ => rfl
  | 2, _ => rfl

/-- The host link has gone down: its status clears, and the fall is counted and latched as cause 8 (R420). -/
def State.linkFallen (s : State) : State :=
  (((s.setF Reg.mbPcieStat 9 9 0).setF Reg.mbPcieStat 8 0 0).count Reg.mbPcieStat 31 16 1).modPower
    ({ · with linkDown := true })

theorem linkFallen_reg (s : State) (o : Nat) : s.linkFallen.reg o =
    (((s.setF Reg.mbPcieStat 9 9 0).setF Reg.mbPcieStat 8 0 0).count Reg.mbPcieStat 31 16 1).reg o :=
  State.modPower_reg _ _ o

/-- Beside its status and the latch the fall leaves all. -/
theorem linkFallen_keeps (s : State) : s.linkFallen.power = { s.power with linkDown := true } ∧
    s.linkFallen.tiles = s.tiles ∧ s.linkFallen.parts = s.parts ∧ s.linkFallen.mem = s.mem := by
  unfold State.linkFallen State.count
  rw [State.modPower_power, State.modPower_tiles, State.modPower_parts, State.modPower_mem, State.setF_power,
    State.setF_power, State.setF_power, State.setF_tiles, State.setF_tiles, State.setF_tiles, State.setF_parts,
    State.setF_parts, State.setF_parts, State.setF_mem, State.setF_mem, State.setF_mem]
  exact ⟨rfl, rfl, rfl, rfl⟩

theorem linkFallen_status (s : State) : s.linkFallen.f Reg.mbPcieStat 9 9 = 0 ∧
    s.linkFallen.f Reg.mbPcieStat 31 16 = min 0xFFFF (s.f Reg.mbPcieStat 31 16 + 1) := by
  rw [State.f, State.f, linkFallen_reg, ← State.f, ← State.f]
  refine ⟨?_, ?_⟩
  · rw [State.count_f_below _ _ _ (by decide) (by decide) (by decide),
      State.setF_f_above _ _ _ (by decide) (by decide) (by decide), State.setF_f_same _ _ _ (by decide) (by decide)]
    rfl
  · rw [State.count_f_same _ _ _ (by decide) (by decide), State.setF_f_above _ _ _ (by decide) (by decide) (by decide),
      State.setF_f_above _ _ _ (by decide) (by decide) (by decide)]
    rfl

theorem linkFallen_reg_ne (s : State) {o : Nat} (ho : o ≠ Reg.mbPcieStat) : s.linkFallen.reg o = s.reg o := by
  rw [linkFallen_reg, State.count_reg_ne _ _ _ _ ho, State.setF_reg_ne _ _ _ _ ho, State.setF_reg_ne _ _ _ _ ho]

/-- Beside it the fall is logged. -/
theorem pcieDown_records {s : State} (hlink : s.f Reg.mbPcieStat 9 9 = 1) : s.linkFallen.RecordsOnly s.pcieDown := by
  unfold State.pcieDown
  rw [if_neg (by omega)]
  exact .logOpen _ _ _ _

theorem pcieDown_same {s : State} (hlink : s.f Reg.mbPcieStat 9 9 = 0) : s.pcieDown = s := if_pos hlink

/-- A hold keeps the reference bits of CLK_STATUS. -/
theorem holdDevice_refs (s : State) : s.holdDevice.f Reg.clkStatus 2 0 = s.f Reg.clkStatus 2 0 := by
  have h : s.holdDevice.f Reg.clkStatus 2 0 = (s.deviceClear false).f Reg.clkStatus 2 0 := rfl
  rw [h]
  unfold State.deviceClear
  refine (State.setF_f_same _ _ _ (by decide) (by decide)).trans (Nat.mod_eq_of_lt ?_)
  exact fld_lt _ 2 0

/-- A loss of OSC holds the device with 0x0801 (Table 15.3). -/
theorem refLoss_osc {s u : State} (hon : s.power.stage ≠ .off) (hok : s.f Reg.clkStatus 0 0 = 1) (hu : s.refLoss 0 = u) :
    u.f Reg.clkStatus 0 0 = 0 ∧ u.power.stage = .held ∧ u.power.oscReady = false ∧ u.power.timeOn = s.power.timeOn ∧
      u.timeAcc = s.timeAcc ∧ u.parts = [] ∧ u.reg Reg.capAonCause = (if s.f Reg.capAonCause 31 31 = 1
        then s.reg Reg.capAonCause else BitVec.ofNat 32 (0x0801 + 2 ^ 16 * 0x7FF + 2 ^ 31)) := by
  have hlost := refLost_records s 0
  have hbits := refLost_bits s (Nat.zero_le 2)
  have hreg : (s.refLost 0).reg Reg.capAonCause = s.reg Reg.capAonCause := (hlost.reg _).trans
    ((State.setF_reg_ne _ _ _ _ (by decide)).trans (State.setF_reg_ne _ _ _ _ (by decide)))
  have htime : (s.refLost 0).timeAcc = s.timeAcc := by
    rw [(State.NotesOnly.ofRecords hlost).timeAcc, State.setF_timeAcc, State.setF_timeAcc]
  have hpow : (s.refLost 0).power = s.power := by
    rw [(State.NotesOnly.ofRecords hlost).power, State.setF_power, State.setF_power]
  rw [refLoss_eq hon (Nat.zero_le 2) hok] at hu
  generalize hx : s.refLost 0 = x at *
  obtain ⟨⟨ch, hform⟩, hcause, hother⟩ := aonCause_facts x 0x0801 noRail
  generalize hw : x.aonCause 0x0801 noRail = w at *
  have hsync := State.NotesOnly.alertSync w
  obtain ⟨_, _, _, pw, _, hheld, hkept, -, hstage, -⟩ := holdDevice_facts w.alertSync
  have hrefs := holdDevice_refs w.alertSync
  have hpower : w.alertSync.holdDevice.power.timeOn = w.alertSync.power.timeOn := rfl
  subst hu
  refine ⟨?_, ?_, rfl, ?_, ?_, rfl, ?_⟩
  · have h0 : w.alertSync.f Reg.clkStatus 0 0 = 0 := by
      rw [hsync.f (by decide), State.f, hother _ (by decide), ← State.f]
      exact hbits.1
    show w.alertSync.holdDevice.f Reg.clkStatus 0 0 = 0
    rw [State.f, fld_part _ (Nat.le_refl 0) (by decide : 0 ≤ 2), ← State.f, hrefs, State.f,
      ← fld_part _ (Nat.le_refl 0) (by decide : 0 ≤ 2)]
    exact h0
  · exact (congrArg (fun v => v.power.stage) hheld).trans hstage
  · exact hpower.trans (by rw [hsync.power, hform, hpow])
  · show w.alertSync.timeAcc = _
    rw [hsync.timeAcc, hform]
    exact htime
  · show w.alertSync.holdDevice.reg _ = _
    rw [hheld]
    refine hkept.trans ?_
    rw [hsync.reg (by decide), hcause, State.f, hreg, ← State.f]

/-- What stays beside the registers of the loss. -/
theorem refLost_keeps (s : State) (ref : Nat) : (s.refLost ref).tiles = s.tiles ∧ (s.refLost ref).parts = s.parts ∧
    (s.refLost ref).ports = s.ports ∧ (s.refLost ref).power = s.power ∧
    ∀ o, o ≠ Reg.clkStatus → (s.refLost ref).reg o = s.reg o := by
  have hlost := refLost_records s ref
  have hn := State.NotesOnly.ofRecords hlost
  refine ⟨?_, ?_, ?_, ?_, fun o ho => ?_⟩
  · rw [hn.tiles, State.setF_tiles, State.setF_tiles]
  · rw [hn.parts, State.setF_parts, State.setF_parts]
  · rw [hn.ports, State.setF_ports, State.setF_ports]
  · rw [hn.power, State.setF_power, State.setF_power]
  · rw [hlost.reg, State.setF_reg_ne _ _ _ _ ho, State.setF_reg_ne _ _ _ _ ho]

/-- What the fall of the host link leaves, whether or not it was up. -/
theorem pcieDown_facts (s : State) : s.pcieDown.f Reg.mbPcieStat 9 9 = 0 ∧
    (s.f Reg.mbPcieStat 9 9 = 1 → s.pcieDown.power = { s.power with linkDown := true } ∧
      s.pcieDown.f Reg.mbPcieStat 31 16 = min 0xFFFF (s.f Reg.mbPcieStat 31 16 + 1)) ∧
    s.pcieDown.tiles = s.tiles ∧ s.pcieDown.parts = s.parts ∧ s.pcieDown.mem = s.mem ∧
    ∀ o, o ≠ Reg.mbPcieStat → s.pcieDown.reg o = s.reg o := by
  have hbit := s.f_bit Reg.mbPcieStat 9
  by_cases hlink : s.f Reg.mbPcieStat 9 9 = 1
  · have hr := pcieDown_records hlink
    have hn := State.NotesOnly.ofRecords hr
    obtain ⟨hst, hcnt⟩ := linkFallen_status s
    obtain ⟨hpower, htiles, hparts, hmem⟩ := linkFallen_keeps s
    refine ⟨?_, fun _ => ⟨hn.power.trans hpower, ?_⟩, hn.tiles.trans htiles, hn.parts.trans hparts, hn.mem.trans hmem,
      fun o ho => ?_⟩
    · rw [State.f, hr.reg, ← State.f, hst]
    · rw [State.f, hr.reg, ← State.f, hcnt]
    · rw [hr.reg, linkFallen_reg_ne s ho]
  · rw [pcieDown_same (by omega)]
    exact ⟨by omega, fun h => absurd h hlink, rfl, rfl, rfl, fun _ _ => rfl⟩

/-- A loss of PCIE_REFCLK takes the host link down (Table 15.3). -/
theorem refLoss_pcie {s u : State} (hon : s.power.stage ≠ .off) (hok : s.f Reg.clkStatus 1 1 = 1) (hu : s.refLoss 1 = u) :
    u.f Reg.clkStatus 1 1 = 0 ∧ u.f Reg.clkStatus 31 31 = 1 ∧ u.f Reg.mbPcieStat 9 9 = 0 ∧
      (s.f Reg.mbPcieStat 9 9 = 1 → u.power = { s.power with linkDown := true }) ∧ u.tiles = s.tiles ∧
      u.parts = s.parts := by
  obtain ⟨hbit, hlostBit⟩ := refLost_bits s (by decide : 1 ≤ 2)
  obtain ⟨htiles, hparts, -, hpower, hregs⟩ := refLost_keeps s 1
  obtain ⟨hdown, hlink, hdtiles, hdparts, -, hdregs⟩ := pcieDown_facts (s.refLost 1)
  have hsync := State.NotesOnly.alertSync (s.refLost 1).pcieDown
  have hu' : (s.refLost 1).pcieDown.alertSync = u := (refLoss_eq hon (by decide) hok).symm.trans hu
  rw [hu'] at hsync
  have hclk : ∀ hi lo, u.f Reg.clkStatus hi lo = (s.refLost 1).f Reg.clkStatus hi lo := fun hi lo => by
    rw [hsync.f (by decide), State.f, hdregs _ (by decide), State.f]
  refine ⟨(hclk 1 1).trans hbit, (hclk 31 31).trans hlostBit, (hsync.f (by decide) 9 9).trans hdown, fun h => ?_,
    hsync.tiles.trans (hdtiles.trans htiles), hsync.parts.trans (hdparts.trans hparts)⟩
  have hup : (s.refLost 1).f Reg.mbPcieStat 9 9 = 1 := by rw [State.f, hregs _ (by decide), ← State.f, h]
  rw [hsync.power, (hlink hup).1, hpower]

/-- A loss of FAB_REFCLK switches the fabric to its fallback (Table 15.3). -/
theorem refLoss_fabric {s u : State} (hon : s.power.stage ≠ .off) (hok : s.f Reg.clkStatus 2 2 = 1)
    (hu : s.refLoss 2 = u) : u.f Reg.clkStatus 2 2 = 0 ∧ u.f Reg.clkStatus 31 31 = 1 ∧ u.f Reg.clkStatus 3 3 = 1 ∧
      u.power = s.power ∧ u.ports = s.ports ∧ u.tiles = s.tiles ∧ u.parts = s.parts := by
  obtain ⟨hbit, hlostBit⟩ := refLost_bits s (Nat.le_refl 2)
  obtain ⟨htiles, hparts, hports, hpower, -⟩ := refLost_keeps s 2
  have hu' : ((s.refLost 2).setF Reg.clkStatus 3 3 1).alertSync = u := (refLoss_eq hon (by decide) hok).symm.trans hu
  have hsync := State.NotesOnly.alertSync ((s.refLost 2).setF Reg.clkStatus 3 3 1)
  rw [hu'] at hsync
  refine ⟨?_, ?_, ?_, hsync.power.trans hpower, hsync.ports.trans hports, hsync.tiles.trans htiles,
    hsync.parts.trans hparts⟩
  · rw [hsync.f (by decide), State.setF_f_below _ _ _ (by decide) (by decide) (by decide), hbit]
  · rw [hsync.f (by decide), State.setF_f_above _ _ _ (by decide) (by decide) (by decide), hlostBit]
  · rw [hsync.f (by decide), State.setF_f_same _ _ _ (by decide) (by decide)]
    rfl

/-- A restored OSC is ready again, without ending the hold. -/
theorem refRestore_osc {s : State} (hon : s.power.stage ≠ .off) (htime : s.power.timeOn = true)
    (hlost : s.power.oscReady = false) (hosc : s.power.stage ≠ .osc) : s.refRestore 0 =
      (s.setF Reg.clkStatus 0 0 1).modPower ({ · with oscReady := true }) := by
  simp [State.refRestore, State.oscReady, State.modPower, hon, htime, hlost, hosc]

theorem refRestore_other {s : State} {ref : Nat} (hon : s.power.stage ≠ .off) (href : ref = 1 ∨ ref = 2) :
    s.refRestore ref = s.setF Reg.clkStatus ref ref 1 := by
  have hlt : ¬ 2 < ref := by omega
  have hne : ref ≠ 0 := by omega
  simp [State.refRestore, hon, hlt, hne]

/-! ### Chip time (R403 to R408) -/

/-- The grandmaster bit as a number. -/
theorem isGm_iff (s : State) : s.isGm = true ↔ s.f Reg.clkTimeCfg 0 0 = 1 := by simp [State.isGm]

theorem timeTick_eq {s : State} (hon : s.power.timeOn = true) : s.timeTick = { s with
    ticks := s.ticks + 1
    timeAcc := (s.timeAcc + (2 ^ 33 * (10 ^ 9 + (if s.f Reg.clkTimeCfg 0 0 = 1 then 0
      else toSigned 32 (s.reg Reg.clkTimeFreq).toNat)) / 10 ^ 9 : Int).toNat) % 2 ^ 96 } := by
  simp only [State.timeTick, hon, Bool.not_true, Bool.false_eq_true, if_false, isGm_iff]
  rfl

/-- A write of Root or of the host's physical function reaches CLK_TIME_SET_HI. -/
theorem chipReg_timeSet {s : State} {a : Agent} (ha : a = .pf ∨ a = .root) (hup : s.agentUp a = true) (hi : Word) :
    s.chipReg a Reg.clkTimeSetHi hi = s.timeSet hi := by
  have hplace : portPlace Reg.clkTimeSetHi = none := rfl
  obtain ⟨r, hrow⟩ : ∃ r, chipRow? Reg.clkTimeSetHi = some r := ⟨_, rfl⟩
  have hclock : pfClock Reg.clkTimeSetHi = true := rfl
  obtain rfl | rfl := ha <;>
    simp [State.chipReg, State.reach, hup, State.asAgent, State.chipWrite, mayChip, hplace, hrow, hclock]

/-- On a chip that is no grandmaster the write only stores. -/
theorem timeSet_stores {s : State} (hi : Word) (h : s.f Reg.clkTimeCfg 0 0 = 0) :
    s.timeSet hi = s.setReg Reg.clkTimeSetHi hi := by
  have hgm : (s.setReg Reg.clkTimeSetHi hi).isGm = false := by
    rw [State.isGm, State.f, State.setReg_reg_ne _ _ (by decide), ← State.f, h]
    rfl
  simp only [State.timeSet, hgm, Bool.not_false, if_true]

/-- The chip has been set as grandmaster (R405). -/
def State.markGm (s : State) : State := { s with gmSet := true }

theorem markGm_reg (s : State) (o : Nat) : s.markGm.reg o = s.reg o := rfl
theorem markGm_time (s : State) : s.markGm.time = s.time := rfl
theorem markGm_tiles (s : State) : s.markGm.tiles = s.tiles := rfl
theorem markGm_parts (s : State) : s.markGm.parts = s.parts := rfl

theorem putTime_reg (s : State) (ns o : Nat) : (s.putTime ns).reg o = s.reg o := rfl
theorem putTime_tiles (s : State) (ns : Nat) : (s.putTime ns).tiles = s.tiles := rfl
theorem putTime_parts (s : State) (ns : Nat) : (s.putTime ns).parts = s.parts := rfl

/-- A grandmaster's step of chip time to ns (R404, R407). -/
def State.gmStepped (s : State) (ns : Nat) : State := (s.putTime ns).countStep.markGm

theorem putTime_time (s : State) (ns : Nat) : (s.putTime ns).time = ns % 2 ^ 64 := by
  simp only [State.time, State.putTime]
  omega

theorem gmStepped_facts (s : State) (ns : Nat) : (s.gmStepped ns).time = ns % 2 ^ 64 ∧ (s.gmStepped ns).gmSet = true ∧
    (s.gmStepped ns).f Reg.clkTimeSteps 15 0 = min 0xFFFF (s.f Reg.clkTimeSteps 15 0 + 1) ∧
    (∀ o, o ≠ Reg.clkTimeSteps → (s.gmStepped ns).reg o = s.reg o) ∧ (s.gmStepped ns).tiles = s.tiles ∧
    (s.gmStepped ns).parts = s.parts := by
  unfold State.gmStepped State.countStep
  refine ⟨?_, rfl, ?_, fun o ho => ?_, ?_, ?_⟩
  · rw [markGm_time, State.time, State.count, State.setF_timeAcc, ← State.time, putTime_time]
  · rw [State.f, markGm_reg, ← State.f, State.count_f_same _ _ _ (by decide) (by decide), State.f, putTime_reg, ← State.f]
    rfl
  · rw [markGm_reg, State.count_reg_ne _ _ _ _ ho, putTime_reg]
  · rw [markGm_tiles, State.count, State.setF_tiles, putTime_tiles]
  · rw [markGm_parts, State.count, State.setF_parts, putTime_parts]

/-- A grandmaster that has been set is SYNCED at stratum 0 (R405, R408). -/
theorem restrata_gm {s : State} (hgm : s.isGm = true) (hset : s.gmSet = true) : s.restrata =
    ((s.setF Reg.clkStatus 23 16 0).setF Reg.clkStatus 27 24 15).setF Reg.clkStatus 8 8 1 := by
  simp only [State.restrata, hgm, hset, Bool.and_self, if_true]

theorem timeSet_steps {s : State} {hi : Word} (hgm : (s.setReg Reg.clkTimeSetHi hi).isGm = true)
    (hlo : (s.setReg Reg.clkTimeSetHi hi).reg Reg.clkTimeSetLo = s.reg Reg.clkTimeSetLo) :
    s.timeSet hi = ((s.setReg Reg.clkTimeSetHi hi).gmStepped
      ((s.reg Reg.clkTimeSetLo).toNat + 2 ^ 32 * hi.toNat)).restrata := by
  simp only [State.timeSet, hgm, hlo, Bool.not_true, Bool.false_eq_true, if_false]
  rfl

/-- On a grandmaster the write sets chip time, as a step. -/
theorem timeSet_gm {s u : State} {hi : Word} (h : s.f Reg.clkTimeCfg 0 0 = 1) (hu : s.timeSet hi = u) :
    u.reg Reg.clkTimeSetHi = hi ∧ u.time = (s.reg Reg.clkTimeSetLo).toNat + 2 ^ 32 * hi.toNat ∧ u.gmSet = true ∧
      u.f Reg.clkTimeSteps 15 0 = min 0xFFFF (s.f Reg.clkTimeSteps 15 0 + 1) ∧ u.f Reg.clkStatus 8 8 = 1 ∧
      u.f Reg.clkStatus 23 16 = 0 ∧ u.f Reg.clkStatus 27 24 = 15 ∧ u.tiles = s.tiles ∧ u.parts = s.parts := by
  have hcfg : ∀ v : State, v.reg Reg.clkTimeCfg = s.reg Reg.clkTimeCfg → v.isGm = true := fun v hv => by
    rw [isGm_iff, State.f, hv, ← State.f, h]
  have hgm : (s.setReg Reg.clkTimeSetHi hi).isGm = true := hcfg _ (State.setReg_reg_ne _ _ (by decide))
  have hlo : (s.setReg Reg.clkTimeSetHi hi).reg Reg.clkTimeSetLo = s.reg Reg.clkTimeSetLo :=
    State.setReg_reg_ne _ _ (by decide)
  have hstep := timeSet_steps hgm hlo
  obtain ⟨htime, hset, hsteps, hregs, htiles, hparts⟩ := gmStepped_facts (s.setReg Reg.clkTimeSetHi hi)
    ((s.reg Reg.clkTimeSetLo).toNat + 2 ^ 32 * hi.toNat)
  rw [State.setReg_tiles] at htiles
  rw [State.setReg_parts] at hparts
  generalize (s.setReg Reg.clkTimeSetHi hi).gmStepped ((s.reg Reg.clkTimeSetLo).toNat + 2 ^ 32 * hi.toNat) = v at *
  have hvgm : v.isGm = true := hcfg v ((hregs _ (by decide)).trans (State.setReg_reg_ne _ _ (by decide)))
  have hu' : u = ((v.setF Reg.clkStatus 23 16 0).setF Reg.clkStatus 27 24 15).setF Reg.clkStatus 8 8 1 := by
    rw [← hu, ← restrata_gm hvgm hset, hstep]
  have hmod : ((s.reg Reg.clkTimeSetLo).toNat + 2 ^ 32 * hi.toNat) % 2 ^ 64 =
      (s.reg Reg.clkTimeSetLo).toNat + 2 ^ 32 * hi.toNat := by
    have h1 := (s.reg Reg.clkTimeSetLo).isLt
    have h2 := hi.isLt
    omega
  have hother : ∀ o, o ≠ Reg.clkStatus → u.reg o = v.reg o := fun o ho => by
    rw [hu', State.setF_reg_ne _ _ _ _ ho, State.setF_reg_ne _ _ _ _ ho, State.setF_reg_ne _ _ _ _ ho]
  refine ⟨?_, ?_, ?_, ?_, ?_, ?_, ?_, ?_, ?_⟩
  · rw [hother _ (by decide), hregs _ (by decide), State.setReg_reg_same]
  · refine Eq.trans ?_ (htime.trans hmod)
    rw [State.time, hu', State.setF_timeAcc, State.setF_timeAcc, State.setF_timeAcc, ← State.time]
  · rw [hu', State.setF_gmSet, State.setF_gmSet, State.setF_gmSet, hset]
  · rw [State.f, hother _ (by decide), ← State.f, hsteps, State.f, State.setReg_reg_ne _ _ (by decide), ← State.f]
  · rw [hu', State.setF_f_same _ _ _ (by decide) (by decide)]
    rfl
  · rw [hu', State.setF_f_above _ _ _ (by decide) (by decide) (by decide),
      State.setF_f_below _ _ _ (by decide) (by decide) (by decide), State.setF_f_same _ _ _ (by decide) (by decide)]
    rfl
  · rw [hu', State.setF_f_above _ _ _ (by decide) (by decide) (by decide), State.setF_f_same _ _ _ (by decide) (by decide)]
    rfl
  · rw [hu', State.setF_tiles, State.setF_tiles, State.setF_tiles, htiles]
  · rw [hu', State.setF_parts, State.setF_parts, State.setF_parts, hparts]

/-- The chip runs freely: its run of mean offsets within 500 ns ends (R408). -/
def State.unsteered (s : State) : State := { s with syncRun := 0 }

/-- The bits of CLK_STATUS of a chip without an upstream port (Table 15.6). -/
def State.unsynced (s : State) : State :=
  ((s.setF Reg.clkStatus 8 8 0).setF Reg.clkStatus 23 16 255).setF Reg.clkStatus 27 24 15

theorem unsynced_facts (s : State) : s.unsynced.f Reg.clkStatus 8 8 = 0 ∧ s.unsynced.f Reg.clkStatus 23 16 = 255 ∧
    s.unsynced.f Reg.clkStatus 27 24 = 15 ∧ s.unsynced.timeAcc = s.timeAcc ∧
    ∀ o, o ≠ Reg.clkStatus → s.unsynced.reg o = s.reg o := by
  unfold State.unsynced
  refine ⟨?_, ?_, ?_, ?_, fun o ho => ?_⟩
  · rw [State.setF_f_below _ _ _ (by decide) (by decide) (by decide),
      State.setF_f_below _ _ _ (by decide) (by decide) (by decide), State.setF_f_same _ _ _ (by decide) (by decide)]
    rfl
  · rw [State.setF_f_below _ _ _ (by decide) (by decide) (by decide), State.setF_f_same _ _ _ (by decide) (by decide)]
    rfl
  · rw [State.setF_f_same _ _ _ (by decide) (by decide)]
    rfl
  · rw [State.setF_timeAcc, State.setF_timeAcc, State.setF_timeAcc]
  · rw [State.setF_reg_ne _ _ _ _ ho, State.setF_reg_ne _ _ _ _ ho, State.setF_reg_ne _ _ _ _ ho]

theorem unsteered_facts (s : State) : s.unsteered.syncRun = 0 ∧ s.unsteered.timeAcc = s.timeAcc ∧
    (∀ o, s.unsteered.reg o = s.reg o) ∧ ∀ o hi lo, s.unsteered.f o hi lo = s.f o hi lo :=
  ⟨rfl, rfl, fun _ => rfl, fun _ _ _ => rfl⟩

/-- One second without an exchange clears SYNCED (R408). -/
theorem syncLoss_eq {s : State} (hgm : s.f Reg.clkTimeCfg 0 0 = 0 ∨ s.gmSet = false)
    (hlate : s.syncAt + 500000000 ≤ s.ticks) : s.syncLoss = s.unsynced.unsteered := by
  have hfree : (s.isGm && s.gmSet) = false := by
    obtain h | h := hgm
    · simp [State.isGm, h]
    · simp [h]
  simp only [State.syncLoss, hfree, decide_eq_false (Nat.not_lt.mpr hlate), Bool.or_self, Bool.false_eq_true, if_false]
  rfl

/-! ### The host link (R420, R439) -/

/-- The link of a host that is up. -/
theorem hostUp_iff (s : State) : s.hostUp = true ↔ s.power.stage = .rom ∧ s.f Reg.mbPcieStat 9 9 = 1 := by
  simp [State.hostUp]

theorem hostUp_vctl {s : State} (h : s.hostUp = true) : s.vctlUp = true := by
  simp [State.vctlUp, ((hostUp_iff s).mp h).1]

/-- The host link goes down, counted and latched. -/
theorem pcieDown_alerts {s u : State} (hup : s.hostUp = true) (hu : s.pcieDown.alertSync = u) :
    u.f Reg.mbPcieStat 9 9 = 0 ∧ u.power = { s.power with linkDown := true } ∧
      u.f Reg.mbPcieStat 31 16 = min 0xFFFF (s.f Reg.mbPcieStat 31 16 + 1) ∧ u.hostUp = false ∧
      u.f Reg.mbAlert 8 8 = 1 ∧ u.tiles = s.tiles ∧ u.parts = s.parts ∧ u.mem = s.mem := by
  obtain ⟨hstage, hlink⟩ := (hostUp_iff s).mp hup
  obtain ⟨hdown, hfell, htiles, hparts, hmem, -⟩ := pcieDown_facts s
  obtain ⟨hpower, hcnt⟩ := hfell hlink
  have hvctl : s.pcieDown.vctlUp = true := by rw [State.vctlUp, hpower, ← State.vctlUp, hostUp_vctl hup]
  have halert := alertSync_linkDown hvctl
  have hsync := State.NotesOnly.alertSync s.pcieDown
  rw [hu] at hsync halert
  have hst : u.f Reg.mbPcieStat 9 9 = 0 := (hsync.f (by decide) 9 9).trans hdown
  refine ⟨hst, hsync.power.trans hpower, (hsync.f (by decide) 31 16).trans hcnt, ?_, ?_, hsync.tiles.trans htiles,
    hsync.parts.trans hparts, hsync.mem.trans hmem⟩
  · simp [State.hostUp, hst]
  · rw [halert, hpower]
    rfl

theorem perst_eq {s : State} (hup : s.hostUp = true) (hreset : s.power.resetLow = false) :
    s.perst = s.pcieDown.alertSync := by simp [State.perst, hup, hreset]

theorem pcieLinkDown_falls {s : State} {sp w : Nat} (hup : s.hostUp = true) (h : sp = 0 ∨ w = 0) :
    s.pcieLinkDown sp w = s.pcieDown.alertSync := by
  simp [State.pcieLinkDown, hup, h]

/-- The link retrains to a lower rate or width: its status follows, and the change is counted (R420). -/
theorem pcieLinkDown_lower {s u : State} {sp w : Nat} (hup : s.hostUp = true) (hsp : sp ≠ 0) (hw : w ≠ 0)
    (hspeed : sp ≤ s.f Reg.mbPcieStat 3 0) (hwidth : w ≤ s.f Reg.mbPcieStat 8 4)
    (hlower : ¬(sp = s.f Reg.mbPcieStat 3 0 ∧ w = s.f Reg.mbPcieStat 8 4)) (hu : s.pcieLinkDown sp w = u) :
    u.f Reg.mbPcieStat 3 0 = sp ∧ u.f Reg.mbPcieStat 8 4 = w ∧
      u.f Reg.mbPcieStat 31 16 = min 0xFFFF (s.f Reg.mbPcieStat 31 16 + 1) ∧ u.hostUp = true ∧ u.power = s.power ∧
      u.tiles = s.tiles ∧ u.parts = s.parts := by
  have hr : (((s.setF Reg.mbPcieStat 3 0 sp).setF Reg.mbPcieStat 8 4 w).count Reg.mbPcieStat 31 16 1).RecordsOnly u := by
    rw [← hu, State.pcieLinkDown, hup]
    simp only [hsp, hw, decide_false, Bool.or_self, Bool.not_true, Bool.false_eq_true, if_false]
    rw [if_pos]
    · exact .logOpen _ _ _ _
    · simp only [Bool.or_eq_true, Bool.and_eq_true, decide_eq_true_eq]
      omega
  have hspeedLt := fld_lt (s.reg Reg.mbPcieStat) 3 0
  have hwidthLt := fld_lt (s.reg Reg.mbPcieStat) 8 4
  rw [← State.f] at hspeedLt hwidthLt
  have hreg : ∀ hi lo, u.f Reg.mbPcieStat hi lo =
      (((s.setF Reg.mbPcieStat 3 0 sp).setF Reg.mbPcieStat 8 4 w).count Reg.mbPcieStat 31 16 1).f Reg.mbPcieStat hi lo :=
    fun hi lo => by rw [State.f, hr.reg, State.f]
  have hn := State.NotesOnly.ofRecords hr
  unfold State.count at hn
  have hpower : u.power = s.power := by rw [hn.power, State.setF_power, State.setF_power, State.setF_power]
  refine ⟨?_, ?_, ?_, ?_, hpower, ?_, ?_⟩
  · rw [hreg, State.count_f_below _ _ _ (by decide) (by decide) (by decide),
      State.setF_f_below _ _ _ (by decide) (by decide) (by decide), State.setF_f_same _ _ _ (by decide) (by decide)]
    exact Nat.mod_eq_of_lt (by omega)
  · rw [hreg, State.count_f_below _ _ _ (by decide) (by decide) (by decide), State.setF_f_same _ _ _ (by decide) (by decide)]
    exact Nat.mod_eq_of_lt (by omega)
  · rw [hreg, State.count_f_same _ _ _ (by decide) (by decide), State.setF_f_above _ _ _ (by decide) (by decide) (by decide),
      State.setF_f_above _ _ _ (by decide) (by decide) (by decide)]
    rfl
  · rw [hostUp_iff, hpower, hreg, State.count_f_below _ _ _ (by decide) (by decide) (by decide),
      State.setF_f_above _ _ _ (by decide) (by decide) (by decide),
      State.setF_f_above _ _ _ (by decide) (by decide) (by decide)]
    exact (hostUp_iff s).mp hup
  · rw [hn.tiles, State.setF_tiles, State.setF_tiles, State.setF_tiles]
  · rw [hn.parts, State.setF_parts, State.setF_parts, State.setF_parts]

/-- Cause 8 ends as the link comes up. -/
theorem pcieLinkUp_eq {s : State} {sp w : Nat} (hup : s.vctlUp = true) (href : s.f Reg.clkStatus 1 1 = 1)
    (hlink : s.f Reg.mbPcieStat 9 9 = 0) (hsp : 1 ≤ sp) (hsp' : sp ≤ 6) (hw : 1 ≤ w) (hw' : w ≤ 16) : s.pcieLinkUp sp w =
      ((((s.setF Reg.mbPcieStat 3 0 sp).setF Reg.mbPcieStat 8 4 w).setF Reg.mbPcieStat 9 9 1).modPower
        ({ · with linkDown := false })).alertSync := by
  have h1 : sp ≠ 0 := by omega
  have h2 : ¬ 6 < sp := by omega
  have h3 : w ≠ 0 := by omega
  have h4 : ¬ 16 < w := by omega
  simp only [State.pcieLinkUp, hup, href, hlink, h1, h2, h3, h4, decide_false, Bool.or_self, Bool.not_true,
    Bool.false_eq_true, if_false, Nat.one_ne_zero, Nat.zero_ne_one]
  rfl

/-- The link comes up with its rate and width. -/
theorem pcieLinkUp_facts {s u : State} {sp w : Nat} (hup : s.vctlUp = true) (href : s.f Reg.clkStatus 1 1 = 1)
    (hlink : s.f Reg.mbPcieStat 9 9 = 0) (hsp : 1 ≤ sp) (hsp' : sp ≤ 6) (hw : 1 ≤ w) (hw' : w ≤ 16)
    (hu : s.pcieLinkUp sp w = u) : u.f Reg.mbPcieStat 3 0 = sp ∧ u.f Reg.mbPcieStat 8 4 = w ∧ u.hostUp = true ∧
      u.power = { s.power with linkDown := false } ∧ u.f Reg.mbAlert 8 8 = 0 ∧ u.tiles = s.tiles ∧ u.parts = s.parts := by
  rw [pcieLinkUp_eq hup href hlink hsp hsp' hw hw'] at hu
  generalize hv : (((s.setF Reg.mbPcieStat 3 0 sp).setF Reg.mbPcieStat 8 4 w).setF Reg.mbPcieStat 9 9 1).modPower
    ({ · with linkDown := false }) = v at hu
  have hreg : ∀ hi lo, v.f Reg.mbPcieStat hi lo =
      (((s.setF Reg.mbPcieStat 3 0 sp).setF Reg.mbPcieStat 8 4 w).setF Reg.mbPcieStat 9 9 1).f Reg.mbPcieStat hi lo :=
    fun hi lo => by rw [State.f, ← hv, State.modPower_reg, State.f]
  have hpower : v.power = { s.power with linkDown := false } := by
    rw [← hv, State.modPower_power, State.setF_power, State.setF_power, State.setF_power]
  have hstage : s.power.stage = .rom := by simpa [State.vctlUp] using hup
  have hvctl : v.vctlUp = true := by simp [State.vctlUp, hpower, hstage]
  have halert := alertSync_linkDown hvctl
  have hsync := State.NotesOnly.alertSync v
  rw [hu] at hsync halert
  refine ⟨?_, ?_, ?_, hsync.power.trans hpower, ?_, ?_, ?_⟩
  · rw [hsync.f (by decide), hreg, State.setF_f_below _ _ _ (by decide) (by decide) (by decide),
      State.setF_f_below _ _ _ (by decide) (by decide) (by decide), State.setF_f_same _ _ _ (by decide) (by decide)]
    exact Nat.mod_eq_of_lt (by omega)
  · rw [hsync.f (by decide), hreg, State.setF_f_below _ _ _ (by decide) (by decide) (by decide),
      State.setF_f_same _ _ _ (by decide) (by decide)]
    exact Nat.mod_eq_of_lt (by omega)
  · rw [hsync.hostUp, hostUp_iff, hpower, hreg, State.setF_f_same _ _ _ (by decide) (by decide)]
    exact ⟨hstage, rfl⟩
  · rw [halert, hpower]
    rfl
  · rw [hsync.tiles, ← hv, State.modPower_tiles, State.setF_tiles, State.setF_tiles, State.setF_tiles]
  · rw [hsync.parts, ← hv, State.modPower_parts, State.setF_parts, State.setF_parts, State.setF_parts]

end Sys2Proof.Machine
end

section
open Sys2Proof Sys2Proof.Machine

/-- Settles O57: the losses by reference, chip time by the write and the tick, the host link by its events. -/
theorem referencesTimeAndHostLink : Obligations.ReferencesTimeAndHostLink := by
  refine ⟨⟨fun s ref hon href hok => ?_, fun s ref hon => ⟨fun href => ?_, fun href htime hlost hosc => ?_⟩⟩,
    ⟨fun s hon => congrArg Host.Outcome.next (timeTick_eq hon), fun s a hi ha hup => ?_,
      fun s hup hgm hlate => ?_⟩,
    fun s hup c hc => ?_, fun s sp w hup hsp hw hspeed hwidth hlower => ?_, fun s sp w hup href hlink h1 h2 h3 h4 => ?_⟩
  · refine ⟨_, rfl, ?_⟩
    have hcases : ref = 0 ∨ ref = 1 ∨ ref = 2 := by omega
    obtain rfl | rfl | rfl := hcases
    · obtain ⟨hbit, hrest⟩ := refLoss_osc hon hok rfl
      exact ⟨hbit, fun _ => hrest, fun h => absurd h (by decide), fun h => absurd h (by decide)⟩
    · obtain ⟨hbit, hrest⟩ := refLoss_pcie hon hok rfl
      exact ⟨hbit, fun h => absurd h (by decide), fun _ => hrest, fun h => absurd h (by decide)⟩
    · obtain ⟨hbit, hrest⟩ := refLoss_fabric hon hok rfl
      exact ⟨hbit, fun h => absurd h (by decide), fun h => absurd h (by decide), fun _ => hrest⟩
  · refine ⟨_, congrArg Host.Outcome.next (refRestore_other hon href), ?_, rfl, fun o ho => State.setF_reg_ne _ _ _ _ ho, rfl⟩
    rw [State.setF_f_same _ _ _ (Nat.le_refl _) (by omega), show ref + 1 - ref = 1 by omega]
    rfl
  · subst href
    refine ⟨_, congrArg Host.Outcome.next (refRestore_osc hon htime hlost hosc), ?_, rfl, ?_, ?_⟩
    · rw [State.modPower_f, State.setF_f_same _ _ _ (by decide) (by decide)]
      rfl
    · rw [State.modPower_timeAcc, State.setF_timeAcc]
    · rw [State.modPower_tiles, State.setF_tiles]
  · refine ⟨_, congrArg Host.Outcome.next (chipReg_timeSet ha hup hi), ?_⟩
    have hbit := s.f_bit Reg.clkTimeCfg 0
    by_cases hgm : s.f Reg.clkTimeCfg 0 0 = 1
    · obtain ⟨hhi, htime, hset, hsteps, hsync, hstr, hport, htiles, hparts⟩ := timeSet_gm hgm rfl
      exact ⟨hhi, fun h => absurd (h.symm.trans hgm) (by decide), fun _ => ⟨htime, hset, hsteps, hsync, hstr, hport⟩,
        htiles, hparts⟩
    · rw [timeSet_stores hi (by omega)]
      exact ⟨State.setReg_reg_same _ _ _, fun _ => ⟨State.setReg_timeAcc _ _ _, State.setReg_gmSet _ _ _,
        State.setReg_reg_ne _ _ (by decide)⟩, fun h => absurd h hgm, State.setReg_tiles _ _ _, State.setReg_parts _ _ _⟩
  · refine ⟨_, congrArg Host.Outcome.next ((if_pos hup).trans (syncLoss_eq hgm hlate)), ?_⟩
    obtain ⟨hsync, hstr, hport, htime, hregs⟩ := unsynced_facts s
    obtain ⟨hrun, hutime, huregs, huf⟩ := unsteered_facts s.unsynced
    simp only [hrun, hutime, huregs, huf]
    exact ⟨hsync, hstr, hport, trivial, htime, hregs⟩
  · obtain ⟨rfl, hreset⟩ | ⟨sp, w, rfl, hzero⟩ := hc
    · exact ⟨_, congrArg Host.Outcome.next (perst_eq hup hreset), pcieDown_alerts hup rfl⟩
    · exact ⟨_, congrArg Host.Outcome.next (pcieLinkDown_falls hup hzero), pcieDown_alerts hup rfl⟩
  · exact ⟨_, rfl, pcieLinkDown_lower hup hsp hw hspeed hwidth hlower rfl⟩
  · exact ⟨_, rfl, pcieLinkUp_facts hup href hlink h1 h2 h3 h4 rfl⟩
end

section
namespace Sys2Proof.Machine

/-! ### The reset of the device (R410, Table 13.1) -/

/-- What a table reads after a selection of its keys: the entry of a selected key, and elsewhere the default. -/
theorem tabGet_selected {α : Type} (d : Nat → α) (m : Tab α) (p : Nat → Bool) (k : Nat) :
    tabGet d (m.filter (fun x => p x.1)) k = if p k = true then tabGet d m k else d k := by
  induction m with
  | nil => simp [tabGet]
  | cons x l ih =>
    obtain ⟨j, v⟩ := x
    by_cases hk : k = j
    · subst hk
      by_cases hp : p k = true
      · simp [hp, tabGet]
      · rw [List.filter_cons_of_neg (by simpa using hp), ih]
        simp [hp]
    · by_cases hp : p j = true
      · rw [List.filter_cons_of_pos (by simpa using hp)]
        simp only [tabGet, hk, if_false]
        exact ih
      · rw [List.filter_cons_of_neg (by simpa using hp), ih]
        simp only [tabGet, hk, if_false]

/-- The registers that a reset with every rail off keeps. -/
theorem deviceClear_reg (s : State) {o : Nat} (ho : o ≠ Reg.clkStatus) :
    (s.deviceClear false).reg o = if alwaysOn o = true then s.reg o else chipRegD o := by
  have hset := State.setF_reg_ne ({ s.deviceClear false with
    chip := s.chip.filter (fun p => alwaysOn p.1 || (false && railsUpKeep p.1)) } : State) 2 0 s.keptClk ho
  refine hset.trans ((tabGet_selected chipRegD s.chip (fun o => alwaysOn o || (false && railsUpKeep o)) o).trans ?_)
  simp only [Bool.false_and, Bool.or_false]
  rfl

theorem deviceClear_refs (s : State) : (s.deviceClear false).f Reg.clkStatus 2 0 = s.f Reg.clkStatus 2 0 := by
  unfold State.deviceClear
  exact (State.setF_f_same _ _ _ (by decide) (by decide)).trans (Nat.mod_eq_of_lt (fld_lt _ 2 0))

/-- With every rail off all but the always-on domain, chip time and the non-volatile store is as at reset. -/
theorem deviceClear_inReset (s : State) : s.InReset (s.deviceClear false) [] where
  tiles := rfl
  parts := ⟨rfl, rfl, rfl⟩
  fabric := ⟨rfl, rfl, rfl, rfl, rfl, rfl⟩
  cap := rfl
  aon o ho _ := by
    have hne : o ≠ Reg.clkStatus := by
      rintro rfl
      exact absurd ho (by decide)
    rw [deviceClear_reg s hne, if_pos ho]
  rest o ho hne := by
    rw [deviceClear_reg s (by simpa using hne), if_neg (by simp [ho])]
  refs := deviceClear_refs s
  time := rfl
  mem := rfl
  nv := ⟨rfl, rfl, rfl⟩
  outs := ⟨rfl, rfl, rfl, rfl⟩

namespace State.InReset
variable {s u : State} {but : List Nat}

/-- Neither the stage of the start-up nor the oscillator is a function that a reset clears. -/
theorem modPower (h : s.InReset u but) {f : Power → Power} (hf : (f u.power).meshOn = u.power.meshOn ∧
    (f u.power).pgood = u.power.pgood ∧ (f u.power).faultN = u.power.faultN ∧ (f u.power).ready = u.power.ready) :
    s.InReset (u.modPower f) but where
  tiles := h.tiles
  parts := h.parts
  fabric := h.fabric
  cap := h.cap
  aon := h.aon
  rest := h.rest
  refs := h.refs
  time := h.time
  mem := h.mem
  nv := h.nv
  outs := by
    obtain ⟨hm, hp, hf', hr⟩ := hf
    obtain ⟨h1, h2, h3, h4⟩ := h.outs
    exact ⟨hm.trans h1, hp.trans h2, hf'.trans h3, hr.trans h4⟩

/-- A register written beside the reset. -/
theorem setF (h : s.InReset u but) {o : Nat} (ho : o ≠ Reg.clkStatus) (hi lo v : Nat) :
    s.InReset (u.setF o hi lo v) (but ++ [o]) where
  tiles := h.tiles
  parts := h.parts
  fabric := h.fabric
  cap := h.cap
  aon q hq hne := by
    simp only [List.mem_append, List.mem_singleton, not_or] at hne
    rw [State.setF_reg_ne _ _ _ _ hne.2, h.aon q hq hne.1]
  rest q hq hne := by
    simp only [List.mem_cons, List.mem_append, List.not_mem_nil, or_false, not_or] at hne
    rw [State.setF_reg_ne _ _ _ _ hne.2.2, h.rest q hq (by simp [hne.1, hne.2.1])]
  refs := by rw [State.setF_f_ne _ _ _ _ _ _ (Ne.symm ho), h.refs]
  time := h.time
  mem := h.mem
  nv := h.nv
  outs := h.outs

/-- The cause recorded before the reset is in the always-on domain. -/
theorem ofCause {code rail : Nat} (h : (s.aonCause code rail).InReset u but) : s.InReset u (Reg.capAonCause :: but) := by
  obtain ⟨⟨ch, hform⟩, -, hregs⟩ := aonCause_facts s code rail
  have hrefs := h.refs
  rw [State.f, State.f, hregs _ (by decide)] at hrefs
  refine ⟨?_, h.parts, h.fabric, h.cap, fun o ho hne => ?_, fun o ho hne => h.rest o ho ?_, hrefs, ?_, ?_, ?_, h.outs⟩
  · rw [h.tiles, hform]
  · simp only [List.mem_cons, not_or] at hne
    rw [h.aon o ho hne.2, hregs o hne.1]
  · simp only [List.mem_cons, not_or] at hne ⊢
    exact ⟨hne.1, hne.2.2⟩
  · rw [h.time, hform]
  · rw [h.mem, hform]
  · have := h.nv
    rwa [hform] at this

end State.InReset

theorem holdDevice_inReset (s : State) : s.InReset s.holdDevice [] :=
  (deviceClear_inReset s).modPower (f := ({ · with stage := .held })) ⟨rfl, rfl, rfl, rfl⟩

theorem holdDevice_stage (s : State) : s.holdDevice.power.stage = .held := rfl

/-- A trip records its cause, where it is the first, and holds the device (R355, R369). -/
theorem holdDevice_causes {s u : State} (code rail : Nat) (hu : (s.aonCause code rail).holdDevice = u) :
    u.power.stage = .held ∧ s.InReset u [Reg.capAonCause] ∧ u.reg Reg.capAonCause =
      (if s.f Reg.capAonCause 31 31 = 1 then s.reg Reg.capAonCause
        else BitVec.ofNat 32 (code + 2 ^ 16 * rail + 2 ^ 31)) := by
  obtain ⟨-, hcause, -⟩ := aonCause_facts s code rail
  have hreset := holdDevice_inReset (s.aonCause code rail)
  have hstage := holdDevice_stage (s.aonCause code rail)
  rw [hu] at hreset hstage
  exact ⟨hstage, hreset.ofCause, (hreset.aon _ (by decide) (by decide)).trans hcause⟩

theorem inputTrip_eq {s : State} (hon : s.power.stage ≠ .off) (hin : s.inputInRange = false) :
    s.inputTrip = (s.aonCause 0x0703 noRail).holdDevice := by simp [State.inputTrip, hon, hin]

/-- RESET_N asserted: the functions are reset, and a hold stays (R410). -/
theorem resetAssert_facts {s u : State} (hon : s.power.stage ≠ .off) (hu : s.resetAssert = u) :
    u.power.resetLow = true ∧ s.InReset u [] ∧
      u.power.stage = (if s.power.stage = .held then .held else .waiting) := by
  have hu' : u = (s.deviceClear false).modPower
      (fun p => { p with stage := if s.power.stage == .held then .held else .waiting, resetLow := true }) := by
    rw [← hu, State.resetAssert, if_neg hon]
    rfl
  have hreset := (deviceClear_inReset s).modPower
    (f := fun p => { p with stage := if s.power.stage == .held then .held else .waiting, resetLow := true })
    ⟨rfl, rfl, rfl, rfl⟩
  rw [← hu'] at hreset
  refine ⟨by rw [hu']; rfl, hreset, ?_⟩
  rw [hu', State.modPower_power]
  simp only [beq_iff_eq]

theorem resetRelease_eq {s : State} (hlow : s.power.resetLow = true) : s.resetRelease = { s with power := { s.power with
    resetLow := false, thermtripN := false
    stage := (if s.power.stage = .held then .waiting else s.power.stage) } } := by
  unfold State.resetRelease
  simp only [hlow, Bool.not_true, Bool.false_eq_true, if_false]
  split <;> rfl

/-! ### VAON (R355, R360, R392, R403) -/

/-- The registers of the thermal-cycle record in its words (Table 14.4). -/
def State.cyclesLoaded (s : State) (r : List Word) : State :=
  ((List.range 8).foldl (fun s i => s.setReg (Reg.capTcycB + 4 * i) (r.getD i 0)) s).setF Reg.capTcycStat 23 0
    (r.getD 8 0).toNat

/-- Registers written in turn at rising offsets. -/
theorem foldl_setReg (b : Nat) (w : Nat → Word) (n : Nat) (s : State) :
    ∃ ch, (List.range n).foldl (fun s i => s.setReg (b + 4 * i) (w i)) s = { s with chip := ch } ∧
      (∀ i, i < n → tabGet chipRegD ch (b + 4 * i) = w i) ∧
      ∀ o, (∀ i, i < n → o ≠ b + 4 * i) → tabGet chipRegD ch o = s.reg o := by
  induction n with
  | zero => exact ⟨s.chip, rfl, fun i h => absurd h (Nat.not_lt_zero i), fun _ _ => rfl⟩
  | succ n ih =>
    obtain ⟨ch, hform, hin, hout⟩ := ih
    refine ⟨tabSet chipRegD ch (b + 4 * n) (w n), ?_, fun i hi => ?_, fun o ho => ?_⟩
    · rw [List.range_succ, List.foldl_append, hform]
      rfl
    · by_cases hn : i = n
      · rw [hn, tabGet_set_same]
      · rw [tabGet_set_ne _ _ _ (by omega), hin i (by omega)]
    · rw [tabGet_set_ne _ _ _ (ho n (Nat.lt_succ_self n)), hout o fun i hi => ho i (by omega)]

theorem cyclesLoaded_facts (s : State) (r : List Word) : (∃ ch, s.cyclesLoaded r = { s with chip := ch }) ∧
    (∀ i, i < 8 → (s.cyclesLoaded r).reg (Reg.capTcycB + 4 * i) = r.getD i 0) ∧
    (s.cyclesLoaded r).f Reg.capTcycStat 23 0 = (r.getD 8 0).toNat % 2 ^ 24 ∧
    ∀ o, o ≠ Reg.capTcycStat → (∀ i, i < 8 → o ≠ Reg.capTcycB + 4 * i) → (s.cyclesLoaded r).reg o = s.reg o := by
  obtain ⟨ch, hform, hin, hout⟩ := foldl_setReg Reg.capTcycB (fun i => r.getD i 0) 8 s
  unfold State.cyclesLoaded
  rw [hform]
  refine ⟨⟨_, rfl⟩, fun i hi => ?_, ?_, fun o hs ho => ?_⟩
  · exact (State.setF_reg_ne _ _ _ _ (by simp only [Reg.capTcycB, Reg.capTcycStat]; omega)).trans (hin i hi)
  · exact State.setF_f_same _ _ _ (by decide) (by decide)
  · exact (State.setF_reg_ne _ _ _ _ hs).trans (hout o ho)

/-- VAON's functions before the record of the thermal cycles is loaded: the registers at their reset values, with the
target's address from the straps. -/
def State.vaonUp (s : State) (straps : Nat) : State :=
  { { s.deviceClear false with chip := [] }.setReg Reg.mbI3cTgt (BitVec.ofNat 32 (0x58 + straps % 4)) with
    power := { (s.deviceClear false).power with
      stage := .waiting, oscReady := false, timeOn := false, blockOpen := false, thermtripN := false, linkDown := false
      straps := straps % 4 } }

theorem vaonUp_facts (s : State) (straps : Nat) : (s.vaonUp straps).power.stage = .waiting ∧
    (s.vaonUp straps).power.oscReady = false ∧ (s.vaonUp straps).power.timeOn = false ∧
    (s.vaonUp straps).power.resetLow = s.power.resetLow ∧ (s.vaonUp straps).fw.nvCycles = s.fw.nvCycles ∧
    (s.vaonUp straps).reg Reg.mbI3cTgt = BitVec.ofNat 32 (0x58 + straps % 4) ∧
    ∀ o, o ≠ Reg.mbI3cTgt → (s.vaonUp straps).reg o = chipRegD o :=
  ⟨rfl, rfl, rfl, rfl, rfl, tabGet_set_same _ _ _ _, fun _ ho => tabGet_set_ne _ _ _ ho⟩

theorem vaonStart_eq {s : State} (hoff : s.power.stage = .off) (straps : Nat) : s.vaonStart straps =
    match s.fw.nvCycles with
    | [] => s.vaonUp straps
    | r :: _ => (s.vaonUp straps).cyclesLoaded r := by
  unfold State.vaonStart
  rw [if_neg (not_not_intro hoff)]
  rfl

theorem vaonStart_facts {s u : State} {straps : Nat} (hoff : s.power.stage = .off) (hu : s.vaonStart straps = u) :
    u.power.stage = .waiting ∧ u.power.oscReady = false ∧ u.power.timeOn = false ∧
      u.power.resetLow = s.power.resetLow ∧ u.fw.nvCycles = s.fw.nvCycles ∧
      u.reg Reg.mbI3cTgt = BitVec.ofNat 32 (0x58 + straps % 4) ∧
      (∀ r l i, s.fw.nvCycles = r :: l → i < 8 → u.reg (Reg.capTcycB + 4 * i) = r.getD i 0) ∧
      (∀ r l, s.fw.nvCycles = r :: l → u.f Reg.capTcycStat 23 0 = (r.getD 8 0).toNat % 2 ^ 24) ∧
      (s.fw.nvCycles = [] → ∀ i, i < 8 → u.reg (Reg.capTcycB + 4 * i) = 0) ∧
      ∀ o, o ≠ Reg.mbI3cTgt → o ≠ Reg.capTcycStat → (∀ i, i < 8 → o ≠ Reg.capTcycB + 4 * i) → u.reg o = chipRegD o := by
  have hzero : ∀ i, i < 8 → chipRegD (Reg.capTcycB + 4 * i) = 0 := by decide
  have htgt : ∀ i, i < 8 → Reg.mbI3cTgt ≠ Reg.capTcycB + 4 * i := by decide
  obtain ⟨hstage, hosc, htime, hlow, hnv, hi3c, hregs⟩ := vaonUp_facts s straps
  have heq := (vaonStart_eq hoff straps).symm.trans hu
  generalize s.vaonUp straps = v at *
  match hc : s.fw.nvCycles with
  | [] =>
    rw [hc] at heq hnv
    subst heq
    exact ⟨hstage, hosc, htime, hlow, hnv, hi3c, fun _ _ _ h => (nomatch h), fun _ _ h => (nomatch h),
      fun _ i hi => (hregs _ (Ne.symm (htgt i hi))).trans (hzero i hi), fun o ho _ _ => hregs o ho⟩
  | r :: l =>
    rw [hc] at heq hnv
    obtain ⟨⟨ch, hform⟩, hin, hstat, hout⟩ := cyclesLoaded_facts v r
    rw [show v.cyclesLoaded r = u from heq] at hform hin hstat hout
    refine ⟨by rw [hform, hstage], by rw [hform, hosc], by rw [hform, htime], by rw [hform, hlow], by rw [hform, hnv],
      (hout _ (by decide) htgt).trans hi3c, fun _ _ i h hi => ?_, fun _ _ h => ?_, fun h => (nomatch h),
      fun o ho hs hb => (hout o hs hb).trans (hregs o ho)⟩
    · cases h
      exact hin i hi
    · cases h
      exact hstat

theorem vaonFall_facts {s u : State} (hu : s.vaonFall = u) : u.chip = [] ∧ u.timeAcc = 0 ∧ u.gmSet = false ∧
    u.power = { Power.reset with resetLow := s.power.resetLow } ∧ u.tiles = tabMap tileD Tile.cleared s.tiles ∧
    u.parts = [] ∧ u.pairs = [] ∧ u.ports = [] ∧ u.mgmt.reply = none ∧ u.fw.nvCycles = s.fw.nvCycles := by
  subst hu
  exact ⟨rfl, rfl, rfl, rfl, rfl, rfl, rfl, rfl, rfl, rfl⟩

/-! ### Start-up to group 1 (R361, R400, R401) -/

theorem busStarts_eq (s : State) : s.busStarts = (s.setF Reg.capStart 5 0 1).modPower ({ · with stage := .bus }) := rfl

theorem busStarts_facts (s : State) : s.busStarts.power = { s.power with stage := .bus } ∧
    s.busStarts.f Reg.capStart 5 0 = 1 ∧ (∀ o, o ≠ Reg.capStart → s.busStarts.reg o = s.reg o) ∧
    s.busStarts.timeAcc = s.timeAcc ∧ s.busStarts.tiles = s.tiles ∧ s.busStarts.parts = s.parts ∧
    s.busStarts.mem = s.mem := by
  rw [busStarts_eq]
  refine ⟨?_, ?_, fun o ho => ?_, ?_, ?_, ?_, ?_⟩
  · rw [State.modPower_power, State.setF_power]
  · rw [State.modPower_f, State.setF_f_same _ _ _ (by decide) (by decide)]
    rfl
  · rw [State.modPower_reg, State.setF_reg_ne _ _ _ _ ho]
  · rw [State.modPower_timeAcc, State.setF_timeAcc]
  · rw [State.modPower_tiles, State.setF_tiles]
  · rw [State.modPower_parts, State.setF_parts]
  · rw [State.modPower_mem, State.setF_mem]

theorem startup_eq {s : State} (hwait : s.power.stage = .waiting) (hlow : s.power.resetLow = false) : s.startup =
    if s.power.oscReady = true then s.busStarts else { s with power := { s.power with stage := .osc } } := by
  simp [State.startup, hwait, hlow]

/-- Chip time starts at 0 where it did not run (R403). -/
def State.timeStarted (s : State) : State :=
  if s.power.timeOn then s
  else { s with timeAcc := 0, ticks := 0, syncAt := 0, power := { s.power with timeOn := true } }

theorem timeStarted_facts (s : State) : s.timeStarted.power = { s.power with timeOn := true } ∧
    s.timeStarted.timeAcc = (if s.power.timeOn then s.timeAcc else 0) ∧ (∀ o, s.timeStarted.reg o = s.reg o) ∧
    s.timeStarted.tiles = s.tiles ∧ s.timeStarted.parts = s.parts ∧ s.timeStarted.mem = s.mem := by
  unfold State.timeStarted
  cases hon : s.power.timeOn with
  | true =>
    refine ⟨?_, rfl, fun _ => rfl, rfl, rfl, rfl⟩
    simp only [if_true]
    rw [← hon]
  | false => exact ⟨rfl, rfl, fun _ => rfl, rfl, rfl, rfl⟩

/-- The oscillator is ready, and chip time runs. -/
def State.oscUp (s : State) : State :=
  (s.setF Reg.clkStatus 0 0 1).timeStarted.modPower ({ · with oscReady := true })

theorem oscUp_facts (s : State) : s.oscUp.power = { s.power with timeOn := true, oscReady := true } ∧
    s.oscUp.f Reg.clkStatus 0 0 = 1 ∧ s.oscUp.timeAcc = (if s.power.timeOn then s.timeAcc else 0) ∧
    (∀ o, o ≠ Reg.clkStatus → s.oscUp.reg o = s.reg o) ∧ s.oscUp.tiles = s.tiles ∧ s.oscUp.parts = s.parts ∧
    s.oscUp.mem = s.mem := by
  obtain ⟨hpower, htime, hregs, htiles, hparts, hmem⟩ := timeStarted_facts (s.setF Reg.clkStatus 0 0 1)
  unfold State.oscUp
  refine ⟨?_, ?_, ?_, fun o ho => ?_, ?_, ?_, ?_⟩
  · rw [State.modPower_power, hpower, State.setF_power]
  · rw [State.modPower_f, State.f, hregs, ← State.f, State.setF_f_same _ _ _ (by decide) (by decide)]
    rfl
  · rw [State.modPower_timeAcc, htime, State.setF_power, State.setF_timeAcc]
  · rw [State.modPower_reg, hregs, State.setF_reg_ne _ _ _ _ ho]
  · rw [State.modPower_tiles, htiles, State.setF_tiles]
  · rw [State.modPower_parts, hparts, State.setF_parts]
  · rw [State.modPower_mem, hmem, State.setF_mem]

theorem oscReady_eq {s : State} (hlost : s.power.oscReady = false) (hon : s.power.stage ≠ .off) : s.oscReady =
    if s.power.stage = .osc then s.oscUp.busStarts else s.oscUp := by
  have hstage : s.oscUp.power.stage = s.power.stage := by rw [(oscUp_facts s).1]
  rw [← hstage]
  unfold State.oscReady
  rw [if_neg (by simp [hlost, hon])]
  rfl

/-- OSC ready: a start-up that waits goes on with group 1 (R400, R403). -/
theorem oscReady_facts {s u : State} (hlost : s.power.oscReady = false) (hon : s.power.stage ≠ .off)
    (hu : s.oscReady = u) : u.power.oscReady = true ∧ u.power.timeOn = true ∧ u.f Reg.clkStatus 0 0 = 1 ∧
      u.timeAcc = (if s.power.timeOn then s.timeAcc else 0) ∧
      (s.power.stage = .osc → u.power.stage = .bus ∧ u.f Reg.capStart 5 0 = 1) ∧
      (s.power.stage ≠ .osc → u.power.stage = s.power.stage ∧ u.reg Reg.capStart = s.reg Reg.capStart) ∧
      (∀ o, o ≠ Reg.capStart → o ≠ Reg.clkStatus → u.reg o = s.reg o) ∧
      u.tiles = s.tiles ∧ u.parts = s.parts ∧ u.mem = s.mem := by
  obtain ⟨hpower, hok, htime, hregs, htiles, hparts, hmem⟩ := oscUp_facts s
  have heq := (oscReady_eq hlost hon).symm.trans hu
  by_cases hosc : s.power.stage = .osc
  · rw [if_pos hosc] at heq
    obtain ⟨hbpower, hgroup, hbregs, hbtime, hbtiles, hbparts, hbmem⟩ := busStarts_facts s.oscUp
    rw [heq] at hbpower hgroup hbregs hbtime hbtiles hbparts hbmem
    rw [hpower] at hbpower
    refine ⟨by rw [hbpower], by rw [hbpower], ?_, hbtime.trans htime, fun _ => ⟨by rw [hbpower], hgroup⟩,
      fun h => absurd hosc h, fun o hs hc => (hbregs o hs).trans (hregs o hc), hbtiles.trans htiles,
      hbparts.trans hparts, hbmem.trans hmem⟩
    rw [State.f, hbregs _ (by decide), ← State.f, hok]
  · rw [if_neg hosc] at heq
    subst heq
    exact ⟨by rw [hpower], by rw [hpower], hok, htime, fun h => absurd h hosc,
      fun _ => ⟨by rw [hpower], hregs _ (by decide)⟩, fun o _ hc => hregs o hc, htiles, hparts, hmem⟩

theorem oscTimeout_eq {s : State} (hosc : s.power.stage = .osc) :
    s.oscTimeout = (s.aonCause 0x0800 noRail).holdDevice.setF Reg.capStart 9 9 1 := if_neg (not_not_intro hosc)

/-- A hold of the start-up sets HELD beside its cause (R364, R401). -/
theorem heldStart_facts {s v u : State} {code : Nat} (hv : (s.aonCause code noRail).holdDevice = v)
    (hu : v.setF Reg.capStart 9 9 1 = u) : u.power.stage = .held ∧ s.InReset u [Reg.capAonCause, Reg.capStart] ∧
      u.f Reg.capStart 9 9 = 1 ∧ u.reg Reg.capAonCause = (if s.f Reg.capAonCause 31 31 = 1 then s.reg Reg.capAonCause
        else BitVec.ofNat 32 (code + 2 ^ 16 * 0x7FF + 2 ^ 31)) := by
  obtain ⟨hstage, hreset, hcause⟩ := holdDevice_causes code _ hv
  subst hu
  refine ⟨by rw [State.setF_power, hstage], hreset.setF (by decide) 9 9 1, ?_, ?_⟩
  · rw [State.setF_f_same _ _ _ (by decide) (by decide)]
    rfl
  · rw [State.setF_reg_ne _ _ _ _ (by decide), hcause]

end Sys2Proof.Machine
end

section
open Sys2Proof Sys2Proof.Machine

/-- Settles O53: a hold is a reset with its cause, and each step of the start-up writes its own registers. -/
theorem holdsTripsAndStartUp : Obligations.HoldsTripsAndStartUp := by
  refine ⟨fun s hon hin => ⟨_, congrArg Host.Outcome.next (inputTrip_eq hon hin), holdDevice_causes _ _ rfl⟩,
    ⟨fun s hon => ⟨_, rfl, resetAssert_facts hon rfl⟩, fun s hlow => congrArg Host.Outcome.next (resetRelease_eq hlow)⟩,
    ⟨fun s straps hoff => ⟨_, rfl, vaonStart_facts hoff rfl⟩, fun s => ⟨_, rfl, vaonFall_facts rfl⟩⟩,
    fun s hwait hlow => ⟨_, congrArg Host.Outcome.next (startup_eq hwait hlow), fun hosc => ?_, fun hosc => ?_⟩,
    fun s hlost hon => ⟨_, rfl, oscReady_facts hlost hon rfl⟩,
    fun s hosc => ⟨_, congrArg Host.Outcome.next (oscTimeout_eq hosc), heldStart_facts rfl rfl⟩⟩
  · rw [if_neg (by simp [hosc])]
  · rw [if_pos hosc]
    obtain ⟨hpower, hgroup, hregs, -⟩ := busStarts_facts s
    exact ⟨hpower, hgroup, hregs⟩
end

section
namespace Sys2Proof.Machine

/-! ### Console lines and boot stages (R304, R431) -/

/-- The state with another console, and another count of free values drawn. -/
def State.withConsole (s : State) (con : Console) (k : Nat) : State := { s with console := con, freeCount := k }

@[simp] theorem State.withConsole_pair (s : State) (con : Console) (k p : Nat) : (s.withConsole con k).pair p = s.pair p := rfl
@[simp] theorem State.withConsole_reg (s : State) (con : Console) (k o : Nat) : (s.withConsole con k).reg o = s.reg o := rfl
@[simp] theorem State.withConsole_f (s : State) (con : Console) (k o hi lo : Nat) : (s.withConsole con k).f o hi lo = s.f o hi lo := rfl
@[simp] theorem State.withConsole_power (s : State) (con : Console) (k : Nat) : (s.withConsole con k).power = s.power := rfl
@[simp] theorem State.withConsole_parts (s : State) (con : Console) (k : Nat) : (s.withConsole con k).parts = s.parts := rfl
@[simp] theorem State.withConsole_mem (s : State) (con : Console) (k : Nat) : (s.withConsole con k).mem = s.mem := rfl

theorem print_eq (s : State) (l : ConsoleLine) : ∃ con k, s.print l = s.withConsole con k := by
  unfold State.print
  split
  exacts [⟨_, _, rfl⟩, ⟨_, _, rfl⟩]

/-- A boot stage changes MB_BOOT_STATUS.STAGE of pair 0, and may print its line. -/
theorem stageIs_eq (s : State) (n : Nat) :
    ∃ con k, s.stageIs n = (s.modPair 0 (fun p => p.setF Reg.mbBootStatus 3 0 n)).withConsole con k := print_eq _ _

theorem stageIs_pair (s : State) (n : Nat) : (s.stageIs n).pair 0 = (s.pair 0).setF Reg.mbBootStatus 3 0 n := by
  obtain ⟨con, k, heq⟩ := stageIs_eq s n
  rw [heq, State.withConsole_pair, State.modPair_pair_same]

theorem stageIs_bootStage (s : State) {n : Nat} (hn : n < 16) : (s.stageIs n).bootStage = n := by
  rw [State.bootStage, stageIs_pair, Pair.setF_f_same _ _ _ (by decide) (by decide)]
  exact Nat.mod_eq_of_lt hn

@[simp] theorem State.modPair_f (s : State) (k : Nat) (x : Pair → Pair) (o hi lo : Nat) : (s.modPair k x).f o hi lo = s.f o hi lo := rfl
@[simp] theorem State.modPair_railReg (s : State) (k : Nat) (x : Pair → Pair) (i o : Nat) : (s.modPair k x).railReg i o = s.railReg i o := rfl
@[simp] theorem State.withConsole_railReg (s : State) (con : Console) (k i o : Nat) : (s.withConsole con k).railReg i o = s.railReg i o := rfl
@[simp] theorem State.modPower_railReg (s : State) (x : Power → Power) (i o : Nat) : (s.modPower x).railReg i o = s.railReg i o := rfl

/-! ### Rails that serve more than one tile (Table 13.2) -/

theorem railSet_tiles (s : State) {i : Nat} (hi : tileCount ≤ i) (o hi' lo v : Nat) : (s.railSet i o hi' lo v).tiles = s.tiles := by
  rw [State.railSet, if_neg (by omega), State.setF_tiles]

theorem railUp_tiles (s : State) {i : Nat} (hi : tileCount ≤ i) : (s.railUp i).tiles = s.tiles := by
  unfold State.railUp State.railMove
  simp only [railSet_tiles _ hi]

/-- The groups of the shared rails leave the tiles. -/
theorem groupUp_tiles (s : State) {g : Nat} (hg : g < 17) : (s.groupUp g).tiles = s.tiles := by
  have hall : ∀ i ∈ groupRails g, tileCount ≤ i := by
    intro i hi
    unfold groupRails at hi
    unfold tileCount
    split_ifs at hi <;> simp at hi <;> omega
  have hfold : ∀ (l : List Nat) (u : State), (∀ i ∈ l, tileCount ≤ i) → (l.foldl State.railUp u).tiles = u.tiles := by
    intro l
    induction l with
    | nil => exact fun _ _ => rfl
    | cons i l ih =>
      intro u h
      rw [List.foldl_cons, ih _ fun j hj => h j (List.mem_cons_of_mem _ hj), railUp_tiles _ (h i List.mem_cons_self)]
  exact hfold _ s hall

/-- The state with a group's rails ready and counted. -/
def State.groupReady (s : State) (g : Nat) : State := (s.groupUp g).modPower ({ · with ready := g })

theorem groupReady_facts (s : State) (g : Nat) :
    (∃ rf, (s.groupReady g).power = { s.power with runFrac := rf, ready := g }) ∧
    (∀ o, o < 0x3100 ∨ 0x3200 ≤ o → (s.groupReady g).reg o = s.reg o) ∧
    (∀ i ∈ groupRails g, fld ((s.groupReady g).railReg i Reg.capRailStatus) 0 0 = 1 ∧
      fld ((s.groupReady g).railReg i Reg.capRailV) 11 0 = s.railMv i s.mhzNow % 2 ^ 12) ∧
    (∀ p, (s.groupReady g).pair p = s.pair p) ∧ (s.groupReady g).parts = s.parts ∧ (s.groupReady g).mem = s.mem := by
  obtain ⟨⟨ts, ch, rf, hform⟩, hregs, hrails⟩ := groupUp_facts s g
  unfold State.groupReady
  refine ⟨⟨rf, ?_⟩, hregs, hrails, fun p => ?_, ?_, ?_⟩
  · rw [State.modPower_power, hform]
  · rw [State.modPower_pair, hform]
    rfl
  · rw [State.modPower_parts, hform]
  · rw [State.modPower_mem, hform]

theorem railGroupReady_bus {s : State} (hg : s.f Reg.capStart 5 0 = 1) (hheld : s.f Reg.capStart 9 9 = 0)
    (hstage : s.power.stage = .bus) :
    s.railGroupReady 1 = ((s.groupReady 1).setF Reg.capStart 5 0 2).modPower ({ · with stage := .vctl }) := by
  unfold State.railGroupReady
  rw [if_neg (by simp [hg, hheld]), if_pos rfl, if_pos hstage]
  rfl

theorem railGroupReady_vctl {s : State} (hg : s.f Reg.capStart 5 0 = 2) (hheld : s.f Reg.capStart 9 9 = 0)
    (hstage : s.power.stage = .vctl) :
    s.railGroupReady 2 = (((s.groupReady 2).railUp 1167).modPower ({ · with stage := .rom, pgood := true })).alertSync := by
  unfold State.railGroupReady
  rw [if_neg (by simp [hg, hheld]), if_neg (by decide), if_pos rfl, if_pos hstage]
  rfl

/-- A group that Root starts, with what follows it. -/
theorem railGroupReady_rom {s : State} {g : Nat} (h3 : 3 ≤ g) (hg : s.f Reg.capStart 5 0 = g)
    (hheld : s.f Reg.capStart 9 9 = 0) (hstage : s.power.stage = .rom) (hboot : s.bootStage = 4)
    (hnext : s.power.ready < g) : s.railGroupReady g =
      if g = 4 then (s.groupReady g).reseedFabric.fabricStarts.startGroup 5
      else if g < 16 then (s.groupReady g).startGroup (g + 1)
      else if g < 52 then s.groupReady g else (s.groupReady g).bootEnds := by
  unfold State.railGroupReady
  rw [if_neg (by simp [hg, hheld]), if_neg (by omega), if_neg (by omega),
    if_neg (by simp [hstage, hboot, hnext])]
  rfl

theorem railMv_shared (s : State) {i : Nat} (hi : tileCount ≤ i) (mhz : Nat) : s.railMv i mhz = fixedMv i := by
  rw [State.railMv, if_neg (by omega)]

/-- A shared rail's voltage fits its field. -/
theorem fixedMv_mod (i : Nat) : fixedMv i % 2 ^ 12 = fixedMv i := by
  unfold fixedMv
  split_ifs <;> rfl

/-- Group 1, the intermediate bus, leads to VCTL (Table 13.3). -/
theorem railGroupReady_bus_facts {s u : State} (hu : ((s.groupReady 1).setF Reg.capStart 5 0 2).modPower ({ · with stage := .vctl }) = u) :
    u.power.stage = .vctl ∧ u.power.ready = 1 ∧ u.f Reg.capStart 5 0 = 2 ∧ u.tiles = s.tiles := by
  obtain ⟨⟨rf, hpower⟩, -⟩ := groupReady_facts s 1
  subst hu
  refine ⟨by rw [State.modPower_power], by rw [State.modPower_power, State.setF_power, hpower], ?_, ?_⟩
  · rw [State.modPower_f, State.setF_f_same _ _ _ (by decide) (by decide)]
    rfl
  · rw [State.modPower_tiles, State.setF_tiles, State.groupReady, State.modPower_tiles, groupUp_tiles s (by decide)]

/-- Group 2 and the console's rail lead to the boot ROM, with PGOOD (Table 13.3). -/
theorem railGroupReady_vctl_facts {s u : State}
    (hu : (((s.groupReady 2).railUp 1167).modPower ({ · with stage := .rom, pgood := true })).alertSync = u) :
    u.power.stage = .rom ∧ u.power.ready = 2 ∧ u.power.pgood = true ∧
      (∀ i, i = 1166 ∨ i = 1167 → fld (u.railReg i Reg.capRailStatus) 0 0 = 1 ∧
        fld (u.railReg i Reg.capRailV) 11 0 = fixedMv i) ∧ u.tiles = s.tiles := by
  obtain ⟨hv, -, hst⟩ := rs4
  obtain ⟨⟨rf, hpower⟩, -, hgroup, -⟩ := groupReady_facts s 2
  obtain ⟨hkeep, hon, hmv⟩ := railUp_facts (s.groupReady 2) 1167 (by decide)
  obtain ⟨ts, ch, rf', hform⟩ := hkeep.form
  have hnotes := State.NotesOnly.alertSync (((s.groupReady 2).railUp 1167).modPower ({ · with stage := .rom, pgood := true }))
  rw [hu] at hnotes
  have hrail : ∀ i q, i < 1168 → (∃ a, a < 4 ∧ q = 0x900 + 4 * a) →
      u.railReg i q = ((s.groupReady 2).railUp 1167).railReg i q := fun i q hi hq =>
    (railReg_congr hnotes.tile (fun o ho ho' => hnotes.reg (by
      simp only [Reg.mbAlert]
      omega)) i q hi hq).trans (State.modPower_railReg _ _ _ _)
  refine ⟨?_, ?_, ?_, fun i hi => ?_, ?_⟩
  · rw [hnotes.power, State.modPower_power]
  · rw [hnotes.power, State.modPower_power, hform, hpower]
  · rw [hnotes.power, State.modPower_power]
  · rw [hrail i _ (by omega) hst, hrail i _ (by omega) hv]
    rcases hi with rfl | rfl
    · obtain ⟨hstat, hval⟩ := hgroup 1166 (by decide)
      rw [hkeep.rails 1166 _ (by decide) (by decide) hst, hkeep.rails 1166 _ (by decide) (by decide) hv]
      rw [railMv_shared _ (by decide), fixedMv_mod] at hval
      exact ⟨hstat, hval⟩
    · rw [railMv_shared _ (by decide), fixedMv_mod] at hmv
      exact ⟨hon, hmv⟩
  · rw [hnotes.tiles, State.modPower_tiles, railUp_tiles _ (by decide), State.groupReady, State.modPower_tiles,
      groupUp_tiles s (by decide)]

/-! ### What the fabric's supply changes (R17, R233, R237) -/

/-- Two states differ at most in their ports and in what records write. -/
def State.PortsOnly (s u : State) : Prop := ∃ ps, ({ s with ports := ps } : State).RecordsOnly u

namespace State.PortsOnly
variable {s u v : State}

theorem refl (s : State) : s.PortsOnly s := ⟨s.ports, .refl s⟩

theorem ofPort {p : Nat} {x : Port} (h : (s.setPort p x).RecordsOnly u) : s.PortsOnly u := ⟨_, h⟩

theorem trans (h : s.PortsOnly u) (h' : u.PortsOnly v) : s.PortsOnly v := by
  obtain ⟨ps, p, l, m, c, k, rfl, hp⟩ := h
  obtain ⟨ps', p', l', m', c', k', rfl, hp'⟩ := h'
  exact ⟨ps', p', l', m', c', k', rfl, fun q => (hp q).trans (hp' q)⟩

theorem foldl {α : Type} {f : State → α → State} (hf : ∀ (u : State) (a : α), u.PortsOnly (f u a)) (l : List α) (s : State) :
    s.PortsOnly (l.foldl f s) :=
  List.foldlRecOn (motive := s.PortsOnly) l f (refl s) fun u h a _ => h.trans (hf u a)

theorem power (h : s.PortsOnly u) : u.power = s.power := by obtain ⟨_, _, _, _, _, _, rfl, -⟩ := h; rfl
theorem tiles (h : s.PortsOnly u) : u.tiles = s.tiles := by obtain ⟨_, _, _, _, _, _, rfl, -⟩ := h; rfl
theorem chip (h : s.PortsOnly u) : u.chip = s.chip := by obtain ⟨_, _, _, _, _, _, rfl, -⟩ := h; rfl
theorem reg (h : s.PortsOnly u) (o : Nat) : u.reg o = s.reg o := by rw [State.reg, h.chip, State.reg]
theorem f (h : s.PortsOnly u) (o hi lo : Nat) : u.f o hi lo = s.f o hi lo := by rw [State.f, h.reg, State.f]
theorem railReg (h : s.PortsOnly u) (i o : Nat) : u.railReg i o = s.railReg i o := by
  rw [State.railReg, State.tile, h.tiles, h.reg, State.railReg, State.tile]

end State.PortsOnly

theorem reseedFabric_power (s : State) : s.reseedFabric.power = s.power := rfl
theorem reseedFabric_railReg (s : State) (i o : Nat) : s.reseedFabric.railReg i o = s.railReg i o := rfl

theorem trainings_portsOnly (s : State) : s.PortsOnly ((List.range portCount).foldl
    (fun s p => if (s.port p).en && (s.port p).st == 0 then s.startTraining p else s) s) := by
  refine .foldl (fun u p => ?_) _ _
  split
  exacts [.ofPort (startTraining_records u p), .refl u]

theorem fabricFalls_portsOnly (s : State) : s.PortsOnly s.fabricFalls := by
  refine .foldl (fun u p => ?_) _ _
  split
  · exact .refl u
  · have h := (portState_records u p 0 (u.port p).cause).modPort p (fun x =>
      { ((x.fresh.setF Reg.fabPortStatus 7 5 0).setF Reg.fabPortStatus 4 3 0) with wire := none })
    rw [State.modPort, State.setPort_port_same, State.setPort_setPort] at h
    exact .ofPort h

theorem fabricFalls_modPower (s : State) (x : Power → Power) :
    s.fabricFalls.modPower x = { s.fabricFalls with power := x s.power } := by
  rw [State.modPower, (fabricFalls_portsOnly s).power]

/-- The fabric's PLL runs from OSC without FAB_REFCLK (R402). -/
def State.fabricClock (s : State) : State := if s.f Reg.clkStatus 2 2 = 0 then s.setF Reg.clkStatus 3 3 1 else s

theorem fabricStarts_facts (s : State) : s.fabricStarts.power = s.power ∧ s.fabricStarts.tiles = s.tiles ∧
    ∀ o, o ≠ Reg.clkStatus → s.fabricStarts.reg o = s.reg o := by
  have hports : s.fabricClock.PortsOnly s.fabricStarts := trainings_portsOnly _
  have hclock : s.fabricClock.power = s.power ∧ s.fabricClock.tiles = s.tiles ∧
      ∀ o, o ≠ Reg.clkStatus → s.fabricClock.reg o = s.reg o := by
    unfold State.fabricClock
    split
    · exact ⟨State.setF_power .., State.setF_tiles .., fun o ho => State.setF_reg_ne _ _ _ _ ho⟩
    · exact ⟨rfl, rfl, fun _ _ => rfl⟩
  obtain ⟨hpower, htiles, hregs⟩ := hclock
  exact ⟨hports.power.trans hpower, hports.tiles.trans htiles, fun o ho => (hports.reg o).trans (hregs o ho)⟩

/-! ### The groups that Root starts, and the end of the start-up (R304, R362 to R365) -/

/-- The registers of a shared rail are chip registers. -/
theorem railReg_setF (s : State) {o : Nat} (ho : o < 0x3100 ∨ 0x3200 ≤ o) (hi' lo v : Nat) {i q : Nat} (hi : i < 1168)
    (hq : ∃ a, a < 4 ∧ q = 0x900 + 4 * a) : (s.setF o hi' lo v).railReg i q = s.railReg i q :=
  railReg_congr (fun t => State.setF_tile ..) (fun q _ _ => State.setF_reg_ne _ _ _ _ (by omega)) i q hi hq

/-- The rails of a group that Root starts are on, and the next group starts, of those before the wave groups. -/
theorem railGroupReady_rom_facts {s u : State} {g : Nat} (hlt : g < 52) (hg : s.f Reg.capStart 5 0 = g)
    (hu : (if g = 4 then (s.groupReady g).reseedFabric.fabricStarts.startGroup 5
      else if g < 16 then (s.groupReady g).startGroup (g + 1) else if g < 52 then s.groupReady g
      else (s.groupReady g).bootEnds) = u) :
    u.power.ready = g ∧ u.power.stage = s.power.stage ∧ u.f Reg.capStart 5 0 = (if g < 16 then g + 1 else g) ∧
      u.power.meshOn = s.power.meshOn ∧ ∀ i ∈ groupRails g, fld (u.railReg i Reg.capRailStatus) 0 0 = 1 := by
  obtain ⟨-, -, hst⟩ := rs4
  obtain ⟨⟨rf, hpower⟩, hregs, hrails, -⟩ := groupReady_facts s g
  obtain ⟨-, hbound⟩ := groupRails_ok g
  by_cases h4 : g = 4
  · subst h4
    rw [if_pos rfl] at hu
    obtain ⟨hfpower, hftiles, hfregs⟩ := fabricStarts_facts (s.groupReady 4).reseedFabric
    have hrail : ∀ i, i < 1168 → (s.groupReady 4).reseedFabric.fabricStarts.railReg i Reg.capRailStatus =
        (s.groupReady 4).reseedFabric.railReg i Reg.capRailStatus := fun i hi =>
      railReg_congr (fun t => by rw [State.tile, hftiles, State.tile]) (fun o ho ho' => hfregs o (by
        simp only [Reg.clkStatus]
        omega)) i _ hi hst
    subst hu
    refine ⟨?_, ?_, ?_, ?_, fun i hi => ?_⟩
    · rw [State.startGroup, State.setF_power, hfpower, reseedFabric_power, hpower]
    · rw [State.startGroup, State.setF_power, hfpower, reseedFabric_power, hpower]
    · exact State.setF_f_same _ _ _ (by decide) (by decide)
    · rw [State.startGroup, State.setF_power, hfpower, reseedFabric_power, hpower]
    · rw [State.startGroup, railReg_setF _ (by decide) _ _ _ (hbound i hi) hst, hrail i (hbound i hi),
        reseedFabric_railReg]
      exact (hrails i hi).1
  rw [if_neg h4] at hu
  by_cases h16 : g < 16
  · rw [if_pos h16] at hu
    subst hu
    rw [if_pos h16]
    refine ⟨?_, ?_, ?_, ?_, fun i hi => ?_⟩
    · rw [State.startGroup, State.setF_power, hpower]
    · rw [State.startGroup, State.setF_power, hpower]
    · exact (State.setF_f_same _ _ _ (by decide) (by decide)).trans (Nat.mod_eq_of_lt (by omega))
    · rw [State.startGroup, State.setF_power, hpower]
    · rw [State.startGroup, railReg_setF _ (by decide) _ _ _ (hbound i hi) hst]
      exact (hrails i hi).1
  · rw [if_neg h16, if_pos hlt] at hu
    subst hu
    rw [if_neg h16]
    refine ⟨?_, ?_, ?_, ?_, fun i hi => (hrails i hi).1⟩
    · rw [hpower]
    · rw [hpower]
    · rw [State.f, hregs _ (by decide), ← State.f, hg]
    · rw [hpower]

/-- The end of the start-up up to its boot stage: the mesh clock runs, the units are zeroed, and pair 0 is READY. -/
def State.meshRuns (s : State) : State :=
  ((((s.setF Reg.capStart 8 8 1).setF Reg.capStart 27 10 0x3FFFF).setF Reg.clkMeshCur 10 0
    (meshMhz (s.f Reg.clkMeshReq 10 0))).modPower ({ · with meshOn := true })).modPair 0 (fun p => p.setF Reg.mbStatus 0 0 1)

theorem bootEnds_eq (s : State) : s.bootEnds = s.meshRuns.stageIs 5 := rfl

theorem meshMhz_lt (req : Nat) : meshMhz req < 2 ^ 11 := by
  unfold meshMhz
  omega

theorem meshRuns_facts (s : State) : s.meshRuns.power.meshOn = true ∧ s.meshRuns.f Reg.capStart 8 8 = 1 ∧
    s.meshRuns.f Reg.capStart 27 10 = 0x3FFFF ∧ (s.meshRuns.pair 0).f Reg.mbStatus 0 0 = 1 ∧
    s.meshRuns.f Reg.clkMeshCur 10 0 = meshMhz (s.f Reg.clkMeshReq 10 0) ∧ s.meshRuns.parts = s.parts ∧
    s.meshRuns.mem = s.mem := by
  unfold State.meshRuns
  refine ⟨?_, ?_, ?_, ?_, ?_, ?_, ?_⟩
  · rw [State.modPair_power, State.modPower_power]
  · rw [State.modPair_f, State.modPower_f, State.setF_f_ne _ _ _ _ _ _ (by decide),
      State.setF_f_below _ _ _ (by decide) (by decide) (by decide), State.setF_f_same _ _ _ (by decide) (by decide)]
    rfl
  · rw [State.modPair_f, State.modPower_f, State.setF_f_ne _ _ _ _ _ _ (by decide),
      State.setF_f_same _ _ _ (by decide) (by decide)]
    rfl
  · rw [State.modPair_pair_same, Pair.setF_f_same _ _ _ (by decide) (by decide)]
    rfl
  · rw [State.modPair_f, State.modPower_f, State.setF_f_same _ _ _ (by decide) (by decide)]
    exact Nat.mod_eq_of_lt (meshMhz_lt _)
  · rw [State.modPair_parts, State.modPower_parts, State.setF_parts, State.setF_parts, State.setF_parts]
  · rw [State.modPair_mem, State.modPower_mem, State.setF_mem, State.setF_mem, State.setF_mem]

/-- Group 52 ends the start-up (R365). -/
theorem bootEnds_facts {s u : State} (hu : (s.groupReady 52).bootEnds = u) : u.power.meshOn = true ∧ u.bootStage = 5 ∧
    u.f Reg.capStart 8 8 = 1 ∧ u.f Reg.capStart 27 10 = 0x3FFFF ∧ (u.pair 0).f Reg.mbStatus 0 0 = 1 ∧
    u.f Reg.clkMeshCur 10 0 = meshMhz (s.f Reg.clkMeshReq 10 0) ∧ u.parts = s.parts ∧ u.mem = s.mem := by
  obtain ⟨-, hregs, -, -, hgparts, hgmem⟩ := groupReady_facts s 52
  obtain ⟨hmesh, hdone, hzero, hready, hcur, hparts, hmem⟩ := meshRuns_facts (s.groupReady 52)
  have hreq : (s.groupReady 52).f Reg.clkMeshReq 10 0 = s.f Reg.clkMeshReq 10 0 := by
    rw [State.f, hregs _ (by decide), State.f]
  rw [hreq] at hcur
  rw [bootEnds_eq] at hu
  subst hu
  refine ⟨?_, stageIs_bootStage _ (by decide), ?_, ?_, ?_, ?_, ?_, ?_⟩
  · obtain ⟨con, k, heq⟩ := stageIs_eq (s.groupReady 52).meshRuns 5
    rw [heq, State.withConsole_power, State.modPair_power, hmesh]
  · obtain ⟨con, k, heq⟩ := stageIs_eq (s.groupReady 52).meshRuns 5
    rw [heq, State.withConsole_f, State.modPair_f, hdone]
  · obtain ⟨con, k, heq⟩ := stageIs_eq (s.groupReady 52).meshRuns 5
    rw [heq, State.withConsole_f, State.modPair_f, hzero]
  · rw [stageIs_pair, Pair.setF_f_ne _ _ _ _ _ _ (by decide), hready]
  · obtain ⟨con, k, heq⟩ := stageIs_eq (s.groupReady 52).meshRuns 5
    rw [heq, State.withConsole_f, State.modPair_f, hcur]
  · obtain ⟨con, k, heq⟩ := stageIs_eq (s.groupReady 52).meshRuns 5
    rw [heq, State.withConsole_parts, State.modPair_parts, hparts, hgparts]
  · obtain ⟨con, k, heq⟩ := stageIs_eq (s.groupReady 52).meshRuns 5
    rw [heq, State.withConsole_mem, State.modPair_mem, hmem, hgmem]

/-! ### Waves (R149, R363) -/

/-- A column that is started and released shows its repairs, and is READY. -/
theorem columnsReady_facts (s : State) : (∃ ts, s.columnsReady = { s with tiles := ts }) ∧
    ∀ t, t < tileCount → (s.columnsReady.tile t).f Reg.vatStatus 2 2 = 1 := by
  obtain ⟨ts, hform, -, hin⟩ := foldl_modTile (fun x => (x.setF Reg.vatStatus 2 2 1).showRepairs) (List.range tileCount) s
    List.nodup_range
  refine ⟨⟨ts, hform⟩, fun t ht => ?_⟩
  have htile : s.columnsReady.tile t = ((s.tile t).setF Reg.vatStatus 2 2 1).showRepairs := by
    rw [State.columnsReady, hform]
    exact hin t (List.mem_range.2 ht)
  rw [htile, Tile.showRepairs, Tile.setF_f_ne _ _ _ _ _ _ (by decide), Tile.setF_f_ne _ _ _ _ _ _ (by decide),
    Tile.setF_f_ne _ _ _ _ _ _ (by decide), Tile.setF_f_same _ _ _ (by decide) (by decide)]
  rfl

theorem tileWaveStart_eq {s : State} {w : Nat} (hw : w ≤ 35) (hready : s.power.ready = 16 + w)
    (hg : s.f Reg.capStart 5 0 = 16 + w) (hboot : s.bootStage = 4) (hheld : s.f Reg.capStart 9 9 = 0) :
    s.tileWaveStart w = (if w = 0 then s.columnsReady else s).startGroup (17 + w) := by
  unfold State.tileWaveStart
  rw [if_neg (by simp [hready, hg, hboot, hheld, hw])]

theorem tileWaveStart_facts {s u : State} {w : Nat} (hw : w ≤ 35)
    (hu : (if w = 0 then s.columnsReady else s).startGroup (17 + w) = u) : u.f Reg.capStart 5 0 = 17 + w ∧
      u.power = s.power ∧ (∀ o, o ≠ Reg.capStart → u.reg o = s.reg o) ∧ (w ≠ 0 → u.tiles = s.tiles) ∧
      (w = 0 → ∀ t, t < tileCount → (u.tile t).f Reg.vatStatus 2 2 = 1) := by
  obtain ⟨⟨ts, hform⟩, hcols⟩ := columnsReady_facts s
  subst hu
  rw [State.startGroup]
  refine ⟨(State.setF_f_same _ _ _ (by decide) (by decide)).trans (Nat.mod_eq_of_lt (by omega)), ?_, fun o ho => ?_,
    fun h => ?_, fun h t ht => ?_⟩
  · rw [State.setF_power]
    split
    · rw [hform]
    · rfl
  · rw [State.setF_reg_ne _ _ _ _ ho]
    split
    · rw [hform]
      rfl
    · rfl
  · rw [State.setF_tiles, if_neg h]
  · rw [State.setF_tile, if_pos h]
    exact hcols t ht

/-! ### Groups that stay out (R364) -/

theorem State.InReset.mono {s u : State} {but but' : List Nat} (h : s.InReset u but) (hsub : ∀ o ∈ but, o ∈ but') :
    s.InReset u but' where
  tiles := h.tiles
  parts := h.parts
  fabric := h.fabric
  cap := h.cap
  aon o ho hne := h.aon o ho fun hm => hne (hsub o hm)
  rest o ho hne := h.rest o ho fun hm => hne (by
    simp only [List.mem_cons] at hm ⊢
    exact hm.imp_right (hsub o))
  refs := h.refs
  time := h.time
  mem := h.mem
  nv := h.nv
  outs := h.outs

theorem railGroupTimeout_held {s : State} {rail : Nat} (hg : s.f Reg.capStart 5 0 ≠ 0)
    (hready : s.power.ready < s.f Reg.capStart 5 0) (hheld : s.f Reg.capStart 9 9 = 0)
    (hstage : s.power.stage = .bus ∨ s.power.stage = .vctl) : s.railGroupTimeout rail =
      ((s.aonCause 0x0700 (heldRail (s.f Reg.capStart 5 0) rail)).holdDevice.setF Reg.capStart 5 0 (s.f Reg.capStart 5 0)).setF
        Reg.capStart 9 9 1 := by
  unfold State.railGroupTimeout
  rw [if_neg (by simp [hg, hready, hheld]), if_pos (by simpa using hstage)]

/-- Before the boot ROM runs the device is held, with the group that stayed out in CAP_START. -/
theorem railGroupTimeout_held_facts {s v u : State} {rail : Nat}
    (hv : (s.aonCause 0x0700 (heldRail (s.f Reg.capStart 5 0) rail)).holdDevice = v)
    (hu : (v.setF Reg.capStart 5 0 (s.f Reg.capStart 5 0)).setF Reg.capStart 9 9 1 = u) : u.power.stage = .held ∧
      s.InReset u [Reg.capAonCause, Reg.capStart] ∧ u.f Reg.capStart 9 9 = 1 ∧
      u.f Reg.capStart 5 0 = s.f Reg.capStart 5 0 ∧
      u.reg Reg.capAonCause = (if s.f Reg.capAonCause 31 31 = 1 then s.reg Reg.capAonCause else BitVec.ofNat 32
        (0x0700 + 2 ^ 16 * (if s.f Reg.capStart 5 0 = 1 then 0x7FF else rail) + 2 ^ 31)) := by
  obtain ⟨hstage, hreset, hcause⟩ := holdDevice_causes _ _ hv
  subst hu
  refine ⟨?_, ((hreset.setF (by decide) 5 0 _).setF (by decide) 9 9 1).mono (by simp), ?_, ?_, ?_⟩
  · rw [State.setF_power, State.setF_power, hstage]
  · rw [State.setF_f_same _ _ _ (by decide) (by decide)]
    rfl
  · rw [State.setF_f_below _ _ _ (by decide) (by decide) (by decide), State.setF_f_same _ _ _ (by decide) (by decide)]
    exact Nat.mod_eq_of_lt (fld_lt _ 5 0)
  · rw [State.setF_reg_ne _ _ _ _ (by decide), State.setF_reg_ne _ _ _ _ (by decide), hcause, heldRail]

/-- One rail off: neither ready nor at a voltage. -/
def State.railOff (s : State) (i : Nat) : State := (s.railSet i Reg.capRailStatus 0 0 0).railSet i Reg.capRailV 11 0 0

/-- The rails of group 3 and up off. -/
def State.railsOff (s : State) : State :=
  ((List.range railCount).filter (fun i => decide (i ≤ 1165))).foldl State.railOff s

theorem railsOff_facts (s : State) :
    (∃ ts ch rf, s.railsOff = { s with tiles := ts, chip := ch, power := { s.power with runFrac := rf } }) ∧
    (∀ o, o < 0x3100 ∨ 0x3200 ≤ o → s.railsOff.reg o = s.reg o) ∧
    ∀ i, i ≤ 1165 → fld (s.railsOff.railReg i Reg.capRailStatus) 0 0 = 0 := by
  obtain ⟨hv, -, hst⟩ := rs4
  have hkeep : ∀ (u : State) (i : Nat), i < 1168 → RailKeep u (u.railOff i) i := fun u i hi =>
    (RailKeep.set u i _ 0 0 0 hi hst).trans (RailKeep.set _ i _ 11 0 0 hi hv)
  obtain ⟨hform, hregs, -, hin⟩ := railsFold State.railOff hkeep
    ((List.range railCount).filter (fun i => decide (i ≤ 1165))) s (List.nodup_range.filter _)
    (fun i hi => List.mem_range.1 (List.mem_filter.1 hi).1)
  refine ⟨hform, hregs, fun i hi => ?_⟩
  have hlt : i < 1168 := by omega
  obtain ⟨w, -, -, -, hw⟩ := hin i (List.mem_filter.2 ⟨List.mem_range.2 hlt, decide_eq_true hi⟩)
  rw [State.railsOff, hw _ hst, State.railOff, railReg_railSet _ _ _ _ _ _ _ _ hlt hlt hv hst,
    if_neg (fun h => absurd h.2 (by decide)), railReg_railSet _ _ _ _ _ _ _ _ hlt hlt hst hst, if_pos ⟨rfl, rfl⟩,
    fld_setFld_same _ _ (by decide) (by decide), Nat.zero_mod]

/-- The rails of group 3 and up go off, and the fabric and the mesh clock with them. -/
def State.startFails (s : State) (rail : Nat) : State :=
  ((((s.aonCause 0x0700 rail).log 0x0700 Src.power sevFatal chipPart [BitVec.ofNat 32 rail]).railsOff.setF
    Reg.capStart 9 9 1).fabricFalls.modPower ({ · with ready := 2, meshOn := false })).modPair 0
      (fun p => p.setF Reg.mbBootStatus 31 16 0x0700)

theorem railGroupTimeout_rom {s : State} {rail : Nat} (hg : s.f Reg.capStart 5 0 ≠ 0)
    (hready : s.power.ready < s.f Reg.capStart 5 0) (hheld : s.f Reg.capStart 9 9 = 0)
    (hstage : s.power.stage = .rom) (hboot : s.bootStage = 4) :
    s.railGroupTimeout rail = (s.startFails rail).stageIs 15 := by
  unfold State.railGroupTimeout State.startFails State.railsOff State.railOff
  rw [if_neg (by simp [hg, hready, hheld]), if_neg (by simp [hstage]), if_neg (by simp [hstage, hboot]),
    fabricFalls_modPower]

theorem startFails_facts (s : State) (rail : Nat) : (s.startFails rail).f Reg.capStart 9 9 = 1 ∧
    ((s.startFails rail).pair 0).f Reg.mbBootStatus 31 16 = 0x0700 ∧ (s.startFails rail).power.ready = 2 ∧
    (s.startFails rail).power.meshOn = false ∧ (s.startFails rail).power.stage = s.power.stage ∧
    (∀ i, i ≤ 1165 → fld ((s.startFails rail).railReg i Reg.capRailStatus) 0 0 = 0) ∧
    (s.startFails rail).reg Reg.capAonCause = (if s.f Reg.capAonCause 31 31 = 1 then s.reg Reg.capAonCause
      else BitVec.ofNat 32 (0x0700 + 2 ^ 16 * rail + 2 ^ 31)) := by
  obtain ⟨⟨ch, hcform⟩, hcause, -⟩ := aonCause_facts s 0x0700 rail
  have hlog := State.RecordsOnly.log (s.aonCause 0x0700 rail) 0x0700 Src.power sevFatal chipPart [BitVec.ofNat 32 rail]
  have hpower : (s.aonCause 0x0700 rail).power = s.power := by rw [hcform]
  unfold State.startFails
  obtain ⟨v, hv⟩ : ∃ v, (s.aonCause 0x0700 rail).log 0x0700 Src.power sevFatal chipPart [BitVec.ofNat 32 rail] = v := ⟨_, rfl⟩
  rw [hv] at hlog ⊢
  obtain ⟨⟨ts, ch', rf, hform⟩, hregs, hoff⟩ := railsOff_facts v
  have hfabric := fabricFalls_portsOnly (v.railsOff.setF Reg.capStart 9 9 1)
  refine ⟨?_, ?_, ?_, ?_, ?_, fun i hi => ?_, ?_⟩
  · rw [State.modPair_f, State.modPower_f, hfabric.f, State.setF_f_same _ _ _ (by decide) (by decide)]
    rfl
  · rw [State.modPair_pair_same, Pair.setF_f_same _ _ _ (by decide) (by decide)]
    rfl
  · rw [State.modPair_power, State.modPower_power]
  · rw [State.modPair_power, State.modPower_power]
  · rw [State.modPair_power, State.modPower_power, hfabric.power, State.setF_power, hform,
      (State.NotesOnly.ofRecords hlog).power, hpower]
  · rw [State.modPair_railReg, State.modPower_railReg, hfabric.railReg,
      railReg_setF _ (by decide) _ _ _ (by omega) rs4.2.2, hoff i hi]
  · rw [State.modPair_reg, State.modPower_reg, hfabric.reg, State.setF_reg_ne _ _ _ _ (by decide), hregs _ (by decide),
      hlog.reg, hcause]

/-- A start-up that fails under the boot ROM leaves STAGE 15 beside it. -/
theorem railGroupTimeout_rom_facts {s u : State} {rail : Nat} (hu : (s.startFails rail).stageIs 15 = u) :
    u.bootStage = 15 ∧ u.f Reg.capStart 9 9 = 1 ∧ (u.pair 0).f Reg.mbBootStatus 31 16 = 0x0700 ∧ u.power.ready = 2 ∧
      u.power.meshOn = false ∧ u.power.stage = s.power.stage ∧
      (∀ i, i ≤ 1165 → fld (u.railReg i Reg.capRailStatus) 0 0 = 0) ∧
      u.reg Reg.capAonCause = (if s.f Reg.capAonCause 31 31 = 1 then s.reg Reg.capAonCause
        else BitVec.ofNat 32 (0x0700 + 2 ^ 16 * rail + 2 ^ 31)) := by
  obtain ⟨hheld, hcode, hready, hmesh, hstage, hoff, hcause⟩ := startFails_facts s rail
  have hboot := stageIs_bootStage (s.startFails rail) (n := 15) (by decide)
  have hpair := stageIs_pair (s.startFails rail) 15
  obtain ⟨con, k, heq⟩ := stageIs_eq (s.startFails rail) 15
  generalize s.startFails rail = v at *
  rw [hu] at hboot hpair heq
  refine ⟨hboot, ?_, ?_, ?_, ?_, ?_, fun i hi => ?_, ?_⟩
  · rw [heq, State.withConsole_f, State.modPair_f, hheld]
  · rw [hpair, Pair.setF_f_above _ _ _ (by decide) (by decide) (by decide), hcode]
  · rw [heq, State.withConsole_power, State.modPair_power, hready]
  · rw [heq, State.withConsole_power, State.modPair_power, hmesh]
  · rw [heq, State.withConsole_power, State.modPair_power, hstage]
  · rw [heq, State.withConsole_railReg, State.modPair_railReg, hoff i hi]
  · rw [heq, State.withConsole_reg, State.modPair_reg, hcause]

/-! ### The zeroing of a unit (R365) -/

theorem zeroRegion_facts (s : State) (k r : Nat) : ∃ ts,
    s.zeroRegion k r = { s with mem := memZero s.mem (regionBase k r) (2 ^ 26), tiles := ts } ∧
      ∀ t, t / 64 ≠ k → tabGet tileD ts t = s.tile t := by
  obtain ⟨ts, hform, hget⟩ := foldl_range_tiles (fun t => { t with pailBad := t.pailBad.filter (fun p => p.1 / 2 ^ 17 != r) })
    (64 * k) 64 ({ s with mem := memZero s.mem (regionBase k r) (2 ^ 26) } : State)
  refine ⟨ts, hform, fun t ht => (hget t).trans (if_neg (by omega))⟩

/-- A unit without its bytes: both regions of its Pail, and its columns' Vat with their errors. -/
theorem zeroUnit_facts (s : State) (k : Nat) : ∃ ts, s.zeroUnit k true = { s with
    mem := memZero (memZero (memZero s.mem (regionBase k 0) (2 ^ 26)) (regionBase k 1) (2 ^ 26)) (k * 2 ^ 34) (2 ^ 34), tiles := ts } ∧
    (∀ t, t / 64 = k → (tabGet tileD ts t).col.errs = []) ∧ ∀ t, t / 64 ≠ k → tabGet tileD ts t = s.tile t := by
  obtain ⟨ts0, hform0, hout0⟩ := zeroRegion_facts s k 0
  obtain ⟨ts1, hform1, hout1⟩ := zeroRegion_facts (s.zeroRegion k 0) k 1
  rw [hform0] at hform1 hout1
  obtain ⟨ts, hform, hget⟩ := foldl_range_tiles (fun t => { t with col := { t.col with errs := [] } }) (64 * k) 64
    ({ s with mem := memZero (memZero (memZero s.mem (regionBase k 0) (2 ^ 26)) (regionBase k 1) (2 ^ 26)) (k * 2 ^ 34) (2 ^ 34)
              tiles := ts1 } : State)
  refine ⟨ts, ?_, fun t ht => ?_, fun t ht => ?_⟩
  · unfold State.zeroUnit
    rw [hform0, hform1]
    exact hform
  · rw [hget, if_pos (by omega)]
  · rw [hget, if_neg (by omega)]
    exact (hout1 t ht).trans (hout0 t ht)

theorem startupZeroingDone_eq {s : State} {k : Nat} (hk : k < 18) (hon : s.f Reg.capStart (10 + k) (10 + k) = 1) :
    s.startupZeroingDone k = (s.zeroUnit k true).setF Reg.capStart (10 + k) (10 + k) 0 := by
  unfold State.startupZeroingDone
  rw [if_neg (by simp [hon, hk])]

theorem startupZeroingDone_facts {s u : State} {k : Nat} (hk : k < 18)
    (hu : (s.zeroUnit k true).setF Reg.capStart (10 + k) (10 + k) 0 = u) : u.f Reg.capStart (10 + k) (10 + k) = 0 ∧
      (∀ a, (k * 2 ^ 34 ≤ a ∧ a < (k + 1) * 2 ^ 34) ∨ (regionBase k 0 ≤ a ∧ a < regionBase k 1 + 2 ^ 26) →
        tabGet byteD u.mem a = 0) ∧
      (∀ a, ¬(k * 2 ^ 34 ≤ a ∧ a < (k + 1) * 2 ^ 34) → ¬(regionBase k 0 ≤ a ∧ a < regionBase k 1 + 2 ^ 26) →
        tabGet byteD u.mem a = tabGet byteD s.mem a) ∧
      (∀ t, t < tileCount → t / 64 = k → (u.tile t).col.errs = []) ∧ (∀ t, t / 64 ≠ k → u.tile t = s.tile t) ∧
      u.parts = s.parts ∧ u.power = s.power := by
  obtain ⟨ts, hform, hin, hout⟩ := zeroUnit_facts s k
  have hnext : regionBase k 1 = regionBase k 0 + 2 ^ 26 := by
    unfold regionBase
    omega
  have hmem : u.mem = memZero (memZero (memZero s.mem (regionBase k 0) (2 ^ 26)) (regionBase k 1) (2 ^ 26)) (k * 2 ^ 34) (2 ^ 34) := by
    rw [← hu, State.setF_mem, hform]
  have hget : ∀ a, tabGet byteD u.mem a =
      if (k * 2 ^ 34 ≤ a ∧ a < (k + 1) * 2 ^ 34) ∨ (regionBase k 0 ≤ a ∧ a < regionBase k 1 + 2 ^ 26) then 0
      else tabGet byteD s.mem a := fun a => by
    rw [hmem, memZero_get, memZero_get, memZero_get]
    by_cases ha : (k * 2 ^ 34 ≤ a ∧ a < (k + 1) * 2 ^ 34) ∨ (regionBase k 0 ≤ a ∧ a < regionBase k 1 + 2 ^ 26)
    · rw [if_pos ha]
      split_ifs <;> [rfl; rfl; rfl; omega]
    · rw [if_neg ha, if_neg (by omega), if_neg (by omega), if_neg (by omega)]
  refine ⟨?_, fun a ha => by rw [hget, if_pos ha], fun a h h' => by rw [hget, if_neg (by tauto)], fun t _ ht => ?_,
    fun t ht => ?_, ?_, ?_⟩
  · rw [← hu, State.setF_f_same _ _ _ (by omega) (by omega), Nat.zero_mod]
  · rw [← hu, State.setF_tile, hform]
    exact hin t ht
  · rw [← hu, State.setF_tile, hform]
    exact hout t ht
  · rw [← hu, State.setF_parts, hform]
  · rw [← hu, State.setF_power, hform]

end Sys2Proof.Machine
end

section
open Sys2Proof Sys2Proof.Machine

/-- Settles O54: each group's rails come up before what follows it, and a group that stays out ends the start-up. -/
theorem railGroupsComeUp : Obligations.RailGroupsComeUp := by
  refine ⟨⟨fun s hg hheld hstage => ?_, fun s hg hheld hstage => ?_, fun s g h3 hlt hg hheld hstage hboot hnext => ?_,
      fun s hg hheld hstage hboot hnext => ?_⟩, fun s w hw hready hg hboot hheld => ?_,
    ⟨fun s rail hg hready hheld hstage => ?_, fun s rail hg hready hheld hstage hboot => ?_⟩, fun s k hk hon => ?_⟩
  · exact ⟨_, congrArg Host.Outcome.next (railGroupReady_bus hg hheld hstage), railGroupReady_bus_facts rfl⟩
  · exact ⟨_, congrArg Host.Outcome.next (railGroupReady_vctl hg hheld hstage), railGroupReady_vctl_facts rfl⟩
  · obtain ⟨hready, hrom, hrest⟩ := railGroupReady_rom_facts hlt hg rfl
    exact ⟨_, congrArg Host.Outcome.next (railGroupReady_rom h3 hg hheld hstage hboot hnext), hready, hrom.trans hstage, hrest⟩
  · exact ⟨_, congrArg Host.Outcome.next (railGroupReady_rom (by decide) hg hheld hstage hboot hnext), bootEnds_facts rfl⟩
  · exact ⟨_, congrArg Host.Outcome.next (tileWaveStart_eq hw hready hg hboot hheld), tileWaveStart_facts hw rfl⟩
  · exact ⟨_, congrArg Host.Outcome.next (railGroupTimeout_held hg hready hheld hstage), railGroupTimeout_held_facts rfl rfl⟩
  · obtain ⟨h1, h2, h3, h4, h5, hrom, hrest⟩ := railGroupTimeout_rom_facts (s := s) (rail := rail) rfl
    exact ⟨_, congrArg Host.Outcome.next (railGroupTimeout_rom hg hready hheld hstage hboot), h1, h2, h3, h4, h5,
      hrom.trans hstage, hrest⟩
  · exact ⟨_, congrArg Host.Outcome.next (startupZeroingDone_eq hk hon), startupZeroingDone_facts hk rfl⟩
end

section
namespace Sys2Proof.Machine

/-! ### The input and the intermediate bus (R352, R354) -/

theorem blockingSwitchOpen_eq {s : State} (hon : s.power.stage ≠ .off) : s.blockingSwitchOpen =
    (s.setF Reg.capInputFlags 0 0 1).modPower ({ · with blockOpen := true }) := by
  unfold State.blockingSwitchOpen
  rw [if_neg hon]
  rfl

theorem blockingSwitchOpen_facts {s u : State}
    (hu : (s.setF Reg.capInputFlags 0 0 1).modPower ({ · with blockOpen := true }) = u) :
    u.f Reg.capInputFlags 0 0 = 1 ∧ u.power = { s.power with blockOpen := true } ∧
      (∀ o, o ≠ Reg.capInputFlags → u.reg o = s.reg o) ∧ u.tiles = s.tiles := by
  subst hu
  refine ⟨?_, ?_, fun o ho => ?_, ?_⟩
  · rw [State.modPower_f, State.setF_f_same _ _ _ (by decide) (by decide)]
    rfl
  · rw [State.modPower_power, State.setF_power]
  · rw [State.modPower_reg, State.setF_reg_ne _ _ _ _ ho]
  · rw [State.modPower_tiles, State.setF_tiles]

/-- Every tile with no grant. -/
def State.noGrants (s : State) : State := { s with tiles := tabMap tileD (fun t => t.setF Reg.capTileGrant 6 0 0) s.tiles }

theorem noGrant_reset : Tile.reset.grant = 0 := by decide

theorem noGrants_grant (s : State) (t : Nat) : (s.noGrants.tile t).grant = 0 := by
  obtain ⟨x, hx⟩ | hreset := tabGet_map tileD (fun t => t.setF Reg.capTileGrant 6 0 0) s.tiles t
  · have hset : s.noGrants.tile t = x.setF Reg.capTileGrant 6 0 0 := hx
    rw [hset, Tile.grant, Tile.setF_f_same _ _ _ (by decide) (by decide), Nat.zero_mod]
  · have hdefault : s.noGrants.tile t = tileD t := hreset
    rw [hdefault]
    exact noGrant_reset

theorem busLow_eq {s : State} (hon : s.power.meshOn = true) (hlow : s.power.busLow = false) :
    s.busLow = ((s.setF Reg.capInputFlags 2 2 1).modPower ({ · with busLow := true })).noGrants := by
  unfold State.busLow
  rw [if_neg (by simp [hon, hlow])]
  rfl

theorem busLow_facts {s u : State}
    (hu : ((s.setF Reg.capInputFlags 2 2 1).modPower ({ · with busLow := true })).noGrants = u) :
    u.power = { s.power with busLow := true } ∧ u.f Reg.capInputFlags 2 2 = 1 ∧ (∀ t, (u.tile t).grant = 0) ∧
      u.parts = s.parts ∧ u.mem = s.mem := by
  subst hu
  refine ⟨?_, ?_, noGrants_grant _, ?_, ?_⟩
  · exact congrArg (fun p : Power => { p with busLow := true }) (State.setF_power ..)
  · exact State.setF_f_same _ _ _ (by decide) (by decide)
  · exact State.setF_parts s Reg.capInputFlags 2 2 1
  · exact State.setF_mem s Reg.capInputFlags 2 2 1

/-! ### The rail loop (R372, R373) -/

/-- RAIL after a tick: it falls by 16 above 15/16 of the limit, and rises by 1 below 13/16. -/
def railNext (lim n sum rail : Nat) : Nat :=
  if lim * 15 * n < 16 * sum then rail - 16 else if 16 * sum < lim * 13 * n then min 64 (rail + 1) else rail

/-- A tile's power records after a tick: the samples, the readings shown, and RAIL; the grant falls with it. -/
def Tile.railLooped (x : Tile) (l : List (Nat × Nat)) (mean mv rail : Nat) : Tile :=
  let y := ((({ x with railSamples := l } : Tile).setF Reg.capRailI 19 0 mean).setF Reg.capRailV 27 16 mv).setF
    Reg.capTileGrant 14 8 rail
  if rail < y.grant then y.setF Reg.capTileGrant 6 0 rail else y

/-- A tile differs from another at most in its registers and its rail's samples. -/
def Tile.RailOnly (x y : Tile) : Prop := ∃ l rg, y = { x with railSamples := l, regs := rg }

theorem Tile.RailOnly.setF {x y : Tile} (h : x.RailOnly y) (o hi lo v : Nat) : x.RailOnly (y.setF o hi lo v) := by
  obtain ⟨l, rg, rfl⟩ := h
  exact ⟨l, _, rfl⟩

theorem Tile.RailOnly.same {x y : Tile} (h : x.RailOnly y) : x.MatrixSame y ∧ x.RennetSame y ∧ x.QueuesSame y ∧
    x.CoreSame y ∧ x.ScratchSame y ∧ x.MemorySame y ∧ x.TrainSame y := by
  obtain ⟨l, rg, rfl⟩ := h
  exact ⟨⟨rfl, rfl, rfl, rfl, rfl, rfl, rfl, rfl, rfl, rfl, rfl, rfl, rfl, rfl, rfl⟩, ⟨rfl, rfl, rfl, rfl, rfl⟩,
    ⟨rfl, rfl, rfl⟩, ⟨rfl, rfl, rfl, rfl, rfl, rfl⟩, ⟨rfl, rfl, rfl⟩,
    ⟨rfl, rfl, rfl, rfl, rfl, rfl, rfl, rfl, rfl, rfl, rfl, rfl⟩, ⟨rfl, rfl, rfl, rfl⟩⟩

theorem railNext_lt {lim n sum rail : Nat} (h : rail < 2 ^ 7) : railNext lim n sum rail < 2 ^ 7 := by
  unfold railNext
  split_ifs <;> omega

theorem Tile.railLooped_facts (x : Tile) (l : List (Nat × Nat)) (mean mv : Nat) {rail : Nat} (hrail : rail < 2 ^ 7) :
    x.RailOnly (x.railLooped l mean mv rail) ∧ (x.railLooped l mean mv rail).railSamples = l ∧
    (x.railLooped l mean mv rail).f Reg.capTileGrant 14 8 = rail ∧
    (x.railLooped l mean mv rail).grant = min x.grant rail ∧
    (x.railLooped l mean mv rail).f Reg.capTileGrant 22 16 = x.f Reg.capTileGrant 22 16 ∧
    (x.railLooped l mean mv rail).reg Reg.capTileLimcnt = x.reg Reg.capTileLimcnt := by
  obtain ⟨y, hy⟩ : ∃ y, ((({ x with railSamples := l } : Tile).setF Reg.capRailI 19 0 mean).setF Reg.capRailV 27 16 mv).setF
      Reg.capTileGrant 14 8 rail = y := ⟨_, rfl⟩
  have honly : x.RailOnly y := by
    rw [← hy]
    exact ((Tile.RailOnly.setF ⟨l, x.regs, rfl⟩ ..).setF ..).setF ..
  have hl : y.railSamples = l := by
    rw [← hy, Tile.setF_railSamples, Tile.setF_railSamples, Tile.setF_railSamples]
  have hset : y.f Reg.capTileGrant 14 8 = rail := by
    rw [← hy, Tile.setF_f_same _ _ _ (by decide) (by decide)]
    exact Nat.mod_eq_of_lt hrail
  have hgrant : y.grant = x.grant := by
    rw [← hy, Tile.grant, Tile.setF_f_below _ _ _ (by decide) (by decide) (by decide), Tile.setF_f_ne _ _ _ _ _ _ (by decide),
      Tile.setF_f_ne _ _ _ _ _ _ (by decide)]
    rfl
  have htherm : y.f Reg.capTileGrant 22 16 = x.f Reg.capTileGrant 22 16 := by
    rw [← hy, Tile.setF_f_above _ _ _ (by decide) (by decide) (by decide), Tile.setF_f_ne _ _ _ _ _ _ (by decide),
      Tile.setF_f_ne _ _ _ _ _ _ (by decide)]
    rfl
  have hcnt : y.reg Reg.capTileLimcnt = x.reg Reg.capTileLimcnt := by
    rw [← hy, Tile.setF_reg_ne _ _ _ _ (by decide), Tile.setF_reg_ne _ _ _ _ (by decide), Tile.setF_reg_ne _ _ _ _ (by decide)]
    rfl
  have hdef : x.railLooped l mean mv rail = if rail < y.grant then y.setF Reg.capTileGrant 6 0 rail else y := by
    rw [← hy]
    rfl
  rw [hdef]
  by_cases hfall : rail < y.grant
  · rw [if_pos hfall]
    refine ⟨honly.setF .., ?_, ?_, ?_, ?_, ?_⟩
    · rw [Tile.setF_railSamples, hl]
    · rw [Tile.setF_f_above _ _ _ (by decide) (by decide) (by decide), hset]
    · rw [Tile.grant, Tile.setF_f_same _ _ _ (by decide) (by decide), ← hgrant, Nat.min_eq_right hfall.le]
      exact Nat.mod_eq_of_lt hrail
    · rw [Tile.setF_f_above _ _ _ (by decide) (by decide) (by decide), htherm]
    · rw [Tile.setF_reg_ne _ _ _ _ (by decide), hcnt]
  · rw [if_neg hfall]
    exact ⟨honly, hl, hset, by rw [← hgrant]; omega, htherm, hcnt⟩

/-- A tile whose window above the limit at RAIL = 0 is counted. -/
def Tile.limitCounted (x : Tile) (excess : Bool) : Tile := if excess then x.count Reg.capTileLimcnt 31 0 1 else x

/-- A tile after a tick with the samples `l`. -/
def Tile.railTicked (x : Tile) (l : List (Nat × Nat)) (lim mv : Nat) : Tile :=
  (x.railLooped l (((l.take 4).map (·.1)).sum / (l.take 4).length) mv
    (railNext lim l.length (l.map (·.1)).sum (x.f Reg.capTileGrant 14 8))).limitCounted
      (decide (8 ≤ l.length) && decide (lim * l.length < (l.map (·.1)).sum) && x.f Reg.capTileGrant 14 8 == 0)

/-- A tick of the rail loop changes its tile, and beside it only records. -/
theorem railLoopTick_records {s : State} {t : Nat} (ma : Nat) (ht : t < tileCount)
    (hon : (s.tile t).f Reg.capRailStatus 0 0 = 1) :
    (s.setTile t ((s.tile t).railTicked (((ma, 0) :: (s.tile t).railSamples).take 8) (s.f Reg.capTileLimit 10 0)
      (Config.freeValue s.freeCount 0))).RecordsOnly (s.railLoopTick t ma) := by
  unfold State.railLoopTick
  rw [if_neg (by simp [ht, hon])]
  extract_lets x l sum last lim rail rail' excess x1 x2 x3 x4 first x5 src s1 part s2
  have hdrawn : (s.setTile t x5).RecordsOnly s1 := .drawn _ _
  have htrace : s1.RecordsOnly s2 := .traceIf _ _ _ _ _
  have hlog : s2.RecordsOnly (if first = true then s2.log 0x0702 Src.power sevWarn part [BitVec.ofNat 32 t] else s2) := by
    split
    exacts [.log _ _ _ _ _ _, .refl _]
  exact (hdrawn.trans htrace).trans hlog

theorem Tile.count_f_same (t : Tile) (o : Nat) {hi lo : Nat} (n : Nat) (h1 : lo ≤ hi) (h2 : hi < 32) :
    (t.count o hi lo n).f o hi lo = min (2 ^ (hi + 1 - lo) - 1) (t.f o hi lo + n) := by
  have := Nat.two_pow_pos (hi + 1 - lo)
  rw [Tile.count, Tile.setF_f_same _ _ _ h1 h2, satAdd, Nat.mod_eq_of_lt (by omega)]

theorem Tile.limitCounted_facts (x : Tile) (excess : Bool) : (∀ y : Tile, y.RailOnly x → y.RailOnly (x.limitCounted excess)) ∧
    (x.limitCounted excess).railSamples = x.railSamples ∧
    (∀ o, o ≠ Reg.capTileLimcnt → (x.limitCounted excess).reg o = x.reg o) ∧
    (excess = true → (x.limitCounted excess).f Reg.capTileLimcnt 31 0 = min 0xFFFFFFFF (x.f Reg.capTileLimcnt 31 0 + 1)) ∧
    (excess = false → (x.limitCounted excess).reg Reg.capTileLimcnt = x.reg Reg.capTileLimcnt) := by
  cases excess with
  | true =>
    have hcount : x.limitCounted true = x.count Reg.capTileLimcnt 31 0 1 := rfl
    rw [hcount]
    refine ⟨fun y h => ?_, ?_, fun o ho => ?_, fun _ => ?_, fun h => (nomatch h)⟩
    · rw [Tile.count]
      exact h.setF ..
    · rw [Tile.count, Tile.setF_railSamples]
    · rw [Tile.count, Tile.setF_reg_ne _ _ _ _ ho]
    · rw [Tile.count_f_same _ _ _ (by decide) (by decide)]
      norm_num
  | false => exact ⟨fun y h => h, rfl, fun _ _ => rfl, fun h => (nomatch h), fun _ => rfl⟩

/-- A tick with its eight samples. -/
theorem Tile.railTicked_facts {x : Tile} {l : List (Nat × Nat)} {sum : Nat} (lim mv : Nat) (hlen : l.length = 8)
    (hsum : sum = (l.map (·.1)).sum) : x.RailOnly (x.railTicked l lim mv) ∧ (x.railTicked l lim mv).railSamples = l ∧
      (x.railTicked l lim mv).f Reg.capTileGrant 14 8 = railNext lim 8 sum (x.f Reg.capTileGrant 14 8) ∧
      (x.railTicked l lim mv).grant = min x.grant (railNext lim 8 sum (x.f Reg.capTileGrant 14 8)) ∧
      (x.railTicked l lim mv).f Reg.capTileGrant 22 16 = x.f Reg.capTileGrant 22 16 ∧
      (lim * 8 < sum ∧ x.f Reg.capTileGrant 14 8 = 0 → (x.railTicked l lim mv).f Reg.capTileLimcnt 31 0 =
        min 0xFFFFFFFF (x.f Reg.capTileLimcnt 31 0 + 1)) ∧
      (¬(lim * 8 < sum ∧ x.f Reg.capTileGrant 14 8 = 0) →
        (x.railTicked l lim mv).reg Reg.capTileLimcnt = x.reg Reg.capTileLimcnt) := by
  unfold Tile.railTicked
  rw [hlen, ← hsum]
  obtain ⟨honly, hsamples, hrail, hgrant, htherm, hcnt⟩ := x.railLooped_facts l
    (((l.take 4).map (·.1)).sum / (l.take 4).length) mv
    (railNext_lt (lim := lim) (n := 8) (sum := sum) (show x.f Reg.capTileGrant 14 8 < 2 ^ 7 from fld_lt _ 14 8))
  generalize x.railLooped l (((l.take 4).map (·.1)).sum / (l.take 4).length) mv
    (railNext lim 8 sum (x.f Reg.capTileGrant 14 8)) = y at *
  obtain ⟨hkeep, hsame, hregs, hyes, hno⟩ := y.limitCounted_facts
    (decide (8 ≤ 8) && decide (lim * 8 < sum) && x.f Reg.capTileGrant 14 8 == 0)
  have hf : ∀ hi lo, (y.limitCounted (decide (8 ≤ 8) && decide (lim * 8 < sum) && x.f Reg.capTileGrant 14 8 == 0)).f
      Reg.capTileGrant hi lo = y.f Reg.capTileGrant hi lo := fun hi lo => by
    rw [Tile.f, hregs _ (by decide), Tile.f]
  refine ⟨hkeep x honly, hsame.trans hsamples, (hf 14 8).trans hrail, ?_, (hf 22 16).trans htherm, fun h => ?_, fun h => ?_⟩
  · rw [Tile.grant, hf, ← Tile.grant, hgrant]
  · rw [hyes (by simp [h.1, h.2]), Tile.f, hcnt, Tile.f]
  · rw [hno (by simpa using h), hcnt]

theorem railLoopTick_facts {s u : State} {t ma : Nat} {x : Tile} {sum lim : Nat} (hx : x = s.tile t) (ht : t < tileCount)
    (hon : x.f Reg.capRailStatus 0 0 = 1) (hfull : 7 ≤ x.railSamples.length)
    (hsum : sum = (((ma, 0) :: x.railSamples.take 7).map (·.1)).sum) (hlim : lim = s.f Reg.capTileLimit 10 0)
    (hu : s.railLoopTick t ma = u) : s.TileOnlyNotes u t ∧ ∃ mv, u.tile t = x.railTicked ((ma, 0) :: x.railSamples.take 7) lim mv := by
  subst hx hlim hu
  have h := railLoopTick_records ma ht hon
  rw [List.take_succ_cons] at h
  exact ⟨⟨_, .ofRecords h⟩, _, (h.tile t).trans (State.setTile_tile_same _ _ _)⟩

@[simp] theorem State.modPower_meshStop (s : State) (x : Power → Power) : (s.modPower x).meshStop = s.meshStop := rfl

/-! ### The rails follow the mesh frequency (R357, R399) -/

theorem tileMv_lt (t mhz : Nat) (ofs : Int) : tileMv t mhz ofs < 2 ^ 12 := by
  have hclamp : ∀ z : Int, (max 420 (min 780 z)).toNat < 2 ^ 12 := fun z => by omega
  exact hclamp _

theorem railReg_tile (s : State) {t : Nat} (ht : t < tileCount) (o : Nat) : s.railReg t o = (s.tile t).reg o := if_pos ht

/-- A rail that moves changes its set voltage alone. -/
theorem railMove_keep (s : State) {i : Nat} (hi : i < 1168) : RailKeep s (s.railMove i) i := .set s i _ _ _ _ hi rs4.1

theorem railMove_mv (s : State) {i : Nat} (hi : i < 1168) :
    fld ((s.railMove i).railReg i Reg.capRailV) 11 0 = s.railMv i s.mhzNow % 2 ^ 12 := by
  rw [State.railMove, railReg_railSet _ _ _ _ _ _ _ _ hi hi rs4.1 rs4.1, if_pos ⟨rfl, rfl⟩,
    fld_setFld_same _ _ (by decide) (by decide)]

theorem tileRailsMove_facts (s : State) : (∃ ts ch rf, s.tileRailsMove = { s with
      tiles := ts, chip := ch, power := { s.power with runFrac := rf } }) ∧
    (∀ o, o < 0x3100 ∨ 0x3200 ≤ o → s.tileRailsMove.reg o = s.reg o) ∧
    ∀ t, t < tileCount → (s.tileRailsMove.tile t).f Reg.capRailV 11 0 =
      tileMv t s.mhzNow (toSigned 4 ((s.tile t).f Reg.capRailStatus 7 4)) := by
  have hlt : ∀ t, t < tileCount → t < 1168 := fun t ht => Nat.lt_trans ht (by decide)
  obtain ⟨hform, hregs, -, hin⟩ := railsFold State.railMove (fun s i => railMove_keep s) (List.range tileCount) s
    List.nodup_range (fun i hi => hlt i (List.mem_range.1 hi))
  refine ⟨hform, hregs, fun t ht => ?_⟩
  obtain ⟨w, hwform, hwregs, hwrail, hw⟩ := hin t (List.mem_range.2 ht)
  have hmv := railMove_mv w (hlt t ht)
  rw [railMv_congr s w t (hlt t ht) hwform hwregs (hwrail _ rs4.2.2), State.railMv, if_pos ht,
    Nat.mod_eq_of_lt (tileMv_lt _ _ _), railReg_tile s ht] at hmv
  rw [Tile.f, ← railReg_tile _ ht, State.tileRailsMove, hw _ rs4.1, hmv, Tile.f]

/-- CLK_MESH_CUR shows that a change is in progress, and the power record its frequency. -/
def State.locking (s : State) (mhz : Nat) : State :=
  (s.setF Reg.clkMeshCur 31 31 1).modPower ({ · with change := .locking mhz })

theorem meshStarts_eq (s : State) (req : Nat) : s.meshStarts req =
    if s.f Reg.clkMeshCur 10 0 < meshMhz req then (s.locking (meshMhz req)).tileRailsMove else s.locking (meshMhz req) := by
  unfold State.meshStarts
  simp only [decide_eq_true_eq]
  rfl

theorem locking_facts (s : State) (mhz : Nat) : (s.locking mhz).power = { s.power with change := .locking mhz } ∧
    (s.locking mhz).f Reg.clkMeshCur 31 31 = 1 ∧ (s.locking mhz).f Reg.clkMeshCur 10 0 = s.f Reg.clkMeshCur 10 0 ∧
    (∀ o, o ≠ Reg.clkMeshCur → (s.locking mhz).reg o = s.reg o) ∧ (s.locking mhz).tiles = s.tiles ∧
    (s.locking mhz).meshStop = s.meshStop := by
  unfold State.locking
  refine ⟨?_, ?_, ?_, fun o ho => ?_, ?_, ?_⟩
  · rw [State.modPower_power, State.setF_power]
  · rw [State.modPower_f, State.setF_f_same _ _ _ (by decide) (by decide)]
    rfl
  · rw [State.modPower_f, State.setF_f_below _ _ _ (by decide) (by decide) (by decide)]
  · rw [State.modPower_reg, State.setF_reg_ne _ _ _ _ ho]
  · rw [State.modPower_tiles, State.setF_tiles]
  · rw [State.modPower_meshStop, State.setF_meshStop]

/-- A change starts: its frequency is being locked, CLK_MESH_CUR keeps the old one, and on a rise the rails move first. -/
theorem meshStarts_facts (s : State) (req : Nat) : (s.meshStarts req).power.change = .locking (meshMhz req) ∧
    (s.meshStarts req).power.nextMhz = s.power.nextMhz ∧ (s.meshStarts req).f Reg.clkMeshCur 31 31 = 1 ∧
    (s.meshStarts req).f Reg.clkMeshCur 10 0 = s.f Reg.clkMeshCur 10 0 ∧
    (∀ o, o ≠ Reg.clkMeshCur → o < 0x3100 ∨ 0x3200 ≤ o → (s.meshStarts req).reg o = s.reg o) ∧
    (s.meshStarts req).meshStop = s.meshStop ∧
    (s.f Reg.clkMeshCur 10 0 < meshMhz req → ∀ t, t < tileCount → ((s.meshStarts req).tile t).f Reg.capRailV 11 0 =
      tileMv t (meshMhz req) (toSigned 4 ((s.tile t).f Reg.capRailStatus 7 4))) := by
  obtain ⟨hpower, hbusy, hcur, hregs, htiles, hstop⟩ := locking_facts s (meshMhz req)
  rw [meshStarts_eq]
  by_cases hrise : s.f Reg.clkMeshCur 10 0 < meshMhz req
  · rw [if_pos hrise]
    obtain ⟨⟨ts, ch, rf, hform⟩, hmregs, hmv⟩ := tileRailsMove_facts (s.locking (meshMhz req))
    have hmhz : (s.locking (meshMhz req)).mhzNow = meshMhz req := by
      rw [State.mhzNow, hpower, hcur]
      exact Nat.max_eq_left hrise.le
    have htile : ∀ t, (s.locking (meshMhz req)).tile t = s.tile t := fun t => by rw [State.tile, htiles, State.tile]
    refine ⟨?_, ?_, ?_, ?_, fun o ho hr => ?_, ?_, fun _ t ht => ?_⟩
    · rw [hform, hpower]
    · rw [hform, hpower]
    · rw [State.f, hmregs _ (by decide), ← State.f, hbusy]
    · rw [State.f, hmregs _ (by decide), ← State.f, hcur]
    · rw [hmregs o hr, hregs o ho]
    · rw [hform, hstop]
    · rw [hmv t ht, hmhz, htile]
  · rw [if_neg hrise]
    exact ⟨by rw [hpower], by rw [hpower], hbusy, hcur, fun o ho _ => hregs o ho, hstop, fun h => absurd h hrise⟩

/-! ### A request for another frequency (R399, R414) -/

/-- A write of Root or of the host's physical function reaches CLK_MESH_REQ. -/
theorem chipReg_meshReq {s : State} {a : Agent} (ha : a = .pf ∨ a = .root) (hup : s.agentUp a = true) (val : Word) :
    s.chipReg a Reg.clkMeshReq val = s.meshFreqChange val := by
  have hplace : portPlace Reg.clkMeshReq = none := rfl
  obtain ⟨r, hrow⟩ : ∃ r, chipRow? Reg.clkMeshReq = some r := ⟨_, rfl⟩
  have hclock : pfClock Reg.clkMeshReq = true := rfl
  obtain rfl | rfl := ha <;>
    simp [State.chipReg, State.reach, hup, State.asAgent, State.chipWrite, mayChip, hplace, hrow, hclock]

theorem meshFreqChange_eq {s : State} (val : Word) (hon : s.power.meshOn = true) (hroot : s.rootUp = true) :
    s.meshFreqChange val = if s.power.change = .none then (s.setF Reg.clkMeshReq 10 0 (fld val 10 0)).meshStarts (fld val 10 0)
      else (s.setF Reg.clkMeshReq 10 0 (fld val 10 0)).modPower ({ · with nextMhz := some (fld val 10 0) }) := by
  have hr : (s.setF Reg.clkMeshReq 10 0 (fld val 10 0)).rootUp = s.rootUp := rfl
  unfold State.meshFreqChange
  extract_lets req v
  rw [if_neg (by simp only [v, req, hr, hroot, State.setF_power, hon]; decide)]
  by_cases hidle : s.power.change = .none
  · rw [if_pos hidle, if_pos (by rw [State.setF_power, hidle])]
  · rw [if_neg hidle, if_neg (by rw [State.setF_power]; exact hidle)]
    rfl

theorem meshFreqChange_facts {s u : State} {val : Word}
    (hu : (if s.power.change = .none then (s.setF Reg.clkMeshReq 10 0 (fld val 10 0)).meshStarts (fld val 10 0)
      else (s.setF Reg.clkMeshReq 10 0 (fld val 10 0)).modPower ({ · with nextMhz := some (fld val 10 0) })) = u) :
    u.f Reg.clkMeshReq 10 0 = fld val 10 0 ∧
      (s.power.change = .none → u.power.change = .locking (meshMhz (fld val 10 0)) ∧ u.f Reg.clkMeshCur 31 31 = 1 ∧
        u.f Reg.clkMeshCur 10 0 = s.f Reg.clkMeshCur 10 0 ∧
        (s.f Reg.clkMeshCur 10 0 < meshMhz (fld val 10 0) → ∀ t, t < tileCount → (u.tile t).f Reg.capRailV 11 0 =
          tileMv t (meshMhz (fld val 10 0)) (toSigned 4 ((s.tile t).f Reg.capRailStatus 7 4)))) ∧
      (s.power.change ≠ .none → u.power = { s.power with nextMhz := some (fld val 10 0) } ∧ u.tiles = s.tiles) := by
  have hreq : (s.setF Reg.clkMeshReq 10 0 (fld val 10 0)).f Reg.clkMeshReq 10 0 = fld val 10 0 :=
    (State.setF_f_same _ _ _ (by decide) (by decide)).trans (Nat.mod_eq_of_lt (fld_lt _ 10 0))
  have hcur : (s.setF Reg.clkMeshReq 10 0 (fld val 10 0)).f Reg.clkMeshCur 10 0 = s.f Reg.clkMeshCur 10 0 :=
    State.setF_f_ne _ _ _ _ _ _ (by decide)
  by_cases hidle : s.power.change = .none
  · rw [if_pos hidle] at hu
    obtain ⟨hchange, -, hbusy, hmcur, hregs, -, hmv⟩ :=
      meshStarts_facts (s.setF Reg.clkMeshReq 10 0 (fld val 10 0)) (fld val 10 0)
    rw [hu] at hchange hbusy hmcur hregs hmv
    rw [hcur] at hmcur hmv
    simp only [State.setF_tile] at hmv
    refine ⟨?_, fun _ => ⟨hchange, hbusy, hmcur, hmv⟩, fun h => absurd hidle h⟩
    rw [State.f, hregs _ (by decide) (by decide), ← State.f, hreq]
  · rw [if_neg hidle] at hu
    subst hu
    refine ⟨?_, fun h => absurd h hidle, fun _ => ⟨?_, ?_⟩⟩
    · rw [State.modPower_f, hreq]
    · rw [State.modPower_power, State.setF_power]
    · rw [State.modPower_tiles, State.setF_tiles]

/-! ### The clock switches (R399) -/

/-- CLK_MESH_CUR takes the new value, and CHANGING clears. -/
def State.meshSettles (s : State) (mhz : Nat) : State :=
  ((s.setF Reg.clkMeshCur 10 0 mhz).setF Reg.clkMeshCur 31 31 0).modPower ({ · with change := .none, nextMhz := none })

theorem meshEnds_eq (s : State) (mhz : Nat) : s.meshEnds mhz =
    match s.power.nextMhz with
    | some req => (s.meshSettles mhz).meshStarts req
    | none => s.meshSettles mhz := rfl

theorem meshSettles_facts (s : State) (mhz : Nat) :
    (s.meshSettles mhz).power = { s.power with change := .none, nextMhz := none } ∧
    (s.meshSettles mhz).f Reg.clkMeshCur 10 0 = mhz % 2 ^ 11 ∧ (s.meshSettles mhz).f Reg.clkMeshCur 31 31 = 0 ∧
    (s.meshSettles mhz).tiles = s.tiles ∧ (s.meshSettles mhz).meshStop = s.meshStop := by
  unfold State.meshSettles
  refine ⟨?_, ?_, ?_, ?_, ?_⟩
  · rw [State.modPower_power, State.setF_power, State.setF_power]
  · rw [State.modPower_f, State.setF_f_below _ _ _ (by decide) (by decide) (by decide),
      State.setF_f_same _ _ _ (by decide) (by decide)]
  · rw [State.modPower_f, State.setF_f_same _ _ _ (by decide) (by decide), Nat.zero_mod]
  · rw [State.modPower_tiles, State.setF_tiles, State.setF_tiles]
  · rw [State.modPower_meshStop, State.setF_meshStop, State.setF_meshStop]

/-- A change ends, or the request that waited starts. -/
theorem meshEnds_facts {s u : State} {mhz : Nat} (hu : s.meshEnds mhz = u) : u.meshStop = s.meshStop ∧
    (mhz < 2 ^ 11 → u.f Reg.clkMeshCur 10 0 = mhz) ∧
    (s.power.nextMhz = none → u.power.change = .none ∧ u.f Reg.clkMeshCur 31 31 = 0 ∧ u.tiles = s.tiles) ∧
    (∀ req, s.power.nextMhz = some req → u.power.change = .locking (meshMhz req) ∧ u.power.nextMhz = none ∧
      u.f Reg.clkMeshCur 31 31 = 1) := by
  obtain ⟨hpower, hcur, hidle, htiles, hstop⟩ := meshSettles_facts s mhz
  rw [meshEnds_eq] at hu
  cases hnext : s.power.nextMhz with
  | none =>
    rw [hnext] at hu
    replace hu : s.meshSettles mhz = u := hu
    rw [hu] at hpower hcur hidle htiles hstop
    exact ⟨hstop, fun h => hcur.trans (Nat.mod_eq_of_lt h), fun _ => ⟨by rw [hpower], hidle, htiles⟩, fun _ h => (nomatch h)⟩
  | some req =>
    rw [hnext] at hu
    obtain ⟨hchange, hwait, hbusy, hscur, -, hsstop, -⟩ := meshStarts_facts (s.meshSettles mhz) req
    rw [show (s.meshSettles mhz).meshStarts req = u from hu] at hchange hwait hbusy hscur hsstop
    refine ⟨hsstop.trans hstop, fun h => (hscur.trans hcur).trans (Nat.mod_eq_of_lt h), fun h => (nomatch h), fun r hr => ?_⟩
    cases hr
    exact ⟨hchange, by rw [hwait, hpower], hbusy⟩

theorem meshStopped_facts (s : State) : s.meshStop ≤ s.meshStopped.meshStop ∧ s.meshStopped.meshStop ≤ s.meshStop + 500 := by
  have := Nat.mod_lt (Config.freeValue s.freeCount 0) (show 0 < 501 by decide)
  exact ⟨Nat.le_add_right .., Nat.add_le_add_left (by omega) _⟩

theorem meshClockSwitch_eq {s : State} {mhz : Nat} (hlock : s.power.change = .locking mhz) : s.meshClockSwitch =
    if mhz < s.f Reg.clkMeshCur 10 0 then (s.meshStopped.modPower ({ · with change := .falling mhz })).tileRailsMove
    else s.meshStopped.meshEnds mhz := by
  unfold State.meshClockSwitch
  rw [hlock]
  rfl

theorem meshClockSwitch_facts {s u : State} {mhz : Nat}
    (hu : (if mhz < s.f Reg.clkMeshCur 10 0 then (s.meshStopped.modPower ({ · with change := .falling mhz })).tileRailsMove
      else s.meshStopped.meshEnds mhz) = u) : s.meshStop ≤ u.meshStop ∧ u.meshStop ≤ s.meshStop + 500 ∧
      (mhz < s.f Reg.clkMeshCur 10 0 → u.power.change = .falling mhz ∧ u.reg Reg.clkMeshCur = s.reg Reg.clkMeshCur ∧
        ∀ t, t < tileCount → (u.tile t).f Reg.capRailV 11 0 =
          tileMv t mhz (toSigned 4 ((s.tile t).f Reg.capRailStatus 7 4))) ∧
      (s.f Reg.clkMeshCur 10 0 ≤ mhz → mhz < 2 ^ 11 → s.power.nextMhz = none → u.power.change = .none ∧
        u.f Reg.clkMeshCur 10 0 = mhz ∧ u.f Reg.clkMeshCur 31 31 = 0 ∧ u.tiles = s.tiles) := by
  obtain ⟨hleast, hmost⟩ := meshStopped_facts s
  by_cases hfall : mhz < s.f Reg.clkMeshCur 10 0
  · rw [if_pos hfall] at hu
    obtain ⟨⟨ts, ch, rf, hform⟩, hregs, hmv⟩ :=
      tileRailsMove_facts (s.meshStopped.modPower ({ · with change := .falling mhz }))
    rw [hu] at hform hregs hmv
    refine ⟨by rw [hform]; exact hleast, by rw [hform]; exact hmost, fun _ => ⟨by rw [hform]; rfl, hregs _ (by decide), hmv⟩,
      fun h => absurd hfall (by omega)⟩
  · rw [if_neg hfall] at hu
    obtain ⟨hstop, hcur, hend, -⟩ := meshEnds_facts hu
    rw [hstop]
    refine ⟨hleast, hmost, fun h => absurd h hfall, fun _ hlt hnext => ?_⟩
    obtain ⟨hchange, hidle, htiles⟩ := hend hnext
    exact ⟨hchange, hcur hlt, hidle, htiles⟩

theorem meshChangeEnd_eq {s : State} {mhz : Nat} (hfall : s.power.change = .falling mhz) :
    s.meshChangeEnd = s.meshEnds mhz := by
  unfold State.meshChangeEnd
  rw [hfall]

/-! ### Calibration and the rail model (R367, R368) -/

theorem mhzNow_congr {s u : State} (hchange : u.power.change = s.power.change) (hmesh : u.power.meshOn = s.power.meshOn)
    (hcur : u.reg Reg.clkMeshCur = s.reg Reg.clkMeshCur) (hreq : u.reg Reg.clkMeshReq = s.reg Reg.clkMeshReq) :
    u.mhzNow = s.mhzNow := by
  rw [State.mhzNow, State.mhzNow, State.f, State.f, State.f, State.f, hchange, hmesh, hcur, hreq]

theorem railSet_power (s : State) (i o hi lo v : Nat) : (s.railSet i o hi lo v).power = s.power := by
  unfold State.railSet
  split
  exacts [rfl, State.setF_power ..]

theorem railSet_tile_ne (s : State) {i t : Nat} (h : t ≠ i) (o hi lo v : Nat) : (s.railSet i o hi lo v).tile t = s.tile t := by
  unfold State.railSet
  split
  exacts [State.modTile_tile_ne _ _ h, State.setF_tile ..]

/-- CAL_OFS fits its field, before and after a comparison. -/
theorem calOfs_round {v : Nat} (hv : v < 16) (m : Margin) :
    toSigned 4 (ofSigned 4 (calOfs (toSigned 4 v) m) % 2 ^ 4) = calOfs (toSigned 4 v) m := by
  revert v
  cases m <;> decide

/-- The state with one rail's measurement. -/
def State.calRead (s : State) (i run : Nat) : State :=
  { s with
    power := { s.power with runFrac := tabSet natD s.power.runFrac i run }
    freeCount := s.freeCount + 1 }.railSet i Reg.capRailR 31 16 (min 0xFFFF (run / 4096))

/-- What a measurement and a mark leave of a rail's offset, the other tiles and the mesh frequency. -/
structure State.CalKept (s u : State) (i : Nat) : Prop where
  ofs    : fld (u.railReg i Reg.capRailStatus) 7 4 = fld (s.railReg i Reg.capRailStatus) 7 4
  tiles  : ∀ t, t ≠ i → u.tile t = s.tile t
  mhz    : u.mhzNow = s.mhzNow

theorem calRead_facts (s : State) {i : Nat} (hi : i < 1168) (run : Nat) : s.CalKept (s.calRead i run) i ∧
    (s.calRead i run).power = { s.power with runFrac := tabSet natD s.power.runFrac i run } ∧
    fld ((s.calRead i run).railReg i Reg.capRailR) 31 16 = min 0xFFFF (run / 4096) ∧
    fld ((s.calRead i run).railReg i Reg.capRailR) 15 0 = fld (s.railReg i Reg.capRailR) 15 0 ∧
    (∀ o, o < 0x3100 ∨ 0x3200 ≤ o → (s.calRead i run).reg o = s.reg o) := by
  obtain ⟨hv, hr, hst⟩ := rs4
  obtain ⟨w, hw⟩ : ∃ w : State, { s with
    power := { s.power with runFrac := tabSet natD s.power.runFrac i run }
    freeCount := s.freeCount + 1 } = w := ⟨_, rfl⟩
  have hpower : w.power = { s.power with runFrac := tabSet natD s.power.runFrac i run } := by rw [← hw]
  have hrail : ∀ q, w.railReg i q = s.railReg i q := fun q => by rw [← hw]; rfl
  have hreg : ∀ o, w.reg o = s.reg o := fun o => by rw [← hw]; rfl
  have htile : ∀ t, w.tile t = s.tile t := fun t => by rw [← hw]; rfl
  have hkeep := RailKeep.set w i Reg.capRailR 31 16 (min 0xFFFF (run / 4096)) hi hr
  unfold State.calRead
  rw [hw]
  refine ⟨⟨?_, fun t ht => ?_, ?_⟩, ?_, ?_, ?_, fun o ho => ?_⟩
  · rw [railReg_railSet _ _ _ _ _ _ _ _ hi hi hr hst, if_neg (fun h => absurd h.2 (by decide)), hrail]
  · rw [railSet_tile_ne _ ht, htile]
  · refine mhzNow_congr ?_ ?_ ?_ ?_
    · rw [railSet_power, hpower]
    · rw [railSet_power, hpower]
    · rw [hkeep.regs _ (by decide), hreg]
    · rw [hkeep.regs _ (by decide), hreg]
  · rw [railSet_power, hpower]
  · rw [railReg_railSet _ _ _ _ _ _ _ _ hi hi hr hr, if_pos ⟨rfl, rfl⟩, fld_setFld_same _ _ (by decide) (by decide)]
    exact Nat.mod_eq_of_lt (Nat.lt_of_le_of_lt (Nat.min_le_left _ _) (by decide))
  · rw [railReg_railSet _ _ _ _ _ _ _ _ hi hi hr hr, if_pos ⟨rfl, rfl⟩,
      fld_setFld_below _ _ (by decide) (by decide) (by decide), hrail]
  · rw [hkeep.regs o ho, hreg]

/-- One more suspect, in the power record and in Root's list. -/
def State.addSuspect (s : State) (i base run : Nat) : State :=
  { s with
    power := { s.power with suspects := insertNat i s.power.suspects }
    fw := { s.fw with suspects := s.fw.suspects ++ [Suspect.mk i base run s.time] } }

theorem State.addSuspect_power (s : State) (i base run : Nat) :
    (s.addSuspect i base run).power = { s.power with suspects := insertNat i s.power.suspects } := rfl
theorem State.addSuspect_tiles (s : State) (i base run : Nat) : (s.addSuspect i base run).tiles = s.tiles := rfl
theorem State.addSuspect_reg (s : State) (i base run o : Nat) : (s.addSuspect i base run).reg o = s.reg o := rfl

/-- A rail is on the list of suspects, and shown in CAP_CONN_LAST. -/
def State.listSuspect (s : State) (i base run : Nat) : State :=
  (s.setReg Reg.capConnLast (BitVec.ofNat 32 (i + 2 ^ 16 * ((s.power.suspects.length + 1) % 2 ^ 11) + 2 ^ 31))).addSuspect
    i base run

theorem listSuspect_facts (s : State) (i base run : Nat) :
    (s.listSuspect i base run).power = { s.power with suspects := insertNat i s.power.suspects } ∧
    (s.listSuspect i base run).tiles = s.tiles ∧
    (s.listSuspect i base run).reg Reg.capConnLast =
      BitVec.ofNat 32 (i + 2 ^ 16 * ((s.power.suspects.length + 1) % 2 ^ 11) + 2 ^ 31) ∧
    ∀ o, o ≠ Reg.capConnLast → (s.listSuspect i base run).reg o = s.reg o := by
  unfold State.listSuspect
  refine ⟨?_, ?_, ?_, fun o ho => ?_⟩
  · rw [State.addSuspect_power, State.setReg_power]
  · rw [State.addSuspect_tiles, State.setReg_tiles]
  · rw [State.addSuspect_reg, State.setReg_reg_same]
  · rw [State.addSuspect_reg, State.setReg_reg_ne _ _ ho]

theorem suspect_eq (s : State) (i base run : Nat) : s.suspect i base run =
    ((((s.railSet i Reg.capRailStatus 1 1 1).listSuspect i base run).log 0x0701 Src.power sevWarn chipPart
      [BitVec.ofNat 32 i, BitVec.ofNat 32 base, BitVec.ofNat 32 run]).trace 0xA3 Src.power [i]).alertSync := rfl

theorem State.NotesOnly.railReg {s u : State} (h : s.NotesOnly u) {i q : Nat} (hi : i < 1168)
    (hq : ∃ a, a < 4 ∧ q = 0x900 + 4 * a) : u.railReg i q = s.railReg i q :=
  railReg_congr h.tile (fun o ho ho' => h.reg (by
    simp only [Reg.mbAlert]
    omega)) i q hi hq

/-- A rail is marked, and shown in CAP_CONN_LAST. -/
theorem suspect_facts (s : State) {i : Nat} (hi : i < 1168) (base run : Nat) : s.CalKept (s.suspect i base run) i ∧
    (s.suspect i base run).power = { s.power with suspects := insertNat i s.power.suspects } ∧
    (s.suspect i base run).railReg i Reg.capRailR = s.railReg i Reg.capRailR ∧
    fld ((s.suspect i base run).railReg i Reg.capRailStatus) 1 1 = 1 ∧
    (s.suspect i base run).reg Reg.capConnLast = 
      BitVec.ofNat 32 (i + 2 ^ 16 * ((s.power.suspects.length + 1) % 2 ^ 11) + 2 ^ 31) := by
  obtain ⟨hv, hr, hst⟩ := rs4
  have hkeep := RailKeep.set s i Reg.capRailStatus 1 1 1 hi hst
  have hmark := railReg_railSet s i i Reg.capRailStatus Reg.capRailStatus 1 1 1 hi hi hst hst
  rw [if_pos ⟨rfl, rfl⟩] at hmark
  have hother := railReg_railSet s i i Reg.capRailStatus Reg.capRailR 1 1 1 hi hi hst hr
  rw [if_neg (fun h => absurd h.2 (by decide))] at hother
  have hpower := railSet_power s i Reg.capRailStatus 1 1 1
  have htile := fun t (h : t ≠ i) => railSet_tile_ne s h Reg.capRailStatus 1 1 1
  rw [suspect_eq]
  generalize s.railSet i Reg.capRailStatus 1 1 1 = w at *
  obtain ⟨hlpower, hltiles, hlast, hlregs⟩ := listSuspect_facts w i base run
  generalize w.listSuspect i base run = v at *
  have hnotes : v.NotesOnly ((v.log 0x0701 Src.power sevWarn chipPart
      [BitVec.ofNat 32 i, BitVec.ofNat 32 base, BitVec.ofNat 32 run]).trace 0xA3 Src.power [i]).alertSync :=
    ((State.NotesOnly.ofRecords (.log _ _ _ _ _ _)).andRecords (.trace _ _ _ _)).andAlert
  generalize ((v.log 0x0701 Src.power sevWarn chipPart
    [BitVec.ofNat 32 i, BitVec.ofNat 32 base, BitVec.ofNat 32 run]).trace 0xA3 Src.power [i]).alertSync = u at *
  have hrail : ∀ q, (∃ a, a < 4 ∧ q = 0x900 + 4 * a) → u.railReg i q = w.railReg i q := fun q hq =>
    (hnotes.railReg hi hq).trans (railReg_congr (fun t => by rw [State.tile, hltiles, State.tile]) (fun o ho ho' => hlregs o (by
      simp only [Reg.capConnLast]
      omega)) i q hi hq)
  refine ⟨⟨?_, fun t ht => ?_, mhzNow_congr ?_ ?_ ?_ ?_⟩, ?_, ?_, ?_, ?_⟩
  · rw [hrail _ hst, hmark, fld_setFld_above _ _ (by decide) (by decide) (by decide)]
  · rw [hnotes.tile, State.tile, hltiles, ← State.tile, htile t ht]
  · rw [hnotes.power, hlpower, hpower]
  · rw [hnotes.power, hlpower, hpower]
  · rw [hnotes.reg (by decide), hlregs _ (by decide), hkeep.regs _ (by decide)]
  · rw [hnotes.reg (by decide), hlregs _ (by decide), hkeep.regs _ (by decide)]
  · rw [hnotes.power, hlpower, hpower]
  · rw [hrail _ hr, hother]
  · rw [hrail _ hst, hmark, fld_setFld_same _ _ (by decide) (by decide)]
    rfl
  · rw [hnotes.reg (by decide), hlast, hpower]

/-- A tile's rail after its monitors' comparison: CAL_OFS, and the voltage that follows it. -/
def State.calMoved (s : State) (i : Nat) (m : Margin) : State :=
  if i < tileCount then
    (s.railSet i Reg.capRailStatus 7 4 (ofSigned 4 (calOfs (toSigned 4 (fld (s.railReg i Reg.capRailStatus) 7 4)) m))).railMove i
  else s

theorem calMoved_facts (s : State) {i : Nat} (hi : i < 1168) (m : Margin) : (s.calMoved i m).power = s.power ∧
    (s.calMoved i m).railReg i Reg.capRailR = s.railReg i Reg.capRailR ∧
    fld ((s.calMoved i m).railReg i Reg.capRailStatus) 1 1 = fld (s.railReg i Reg.capRailStatus) 1 1 ∧
    (∀ o, o < 0x3100 ∨ 0x3200 ≤ o → (s.calMoved i m).reg o = s.reg o) ∧
    (∀ t, t ≠ i → (s.calMoved i m).tile t = s.tile t) ∧
    (i < tileCount → toSigned 4 (fld ((s.calMoved i m).railReg i Reg.capRailStatus) 7 4) =
        calOfs (toSigned 4 (fld (s.railReg i Reg.capRailStatus) 7 4)) m ∧
      fld ((s.calMoved i m).railReg i Reg.capRailV) 11 0 =
        tileMv i s.mhzNow (calOfs (toSigned 4 (fld (s.railReg i Reg.capRailStatus) 7 4)) m)) := by
  obtain ⟨hv, hr, hst⟩ := rs4
  unfold State.calMoved
  by_cases ht : i < tileCount
  · rw [if_pos ht]
    have hround := calOfs_round (fld_lt (s.railReg i Reg.capRailStatus) 7 4) m
    generalize hz : calOfs (toSigned 4 (fld (s.railReg i Reg.capRailStatus) 7 4)) m = z at *
    obtain ⟨w, hw⟩ : ∃ w, s.railSet i Reg.capRailStatus 7 4 (ofSigned 4 z) = w := ⟨_, rfl⟩
    have hwpower : w.power = s.power := by rw [← hw, railSet_power]
    have hwstat : w.railReg i Reg.capRailStatus = setFld (s.railReg i Reg.capRailStatus) 7 4 (ofSigned 4 z) := by
      rw [← hw, railReg_railSet _ _ _ _ _ _ _ _ hi hi hst hst, if_pos ⟨rfl, rfl⟩]
    have hwr : w.railReg i Reg.capRailR = s.railReg i Reg.capRailR := by
      rw [← hw, railReg_railSet _ _ _ _ _ _ _ _ hi hi hst hr, if_neg (fun h => absurd h.2 (by decide))]
    have hwkeep := RailKeep.set s i Reg.capRailStatus 7 4 (ofSigned 4 z) hi hst
    have hwtile : ∀ t, t ≠ i → w.tile t = s.tile t := fun t h => by rw [← hw, railSet_tile_ne _ h]
    rw [hw] at hwkeep ⊢
    have hmhz : w.mhzNow = s.mhzNow := mhzNow_congr (by rw [hwpower]) (by rw [hwpower]) (hwkeep.regs _ (by decide))
      (hwkeep.regs _ (by decide))
    have hofs : toSigned 4 (fld (w.railReg i Reg.capRailStatus) 7 4) = z := by
      rw [hwstat, fld_setFld_same _ _ (by decide) (by decide), hround]
    have hmv := railMove_mv w hi
    rw [State.railMv, if_pos ht, hofs, hmhz, Nat.mod_eq_of_lt (tileMv_lt _ _ _)] at hmv
    have hother : ∀ q, (∃ a, a < 4 ∧ q = 0x900 + 4 * a) → q ≠ Reg.capRailV → (w.railMove i).railReg i q = w.railReg i q :=
      fun q hq hne => by rw [State.railMove, railReg_railSet _ _ _ _ _ _ _ _ hi hi hv hq, if_neg (fun h => hne h.2)]
    refine ⟨?_, ?_, ?_, fun o ho => ?_, fun t h => ?_, fun _ => ⟨?_, hmv⟩⟩
    · rw [State.railMove, railSet_power, hwpower]
    · rw [hother _ hr (by decide), hwr]
    · rw [hother _ hst (by decide), hwstat, fld_setFld_below _ _ (by decide) (by decide) (by decide)]
    · rw [(railMove_keep w hi).regs o ho, hwkeep.regs o ho]
    · rw [State.railMove, railSet_tile_ne _ h, hwtile t h]
    · rw [hother _ hst (by decide), hofs]
  · rw [if_neg ht]
    exact ⟨rfl, rfl, rfl, fun _ _ => rfl, fun _ _ => rfl, fun h => absurd h ht⟩

/-- What a rail's droop may exceed its base by, in the units of its running model. -/
def State.connLimit (s : State) (base : Nat) : Nat :=
  max (s.f Reg.capConnCfg 5 0 * base * 4096) (64 * s.f Reg.capConnCfg 23 8 * 4096)

/-- A measured rail, marked where its droop first exceeds the model. -/
def State.calChecked (s : State) (i base run : Nat) : State :=
  if s.connLimit base + 64 * base * 4096 ≤ 64 * run && !s.power.suspects.contains i then
    s.suspect i base (min 0xFFFF (run / 4096))
  else s

theorem railCalSlot_eq {s : State} {i : Nat} (hi : i < railCount) (hcfg : s.f Reg.capCalCfg 0 0 = 1)
    (hon : fld (s.railReg i Reg.capRailStatus) 0 0 = 1) (r temp : Nat) (m : Margin) : s.railCalSlot i r temp m =
      ((s.calRead i (runNext (tabGet natD s.power.runFrac i) r temp s.freeCount)).calChecked i
        (fld (s.railReg i Reg.capRailR) 15 0) (runNext (tabGet natD s.power.runFrac i) r temp s.freeCount)).calMoved i m := by
  unfold State.railCalSlot
  rw [if_neg (by simp [hi, hcfg, hon])]
  rfl

theorem calChecked_facts (s : State) {i : Nat} (hi : i < 1168) (base run : Nat) : s.CalKept (s.calChecked i base run) i ∧
    (s.calChecked i base run).power.runFrac = s.power.runFrac ∧
    (s.calChecked i base run).railReg i Reg.capRailR = s.railReg i Reg.capRailR ∧
    (s.connLimit base + 64 * base * 4096 ≤ 64 * run → s.power.suspects.contains i = false →
      (s.calChecked i base run).power.suspects = insertNat i s.power.suspects ∧
      fld ((s.calChecked i base run).railReg i Reg.capRailStatus) 1 1 = 1 ∧
      (s.calChecked i base run).reg Reg.capConnLast =
        BitVec.ofNat 32 (i + 2 ^ 16 * ((s.power.suspects.length + 1) % 2 ^ 11) + 2 ^ 31)) ∧
    (64 * run < s.connLimit base + 64 * base * 4096 → s.calChecked i base run = s) := by
  obtain ⟨hkept, hpower, hrail, hmark, hlast⟩ := suspect_facts s hi base (min 0xFFFF (run / 4096))
  unfold State.calChecked
  by_cases hmore : s.connLimit base + 64 * base * 4096 ≤ 64 * run ∧ s.power.suspects.contains i = false
  · obtain ⟨hdroop, hnew⟩ := hmore
    rw [if_pos (by simp only [hdroop, hnew]; decide)]
    exact ⟨hkept, by rw [hpower], hrail, fun _ _ => ⟨by rw [hpower], hmark, hlast⟩, fun h => absurd hdroop (by omega)⟩
  · rw [if_neg (by
      rw [Bool.and_eq_true, decide_eq_true_eq, Bool.not_eq_true']
      exact hmore)]
    exact ⟨⟨rfl, fun _ _ => rfl, rfl⟩, rfl, rfl, fun h h' => absurd ⟨h, h'⟩ hmore, fun _ => rfl⟩

/-- The fields of CAP_CONN_LAST. -/
theorem connLast_fields {i : Nat} (hi : i < 1168) (n : Nat) :
    fld (BitVec.ofNat 32 (i + 2 ^ 16 * (n % 2 ^ 11) + 2 ^ 31)) 31 31 = 1 ∧
    fld (BitVec.ofNat 32 (i + 2 ^ 16 * (n % 2 ^ 11) + 2 ^ 31)) 15 0 = i := by
  have hn : n % 2 ^ 11 < 2 ^ 11 := Nat.mod_lt _ (by decide)
  generalize n % 2 ^ 11 = k at hn
  simp only [fld, BitVec.toNat_ofNat, Nat.shiftRight_eq_div_pow]
  omega

theorem railCalSlot_facts {s u : State} {i run base : Nat} {m : Margin} (hi : i < railCount)
    (hbase : base = fld (s.railReg i Reg.capRailR) 15 0)
    (hu : ((s.calRead i run).calChecked i base run).calMoved i m = u) : tabGet natD u.power.runFrac i = run ∧
      fld (u.railReg i Reg.capRailR) 31 16 = min 0xFFFF (run / 4096) ∧ fld (u.railReg i Reg.capRailR) 15 0 = base ∧
      (i < tileCount → toSigned 4 (fld (u.railReg i Reg.capRailStatus) 7 4) =
          calOfs (toSigned 4 (fld (s.railReg i Reg.capRailStatus) 7 4)) m ∧
        fld (u.railReg i Reg.capRailV) 11 0 =
          tileMv i s.mhzNow (calOfs (toSigned 4 (fld (s.railReg i Reg.capRailStatus) 7 4)) m)) ∧
      (64 * base * 4096 + s.connLimit base ≤ 64 * run →
        s.power.suspects.contains i = false → u.power.suspects = insertNat i s.power.suspects ∧
        fld (u.railReg i Reg.capRailStatus) 1 1 = 1 ∧ u.f Reg.capConnLast 31 31 = 1 ∧ u.f Reg.capConnLast 15 0 = i) ∧
      (64 * run < 64 * base * 4096 + s.connLimit base →
        u.power.suspects = s.power.suspects ∧ u.reg Reg.capConnLast = s.reg Reg.capConnLast) ∧
      ∀ t, t ≠ i → u.tile t = s.tile t := by
  obtain ⟨hrkept, hrpower, hrrun, hrbase, hrregs⟩ := calRead_facts s hi run
  have hlimit : (s.calRead i run).connLimit base = s.connLimit base := by
    rw [State.connLimit, State.f, State.f, hrregs _ (by decide), ← State.f, ← State.f, ← State.connLimit]
  generalize s.calRead i run = w at *
  obtain ⟨hckept, hcfrac, hcrail, hcyes, hcno⟩ := calChecked_facts w hi base run
  rw [hlimit] at hcyes hcno
  have hsuspects : w.power.suspects = s.power.suspects := by rw [hrpower]
  have hlast : w.reg Reg.capConnLast = s.reg Reg.capConnLast := hrregs _ (by decide)
  generalize w.calChecked i base run = v at *
  obtain ⟨hmpower, hmrail, hmstat, hmregs, hmtiles, hmofs⟩ := calMoved_facts v hi m
  rw [hu] at hmpower hmrail hmstat hmregs hmtiles hmofs
  rw [hckept.ofs, hrkept.ofs, hckept.mhz, hrkept.mhz] at hmofs
  refine ⟨?_, ?_, ?_, hmofs, fun hmore hnew => ?_, fun hless => ?_, fun t ht => ?_⟩
  · rw [hmpower, hcfrac, hrpower]
    exact tabGet_set_same _ _ _ _
  · rw [hmrail, hcrail, hrrun]
  · rw [hmrail, hcrail, hrbase, hbase]
  · obtain ⟨hadd, hmark, hshown⟩ := hcyes (by omega) (by rw [hsuspects, hnew])
    obtain ⟨hvalid, hindex⟩ := connLast_fields hi (w.power.suspects.length + 1)
    rw [hmpower, hadd, hsuspects, hmstat, hmark, State.f, State.f, hmregs _ (by decide), hshown]
    exact ⟨rfl, rfl, hvalid, hindex⟩
  · have hsame := hcno (by omega)
    rw [hmpower, hmregs _ (by decide), hsame, hsuspects, hlast]
    exact ⟨rfl, rfl⟩
  · rw [hmtiles t ht, hckept.tiles t ht, hrkept.tiles t ht]

end Sys2Proof.Machine
end

section
open Sys2Proof Sys2Proof.Machine

/-- Settles O55: the bus, the calibration of one rail, the change of the mesh clock, and one tick of a rail's loop. -/
theorem railsBusAndMeshClock : Obligations.RailsBusAndMeshClock := by
  refine ⟨⟨fun s hon => ?_, fun s hon hlow => ?_, fun s => rfl⟩, fun s i r temp m run base hi hcfg hon hrun hbase => ?_,
    ⟨fun s a val ha hup hon hroot => ?_, fun s mhz hlock => ?_, fun s mhz hfall hlt => ?_⟩,
    fun s t ma x sum lim hx ht hon hfull hsum hlim => ?_⟩
  · exact ⟨_, congrArg Host.Outcome.next (blockingSwitchOpen_eq hon), blockingSwitchOpen_facts rfl⟩
  · exact ⟨_, congrArg Host.Outcome.next (busLow_eq hon hlow), busLow_facts rfl⟩
  · have heq := railCalSlot_eq hi hcfg hon r temp m
    rw [← hrun, ← hbase] at heq
    exact ⟨_, congrArg Host.Outcome.next heq, railCalSlot_facts hi hbase rfl⟩
  · exact ⟨_, congrArg Host.Outcome.next ((chipReg_meshReq ha hup val).trans (meshFreqChange_eq val hon hroot)),
      meshFreqChange_facts rfl⟩
  · exact ⟨_, congrArg Host.Outcome.next (meshClockSwitch_eq hlock), meshClockSwitch_facts rfl⟩
  · obtain ⟨-, hcur, hend, hstart⟩ := meshEnds_facts (s := s) (mhz := mhz) rfl
    exact ⟨_, congrArg Host.Outcome.next (meshChangeEnd_eq hfall), hcur hlt, hend, hstart⟩
  · obtain ⟨honly, mv, htile⟩ := railLoopTick_facts hx ht hon hfull hsum hlim rfl
    have hlen : ((ma, 0) :: x.railSamples.take 7).length = 8 := by
      rw [List.length_cons, List.length_take]
      omega
    obtain ⟨hkeep, hsamples, hrail, hgrant, htherm, hyes, hno⟩ := x.railTicked_facts lim mv hlen hsum
    refine ⟨_, x.railTicked ((ma, 0) :: x.railSamples.take 7) lim mv, rfl, honly, htile.symm, hsamples, hrail, ?_, htherm,
      hyes, hno, hkeep.same⟩
    rw [hgrant, hrail]
end

section
namespace Sys2Proof.Machine

/-! ### The grants of an interval (R374) -/

/-- The grants that a list of moves gives the tiles it was made for. -/
def movedSum (l : List SlewTile) (r : List (Nat × Nat)) : Nat := demandSum l (fun x => tabGet natD r x.t)

theorem demandSum_cons (x : SlewTile) (l : List SlewTile) (f : SlewTile → Nat) :
    demandSum (x :: l) f = x.d * f x + demandSum l f := by
  unfold demandSum
  rw [List.map_cons, List.sum_cons]

theorem demandSum_congr {l : List SlewTile} {f g : SlewTile → Nat} (h : ∀ x ∈ l, f x = g x) : demandSum l f = demandSum l g := by
  unfold demandSum
  rw [List.map_congr_left fun x hx => by rw [h x hx]]

theorem demandSum_mono {l : List SlewTile} {f g : SlewTile → Nat} (h : ∀ x ∈ l, f x ≤ g x) : demandSum l f ≤ demandSum l g := by
  induction l with
  | nil => exact le_refl _
  | cons x l ih =>
    rw [demandSum_cons, demandSum_cons]
    exact Nat.add_le_add (Nat.mul_le_mul_left _ (h x List.mem_cons_self)) (ih fun y hy => h y (List.mem_cons_of_mem _ hy))

/-- The move of the first tile comes first, and the others' are theirs. -/
theorem movedSum_cons {x : SlewTile} {l : List SlewTile} (v : Nat) (r : List (Nat × Nat)) (hx : x.t ∉ l.map (·.t)) :
    movedSum (x :: l) ((x.t, v) :: r) = x.d * v + movedSum l r := by
  unfold movedSum
  rw [demandSum_cons]
  refine congrArg₂ _ (by rw [show tabGet natD ((x.t, v) :: r) x.t = v from if_pos rfl]) (demandSum_congr fun y hy => ?_)
  refine if_neg fun hy' => hx ?_
  rw [← hy']
  exact List.mem_map_of_mem hy

theorem shareMoves_keys (draw : Nat) (base goal : SlewTile → Nat) (l : List SlewTile) :
    ∀ room, (shareMoves draw base goal room l).map (·.1) = l.map (·.t) := by
  induction l with
  | nil => exact fun _ => rfl
  | cons x l ih => exact fun room => congrArg (x.t :: ·) (ih _)

theorem shareFalls_keys (draw : Nat) (base goal : SlewTile → Nat) (l : List SlewTile) :
    ∀ room, (shareFalls draw base goal room l).map (·.1) = l.map (·.t) := by
  induction l with
  | nil => exact fun _ => rfl
  | cons x l ih => exact fun room => congrArg (x.t :: ·) (ih _)

theorem forceFalls_keys (base : SlewTile → Nat) (l : List SlewTile) :
    ∀ excess, (forceFalls base excess l).map (·.1) = l.map (·.t) := by
  induction l with
  | nil => exact fun _ => rfl
  | cons x l ih => exact fun excess => congrArg (x.t :: ·) (ih _)

/-- Shared rises stay within their allowance. -/
theorem shareMoves_le (draw : Nat) (base goal : SlewTile → Nat) : ∀ (l : List SlewTile) (room : Nat), (l.map (·.t)).Nodup →
    movedSum l (shareMoves draw base goal room l) ≤ demandSum l base + room := by
  intro l
  induction l with
  | nil => exact fun _ _ => Nat.zero_le _
  | cons x l ih =>
    intro room hn
    rw [List.map_cons, List.nodup_cons] at hn
    unfold shareMoves
    extract_lets step step'
    have hstep : x.d * step' ≤ room := by
      unfold step'
      by_cases hd : x.d = 0
      · rw [hd, Nat.zero_mul]
        exact Nat.zero_le _
      · rw [if_neg hd]
        exact Nat.le_trans (Nat.mul_le_mul_left _ (Nat.min_le_right _ _)) (Nat.mul_div_le room x.d)
    have hrest := ih (room - x.d * step') hn.2
    rw [movedSum_cons _ _ hn.1, demandSum_cons, Nat.mul_add]
    omega

/-- Forced falls take the excess away. -/
theorem forceFalls_le (base : SlewTile → Nat) : ∀ (l : List SlewTile) (excess : Nat), (l.map (·.t)).Nodup →
    movedSum l (forceFalls base excess l) ≤ demandSum l base - excess := by
  intro l
  induction l with
  | nil => exact fun _ _ => Nat.zero_le _
  | cons x l ih =>
    intro excess hn
    rw [List.map_cons, List.nodup_cons] at hn
    unfold forceFalls
    extract_lets step
    have hrest := ih (excess - x.d * step) hn.2
    have hstep : step ≤ base x ∧ (excess ≤ x.d * step ∨ step = base x ∨ x.d = 0) := by
      unfold step
      by_cases hd : x.d = 0
      · rw [if_pos hd]
        exact ⟨Nat.zero_le _, .inr (.inr hd)⟩
      · rw [if_neg hd]
        refine ⟨Nat.min_le_left _ _, ?_⟩
        rcases Nat.le_total (base x) (ceilDiv excess x.d) with h | h
        · exact .inr (.inl (Nat.min_eq_left h))
        · rw [Nat.min_eq_right h]
          have hdiv := Nat.div_add_mod (excess + x.d - 1) x.d
          have hmod := Nat.mod_lt (excess + x.d - 1) (Nat.pos_of_ne_zero hd)
          unfold ceilDiv
          exact .inl (by omega)
    rw [movedSum_cons _ _ hn.1, demandSum_cons, Nat.mul_sub]
    have hle := Nat.mul_le_mul_left x.d hstep.1
    obtain h | h | h := hstep.2
    · omega
    · rw [h] at hrest ⊢
      omega
    · rw [h] at hrest hle ⊢
      omega

theorem movedSum_wants (l : List SlewTile) (hn : (l.map (·.t)).Nodup) :
    movedSum l (l.map (fun x => (x.t, x.want))) = demandSum l (·.want) := by
  induction l with
  | nil => rfl
  | cons x l ih =>
    rw [List.map_cons, List.nodup_cons] at hn
    rw [List.map_cons, movedSum_cons _ _ hn.1, demandSum_cons, ih hn.2]

/-- Whatever the loop chooses, the sum rises by no more than its bound. -/
theorem slewGrants_facts (draw last bound : Nat) (l : List SlewTile) (hn : (l.map (·.t)).Nodup) :
    (slewGrants draw last bound l).1.map (·.1) = l.map (·.t) ∧
    movedSum l (slewGrants draw last bound l).1 ≤ last + bound := by
  unfold slewGrants
  extract_lets want start low high least r sum
  split_ifs with hrise hlow hfall hsum
  · refine ⟨forceFalls_keys .., ?_⟩
    have h := forceFalls_le (fun x => min x.now x.want) l (low - (last + bound)) hn
    exact h.trans (by omega)
  · refine ⟨shareMoves_keys .., ?_⟩
    have h := shareMoves_le draw (fun x => min x.now x.want) (·.want) l (last + bound - low) hn
    exact h.trans (by omega)
  · refine ⟨forceFalls_keys .., ?_⟩
    have h := forceFalls_le (fun x => tabGet natD r x.t) l (sum - (last + bound)) hn
    exact h.trans (by omega)
  · have hkept : movedSum l r ≤ last + bound := Nat.le_of_not_lt hsum
    exact ⟨shareFalls_keys .., hkept⟩
  · exact ⟨by simp, by rw [movedSum_wants l hn]; exact Nat.le_of_not_lt hrise⟩

/-- Grants set in turn: each tile of the list takes its own, and nothing else changes. -/
theorem foldl_setGrant : ∀ (r : List (Nat × Nat)) (s : State), (r.map (·.1)).Nodup →
    ∃ ts, r.foldl State.setGrant s = { s with tiles := ts } ∧ ∀ t, tabGet tileD ts t =
      if t ∈ r.map (·.1) then (s.tile t).setF Reg.capTileGrant 6 0 (tabGet natD r t) else s.tile t := by
  intro r
  induction r with
  | nil => exact fun s _ => ⟨s.tiles, rfl, fun _ => rfl⟩
  | cons p r ih =>
    intro s hn
    rw [List.map_cons, List.nodup_cons] at hn
    obtain ⟨ts, hform, hget⟩ := ih (s.setGrant p) hn.2
    refine ⟨ts, hform, fun t => ?_⟩
    rw [hget]
    by_cases ht : t = p.1
    · have hval : tabGet natD (p :: r) t = p.2 := if_pos ht
      rw [if_neg (by rw [ht]; exact hn.1), if_pos (by rw [ht]; exact List.mem_cons_self), hval, ht]
      exact State.modTile_tile_same _ _ _
    · have hval : tabGet natD (p :: r) t = tabGet natD r t := if_neg ht
      have htile : (s.setGrant p).tile t = s.tile t := State.modTile_tile_ne _ _ ht
      rw [htile, hval, List.map_cons]
      simp only [List.mem_cons, ht, false_or]

/-! ### One interval of the slew loop (R371, R374, R375) -/

/-- What the grants to be given depend on. -/
theorem slewTiles_congr {s u : State} (htiles : ∀ t, u.tile t = s.tile t) (hparts : u.parts = s.parts)
    (hbus : u.power.busLow = s.power.busLow) (hctrl : u.f Reg.capCtrl 6 0 = s.f Reg.capCtrl 6 0) : u.slewTiles = s.slewTiles := by
  have hpart : ∀ n, u.part n = s.part n := fun n => by rw [State.part, hparts, State.part]
  have howner : ∀ t, u.tileOwner t = s.tileOwner t := fun t => by
    unfold State.tileOwner State.unitOwner State.ownsUnit
    simp only [hpart]
  unfold State.slewTiles State.wantGrant State.tileDemand State.phase
  simp only [htiles, hpart, howner, hbus, hctrl]

theorem slewTiles_keys (s : State) : s.slewTiles.map (·.t) = List.range tileCount := by
  unfold State.slewTiles
  rw [List.map_map]
  exact List.map_id' _

/-- CAP_INPUT takes a sample of the input's voltage and current. -/
def State.inputSampled (s : State) (vin iin : Nat) : State :=
  s.setReg Reg.capInput (BitVec.ofNat 32 (min 0xFFFF vin + 2 ^ 16 * min 0xFFFF (iin / 10)))

/-- The bucket after an interval, in pJ (R375). -/
def State.nextBucket (s : State) (vin iin : Nat) : Nat :=
  (max 0 (min (s.emax : Int) ((s.cap.bucket : Int) + (s.f Reg.capBudgetStat 9 0 * 10 ^ 6 : Nat) - ((vin * iin : Nat) : Int)))).toNat

/-- The tiles with the grants of the next interval. -/
def State.slewed (s : State) (vin : Nat) : State :=
  (slewGrants s.freeCount s.cap.lastSum (2 * vin * 64) s.slewTiles).1.foldl State.setGrant s

theorem slewed_facts (s : State) (vin : Nat) : ∃ ts, s.slewed vin = { s with tiles := ts } ∧
    (∀ t, t < tileCount → tabGet tileD ts t = (s.tile t).setF Reg.capTileGrant 6 0 (tabGet tileD ts t).grant) ∧
    demandSum s.slewTiles (fun x => (tabGet tileD ts x.t).grant) ≤ s.cap.lastSum + 2 * vin * 64 := by
  have hnodup : (s.slewTiles.map (·.t)).Nodup := by
    rw [slewTiles_keys]
    exact List.nodup_range
  obtain ⟨hkeys, hsum⟩ := slewGrants_facts s.freeCount s.cap.lastSum (2 * vin * 64) s.slewTiles hnodup
  unfold State.slewed
  generalize (slewGrants s.freeCount s.cap.lastSum (2 * vin * 64) s.slewTiles).1 = r at *
  obtain ⟨ts, hform, hget⟩ := foldl_setGrant r s (by rw [hkeys]; exact hnodup)
  have htile : ∀ t, t < tileCount → tabGet tileD ts t = (s.tile t).setF Reg.capTileGrant 6 0 (tabGet natD r t) := fun t ht => by
    rw [hget, if_pos (by rw [hkeys, slewTiles_keys]; exact List.mem_range.2 ht)]
  have hgrant : ∀ t, t < tileCount → (tabGet tileD ts t).grant = tabGet natD r t % 2 ^ 7 := fun t ht => by
    rw [htile t ht, Tile.grant, Tile.setF_f_same _ _ _ (by decide) (by decide)]
  refine ⟨ts, hform, fun t ht => ?_, (demandSum_mono fun x hx => ?_).trans hsum⟩
  · rw [hgrant t ht, htile t ht, Tile.setF, Tile.setF, setFld, setFld, Nat.mod_mod]
  · have hx' : x.t ∈ s.slewTiles.map (·.t) := List.mem_map_of_mem hx
    rw [slewTiles_keys, List.mem_range] at hx'
    rw [hgrant x.t hx']
    exact Nat.mod_le _ _

/-- What an interval shows: the bleed where the sum fell too far, E, and whether a rise was held back. -/
def State.slewShown (s : State) (sum bound e held : Nat) : State :=
  ((if sum + bound < s.cap.lastSum then s.setF Reg.capInputFlags 1 1 1 else s).setF Reg.capCtrl 23 8 (e / 10 ^ 6)).setF
    Reg.capCtrl 24 24 held

theorem slewShown_facts (s : State) (sum bound e held : Nat) : (∃ ch, s.slewShown sum bound e held = { s with chip := ch }) ∧
    (s.slewShown sum bound e held).f Reg.capCtrl 23 8 = e / 10 ^ 6 % 2 ^ 16 ∧
    (s.slewShown sum bound e held).f Reg.capCtrl 6 0 = s.f Reg.capCtrl 6 0 ∧
    ∀ o, o ≠ Reg.capCtrl → o ≠ Reg.capInputFlags → (s.slewShown sum bound e held).reg o = s.reg o := by
  unfold State.slewShown
  generalize e / 10 ^ 6 = shown
  refine ⟨?_, ?_, ?_, fun o ho hf => ?_⟩
  · split
    exacts [⟨_, rfl⟩, ⟨_, rfl⟩]
  · rw [State.setF_f_below _ _ _ (by decide) (by decide) (by decide), State.setF_f_same _ _ _ (by decide) (by decide)]
  · rw [State.setF_f_below _ _ _ (by decide) (by decide) (by decide), State.setF_f_below _ _ _ (by decide) (by decide) (by decide)]
    split
    exacts [State.setF_f_ne _ _ _ _ _ _ (by decide), rfl]
  · rw [State.setF_reg_ne _ _ _ _ ho, State.setF_reg_ne _ _ _ _ ho]
    split
    exacts [State.setF_reg_ne _ _ _ _ hf, rfl]

/-- The books of an interval: the bucket and the sum of the grants. -/
def State.slewKept (s : State) (e sum : Nat) : State :=
  { s with cap := { s.cap with bucket := e, lastSum := sum }, freeCount := s.freeCount + 1 }

theorem State.slewKept_cap (s : State) (e sum : Nat) :
    (s.slewKept e sum).cap = { s.cap with bucket := e, lastSum := sum } := rfl
theorem State.slewKept_reg (s : State) (e sum o : Nat) : (s.slewKept e sum).reg o = s.reg o := rfl
theorem State.slewKept_f (s : State) (e sum o hi lo : Nat) : (s.slewKept e sum).f o hi lo = s.f o hi lo := rfl
theorem State.slewKept_tile (s : State) (e sum t : Nat) : (s.slewKept e sum).tile t = s.tile t := rfl
theorem State.slewKept_mem (s : State) (e sum : Nat) : (s.slewKept e sum).mem = s.mem := rfl
theorem State.slewKept_power (s : State) (e sum : Nat) : (s.slewKept e sum).power = s.power := rfl

/-- The state with other running records of the partitions. -/
def State.withSys (s : State) (ps : Tab PartSys) : State := { s with partSys := ps }

@[simp] theorem State.withSys_cap (s : State) (ps : Tab PartSys) : (s.withSys ps).cap = s.cap := rfl
@[simp] theorem State.withSys_reg (s : State) (ps : Tab PartSys) (o : Nat) : (s.withSys ps).reg o = s.reg o := rfl
@[simp] theorem State.withSys_f (s : State) (ps : Tab PartSys) (o hi lo : Nat) : (s.withSys ps).f o hi lo = s.f o hi lo := rfl
@[simp] theorem State.withSys_tile (s : State) (ps : Tab PartSys) (t : Nat) : (s.withSys ps).tile t = s.tile t := rfl
@[simp] theorem State.withSys_mem (s : State) (ps : Tab PartSys) : (s.withSys ps).mem = s.mem := rfl
@[simp] theorem State.withSys_power (s : State) (ps : Tab PartSys) : (s.withSys ps).power = s.power := rfl

/-- The accounts of the partitions' grants are the partitions' own. -/
theorem sampleGrants_form (s : State) : ∃ ps, (List.range 16).foldl State.sampleGrants s = s.withSys ps :=
  List.foldlRecOn (motive := fun u => ∃ ps, u = s.withSys ps) (List.range 16) State.sampleGrants ⟨s.partSys, rfl⟩
    fun u h n _ => by
      obtain ⟨ps, rfl⟩ := h
      unfold State.sampleGrants
      split
      exacts [⟨ps, rfl⟩, ⟨_, rfl⟩]

/-- An interval with the mesh clock running. -/
def State.slewStep (s : State) (vin iin : Nat) : State :=
  let sum := demandSum s.slewTiles (fun x => ((s.slewed vin).tile x.t).grant)
  (List.range 16).foldl State.sampleGrants (((s.slewed vin).slewShown sum (2 * vin * 64) (s.nextBucket vin iin)
    (b2n (slewGrants s.freeCount s.cap.lastSum (2 * vin * 64) s.slewTiles).2)).slewKept (s.nextBucket vin iin) sum)

theorem slewLoopTick_eq {s : State} (hon : s.power.stage ≠ .off) (vin iin : Nat) : s.slewLoopTick vin iin =
    if s.power.meshOn = true then (s.inputSampled vin iin).slewStep vin iin else s.inputSampled vin iin := by
  unfold State.slewLoopTick
  rw [if_neg hon]
  extract_lets +onlyGivenNames v
  have hv : s.inputSampled vin iin = v := rfl
  have hmesh : v.power.meshOn = s.power.meshOn := rfl
  rw [hv, ← hmesh]
  clear_value v
  cases hon' : v.power.meshOn with
  | false => rw [if_pos (by decide), if_neg (by decide)]
  | true =>
    rw [if_neg (by decide), if_pos rfl]
    unfold State.slewStep State.slewKept State.slewShown State.slewed State.nextBucket
    simp only []

theorem slewStep_facts {s u : State} {vin iin : Nat} (hu : s.slewStep vin iin = u) :
    u.cap = { s.cap with bucket := s.nextBucket vin iin, lastSum := u.cap.lastSum } ∧
    u.cap.lastSum = demandSum s.slewTiles (fun x => (u.tile x.t).grant) ∧ u.cap.lastSum ≤ s.cap.lastSum + 2 * vin * 64 ∧
    u.f Reg.capCtrl 23 8 = s.nextBucket vin iin / 10 ^ 6 % 2 ^ 16 ∧ u.f Reg.capCtrl 6 0 = s.f Reg.capCtrl 6 0 ∧
    (∀ t, t < tileCount → u.tile t = (s.tile t).setF Reg.capTileGrant 6 0 (u.tile t).grant) ∧
    (∀ o, o ≠ Reg.capCtrl → o ≠ Reg.capInputFlags → u.reg o = s.reg o) ∧ u.mem = s.mem ∧ u.power = s.power := by
  obtain ⟨ts, hform, hgrants, hbound⟩ := slewed_facts s vin
  have htile : ∀ t, (s.slewed vin).tile t = tabGet tileD ts t := fun t => by rw [hform]; rfl
  have hcap : (s.slewed vin).cap = s.cap := by rw [hform]
  have hreg : ∀ o, (s.slewed vin).reg o = s.reg o := fun o => by rw [hform]; rfl
  have hmem : (s.slewed vin).mem = s.mem := by rw [hform]
  have hpower : (s.slewed vin).power = s.power := by rw [hform]
  unfold State.slewStep at hu
  simp only [htile] at hu
  generalize hsum : demandSum s.slewTiles (fun x => (tabGet tileD ts x.t).grant) = sum at *
  generalize b2n (slewGrants s.freeCount s.cap.lastSum (2 * vin * 64) s.slewTiles).2 = held at *
  generalize s.nextBucket vin iin = e at *
  generalize s.slewed vin = w at *
  obtain ⟨⟨ch, hshown⟩, he, hf, hregs⟩ := slewShown_facts w sum (2 * vin * 64) e held
  generalize w.slewShown sum (2 * vin * 64) e held = v at *
  obtain ⟨ps, hps⟩ := sampleGrants_form (v.slewKept e sum)
  have hutile : ∀ t, u.tile t = tabGet tileD ts t := fun t => by
    rw [← hu, hps, State.withSys_tile, State.slewKept_tile, ← htile, hshown]
    rfl
  have hucap : u.cap = { s.cap with bucket := e, lastSum := sum } := by
    rw [← hu, hps, State.withSys_cap, State.slewKept_cap, hshown, ← hcap]
  have husum : u.cap.lastSum = sum := by rw [hucap]
  refine ⟨?_, ?_, ?_, ?_, ?_, fun t ht => ?_, fun o ho hi => ?_, ?_, ?_⟩
  · rw [husum, hucap]
  · rw [husum, ← hsum]
    exact demandSum_congr fun x _ => by rw [hutile]
  · rw [husum]
    exact hbound
  · rw [← hu, hps, State.withSys_f, State.slewKept_f, he]
  · rw [← hu, hps, State.withSys_f, State.slewKept_f, hf, State.f, hreg, State.f]
  · rw [hutile, ← hgrants t ht]
  · rw [← hu, hps, State.withSys_reg, State.slewKept_reg, hregs o ho hi, hreg]
  · rw [← hu, hps, State.withSys_mem, State.slewKept_mem, hshown, ← hmem]
  · rw [← hu, hps, State.withSys_power, State.slewKept_power, hshown, ← hpower]

theorem inputSampled_reg (s : State) (vin iin : Nat) {o : Nat} (ho : o ≠ Reg.capInput) :
    (s.inputSampled vin iin).reg o = s.reg o := State.setReg_reg_ne _ _ ho

theorem inputSampled_f (s : State) (vin iin : Nat) : (s.inputSampled vin iin).f Reg.capInput 15 0 = min 0xFFFF vin ∧
    (s.inputSampled vin iin).f Reg.capInput 31 16 = min 0xFFFF (iin / 10) := by
  have hv : min 0xFFFF vin < 2 ^ 16 := Nat.lt_of_le_of_lt (Nat.min_le_left _ _) (by decide)
  have hi : min 0xFFFF (iin / 10) < 2 ^ 16 := Nat.lt_of_le_of_lt (Nat.min_le_left _ _) (by decide)
  unfold State.inputSampled
  generalize min 0xFFFF vin = v at *
  generalize min 0xFFFF (iin / 10) = i at *
  rw [State.f, State.f, State.setReg_reg_same]
  simp only [fld, BitVec.toNat_ofNat, Nat.shiftRight_eq_div_pow]
  omega

/-- What an interval reads beside CAP_INPUT is what it was. -/
theorem inputSampled_frame (s : State) (vin iin : Nat) : (s.inputSampled vin iin).tiles = s.tiles ∧
    (s.inputSampled vin iin).parts = s.parts ∧ (s.inputSampled vin iin).power = s.power ∧
    (s.inputSampled vin iin).cap = s.cap ∧ (s.inputSampled vin iin).mem = s.mem := by
  unfold State.inputSampled
  exact ⟨State.setReg_tiles .., State.setReg_parts .., State.setReg_power .., State.setReg_cap .., State.setReg_mem ..⟩

theorem slewLoopTick_facts {s u : State} {vin iin : Nat}
    (hu : (if s.power.meshOn = true then (s.inputSampled vin iin).slewStep vin iin else s.inputSampled vin iin) = u) :
    u.f Reg.capInput 15 0 = min 0xFFFF vin ∧
      u.f Reg.capInput 31 16 = min 0xFFFF (iin / 10) ∧ u.power = s.power ∧
      (s.power.meshOn = false → u.tiles = s.tiles ∧ u.cap = s.cap ∧ ∀ o, o ≠ Reg.capInput → u.reg o = s.reg o) ∧
      (s.power.meshOn = true →
        (u.cap.bucket : Int) = max 0 (min (s.emax : Int)
          ((s.cap.bucket : Int) + (s.f Reg.capBudgetStat 9 0 : Nat) * 10 ^ 6 - ((vin * iin : Nat) : Int))) ∧
        u.cap.lastSum = demandSum s.slewTiles (fun x => (u.tile x.t).grant) ∧
        u.cap.lastSum ≤ s.cap.lastSum + 2 * vin * 64 ∧
        u.f Reg.capCtrl 23 8 = u.cap.bucket / 10 ^ 6 % 2 ^ 16 ∧ u.f Reg.capCtrl 6 0 = s.f Reg.capCtrl 6 0 ∧
        u.cap = { s.cap with bucket := u.cap.bucket, lastSum := u.cap.lastSum } ∧
        (∀ t, t < tileCount → u.tile t = (s.tile t).setF Reg.capTileGrant 6 0 (u.tile t).grant) ∧ u.mem = s.mem) := by
  obtain ⟨hvolt, hamp⟩ := inputSampled_f s vin iin
  obtain ⟨htiles, hparts, hpower, hcap, hmem⟩ := inputSampled_frame s vin iin
  have hregs := fun o (ho : o ≠ Reg.capInput) => inputSampled_reg s vin iin ho
  have hf : ∀ o hi lo, o ≠ Reg.capInput → (s.inputSampled vin iin).f o hi lo = s.f o hi lo := fun o hi lo ho => by
    rw [State.f, hregs o ho, State.f]
  generalize s.inputSampled vin iin = v at *
  have htile : ∀ t, v.tile t = s.tile t := fun t => by rw [State.tile, htiles, State.tile]
  cases hon : s.power.meshOn with
  | false =>
    rw [hon, if_neg (by decide)] at hu
    subst hu
    exact ⟨hvolt, hamp, hpower, fun _ => ⟨htiles, hcap, hregs⟩, fun h => (nomatch h)⟩
  | true =>
    rw [hon, if_pos rfl] at hu
    obtain ⟨hucap, husum, hbound, hshown, hctrl, hgrants, huregs, humem, hupower⟩ := slewStep_facts hu
    have huf : ∀ hi lo, u.f Reg.capInput hi lo = v.f Reg.capInput hi lo := fun hi lo => by
      rw [State.f, huregs _ (by decide) (by decide), State.f]
    have hbucket : u.cap.bucket = v.nextBucket vin iin := by rw [hucap]
    have hslew : v.slewTiles = s.slewTiles := slewTiles_congr htile hparts (by rw [hpower]) (hf _ _ _ (by decide))
    refine ⟨(huf 15 0).trans hvolt, (huf 31 16).trans hamp, hupower.trans hpower, fun h => (nomatch h),
      fun _ => ⟨?_, ?_, ?_, ?_, ?_, ?_, fun t ht => ?_, ?_⟩⟩
    · rw [hbucket, State.nextBucket, Int.toNat_of_nonneg (Int.le_max_left _ _), State.emax, hf _ _ _ (by decide),
        hf _ _ _ (by decide), hf _ _ _ (by decide), ← State.emax, hcap, Nat.cast_mul, Nat.cast_pow, Nat.cast_ofNat]
    · rw [husum, hslew]
    · rw [← hcap]
      exact hbound
    · rw [hshown, hbucket]
    · rw [hctrl, hf _ _ _ (by decide)]
    · rw [hbucket, ← hcap]
      exact hucap
    · rw [← htile]
      exact hgrants t ht
    · rw [humem, hmem]

/-! ### The budget loop (R376, R379) -/

/-- The load of the next interval at a fraction of f, in mW 64ths. -/
def State.budgetLoad (s : State) (pin fOld f : Nat) : Int :=
  (pin : Int) - (((List.range 16).map (fun n => s.share n (s.sys n).ph.tickPh (s.sys n).ph.tickPh fOld)).sum : Nat) +
    (((List.range 16).map (fun n => s.share n (s.phase n) (s.phase n) f)).sum : Nat)

/-- The first fraction that fits, counted down from 64, is the largest. -/
theorem find_down {p : Nat → Bool} {f : Nat} (h : ((List.range 65).reverse).find? p = some f) :
    p f = true ∧ f ≤ 64 ∧ ∀ x, x ≤ 64 → f < x → p x = false := by
  obtain ⟨hp, as, bs, hsplit, hbefore⟩ := List.find?_eq_some_iff_append.1 h
  have hsorted : ((List.range 65).reverse).Pairwise (· > ·) := List.pairwise_reverse.2 List.pairwise_lt_range
  have hmem : f ∈ (List.range 65).reverse := by
    rw [hsplit]
    simp
  rw [List.mem_reverse, List.mem_range] at hmem
  refine ⟨hp, by omega, fun x hx hlt => ?_⟩
  have hx' : x ∈ (List.range 65).reverse := List.mem_reverse.2 (List.mem_range.2 (by omega))
  rw [hsplit, List.mem_append, List.mem_cons] at hx'
  rw [hsplit, List.pairwise_append, List.pairwise_cons] at hsorted
  obtain hin | rfl | hin := hx'
  · simpa using hbefore x hin
  · exact absurd hlt (lt_irrefl _)
  · exact absurd (hsorted.2.1.1 x hin) (by omega)

/-- F is the largest fraction that meets the limit, or 0 where none does. -/
theorem newF_facts (s : State) (pin lim fOld : Nat) : (s.newF pin lim fOld).1 ≤ 64 ∧
    (∀ x, x ≤ 64 → (s.newF pin lim fOld).1 < x → (lim : Int) < s.budgetLoad pin fOld x) ∧
    ((s.newF pin lim fOld).2 = true → s.budgetLoad pin fOld (s.newF pin lim fOld).1 ≤ (lim : Int)) ∧
    ((s.newF pin lim fOld).2 = false → (s.newF pin lim fOld).1 = 0) := by
  unfold State.newF
  extract_lets base fits
  have hfits : ∀ f, fits f = true ↔ s.budgetLoad pin fOld f ≤ (lim : Int) := fun f => by
    simp only [fits, base, State.budgetLoad, decide_eq_true_eq]
  clear_value fits
  split
  · rename_i f hfind
    obtain ⟨hmeets, hle, hmore⟩ := find_down hfind
    exact ⟨hle, fun x hx hlt => Int.not_le.1 fun h => absurd ((hfits x).2 h) (by simp [hmore x hx hlt]),
      fun _ => (hfits f).1 hmeets, fun h => (nomatch h)⟩
  · rename_i hnone
    rw [List.find?_eq_none] at hnone
    exact ⟨Nat.zero_le _, fun x hx _ => Int.not_le.1 fun h => hnone x (by simp; omega) ((hfits x).2 h), fun h => (nomatch h), fun _ => rfl⟩

/-- One partition's demand is learned: it is its own, and of a partition that moved it stays. -/
theorem learnDemand_form (s : State) (conv draw n pow : Nat) :
    ∃ ps pss, s.learnDemand conv draw n pow = { s with parts := ps, partSys := pss } ∧
      (∀ k, k ≠ n → tabGet partD ps k = s.part k ∧ tabGet partSysD pss k = s.sys k) ∧
      ((s.sys n).ph.moved = true → tabGet partD ps n = s.part n) := by
  unfold State.learnDemand
  extract_lets r tiles g whole v
  have hv : (∃ ps, v = { s with parts := ps }) ∧ (∀ k, k ≠ n → v.part k = s.part k) ∧
      ((s.sys n).ph.moved = true → v.part n = s.part n) := by
    unfold v
    split
    · rename_i h
      refine ⟨⟨_, rfl⟩, fun k hk => State.modPart_part_ne _ _ hk, fun hm => absurd h.2.1 ?_⟩
      simp [r, hm]
    · exact ⟨⟨s.parts, rfl⟩, fun _ _ => rfl, fun _ => rfl⟩
  clear_value v
  obtain ⟨⟨ps, rfl⟩, hother, hmoved⟩ := hv
  exact ⟨ps, _, rfl, fun k hk => ⟨hother k hk, tabGet_set_ne _ _ _ hk⟩, hmoved⟩

theorem learnDemands_form (conv draw : Nat) (pow : Nat → Nat) : ∀ (l : List Nat) (s : State), l.Nodup →
    ∃ ps pss, l.foldl (fun s n => s.learnDemand conv draw n (pow n)) s = { s with parts := ps, partSys := pss } ∧
      (∀ k, k ∉ l → tabGet partD ps k = s.part k) ∧ (∀ k, (s.sys k).ph.moved = true → tabGet partD ps k = s.part k) := by
  intro l
  induction l with
  | nil => exact fun s _ => ⟨s.parts, s.partSys, rfl, fun _ _ => rfl, fun _ _ => rfl⟩
  | cons n l ih =>
    intro s hn
    rw [List.nodup_cons] at hn
    obtain ⟨ps, pss, hform, hother, hmoved⟩ := learnDemand_form s conv draw n (pow n)
    obtain ⟨ps', pss', hform', hout, hkept⟩ := ih (s.learnDemand conv draw n (pow n)) hn.2
    rw [hform] at hform' hout hkept
    refine ⟨ps', pss', ?_, fun k hk => ?_, fun k hk => ?_⟩
    · rw [List.foldl_cons, hform, hform']
    · simp only [List.mem_cons, not_or] at hk
      exact (hout k hk.2).trans (hother k hk.1).1
    · by_cases hkn : k = n
      · subst hkn
        exact (hout k hn.1).trans (hmoved hk)
      · refine (hkept k ?_).trans (hother k hkn).1
        exact (congrArg (fun x : PartSys => x.ph.moved) (hother k hkn).2).trans hk

/-- The state with another history of the input power. -/
def State.withPinHist (s : State) (h : List Nat) : State := { s with cap := { s.cap with pinHist := h } }

@[simp] theorem State.withPinHist_reg (s : State) (h : List Nat) (o : Nat) : (s.withPinHist h).reg o = s.reg o := rfl
@[simp] theorem State.withPinHist_f (s : State) (h : List Nat) (o hi lo : Nat) : (s.withPinHist h).f o hi lo = s.f o hi lo := rfl
@[simp] theorem State.withPinHist_cap (s : State) (h : List Nat) : (s.withPinHist h).cap = { s.cap with pinHist := h } := rfl

/-- What a tick shows before F follows it: the means of the input power, and CONV. -/
def State.meansShown (s : State) (pin conv : Nat) : State :=
  (((s.setF Reg.capPkgPower 11 0 (pin / 1000)).setF Reg.capPkgPower 27 16
    (((pin :: s.cap.pinHist).take 100).sum / ((pin :: s.cap.pinHist).take 100).length / 1000)).setF Reg.capConv 15 0
      conv).withPinHist ((pin :: s.cap.pinHist).take 100)

/-- The limit of the next interval in W: CAPW while E is above 0, and else B. -/
def State.intervalLimit (s : State) : Nat := if 0 < s.cap.bucket then s.f Reg.capEnvelope 10 0 else s.f Reg.capBudgetStat 9 0

/-- F in CAP_CTRL, and UNMET where no fraction meets the limit. -/
def State.fractionSet (s : State) (r : Nat × Bool) : State :=
  if r.2 then s.setF Reg.capCtrl 6 0 r.1 else (s.setF Reg.capCtrl 6 0 r.1).setF Reg.capBudgetStat 30 30 1

/-- The fraction that a tick chooses. -/
def State.tickF (s : State) (pin : Nat) : Nat × Bool := s.newF (64 * pin) (64 * 1000 * s.intervalLimit) (s.f Reg.capCtrl 6 0)

theorem budgetLoopTick_eq {s : State} (hon : s.power.meshOn = true) (pin : Nat) (rp : List Nat) (conv : Nat) :
    ∃ v, v = s.meansShown pin conv ∧ s.budgetLoopTick pin rp conv =
      (List.range 16).foldl (fun u n => u.learnDemand conv (v.fractionSet (v.tickF pin)).freeCount n (rp.getD n 0))
        (v.fractionSet (v.tickF pin)).drawn := by
  refine ⟨_, rfl, ?_⟩
  unfold State.budgetLoopTick
  rw [if_neg (by simp [hon])]
  unfold State.meansShown State.tickF State.fractionSet State.intervalLimit
  rfl

/-- What a tick of the budget loop leaves, whatever registers of the chip it writes. -/
structure State.BudgetKept (s u : State) : Prop where
  parts   : u.parts = s.parts
  partSys : u.partSys = s.partSys
  tiles   : u.tiles = s.tiles
  mem     : u.mem = s.mem
  power   : u.power = s.power

theorem State.BudgetKept.trans {s u v : State} (h : s.BudgetKept u) (h' : u.BudgetKept v) : s.BudgetKept v :=
  ⟨h'.parts.trans h.parts, h'.partSys.trans h.partSys, h'.tiles.trans h.tiles, h'.mem.trans h.mem, h'.power.trans h.power⟩

theorem State.BudgetKept.setF (s : State) (o hi lo v : Nat) : s.BudgetKept (s.setF o hi lo v) :=
  ⟨State.setF_parts .., State.setF_partSys .., State.setF_tiles .., State.setF_mem .., State.setF_power ..⟩

theorem State.BudgetKept.withPinHist (s : State) (h : List Nat) : s.BudgetKept (s.withPinHist h) :=
  ⟨rfl, rfl, rfl, rfl, rfl⟩

theorem meansShown_facts (s : State) (pin conv : Nat) : s.BudgetKept (s.meansShown pin conv) ∧
    (s.meansShown pin conv).cap = { s.cap with pinHist := (pin :: s.cap.pinHist).take 100 } ∧
    (s.meansShown pin conv).f Reg.capPkgPower 11 0 = pin / 1000 % 2 ^ 12 ∧
    (s.meansShown pin conv).f Reg.capConv 15 0 = conv % 2 ^ 16 ∧
    ∀ o, o ≠ Reg.capPkgPower → o ≠ Reg.capConv → (s.meansShown pin conv).reg o = s.reg o := by
  unfold State.meansShown
  generalize ((pin :: s.cap.pinHist).take 100).sum / ((pin :: s.cap.pinHist).take 100).length / 1000 = mean
  generalize pin / 1000 = shown
  refine ⟨?_, ?_, ?_, ?_, fun o hp hc => ?_⟩
  · refine .trans (.trans (.trans (.setF s _ _ _ _) (.setF _ _ _ _ _)) (.setF _ _ _ _ _)) (.withPinHist _ _)
  · rw [State.withPinHist_cap, State.setF_cap, State.setF_cap, State.setF_cap]
  · rw [State.withPinHist_f, State.setF_f_ne _ _ _ _ _ _ (by decide),
      State.setF_f_below _ _ _ (by decide) (by decide) (by decide), State.setF_f_same _ _ _ (by decide) (by decide)]
  · rw [State.withPinHist_f, State.setF_f_same _ _ _ (by decide) (by decide)]
  · rw [State.withPinHist_reg, State.setF_reg_ne _ _ _ _ hc, State.setF_reg_ne _ _ _ _ hp, State.setF_reg_ne _ _ _ _ hp]

theorem fractionSet_facts (s : State) {r : Nat × Bool} (hr : r.1 ≤ 64) : s.BudgetKept (s.fractionSet r) ∧
    (s.fractionSet r).cap = s.cap ∧ (s.fractionSet r).f Reg.capCtrl 6 0 = r.1 ∧
    (r.2 = false → (s.fractionSet r).f Reg.capBudgetStat 30 30 = 1) ∧
    ∀ o, o ≠ Reg.capCtrl → o ≠ Reg.capBudgetStat → (s.fractionSet r).reg o = s.reg o := by
  have hset : (s.setF Reg.capCtrl 6 0 r.1).f Reg.capCtrl 6 0 = r.1 :=
    (State.setF_f_same _ _ _ (by decide) (by decide)).trans (Nat.mod_eq_of_lt (by omega))
  unfold State.fractionSet
  cases hmeets : r.2 with
  | true =>
    rw [if_pos rfl]
    exact ⟨.setF .., State.setF_cap .., hset, fun h => (nomatch h), fun o ho _ => State.setF_reg_ne _ _ _ _ ho⟩
  | false =>
    rw [if_neg (by decide)]
    refine ⟨(State.BudgetKept.setF ..).trans (.setF ..), ?_, ?_, fun _ => ?_, fun o ho hb => ?_⟩
    · rw [State.setF_cap, State.setF_cap]
    · rw [State.setF_f_ne _ _ _ _ _ _ (by decide), hset]
    · rw [State.setF_f_same _ _ _ (by decide) (by decide)]
      rfl
    · rw [State.setF_reg_ne _ _ _ _ hb, State.setF_reg_ne _ _ _ _ ho]

/-- The loads depend on the partitions alone. -/
theorem budgetLoad_congr {s u : State} (hparts : u.parts = s.parts) (hsys : u.partSys = s.partSys) (pin fOld f : Nat) :
    u.budgetLoad pin fOld f = s.budgetLoad pin fOld f := by
  have hpart : ∀ n, u.part n = s.part n := fun n => by rw [State.part, hparts, State.part]
  have hrun : ∀ n, u.sys n = s.sys n := fun n => by rw [State.sys, hsys, State.sys]
  unfold State.budgetLoad State.share State.tileNum State.ownsUnit State.phase
  simp only [hpart, hrun]

theorem budgetLoopTick_facts {s u v : State} {pin : Nat} {rp : List Nat} {conv : Nat} (hv : v = s.meansShown pin conv)
    (hu : (List.range 16).foldl (fun u n => u.learnDemand conv (v.fractionSet (v.tickF pin)).freeCount n (rp.getD n 0))
      (v.fractionSet (v.tickF pin)).drawn = u) : u.f Reg.capPkgPower 11 0 = pin / 1000 % 2 ^ 12 ∧
      u.cap = { s.cap with pinHist := (pin :: s.cap.pinHist).take 100 } ∧ u.f Reg.capConv 15 0 = conv % 2 ^ 16 ∧
      u.f Reg.capCtrl 6 0 ≤ 64 ∧
      (∀ x, x ≤ 64 → u.f Reg.capCtrl 6 0 < x → (64 * 1000 * s.intervalLimit : Nat) <
        s.budgetLoad (64 * pin) (s.f Reg.capCtrl 6 0) x) ∧
      (s.budgetLoad (64 * pin) (s.f Reg.capCtrl 6 0) (u.f Reg.capCtrl 6 0) ≤ (64 * 1000 * s.intervalLimit : Nat) ∨
        (u.f Reg.capCtrl 6 0 = 0 ∧ u.f Reg.capBudgetStat 30 30 = 1)) ∧
      (∀ n, (s.sys n).ph.moved = true → u.part n = s.part n) ∧ u.tiles = s.tiles ∧ u.mem = s.mem ∧ u.power = s.power := by
  obtain ⟨hmkept, hmcap, hmean, hconv, hmregs⟩ := meansShown_facts s pin conv
  rw [← hv] at hmkept hmcap hmean hconv hmregs
  have hmf : ∀ o hi lo, o ≠ Reg.capPkgPower → o ≠ Reg.capConv → v.f o hi lo = s.f o hi lo := fun o hi lo hp hc => by
    rw [State.f, hmregs o hp hc, State.f]
  have hlimit : v.intervalLimit = s.intervalLimit := by
    rw [State.intervalLimit, hmcap, hmf _ _ _ (by decide) (by decide), hmf _ _ _ (by decide) (by decide), ← State.intervalLimit]
  obtain ⟨hle, hmore, hmeets, hzero⟩ := newF_facts v (64 * pin) (64 * 1000 * v.intervalLimit) (v.f Reg.capCtrl 6 0)
  simp only [hlimit, hmf Reg.capCtrl 6 0 (by decide) (by decide), budgetLoad_congr hmkept.parts hmkept.partSys] at hle hmore hmeets hzero
  have htick : v.tickF pin = v.newF (64 * pin) (64 * 1000 * s.intervalLimit) (s.f Reg.capCtrl 6 0) := by
    rw [State.tickF, hlimit, hmf Reg.capCtrl 6 0 (by decide) (by decide)]
  rw [htick] at hu
  generalize v.newF (64 * pin) (64 * 1000 * s.intervalLimit) (s.f Reg.capCtrl 6 0) = r at *
  obtain ⟨hfkept, hfcap, hf, hunmet, hfregs⟩ := fractionSet_facts v hle
  generalize v.fractionSet r = w at *
  have hkept := hmkept.trans hfkept
  obtain ⟨ps, pss, hform, -, hlearned⟩ := learnDemands_form conv w.freeCount (fun n => rp.getD n 0) (List.range 16) w.drawn
    List.nodup_range
  rw [hu] at hform
  have hureg : ∀ o, u.reg o = w.reg o := fun o => by rw [hform]; rfl
  have huf : ∀ o hi lo, u.f o hi lo = w.f o hi lo := fun o hi lo => by rw [State.f, hureg, State.f]
  have hshown : ∀ o hi lo, o ≠ Reg.capCtrl → o ≠ Reg.capBudgetStat → u.f o hi lo = v.f o hi lo := fun o hi lo hc hb => by
    rw [huf, State.f, hfregs o hc hb, State.f]
  rw [hshown _ _ _ (by decide) (by decide), hshown _ _ _ (by decide) (by decide), huf, huf, hf]
  refine ⟨hmean, ?_, hconv, hle, hmore, ?_, fun n hn => ?_, ?_, ?_, ?_⟩
  · rw [hform, ← hmcap, ← hfcap]
    rfl
  · cases hr : r.2 with
    | true => exact .inl (hmeets hr)
    | false => exact .inr ⟨hzero hr, hunmet hr⟩
  · have hmoved : (w.drawn.sys n).ph.moved = true := by
      rw [← hn, State.sys, State.sys, ← hkept.partSys]
      rfl
    have hpart : w.drawn.part n = s.part n := by
      rw [State.part, State.part, ← hkept.parts]
      rfl
    rw [State.part, hform]
    exact (hlearned n hmoved).trans hpart
  · rw [hform, ← hkept.tiles]
    rfl
  · rw [hform, ← hkept.mem]
    rfl
  · rw [hform, ← hkept.power]
    rfl

end Sys2Proof.Machine
end

section
namespace Sys2Proof.Machine

/-! ### Phase markers (R377) -/

theorem tileWrite_phaseMark (s : State) (a : Agent) (t : Nat) (val : Word) :
    s.tileWrite a t Reg.capPhaseMark val = s.phaseMark t val := rfl

/-- A marker changes no tile, so it leaves no fault to trace. -/
theorem faultTraced_phaseMark (s : State) (a : Agent) (t : Nat) (val : Word) :
    s.faultTraced t (fun u => u.tileWrite a t Reg.capPhaseMark val) = s.phaseMark t val := by
  have hsame : s.tileWrite a t Reg.capPhaseMark val = s.phaseMark t val := tileWrite_phaseMark s a t val
  rw [State.faultTraced_same, hsame]
  rw [hsame]
  unfold State.phaseMark
  split
  · split
    exacts [rfl, rfl]
  · rfl

/-- A write of CAP_PHASE_MARK by an agent that is no service core. -/
theorem tileReg_phaseMark {s : State} {a : Agent} (ha : ∀ n, a ≠ .service n) (t : Nat) (val : Word) :
    s.tileReg a t Reg.capPhaseMark val = if s.agentUp a = true ∧ s.mayTile a t = true then s.phaseMark t val else s := by
  have has : s.asAgent a = s := by
    unfold State.asAgent
    split
    exacts [absurd rfl (ha _), rfl]
  unfold State.tileReg State.reach
  by_cases hup : s.agentUp a = true
  · rw [if_neg (by simp [hup])]
    by_cases hmay : s.mayTile a t = true
    · rw [if_pos hmay, if_pos ⟨hup, hmay⟩, has]
      exact faultTraced_phaseMark s a t val
    · rw [if_neg hmay, if_neg (fun h => hmay h.2)]
      split
      exacts [absurd rfl (ha _), rfl]
  · rw [if_pos (by simp [hup]), if_neg (fun h => hup h.1)]

theorem phaseMark_waits {s : State} {t n : Nat} {val : Word} (howner : s.tileOwner t = some n) (hphase : fld val 2 0 ≤ 4) :
    s.phaseMark t val = s.setSys n { s.sys n with ph :=
      { (s.sys n).ph with marks := (s.sys n).ph.marks ++ [(s.cyc, t, fld val 2 0)] } } := by
  unfold State.phaseMark
  rw [howner]
  exact if_neg (by omega)

theorem phaseMark_ignored {s : State} (t : Nat) {val : Word} (hphase : 4 < fld val 2 0) : s.phaseMark t val = s := by
  unfold State.phaseMark
  split
  exacts [if_pos hphase, rfl]

/-! ### Markers that arrive (R209, R377) -/

/-- Does a marker end a step: a move from another phase into the forward phase? -/
def entersForward (old ph : Nat) : Bool := ph == 0 && old != 0

/-- A partition's history of steps once this one has ended. -/
def PhaseRun.stepHist (r : PhaseRun) : List (List Nat) := (r.five :: r.hist).take 16

/-- A partition's timing after a marker. -/
def PhaseRun.enters (p : PhaseRun) (cyc now old ph : Nat) : PhaseRun :=
  let r := p.visit old now
  let e := if entersForward old ph && r.stepOn then
    { r with ended := (cyc, r.five :: (if r.ended.1 = cyc then r.ended.2 else [])) } else r
  let e := if entersForward old ph then
    { e with hist := if e.stepOn then r.stepHist else e.hist, stepOn := true, stepAt := now, sums := [] } else e
  { e with moved := e.moved || ph != old }

/-- A partition's registers after a marker: the phase, and the statistics of a step that ends. -/
def Part.enters (p : Part) (r : PhaseRun) (now old ph : Nat) : Part :=
  (if entersForward old ph && r.stepOn then p.stepEnds r.five r.stepHist (diff16 now r.stepAt) else p).setF
    Reg.capPartPhase 2 0 ph

/-- A partition in its new phase, before the trace record. -/
def State.phaseSet (s : State) (n ph : Nat) : State :=
  let r := (s.sys n).ph.visit (s.phase n) s.time16
  let v := if entersForward (s.phase n) ph && r.stepOn then
    s.modPart n (fun p => p.stepEnds r.five r.stepHist (diff16 s.time16 r.stepAt)) else s
  (v.modSys n (fun x => { x with ph := (s.sys n).ph.enters v.cyc s.time16 (s.phase n) ph })).modPart n
    (fun p => p.setF Reg.capPartPhase 2 0 ph)

theorem phaseEnters_eq (s : State) (n ph : Nat) :
    s.phaseEnters n ph = (s.phaseSet n ph).tracePart 0xA1 Src.power n [n, ph] := by
  rfl

theorem Part.put_reg_ne (p : Part) {o q : Nat} (v : Nat) (h : q ≠ o) : (p.put o v).reg q = p.reg q :=
  Part.setReg_reg_ne _ _ h

/-- The statistics of one phase of a step that ends. -/
def Part.phaseStat (sums : List Nat) (hist : List (List Nat)) (p : Part) (ph : Nat) : Part :=
  let v := sums.getD ph 0
  let q := (p.put (Reg.capPhaseLast + 16 * ph) v).put (Reg.capPhaseAvg + 16 * ph) (phaseMean hist ph)
  (q.put (Reg.capPhaseMin + 16 * ph) (min v (q.reg (Reg.capPhaseMin + 16 * ph)).toNat)).put
    (Reg.capPhaseMax + 16 * ph) (max v (q.reg (Reg.capPhaseMax + 16 * ph)).toNat)

theorem Part.phaseStat_count (sums : List Nat) (hist : List (List Nat)) (p : Part) {ph : Nat} (h : ph < 5) :
    (p.phaseStat sums hist ph).reg Reg.capStepCnt = p.reg Reg.capStepCnt := by
  have hne : ∀ b ∈ [Reg.capPhaseLast, Reg.capPhaseAvg, Reg.capPhaseMin, Reg.capPhaseMax], Reg.capStepCnt ≠ b + 16 * ph := by
    simp only [List.mem_cons, List.not_mem_nil, or_false, Reg.capStepCnt, Reg.capPhaseLast, Reg.capPhaseAvg, Reg.capPhaseMin,
      Reg.capPhaseMax]
    omega
  unfold Part.phaseStat
  rw [Part.put_reg_ne _ _ (hne _ (by simp)), Part.put_reg_ne _ _ (hne _ (by simp)), Part.put_reg_ne _ _ (hne _ (by simp)),
    Part.put_reg_ne _ _ (hne _ (by simp))]

theorem Part.stepEnds_eq (p : Part) (sums : List Nat) (hist : List (List Nat)) (len : Nat) : p.stepEnds sums hist len =
    (((List.range 5).foldl (Part.phaseStat sums hist) p).put Reg.capStepLast (hold32 len)).setReg Reg.capStepCnt
      (((List.range 5).foldl (Part.phaseStat sums hist) p).reg Reg.capStepCnt + 1) := rfl

/-- A step's end counts the step and shows its time. -/
theorem Part.stepEnds_facts (p : Part) (sums : List Nat) (hist : List (List Nat)) (len : Nat) :
    (p.stepEnds sums hist len).reg Reg.capStepCnt = p.reg Reg.capStepCnt + 1 ∧
    (p.stepEnds sums hist len).reg Reg.capStepLast = BitVec.ofNat 32 (hold32 len) := by
  have hcnt : ((List.range 5).foldl (Part.phaseStat sums hist) p).reg Reg.capStepCnt = p.reg Reg.capStepCnt :=
    List.foldlRecOn (motive := fun x : Part => x.reg Reg.capStepCnt = p.reg Reg.capStepCnt) _ _ rfl fun x h i hi => by
      rw [Part.phaseStat_count _ _ _ (List.mem_range.1 hi), h]
  rw [Part.stepEnds_eq, Part.setReg_reg_same, Part.setReg_reg_ne _ _ (by decide), Part.put, Part.setReg_reg_same, hcnt]
  exact ⟨rfl, rfl⟩

theorem entersForward_iff (old ph : Nat) : entersForward old ph = true ↔ ph = 0 ∧ old ≠ 0 := by
  simp [entersForward]

theorem PhaseRun.enters_facts (p : PhaseRun) (cyc now old ph : Nat) : (p.enters cyc now old ph).marks = p.marks ∧
    (p.enters cyc now old ph).since = now ∧
    ((p.enters cyc now old ph).moved = true ↔ p.moved = true ∨ ph ≠ old) ∧
    (ph = 0 ∧ old ≠ 0 → (p.enters cyc now old ph).stepOn = true ∧ (p.enters cyc now old ph).stepAt = now ∧
      (p.enters cyc now old ph).sums = []) := by
  unfold PhaseRun.enters PhaseRun.visit
  by_cases hfwd : ph = 0 ∧ old ≠ 0
  · have hf := (entersForward_iff old ph).2 hfwd
    cases hon : p.stepOn <;> simp [hf]
  · have hf : entersForward old ph = false := by
      rw [← Bool.not_eq_true, entersForward_iff]
      exact hfwd
    exact ⟨by simp [hf], by simp [hf], by simp [hf], fun h => absurd h hfwd⟩

theorem phaseSet_facts (s : State) (n ph : Nat) (hph : ph ≤ 4) : (s.phaseSet n ph).phase n = ph ∧
    (∃ cyc, (s.phaseSet n ph).sys n = { s.sys n with ph := (s.sys n).ph.enters cyc s.time16 (s.phase n) ph }) ∧
    (ph = 0 ∧ s.phase n ≠ 0 ∧ (s.sys n).ph.stepOn = true →
      ((s.phaseSet n ph).part n).reg Reg.capStepCnt = (s.part n).reg Reg.capStepCnt + 1 ∧
      ((s.phaseSet n ph).part n).reg Reg.capStepLast = BitVec.ofNat 32 (hold32 (diff16 s.time16 (s.sys n).ph.stepAt))) ∧
    (¬(ph = 0 ∧ s.phase n ≠ 0 ∧ (s.sys n).ph.stepOn = true) →
      ((s.phaseSet n ph).part n).reg Reg.capStepCnt = (s.part n).reg Reg.capStepCnt) ∧
    (∀ k, k ≠ n → (s.phaseSet n ph).part k = s.part k ∧ (s.phaseSet n ph).sys k = s.sys k) ∧
    (s.phaseSet n ph).tiles = s.tiles ∧ (s.phaseSet n ph).mem = s.mem := by
  obtain ⟨r, hr⟩ : ∃ r, (s.sys n).ph.visit (s.phase n) s.time16 = r := ⟨_, rfl⟩
  have hon : r.stepOn = (s.sys n).ph.stepOn := by rw [← hr]; rfl
  have hat : r.stepAt = (s.sys n).ph.stepAt := by rw [← hr]; rfl
  obtain ⟨v, hv⟩ : ∃ v, (if entersForward (s.phase n) ph && r.stepOn then
    s.modPart n (fun p => p.stepEnds r.five r.stepHist (diff16 s.time16 r.stepAt)) else s) = v := ⟨_, rfl⟩
  have hset : s.phaseSet n ph = (v.modSys n (fun x => { x with ph := (s.sys n).ph.enters v.cyc s.time16 (s.phase n) ph })).modPart n
      (fun p => p.setF Reg.capPartPhase 2 0 ph) := by
    rw [← hv, ← hr]
    rfl
  have hends : (entersForward (s.phase n) ph && r.stepOn) = true ↔ ph = 0 ∧ s.phase n ≠ 0 ∧ (s.sys n).ph.stepOn = true := by
    rw [Bool.and_eq_true, entersForward_iff, hon, and_assoc]
  have hvfacts : (∀ k, v.sys k = s.sys k) ∧ v.tiles = s.tiles ∧ v.mem = s.mem ∧ (∀ k, k ≠ n → v.part k = s.part k) ∧
      (ph = 0 ∧ s.phase n ≠ 0 ∧ (s.sys n).ph.stepOn = true → (v.part n).reg Reg.capStepCnt = (s.part n).reg Reg.capStepCnt + 1 ∧
        (v.part n).reg Reg.capStepLast = BitVec.ofNat 32 (hold32 (diff16 s.time16 (s.sys n).ph.stepAt))) ∧
      (¬(ph = 0 ∧ s.phase n ≠ 0 ∧ (s.sys n).ph.stepOn = true) → v = s) := by
    by_cases h : ph = 0 ∧ s.phase n ≠ 0 ∧ (s.sys n).ph.stepOn = true
    · rw [if_pos (hends.2 h)] at hv
      subst hv
      refine ⟨fun k => State.modPart_sys _ _ _ k, State.modPart_tiles _ _ _, State.modPart_mem _ _ _,
        fun k hk => State.modPart_part_ne _ _ hk, fun _ => ?_, fun hn => absurd h hn⟩
      rw [State.modPart_part_same, ← hat]
      exact Part.stepEnds_facts _ _ _ _
    · rw [if_neg (fun h' => h (hends.1 h'))] at hv
      subst hv
      exact ⟨fun _ => rfl, rfl, rfl, fun _ _ => rfl, fun h' => absurd h' h, fun _ => rfl⟩
  obtain ⟨hsys, htiles, hmem, hother, hyes, hno⟩ := hvfacts
  rw [hset]
  have hpart : ((v.modSys n (fun x => { x with ph := (s.sys n).ph.enters v.cyc s.time16 (s.phase n) ph })).modPart n
      (fun p => p.setF Reg.capPartPhase 2 0 ph)).part n = (v.part n).setF Reg.capPartPhase 2 0 ph := by
    rw [State.modPart_part_same, State.modSys_part]
  refine ⟨?_, ⟨v.cyc, ?_⟩, fun h => ?_, fun h => ?_, fun k hk => ⟨?_, ?_⟩, ?_, ?_⟩
  · rw [State.phase, hpart, Part.setF_f_same _ _ _ (by decide) (by decide)]
    exact Nat.mod_eq_of_lt (by omega)
  · rw [State.modPart_sys, State.modSys_sys_same, hsys]
  · rw [hpart, Part.setF_reg_ne _ _ _ _ (by decide), Part.setF_reg_ne _ _ _ _ (by decide)]
    exact hyes h
  · rw [hpart, Part.setF_reg_ne _ _ _ _ (by decide), hno h]
  · rw [State.modPart_part_ne _ _ hk, State.modSys_part, hother k hk]
  · rw [State.modPart_sys, State.modSys_sys_ne _ _ hk, hsys]
  · rw [State.modPart_tiles, State.modSys_tiles, htiles]
  · rw [State.modPart_mem, State.modSys_mem, hmem]

theorem phaseEnters_facts {s u : State} {n ph : Nat} (hph : ph ≤ 4) (hu : s.phaseEnters n ph = u) : u.phase n = ph ∧
    (u.sys n).ph.marks = (s.sys n).ph.marks ∧ (u.sys n).ph.since = s.time16 ∧
    ((u.sys n).ph.moved = true ↔ (s.sys n).ph.moved = true ∨ ph ≠ s.phase n) ∧
    (ph = 0 ∧ s.phase n ≠ 0 → (u.sys n).ph.stepOn = true ∧ (u.sys n).ph.stepAt = s.time16 ∧ (u.sys n).ph.sums = []) ∧
    (ph = 0 ∧ s.phase n ≠ 0 ∧ (s.sys n).ph.stepOn = true →
      (u.part n).reg Reg.capStepCnt = (s.part n).reg Reg.capStepCnt + 1 ∧
      (u.part n).reg Reg.capStepLast = BitVec.ofNat 32 (hold32 (diff16 s.time16 (s.sys n).ph.stepAt))) ∧
    (¬(ph = 0 ∧ s.phase n ≠ 0 ∧ (s.sys n).ph.stepOn = true) →
      (u.part n).reg Reg.capStepCnt = (s.part n).reg Reg.capStepCnt) ∧
    (∀ k, k ≠ n → u.part k = s.part k ∧ u.sys k = s.sys k) ∧ u.tiles = s.tiles ∧ u.mem = s.mem := by
  obtain ⟨hphase, ⟨cyc, hsys⟩, hyes, hno, hother, htiles, hmem⟩ := phaseSet_facts s n ph hph
  obtain ⟨hmarks, hsince, hmoved, hfwd⟩ := (s.sys n).ph.enters_facts cyc s.time16 (s.phase n) ph
  rw [phaseEnters_eq] at hu
  have hrec : (s.phaseSet n ph).RecordsOnly u := by
    rw [← hu]
    exact .tracePart _ _ _ _ _
  generalize s.phaseSet n ph = v at *
  rw [State.phase, hrec.part, ← State.phase, hphase, hrec.sys, hsys, hrec.tiles, hrec.mem]
  exact ⟨rfl, hmarks, hsince, hmoved, hfwd, hyes, hno, fun k hk => ⟨(hrec.part k).trans (hother k hk).1,
    (hrec.sys k).trans (hother k hk).2⟩, htiles, hmem⟩

/-- The markers that wait with a partition. -/
def State.withMarks (s : State) (n : Nat) (l : List (Nat × Nat × Nat)) : State :=
  s.modSys n (fun x => { x with ph := { x.ph with marks := l } })

theorem withMarks_facts (s : State) (n : Nat) (l : List (Nat × Nat × Nat)) :
    (s.withMarks n l).sys n = { s.sys n with ph := { (s.sys n).ph with marks := l } } ∧
    (∀ k, k ≠ n → (s.withMarks n l).sys k = s.sys k) ∧ (∀ k, (s.withMarks n l).part k = s.part k) ∧
    (s.withMarks n l).time16 = s.time16 ∧ (s.withMarks n l).tiles = s.tiles ∧ (s.withMarks n l).mem = s.mem :=
  ⟨State.modSys_sys_same .., fun _ hk => State.modSys_sys_ne _ _ hk, fun _ => rfl, rfl, rfl, rfl⟩

theorem phaseMarkerApply_one {s : State} {n c t ph : Nat} {l : List (Nat × Nat × Nat)}
    (hmarks : (s.sys n).ph.marks = (c, t, ph) :: l) (hlater : ∀ m ∈ l, m.1 ≠ c) :
    s.phaseMarkerApply n = (s.withMarks n l).phaseEnters n ph := by
  have hnow : ((c, t, ph) :: l).filter (fun x => x.1 == c) = [(c, t, ph)] := by
    rw [List.filter_cons_of_pos (by simp), List.filter_eq_nil_iff.2 (fun m hm => by simpa using hlater m hm)]
  have hrest : ((c, t, ph) :: l).filter (fun x => x.1 != c) = l := by
    rw [List.filter_cons_of_neg (by simp), List.filter_eq_self.2 (fun m hm => by simpa using hlater m hm)]
  unfold State.phaseMarkerApply
  rw [hmarks]
  simp only [hnow, hrest]
  rfl

theorem phaseMarkerApply_two {s : State} {n c t1 t2 p1 p2 : Nat} (hmarks : (s.sys n).ph.marks = [(c, t1, p1), (c, t2, p2)]) :
    s.phaseMarkerApply n = if t2 < t1 then ((s.withMarks n []).phaseEnters n p2).phaseEnters n p1
      else ((s.withMarks n []).phaseEnters n p1).phaseEnters n p2 := by
  have hnow : [(c, t1, p1), (c, t2, p2)].filter (fun x => x.1 == c) = [(c, t1, p1), (c, t2, p2)] := by simp
  have hrest : [(c, t1, p1), (c, t2, p2)].filter (fun x => x.1 != c) = [] := by simp
  unfold State.phaseMarkerApply
  rw [hmarks]
  simp only [hnow, hrest, List.foldl_cons, List.foldl_nil, insertMark]
  split
  · rfl
  · rfl

/-! ### The budget in force (R381) -/

/-- The budget in force a millisecond later. -/
def State.ramped (s : State) : Nat :=
  if s.f Reg.capBudgetStat 9 0 < s.f Reg.capBudgetStat 25 16 then
    min (s.f Reg.capBudgetStat 25 16) (s.f Reg.capBudgetStat 9 0 + s.budgetRamp)
  else max (s.f Reg.capBudgetStat 25 16) (s.f Reg.capBudgetStat 9 0 - s.budgetRamp)

theorem budgetRampTick_eq {s : State} (hup : s.vctlUp = true) : s.budgetRampTick =
    (s.setF Reg.capBudgetStat 9 0 s.ramped).setF Reg.capBudgetStat 29 29 (if s.ramped = s.f Reg.capBudgetStat 25 16 then 0 else 1) := by
  unfold State.budgetRampTick State.ramped
  rw [hup]
  exact if_neg (by decide)

theorem ramped_lt (s : State) : s.ramped < 2 ^ 10 := by
  have hb : s.f Reg.capBudgetStat 9 0 < 2 ^ 10 := fld_lt _ 9 0
  have ht : s.f Reg.capBudgetStat 25 16 < 2 ^ 10 := fld_lt _ 25 16
  unfold State.ramped
  split_ifs <;> omega

theorem budgetRampTick_facts {s u : State}
    (hu : (s.setF Reg.capBudgetStat 9 0 s.ramped).setF Reg.capBudgetStat 29 29
      (if s.ramped = s.f Reg.capBudgetStat 25 16 then 0 else 1) = u) : u.f Reg.capBudgetStat 9 0 = s.ramped ∧
      (u.f Reg.capBudgetStat 29 29 = 0 ↔ u.f Reg.capBudgetStat 9 0 = s.f Reg.capBudgetStat 25 16) ∧
      u.f Reg.capBudgetStat 25 16 = s.f Reg.capBudgetStat 25 16 ∧
      (∀ o, o ≠ Reg.capBudgetStat → u.reg o = s.reg o) ∧ u.tiles = s.tiles ∧ u.cap = s.cap := by
  have hb : u.f Reg.capBudgetStat 9 0 = s.ramped := by
    rw [← hu, State.setF_f_below _ _ _ (by decide) (by decide) (by decide), State.setF_f_same _ _ _ (by decide) (by decide)]
    exact Nat.mod_eq_of_lt (ramped_lt s)
  refine ⟨hb, ?_, ?_, fun o ho => ?_, ?_, ?_⟩
  · rw [hb, ← hu, State.setF_f_same _ _ _ (by decide) (by decide)]
    split_ifs with h <;> simp [h]
  · rw [← hu, State.setF_f_below _ _ _ (by decide) (by decide) (by decide),
      State.setF_f_above _ _ _ (by decide) (by decide) (by decide)]
  · rw [← hu, State.setF_reg_ne _ _ _ _ ho, State.setF_reg_ne _ _ _ _ ho]
  · rw [← hu, State.setF_tiles, State.setF_tiles]
  · rw [← hu, State.setF_cap, State.setF_cap]

/-! ### The target follows the selected source (R380, R383) -/

/-- The state with other records of the cap controller. -/
def State.withCapState (s : State) (c : Cap) : State := { s with cap := c }

@[simp] theorem State.withCapState_cap (s : State) (c : Cap) : (s.withCapState c).cap = c := rfl
@[simp] theorem State.withCapState_power (s : State) (c : Cap) : (s.withCapState c).power = s.power := rfl
@[simp] theorem State.withCapState_reg (s : State) (c : Cap) (o : Nat) : (s.withCapState c).reg o = s.reg o := rfl
@[simp] theorem State.withCapState_f (s : State) (c : Cap) (o hi lo : Nat) : (s.withCapState c).f o hi lo = s.f o hi lo := rfl
@[simp] theorem State.withCapState_tiles (s : State) (c : Cap) : (s.withCapState c).tiles = s.tiles := rfl
@[simp] theorem State.withCapState_parts (s : State) (c : Cap) : (s.withCapState c).parts = s.parts := rfl
@[simp] theorem State.withCapState_time (s : State) (c : Cap) : (s.withCapState c).time = s.time := rfl
@[simp] theorem State.withCapState_budgetSrc (s : State) (c : Cap) : (s.withCapState c).budgetSrc = s.budgetSrc := rfl

/-- What a move of the target leaves: the tiles, the partitions and the power records, and of the chip's registers all but CAP_BUDGET_STAT and
MB_ALERT. -/
structure State.TargetOnly (s u : State) : Prop where
  tiles : u.tiles = s.tiles
  parts : u.parts = s.parts
  power : u.power = s.power
  regs  : ∀ o, o ≠ Reg.capBudgetStat → o ≠ Reg.mbAlert → u.reg o = s.reg o

namespace State.TargetOnly
variable {s u v : State}

theorem trans (h : s.TargetOnly u) (h' : u.TargetOnly v) : s.TargetOnly v :=
  ⟨h'.tiles.trans h.tiles, h'.parts.trans h.parts, h'.power.trans h.power, fun o ho ha => (h'.regs o ho ha).trans (h.regs o ho ha)⟩

theorem ofNotes (h : s.NotesOnly u) : s.TargetOnly u := ⟨h.tiles, h.parts, h.power, fun _ _ ha => h.reg ha⟩

theorem setF (s : State) (hi lo v : Nat) : s.TargetOnly (s.setF Reg.capBudgetStat hi lo v) :=
  ⟨State.setF_tiles .., State.setF_parts .., State.setF_power .., fun _ ho _ => State.setF_reg_ne _ _ _ _ ho⟩

theorem withCapState (s : State) (c : Cap) : s.TargetOnly (s.withCapState c) := ⟨rfl, rfl, rfl, fun _ _ _ => rfl⟩

end State.TargetOnly

/-- The target at its new value, and whether the budget in force has yet to reach it. -/
def State.targetSet (s : State) (w : Nat) : State :=
  if s.f Reg.capBudgetStat 25 16 = w then s
  else (s.setF Reg.capBudgetStat 25 16 w).setF Reg.capBudgetStat 29 29 (if s.f Reg.capBudgetStat 9 0 = w then 0 else 1)

theorem setTarget_records (s : State) (w : Nat) : (s.targetSet w).RecordsOnly (s.setTarget w) := by
  unfold State.targetSet State.setTarget
  by_cases hsame : s.f Reg.capBudgetStat 25 16 = w
  · rw [if_pos hsame, if_pos hsame]
    exact .refl _
  · rw [if_neg hsame, if_neg hsame]
    refine (State.RecordsOnly.trace _ 0xA0 Src.power [w]).trans ?_
    dsimp only
    generalize (if s.f Reg.capBudgetStat 9 0 = w then 0 else 1) = left
    split
    exacts [.logSev _ _ _ _ _, .refl _]

/-- A move of the target. -/
theorem setTarget_facts (s : State) {w : Nat} (hw : w < 2 ^ 10) : s.TargetOnly (s.setTarget w) ∧
    (s.setTarget w).cap = s.cap ∧ (s.setTarget w).f Reg.capBudgetStat 25 16 = w ∧
    (s.setTarget w).f Reg.capBudgetStat 28 28 = s.f Reg.capBudgetStat 28 28 := by
  have hnotes := State.NotesOnly.ofRecords (setTarget_records s w)
  have hset : s.TargetOnly (s.targetSet w) ∧ (s.targetSet w).cap = s.cap ∧ (s.targetSet w).f Reg.capBudgetStat 25 16 = w ∧
      (s.targetSet w).f Reg.capBudgetStat 28 28 = s.f Reg.capBudgetStat 28 28 := by
    unfold State.targetSet
    split_ifs with hsame hthere
    · exact ⟨⟨rfl, rfl, rfl, fun _ _ _ => rfl⟩, rfl, hsame, rfl⟩
    all_goals
      refine ⟨(State.TargetOnly.setF ..).trans (.setF ..), ?_, ?_, ?_⟩
      · rw [State.setF_cap, State.setF_cap]
      · rw [State.setF_f_below _ _ _ (by decide) (by decide) (by decide), State.setF_f_same _ _ _ (by decide) (by decide)]
        exact Nat.mod_eq_of_lt hw
      · rw [State.setF_f_below _ _ _ (by decide) (by decide) (by decide),
          State.setF_f_above _ _ _ (by decide) (by decide) (by decide)]
  obtain ⟨honly, hcap, htarget, hlost⟩ := hset
  exact ⟨honly.trans (.ofNotes hnotes), hnotes.cap.trans hcap, (hnotes.f (by decide) 25 16).trans htarget,
    (hnotes.f (by decide) 28 28).trans hlost⟩

/-- The hold begins (R383). -/
def State.lostMarked (s : State) : State :=
  (s.withCapState { s.cap with expired := false, lostAt := s.time, lostOn := true }).setF Reg.capBudgetStat 28 28 1

theorem lostNow_records {s : State} (hnew : s.cap.lostOn = false) : s.lostMarked.RecordsOnly s.lostNow := by
  unfold State.lostNow
  rw [if_neg (by simp [hnew])]
  exact .logSev _ _ _ _ _

theorem lostNow_facts {s : State} (hnew : s.cap.lostOn = false) : s.TargetOnly s.lostNow ∧
    s.lostNow.cap = { s.cap with expired := false, lostAt := s.time, lostOn := true } ∧
    s.lostNow.f Reg.capBudgetStat 28 28 = 1 ∧ s.lostNow.f Reg.capBudgetStat 25 16 = s.f Reg.capBudgetStat 25 16 ∧
    s.lostNow.f Reg.capBudgetStat 9 0 = s.f Reg.capBudgetStat 9 0 := by
  have hnotes := State.NotesOnly.ofRecords (lostNow_records hnew)
  refine ⟨((State.TargetOnly.withCapState ..).trans (.setF ..)).trans (.ofNotes hnotes), ?_, ?_, ?_, ?_⟩
  · rw [hnotes.cap, State.lostMarked, State.setF_cap, State.withCapState_cap]
  · rw [hnotes.f (by decide), State.lostMarked, State.setF_f_same _ _ _ (by decide) (by decide)]
    rfl
  · rw [hnotes.f (by decide), State.lostMarked, State.setF_f_below _ _ _ (by decide) (by decide) (by decide), State.withCapState_f]
  · rw [hnotes.f (by decide), State.lostMarked, State.setF_f_below _ _ _ (by decide) (by decide) (by decide), State.withCapState_f]

/-- While the selected source is lost the target holds, or is FLOOR. -/
theorem retarget_lost {s : State} (hlost : s.budgetLost s.budgetSrc = true) :
    s.retarget = if s.lostNow.cap.expired then s.lostNow.setTarget s.lostNow.budgetFloor else s.lostNow := by
  unfold State.retarget
  exact if_pos hlost

/-- The selected source's target, with LOST clear. -/
def State.sourceFound (s : State) : State :=
  (s.setF Reg.capBudgetStat 28 28 0).withCapState { s.cap with expired := false, lostOn := false }

theorem retarget_found {s : State} (hlost : s.budgetLost s.budgetSrc = false) : s.retarget =
    s.sourceFound.setTarget (max s.sourceFound.budgetFloor (min 900 (s.sourceFound.budgetReq s.budgetSrc))) := by
  unfold State.retarget
  exact if_neg (by simp [hlost])

theorem budgetFloor_le (s : State) : s.budgetFloor ≤ 900 := Nat.min_le_left _ _

/-- FLOOR and the requests do not depend on the budget itself. -/
theorem budgetFloor_congr {s u : State} (h : s.TargetOnly u) : u.budgetFloor = s.budgetFloor := by
  rw [State.budgetFloor, State.f, h.regs _ (by decide) (by decide), ← State.f, ← State.budgetFloor]

theorem budgetReq_congr {s u : State} (h : s.TargetOnly u) (src : Nat) : u.budgetReq src = s.budgetReq src := by
  unfold State.budgetReq State.f
  rw [h.regs _ (by decide) (by decide), h.regs _ (by decide) (by decide), h.regs _ (by decide) (by decide)]

theorem retarget_found_facts {s : State} (hlost : s.budgetLost s.budgetSrc = false) : s.TargetOnly s.retarget ∧
    s.retarget.cap = { s.cap with expired := false, lostOn := false } ∧ s.retarget.f Reg.capBudgetStat 28 28 = 0 ∧
    s.retarget.f Reg.capBudgetStat 25 16 = max s.budgetFloor (min 900 (s.budgetReq s.budgetSrc)) := by
  have honly : s.TargetOnly s.sourceFound := (State.TargetOnly.setF s 28 28 0).trans (.withCapState _ _)
  have hw : max s.budgetFloor (min 900 (s.budgetReq s.budgetSrc)) < 2 ^ 10 := by
    have := budgetFloor_le s
    omega
  have hclear : s.sourceFound.f Reg.capBudgetStat 28 28 = 0 := by
    rw [State.sourceFound, State.withCapState_f, State.setF_f_same _ _ _ (by decide) (by decide), Nat.zero_mod]
  rw [retarget_found hlost, budgetFloor_congr honly, budgetReq_congr honly]
  obtain ⟨honly', hcap, htarget, hsame⟩ := setTarget_facts s.sourceFound hw
  exact ⟨honly.trans honly', hcap, hsame.trans hclear, htarget⟩

/-- The selected source is found lost: the hold begins. -/
theorem retarget_newly {s : State} (hlost : s.budgetLost s.budgetSrc = true) (hnew : s.cap.lostOn = false) :
    s.retarget = s.lostNow := by
  rw [retarget_lost hlost, (lostNow_facts hnew).2.1]
  rfl

/-- The hold has ended: the target is FLOOR. -/
theorem retarget_expired {s : State} (hlost : s.budgetLost s.budgetSrc = true) (hheld : s.cap.lostOn = true)
    (hover : s.cap.expired = true) : s.retarget = s.setTarget s.budgetFloor := by
  have hsame : s.lostNow = s := if_pos hheld
  rw [retarget_lost hlost, hsame, hover]
  rfl

/-- A retarget changes at most the hold's record in the cap controller. -/
theorem retarget_cap (s : State) : s.TargetOnly s.retarget ∧
    ∃ e l o, s.retarget.cap = { s.cap with expired := e, lostAt := l, lostOn := o } := by
  cases hlost : s.budgetLost s.budgetSrc with
  | false =>
    obtain ⟨honly, hcap, -⟩ := retarget_found_facts hlost
    exact ⟨honly, _, _, _, hcap⟩
  | true =>
    cases hheld : s.cap.lostOn with
    | false =>
      obtain ⟨honly, hcap, -⟩ := lostNow_facts hheld
      rw [retarget_newly hlost hheld]
      exact ⟨honly, _, _, _, hcap⟩
    | true =>
      have hsame : s.lostNow = s := if_pos hheld
      rw [retarget_lost hlost, hsame]
      split
      · obtain ⟨honly, hcap, -⟩ := setTarget_facts s (Nat.lt_of_le_of_lt (budgetFloor_le s) (by decide))
        exact ⟨honly, s.cap.expired, s.cap.lostAt, s.cap.lostOn, hcap⟩
      · exact ⟨⟨rfl, rfl, rfl, fun _ _ _ => rfl⟩, s.cap.expired, s.cap.lostAt, s.cap.lostOn, rfl⟩

/-! ### The budget's sources (R382, R383) -/

/-- Is a period of the pin pair valid: 45 µs to 55 µs, the complement right, and a duty of 2 % to 98 %? -/
def periodValid (p h : Nat) (ok : Bool) : Bool :=
  decide (45000 ≤ p) && decide (p ≤ 55000) && ok && decide (20 * p ≤ 1000 * h) && decide (1000 * h ≤ 980 * p)

theorem budgetPinPeriod_invalid {s : State} (hup : s.vctlUp = true) {p h : Nat} {ok : Bool} (hbad : periodValid p h ok = false) :
    s.budgetPinPeriod p h ok = (s.count Reg.capBudgetPin 31 16 1).withCapState { s.cap with badRun := s.cap.badRun + 1 } := by
  unfold State.budgetPinPeriod
  rw [hup, if_neg (by decide)]
  extract_lets +onlyGivenNames valid
  have hv : valid = false := hbad
  clear_value valid
  rw [hv]
  rfl

theorem budgetPinPeriod_invalid_facts {s u : State}
    (hu : (s.count Reg.capBudgetPin 31 16 1).withCapState { s.cap with badRun := s.cap.badRun + 1 } = u) :
    u.tiles = s.tiles ∧ u.parts = s.parts ∧
      u.f Reg.capBudgetPin 31 16 = min 0xFFFF (s.f Reg.capBudgetPin 31 16 + 1) ∧
      u.cap = { s.cap with badRun := s.cap.badRun + 1 } ∧ ∀ o, o ≠ Reg.capBudgetPin → u.reg o = s.reg o := by
  subst hu
  refine ⟨?_, ?_, ?_, ?_, fun o ho => ?_⟩
  · rw [State.withCapState_tiles, State.count, State.setF_tiles]
  · rw [State.withCapState_parts, State.count, State.setF_parts]
  · rw [State.withCapState_f, State.count_f_same _ _ _ (by decide) (by decide)]
    norm_num
  · rw [State.withCapState_cap]
  · rw [State.withCapState_reg, State.count_reg_ne _ _ _ _ ho]

/-- The latest sixteen duties, and whether the pin stays lost. -/
def State.pinDuties (s : State) (p h : Nat) : List Nat := (h * 1000 * 2 ^ 20 / p :: s.cap.duties).take 16
def State.pinStaysLost (s : State) : Bool := s.cap.pinLost && decide (s.cap.goodRun + 1 < 4)

/-- The records of the pin pair take a valid period's duties. -/
def State.pinTaken (s : State) (duties : List Nat) (good : Nat) (lost : Bool) : State :=
  { s with
    freeCount := s.freeCount + 1
    cap := { s.cap with duties := duties, badRun := 0, pinAt := s.time, goodRun := if lost then good else 0, pinLost := lost } }

/-- A valid period is taken, before the target follows it. -/
def State.periodTaken (s : State) (p h : Nat) : State :=
  (s.setF Reg.capBudgetPin 9 0 (dutyMean (s.pinDuties p h) s.freeCount)).pinTaken (s.pinDuties p h) (s.cap.goodRun + 1)
    s.pinStaysLost

theorem budgetPinPeriod_valid {s : State} (hup : s.vctlUp = true) {p h : Nat} {ok : Bool} (hgood : periodValid p h ok = true) :
    s.budgetPinPeriod p h ok = (s.periodTaken p h).retarget.alertSync := by
  unfold State.budgetPinPeriod State.periodTaken
  rw [hup, if_neg (by decide)]
  extract_lets +onlyGivenNames valid
  have hv : valid = true := hgood
  clear_value valid
  rw [hv, if_neg (by decide)]
  extract_lets +onlyGivenNames duties good lost
  have hd : s.pinDuties p h = duties := rfl
  have hl : s.pinStaysLost = lost := rfl
  rw [hd, hl]
  clear_value duties lost
  rfl

theorem dutyMean_eq (l : List Nat) (draw : Nat) : ∃ c, c ≤ 1 ∧ dutyMean l draw = l.sum / (l.length * 2 ^ 20) + c := by
  refine ⟨if l.sum % (l.length * 2 ^ 20) = 0 then 0 else Config.freeValue draw 0 % 2, ?_, rfl⟩
  split <;> omega

theorem periodTaken_facts (s : State) (p h : Nat) : (s.periodTaken p h).tiles = s.tiles ∧ (s.periodTaken p h).parts = s.parts ∧
    (s.periodTaken p h).cap = { s.cap with
      duties := s.pinDuties p h, badRun := 0, pinAt := s.time
      goodRun := if s.pinStaysLost then s.cap.goodRun + 1 else 0, pinLost := s.pinStaysLost } ∧
    (s.periodTaken p h).f Reg.capBudgetPin 9 0 = dutyMean (s.pinDuties p h) s.freeCount % 2 ^ 10 ∧
    (∀ o, o ≠ Reg.capBudgetPin → (s.periodTaken p h).reg o = s.reg o) := by
  have htaken : ∀ (v : State) d g l, (v.pinTaken d g l).tiles = v.tiles ∧ (v.pinTaken d g l).parts = v.parts ∧
      (v.pinTaken d g l).cap = { v.cap with
        duties := d, badRun := 0, pinAt := v.time, goodRun := if l then g else 0, pinLost := l } ∧
      (∀ o, (v.pinTaken d g l).reg o = v.reg o) ∧ ∀ o hi lo, (v.pinTaken d g l).f o hi lo = v.f o hi lo :=
    fun _ _ _ _ => ⟨rfl, rfl, rfl, fun _ => rfl, fun _ _ _ => rfl⟩
  unfold State.periodTaken
  generalize dutyMean (s.pinDuties p h) s.freeCount = mean
  generalize s.pinDuties p h = duties, s.pinStaysLost = lost
  obtain ⟨htiles, hparts, hcap, hregs, hfields⟩ := htaken (s.setF Reg.capBudgetPin 9 0 mean) duties (s.cap.goodRun + 1) lost
  refine ⟨?_, ?_, ?_, ?_, fun o ho => ?_⟩
  · rw [htiles, State.setF_tiles]
  · rw [hparts, State.setF_parts]
  · rw [hcap, State.setF_cap, State.time, State.setF_timeAcc, ← State.time]
  · rw [hfields, State.setF_f_same _ _ _ (by decide) (by decide)]
  · rw [hregs, State.setF_reg_ne _ _ _ _ ho]

theorem budgetSrc_congr {s u : State} (h : u.reg Reg.capBudgetCfg = s.reg Reg.capBudgetCfg) : u.budgetSrc = s.budgetSrc := by
  rw [State.budgetSrc, State.f, h, ← State.f, ← State.budgetSrc]

theorem budgetFloor_of {s u : State} (h : u.reg Reg.capBudgetReq = s.reg Reg.capBudgetReq) : u.budgetFloor = s.budgetFloor := by
  rw [State.budgetFloor, State.f, h, ← State.f, ← State.budgetFloor]

/-- A valid period; with the pin selected the target follows it. -/
theorem budgetPinPeriod_valid_facts {s u : State} {p h : Nat} (hu : (s.periodTaken p h).retarget.alertSync = u) :
    u.tiles = s.tiles ∧ u.parts = s.parts ∧ u.cap.badRun = 0 ∧ u.cap.pinAt = s.time ∧
      u.cap.duties = (h * 1000 * 2 ^ 20 / p :: s.cap.duties).take 16 ∧
      u.cap.pinLost = (s.cap.pinLost && decide (s.cap.goodRun + 1 < 4)) ∧
      (∃ c, c ≤ 1 ∧ u.f Reg.capBudgetPin 9 0 = (u.cap.duties.sum / (u.cap.duties.length * 2 ^ 20) + c) % 2 ^ 10) ∧
      (s.budgetSrc = 1 → u.cap.pinLost = false → u.f Reg.capBudgetStat 28 28 = 0 ∧
        u.f Reg.capBudgetStat 25 16 = max s.budgetFloor (min 900 (u.f Reg.capBudgetPin 9 0 - 50))) := by
  obtain ⟨htiles, hparts, hcap, hpin, hregs⟩ := periodTaken_facts s p h
  have hsrc : (s.periodTaken p h).budgetSrc = s.budgetSrc := budgetSrc_congr (hregs _ (by decide))
  have hfloor : (s.periodTaken p h).budgetFloor = s.budgetFloor := budgetFloor_of (hregs _ (by decide))
  generalize s.periodTaken p h = v at *
  obtain ⟨honly, e, l, o, hrcap⟩ := retarget_cap v
  have hnotes := State.NotesOnly.alertSync v.retarget
  rw [hu] at hnotes
  have hucap : u.cap = { v.cap with expired := e, lostAt := l, lostOn := o } := by rw [hnotes.cap, hrcap]
  have hupin : u.f Reg.capBudgetPin 9 0 = v.f Reg.capBudgetPin 9 0 := by
    rw [hnotes.f (by decide), State.f, honly.regs _ (by decide) (by decide), State.f]
  obtain ⟨c, hc, hmean⟩ := dutyMean_eq (s.pinDuties p h) s.freeCount
  refine ⟨?_, ?_, ?_, ?_, ?_, ?_, ⟨c, hc, ?_⟩, fun h1 hfound => ?_⟩
  · rw [hnotes.tiles, honly.tiles, htiles]
  · rw [hnotes.parts, honly.parts, hparts]
  · rw [hucap, hcap]
  · rw [hucap, hcap]
  · rw [hucap, hcap]
    rfl
  · rw [hucap, hcap]
    rfl
  · rw [hupin, hpin, hucap, hcap, hmean]
  · have hnot : v.budgetLost v.budgetSrc = false := by
      rw [hucap] at hfound
      have hfound' : v.cap.pinLost = false := hfound
      rw [hsrc, h1]
      simp [State.budgetLost, hfound']
    obtain ⟨-, -, hlost, htarget⟩ := retarget_found_facts hnot
    have hreq : v.budgetReq 1 = min 900 (v.f Reg.capBudgetPin 9 0 - 50) := if_pos rfl
    rw [hnotes.f (by decide), hnotes.f (by decide), hlost, htarget, hupin, hsrc, h1, hreq, hfloor, ← Nat.min_assoc, Nat.min_self]
    exact ⟨rfl, rfl⟩

theorem sourceLost_eq (s : State) (src : Nat) : s.sourceLost src = if s.budgetSrc ≠ src then s else s.retarget.alertSync := rfl

/-- A source that is lost; the selected one starts the hold. -/
theorem sourceLost_facts {s u : State} {src : Nat} {c : Cap} (hlost : (s.withCapState c).budgetLost src = true)
    (hon : c.lostOn = s.cap.lostOn) (hu : (s.withCapState c).sourceLost src = u) : u.budgetLost src = true ∧ u.tiles = s.tiles ∧
      u.parts = s.parts ∧ (s.budgetSrc ≠ src → u.chip = s.chip ∧ u.pairs = s.pairs) ∧
      (s.budgetSrc = src → s.cap.lostOn = false → u.f Reg.capBudgetStat 28 28 = 1 ∧ u.cap.lostAt = s.time ∧
        u.cap.lostOn = true ∧ u.cap.expired = false ∧ u.f Reg.capBudgetStat 25 16 = s.f Reg.capBudgetStat 25 16 ∧
        u.f Reg.capBudgetStat 9 0 = s.f Reg.capBudgetStat 9 0) := by
  rw [sourceLost_eq, State.withCapState_budgetSrc] at hu
  by_cases hsel : s.budgetSrc = src
  · rw [if_neg (not_not_intro hsel)] at hu
    obtain ⟨honly, e, l, o, hrcap⟩ := retarget_cap (s.withCapState c)
    have hnotes := State.NotesOnly.alertSync (s.withCapState c).retarget
    rw [hu] at hnotes
    refine ⟨?_, ?_, ?_, fun h => absurd hsel h, fun _ hnew => ?_⟩
    · have hucap : u.cap = { c with expired := e, lostAt := l, lostOn := o } := by rw [hnotes.cap, hrcap, State.withCapState_cap]
      rw [State.budgetLost, hucap]
      exact hlost
    · rw [hnotes.tiles, honly.tiles, State.withCapState_tiles]
    · rw [hnotes.parts, honly.parts, State.withCapState_parts]
    · rw [← hon] at hnew
      have hnew' : (s.withCapState c).cap.lostOn = false := hnew
      have hselLost : (s.withCapState c).budgetLost (s.withCapState c).budgetSrc = true := by
        rw [State.withCapState_budgetSrc, hsel, hlost]
      obtain ⟨-, hcap, hflag, htarget, hforce⟩ := lostNow_facts hnew'
      rw [hnotes.f (by decide), hnotes.f (by decide), hnotes.f (by decide), hnotes.cap, retarget_newly hselLost hnew', hcap,
        hflag, htarget, hforce, State.withCapState_time, State.withCapState_f, State.withCapState_f]
      exact ⟨rfl, rfl, rfl, rfl, rfl, rfl⟩
  · rw [if_pos hsel] at hu
    subst hu
    exact ⟨hlost, rfl, rfl, fun _ => ⟨rfl, rfl⟩, fun h => absurd h hsel⟩

theorem budgetPinLoss_eq {s : State} (hup : s.vctlUp = true) (hpin : s.cap.pinLost = false)
    (hlate : 20 ≤ s.cap.badRun ∨ s.passed s.cap.pinAt 1000000 = true) :
    s.budgetPinLoss = (s.withCapState { s.cap with pinLost := true, goodRun := 0 }).sourceLost 1 := by
  unfold State.budgetPinLoss
  rw [if_neg (by
    rw [hup, hpin]
    obtain h | h := hlate <;> simp [h])]
  rfl

theorem budgetI3cLoss_eq {s : State} (hup : s.vctlUp = true) (hi3c : s.cap.i3cLost = false)
    (hlate : s.passed s.cap.i3cAt 10000000000 = true) :
    s.budgetI3cLoss = (s.withCapState { s.cap with i3cLost := true }).sourceLost 2 := by
  unfold State.budgetI3cLoss
  rw [if_neg (by simp [hup, hi3c, hlate])]
  rfl

theorem budgetHoldExpiry_eq {s : State} (hup : s.vctlUp = true) (hlost : s.budgetLost s.budgetSrc = true)
    (hexp : s.cap.expired = false) (hlate : s.passed s.cap.lostAt (1000000 * s.f Reg.capBudgetCfg 31 16) = true) :
    s.budgetHoldExpiry = (s.withCapState { s.cap with expired := true }).retarget := by
  unfold State.budgetHoldExpiry
  rw [if_neg (by simp [hup, hlost, hexp, hlate])]
  rfl

/-- After HOLD_MS the target is FLOOR. -/
theorem budgetHoldExpiry_facts {s u : State} (hlost : s.budgetLost s.budgetSrc = true) (hheld : s.cap.lostOn = true)
    (hu : (s.withCapState { s.cap with expired := true }).retarget = u) : u.cap = { s.cap with expired := true } ∧
      u.f Reg.capBudgetStat 25 16 = s.budgetFloor ∧ u.f Reg.capBudgetStat 28 28 = s.f Reg.capBudgetStat 28 28 ∧
      u.tiles = s.tiles ∧ u.parts = s.parts := by
  obtain ⟨v, hv⟩ : ∃ v, s.withCapState { s.cap with expired := true } = v := ⟨_, rfl⟩
  have hvlost : v.budgetLost v.budgetSrc = true := by rw [← hv]; exact hlost
  have hvheld : v.cap.lostOn = true := by rw [← hv]; exact hheld
  have hvover : v.cap.expired = true := by rw [← hv]; rfl
  have hfloor : v.budgetFloor = s.budgetFloor := budgetFloor_of (by rw [← hv, State.withCapState_reg])
  obtain ⟨honly, hcap, htarget, hflag⟩ := setTarget_facts v (Nat.lt_of_le_of_lt (budgetFloor_le v) (by decide))
  rw [hv, retarget_expired hvlost hvheld hvover] at hu
  rw [hu] at honly hcap htarget hflag
  refine ⟨?_, ?_, ?_, ?_, ?_⟩
  · rw [hcap, ← hv, State.withCapState_cap]
  · rw [htarget, hfloor]
  · rw [hflag, ← hv, State.withCapState_f]
  · rw [honly.tiles, ← hv, State.withCapState_tiles]
  · rw [honly.parts, ← hv, State.withCapState_parts]

end Sys2Proof.Machine
end

section
open Sys2Proof Sys2Proof.Machine

/-- Settles O60: the slew loop's rises stay within their bound, F is the largest fraction that fits, a marker sets its
partition's phase, and the target follows the selected source. -/
theorem loopsPhasesAndBudgets : Obligations.LoopsPhasesAndBudgets := by
  refine ⟨⟨⟨fun s vin iin hon => ?_, fun s pin rp conv lim base load hon hlim hbase hload => ?_⟩,
      ⟨fun s a t n val ha hup hmay howner hphase => ?_, fun s a t val ha hphase => ?_⟩,
      fun s n c t ph l hn hmarks hlater hph => ?_, fun s n c t1 t2 p1 p2 hn hmarks hne h1 h2 => ?_⟩,
    fun s b t r hup hb ht hr => ?_, fun s p h ok valid hup hvalid => ?_, fun s hup c src hc => ?_,
    fun s hup hlost hheld hexp hlate => ?_⟩
  · exact ⟨_, congrArg Host.Outcome.next (slewLoopTick_eq hon vin iin), slewLoopTick_facts rfl⟩
  · obtain ⟨v, hv, heq⟩ := budgetLoopTick_eq hon pin rp conv
    obtain ⟨hmean, hcap, hconv, hle, hmore, hmeets, hmoved, htiles, hmem, hpower⟩ := budgetLoopTick_facts hv rfl
    have hl : ∀ x, load x = s.budgetLoad (64 * pin) (s.f Reg.capCtrl 6 0) x := fun x => by
      rw [hload, hbase, State.budgetLoad, Nat.cast_mul, Nat.cast_ofNat]
    have hlimit : lim = s.intervalLimit := hlim
    simp only [hl, hlimit]
    exact ⟨_, congrArg Host.Outcome.next heq, hmean, hcap, hconv, hle, hmore, hmeets, hmoved, htiles, hmem, hpower⟩
  · have hnot : ∀ n, a ≠ .service n := by
      obtain rfl | rfl := ha <;> exact fun _ h => nomatch h
    refine congrArg Host.Outcome.next ((tileReg_phaseMark hnot t val).trans ?_)
    rw [if_pos ⟨hup, hmay⟩, phaseMark_waits howner hphase]
  · refine congrArg Host.Outcome.next ((tileReg_phaseMark ha t val).trans ?_)
    rw [phaseMark_ignored t hphase, ite_self]
  · have heq : exec (.phaseMarkerApply n) s = .next ((s.withMarks n l).phaseEnters n ph) :=
      congrArg Host.Outcome.next ((if_pos (decide_eq_true hn)).trans (phaseMarkerApply_one hmarks hlater))
    obtain ⟨hsys, hother, hpart, htime, htiles, hmem⟩ := withMarks_facts s n l
    have hphase : (s.withMarks n l).phase n = s.phase n := by rw [State.phase, hpart, State.phase]
    have hfacts := phaseEnters_facts (s := s.withMarks n l) (n := n) hph rfl
    rw [hphase, htime, hsys, hpart, htiles, hmem] at hfacts
    obtain ⟨f1, f2, f3, f4, f5, f6, f7, f8, f9, f10⟩ := hfacts
    exact ⟨_, heq, f1, f2, f3, f4, f5, f6, f7, fun k hk => ⟨(f8 k hk).1.trans (hpart k), (f8 k hk).2.trans (hother k hk)⟩,
      f9, f10⟩
  · have heq : exec (.phaseMarkerApply n) s = _ :=
      congrArg Host.Outcome.next ((if_pos (decide_eq_true hn)).trans (phaseMarkerApply_two hmarks))
    have hfirst : ((s.withMarks n []).sys n).ph.marks = [] := by rw [(withMarks_facts s n []).1]
    refine ⟨_, heq, ?_⟩
    by_cases hlt : t2 < t1
    · obtain ⟨-, hm2, -⟩ := phaseEnters_facts (s := s.withMarks n []) (n := n) h2 rfl
      obtain ⟨hp, hm1, -⟩ := phaseEnters_facts (s := (s.withMarks n []).phaseEnters n p2) (n := n) h1 rfl
      rw [if_pos hlt, if_neg (by omega)]
      exact ⟨(hm1.trans hm2).trans hfirst, hp⟩
    · obtain ⟨-, hm1, -⟩ := phaseEnters_facts (s := s.withMarks n []) (n := n) h1 rfl
      obtain ⟨hp, hm2, -⟩ := phaseEnters_facts (s := (s.withMarks n []).phaseEnters n p1) (n := n) h2 rfl
      rw [if_neg hlt, if_pos (by omega)]
      exact ⟨(hm2.trans hm1).trans hfirst, hp⟩
  · subst hb ht hr
    exact ⟨_, congrArg Host.Outcome.next (budgetRampTick_eq hup), budgetRampTick_facts rfl⟩
  · have hv : valid = periodValid p h ok := hvalid
    cases hgood : periodValid p h ok with
    | false =>
      obtain ⟨htiles, hparts, hrest⟩ := budgetPinPeriod_invalid_facts (s := s) rfl
      exact ⟨_, congrArg Host.Outcome.next (budgetPinPeriod_invalid hup hgood), htiles, hparts, fun _ => hrest,
        fun h => absurd ((hv.trans hgood).symm.trans h) (by decide)⟩
    | true =>
      obtain ⟨htiles, hparts, hrest⟩ := budgetPinPeriod_valid_facts (s := s) (p := p) (h := h) rfl
      exact ⟨_, congrArg Host.Outcome.next (budgetPinPeriod_valid hup hgood), htiles, hparts,
        fun h => absurd ((hv.trans hgood).symm.trans h) (by decide), fun _ => hrest⟩
  · obtain ⟨rfl, rfl, hpin, hlate⟩ | ⟨rfl, rfl, hi3c, hlate⟩ := hc
    · exact ⟨_, congrArg Host.Outcome.next (budgetPinLoss_eq hup hpin hlate),
        sourceLost_facts (c := { s.cap with pinLost := true, goodRun := 0 }) rfl rfl rfl⟩
    · exact ⟨_, congrArg Host.Outcome.next (budgetI3cLoss_eq hup hi3c hlate),
        sourceLost_facts (c := { s.cap with i3cLost := true }) rfl rfl rfl⟩
  · exact ⟨_, congrArg Host.Outcome.next (budgetHoldExpiry_eq hup hlost hexp hlate), budgetHoldExpiry_facts hlost hheld rfl⟩
end

section
namespace Sys2Proof.Machine

/-! ### Reads of the management target (R421, R422) -/

/-- Does the target answer an AON code, or a VCTL code? -/
def State.answers (s : State) (aon : Bool) : Bool := bif aon then s.targetUp else s.targetUp && s.vctlUp

theorem targetUp_iff (s : State) : s.targetUp = true ↔ s.power.stage ≠ .off ∧ s.power.resetLow = false := by
  simp [State.targetUp]

theorem answers_iff (s : State) (aon : Bool) : s.answers aon = true ↔
    s.power.stage ≠ .off ∧ s.power.resetLow = false ∧ (aon = true ∨ s.power.stage = .rom) := by
  cases aon <;> simp [State.answers, targetUp_iff, State.vctlUp, and_assoc]

/-- A read is answered with its bytes and their check while its domain is up, and else with a NACK. -/
theorem codeRead_eq (s : State) {up : Bool} (code : Nat) (bytes : List Byte) :
    (up = true → s.codeRead up code bytes = { s with mgmt := { s.mgmt with reply := some bytes, pec := s.replyPec code bytes } }) ∧
    (up = false → s.codeRead up code bytes = { s with mgmt := { s.mgmt with reply := none, pec := none } }) :=
  ⟨fun h => by subst h; rfl, fun h => by subst h; rfl⟩

/-- A command that reads a code. -/
theorem read_answers {s : State} {c : Instr} {code : Nat} {aon : Bool} {bytes : List Byte}
    (h : exec c s = .next (s.codeRead (s.answers aon) code bytes)) :
    (s.power.stage ≠ .off ∧ s.power.resetLow = false ∧ (aon = true ∨ s.power.stage = .rom) →
      exec c s = .next { s with mgmt := { s.mgmt with reply := some bytes, pec := s.replyPec code bytes } }) ∧
    (¬(s.power.stage ≠ .off ∧ s.power.resetLow = false ∧ (aon = true ∨ s.power.stage = .rom)) →
      exec c s = .next { s with mgmt := { s.mgmt with reply := none, pec := none } }) := by
  obtain ⟨hacks, hnacks⟩ := codeRead_eq s (up := s.answers aon) code bytes
  rw [← answers_iff, h]
  exact ⟨fun hup => congrArg _ (hacks hup), fun hdown => congrArg _ (hnacks (by simpa using hdown))⟩

theorem aonRead_answers {s : State} {c : Instr} {code n v : Nat} (h : exec c s = .next (s.aonRead code n v)) :
    (s.power.stage ≠ .off ∧ s.power.resetLow = false ∧ (true = true ∨ s.power.stage = .rom) →
      exec c s = .next { s with mgmt := { s.mgmt with reply := some (bytesOf n v), pec := s.replyPec code (bytesOf n v) } }) ∧
    (¬(s.power.stage ≠ .off ∧ s.power.resetLow = false ∧ (true = true ∨ s.power.stage = .rom)) →
      exec c s = .next { s with mgmt := { s.mgmt with reply := none, pec := none } }) :=
  read_answers h

theorem vctlRead_answers {s : State} {c : Instr} {code n v : Nat} (h : exec c s = .next (s.vctlRead code n v)) :
    (s.power.stage ≠ .off ∧ s.power.resetLow = false ∧ (false = true ∨ s.power.stage = .rom) →
      exec c s = .next { s with mgmt := { s.mgmt with reply := some (bytesOf n v), pec := s.replyPec code (bytesOf n v) } }) ∧
    (¬(s.power.stage ≠ .off ∧ s.power.resetLow = false ∧ (false = true ∨ s.power.stage = .rom)) →
      exec c s = .next { s with mgmt := { s.mgmt with reply := none, pec := none } }) :=
  read_answers h

/-- A read of BUDGET is a read of a VCTL code. -/
theorem mgmtBudget_read (s : State) :
    s.mgmtBudget none = s.codeRead (s.answers false) 0x14 (bytesOf 2 (s.f Reg.capBudgetI3c 9 0)) := by
  unfold State.mgmtBudget State.answers
  cases s.targetUp && s.vctlUp <;> rfl

theorem mgmtCool_unlisted (s : State) {code : Nat} (h : code < 0x20 ∨ 0x24 ≤ code) : s.mgmtCool code = s.reply false [] := by
  unfold State.mgmtCool
  rw [if_neg (by omega), if_neg (by omega), if_neg (by omega), if_neg (by omega)]

/-! ### The budget's write (R380, R383) -/

theorem mgmtBudget_write {s : State} (hup : s.targetUp = true) (hv : s.vctlUp = true) (a b : Byte) (l : List Byte) :
    s.mgmtBudget (some (a :: b :: l)) = (s.i3cBudget (a.toNat + 256 * b.toNat)).reply true [] := by
  unfold State.mgmtBudget
  rw [hup, hv]
  rfl

/-- The I3C source at its new request, before the target follows it. -/
def State.i3cTaken (s : State) (w : Nat) : State :=
  (s.setF Reg.capBudgetI3c 9 0 w).withCapState { s.cap with i3cLost := false, i3cAt := s.time }

theorem i3cBudget_eq (s : State) (w : Nat) : s.i3cBudget w = (s.i3cTaken w).retarget.alertSync := by
  unfold State.i3cBudget State.i3cTaken State.withCapState
  simp only [State.setF_cap, State.time, State.setF_timeAcc]

/-- The I3C request is taken; when it is selected the target follows it. -/
theorem i3cBudget_facts {s u : State} {w : Nat} (hu : s.i3cBudget w = u) :
    u.f Reg.capBudgetI3c 9 0 = w % 2 ^ 10 ∧ u.cap.i3cLost = false ∧ u.cap.i3cAt = s.time ∧
      (s.budgetSrc = 2 → u.f Reg.capBudgetStat 25 16 = max s.budgetFloor (min 900 (w % 2 ^ 10)) ∧
        u.f Reg.capBudgetStat 28 28 = 0) ∧ u.tiles = s.tiles ∧ u.parts = s.parts ∧ u.power = s.power := by
  obtain ⟨v, hv⟩ : ∃ v, s.i3cTaken w = v := ⟨_, rfl⟩
  have hregs : ∀ o, o ≠ Reg.capBudgetI3c → v.reg o = s.reg o := fun o ho => by
    rw [← hv, State.i3cTaken, State.withCapState_reg, State.setF_reg_ne _ _ _ _ ho]
  have hreq : v.f Reg.capBudgetI3c 9 0 = w % 2 ^ 10 := by
    rw [← hv, State.i3cTaken, State.withCapState_f, State.setF_f_same _ _ _ (by decide) (by decide)]
  have hcap : v.cap = { s.cap with i3cLost := false, i3cAt := s.time } := by rw [← hv, State.i3cTaken, State.withCapState_cap]
  have htiles : v.tiles = s.tiles := by rw [← hv, State.i3cTaken, State.withCapState_tiles, State.setF_tiles]
  have hparts : v.parts = s.parts := by rw [← hv, State.i3cTaken, State.withCapState_parts, State.setF_parts]
  have hpower : v.power = s.power := by rw [← hv, State.i3cTaken, State.withCapState_power, State.setF_power]
  have heq := i3cBudget_eq s w
  rw [hu, hv] at heq
  obtain ⟨honly, e, l, o, hrcap⟩ := retarget_cap v
  have hnotes := State.NotesOnly.alertSync v.retarget
  rw [← heq] at hnotes
  have hucap : u.cap = { v.cap with expired := e, lostAt := l, lostOn := o } := by rw [hnotes.cap, hrcap]
  refine ⟨?_, ?_, ?_, fun hsel => ?_, ?_, ?_, ?_⟩
  · rw [hnotes.f (by decide), State.f, honly.regs _ (by decide) (by decide), ← State.f, hreq]
  · rw [hucap, hcap]
  · rw [hucap, hcap]
  · have hsrc : v.budgetSrc = 2 := (budgetSrc_congr (hregs _ (by decide))).trans hsel
    have hfound : v.budgetLost v.budgetSrc = false := by simp [hsrc, State.budgetLost, hcap]
    have hwant : v.budgetReq 2 = w % 2 ^ 10 := hreq
    obtain ⟨-, -, hflag, htarget⟩ := retarget_found_facts hfound
    rw [hnotes.f (by decide), hnotes.f (by decide), hflag, htarget, hsrc, hwant, budgetFloor_of (hregs _ (by decide))]
    exact ⟨rfl, rfl⟩
  · rw [hnotes.tiles, honly.tiles, htiles]
  · rw [hnotes.parts, honly.parts, hparts]
  · rw [hnotes.power, honly.power, hpower]

/-! ### ALERT_CLR (R434) -/

/-- The source flag of an alert cause of the chip: its register and its bit (Table 16.5). -/
def alertFlag : Nat → Nat × Nat
  | 0 => (Reg.capThermStat, 30)
  | 1 => (Reg.capCoolStat, 29)
  | 2 => (Reg.capCoolStat, 28)
  | 3 => (Reg.capBudgetStat, 28)
  | 4 => (Reg.capConnLast, 31)
  | 5 => (Reg.capTcycStat, 31)
  | _ => (Reg.clkStatus, 31)

theorem clearSource_flag (s : State) : ∀ b, b < 7 →
    s.clearSource b = s.setF (alertFlag b).1 (alertFlag b).2 (alertFlag b).2 0
  | 0, _ | 1, _ | 2, _ | 3, _ | 4, _ | 5, _ | 6, _ => rfl
  | _ + 7, h => absurd h (by omega)

/-- Distinct causes have distinct flags. -/
theorem alertFlag_ne : ∀ b < 7, ∀ c < 7, b ≠ c →
    (alertFlag b).1 ≠ (alertFlag c).1 ∨ (alertFlag b).2 < (alertFlag c).2 ∨ (alertFlag c).2 < (alertFlag b).2 := by decide

theorem alertFlag_lt : ∀ b < 7, (alertFlag b).2 < 32 ∧ (alertFlag b).1 ≠ Reg.mbAlert := by decide

/-- The pairs with the overrun flag of each clear. -/
theorem clearSource_pairs (s : State) : ∃ prs, s.clearSource 7 = { s with pairs := prs } ∧
    ∀ p, tabGet pairD prs p = if p ∈ List.range 17 then (s.pair p).setF Reg.mbStatus 2 2 0 else s.pair p :=
  foldl_modPair (fun x => x.setF Reg.mbStatus 2 2 0) (List.range 17) s List.nodup_range

theorem clearSource_link (s : State) : s.clearSource 8 = s.modPower (fun w => { w with linkDown := false }) := rfl

/-- The chip's registers under a cause other than a flag's own. -/
theorem clearSource_f_ne (s : State) {b c : Nat} (hb : b < 7) (hc : c < 9) (hne : c ≠ b) :
    (s.clearSource c).f (alertFlag b).1 (alertFlag b).2 (alertFlag b).2 = s.f (alertFlag b).1 (alertFlag b).2 (alertFlag b).2 := by
  obtain h7 | rfl | rfl : c < 7 ∨ c = 7 ∨ c = 8 := by omega
  · rw [clearSource_flag s c h7]
    obtain hreg | hlt | hgt := alertFlag_ne b hb c h7 (Ne.symm hne)
    · rw [State.f, State.setF_reg_ne _ _ _ _ hreg, State.f]
    · by_cases hreg : (alertFlag b).1 = (alertFlag c).1
      · rw [hreg, State.setF_f_below _ _ _ le_rfl (alertFlag_lt c h7).1 hlt]
      · rw [State.f, State.setF_reg_ne _ _ _ _ hreg, State.f]
    · by_cases hreg : (alertFlag b).1 = (alertFlag c).1
      · rw [hreg, State.setF_f_above _ _ _ le_rfl (alertFlag_lt c h7).1 hgt]
      · rw [State.f, State.setF_reg_ne _ _ _ _ hreg, State.f]
  · obtain ⟨prs, heq, -⟩ := clearSource_pairs s
    rw [heq]
    rfl
  · rw [clearSource_link, State.modPower_f]

theorem clearSource_f_same (s : State) {b : Nat} (hb : b < 7) :
    (s.clearSource b).f (alertFlag b).1 (alertFlag b).2 (alertFlag b).2 = 0 := by
  rw [clearSource_flag s b hb, State.setF_f_same _ _ _ le_rfl (alertFlag_lt b hb).1, Nat.zero_mod]

/-- The causes touch neither the tiles nor the partitions. -/
theorem clearSource_tiles (s : State) {c : Nat} (hc : c < 9) :
    (s.clearSource c).tiles = s.tiles ∧ (s.clearSource c).parts = s.parts := by
  obtain h7 | rfl | rfl : c < 7 ∨ c = 7 ∨ c = 8 := by omega
  · rw [clearSource_flag s c h7, State.setF_tiles, State.setF_parts]
    exact ⟨rfl, rfl⟩
  · obtain ⟨prs, heq, -⟩ := clearSource_pairs s
    rw [heq]
    exact ⟨rfl, rfl⟩
  · rw [clearSource_link, State.modPower_tiles, State.modPower_parts]
    exact ⟨rfl, rfl⟩

theorem clearSource_pair (s : State) {c : Nat} (hc : c < 9) (p : Nat) :
    (s.clearSource c).pair p = if c = 7 ∧ p < 17 then (s.pair p).setF Reg.mbStatus 2 2 0 else s.pair p := by
  obtain h7 | rfl | rfl : c < 7 ∨ c = 7 ∨ c = 8 := by omega
  · rw [clearSource_flag s c h7, if_neg (by omega), State.pair, State.setF_pairs, State.pair]
  · obtain ⟨prs, heq, hpairs⟩ := clearSource_pairs s
    have hp := hpairs p
    simp only [List.mem_range] at hp
    simp only [heq, true_and]
    exact hp
  · rw [clearSource_link, if_neg (by omega), State.pair, State.modPower_pairs, State.pair]

theorem clearSource_power (s : State) {c : Nat} (hc : c < 9) :
    (s.clearSource c).power = if c = 8 then { s.power with linkDown := false } else s.power := by
  obtain h7 | rfl | rfl : c < 7 ∨ c = 7 ∨ c = 8 := by omega
  · rw [clearSource_flag s c h7, if_neg (by omega), State.setF_power]
  · obtain ⟨prs, heq, -⟩ := clearSource_pairs s
    rw [heq]
    rfl
  · rfl

/-- What one cause of a list changes, and in the same way however often, the list changes when the cause is in it. -/
theorem foldl_clearSource {α : Type} {read : State → α} {g : α → α} {b : Nat} (hidem : ∀ x, g (g x) = g x)
    (hsame : ∀ s, read (s.clearSource b) = g (read s))
    (hne : ∀ s c, c < 9 → c ≠ b → read (s.clearSource c) = read s) : ∀ (l : List Nat) (s : State), (∀ c ∈ l, c < 9) →
      read (l.foldl State.clearSource s) = if b ∈ l then g (read s) else read s
  | [], s, _ => by simp
  | c :: l, s, hl => by
    have hlt := hl c (by simp)
    rw [List.foldl_cons, foldl_clearSource hidem hsame hne l _ fun c hc => hl c (by simp [hc])]
    by_cases hcb : c = b
    · subst hcb
      rw [hsame]
      simp [hidem]
    · rw [hne s c hlt hcb]
      simp [Ne.symm hcb]

/-- The causes a write of ALERT_CLR names. -/
def namedCauses (m : Nat) : List Nat := (List.range 9).filter (fun b => m.testBit b)

theorem mem_namedCauses {m b : Nat} (hb : b < 9) : b ∈ namedCauses m ↔ m.testBit b = true := by simp [namedCauses, hb]

theorem namedCauses_lt {m : Nat} : ∀ c ∈ namedCauses m, c < 9 := by simp [namedCauses]; omega

/-- ALERT_CLR with its four bytes. -/
theorem mgmtAlertClr_full {s : State} (hup : s.targetUp = true) {data : List Byte} (hlen : 4 ≤ data.length) :
    ∃ v, (namedCauses (natOfBytes (data.take 4))).foldl State.clearSource s = v ∧
      ∃ w, s.mgmtAlertClr data = ((v.setF Reg.mbAlert 8 0 w).alertSync).reply true [] := by
  unfold State.mgmtAlertClr
  rw [hup, if_neg (by decide), if_neg (by omega)]
  exact ⟨_, rfl, _, rfl⟩

theorem mgmtAlertClr_short {s : State} (hup : s.targetUp = true) {data : List Byte} (hlen : data.length < 4) :
    s.mgmtAlertClr data = s.reply true [] := by
  unfold State.mgmtAlertClr
  rw [hup, if_neg (by decide), if_pos hlen]

/-- The alert's own write and output leave the tiles, the partitions, the pairs, the power records, and every other register. -/
theorem alertWritten_facts (v : State) (w : Nat) {u : State} (hu : ((v.setF Reg.mbAlert 8 0 w).alertSync).reply true [] = u) :
    u.mgmt.reply = some [] ∧ (∀ o, o ≠ Reg.mbAlert → ∀ hi lo, u.f o hi lo = v.f o hi lo) ∧ (∀ p, u.pair p = v.pair p) ∧
      u.power = v.power ∧ u.tiles = v.tiles ∧ u.parts = v.parts := by
  obtain ⟨hregs, hform⟩ := alertSync_facts (v.setF Reg.mbAlert 8 0 w)
  subst hu
  generalize (v.setF Reg.mbAlert 8 0 w).alertSync = a at *
  have hpair : ∀ p, a.pair p = v.pair p := fun p => by rw [hform]; exact congrArg (tabGet pairD · p) (State.setF_pairs v Reg.mbAlert 8 0 w)
  have hpower : a.power = v.power := by rw [hform]; exact State.setF_power v Reg.mbAlert 8 0 w
  have htiles : a.tiles = v.tiles := by rw [hform]; exact State.setF_tiles v Reg.mbAlert 8 0 w
  have hparts : a.parts = v.parts := by rw [hform]; exact State.setF_parts v Reg.mbAlert 8 0 w
  refine ⟨rfl, fun o ho hi lo => ?_, hpair, hpower, htiles, hparts⟩
  have hreg : a.reg o = v.reg o := (hregs o ho).trans (State.setF_reg_ne _ _ _ _ ho)
  rw [show (a.reply true []).f o hi lo = fld (a.reg o) hi lo from rfl, hreg, State.f]

theorem mgmtAlertClr_facts {s : State} (hup : s.targetUp = true) {data : List Byte} (hlen : 4 ≤ data.length) {m : Nat}
    (hm : natOfBytes (data.take 4) = m) : (s.mgmtAlertClr data).mgmt.reply = some [] ∧
      (∀ b, b < 7 → (s.mgmtAlertClr data).f (alertFlag b).1 (alertFlag b).2 (alertFlag b).2 =
        if m.testBit b then 0 else s.f (alertFlag b).1 (alertFlag b).2 (alertFlag b).2) ∧
      (∀ p, p < 17 → ((s.mgmtAlertClr data).pair p).f Reg.mbStatus 2 2 =
        if m.testBit 7 then 0 else (s.pair p).f Reg.mbStatus 2 2) ∧
      (s.mgmtAlertClr data).power = (if m.testBit 8 then { s.power with linkDown := false } else s.power) ∧
      (s.mgmtAlertClr data).tiles = s.tiles ∧ (s.mgmtAlertClr data).parts = s.parts := by
  obtain ⟨v, hv, w, heq⟩ := mgmtAlertClr_full hup hlen
  obtain ⟨hreply, hf, hpair, hpower, htiles, hparts⟩ := alertWritten_facts v w rfl
  rw [heq]
  rw [hm] at hv
  have hlt := namedCauses_lt (m := m)
  refine ⟨hreply, fun b hb => ?_, fun p hp => ?_, ?_, ?_, ?_⟩
  · have hread := foldl_clearSource (read := fun s => s.f (alertFlag b).1 (alertFlag b).2 (alertFlag b).2) (g := fun _ => 0)
      (b := b) (fun _ => rfl) (fun s => clearSource_f_same s hb) (fun s c hc hne => clearSource_f_ne s hb hc hne) _ s hlt
    rw [hf _ (alertFlag_lt b hb).2, ← hv, hread]
    simp only [mem_namedCauses (show b < 9 by omega)]
  · have hread := foldl_clearSource (read := fun s => (s.pair p).f Reg.mbStatus 2 2) (g := fun _ => 0) (b := 7) (fun _ => rfl)
      (fun s => by
        rw [clearSource_pair s (by decide), if_pos ⟨rfl, hp⟩, Pair.setF_f_same _ _ _ (by decide) (by decide), Nat.zero_mod])
      (fun s c hc hne => by rw [clearSource_pair s hc, if_neg (fun h => hne h.1)]) _ s hlt
    rw [hpair, ← hv, hread]
    simp only [mem_namedCauses (show 7 < 9 by decide)]
  · have hread := foldl_clearSource (read := State.power) (g := fun w => { w with linkDown := false }) (b := 8) (fun _ => rfl)
      (fun s => by rw [clearSource_power s (by decide), if_pos rfl])
      (fun s c hc hne => by rw [clearSource_power s hc, if_neg hne]) _ s hlt
    rw [hpower, ← hv, hread]
    simp only [mem_namedCauses (show 8 < 9 by decide)]
  · have hread := foldl_clearSource (read := State.tiles) (g := id) (b := 8) (fun _ => rfl)
      (fun s => (clearSource_tiles s (by decide)).1) (fun s c hc _ => (clearSource_tiles s hc).1) _ s hlt
    rw [htiles, ← hv, hread, id, ite_self]
  · have hread := foldl_clearSource (read := State.parts) (g := id) (b := 8) (fun _ => rfl)
      (fun s => (clearSource_tiles s (by decide)).2) (fun s c hc _ => (clearSource_tiles s hc).2) _ s hlt
    rw [hparts, ← hv, hread, id, ite_self]

/-! ### The address of the target (R421) -/

theorem dynamicAddress_facts {s : State} (hup : s.targetUp = true) {addr : Nat} (h1 : 1 ≤ addr) (h2 : addr < 128) {u : State}
    (hu : s.dynamicAddress addr = u) : u.f Reg.mbI3cTgt 14 8 = addr ∧ u.f Reg.mbI3cTgt 16 16 = 1 ∧
      u.f Reg.mbI3cTgt 6 0 = s.f Reg.mbI3cTgt 6 0 ∧ (∀ o, o ≠ Reg.mbI3cTgt → u.reg o = s.reg o) ∧ u.power = s.power := by
  have heq : s.dynamicAddress addr = (s.setF Reg.mbI3cTgt 14 8 addr).setF Reg.mbI3cTgt 16 16 1 := by
    unfold State.dynamicAddress
    rw [if_neg (by simp [hup]; omega)]
  subst hu
  rw [heq]
  refine ⟨?_, ?_, ?_, fun o ho => ?_, ?_⟩
  · rw [State.setF_f_below _ _ _ (by decide) (by decide) (by decide), State.setF_f_same _ _ _ (by decide) (by decide)]
    exact Nat.mod_eq_of_lt h2
  · rw [State.setF_f_same _ _ _ (by decide) (by decide)]
    rfl
  · rw [State.setF_f_below _ _ _ (by decide) (by decide) (by decide),
      State.setF_f_below _ _ _ (by decide) (by decide) (by decide)]
  · rw [State.setF_reg_ne _ _ _ _ ho, State.setF_reg_ne _ _ _ _ ho]
  · rw [State.setF_power, State.setF_power]

/-! ### The console (R430, R431) -/

theorem uartFrame_good {s : State} (hup : s.vctlUp = true) {bits : List (Bool × Bool × Bool)}
    (hstop : majority (bits.getD 8 (false, false, false)) = true) : s.uartFrame bits false = s.consoleByte (frameByte bits) := by
  unfold State.uartFrame
  rw [hup, if_neg (by decide), if_pos hstop]
  rfl

theorem uartFrame_bad {s : State} (hup : s.vctlUp = true) {bits : List (Bool × Bool × Bool)} (low : Bool)
    (hstop : majority (bits.getD 8 (false, false, false)) = false) :
    s.uartFrame bits low = (s.count Reg.mbUartStat 15 0 1).logOpen 0x0A02 Src.hostIf chipPart := by
  unfold State.uartFrame
  rw [hup, if_neg (by decide), hstop, if_neg (by decide)]

theorem consoleByte_char {s : State} (hup : s.rootUp = true) {b : Byte} (hb : b ≠ 0x0D) :
    s.consoleByte b = { s with mgmt := { s.mgmt with line := (s.mgmt.line ++ [b]).take 81 } } := by
  unfold State.consoleByte
  rw [hup, if_neg (by decide), if_neg hb]

theorem consoleByte_return {s : State} (hup : s.rootUp = true) : s.consoleByte 0x0D = { s with mgmt := { s.mgmt with
    line := []
    answers := s.mgmt.answers ++ (if s.mgmt.line.length ≤ 80 then (s.consoleAnswer s.mgmt.line).toList else []) } } := by
  unfold State.consoleByte
  rw [hup, if_neg (by decide), if_pos rfl]

/-- A frame without its stop bit is counted. -/
theorem frameCounted_facts {s u : State} (hu : (s.count Reg.mbUartStat 15 0 1).logOpen 0x0A02 Src.hostIf chipPart = u) :
    u.f Reg.mbUartStat 15 0 = min 0xFFFF (s.f Reg.mbUartStat 15 0 + 1) ∧ u.mgmt = s.mgmt ∧ u.tiles = s.tiles := by
  have hrec := State.RecordsOnly.logOpen (s.count Reg.mbUartStat 15 0 1) 0x0A02 Src.hostIf chipPart
  rw [hu] at hrec
  have hnotes := State.NotesOnly.ofRecords hrec
  have hmgmt : u.mgmt = (s.count Reg.mbUartStat 15 0 1).mgmt := by obtain ⟨_, _, _, _, _, rfl, -⟩ := hrec; rfl
  refine ⟨?_, ?_, ?_⟩
  · rw [hnotes.f (by decide), State.count_f_same _ _ _ (by decide) (by decide)]
    norm_num
  · rw [hmgmt, State.count, State.setF_mgmt]
  · rw [hnotes.tiles, State.count, State.setF_tiles]

/-! ### JTAG (R432) -/

theorem scanRails_facts (s : State) (up : Bool) : (s.scanRails up).tiles = s.tiles ∧ (s.scanRails up).parts = s.parts := by
  cases up with
  | false =>
    unfold State.scanRails
    simp [State.railSet, tileCount]
  | true =>
    have hrail : ∀ (v : State) i, tileCount ≤ i → i < 1168 → (v.railUp i).tiles = v.tiles ∧ (v.railUp i).parts = v.parts :=
      fun v i hi hlt => by
        refine ⟨railUp_tiles v hi, ?_⟩
        obtain ⟨_, _, _, hform⟩ := (railUp_facts v i hlt).1.form
        rw [hform]
    obtain ⟨htiles, hparts⟩ := hrail s 1164 (by decide) (by decide)
    obtain ⟨htiles', hparts'⟩ := hrail (s.railUp 1164) 1165 (by decide) (by decide)
    exact ⟨htiles'.trans htiles, hparts'.trans hparts⟩

theorem setScan_facts (s : State) (on : Bool) :
    (s.setScan on).mgmt.scan = on ∧ (s.setScan on).tiles = s.tiles ∧ (s.setScan on).parts = s.parts := by
  unfold State.setScan
  split
  next h => exact ⟨h, rfl, rfl⟩
  next h => exact ⟨rfl, scanRails_facts s on⟩

/-- The instruction in force, and whether the boundary scan acts. -/
def State.irInForce (s : State) (ir : JtagIr) : JtagIr :=
  if scanIr ir && !(scanIr ir && s.vctlUp && s.bootStage == 0) then .bypass else if ir = .unpublished then .bypass else ir

theorem jtagInstruction_facts {s : State} (hon : s.power.stage ≠ .off) {ir : JtagIr} {u : State}
    (hu : s.jtagInstruction ir = u) : u.mgmt.jtag = s.irInForce ir ∧
      u.mgmt.scan = (scanIr ir && s.vctlUp && s.bootStage == 0) ∧ u.tiles = s.tiles ∧ u.parts = s.parts := by
  have heq : s.jtagInstruction ir = { s.setScan (scanIr ir && s.vctlUp && s.bootStage == 0) with mgmt := {
      (s.setScan (scanIr ir && s.vctlUp && s.bootStage == 0)).mgmt with jtag := s.irInForce ir } } := if_neg hon
  rw [hu] at heq
  obtain ⟨hscan, htiles, hparts⟩ := setScan_facts s (scanIr ir && s.vctlUp && s.bootStage == 0)
  generalize s.setScan (scanIr ir && s.vctlUp && s.bootStage == 0) = v at *
  subst heq
  exact ⟨rfl, hscan, htiles, hparts⟩

end Sys2Proof.Machine
end

section
open Sys2Proof Sys2Proof.Machine

/-- Settles O58: each code is answered while its domain is up, a write of ALERT_CLR clears what it names, a frame gives Root
its character, and a boundary scan acts only at STAGE 0. -/
theorem managementInterfacesAnswer : Obligations.ManagementInterfacesAnswer := by
  refine ⟨⟨fun s c code aon bytes hmem => ?_, fun s code hcode => congrArg _ (mgmtCool_unlisted s hcode),
      fun s a b l hup hv => ⟨_, congrArg Host.Outcome.next (mgmtBudget_write hup hv a b l), rfl, ?_⟩⟩,
    ⟨fun s data hup => ⟨fun hlen => congrArg Host.Outcome.next (mgmtAlertClr_short hup hlen), fun hlen => ?_⟩,
      fun s addr hup h1 h2 => ⟨_, rfl, dynamicAddress_facts hup h1 h2 rfl⟩, fun s => rfl, fun s => rfl⟩,
    fun s bits hup => ⟨fun hstop hroot => ⟨fun hb => ?_, fun hb => ?_⟩, fun hstop low => ?_⟩,
    fun s ir hon => ?_, fun s => ?_, fun s hon => congrArg Host.Outcome.next (if_neg (by simp [hon]))⟩
  · simp only [List.mem_cons, List.not_mem_nil, or_false, Prod.mk.injEq] at hmem
    rcases hmem with ⟨rfl, rfl, rfl, rfl⟩ | ⟨rfl, rfl, rfl, rfl⟩ | ⟨rfl, rfl, rfl, rfl⟩ | ⟨rfl, rfl, rfl, rfl⟩ | ⟨rfl, rfl, rfl, rfl⟩ |
      ⟨rfl, rfl, rfl, rfl⟩ | ⟨rfl, rfl, rfl, rfl⟩ | ⟨rfl, rfl, rfl, rfl⟩ | ⟨rfl, rfl, rfl, rfl⟩ | ⟨rfl, rfl, rfl, rfl⟩ |
      ⟨rfl, rfl, rfl, rfl⟩ | ⟨rfl, rfl, rfl, rfl⟩ | ⟨rfl, rfl, rfl, rfl⟩ | ⟨rfl, rfl, rfl, rfl⟩ | ⟨rfl, rfl, rfl, rfl⟩
    exacts [aonRead_answers rfl, aonRead_answers rfl, aonRead_answers rfl, aonRead_answers rfl,
      read_answers rfl, aonRead_answers rfl, vctlRead_answers rfl,
      vctlRead_answers rfl, vctlRead_answers rfl, vctlRead_answers rfl,
      read_answers (congrArg Host.Outcome.next (mgmtBudget_read s)),
      vctlRead_answers rfl, vctlRead_answers rfl, vctlRead_answers rfl, vctlRead_answers rfl]
  · obtain ⟨hreq, hfound, hat, hsel, htiles, hparts, hpower⟩ := i3cBudget_facts (s := s) (w := a.toNat + 256 * b.toNat) rfl
    generalize s.i3cBudget (a.toNat + 256 * b.toNat) = v at *
    exact ⟨hreq, hfound, hat, hsel, htiles, hparts, hpower⟩
  · obtain ⟨hreply, hflags, hpairs, hpower, htiles, hparts⟩ := mgmtAlertClr_facts hup hlen rfl
    refine ⟨_, rfl, hreply, fun b o k hmem => ?_, hpairs, hpower, htiles, hparts⟩
    simp only [List.mem_cons, List.not_mem_nil, or_false, Prod.mk.injEq] at hmem
    generalize s.mgmtAlertClr data = v at *
    rcases hmem with ⟨rfl, rfl, rfl⟩ | ⟨rfl, rfl, rfl⟩ | ⟨rfl, rfl, rfl⟩ | ⟨rfl, rfl, rfl⟩ | ⟨rfl, rfl, rfl⟩ | ⟨rfl, rfl, rfl⟩ |
      ⟨rfl, rfl, rfl⟩
    exacts [hflags 0 (by decide), hflags 1 (by decide), hflags 2 (by decide), hflags 3 (by decide), hflags 4 (by decide),
      hflags 5 (by decide), hflags 6 (by decide)]
  · exact congrArg Host.Outcome.next ((uartFrame_good hup hstop).trans (consoleByte_char hroot hb))
  · exact congrArg Host.Outcome.next ((uartFrame_good hup hstop).trans (by rw [hb, consoleByte_return hroot]))
  · exact ⟨_, congrArg Host.Outcome.next (uartFrame_bad hup low hstop), frameCounted_facts rfl⟩
  · obtain ⟨hjtag, hscan, htiles, hparts⟩ := jtagInstruction_facts hon (ir := ir) rfl
    refine ⟨_, rfl, fun hs hv h0 => ?_, fun hs hno => ?_, fun hun => ?_, fun hs hun => ?_, htiles, hparts⟩
    all_goals rw [hjtag, hscan, State.irInForce]
    · have hne : ir ≠ .unpublished := by rintro rfl; cases hs
      simp [hs, hv, h0, hne]
    · obtain hv | h0 := hno
      · simp [hs, hv]
      · simp [hs, h0]
    · subst hun
      exact ⟨rfl, rfl⟩
    · simp [hs, hun]
  · obtain ⟨hscan, htiles, hparts⟩ := setScan_facts s false
    exact ⟨_, rfl, rfl, hscan, htiles, hparts⟩
end

section
namespace Sys2Proof.Machine

/-! ### Service and Root fail (R300, R301) -/

theorem serviceFails_eq {s : State} (hroot : s.rootUp = true) (hrun : s.fw.down = false) {core : Nat} (hcore : core < 4)
    (code : Nat) : s.serviceFails code core = (s.logOpen code (1 + core) chipPart).serviceStops := by
  unfold State.serviceFails
  rw [if_neg (by simp [hroot, hrun, hcore])]

/-- Service stops behind a record of why. -/
theorem loggedStop_facts {s v u : State} (hrec : s.RecordsOnly v) (hu : v.serviceStops = u) :
    u.fw = { s.fw with down := true, sets := List.replicate 4 none } ∧ (∀ p, p < 17 → (u.pair p).f Reg.mbStatus 1 1 = 0) ∧
      (∀ n, n < 16 → (u.pair (n + 1)).taken = (s.pair (n + 1)).taken.filter (fun t => rqOp t.words == 0x204)) ∧
      u.parts = s.parts ∧ u.mem = s.mem ∧ u.chip = s.chip := by
  obtain ⟨hfw, hstat, htaken, hparts, hmem, hchip⟩ := serviceStops_facts v
  have hkeep := AbKeep.ofRec hrec
  subst hu
  refine ⟨?_, hstat, fun n hn => ?_, hparts.trans hkeep.parts, hmem.trans hkeep.mem, hchip.trans hkeep.chip⟩
  · rw [hfw, hkeep.fw]
  · rw [htaken n hn, RecordsOnly.taken hrec]

/-- Service runs again, before the records of it. -/
def State.serviceBack (s : State) : State :=
  { s.eachPair (fun p => p.setF Reg.mbStatus 1 1 1) with
    fw := { s.fw with down := false, svcRun := imgPart (svcImage s.fw.kept) } }

/-- What a restart of Service writes down. -/
def State.restartNoted (s : State) : State :=
  ((List.range 16).foldl (fun s n => s.logSev 0x0112 Src.root sevError n) s).trace 0x08 Src.root [0x0112]

theorem restartNoted_records (s : State) : s.RecordsOnly s.restartNoted :=
  (State.RecordsOnly.foldl _ (fun v n => .logSev v 0x0112 Src.root sevError n) _ s).trans (.trace _ _ _ _)

/-- A restart with no FW_ACTIVATE that waits for it. -/
theorem svcRestart_eq {s : State} (hroot : s.rootUp = true) (hdown : s.fw.down = true) (hact : s.fw.activate = none) :
    s.svcRestart = s.serviceBack.restartNoted := by
  obtain ⟨prs, heach, -⟩ := eachPair_facts s (fun p => p.setF Reg.mbStatus 1 1 1)
  have hnone : s.serviceBack.restartNoted.fw.activate = none :=
    (congrArg Fw.activate (AbKeep.ofRec (restartNoted_records s.serviceBack)).fw).trans hact
  unfold State.restartNoted State.serviceBack at *
  unfold State.svcRestart
  rw [heach] at *
  rw [if_neg (by simp [hroot, hdown])]
  simp only [hnone]

/-- STOP bits are a field of LADLE_QCTL. -/
theorem setStops_reg_ne (x : Tile) (v : Nat) {o : Nat} (ho : o ≠ Reg.ladleQctl) : (x.setStops v).reg o = x.reg o := by
  have hset : (x.setF Reg.ladleQctl 3 0 v).reg o = x.reg o := Tile.setF_reg_ne _ _ _ _ ho
  unfold Tile.setStops
  extract_lets y
  split
  exacts [hset, hset]

/-- Every tile's queues stop, and the other registers of the tiles stay. -/
theorem stopAll_facts (s : State) : (∃ tl, (s.stopTiles (List.range tileCount) 15).1 = { s with tiles := tl }) ∧
    (∀ t, t < 1152 → ((s.stopTiles (List.range tileCount) 15).1.tile t).f Reg.ladleQctl 3 0 = 15) ∧
    ∀ t o, o ≠ Reg.ladleQctl → ((s.stopTiles (List.range tileCount) 15).1.tile t).reg o = (s.tile t).reg o := by
  obtain ⟨tiles, hform, htiles⟩ := stopTiles_facts s (List.range tileCount) List.nodup_range 15
  refine ⟨⟨tiles, hform⟩, fun t ht => stopAll_stops s ht, fun t o ho => ?_⟩
  rw [hform, State.tile, htiles]
  split
  exacts [setStops_reg_ne _ _ ho, rfl]

/-- Root's failure, before the alert output follows it. -/
def State.rootStopped (s : State) : State :=
  (((s.aonCause 0x0114 noRail).eachPair (fun p => p.setF Reg.mbStatus 2 2 1)).modPower (fun w => { w with faultN := true }))

theorem rootLockstep_eq {s : State} (hroot : s.rootUp = true) :
    s.rootLockstep = (s.rootStopped.stopTiles (List.range tileCount) 15).1.alertSync := by
  unfold State.rootLockstep
  rw [hroot, if_neg (by decide)]
  simp only [State.rootStopped, State.modPower]

theorem rootStopped_facts {s : State} (hfirst : s.f Reg.capAonCause 31 31 = 0) : s.rootStopped.power.faultN = true ∧
    s.rootStopped.reg Reg.capAonCause = BitVec.ofNat 32 (0x0114 + 2 ^ 16 * 0x7FF + 2 ^ 31) ∧
    (∀ p, p < 17 → (s.rootStopped.pair p).f Reg.mbStatus 2 2 = 1) ∧ (∀ t, s.rootStopped.tile t = s.tile t) ∧
    s.rootStopped.mem = s.mem := by
  obtain ⟨⟨ch, hform⟩, hcause, -⟩ := aonCause_facts s 0x0114 noRail
  rw [if_neg (by omega)] at hcause
  obtain ⟨prs, heach, hpairs⟩ := eachPair_facts (s.aonCause 0x0114 noRail) (fun p => p.setF Reg.mbStatus 2 2 1)
  unfold State.rootStopped
  rw [heach]
  generalize s.aonCause 0x0114 noRail = v at *
  refine ⟨rfl, hcause, fun p hp => ?_, fun t => ?_, ?_⟩
  · have hp' := hpairs p
    rw [if_pos hp] at hp'
    rw [State.pair, State.modPower_pairs, hp', Pair.setF_f_same _ _ _ (by decide) (by decide)]
    rfl
  · rw [hform]
    rfl
  · rw [hform]
    rfl

/-- The alert output follows a change of the tiles. -/
theorem tilesThenAlert_facts {v w u : State} (hw : ∃ tl, w = { v with tiles := tl }) (hu : w.alertSync = u) :
    u.power = v.power ∧ (∀ o, o ≠ Reg.mbAlert → u.reg o = v.reg o) ∧ (∀ p, u.pair p = v.pair p) ∧
      (∀ t, u.tile t = w.tile t) ∧ u.mem = v.mem := by
  obtain ⟨tl, rfl⟩ := hw
  obtain ⟨hregs, hform⟩ := alertSync_facts { v with tiles := tl }
  rw [hu] at hregs hform
  rw [hform] at hregs ⊢
  exact ⟨rfl, hregs, fun _ => rfl, fun _ => rfl, rfl⟩

theorem rootLockstep_facts {s : State} (hfirst : s.f Reg.capAonCause 31 31 = 0) {u : State}
    (hu : (s.rootStopped.stopTiles (List.range tileCount) 15).1.alertSync = u) : u.power.faultN = true ∧
      u.reg Reg.capAonCause = BitVec.ofNat 32 (0x0114 + 2 ^ 16 * 0x7FF + 2 ^ 31) ∧
      (∀ p, p < 17 → (u.pair p).f Reg.mbStatus 2 2 = 1) ∧ (∀ t, t < 1152 → (u.tile t).f Reg.ladleQctl 3 0 = 15) ∧
      (∀ t o, o ≠ Reg.ladleQctl → (u.tile t).reg o = (s.tile t).reg o) ∧ u.mem = s.mem := by
  obtain ⟨hfault, hcause, hpairs, htiles, hmem⟩ := rootStopped_facts hfirst
  obtain ⟨hform, hstopped, hregs⟩ := stopAll_facts s.rootStopped
  obtain ⟨hpower, hreg, hpair, htile, hsame⟩ := tilesThenAlert_facts hform hu
  refine ⟨?_, ?_, fun p hp => ?_, fun t ht => ?_, fun t o ho => ?_, ?_⟩
  · rw [hpower, hfault]
  · rw [hreg _ (by decide), hcause]
  · rw [hpair, hpairs p hp]
  · rw [htile, hstopped t ht]
  · rw [htile, hregs t o ho, htiles]
  · rw [hsame, hmem]

end Sys2Proof.Machine
end

section
open Sys2Proof Sys2Proof.Machine

/-- Settles O41: a Service core that fails stops Service, a restart brings it back, and Root's failure stops every queue. -/
theorem serviceAndRootFail : Obligations.ServiceAndRootFail := by
  refine ⟨fun s c core hroot hrun hcore hc => ?_, fun s hroot hdown hact => ⟨_, congrArg Host.Outcome.next (svcRestart_eq hroot hdown hact),
      restartNoted_records s.serviceBack⟩,
    fun s hroot hfirst => ⟨_, congrArg Host.Outcome.next (rootLockstep_eq hroot), rootLockstep_facts hfirst rfl⟩⟩
  obtain rfl | rfl | rfl := hc
  · exact ⟨_, congrArg Host.Outcome.next (serviceFails_eq hroot hrun hcore 0x110), loggedStop_facts (.logOpen _ _ _ _) rfl⟩
  · exact ⟨_, congrArg Host.Outcome.next (serviceFails_eq hroot hrun hcore 0x111), loggedStop_facts (.logOpen _ _ _ _) rfl⟩
  · exact ⟨_, congrArg Host.Outcome.next (serviceFails_eq hroot hrun hcore 0x113), loggedStop_facts (.logOpen _ _ _ _) rfl⟩
end

section
namespace Sys2Proof.Machine

/-! ### Mailbox registers (R308, R310, R312, R313) -/

/-- A write of a pair's register by an agent that reaches it and, for Service, holds its window set. -/
theorem pairReg_reaches {s : State} {a : Agent} {p : Nat} (hup : s.agentUp a = true) (hmay : mayPair a p = true)
    (hheld : ∀ n, a = .service n → (s.svcCore n).isSome = true) (o : Nat) (val : Word) : s.pairReg a p o val = s.mbWrite p o val := by
  have hagent : s.asAgent a = s := by
    cases a with
    | service n => exact asService_held (hheld n rfl)
    | _ => rfl
  unfold State.pairReg State.reach
  rw [hup, if_neg (by decide), if_pos hmay, hagent]

/-- Outside the boot registers every window answers once Root runs. -/
theorem mbAnswers_open {s : State} (hopen : s.mbOpen = true) (p : Nat) {o : Nat} (ho : Reg.mbBootGo < o ∨ o < 0x40) :
    s.mbAnswers p o = true := by
  have hboot : (decide (0x40 ≤ o) && decide (o ≤ Reg.mbBootGo)) = false := by
    simp only [Bool.and_eq_false_iff, decide_eq_false_iff_not]
    omega
  simp [State.mbAnswers, hopen, hboot]

/-- A write of a register that answers. -/
theorem mbWrite_open {s : State} (hopen : s.mbOpen = true) (p : Nat) {o : Nat} (ho : Reg.mbBootGo < o ∨ o < 0x40)
    (hrow : (regFind mbRegs o).isSome = true) (val : Word) : ∃ w : Word → Word, s.mbWrite p o val =
      if o = Reg.mbReqTail then s.doorbell p val
      else if o = Reg.mbRspHead then s.rspHeadWrite p val
      else if o = Reg.mbEvtHead then s.evtHeadWrite p val
      else if o = Reg.mbHostVer then s.hostVerWrite p val
      else s.modPair p (fun x => x.setReg o (w (x.reg o))) := by
  obtain ⟨r, hr⟩ := Option.isSome_iff_exists.1 hrow
  have hboot : o ≠ Reg.mbBootGo := by rintro rfl; exact absurd ho (by decide)
  unfold State.mbWrite
  rw [hr]
  simp only []
  rw [mbAnswers_open hopen p ho, if_neg (by decide), if_neg hboot]
  exact ⟨fun v => r.write v val, rfl⟩

theorem mbWrite_reqTail {s : State} (hopen : s.mbOpen = true) (p : Nat) (val : Word) :
    s.mbWrite p Reg.mbReqTail val = s.doorbell p val := by
  obtain ⟨w, h⟩ := mbWrite_open hopen p (o := Reg.mbReqTail) (by decide) rfl val
  rw [h, if_pos rfl]

theorem mbWrite_rspHead {s : State} (hopen : s.mbOpen = true) (p : Nat) (val : Word) :
    s.mbWrite p Reg.mbRspHead val = s.rspHeadWrite p val := by
  obtain ⟨w, h⟩ := mbWrite_open hopen p (o := Reg.mbRspHead) (by decide) rfl val
  rw [h, if_neg (by decide), if_pos rfl]

theorem mbWrite_evtHead {s : State} (hopen : s.mbOpen = true) (p : Nat) (val : Word) :
    s.mbWrite p Reg.mbEvtHead val = s.evtHeadWrite p val := by
  obtain ⟨w, h⟩ := mbWrite_open hopen p (o := Reg.mbEvtHead) (by decide) rfl val
  rw [h, if_neg (by decide), if_neg (by decide), if_pos rfl]

theorem mbWrite_hostVer {s : State} (hopen : s.mbOpen = true) (p : Nat) (val : Word) :
    s.mbWrite p Reg.mbHostVer val = s.hostVerWrite p val := by
  obtain ⟨w, h⟩ := mbWrite_open hopen p (o := Reg.mbHostVer) (by decide) rfl val
  rw [h, if_neg (by decide), if_neg (by decide), if_neg (by decide), if_pos rfl]

/-- A doorbell that the ring holds. -/
theorem doorbell_taken {s : State} {p : Nat} {val : Word}
    (hfwd : ringDiff ((s.pair p).reg Reg.mbReqTail) ((s.pair p).reg Reg.mbReqHead) ≤ ringDiff val ((s.pair p).reg Reg.mbReqHead))
    (hroom : ringDiff val ((s.pair p).reg Reg.mbReqHead) ≤ 256) :
    (s.setPair p ((s.pair p).setReg Reg.mbReqTail val)).RecordsOnly (s.doorbell p val) := by
  unfold State.doorbell
  rw [if_neg (by omega)]
  simp only []
  split
  exacts [.trace _ _ _ _, .tracePart _ _ _ _ _]

theorem doorbell_overrun {s : State} {p : Nat} {val : Word} (hbad : 256 < ringDiff val ((s.pair p).reg Reg.mbReqHead) ∨
      ringDiff val ((s.pair p).reg Reg.mbReqHead) < ringDiff ((s.pair p).reg Reg.mbReqTail) ((s.pair p).reg Reg.mbReqHead)) :
    (s.setPair p ((s.pair p).setF Reg.mbStatus 9 9 1)).RecordsOnly (s.doorbell p val) := by
  unfold State.doorbell
  rw [if_pos hbad]
  exact .logOpen _ _ _ _

/-- A head moves as far as its tail. -/
theorem headWrite_eq (x : Pair) (head tail : Nat) (val : Word) : x.headWrite head tail val =
    if ringDiff val (x.reg head) ≤ ringDiff (x.reg tail) (x.reg head) then x.setReg head val else x.setF Reg.mbStatus 9 9 1 := by
  unfold Pair.headWrite
  split_ifs with hpast hin
  · omega
  · rfl
  · rfl
  · omega

/-- The host's version, and VER_MISMATCH when the firmware's does not match it. -/
theorem hostVerWrite_records (s : State) (p : Nat) (val : Word) :
    State.RecordsOnly (s.setPair p
      (if fld val 31 16 = fld ((s.pair p).reg Reg.mbFwVer) 31 16 ∧ fld val 15 0 ≤ fld ((s.pair p).reg Reg.mbFwVer) 15 0 then
        (s.pair p).setReg Reg.mbHostVer val
       else ((s.pair p).setReg Reg.mbHostVer val).setF Reg.mbStatus 8 8 1)) (s.hostVerWrite p val) := by
  have hset : ∀ v : State, v = s.modPair p (fun x => x.setReg Reg.mbHostVer val) →
      v.pair p = (s.pair p).setReg Reg.mbHostVer val := fun v hv => by rw [hv, State.modPair_pair_same]
  have hver : ((s.pair p).setReg Reg.mbHostVer val).reg Reg.mbFwVer = (s.pair p).reg Reg.mbFwVer :=
    Pair.setReg_reg_ne _ _ (by decide)
  unfold State.hostVerWrite
  extract_lets v
  rw [hset v rfl, hver]
  split_ifs with hmatch hok hok
  · exact .refl _
  · exact absurd (by simpa [verMatch] using hmatch) hok
  · exact absurd (by simpa [verMatch] using hok) hmatch
  · have hmis : v.modPair p (fun x => x.setF Reg.mbStatus 8 8 1) =
        s.setPair p (((s.pair p).setReg Reg.mbHostVer val).setF Reg.mbStatus 8 8 1) := by
      rw [modPair_eq, hset v rfl, show v = s.setPair p ((s.pair p).setReg Reg.mbHostVer val) from rfl, State.setPair_setPair]
    rw [hmis]
    exact .logSev _ _ _ _ _

end Sys2Proof.Machine
end

section
open Sys2Proof Sys2Proof.Machine

/-- Settles O38: each register of a mailbox window acts once its agent reaches it. -/
theorem mailboxRegistersAct : Obligations.MailboxRegistersAct := by
  refine ⟨fun s a p v x hup hmay hheld hopen hx => ?_, fun s p vec x hp hvec hx hpend => ?_⟩
  · subst hx
    have hreach := pairReg_reaches hup hmay hheld
    refine ⟨fun hfwd hroom => ⟨_, congrArg Host.Outcome.next ((hreach _ _).trans (mbWrite_reqTail hopen p v)), doorbell_taken hfwd hroom⟩,
      fun hbad => ⟨_, congrArg Host.Outcome.next ((hreach _ _).trans (mbWrite_reqTail hopen p v)), doorbell_overrun hbad⟩,
      congrArg Host.Outcome.next ?_, congrArg Host.Outcome.next ?_,
      ⟨_, congrArg Host.Outcome.next ((hreach _ _).trans (mbWrite_hostVer hopen p v)), hostVerWrite_records s p v⟩⟩
    · rw [hreach, mbWrite_rspHead hopen, State.rspHeadWrite, modPair_eq, headWrite_eq]
    · rw [hreach, mbWrite_evtHead hopen, State.evtHeadWrite, modPair_eq, headWrite_eq]
  · subst hx
    have hend : (s.pair p).coalesceEnd vec = { s.pair p with
        irqPend := setBit (s.pair p).irqPend vec false, irqCount := tabMod natD (s.pair p).irqCount vec (· + 1) } :=
      if_pos (by simp [hvec, hpend])
    exact congrArg Host.Outcome.next ((if_pos (decide_eq_true hp)).trans (congrArg (s.setPair p) hend))
end

section
namespace Sys2Proof.Machine

/-! ### What a boot changes (R304, R305, R431) -/

/-- The state with other pairs, console and draws of free values. -/
def State.withBoot (s : State) (prs : Tab Pair) (con : Console) (k : Nat) : State :=
  { s with pairs := prs, console := con, freeCount := k }

/-- Two states differ at most in the pairs, the console and the draws of free values. -/
def State.BootOnly (s u : State) : Prop := ∃ prs con k, u = s.withBoot prs con k

/-- Two states differ at most in pair 0, the console and the draws of free values. -/
def State.Pair0Only (s u : State) : Prop := ∃ y con k, u = (s.setPair 0 y).withConsole con k

namespace State.BootOnly
variable {s u v : State}

theorem trans (h : s.BootOnly u) (h' : u.BootOnly v) : s.BootOnly v := by
  obtain ⟨_, _, _, rfl⟩ := h
  obtain ⟨prs, con, k, rfl⟩ := h'
  exact ⟨prs, con, k, rfl⟩

theorem ofPair0 (h : s.Pair0Only u) : s.BootOnly u := by
  obtain ⟨_, _, _, rfl⟩ := h
  exact ⟨_, _, _, rfl⟩

theorem eachPair (s : State) (f : Pair → Pair) : s.BootOnly (s.eachPair f) := by
  obtain ⟨prs, heq, -⟩ := eachPair_facts s f
  exact ⟨prs, s.console, s.freeCount, heq⟩

theorem fw (h : s.BootOnly u) : u.fw = s.fw := by obtain ⟨_, _, _, rfl⟩ := h; rfl

theorem form (h : s.BootOnly u) : u = { s with pairs := u.pairs, console := u.console, freeCount := u.freeCount } := by
  obtain ⟨_, _, _, rfl⟩ := h
  rfl

end State.BootOnly

namespace State.Pair0Only
variable {s u v : State}

theorem trans (h : s.Pair0Only u) (h' : u.Pair0Only v) : s.Pair0Only v := by
  obtain ⟨x, con, k, rfl⟩ := h
  obtain ⟨y, con', k', rfl⟩ := h'
  have hset : ((s.setPair 0 x).withConsole con k).setPair 0 y = (s.setPair 0 y).withConsole con k :=
    congrArg (fun v => v.withConsole con k) (State.setPair_setPair s 0 x y)
  exact ⟨y, con', k', by rw [hset]; rfl⟩

theorem modPair (s : State) (f : Pair → Pair) : s.Pair0Only (s.modPair 0 f) := ⟨f (s.pair 0), s.console, s.freeCount, rfl⟩

theorem stageIs (s : State) (n : Nat) : s.Pair0Only (s.stageIs n) := by
  obtain ⟨con, k, heq⟩ := stageIs_eq s n
  exact ⟨_, con, k, heq⟩

theorem bootFails (s : State) (c : Nat) : s.Pair0Only (s.bootFails c) := (modPair s _).trans (stageIs _ 15)

theorem fw (h : s.Pair0Only u) : u.fw = s.fw := (State.BootOnly.ofPair0 h).fw

theorem pair_ne (h : s.Pair0Only u) {p : Nat} (hp : p ≠ 0) : u.pair p = s.pair p := by
  obtain ⟨y, con, k, rfl⟩ := h
  rw [State.withConsole_pair, State.setPair_pair_ne _ _ hp]

/-- Pair 0 is the one that changes. -/
theorem form (h : s.Pair0Only u) : ∃ y con k, y = u.pair 0 ∧ u = { s.setPair 0 y with console := con, freeCount := k } := by
  obtain ⟨y, con, k, rfl⟩ := h
  exact ⟨y, con, k, by rw [State.withConsole_pair, State.setPair_pair_same], rfl⟩

end State.Pair0Only

/-- A failed boot shows its code and stage 15. -/
theorem bootFails_pair (s : State) (c : Nat) :
    (s.bootFails c).pair 0 = ((s.pair 0).setF Reg.mbBootStatus 31 16 c).setF Reg.mbBootStatus 3 0 15 := by
  rw [State.bootFails, stageIs_pair, State.modPair_pair_same]

theorem bootFails_facts (s : State) {c : Nat} (hc : c < 2 ^ 16) : ((s.bootFails c).pair 0).f Reg.mbBootStatus 3 0 = 15 ∧
    ((s.bootFails c).pair 0).f Reg.mbBootStatus 31 16 = c ∧
    ∀ o, o ≠ Reg.mbBootStatus → ((s.bootFails c).pair 0).reg o = (s.pair 0).reg o := by
  rw [bootFails_pair]
  refine ⟨?_, ?_, fun o ho => ?_⟩
  · rw [Pair.setF_f_same _ _ _ (by decide) (by decide)]
    rfl
  · rw [Pair.setF_f_above _ _ _ (by decide) (by decide) (by decide), Pair.setF_f_same _ _ _ (by decide) (by decide)]
    exact Nat.mod_eq_of_lt hc
  · rw [Pair.setF_reg_ne _ _ _ _ ho, Pair.setF_reg_ne _ _ _ _ ho]

/-- The codes of the checks (R303). -/
theorem imgCheck_lt (kind fused : Nat) (major : Option Nat) (b : List Byte) : imgCheck kind fused major b < 2 ^ 16 := by
  have hite : ∀ (q : Prop) [Decidable q] (n m : Nat), n < 2 ^ 16 → m < 2 ^ 16 → (if q then n else m) < 2 ^ 16 :=
    fun q _ n m hn hm => by split <;> assumption
  unfold imgCheck
  refine hite _ _ _ (by decide) (hite _ _ _ (by decide) (hite _ _ _ (by decide) (hite _ _ _ (by decide) (hite _ _ _ (by decide) ?_))))
  cases major with
  | none => exact Nat.two_pow_pos 16
  | some m => exact hite _ _ _ (by decide) (by decide)

/-- Stage 1, then the checks of the Root image. -/
def State.bootBegun (s : State) : State := (s.modPair 0 (fun p => p.setF Reg.mbBootStatus 31 16 0)).stageIs 1

/-- Root runs, and the pairs show its versions. -/
def State.rootStarts (s : State) (b : List Byte) : State :=
  (s.stageIs 3).eachPair (fun p => (p.setReg Reg.mbFwVer (w32 (imgIface b))).setReg Reg.mbRootVer (w32 (imgVer b)))

/-- Service runs, and the pairs show its version. -/
def State.serviceStarts (s : State) (b : List Byte) : State :=
  (s.eachPair (fun p => (p.setReg Reg.mbSvcVer (w32 (imgVer (svcImage b)))).setF Reg.mbStatus 1 1 1)).stageIs 4

/-- The bundle is kept, and its images run. -/
def Fw.booted (f : Fw) (b : List Byte) : Fw :=
  { f with kept := b, rootRun := imgPart b, svcRun := imgPart (svcImage b), rootNext := false, rootSec := imgSec b,
           rootSlot := imgSlot b, svcSec := imgSec (svcImage b), svcSlot := imgSlot (svcImage b) }

/-- The first of the rails that Root starts is under way. -/
def State.booted (s : State) (f : Fw) : State := ({ s with fw := f } : State).setReg Reg.capStart 3

theorem bootFrom_eq (s : State) (b : List Byte) : s.bootFrom b =
    if imgCheck 1 s.fw.svnRoot none b ≠ 0 then ((s.stageIs 1).stageIs 2).bootFails (imgCheck 1 s.fw.svnRoot none b)
    else if imgCheck 2 s.fw.svnSvc (some (imgIface b / 2 ^ 16)) (svcImage b) ≠ 0 then
      (((s.stageIs 1).stageIs 2).rootStarts b).bootFails (imgCheck 2 s.fw.svnSvc (some (imgIface b / 2 ^ 16)) (svcImage b))
    else ((((s.stageIs 1).stageIs 2).rootStarts b).serviceStarts b).booted (s.fw.booted b) := by
  have hstage : ∀ (v : State) n, (v.stageIs n).fw = v.fw := fun v n => (State.Pair0Only.stageIs v n).fw
  have heach : ∀ (v : State) f, (v.eachPair f).fw = v.fw := fun v f => (State.BootOnly.eachPair v f).fw
  unfold State.bootFrom
  simp only [hstage, heach]
  rfl

theorem bootGo_eq {s : State} (hup : s.hostUp = true) (hscan : s.mgmt.scan = false) (hstage : s.bootStage = 0 ∨ s.bootStage = 15)
    {v : Word} (hgo : bit v 0 = true) {b : List Byte} (hb : b = memRead s.hostMem
      (((s.pair 0).reg Reg.mbBootAddrLo).toNat + 2 ^ 32 * ((s.pair 0).reg Reg.mbBootAddrHi).toNat)
      ((s.pair 0).reg Reg.mbBootLen).toNat) :
    s.bootGo v = if 2 ^ 25 < ((s.pair 0).reg Reg.mbBootLen).toNat then s.bootBegun.bootFails 0xB00
      else (s.modPair 0 (fun p => p.setF Reg.mbBootStatus 31 16 0)).bootFrom b := by
  have hrom : s.vctlUp = true := by
    rw [State.hostUp, Bool.and_eq_true] at hup
    exact hup.1
  have hopen : (s.bootStage == 0 || s.bootStage == 15) = true := by simpa using hstage
  have hhost : (s.modPair 0 (fun p => p.setF Reg.mbBootStatus 31 16 0)).hostUp = true := hup
  unfold State.bootGo
  rw [hgo, hrom, hscan, hopen, if_neg (by decide)]
  simp only [hhost, Bool.not_true, Bool.false_eq_true, if_false]
  rw [State.modPair_hostMem, ← hb, State.bootBegun]

theorem pairReg_bootGo {s : State} (hup : s.hostUp = true) (v : Word) : s.pairReg .pf 0 Reg.mbBootGo v = s.bootGo v := by
  have hrow : (regFind mbRegs Reg.mbBootGo).isSome = true := rfl
  obtain ⟨r, hr⟩ := Option.isSome_iff_exists.1 hrow
  have hans : s.mbAnswers 0 Reg.mbBootGo = true := by
    have hboot : bootReg Reg.mbBootGo = true := by decide
    simp [State.mbAnswers, hboot]
  rw [pairReg_reaches (a := .pf) hup rfl (fun n h => nomatch h)]
  unfold State.mbWrite
  rw [hr]
  simp only []
  rw [hans, if_neg (by decide), if_pos trivial]

/-- A stage shows in MB_BOOT_STATUS alone. -/
theorem stageIs_reg (s : State) (n p : Nat) {o : Nat} (ho : o ≠ Reg.mbBootStatus) :
    ((s.stageIs n).pair p).reg o = (s.pair p).reg o := by
  by_cases hp : p = 0
  · subst hp
    rw [stageIs_pair, Pair.setF_reg_ne _ _ _ _ ho]
  · rw [(State.Pair0Only.stageIs s n).pair_ne hp]

theorem stageIs_code (s : State) (n : Nat) :
    ((s.stageIs n).pair 0).f Reg.mbBootStatus 31 16 = (s.pair 0).f Reg.mbBootStatus 31 16 := by
  rw [stageIs_pair, Pair.setF_f_above _ _ _ (by decide) (by decide) (by decide)]

theorem eachPair_pair (s : State) (f : Pair → Pair) {p : Nat} (hp : p < 17) : (s.eachPair f).pair p = f (s.pair p) := by
  obtain ⟨prs, heq, hpairs⟩ := eachPair_facts s f
  rw [heq]
  exact (hpairs p).trans (if_pos hp)

theorem rootStarts_pair (s : State) (b : List Byte) {p : Nat} (hp : p < 17) : (s.rootStarts b).pair p =
    (((s.stageIs 3).pair p).setReg Reg.mbFwVer (w32 (imgIface b))).setReg Reg.mbRootVer (w32 (imgVer b)) :=
  eachPair_pair _ _ hp

/-- Service's own registers, behind its stage. -/
theorem serviceStarts_reg (s : State) (b : List Byte) {p : Nat} (hp : p < 17) {o : Nat} (ho : o ≠ Reg.mbBootStatus) :
    ((s.serviceStarts b).pair p).reg o =
      (((s.pair p).setReg Reg.mbSvcVer (w32 (imgVer (svcImage b)))).setF Reg.mbStatus 1 1 1).reg o := by
  rw [State.serviceStarts, stageIs_reg _ _ _ ho, eachPair_pair _ _ hp]

/-- Root and Service run: the versions and SVC_UP of every pair, and the code that stays. -/
theorem bothStart_facts (s : State) (b : List Byte) : ((s.rootStarts b).serviceStarts b).bootStage = 4 ∧
    (((s.rootStarts b).serviceStarts b).pair 0).f Reg.mbBootStatus 31 16 = (s.pair 0).f Reg.mbBootStatus 31 16 ∧
    (∀ p, p < 17 → (((s.rootStarts b).serviceStarts b).pair p).reg Reg.mbFwVer = w32 (imgIface b) ∧
      (((s.rootStarts b).serviceStarts b).pair p).reg Reg.mbRootVer = w32 (imgVer b) ∧
      (((s.rootStarts b).serviceStarts b).pair p).reg Reg.mbSvcVer = w32 (imgVer (svcImage b)) ∧
      (((s.rootStarts b).serviceStarts b).pair p).f Reg.mbStatus 1 1 = 1) ∧
    s.BootOnly ((s.rootStarts b).serviceStarts b) := by
  refine ⟨stageIs_bootStage _ (by decide), ?_, fun p hp => ⟨?_, ?_, ?_, ?_⟩, ?_⟩
  · rw [State.serviceStarts, stageIs_code, eachPair_pair _ _ (by decide), Pair.setF_f_ne _ _ _ _ _ _ (by decide), Pair.f,
      Pair.setReg_reg_ne _ _ (by decide), rootStarts_pair _ _ (by decide), Pair.setReg_reg_ne _ _ (by decide),
      Pair.setReg_reg_ne _ _ (by decide), ← Pair.f, stageIs_code]
  · rw [serviceStarts_reg _ _ hp (by decide), Pair.setF_reg_ne _ _ _ _ (by decide), Pair.setReg_reg_ne _ _ (by decide),
      rootStarts_pair _ _ hp, Pair.setReg_reg_ne _ _ (by decide), Pair.setReg_reg_same]
  · rw [serviceStarts_reg _ _ hp (by decide), Pair.setF_reg_ne _ _ _ _ (by decide), Pair.setReg_reg_ne _ _ (by decide),
      rootStarts_pair _ _ hp, Pair.setReg_reg_same]
  · rw [serviceStarts_reg _ _ hp (by decide), Pair.setF_reg_ne _ _ _ _ (by decide), Pair.setReg_reg_same]
  · rw [Pair.f, serviceStarts_reg _ _ hp (by decide), ← Pair.f, Pair.setF_f_same _ _ _ (by decide) (by decide)]
    rfl
  · exact (((State.BootOnly.ofPair0 (.stageIs s 3)).trans (.eachPair _ _)).trans (.eachPair _ _)).trans (.ofPair0 (.stageIs _ 4))

/-- The rails begin, and the bundle is kept. -/
theorem booted_facts {s v u : State} (hv : s.BootOnly v) {f : Fw} (hu : v.booted f = u) : u.bootStage = v.bootStage ∧
    (∀ p, u.pair p = v.pair p) ∧ u.reg Reg.capStart = 3 ∧ (∀ o, o ≠ Reg.capStart → u.reg o = s.reg o) ∧ u.fw = f ∧
    u = { s with pairs := u.pairs, chip := u.chip, fw := u.fw, console := u.console, freeCount := u.freeCount } := by
  obtain ⟨prs, con, k, rfl⟩ := hv
  subst hu
  exact ⟨rfl, fun _ => rfl, State.setReg_reg_same _ _ _, fun o ho => State.setReg_reg_ne _ _ ho, rfl, rfl⟩

/-- The stages before the checks of the Root image. -/
theorem bootBegun_facts (s : State) : s.Pair0Only s.bootBegun ∧ (s.bootBegun.pair 0).f Reg.mbBootStatus 31 16 = 0 ∧
    ∀ o, o ≠ Reg.mbBootStatus → (s.bootBegun.pair 0).reg o = (s.pair 0).reg o := by
  refine ⟨(State.Pair0Only.modPair s _).trans (.stageIs _ 1), ?_, fun o ho => ?_⟩
  · rw [State.bootBegun, stageIs_code, State.modPair_pair_same, Pair.setF_f_same _ _ _ (by decide) (by decide), Nat.zero_mod]
  · rw [State.bootBegun, stageIs_reg _ _ _ ho, State.modPair_pair_same, Pair.setF_reg_ne _ _ _ _ ho]

/-- A Root image that fails leaves its code and stage 15. -/
theorem rootImageFails {s v : State} (hv : s.Pair0Only v) (hregs : ∀ o, o ≠ Reg.mbBootStatus → (v.pair 0).reg o = (s.pair 0).reg o)
    {c : Nat} (hc : c < 2 ^ 16) : ∃ y con k, v.bootFails c = { s.setPair 0 y with console := con, freeCount := k } ∧
      y.f Reg.mbBootStatus 3 0 = 15 ∧ y.f Reg.mbBootStatus 31 16 = c ∧
      ∀ o, o ≠ Reg.mbBootStatus → y.reg o = (s.pair 0).reg o := by
  obtain ⟨y, con, k, hy, heq⟩ := (hv.trans (.bootFails v c)).form
  obtain ⟨hstage, hcode, hsame⟩ := bootFails_facts v hc
  subst hy
  exact ⟨_, con, k, heq, hstage, hcode, fun o ho => (hsame o ho).trans (hregs o ho)⟩

end Sys2Proof.Machine
end

section
open Sys2Proof Sys2Proof.Machine

/-- Settles O40: the checks in their order, and what each outcome leaves. -/
theorem bootRunsTheChain : Obligations.BootRunsTheChain := by
  intro s v b img x hup hscan hx hstage hgo himg hb
  subst hx himg
  have hexec : exec (.bootGo .pf v) s = .next (if 2 ^ 25 < ((s.pair 0).reg Reg.mbBootLen).toNat then s.bootBegun.bootFails 0xB00
      else (s.modPair 0 (fun p => p.setF Reg.mbBootStatus 31 16 0)).bootFrom b) :=
    congrArg Host.Outcome.next ((pairReg_bootGo hup v).trans (bootGo_eq hup hscan hstage hgo hb))
  obtain ⟨hbegun, hcode0, hregs0⟩ := bootBegun_facts s
  have hbegun2 : s.Pair0Only (s.bootBegun.stageIs 2) := hbegun.trans (.stageIs _ 2)
  have hregs2 : ∀ o, o ≠ Reg.mbBootStatus → ((s.bootBegun.stageIs 2).pair 0).reg o = (s.pair 0).reg o :=
    fun o ho => (stageIs_reg _ _ _ ho).trans (hregs0 o ho)
  have hfrom := bootFrom_eq (s.modPair 0 (fun p => p.setF Reg.mbBootStatus 31 16 0)) b
  rw [State.modPair_fw, ← State.bootBegun] at hfrom
  refine ⟨fun c hc => ?_, fun hlen hroot c hc => ⟨fun hbad => ?_, fun hgood => ?_⟩⟩
  · obtain ⟨hlong, rfl⟩ | ⟨hlen, hc, hbad⟩ := hc
    · obtain ⟨y, con, k, heq, hrest⟩ := rootImageFails hbegun hregs0 (c := 0xB00) (by decide)
      exact ⟨y, con, k, by rw [hexec, if_pos hlong, heq], hrest⟩
    · obtain ⟨y, con, k, heq, hrest⟩ := rootImageFails hbegun2 hregs2 (c := c) (by rw [hc]; exact imgCheck_lt _ _ _ _)
      exact ⟨y, con, k, by rw [hexec, if_neg (by omega), hfrom, ← hc, if_pos hbad, heq], hrest⟩
  · have honly : s.BootOnly ((s.bootBegun.stageIs 2).rootStarts b) :=
      (State.BootOnly.ofPair0 hbegun2).trans ((State.BootOnly.ofPair0 (.stageIs _ 3)).trans (.eachPair _ _))
    obtain ⟨hst, hcode, -⟩ := bootFails_facts ((s.bootBegun.stageIs 2).rootStarts b) (c := c) (by rw [hc]; exact imgCheck_lt _ _ _ _)
    refine ⟨_, ?_, hst, hcode, (honly.trans (.ofPair0 (.bootFails _ _))).form⟩
    rw [hexec, if_neg (by omega), hfrom, hroot, if_neg (by decide), ← hc, if_pos hbad]
  · obtain ⟨hst, hcode, hpairs, hboth⟩ := bothStart_facts (s.bootBegun.stageIs 2) b
    obtain ⟨ustage, upair, ustart, uregs, ufw, uform⟩ :=
      booted_facts ((State.BootOnly.ofPair0 hbegun2).trans hboth) (f := s.fw.booted b) rfl
    refine ⟨_, ?_, ustage.trans hst, ?_, fun p hp => ?_, ustart, uregs, ufw, uform⟩
    · rw [hexec, if_neg (by omega), hfrom, hroot, if_neg (by decide), ← hc, hgood, if_neg (by decide)]
    · rw [upair, hcode, stageIs_code, hcode0]
    · rw [upair]
      exact hpairs p hp
end

section
namespace Sys2Proof.Machine

/-! ### Window sets (R299) -/

theorem svcCore_congr {s u : State} (h : u.fw.sets = s.fw.sets) (n : Nat) : u.svcCore n = s.svcCore n := by
  rw [State.svcCore, h, ← State.svcCore]

/-- A core holds the window set that Root has loaded. -/
theorem loadSet_held {s : State} (hlen : s.fw.sets.length = 4) (n : Nat) : ((s.loadSet n).svcCore n).isSome = true := by
  have hc : Config.freeValue s.freeCount 9 % 4 < s.fw.sets.length := by rw [hlen]; exact Nat.mod_lt _ (by decide)
  have hin : ((s.fw.sets.set (Config.freeValue s.freeCount 9 % 4) (some n)).findIdx? (· == some n)).isSome = true := by
    rw [List.findIdx?_isSome, List.any_eq_true]
    exact ⟨some n, List.mem_set hc _, by simp⟩
  unfold State.loadSet
  rw [svcCore_congr (congrArg Fw.sets (State.RecordsOnly.tracePart _ _ _ _ _).fw)]
  exact hin

theorem asService_holds {s : State} (hlen : s.fw.sets.length = 4) (n : Nat) : ((s.asService n).svcCore n).isSome = true := by
  unfold State.asService
  split
  next h => exact h
  next h => exact loadSet_held hlen n

/-- Once its core holds the set, a command needs no other. -/
theorem serving_serving {s : State} (hlen : s.fw.sets.length = 4) (p k op : Nat) :
    (s.serving p k op).serving p k op = s.serving p k op := by
  by_cases hrun : ((s.takenCmd p k op).isSome && p != 0) = true
  · have heq : s.serving p k op = s.asService (p - 1) := if_pos hrun
    rw [heq]
    exact serving_held (Or.inr (asService_holds hlen (p - 1))) k op
  · have heq : s.serving p k op = s := if_neg hrun
    rw [heq, heq]

/-- A command of any pair runs as if the set had been loaded before. -/
theorem next_serving {s : State} (hlen : s.fw.sets.length = 4) (p k op : Nat) (f : State → State) :
    (Host.Outcome.next (f (s.serving p k op)) : Host.Outcome State Fault Refusal) =
      .next (f ((s.serving p k op).serving p k op)) := by rw [serving_serving hlen]

/-! ### A request is taken (R299, R312, R314) -/

theorem mayTake_of {s : State} {p : Nat} (hp : p < 17) (hup : s.cmdUp p = true) (hready : (s.pair p).f Reg.mbStatus 0 0 ≠ 0)
    (hmore : (s.pair p).reg Reg.mbReqHead ≠ (s.pair p).reg Reg.mbReqTail)
    (hroom : (s.pair p).taken.length + (s.pair p).rspWait.length < 8) (hact : p = 0 ∨ s.fw.activate = none) :
    s.mayTake p = true := by
  have hpart : (p == 0 || s.fw.activate.isNone) = true := by simpa using hact
  simp [State.mayTake, hp, hup, hready, hmore, hroom, hpart]

/-- The state with the latest partition pair served. -/
def State.withTurn (s : State) (n : Nat) : State := { s with fw := { s.fw with pairTurn := n } }

/-- The request at a pair's head. -/
def Pair.headRequest (x : Pair) : List Word :=
  (List.range 16).map (fun i => x.reg (Reg.mbReqSlot + 64 * ((x.reg Reg.mbReqHead).toNat % 256) + 4 * i))

/-- The pair with that request taken, at a stage. -/
def Pair.took (x : Pair) (stage : Nat) : Pair :=
  { x.setReg Reg.mbReqHead (x.reg Reg.mbReqHead + 1) with taken := x.taken ++ [⟨x.headRequest, stage, []⟩] }

/-- The pair with its head past that request. -/
def Pair.headPast (x : Pair) : Pair := x.setReg Reg.mbReqHead (x.reg Reg.mbReqHead + 1)

/-- The request is taken behind the others, or, of an unknown opcode without ORDER, ends with its code. -/
theorem requestTake_eq {s : State} {p : Nat} (hmay : s.mayTake p = true) (hturn : s.pairTurn p = true)
    (hheld : p = 0 ∨ (s.svcCore (p - 1)).isSome = true) :
    ∃ u, ((s.withTurn (if p = 0 then s.fw.pairTurn else p - 1)).setPair p (s.pair p).headPast).RecordsOnly u ∧
      s.requestTake p =
        let w := u.modPair p (fun x => { x with taken := x.taken ++
          [⟨(s.pair p).headRequest, if !knownOp (rqOp (s.pair p).headRequest) then rejectedStage else 0, []⟩] })
        if !knownOp (rqOp (s.pair p).headRequest) && !rqOrder (s.pair p).headRequest then
          w.mbFinish p (s.pair p).taken.length 0x100 []
        else w.sweep p := by
  unfold State.requestTake
  rw [hmay, hturn, if_neg (show ¬(!true || !true) = true by decide)]
  by_cases hp : p = 0
  · have hsame : s.withTurn s.fw.pairTurn = s := rfl
    simp only [if_pos hp, hsame]
    exact ⟨_, .refl _, rfl⟩
  · have hset : s.asService (p - 1) = s := asService_held (hheld.resolve_left hp)
    simp only [if_neg hp, hset]
    exact ⟨_, .tracePart _ _ _ _ _, rfl⟩

/-- What has been noted beside it, the request is taken. -/
theorem took_records {v u : State} {p stage : Nat} {x : Pair} (h : (v.setPair p x.headPast).RecordsOnly u) :
    (v.setPair p (x.took stage)).RecordsOnly
      (u.modPair p (fun y => { y with taken := y.taken ++ [⟨x.headRequest, stage, []⟩] })) := by
  have hmod := State.RecordsOnly.modPair h p (fun y => { y with taken := y.taken ++ [⟨x.headRequest, stage, []⟩] })
    (fun a b hab => ⟨by rw [hab.form], hab.regs⟩)
  have hset : (v.setPair p x.headPast).modPair p (fun y => { y with taken := y.taken ++ [⟨x.headRequest, stage, []⟩] }) =
      v.setPair p (x.took stage) := by
    rw [modPair_eq, State.setPair_pair_same, State.setPair_setPair]
    rfl
  rw [hset] at hmod
  exact hmod

/-- None of the taken requests waits to be rejected. -/
theorem took_sweeps {u : State} {v : State} {p : Nat} {x : Pair} (h : (v.setPair p (x.took 0)).RecordsOnly u)
    (hnone : ∀ t ∈ x.taken, t.stage ≠ rejectedStage) : u.sweep p = u := by
  refine sweep_none u p fun t ht => ?_
  rw [RecordsOnly.taken h, State.setPair_pair_same] at ht
  obtain ht | ht := List.mem_append.1 (show t ∈ x.taken ++ [⟨x.headRequest, 0, []⟩] from ht)
  · exact hnone t ht
  · rw [List.mem_singleton.1 ht]
    exact Nat.zero_ne_add_one 98

/-! ### Requests of every pair (R318, R327, R328, R433) -/

/-- A command that is taken finds Root running. -/
theorem takenCmd_running {s : State} {p k op : Nat} {t : Taken} (h : s.takenCmd p k op = some t) : s.power.faultN = false := by
  have hup : s.cmdUp p = true := by
    by_contra hdown
    simp [State.takenCmd, hdown] at h
  have hroot : s.rootUp = true := by
    rw [State.cmdUp, Bool.and_eq_true] at hup
    exact hup.1
  simp only [State.rootUp, Bool.and_eq_true, Bool.not_eq_true'] at hroot
  exact hroot.2

section
variable {s : State} {p k : Nat} {t : Taken}

/-- What PING answers with. -/
def State.pong (s : State) (w : List Word) : List Word := if rqExpert w then w.drop 2 else res64 s.time

theorem ping_acts (h : s.InOrder p k 1 0 t) : s.ping p k = s.mbFinish p k 0 (s.pong t.words) :=
  h.acts _ (noChecks_pass _) (noChecks_pass _)

/-- A response in the ring's next slot. -/
theorem responded_facts {x y : Pair} {w r : List Word} {code : Nat} {l : List Taken}
    (hy : ({ x with taken := l } : Pair).postResponse w code r = y) {o : Nat}
    (ho : o = Reg.mbRspSlot + 64 * ((x.reg Reg.mbRspTail).toNat % 256)) : y.taken = l ∧ y.rspWait = x.rspWait ∧
      y.reg o = w.getD 0 0 ∧ y.reg (o + 4) = BitVec.ofNat 32 code ∧ (∀ i, i < 14 → y.reg (o + 8 + 4 * i) = r.getD i 0) ∧
      y.reg Reg.mbRspTail = x.reg Reg.mbRspTail + 1 ∧
      ∀ q, q ≠ Reg.mbRspTail → (q < o ∨ o + 64 ≤ q) → y.reg q = x.reg q := by
  obtain ⟨⟨rg, a, b, hform⟩, hop, hcode, hres, htail, hrest⟩ := postResponse_facts { x with taken := l } w code r o ho
  rw [hy] at hform hop hcode hres htail hrest
  exact ⟨by rw [hform], by rw [hform], hop, hcode, hres, htail, hrest⟩

theorem ping_facts (h : s.InOrder p k 1 0 t) {x : Pair} {o : Nat} (hx : x = s.pair p)
    (hnone : ∀ c ∈ x.taken, c.stage ≠ rejectedStage) (hwait : x.rspWait = []) (hroom : x.rspFull = false)
    (ho : o = Reg.mbRspSlot + 64 * ((x.reg Reg.mbRspTail).toNat % 256)) :
    ∃ y u, exec (.ping p k) s = .next u ∧ (s.setPair p y).RecordsOnly u ∧ y.taken = listDrop1 x.taken k ∧ y.rspWait = [] ∧
      y.reg o = t.words.getD 0 0 ∧ y.reg (o + 4) = 0 ∧ (∀ i, i < 14 → y.reg (o + 8 + 4 * i) = (s.pong t.words).getD i 0) ∧
      y.reg Reg.mbRspTail = x.reg Reg.mbRspTail + 1 ∧
      (∀ q, q ≠ Reg.mbRspTail → (q < o ∨ o + 64 ≤ q) → y.reg q = x.reg q) := by
  have hget : x.taken[k]? = some t := by rw [hx]; exact takenCmd_get h.taken
  have hposts := mbFinish_posts hx hget hnone hwait hroom (takenCmd_running h.taken) 0 (s.pong t.words)
  obtain ⟨htaken, hw, hrest⟩ := responded_facts (x := x) (w := t.words) (r := s.pong t.words) (code := 0)
    (l := listDrop1 x.taken k) rfl ho
  exact ⟨_, _, next_served (f := (·.ping p k)) h.served (ping_acts h), hposts, htaken, hw.trans hwait, hrest⟩

theorem getVersion_acts (h : s.InOrder p k 2 0 t) : s.getVersion p k = s.mbFinish p k 0
    ([(s.pair p).reg Reg.mbFwVer, (s.pair p).reg Reg.mbRootVer, (s.pair p).reg Reg.mbSvcVer, w32 Config.romVersion] ++
      (if rqExpert t.words then [w32 s.fw.rootSec, w32 s.fw.svcSec, w32 s.fw.rootSlot, w32 s.fw.svcSlot] else [])) :=
  h.acts _ (noChecks_pass _) (noChecks_pass _)

/-- The answer of GET_INFO in the basic form. -/
theorem getInfo_basic (h : s.InOrder p k 3 0 t) (hbasic : rqExpert t.words = false) : s.getInfo p k =
    if p = 0 then s.drawn.mbFinish p k 0
      [w32 s.chipId, 31, w32 (Config.freeValue s.freeCount 0), w32 (Config.freeValue s.freeCount 1)]
    else s.mbFinish p k 0 [w32 s.chipId, w32 (p - 1), w32 ((s.part (p - 1)).f Reg.mbPartCfg 17 0),
      w32 (s.sys (p - 1)).svc.freeSlotCount] := by
  refine (h.acts _ (bad_passes (by rw [hbasic]; rfl)) (bad_passes (by rw [hbasic]; rfl))).trans ?_
  simp only [hbasic, Bool.false_eq_true, if_false]

/-- The tiles a request of a pair names are its own. -/
theorem tilesBad_allowed {first count : Nat} (hlast : first + count ≤ 1152)
    (hown : p = 0 ∨ ∀ i, i < count → s.ownsTile (p - 1) (first + i) = true) : s.tilesBad p first count = false := by
  obtain rfl | hown := hown
  · have htiles : tileCount = 1152 := rfl
    rw [State.tilesBad, decide_eq_false (by omega)]
    rfl
  · exact tilesBad_owned hlast hown

theorem getInfo_expert (h : s.InOrder p k 3 0 t) (hexp : rqExpert t.words = true) (h1 : 1 ≤ par t.words 1)
    (h24 : par t.words 1 ≤ 24) (hlast : par t.words 0 + par t.words 1 ≤ 1152)
    (hown : p = 0 ∨ ∀ i, i < par t.words 1 → s.ownsTile (p - 1) (par t.words 0 + i) = true) : s.getInfo p k =
      s.mbFinish p k 0 (halfWords ((List.range (par t.words 1)).map (fun i => s.railMv (par t.words 0 + i) s.mhzNow))) := by
  have hcount : (par t.words 1 == 0 || decide (24 < par t.words 1) || decide (tileCount < par t.words 0 + par t.words 1)) = false := by
    have htiles : tileCount = 1152 := rfl
    simp only [Bool.or_eq_false_iff, beq_eq_false_iff_ne, decide_eq_false_iff_not]
    omega
  refine (h.acts _ (bad_passes (by rw [hexp, hcount]; rfl)) (bad_passes ?_)).trans (if_pos hexp)
  rw [tilesBad_allowed hlast hown, Bool.and_false]

/-- The least severities that a list of sixteen gives. -/
theorem foldl_tabSet_get (g : Nat → Nat) : ∀ (n : Nat) (m : Tab Nat) (i : Nat), i < n →
    tabGet natD ((List.range n).foldl (fun m i => tabSet natD m i (g i)) m) i = g i
  | n + 1, m, i, hi => by
    rw [List.range_succ, List.foldl_append, List.foldl_cons, List.foldl_nil]
    by_cases h : i = n
    · subst h
      rw [tabGet_set_same]
    · rw [tabGet_set_ne _ _ _ h, foldl_tabSet_get g n m i (by omega)]

theorem setLevels_logLevel (x : Pair) (w : List Word) {i : Nat} (hi : i < 16) :
    tabGet natD (x.setLevels (levelsOf w)).logLevel i = if rqExpert w = true then par64 w 0 / 16 ^ i % 16 else par w 0 := by
  rw [Pair.setLevels, foldl_tabSet_get (fun i => (levelsOf w).getD i 0) 16 _ i hi]
  simp only [levelsOf, List.getD_eq_getElem?_getD, List.getElem?_map, List.getElem?_range hi, Option.map_some, Option.getD_some]

theorem logLevel_acts (h : s.InOrder p k 4 0 t) (hle : ∀ v ∈ levelsOf t.words, v ≤ 4) :
    s.logLevel p k = (s.setPair p ((s.pair p).setLevels (levelsOf t.words))).mbFinish p k 0 [] := by
  refine h.acts _ (bad_passes ?_) (noChecks_pass _)
  rw [List.any_eq_false]
  exact fun v hv => by simpa using hle v hv

theorem traceCfg_acts (h : s.InOrder p k 5 0 t) (hform : rqExpert t.words = true ∨ par t.words 0 ≤ 255 ∧ par t.words 1 ≤ 1)
    (hsize : ∃ i, i ≤ 10 ∧ traceSize t.words = 2 ^ (16 + i)) : s.traceCfg p k =
      (s.setPair p { s.pair p with
        trace := ⟨tracePoints t.words (s.pair p).trace.points, traceAddr t.words, traceSize t.words⟩ }).mbFinish p k 0 [] := by
  have hok : traceSizeOk (traceSize t.words) = true := by
    obtain ⟨i, hi, heq⟩ := hsize
    rw [traceSizeOk, List.any_eq_true]
    exact ⟨i, List.mem_range.2 (by omega), by simp [heq]⟩
  have hpar : (!rqExpert t.words && (decide (255 < par t.words 0) || decide (1 < par t.words 1))) = false := by
    obtain he | ⟨h0, h1⟩ := hform
    · rw [he]; rfl
    · simp [Nat.not_lt.2 h0, Nat.not_lt.2 h1]
  exact h.acts _ (bad_passes_cons hpar (bad_passes (by rw [hok]; rfl))) (noChecks_pass _)

theorem markTo_records (s : State) (pair point core arg : Nat) : s.RecordsOnly (s.markTo pair point core arg) := by
  unfold State.markTo
  simp only []
  split
  · exact .refl s
  · exact (State.RecordsOnly.setPair s pair _ (.setReg _ _ _ rfl)).trans (.host _ _)

/-- What TRACE_MARK writes. -/
def State.marked (s : State) (p : Nat) (w : List Word) : State :=
  let core := if p = 0 then Src.root else s.svcSrc (p - 1)
  let s := s.markTo 0 (par w 0) core (par64 w 1)
  if p = 0 then s else s.markTo p (par w 0) core (par64 w 1)

theorem marked_records (s : State) (p : Nat) (w : List Word) : s.RecordsOnly (s.marked p w) := by
  unfold State.marked
  extract_lets core u
  split
  · exact markTo_records _ _ _ _ _
  · exact (markTo_records _ _ _ _ _).trans (markTo_records _ _ _ _ _)

theorem traceMark_acts (h : s.InOrder p k 6 0 t) (hlow : 0xF0 ≤ par t.words 0) (hhigh : par t.words 0 ≤ 0xFF) :
    s.traceMark p k = (s.marked p t.words).mbFinish p k 0 [] :=
  h.acts _ (bad_passes (by simp only [Bool.or_eq_false_iff, decide_eq_false_iff_not]; omega)) (noChecks_pass _)

theorem par_lt (w : List Word) (i : Nat) : par w i < 2 ^ 32 := (w.getD (i + 2) 0).isLt

theorem par64_lt (w : List Word) (i : Nat) : par64 w i < 2 ^ 64 := by
  have h0 := par_lt w i
  have h1 := par_lt w (i + 1)
  rw [par64]
  omega

/-- Root's own mark, while pair 0 traces its point. -/
theorem marked_root {w : List Word} (hup : s.hostUp = true) (hsize : (s.pair 0).trace.size ≠ 0)
    (hbit : bit (s.pair 0).trace.points (par w 0) = true) : s.marked 0 w =
      { s.setPair 0 ((s.pair 0).setReg Reg.mbTraceWr ((s.pair 0).reg Reg.mbTraceWr + 1)) with
        hostMem := memWrite s.hostMem ((s.pair 0).trace.addr + 16 * ((s.pair 0).reg Reg.mbTraceWr).toNat % (s.pair 0).trace.size)
          (bytesOf 16 (s.time % 2 ^ 48 + 2 ^ 48 * par w 0 + 2 ^ 64 * par64 w 1)) } := by
  have htraces : s.traces 0 (par w 0) = true := by simp [State.traces, hup, hsize, hbit]
  have hnext : ∀ v : Word, w32 (v.toNat + 1) = v + 1 := fun v => by simp [w32, BitVec.toNat_eq]
  have harg : par64 w 1 % 2 ^ 64 = par64 w 1 := Nat.mod_eq_of_lt (par64_lt w 1)
  have hmark : s.marked 0 w = s.markTo 0 (par w 0) 0 (par64 w 1) := rfl
  rw [hmark, State.markTo, htraces, if_neg (by decide)]
  simp only [hnext, harg, Nat.mul_zero, Nat.add_zero]

theorem telemetryCmd_acts (h : s.InOrder p k 0x211 0 t) (hup : s.hostUp = true) (hexp : rqExpert t.words = true →
      1 ≤ par t.words 3 ∧ par t.words 2 + par t.words 3 ≤ 1152 ∧
        (p = 0 ∨ ∀ i, i < par t.words 3 → s.ownsTile (p - 1) (par t.words 2 + i) = true)) {b : List Byte}
    (hb : b = s.telemetryBytes p (s.telemetryTiles p t.words)) : s.telemetryCmd p k =
      ({ s with hostMem := memWrite s.hostMem (par64 t.words 0) b } : State).mbFinish p k 0 [w32 b.length] := by
  subst hb
  refine h.acts _ (bad_passes ?_) (bad_passes_cons ?_ (bad_passes (by rw [hup]; rfl)))
  · cases he : rqExpert t.words with
    | false => rfl
    | true =>
      obtain ⟨h1, hlast, -⟩ := hexp he
      have htiles : tileCount = 1152 := rfl
      simp only [Bool.true_and, Bool.or_eq_false_iff, beq_eq_false_iff_ne, decide_eq_false_iff_not]
      omega
  · cases he : rqExpert t.words with
    | false => rfl
    | true =>
      obtain ⟨h1, hlast, hown⟩ := hexp he
      rw [tilesBad_allowed hlast hown, Bool.and_false]

end

end Sys2Proof.Machine
end

section
open Sys2Proof Sys2Proof.Machine

/-- Settles O39: a request is taken behind the others, each command runs on a core that holds its set, and a response goes
into the next slot. -/
theorem requestsAreTakenAndAnswered : Obligations.RequestsAreTakenAndAnswered := by
  refine ⟨fun s p k c op hlen hmem => ?_, fun s p x w hp hx hup hready hmore hroom hact hturn hheld v hv hnone hw => ?_,
    fun s p k t x r o h hx hnone hwait hroom hr ho => ?_⟩
  · have hnext := next_serving hlen p k op
    simp only [List.mem_cons, List.not_mem_nil, or_false, Prod.mk.injEq] at hmem
    rcases hmem with ⟨rfl, rfl⟩ | ⟨rfl, rfl⟩ | ⟨rfl, rfl⟩ | ⟨rfl, rfl⟩ | ⟨rfl, rfl⟩ | ⟨rfl, rfl⟩ | ⟨rfl, rfl⟩ | ⟨rfl, rfl⟩ |
      ⟨rfl, rfl⟩ | ⟨rfl, rfl⟩ | ⟨rfl, rfl⟩ | ⟨rfl, rfl⟩ | ⟨rfl, rfl⟩ | ⟨rfl, rfl⟩ | ⟨rfl, rfl⟩ | ⟨rfl, rfl⟩ | ⟨rfl, rfl⟩ |
      ⟨rfl, rfl⟩ | ⟨rfl, rfl⟩ | ⟨rfl, rfl⟩ | ⟨rfl, rfl⟩ | ⟨rfl, rfl⟩ | ⟨rfl, rfl⟩ | ⟨rfl, rfl⟩
    exacts [hnext (·.ping p k), hnext (·.getVersion p k), hnext (·.getInfo p k), hnext (·.logLevel p k), hnext (·.traceCfg p k),
      hnext (·.traceMark p k), hnext (·.ctxCreate p k), hnext (·.ctxDestroy p k), hnext (·.queueCreate p k),
      hnext (·.queueDestroy p k), hnext (·.launch p k), hnext (·.ctxSave p k), hnext (·.ctxRestore p k), hnext (·.faultRead p k),
      hnext (·.faultClearCmd p k), hnext (·.semSet p k), hnext (·.stateExport p k), hnext (·.stateImport p k),
      hnext (·.ownerSet p k), hnext (·.groupSet p k), hnext (·.pailModeSet p k), hnext (·.collCancelCmd p k),
      hnext (·.schedCfg p k), hnext (·.telemetryCmd p k)]
  · subst hx hv
    have hhead : w = (s.pair p).headRequest := hw
    subst hhead
    obtain ⟨u, hrec, heq⟩ := requestTake_eq (mayTake_of hp hup hready hmore hroom hact) hturn hheld
    refine ⟨fun hknown => ?_, fun hunknown horder => ?_⟩
    · have htook := took_records (stage := 0) hrec
      simp only [hknown, Bool.not_true, Bool.false_and, Bool.false_eq_true, if_false] at heq
      rw [took_sweeps htook hnone] at heq
      exact ⟨_, congrArg Host.Outcome.next heq, htook⟩
    · have htook := took_records (stage := rejectedStage) hrec
      simp only [hunknown, horder, Bool.not_false, Bool.and_self, if_true] at heq
      exact ⟨_, congrArg Host.Outcome.next heq, htook⟩
  · subst hr
    exact ping_facts h hx hnone hwait hroom ho

/-- Settles O42: each request that is in order answers with the results of Table 11.5. -/
theorem requestsOfEveryPairAct : Obligations.RequestsOfEveryPairAct := by
  intro s p k t w x hw hx
  subst hw hx
  refine ⟨fun h => next_served (f := (·.getVersion p k)) h.served (getVersion_acts h),
    fun h hbasic => ⟨fun hp => ?_, fun hp => ?_⟩,
    fun h hexp h1 h24 hlast hown => next_served (f := (·.getInfo p k)) h.served (getInfo_expert h hexp h1 h24 hlast hown),
    fun h hle => ⟨_, next_served (f := (·.logLevel p k)) h.served (logLevel_acts h hle), fun i hi => setLevels_logLevel _ _ hi, rfl⟩,
    fun h hform hsize => next_served (f := (·.traceCfg p k)) h.served (traceCfg_acts h hform hsize),
    fun h hlow hhigh => ?_,
    fun h hup hexp b hb => next_served (f := (·.telemetryCmd p k)) h.served (telemetryCmd_acts h hup hexp hb)⟩
  · exact ⟨_, _, s.drawn, .drawn s _, next_served (f := (·.getInfo p k)) h.served ((getInfo_basic h hbasic).trans (if_pos hp))⟩
  · exact next_served (f := (·.getInfo p k)) h.served ((getInfo_basic h hbasic).trans (if_neg hp))
  · have hacts : exec (.traceMark p k) s = _ := next_served (f := (·.traceMark p k)) h.served (traceMark_acts h hlow hhigh)
    refine ⟨⟨_, marked_records s p t.words, hacts⟩, fun hp hup hsize hbit => ?_⟩
    subst hp
    rw [marked_root hup hsize hbit] at hacts
    exact hacts
end

section
namespace Sys2Proof.Machine

/-! ### Transactions that arrive (R153, R179, R182, R247, R339) -/

section
variable {s : State} {x : Arrival}

/-- Has a request been performed in the last 50 µs (R247)? -/
def State.performedBefore (s : State) (p : Packet) : Bool :=
  s.recent.any (fun (r : Performed) => r.src == p.src && r.tag == p.tag && r.issue == p.issue && decide (s.time < r.time + 50000))

theorem performedBefore_iff (s : State) (p : Packet) : s.performedBefore p = true ↔
    ∃ r ∈ s.recent, r.src = p.src ∧ r.tag = p.tag ∧ r.issue = p.issue ∧ s.time < r.time + 50000 := by
  simp [State.performedBefore, and_assoc]

theorem performedBefore_not {p : Packet} (h : ∀ r ∈ s.recent, r.src = p.src → r.tag = p.tag → r.issue = p.issue →
    r.time + 50000 ≤ s.time) : s.performedBefore p = false := by
  rw [Bool.eq_false_iff, ne_eq, performedBefore_iff]
  rintro ⟨r, hr, hsrc, htag, hissue, htime⟩
  have := h r hr hsrc htag hissue
  omega

theorem requestArrives_late (h : 2500 < x.age) : s.requestArrives x = s.count Reg.fabLateCnt 31 0 1 := if_pos h

theorem requestArrives_again (h : x.age ≤ 2500) (hdone : s.performedBefore x.pkt = true) : s.requestArrives x =
    if x.pkt.op = 2 then (s.count Reg.fabDupCnt 31 0 1).respond x.pkt 4 x.pkt.addr [] else s.count Reg.fabDupCnt 31 0 1 :=
  (if_neg (Nat.not_lt.2 h)).trans (if_pos hdone)

theorem requestArrives_refused (h : x.age ≤ 2500) (hnew : s.performedBefore x.pkt = false)
    (hbad : s.grantsIn x.pkt (if x.pkt.op = 2 then accInWr else accInRd) = false) : s.requestArrives x = s.refuseIn x.pkt :=
  (if_neg (Nat.not_lt.2 h)).trans ((if_neg (Bool.eq_false_iff.1 hnew)).trans (if_pos (by rw [hbad]; rfl)))

/-- The state with a request recorded as performed, beside those of the last 50 µs. -/
def State.performs (s : State) (p : Packet) : State :=
  { s with recent := s.recent.filter (fun (r : Performed) => decide (s.time < r.time + 50000)) ++ [⟨p.src, p.tag, p.issue, s.time⟩] }

theorem performs_eq (u : State) (p : Packet) (htime : u.time = s.time) (hrecent : u.recent = s.recent) : u.performs p =
    { u with recent := s.recent.filter (fun (r : Performed) => decide (s.time < r.time + 50000)) ++
      [⟨p.src, p.tag, p.issue, s.time⟩] } := by rw [State.performs, htime, hrecent]

theorem requestArrives_written (h : x.age ≤ 2500) (hnew : s.performedBefore x.pkt = false) (hop : x.pkt.op = 2)
    (hgrant : s.grantsIn x.pkt accInWr = true)
    (hpail : (isPail x.pkt.addr && s.isCache (pailUnit x.pkt.addr) (pailRegion x.pkt.addr)) = false) : s.requestArrives x =
      ((s.performs x.pkt).homeWrite x.pkt.addr (packetBytes x.pkt)).respond x.pkt 4 x.pkt.addr [] := by
  unfold State.requestArrives
  refine (if_neg (Nat.not_lt.2 h)).trans ((if_neg (Bool.eq_false_iff.1 hnew)).trans ((if_neg ?_).trans ((if_neg ?_).trans (if_pos hop))))
  · rw [if_pos hop, hgrant]
    exact Bool.false_ne_true
  · rw [hpail]
    exact Bool.false_ne_true

theorem refuseIn_eq (s : State) (p : Packet) : s.refuseIn p =
    (s.modPart p.part (fun x => x.count Reg.mbPartRefused 31 16 1)).sendPacket
      { p with op := 5, src := s.chipId, dest := p.src, addr := 0x223, data := [] } := by
  have hchip : ∀ f, (s.modPart p.part f).chipId = s.chipId := fun f => rfl
  rw [State.refuseIn, State.respond, hchip]

/-- What refuses a request. -/
theorem grantsIn_refused {p : Packet} {acc : Nat} (h : 16 ≤ p.part ∨ s.partState p.part ≠ 1 ∨ 2 ≤ s.fw.powerDown ∨
    s.rangeOwned p.part p.addr (p.len + 1) = false ∨
    (s.part p.part).winGrantsAll (s.chipId * 2 ^ 40 + p.addr) (p.len + 1) acc = false) : s.grantsIn p acc = false := by
  unfold State.grantsIn
  obtain h | h | h | h | h := h
  · rw [decide_eq_false (Nat.not_lt.2 h), Bool.false_and, Bool.false_and, Bool.false_and, Bool.false_and, Bool.false_and]
  · rw [beq_false_of_ne h, Bool.and_false, Bool.false_and, Bool.false_and, Bool.false_and, Bool.false_and]
  · rw [decide_eq_false (Nat.not_lt.2 h), Bool.and_false, Bool.false_and, Bool.false_and, Bool.false_and]
  · rw [h, Bool.and_false, Bool.false_and]
  · rw [h, Bool.and_false]

/-- The state once an arrived packet is treated. -/
def State.withoutArrival (s : State) (x : Arrival) : State := { s with arrivals := s.arrivals.erase x }

theorem withoutArrival_grantsIn (s : State) (x : Arrival) (p : Packet) (acc : Nat) :
    (s.withoutArrival x).grantsIn p acc = s.grantsIn p acc := rfl

theorem withoutArrival_time (s : State) (x : Arrival) : (s.withoutArrival x).time = s.time := by
  rw [State.time, State.time]
  rfl

theorem withoutArrival_recent (s : State) (x : Arrival) : (s.withoutArrival x).recent = s.recent := rfl

theorem withoutArrival_isCache (s : State) (x : Arrival) (a b : Nat) : (s.withoutArrival x).isCache a b = s.isCache a b := rfl

theorem withoutArrival_performed (s : State) (x : Arrival) (p : Packet) :
    (s.withoutArrival x).performedBefore p = s.performedBefore p := by
  rw [State.performedBefore, withoutArrival_time, withoutArrival_recent, State.performedBefore]

/-- The first packet that need not wait is treated. -/
theorem packetArrive_request (hup : s.meshUp = true) (hx : s.arrivals.find? (fun y => !s.arrivalWaits y) = some x)
    (hop : x.pkt.op = 1 ∨ x.pkt.op = 2) : exec .ladlePacketArrive s = .next ((s.withoutArrival x).requestArrives x) := by
  refine congrArg Host.Outcome.next ((if_pos hup).trans ?_)
  unfold State.ladlePacketArrive
  rw [hx]
  exact if_pos hop

end

end Sys2Proof.Machine
end

section
open Sys2Proof Sys2Proof.Machine

/-- Settles O37: a late request is counted, a recorded one is not performed again, a refused one answers with its code, and a
granted write is performed and recorded. -/
theorem arrivingTransactionsAreChecked : Obligations.ArrivingTransactionsAreChecked := by
  intro s x p u acc hup hx hp hu hop
  subst hp
  have hthis : s.withoutArrival x = u := hu.symm
  have hexec := packetArrive_request hup hx (hop.imp And.left And.left)
  have hacc : (if x.pkt.op = 2 then accInWr else accInRd) = acc := by
    obtain ⟨h, rfl⟩ | ⟨h, rfl⟩ := hop <;> rw [h] <;> rfl
  have hgrants : ∀ a, u.grantsIn x.pkt a = s.grantsIn x.pkt a := by
    rw [← hthis]
    exact withoutArrival_grantsIn s x x.pkt
  have hdone : u.performedBefore x.pkt = s.performedBefore x.pkt := by rw [← hthis, withoutArrival_performed]
  have hchip : u.chipId = s.chipId := by rw [← hthis]; rfl
  have htime : u.time = s.time := by rw [← hthis, withoutArrival_time]
  have hrecent : u.recent = s.recent := by rw [← hthis, withoutArrival_recent]
  rw [hthis] at hexec
  refine ⟨fun hlate => ?_, fun hage => ⟨fun hagain => ?_, fun hnew => ⟨fun hbad => ?_, fun hgrant hwrite hpail => ?_⟩⟩⟩
  · rw [hexec, requestArrives_late hlate]
  · rw [hexec, requestArrives_again hage (hdone.trans ((performedBefore_iff s x.pkt).2 hagain))]
  · have hrefused := grantsIn_refused hbad
    rw [hexec, requestArrives_refused hage (hdone.trans (performedBefore_not hnew)) (by rw [hacc, hgrants, hrefused]), refuseIn_eq, hchip]
  · have hin : acc = accInWr := by
      obtain ⟨h, -⟩ | ⟨-, rfl⟩ := hop
      · omega
      · rfl
    rw [hin] at hgrant
    have hcache : (isPail x.pkt.addr && u.isCache (pailUnit x.pkt.addr) (pailRegion x.pkt.addr)) = false := by
      rw [← hthis, withoutArrival_isCache, hpail]
    rw [hexec, requestArrives_written hage (hdone.trans (performedBefore_not hnew)) hwrite (by rw [hgrants, hgrant]) hcache,
      performs_eq u x.pkt htime hrecent]
end

section
namespace Sys2Proof.Machine

section
variable {s : State} {p k : Nat} {t : Taken}

/-! ### Creation (R331) -/

/-- The partition as it is created, before its pair is READY. -/
def State.partMade (s : State) (n : Nat) (cfg : Word) : State :=
  ((s.setPart n (Part.reset.setReg Reg.mbPartCfg cfg)).setSys n .reset).phaseIdle n

theorem partCreate_acts (h : s.InOrder p k 0x100 1 t) (hn : par t.words 0 < 16) (hisol : par t.words 2 ≤ 3)
    (hfree : s.partState (par t.words 0) = 0) (hunits : s.unitsBad t.words = false) : s.partCreate p k =
      ((s.partMade (par t.words 0) (BitVec.ofNat 32 (unitMask (s.askedUnits t.words) + 2 ^ 24 * par t.words 2 + 2 ^ 28))).modPair
        (par t.words 0 + 1)
        (fun x => x.setF Reg.mbStatus 0 0 1)).mbFinish p k 0 [w32 (unitMask (s.askedUnits t.words))] :=
  h.acts _ (bad_passes_cons (decide_eq_false (Nat.not_le.2 hn)) (bad_passes (decide_eq_false (Nat.not_lt.2 hisol))))
    (bad_passes_cons (decide_eq_false (not_not_intro hfree)) (bad_passes hunits))

/-- The records of phases as a partition idles. -/
def State.idleRun (s : State) : PhaseRun := { PhaseRun.reset with since := s.time16 }

theorem phaseIdle_eq (s : State) (n : Nat) : s.phaseIdle n =
    (s.modSys n (fun x => { x with ph := s.idleRun })).modPart n (fun p => p.setF Reg.capPartPhase 2 0 4) := rfl

theorem modSys_modPart_form (s : State) (n : Nat) (f : PartSys → PartSys) (g : Part → Part) :
    ∃ ps sys, (s.modSys n f).modPart n g = { s with parts := ps, partSys := sys } := ⟨_, _, rfl⟩

/-- A partition's phase idles, and its records of phases begin again. -/
theorem phaseIdle_facts (s : State) (n : Nat) : (s.phaseIdle n).part n = (s.part n).setF Reg.capPartPhase 2 0 4 ∧
    (∀ j, j ≠ n → (s.phaseIdle n).part j = s.part j) ∧ (∀ q, (s.phaseIdle n).pair q = s.pair q) ∧
    ∃ ps sys, s.phaseIdle n = { s with parts := ps, partSys := sys } := by
  rw [phaseIdle_eq]
  refine ⟨?_, fun j hj => ?_, fun q => ?_, modSys_modPart_form ..⟩
  · rw [State.modPart_part_same, State.modSys_part]
  · rw [State.modPart_part_ne _ _ hj, State.modSys_part]
  · rw [State.modPart_pair, State.modSys_pair]

theorem partCreate_facts (s : State) (n : Nat) (cfg : Word) {u : State}
    (hu : (s.partMade n cfg).modPair (n + 1) (fun x => x.setF Reg.mbStatus 0 0 1) = u) :
    (u.part n).reg Reg.mbPartCfg = cfg ∧ (u.part n).keys = [] ∧
      (u.part n).f Reg.capPartPhase 2 0 = 4 ∧
      (∀ o, o ≠ Reg.mbPartCfg → o ≠ Reg.capPartPhase → (u.part n).reg o = Part.reset.reg o) ∧ (∀ j, j ≠ n → u.part j = s.part j) ∧
      (u.pair (n + 1)).f Reg.mbStatus 0 0 = 1 ∧ u = { s with parts := u.parts, partSys := u.partSys, pairs := u.pairs } := by
  subst hu
  unfold State.partMade
  obtain ⟨hpart, hother, hpair, ps, sys, hform⟩ :=
    phaseIdle_facts ((s.setPart n (Part.reset.setReg Reg.mbPartCfg cfg)).setSys n .reset) n
  rw [State.setSys_part, State.setPart_part_same] at hpart
  refine ⟨?_, ?_, ?_, fun o hcfg hphase => ?_, fun j hj => ?_, ?_, ?_⟩
  · rw [State.modPair_part, hpart, Part.setF_reg_ne _ _ _ _ (by decide), Part.setReg_reg_same]
  · rw [State.modPair_part, hpart]
    rfl
  · rw [State.modPair_part, hpart, Part.setF_f_same _ _ _ (by decide) (by decide)]
    rfl
  · rw [State.modPair_part, hpart, Part.setF_reg_ne _ _ _ _ hphase, Part.setReg_reg_ne _ _ hcfg]
  · rw [State.modPair_part, hother j hj, State.setSys_part, State.setPart_part_ne _ _ hj]
  · rw [State.modPair_pair_same, Pair.setF_f_same _ _ _ (by decide) (by decide)]
    rfl
  · rw [hform]
    rfl

/-! ### Reset and destruction (R182, R316, R343, R344) -/

theorem partReset_begins (h : s.InOrder p k 0x102 1 t) (hn : par t.words 0 < 16) (hkeep : rqExpert t.words = true → par t.words 1 ≤ 1)
    (hact : s.partState (par t.words 0) = 1) : s.partReset p k =
      (s.resetStart (par t.words 0) (rqExpert t.words && par t.words 1 == 1) false t.words).stay p k 1 [] :=
  (h.acts _ (bad_passes_cons (decide_eq_false (Nat.not_le.2 hn)) (flag01 t.words 1 hkeep))
    (bad_passes (decide_eq_false (not_not_intro hact)))).trans (if_pos h.fresh)

theorem partDestroy_begins (h : s.InOrder p k 0x101 1 t) (hn : par t.words 0 < 16) (hthere : s.partState (par t.words 0) ≠ 0) :
    s.partDestroy p k = (s.resetStart (par t.words 0) false true t.words).stay p k 1 [] :=
  (h.acts _ (bad_passes (decide_eq_false (Nat.not_le.2 hn))) (bad_passes (decide_eq_false hthere))).trans (if_pos h.fresh)

theorem stage_one (h : t.stage = 1) : t.stage ≠ 0 := by omega

theorem partReset_goesOn (h : s.Started p k 0x102 1 t) : s.partReset p k = s.resetGoesOn (par t.words 0) :=
  (h.goes (by decide) _ _ _ _).trans (if_neg (stage_one h.at_))

theorem partDestroy_goesOn (h : s.Started p k 0x101 1 t) : s.partDestroy p k = s.resetGoesOn (par t.words 0) :=
  (h.goes (by decide) _ _ _ _).trans (if_neg (stage_one h.at_))

/-- A reset waits for its traffic, and then zeroes. -/
theorem resetGoesOn_cases (s : State) (n : Nat) : (s.trafficDone n = false → s.resetGoesOn n = s) ∧
    ((s.sys n).rst.step = 1 → s.trafficDone n = true → s.resetGoesOn n = s.resetZeroes n) :=
  ⟨fun hwait => if_neg (by simp [hwait]), fun hstep hdone => if_pos (by simp [hstep, hdone])⟩

theorem resetSteps_records (s : State) (n : Nat) (l : List Nat) : s.RecordsOnly (s.resetSteps n l) :=
  State.RecordsOnly.foldl _ (fun v _ => .tracePart v _ _ _ _) l s

/-- The reset that has zeroed its units, at its end. -/
theorem zeroingDone_eq {n : Nat} {r : ResetRun} (hn : n < 16) (hr : r = (s.sys n).rst) (hstep : r.step = 2)
    (hstate : s.partState n = 2) : ∃ us, s.partResetZeroingDone n =
      let u := (s.resetUnits n r.keepVat).resetSteps n [6, 7, 8]
      if r.destroy then ((u.setPart n .reset).modPair (n + 1) (fun x => x.setF Reg.mbStatus 0 0 0)).resetResponds n 0 []
      else (((u.modPart n (fun p => p.setF Reg.mbPartCfg 30 28 1)).phaseIdle n).drawn).resetResponds n 0 [us] := by
  subst hr
  unfold State.partResetZeroingDone
  rw [if_neg (by simp [Nat.not_le.2 hn, hstep, hstate])]
  exact ⟨_, rfl⟩

theorem partResetTimeout_logs {n : Nat} {r : ResetRun} (hn : n < 16) (hr : r = (s.sys n).rst) (hstep : r.step ≠ 0)
    (hnew : r.logged = false) (hlate : r.bound < (s.time + 2 ^ 64 - r.start) % 2 ^ 64) : s.partResetTimeout n =
      (s.modSys n (fun x => { x with rst := { x.rst with logged := true } })).logOpen 0x0604 Src.root n := by
  subst hr
  unfold State.partResetTimeout
  refine if_neg ?_
  simp only [hnew, Bool.or_eq_true, decide_eq_true_eq, Bool.false_eq_true, or_false, not_or]
  exact ⟨⟨Nat.not_le.2 hn, hstep⟩, Nat.not_le.2 hlate⟩

theorem partBroken_ends {n : Nat} {r : ResetRun} (hn : n < 16) (hr : r = (s.sys n).rst) (hstep : r.step ≠ 0)
    (hlate : 1000000000 ≤ (s.time + 2 ^ 64 - r.start) % 2 ^ 64) : s.partBroken n =
      ((s.modSys n (fun x => { x with svc := .reset, rst := .none })).modPart n (fun x => x.setF Reg.mbPartCfg 30 28 3)).resetResponds
        n 0x604 [] := by
  subst hr
  unfold State.partBroken
  refine if_neg ?_
  simp only [Bool.or_eq_true, decide_eq_true_eq, not_or]
  exact ⟨⟨Nat.not_le.2 hn, hstep⟩, Nat.not_lt.2 hlate⟩

theorem vfFlr_resets {n : Nat} (hup : s.hostUp = true) (hn : n < 16) :
    ((s.abortPair (n + 1) false).modPair (n + 1) Pair.flr).RecordsOnly (s.vfFlr n) := by
  unfold State.vfFlr
  rw [if_neg (by simp [hup, Nat.not_le.2 hn])]
  exact .logSev _ _ _ _ _

/-! ### Windows (R335, R336, R340) -/

/-- The window a request sets. -/
def Part.requestedWindow (x : Part) (w : List Word) : Part := x.setWindow (par w 1) (wBase w) (wSize w) (par w 6) (wPrio w)

/-- A window's request is legal in itself. -/
structure WindowLegal (w : List Word) : Prop where
  part : par w 0 < 16
  index : par w 1 < 16
  base : wBase w % 2 ^ 16 = 0
  size : wSize w % 2 ^ 16 = 0
  access : par w 6 < 64
  low : wBase w < 2 ^ 58
  high : wBase w + wSize w ≤ 2 ^ 58
  prio : wPrio w ≤ 3

theorem windowSet_begins (h : s.InOrder p k 0x103 1 t) (hw : WindowLegal t.words) (hact : s.partState (par t.words 0) = 1)
    (hclash : rqExpert t.words = true ∨ (s.part (par t.words 0)).windowClash (par t.words 1) (wBase t.words) (wSize t.words) = false)
    (hin : s.windowOutside (par t.words 0) (wBase t.words) (wSize t.words) = false) : s.windowSet p k =
      if (s.checkedWork (par t.words 0)).isEmpty then
        (s.modPart (par t.words 0) (·.requestedWindow t.words)).mbFinish p k 0 []
      else (s.modPart (par t.words 0) (·.requestedWindow t.words)).stay p k 1 (s.checkedWork (par t.words 0)) := by
  have hover : (!rqExpert t.words && (s.part (par t.words 0)).windowClash (par t.words 1) (wBase t.words) (wSize t.words)) = false := by
    obtain h | h := hclash <;> simp [h]
  refine (h.acts _ ?_ ?_).trans (if_pos h.fresh)
  · exact bad_passes_cons (decide_eq_false (Nat.not_le.2 hw.part)) <| bad_passes_cons (decide_eq_false (Nat.not_le.2 hw.index)) <|
      bad_passes_cons (decide_eq_false (not_not_intro hw.base)) <| bad_passes_cons (decide_eq_false (not_not_intro hw.size)) <|
      bad_passes_cons (decide_eq_false (Nat.not_le.2 hw.access)) <|
      bad_passes_cons (decide_eq_false (not_or.2 ⟨Nat.not_le.2 hw.low, Nat.not_lt.2 hw.high⟩)) <|
      bad_passes (decide_eq_false (Nat.not_lt.2 hw.prio))
  · exact bad_passes_cons (decide_eq_false (not_not_intro hact)) <| bad_passes_cons hover <| bad_passes hin

/-- None of the work that was checked before is left. -/
theorem windowSet_ends (h : s.Started p k 0x103 1 t) (hnone : ∀ x ∈ s.checkedWork (par t.words 0), x ∉ t.aux) :
    s.windowSet p k = s.mbFinish p k 0 [] := by
  refine (h.goes (by decide) _ _ _ _).trans ((if_neg (stage_one h.at_)).trans (if_neg ?_))
  rw [List.any_eq_true]
  rintro ⟨x, hx, hin⟩
  exact hnone x hx (List.contains_iff_mem.1 hin)

end

end Sys2Proof.Machine
end

section
open Sys2Proof Sys2Proof.Machine

/-- Settles O45: a partition is created ACTIVE, a reset waits, zeroes and ends, and a window applies at once. -/
theorem partitionsBeginAndEnd : Obligations.PartitionsBeginAndEnd := by
  refine ⟨fun s p k t w n hw hn hlt => ?_, fun s n r hn hr => ?_⟩
  · subst hw hn
    refine ⟨fun h hisol hfree hunits m hm => ?_, fun h hkeep hact => congrArg Host.Outcome.next (partReset_begins h hlt hkeep hact),
      fun h hthere => congrArg Host.Outcome.next (partDestroy_begins h hlt hthere), fun c op hc h => ?_,
      fun i base size acc prio hi hbase hsize hacc hprio hilt hb hs ha hlow hhigh hp3 hact hclash hin h u hu => ?_,
      fun h hnone => congrArg Host.Outcome.next (windowSet_ends h hnone)⟩
    · subst hm
      exact ⟨_, congrArg Host.Outcome.next (partCreate_acts h hlt hisol hfree hunits), partCreate_facts s _ _ rfl⟩
    · obtain ⟨hwait, hdone⟩ := resetGoesOn_cases s (par t.words 0)
      have hexec : exec c s = .next (s.resetGoesOn (par t.words 0)) := by
        obtain ⟨rfl, rfl⟩ | ⟨rfl, rfl⟩ := hc
        · exact congrArg Host.Outcome.next (partReset_goesOn h)
        · exact congrArg Host.Outcome.next (partDestroy_goesOn h)
      rw [hexec]
      exact ⟨fun h => congrArg Host.Outcome.next (hwait h), fun h1 h2 => congrArg Host.Outcome.next (hdone h1 h2)⟩
    · subst hi hbase hsize hacc hprio hu
      have hbegins := windowSet_begins h ⟨hlt, hilt, hb, hs, ha, hlow, hhigh, hp3⟩ hact hclash hin
      exact ⟨fun hidle => congrArg Host.Outcome.next (hbegins.trans (if_pos (by rw [hidle]; rfl))),
        fun hwork => congrArg Host.Outcome.next (hbegins.trans (if_neg (by rw [List.isEmpty_iff]; exact hwork)))⟩
  · refine ⟨fun hstep hstate => ⟨_, resetSteps_records _ n [6, 7, 8], ?_⟩,
      fun hstep hnew hlate => ⟨_, congrArg Host.Outcome.next (partResetTimeout_logs hn hr hstep hnew hlate), .logOpen _ _ _ _⟩,
      fun hstep hlate => congrArg Host.Outcome.next (partBroken_ends hn hr hstep hlate),
      fun hup => ⟨_, rfl, vfFlr_resets hup hn⟩⟩
    obtain ⟨us, heq⟩ := zeroingDone_eq hn hr hstep hstate
    exact ⟨fun hd => congrArg Host.Outcome.next (heq.trans (if_pos hd)),
      fun hd => ⟨_, us, .drawn _ _, congrArg Host.Outcome.next (heq.trans (if_neg (by rw [hd]; exact Bool.false_ne_true)))⟩⟩
end

section
namespace Sys2Proof.Machine

section
variable {s : State} {p k c : Nat} {t : Taken}

/-! ### Contexts (R320, R323) -/

theorem ctxTrace_records (s : State) (n c kind o : Nat) : s.RecordsOnly (s.ctxTrace n c kind o) := .tracePart _ _ _ _ _

/-- What a request for a new context asks of it. -/
structure CtxLegal (w : List Word) : Prop where
  rows : 1 ≤ par w 0 ∧ par w 0 ≤ 36
  cols : 1 ≤ par w 1 ∧ par w 1 ≤ 32
  flags : par w 2 ≤ 3
  prio : par w 3 ≤ 3
  rotVat : par w 4 ≤ 248
  origin : originOff (par w 0) (par w 1) (fixedOrigin w 5) = false

/-- A count is one of a range. -/
theorem countBad_false {a b : Nat} (h : 1 ≤ a ∧ a ≤ b) : (a == 0 || decide (b < a)) = false := by
  rw [Bool.or_eq_false_iff, beq_eq_false_iff_ne, decide_eq_false_iff_not]
  omega

/-- The new context, before it is placed. -/
def State.ctxMade (s : State) (n c : Nat) (w : List Word) : State := (s.drawn.setSvcCtx n c (some (makeCtx w))).ctxTrace n c 0 0

theorem ctxMade_records (s : State) (n c : Nat) (w : List Word) :
    (s.setSvcCtx n c (some (makeCtx w))).RecordsOnly (s.ctxMade n c w) :=
  (State.RecordsOnly.drawn (s.setSvcCtx n c (some (makeCtx w))) (s.freeCount + 1)).trans (ctxTrace_records _ _ _ _ _)

theorem ctxCreate_acts (h : s.InOrder p k 0x200 2 t) (hw : CtxLegal t.words)
    (hown : s.originForeign (p - 1) (par t.words 0) (par t.words 1) (fixedOrigin t.words 5) = false)
    (hroom : (s.sys (p - 1)).svc.ctxCount < 32) (hc : c = s.pick (freeNumbers ((s.ctxsOf (p - 1)).map (·.1)) 32)) :
    s.ctxCreate p k = ((s.ctxMade (p - 1) c t.words).tryPlace (p - 1) c (fixedOrigin t.words 5)).placedResponse p k c
      (fun o => [w32 c, w32 o]) := by
  subst hc
  unfold State.ctxCreate
  dsimp only
  refine (h.acts _ ?_ ?_).trans ?_
  · exact bad_passes_cons (countBad_false hw.rows) <| bad_passes_cons (countBad_false hw.cols) <|
      bad_passes_cons (decide_eq_false (Nat.not_lt.2 hw.flags)) <| bad_passes_cons (decide_eq_false (Nat.not_lt.2 hw.prio)) <|
      bad_passes_cons (decide_eq_false (Nat.not_lt.2 hw.rotVat)) <| bad_passes hw.origin
  · exact bad_passes_cons hown <| bad_passes (decide_eq_false (Nat.not_le.2 hroom))
  · simp only [h.fresh, if_true]
    rfl

/-- A context and its queues go. -/
def State.ctxGone (s : State) (n c : Nat) : State :=
  (s.setSvcCtx n c none).modSvc n (fun v => { v with
    queues := v.queues.filter (fun q => match q.2 with | some y => y.ctx != c | none => false) })

theorem ctxDestroy_acts (h : s.InOrder p k 0x201 2 t) (hlt : par t.words 0 < 32) {x : SvcCtx}
    (hx : s.svcCtx (p - 1) (par t.words 0) = some x) (hlaunch : x.launch = none) (hstop : x.stopping = false)
    (hnone : s.launchesOn p (par t.words 0) = []) : s.ctxDestroy p k =
      ((s.ctxGone (p - 1) (par t.words 0)).ctxTrace (p - 1) (par t.words 0) 4 0).mbFinish p k 0 [] := by
  unfold State.ctxDestroy
  dsimp only
  refine h.acts _ (bad_passes (decide_eq_false (Nat.not_le.2 hlt))) ?_
  exact bad_passes_cons (by rw [hx]; rfl) <| bad_passes_cons (by rw [hnone]; rfl) <| bad_passes (by rw [hx]; simp [hlaunch, hstop])

theorem queueCreate_acts (h : s.InOrder p k 0x202 2 t) (hlt : par t.words 0 < 32) (hprio : par t.words 1 ≤ 3) {x : SvcCtx}
    (hx : s.svcCtx (p - 1) (par t.words 0) = some x) (hroom : (s.queuesOf (p - 1)).length < 64) {q : Nat}
    (hq : q = s.pick (freeNumbers ((s.queuesOf (p - 1)).map (·.1)) 64)) : s.queueCreate p k =
      (s.drawn.modSvc (p - 1) (fun v => { v with
        queues := tabSet launchQD v.queues q (some ⟨par t.words 0, par t.words 1⟩) })).mbFinish p k 0 [w32 q] := by
  subst hq
  unfold State.queueCreate
  dsimp only
  exact h.acts _ (bad_passes_cons (decide_eq_false (Nat.not_le.2 hlt)) <| bad_passes (decide_eq_false (Nat.not_lt.2 hprio)))
    (bad_passes_cons (by rw [hx]; rfl) <| bad_passes (decide_eq_false (Nat.not_le.2 hroom)))

theorem queueDestroy_acts (h : s.InOrder p k 0x203 2 t) (hlt : par t.words 0 < 64) (hthere : s.launchQ (p - 1) (par t.words 0) ≠ none) :
    s.queueDestroy p k = (s.modSvc (p - 1) (fun v => { v with
      queues := tabSet launchQD v.queues (par t.words 0) none })).mbFinish p k 0 [] := by
  unfold State.queueDestroy
  dsimp only
  exact h.acts _ (bad_passes (decide_eq_false (Nat.not_le.2 hlt)))
    (bad_passes (Option.isNone_eq_false_iff.mpr (Option.isSome_iff_ne_none.mpr hthere)))

/-! ### Saving and restoring (R322, R323) -/

/-- The tiles of a context that a request names. -/
theorem namedTiles {n c : Nat} {x : SvcCtx} (hx : s.svcCtx n c = some x) : ((s.svcCtx n c).map SvcCtx.tiles).getD [] = x.tiles := by
  rw [hx]
  rfl

theorem ctxSave_begins (h : s.InOrder p k 0x205 2 t) (hlt : par t.words 0 < 32) {x : SvcCtx}
    (hx : s.svcCtx (p - 1) (par t.words 0) = some x) (hstop : x.stopping = false) {o : Nat} (ho : x.origin = some o)
    (hslot : if rqExpert t.words = true then par t.words 1 ≤ 7 ∧ par t.words 1 ∈ s.freeSlots (p - 1) x.tiles
      else s.freeSlots (p - 1) x.tiles ≠ []) : s.ctxSave p k =
      ((s.stopTiles x.tiles 15).1.modSvcCtx (p - 1) (par t.words 0) (fun y => { y with stopping := true })).stay p k 1
        (s.stopTiles x.tiles 15).2 := by
  unfold State.ctxSave
  dsimp only
  refine (h.acts _ (bad_passes_cons (decide_eq_false (Nat.not_le.2 hlt)) (bad_passes ?_))
    (bad_passes_cons ?_ (bad_passes ?_))).trans ?_
  · cases he : rqExpert t.words with
    | false => rfl
    | true =>
      rw [if_pos he] at hslot
      exact decide_eq_false (Nat.not_lt.2 hslot.1)
  · rw [hx]
    simp [ho, hstop]
  · simp only [namedTiles hx]
    cases he : rqExpert t.words with
    | false =>
      rw [if_neg (by rw [he]; exact Bool.false_ne_true)] at hslot
      simpa using hslot
    | true =>
      rw [if_pos he] at hslot
      simpa using hslot.2
  · simp only [h.fresh, if_true, namedTiles hx]

theorem ctxSave_goesOn (h : s.Started p k 0x205 1 t) {x : SvcCtx} (hx : s.svcCtx (p - 1) (par t.words 0) = some x) : s.ctxSave p k =
    if x.tiles.all (s.tileAtRest (p - 1)) then
      (s.drawn.saveCtx (p - 1) (par t.words 0)
        (if rqExpert t.words then par t.words 1 else s.pick (s.freeSlots (p - 1) x.tiles)) t.aux false).mbFinish p k 0
        [w32 (if rqExpert t.words then par t.words 1 else s.pick (s.freeSlots (p - 1) x.tiles))]
    else s := by
  unfold State.ctxSave
  dsimp only
  refine (h.goes (by decide) _ _ _ _).trans ((if_neg (stage_one h.at_)).trans ?_)
  simp only [namedTiles hx]

/-- The origin of a restore: the one given, or the saved one. -/
theorem restoreOrigin {w : List Word} {x : SvcCtx} {slot old : Nat} (hsaved : x.saved = some (slot, old)) :
    (match fixedOrigin w 1 with | some o => some o | none => (some x).bind (fun x => x.saved.map (·.2))) =
      some (if rqExpert w = true then par w 1 else old) := by
  unfold fixedOrigin
  cases rqExpert w with
  | false => simp [hsaved]
  | true => rfl

theorem ctxRestore_begins (h : s.InOrder p k 0x206 2 t) (hlt : par t.words 0 < 32) {x : SvcCtx}
    (hx : s.svcCtx (p - 1) (par t.words 0) = some x) {slot old o : Nat} (hsaved : x.saved = some (slot, old))
    (ho : o = if rqExpert t.words = true then par t.words 1 else old) (hexp : rqExpert t.words = true →
      o < 1152 ∧ originOff x.rows x.cols (some o) = false ∧ s.originForeign (p - 1) x.rows x.cols (some o) = false) :
    s.ctxRestore p k = ((s.modSvcCtx (p - 1) (par t.words 0) (fun y => { y with waiting := true })).tryPlace (p - 1)
      (par t.words 0) (some o)).placedResponse p k (par t.words 0) (fun o => [w32 o]) := by
  have hplace : (originOff x.rows x.cols (fixedOrigin t.words 1) ||
      s.originForeign (p - 1) x.rows x.cols (fixedOrigin t.words 1)) = false := by
    cases he : rqExpert t.words with
    | false =>
      rw [fixedOrigin, he]
      rfl
    | true =>
      obtain ⟨-, hoff, hown⟩ := hexp he
      rw [if_pos he] at ho
      rw [fixedOrigin, if_pos he, ← ho, hoff, hown]
      rfl
  unfold State.ctxRestore
  dsimp only
  refine (h.acts _ (bad_passes_cons (decide_eq_false (Nat.not_le.2 hlt)) (bad_passes ?_))
    (bad_passes_cons ?_ (bad_passes ?_))).trans ?_
  · cases he : rqExpert t.words with
    | false => rfl
    | true =>
      have hlast := (hexp he).1
      rw [ho, if_pos he] at hlast
      exact decide_eq_false (Nat.not_le.2 hlast)
  · rw [hx]
    simp [hsaved]
  · rw [hx]
    exact hplace
  · rw [ho, ← restoreOrigin hsaved]
    simp only [h.fresh, if_true, hx] <;> rfl

end

end Sys2Proof.Machine
end

section
open Sys2Proof Sys2Proof.Machine

/-- Settles O46: contexts and queues take free numbers, and a context is saved at rest and restored where it was. -/
theorem contextsAndQueues : Obligations.ContextsAndQueues := by
  intro s p k t w n c hw hn
  subst hw hn
  refine ⟨fun h hc h0 h36 h1 h32 h2 h3 h4 hoff hown hroom => ⟨_, ctxMade_records s (p - 1) c t.words,
      next_served (f := (·.ctxCreate p k)) h.served (ctxCreate_acts h ⟨⟨h0, h36⟩, ⟨h1, h32⟩, h2, h3, h4, hoff⟩ hown hroom hc)⟩,
    fun hc hlt x hx => ?_,
    fun h hlt hthere => next_served (f := (·.queueDestroy p k)) h.served (queueDestroy_acts h hlt hthere)⟩
  subst hc
  refine ⟨fun h hlaunch hstop hnone => ⟨_, next_served (f := (·.ctxDestroy p k)) h.served (ctxDestroy_acts h hlt hx hlaunch hstop hnone),
      ctxTrace_records _ _ _ _ _⟩,
    fun h hprio hroom q hq => next_served (f := (·.queueCreate p k)) h.served (queueCreate_acts h hlt hprio hx hroom hq),
    fun hstop o ho h hslot => next_served (f := (·.ctxSave p k)) h.served (ctxSave_begins h hlt hx hstop ho hslot),
    fun h => ⟨fun hbusy => ?_, fun hrest slot hslot => ?_⟩,
    fun slot old o hsaved ho h hexp => next_served (f := (·.ctxRestore p k)) h.served (ctxRestore_begins h hlt hx hsaved ho hexp)⟩
  · exact next_served (f := (·.ctxSave p k)) h.served ((ctxSave_goesOn h hx).trans (if_neg (by rw [hbusy]; exact Bool.false_ne_true)))
  · subst hslot
    exact next_served (f := (·.ctxSave p k)) h.served ((ctxSave_goesOn h hx).trans (if_pos hrest))
end

section
namespace Sys2Proof.Machine

section
variable {s : State} {p k c n : Nat} {t : Taken}

/-! ### Launches (R320, R321) -/

/-- A launch that waits on a context: it starts when the context stands, is free, and it is its turn. -/
def State.launchTries (u : State) (p k c : Nat) (w : List Word) : State :=
  match u.svcCtx (p - 1) c with
  | none => u
  | some x =>
    match x.origin with
    | none => u
    | some o =>
      if x.launch.isSome || x.stopping || !u.launchTurn p c k then u
      else if !rqExpert w && !u.hostUp then u.mbFinish p k 0x105 []
      else u.launchStart p k c o x w

theorem launch_acts (h : s.InOrder p k 0x204 2 t) {q : LaunchQ} (hq : s.launchQ (p - 1) (par t.words 0) = some q)
    (hlt : par t.words 0 < 64) (hlen : laLen t.words ≤ 0x9F000) (hpc : laPc t.words < 2 ^ 20) (halign : laPc t.words % 4 = 0)
    (himage : s.imageOff (p - 1) t.words = false) :
    s.launch p k = (s.stay p k 1 [q.ctx]).launchTries p k q.ctx t.words := by
  have hentry : (decide (2 ^ 20 ≤ laPc t.words) || decide (laPc t.words % 4 ≠ 0)) = false := by
    rw [decide_eq_false (Nat.not_le.2 hpc), decide_eq_false (not_not_intro halign)]
    rfl
  unfold State.launch
  dsimp only
  refine (h.acts _ ?_ ?_).trans ?_
  · exact bad_passes_cons (decide_eq_false (Nat.not_le.2 hlt)) <| bad_passes_cons (decide_eq_false (Nat.not_lt.2 hlen)) <|
      bad_passes hentry
  · exact bad_passes_cons (by rw [hq]; rfl) <| bad_passes himage
  · simp only [h.fresh, if_true, hq, Option.map_some, Option.getD_some]
    rw [if_neg (by decide)]
    rfl

theorem launchTries_waits {u : State} {w : List Word} {x : SvcCtx} (hx : u.svcCtx (p - 1) c = some x)
    (hwait : x.origin = none ∨ x.launch ≠ none ∨ x.stopping = true ∨ u.launchTurn p c k = false) :
    u.launchTries p k c w = u := by
  unfold State.launchTries
  simp only [hx]
  split
  next h => rfl
  next o h =>
    refine if_pos ?_
    obtain h0 | h1 | h2 | h3 := hwait
    · exact nomatch h0.symm.trans h
    · simp [Option.isSome_iff_ne_none.2 h1]
    · simp [h2]
    · simp [h3]

theorem launchTries_starts {u : State} {w : List Word} {x : SvcCtx} {o : Nat} (hx : u.svcCtx (p - 1) c = some x)
    (ho : x.origin = some o) (hfree : x.launch = none) (hgo : x.stopping = false) (hturn : u.launchTurn p c k = true)
    (hsrc : rqExpert w = true ∨ u.hostUp = true) : u.launchTries p k c w = u.launchStart p k c o x w := by
  unfold State.launchTries
  simp only [hx, ho]
  rw [if_neg (by simp [hfree, hgo, hturn]), if_neg (by obtain h | h := hsrc <;> simp [h])]

/-- A launch whose tiles have all exited, and whose engines are idle, ends with its results. -/
theorem launchComplete_ends (hn : n < 16) (hup : s.cmdUp (n + 1) = true) (hheld : (s.svcCore n).isSome = true) {x : SvcCtx}
    {l : LaunchRun} (hx : s.svcCtx n c = some x) (hl : x.launch = some l) (hsome : x.tiles ≠ [])
    (hdone : ∀ t ∈ x.tiles, tabGet natD l.exits t ≠ 0 ∧ ∀ e, e < 4 → (s.tile t).idle e = true)
    (hk : (s.pair (n + 1)).taken.findIdx? (fun t => rqOp t.words == 0x204 && t.stage == 2 && t.aux.getD 0 0 == c) = some k) :
    s.launchComplete n c = (s.drawn.modSvcCtx n c (fun y => { y with launch := none })).mbFinish (n + 1) k 0
      (s.launchResults x.tiles l) := by
  have hall : x.tiles.all (fun t => tabGet natD l.exits t != 0 && (List.range 4).all (s.tile t).idle) = true := by
    rw [List.all_eq_true]
    intro t ht
    obtain ⟨hexit, hidle⟩ := hdone t ht
    rw [Bool.and_eq_true, bne_iff_ne, List.all_eq_true]
    exact ⟨hexit, fun e he => hidle e (List.mem_range.1 he)⟩
  unfold State.launchComplete
  rw [if_neg (by simp [Nat.not_le.2 hn, hup]), asService_held hheld]
  simp only [hx, hl]
  rw [if_neg (by rw [hall]; simpa using hsome)]
  have hpair : ((s.drawn.modSvcCtx n c (fun y => { y with launch := none })).pair (n + 1)).taken = (s.pair (n + 1)).taken := rfl
  rw [hpair, hk]

/-! ### Turns and rotation (R324, R325) -/

/-- Does a waiting context find a place, or others that give way to it? -/
def State.hasPlace (s : State) (n : Nat) (y : Nat × SvcCtx) : Bool :=
  (s.findOrigin n y.1 y.2 y.2.fixed).isSome || (s.originOver n y.2 (s.ctxsOf n)).isSome

theorem schedSlice_turn (hn : n < 16) (hact : s.partState n = 1) (hroot : s.rootUp = true) (hup : s.fw.down = false)
    (hheld : (s.svcCore n).isSome = true) : s.schedSlice n =
      match (waitingOrder (s.ctxsOf n)).find? (s.hasPlace n) with
      | none => s
      | some (c, x) =>
        match s.findOrigin n c x x.fixed with
        | some o => s.restoreCtx n c o
        | none =>
          match s.originOver n x (s.ctxsOf n) with
          | none => s
          | some o => ((s.ctxsOf n).filter (fun y => y.2.tiles.any (rectTiles o x.rows x.cols).contains)).foldl
              (fun s y => s.giveWay n y.1) s := by
  unfold State.schedSlice
  rw [if_neg (by simp [Nat.not_le.2 hn, hact, hroot, hup]), asService_held hheld]
  rfl

/-- A context for which there is no place has none that gives way either. -/
theorem noPlace_none (h : ∀ y ∈ waitingOrder (s.ctxsOf n),
    s.findOrigin n y.1 y.2 y.2.fixed = none ∧ s.originOver n y.2 (s.ctxsOf n) = none) :
    (waitingOrder (s.ctxsOf n)).find? (s.hasPlace n) = none := by
  rw [List.find?_eq_none]
  intro y hy
  obtain ⟨hfind, hover⟩ := h y hy
  simp [State.hasPlace, hfind, hover]

theorem rotationPeriod_off (hoff : (s.sys n).svc.rotOff = true) : s.rotationPeriod n = s := by
  unfold State.rotationPeriod
  exact if_pos (by simp [hoff])

/-- The one context of a partition rotates when it asks for it, between launches. -/
theorem rotationPeriod_single (hn : n < 16) (hact : s.partState n = 1) (hroot : s.rootUp = true) (hup : s.fw.down = false)
    (hheld : (s.svcCore n).isSome = true) (hon : (s.sys n).svc.rotOff = false) {x : SvcCtx} (hone : s.ctxsOf n = [(c, x)])
    (hx : s.svcCtx n c = some x) (hgo : x.stopping = false) : s.rotationPeriod n =
      if x.rotate = true ∧ x.launch = none then s.rotateCtx n c x else s := by
  unfold State.rotationPeriod
  rw [if_neg (by simp [Nat.not_le.2 hn, hact, hroot, hup, hon]), asService_held hheld]
  simp only [hone, List.foldl_cons, List.foldl_nil, hx]
  refine if_congr ?_ rfl rfl
  simp [hgo]

end

end Sys2Proof.Machine
end

section
open Sys2Proof Sys2Proof.Machine

/-- Settles O47: a launch waits for its turn, starts, and ends with its results; a slice places the first waiting context
that fits or makes others give way. -/
theorem launchesAndTurns : Obligations.LaunchesAndTurns := by
  refine ⟨fun s p k t w n c q u hw hn hc hq hlt hlen hpc halign himage h hu => ?_,
    fun s n c k x l hn hup hheld hx hl hsome hdone hk => congrArg Host.Outcome.next (launchComplete_ends hn hup hheld hx hl hsome hdone hk),
    fun s n c x hn hact hroot hup hheld => ⟨fun l hl => ?_, fun hoff => congrArg Host.Outcome.next (rotationPeriod_off hoff),
      fun hon hone hx hgo => congrArg Host.Outcome.next (rotationPeriod_single hn hact hroot hup hheld hon hone hx hgo)⟩⟩
  · subst hw hn hc hu
    have hexec : exec (.launch p k) s = .next ((s.stay p k 1 [q.ctx]).launchTries p k q.ctx t.words) :=
      next_served (f := (·.launch p k)) h.served (launch_acts h hq hlt hlen hpc halign himage)
    rw [hexec]
    exact ⟨fun x hx hwait => congrArg Host.Outcome.next (launchTries_waits hx hwait),
      fun x o hx ho hfree hgo hturn hsrc => congrArg Host.Outcome.next (launchTries_starts hx ho hfree hgo hturn hsrc)⟩
  · subst hl
    have hexec : exec (.schedSlice n) s = _ := congrArg Host.Outcome.next (schedSlice_turn hn hact hroot hup hheld)
    refine ⟨fun hfirst => ⟨fun o ho => ?_, fun o hnone hover => ?_⟩, fun hno => ?_⟩
    · have hfound : (waitingOrder (s.ctxsOf n)).find? (s.hasPlace n) = some (c, x) := hfirst
      rw [hfound] at hexec
      simp only [ho] at hexec
      exact hexec
    · have hfound : (waitingOrder (s.ctxsOf n)).find? (s.hasPlace n) = some (c, x) := hfirst
      rw [hfound] at hexec
      simp only [hnone, hover] at hexec
      exact hexec
    · rw [noPlace_none hno] at hexec
      exact hexec
end
